-- ==== Sys2Proof/Word.lean ====
section
/-! DEFINITION. The word types of the MZ-9 and their plainest arithmetic: bytes, 32-bit registers, 64-bit pairs. -/

namespace Sys2Proof

/-- One byte of memory. -/
abbrev Byte := BitVec 8

/-- The contents of a v or k register, a latch, an instruction word (R22, R39). -/
abbrev Word := BitVec 32

/-- A register pair, an address before it is checked, a counter of 64 bits (R23). -/
abbrev DWord := BitVec 64

/-- A 32-bit value as a signed integer: s(x) of R94. -/
abbrev sgn (x : Word) : Int := x.toInt

/-- An unbounded integer taken modulo 2^32 (R94). -/
abbrev wordOfInt (x : Int) : Word := BitVec.ofInt 32 x

/-- A natural number taken modulo 2^32. -/
abbrev word (n : Nat) : Word := BitVec.ofNat 32 n

/-- A natural number taken modulo 2^64. -/
abbrev dword (n : Nat) : DWord := BitVec.ofNat 64 n

/-- The pair whose even register is `lo` and whose odd register is `hi` (R23). -/
abbrev pairOf (lo hi : Word) : DWord := hi ++ lo

/-- Bits [31:0] of a pair. -/
abbrev loOf (x : DWord) : Word := x.extractLsb' 0 32

/-- Bits [63:32] of a pair. -/
abbrev hiOf (x : DWord) : Word := x.extractLsb' 32 32

/-- `x` limited to the range from `lo` to `hi` (R94). -/
abbrev clampInt (x lo hi : Int) : Int := max lo (min x hi)

end Sys2Proof
end

