-- ==== Sys2Proof/Config.lean ====
section
/-! DEFINITION. The fixed figures of the SZT-MZ9-A, and the free values: what the manual leaves to each device or leaves open. -/

namespace Sys2Proof.Config

/-- Compute dies of a package (R1). -/
abbrev dies : Nat := 4
/-- Cores of a die (R1). -/
abbrev coresPerDie : Nat := 40
/-- Cores of a package (R1). -/
abbrev cores : Nat := 160
/-- Sub-cores of a core (R1). -/
abbrev subCores : Nat := 12
/-- Resident slots of a core: 24 of each sub-core (R303). -/
abbrev gangSlots : Nat := 288
/-- Handler slots of a core (R320). -/
abbrev handlerSlots : Nat := 64
/-- Lines of a sub-core's register cache, 256 KiB, and of a core's register backing in blocks 0 to 15 (R1, R252, R253). -/
abbrev regCache : Nat := 2048
abbrev regBacking : Nat := 8192
/-- Requests of a core that may be outstanding at once (R1). -/
abbrev outstanding : Nat := 4096
/-- Context slots of a core (R307). -/
abbrev contextSlots : Nat := 8
/-- Slots of a core's code store (R132). -/
abbrev codeSlots : Nat := 32
/-- Bytes of a code segment (R132). -/
abbrev segBytes : Nat := 0x8000
/-- Vault blocks of a core and bytes of a block (R256). -/
abbrev vaultBlocks : Nat := 128
abbrev blockBytes : Nat := 0x10000
/-- The lowest boundary between cache and scratch blocks (R256). -/
abbrev minBoundary : Nat := 24
/-- Registers (R22). -/
abbrev vRegs : Nat := 128
abbrev kRegs : Nat := 96
/-- Contexts of a package (R35). -/
abbrev contexts : Nat := 4096
/-- Fault records a context's fault queue holds (R323). -/
abbrev faultQueue : Nat := 4096
/-- Package number bound of a pod (R2). -/
abbrev podPackages : Nat := 133
/-- Module ports (R339). -/
abbrev ports : Nat := 12
/-- Ethernet ports (R1, R373). -/
abbrev ethernetPorts : Nat := 8
/-- Links of a port (R339). -/
abbrev links : Nat := 20
/-- Default ageing threshold (R21). -/
abbrev ageMax : Nat := 4096
/-- Instructions a forced path issues (R20). -/
abbrev forcedRun : Nat := 64
/-- Clocks after which an issue slot is contested (R305). -/
abbrev slotHold : Nat := 65536
/-- Lines of 128 B of a home cache of 32 MiB, one for each stack (R265). -/
abbrev stackLines : Nat := 262144
/-- Commands of one ring that the engines hold (R171). -/
abbrev heldCommands : Nat := 16
/-- Tile records that a core caches (R190). -/
abbrev tileCache : Nat := 256
/-- Entries of the core TLB and of the die TLB (R278). -/
abbrev coreTlb : Nat := 4096
abbrev dieTlb : Nat := 65536
/-- Package power limit at reset, in watts (R392). -/
abbrev powerLimit : Nat := 2800
/-- Arithmetic clock in MHz and its floor (R1, R392). -/
abbrev clockMHz : Nat := 3300
abbrev clockFloor : Nat := 1200
/-- Parts of a microsecond in which the model's timer counts (R386): a clock at any of the clock rates is a whole number of them. -/
abbrev timerParts : Nat := 14440355289360000

/-! Free values. Each is opaque: no proof can see its value. -/

/-- FREE. For each result pattern of an inexact RSQ the operand from which on the device delivers at least that result, as a key that grows with the result (R111: monotonic, the same bits on every device). Log entry 11. -/
opaque rsqFrom : Nat → Nat
/-- FREE. The same for EX2 (R111). Log entry 11. -/
opaque ex2From : Nat → Nat
/-- FREE. The same for LG2 (R111). Log entry 11. -/
opaque lg2From : Nat → Nat
/-- FREE. The same for the magnitude of TANH (R111). Log entry 11. -/
opaque tanhFrom : Nat → Nat
/-- FREE. The vault-cache way that a fill replaces when every way of its set is valid (R259), from the free counter. Log entry 12. -/
opaque victimWay : Nat → Nat
/-- FREE. The line that a register cache or a register backing evicts among those that may go (R253, R254), from the free counter. Log entry 12. -/
opaque victimLine : Nat → Nat
/-- FREE. A byte of control space whose place in the map the manual does not give (R378), from its offset and the free counter. Log entry 13. -/
opaque controlByte : Nat → Nat → Byte
/-- FREE. The contents of an SPDM response that the manual names but does not give (R389), from the request's number, the device key and the free counter. Log entry 14. -/
opaque spdmResponse : Nat → BitVec 384 → Nat → List Byte
/-- FREE. The device key that Beryl derives from the fused unique secret and MR0 to MR6 (R389); the secret is the package's own. Log entry 14. -/
opaque deviceKey : List (BitVec 384) → BitVec 384
/-- FREE. An ECDSA P-384 signature under a key over some bytes (R389), from the free counter. Log entry 14. -/
opaque signature : BitVec 384 → List Byte → Nat → List Byte
/-- FREE. A key that Beryl conditions from entropy samples (R386), from the free counter. Log entry 15. -/
opaque keyBits : Nat → BitVec 512
/-- FREE. The key of world 0, which Beryl has from package reset on (R382). Log entry 15. -/
opaque keyZero : BitVec 512
/-- FREE. The fault class (low byte) and subcode that PGQRY reports for a remote leaf, at which a reading access takes no fault (R225, R282), from the leaf. Log entry 17. -/
opaque remoteQuery : BitVec 64 → BitVec 16
/-- FREE. What a register lost to an uncorrectable error holds until it is written (R255), from the free counter. Log entry 18. -/
opaque lostWord : Nat → Word
/-- FREE. The digest of the ROM, which is fused (R388). Log entry 19. -/
opaque romDigest : BitVec 384
/-- FREE. The digest of the fuse state and of the security versions of the images (R388). Log entry 19. -/
opaque fuseDigest : List Nat → BitVec 384
/-- FREE. What MR7 is extended with at a control-plane ownership change (R388), from EPOCH and the new owner. Log entry 20. -/
opaque ownerDigest : Nat → Nat → BitVec 384
/-- FREE. The capacity that a module behind no port of this package has reported (R270). Log entry 21. -/
opaque moduleCapacity : Nat → Nat
/-- FREE. Whether another package refuses a request that it is asked to relay (its relay table and the worlds its dies admit are state of that package, R361, R408): relay package, free counter, world, module, module address, length. Log entry 21. -/
opaque relayRefuses : Nat → Nat → Nat → Nat → Nat → Nat → Bool

end Sys2Proof.Config
end

