-- ==== Sys2Proof/Machine/Float.lean ====
section
/-! DEFINITION. Number formats and their exact arithmetic (R66 to R91): floating-point values as exact dyadic numbers, the one rounding, flags, the Q8 and Q4 groups, the plane-group format and the wide reduction forms. -/

namespace Sys2Proof.Machine

/-! ## Formats, modes and flags -/

/-- A binary floating-point format (R66): fraction bits and exponent bits. -/
structure Fmt where
  frac : Nat
  exps : Nat
  deriving DecidableEq, Repr

/-- FP32 (R66). -/
def fp32 : Fmt := ⟨23, 8⟩
/-- BF16 (R66). -/
def bf16 : Fmt := ⟨7, 8⟩
/-- FP16 (R66). -/
def fp16 : Fmt := ⟨10, 5⟩

/-- The exponent field of all ones. -/
def Fmt.expMax (f : Fmt) : Nat := 2 ^ f.exps - 1
/-- The exponent bias. -/
def Fmt.bias (f : Fmt) : Int := 2 ^ (f.exps - 1) - 1
/-- The exponent of the smallest normal number (R71). -/
def Fmt.emin (f : Fmt) : Int := 1 - f.bias
/-- The weight exponent of the subnormal step. -/
def Fmt.step (f : Fmt) : Int := f.emin - f.frac
/-- The pattern of an infinity, without its sign. -/
def Fmt.infBits (f : Fmt) : Nat := f.expMax * 2 ^ f.frac
/-- The largest finite pattern, without its sign. -/
def Fmt.maxBits (f : Fmt) : Nat := f.infBits - 1
/-- The canonical NaN (R68). -/
def Fmt.nanBits (f : Fmt) : Nat := f.infBits + 2 ^ (f.frac - 1)
/-- The sign bit. -/
def Fmt.signBit (f : Fmt) : Nat := 2 ^ (f.frac + f.exps)
/-- The sign bit of a negative value. -/
def Fmt.sign (f : Fmt) (neg : Bool) : Nat := if neg then f.signBit else 0

/-- A rounding mode: the RND field of HX.EXT (R51, R69). -/
inductive Rnd where
  | rne
  | rtz
  | rup
  | rdn
  deriving DecidableEq, Repr

/-- The mode of an RND field. -/
def rndOf (n : Nat) : Rnd := if n = 0 then .rne else if n = 1 then .rtz else if n = 2 then .rup else .rdn

/-- FPSTATUS[4:0] of each flag (R26). -/
def flagNV : Nat := 16
def flagDZ : Nat := 8
def flagOF : Nat := 4
def flagUF : Nat := 2
def flagNX : Nat := 1

/-- A flag raised under a condition. -/
def flagIf (c : Bool) (f : Nat) : Nat := if c then f else 0

/-- A delivered pattern with the flags raised (R71). -/
structure FRes where
  bits : Nat
  flags : Nat
  deriving DecidableEq, Repr

/-- A floating-point value (R67): `num neg m e` is m times 2^e, negative where `neg`; m = 0 is a signed zero. -/
inductive FVal where
  | nan (signalling : Bool)
  | inf (neg : Bool)
  | num (neg : Bool) (m : Nat) (e : Int)
  deriving DecidableEq, Repr

/-- The value of a pattern (R67). -/
def Fmt.value (f : Fmt) (x : Nat) : FVal :=
  let neg := x / f.signBit % 2 == 1
  let ex := x / 2 ^ f.frac % 2 ^ f.exps
  let fr := x % 2 ^ f.frac
  if ex = f.expMax then
    if fr = 0 then .inf neg else .nan (fr / 2 ^ (f.frac - 1) == 0)
  else if ex = 0 then .num neg fr f.step
  else .num neg (2 ^ f.frac + fr) (f.step + ex - 1)

/-- A signalling NaN. -/
def FVal.isSNaN : FVal → Bool
  | .nan s => s
  | _ => false

/-- A NaN. -/
def FVal.isNaN : FVal → Bool
  | .nan _ => true
  | _ => false

/-- NV where a signalling NaN is among the operands (R68). -/
def snanFlag (xs : List FVal) : Nat := flagIf (xs.any FVal.isSNaN) flagNV

/-! ## Rounding (R69 to R71) -/

/-- Whether a magnitude cut at an integer goes up to the next integer: `cut` compares the discarded part with one half (0 nothing discarded, 1 below, 2 equal, 3 above). -/
def roundsUp (mode : Rnd) (neg odd : Bool) (cut : Nat) : Bool :=
  match mode with
  | .rne => cut == 3 || (cut == 2 && odd)
  | .rtz => false
  | .rup => cut != 0 && !neg
  | .rdn => cut != 0 && neg

/-- The discarded part `rem` of `den`, with a sticky part below it, compared with one half. -/
def cutOf (rem den : Nat) (sticky : Bool) : Nat :=
  if rem = 0 then (if sticky then 1 else 0)
  else if 2 * rem < den then 1
  else if 2 * rem = den then (if sticky then 3 else 2)
  else 3

/-- A magnitude `num / den` selected at an integer, with whether something was discarded. -/
def roundRatio (mode : Rnd) (neg : Bool) (num den : Nat) (sticky : Bool) : Nat × Bool :=
  let k := num / den
  let c := cutOf (num % den) den sticky
  ((if roundsUp mode neg (k % 2 == 1) c then k + 1 else k), c != 0)

/-- The magnitude m times 2^e selected at a multiple of 2^q. -/
def roundAt (mode : Rnd) (neg : Bool) (m : Nat) (e q : Int) (sticky : Bool) : Nat × Bool :=
  if q ≤ e then (m * 2 ^ (e - q).toNat, sticky)
  else roundRatio mode neg m (2 ^ (q - e).toNat) sticky

/-- What an overflow delivers, without its sign (R69). -/
def Fmt.overflow (f : Fmt) (mode : Rnd) (neg : Bool) : Nat :=
  match mode with
  | .rne => f.infBits
  | .rtz => f.maxBits
  | .rup => if neg then f.maxBits else f.infBits
  | .rdn => if neg then f.infBits else f.maxBits

/-- The quantum exponent of a value whose leading bit weighs 2^top. -/
def Fmt.quantum (f : Fmt) (top : Int) : Int := max (top - f.frac) f.step

/-- The pattern of k times 2^q, where q is the quantum exponent of the format, or the number is too large for the format. -/
def Fmt.pack (f : Fmt) (k : Nat) (q : Int) : Nat :=
  if k < 2 ^ f.frac then k
  else (q - f.step + 1).toNat * 2 ^ f.frac + (k - 2 ^ f.frac)

/-- Round(x, fmt, mode) of a nonzero exact x, or of the sign of a zero (R69, R70), with the flags OF, UF and NX (R71). The exact value is m times 2^e, plus less than 2^e where `sticky`; a sticky value carries at least two bits more than the format's precision. -/
def Fmt.round (f : Fmt) (mode : Rnd) (neg : Bool) (m : Nat) (e : Int) (sticky : Bool) : FRes :=
  if m = 0 then ⟨f.sign neg + 0, 0⟩
  else
    let top : Int := e + Nat.log2 m
    let q := f.quantum top
    let r := roundAt mode neg m e q sticky
    let free := roundAt mode neg m e (top - f.frac) sticky
    let tiny := decide (top < f.emin) && !(free.1 == 2 ^ (f.frac + 1) && decide (top + 1 = f.emin))
    let p := f.pack r.1 q
    if f.infBits ≤ p then ⟨f.sign neg + f.overflow mode neg, flagOF + flagNX⟩
    else ⟨f.sign neg + p, flagIf (tiny && r.2) flagUF + flagIf r.2 flagNX⟩

/-- A signed integer times 2^e, rounded; an exact zero is given the sign `zneg`. -/
def Fmt.roundInt (f : Fmt) (mode : Rnd) (zneg : Bool) (x : Int) (e : Int) : FRes :=
  if x = 0 then ⟨f.sign zneg, 0⟩ else f.round mode (decide (x < 0)) x.natAbs e false

/-- The canonical NaN with flags. -/
def Fmt.nan (f : Fmt) (flags : Nat) : FRes := ⟨f.nanBits, flags⟩

/-- An infinity, exact. -/
def Fmt.inf (f : Fmt) (neg : Bool) : FRes := ⟨f.sign neg + f.infBits, 0⟩

/-- Round of a value: the conversions between formats (R72). -/
def Fmt.ofVal (f : Fmt) (mode : Rnd) : FVal → FRes
  | .nan s => f.nan (flagIf s flagNV)
  | .inf neg => f.inf neg
  | .num neg m e => f.round mode neg m e false

/-! ## Exact operations -/

/-- The signed significand of a value at exponent `q`, q at most its own. -/
def alignTo (neg : Bool) (m : Nat) (e q : Int) : Int :=
  let k : Int := (m * 2 ^ (e - q).toNat : Nat)
  if neg then -k else k

/-- The sign of an exact zero sum of two terms (R70). -/
def zeroSumNeg (mode : Rnd) (n1 : Bool) (z1 : Bool) (n2 : Bool) (z2 : Bool) : Bool :=
  if z1 && z2 && n1 == n2 then n1 else mode == .rdn

/-- The exact sum of two values, rounded once (R107). `flags` are the flags raised by the operands. -/
def Fmt.sum (f : Fmt) (mode : Rnd) (flags : Nat) : FVal → FVal → FRes
  | .nan _, _ => f.nan flags
  | _, .nan _ => f.nan flags
  | .inf a, .inf b => if a = b then ⟨f.sign a + f.infBits, flags⟩ else f.nan (flags ||| flagNV)
  | .inf a, .num _ _ _ => ⟨f.sign a + f.infBits, flags⟩
  | .num _ _ _, .inf b => ⟨f.sign b + f.infBits, flags⟩
  | .num n1 m1 e1, .num n2 m2 e2 =>
    let q := min e1 e2
    let r := f.roundInt mode (zeroSumNeg mode n1 (m1 == 0) n2 (m2 == 0)) (alignTo n1 m1 e1 q + alignTo n2 m2 e2 q) q
    ⟨r.bits, flags ||| r.flags⟩

/-- The negation of a value. -/
def FVal.negate : FVal → FVal
  | .nan s => .nan s
  | .inf n => .inf (!n)
  | .num n m e => .num (!n) m e

/-- The exact product of two values; none for the invalid product of zero and infinity (R71). -/
def FVal.mul : FVal → FVal → Option FVal
  | .nan s, .nan t => some (.nan (s || t))
  | .nan s, _ => some (.nan s)
  | _, .nan s => some (.nan s)
  | .inf a, .inf b => some (.inf (a != b))
  | .inf a, .num b m _ => if m = 0 then none else some (.inf (a != b))
  | .num a m _, .inf b => if m = 0 then none else some (.inf (a != b))
  | .num a m e, .num b n g => some (.num (a != b) (m * n) (e + g))

/-- A + B (R107, R113). -/
def Fmt.add (f : Fmt) (mode : Rnd) (a b : Nat) : FRes :=
  f.sum mode (snanFlag [f.value a, f.value b]) (f.value a) (f.value b)

/-- A − B (R107). -/
def Fmt.sub (f : Fmt) (mode : Rnd) (a b : Nat) : FRes :=
  f.sum mode (snanFlag [f.value a, f.value b]) (f.value a) (f.value b).negate

/-- A · B (R107, R113). -/
def Fmt.mul (f : Fmt) (mode : Rnd) (a b : Nat) : FRes :=
  let s := snanFlag [f.value a, f.value b]
  match (f.value a).mul (f.value b) with
  | none => f.nan (s ||| flagNV)
  | some (.nan _) => f.nan s
  | some v => f.ofVal mode v

/-- C + A · B, rounded once (R107, R113). -/
def Fmt.fma (f : Fmt) (mode : Rnd) (a b c : Nat) : FRes :=
  let s := snanFlag [f.value a, f.value b, f.value c]
  match (f.value a).mul (f.value b) with
  | none => f.nan (s ||| flagNV)
  | some p => f.sum mode s (f.value c) p

/-- A signed key that orders numbers and infinities as their values, −0 with +0. -/
def FVal.less : FVal → FVal → Bool
  | .nan _, _ => false
  | _, .nan _ => false
  | .inf a, .inf b => a && !b
  | .inf a, .num _ _ _ => a
  | .num _ _ _, .inf b => !b
  | .num n1 m1 e1, .num n2 m2 e2 =>
    decide (alignTo n1 m1 e1 (min e1 e2) < alignTo n2 m2 e2 (min e1 e2))

/-- The values are equal; −0 equals +0, a NaN equals nothing. -/
def FVal.same : FVal → FVal → Bool
  | .nan _, _ => false
  | _, .nan _ => false
  | .inf a, .inf b => a == b
  | .inf _, .num _ _ _ => false
  | .num _ _ _, .inf _ => false
  | .num n1 m1 e1, .num n2 m2 e2 =>
    decide (alignTo n1 m1 e1 (min e1 e2) = alignTo n2 m2 e2 (min e1 e2))

/-- The sign of a value. -/
def FVal.isNeg : FVal → Bool
  | .nan _ => false
  | .inf n => n
  | .num n _ _ => n

/-- IEEE minimumNumber (`big` false) or maximumNumber (`big` true) of R108: −0 lies below +0. -/
def Fmt.extreme (f : Fmt) (big : Bool) (a b : Nat) : FRes :=
  let x := f.value a
  let y := f.value b
  let s := snanFlag [x, y]
  if x.isNaN && y.isNaN then f.nan s
  else if x.isNaN then ⟨b, s⟩
  else if y.isNaN then ⟨a, s⟩
  else
    let aFirst := x.less y || (x.same y && x.isNeg && !y.isNeg)
    ⟨if aFirst != big then a else b, s⟩

/-- FSEQ, FSLT, FSLE (R109): `anyNaN` says that any NaN raises NV. -/
def compareRes (anyNaN : Bool) (x y : FVal) (holds : Bool) : FRes :=
  let nan := x.isNaN || y.isNaN
  ⟨if holds && !nan then 1 else 0, flagIf ((anyNaN && nan) || x.isSNaN || y.isSNaN) flagNV⟩

/-! ## Reciprocal and square root, correctly rounded (R110) -/

/-- The largest r below 2^k with r² ≤ n, found from the top bit down. -/
def isqrtFrom (n : Nat) : Nat → Nat → Nat
  | 0, r => r
  | k + 1, r => if (r + 2 ^ k) * (r + 2 ^ k) ≤ n then isqrtFrom n k (r + 2 ^ k) else isqrtFrom n k r

/-- The integer square root. -/
def isqrt (n : Nat) : Nat := isqrtFrom n (Nat.log2 n / 2 + 1) 0

/-- num / den as a value with 64 or more bits: significand, exponent, and whether something lies below. -/
def ratio (num den : Nat) : Nat × Int × Bool :=
  let k := Nat.log2 den + 512
  (num * 2 ^ k / den, -(k : Int), num * 2 ^ k % den != 0)

/-- RCP (R110). -/
def Fmt.recip (f : Fmt) (mode : Rnd) (a : Nat) : FRes :=
  match f.value a with
  | .nan s => f.nan (flagIf s flagNV)
  | .inf n => ⟨f.sign n, 0⟩
  | .num n m e =>
    if m = 0 then ⟨f.sign n + f.infBits, flagDZ⟩
    else
      let r := ratio 1 m
      f.round mode n r.1 (r.2.1 - e) r.2.2

/-- The square root of m times 2^e with 64 or more bits. -/
def rootOf (m : Nat) (e : Int) : Nat × Int × Bool :=
  let m := if e % 2 = 0 then m else 2 * m
  let e := if e % 2 = 0 then e else e - 1
  let n := m * 2 ^ 160
  let r := isqrt n
  (r, e / 2 - 80, r * r != n)

/-- SQRT (R110). -/
def Fmt.sqrt (f : Fmt) (mode : Rnd) (a : Nat) : FRes :=
  match f.value a with
  | .nan s => f.nan (flagIf s flagNV)
  | .inf n => if n then f.nan flagNV else f.inf false
  | .num n m e =>
    if m = 0 then ⟨f.sign n, 0⟩
    else if n then f.nan flagNV
    else
      let r := rootOf m e
      f.round mode false r.1 r.2.1 r.2.2

/-! ## The approximate functions (R111) -/

/-- The result pattern that a device delivers where `down` is the truncated exact result: one of those within 2 ulp, whether an ulp is taken at the exact result or at the delivered one: two steps up, or one where the first comes to a power of two, and one step down, or none from a power of two. `from_` gives for a result the operand from which on it is reached, which makes the function monotonic. -/
def climb (from_ : Nat → Nat) (key down : Nat) : Nat :=
  if (down + 1) % 2 ^ 23 ≠ 0 ∧ from_ (down + 2) ≤ key then down + 2
  else if from_ (down + 1) ≤ key then down + 1
  else if from_ down ≤ key ∨ down % 2 ^ 23 = 0 then down
  else down - 1

/-- An inexact result: one of the four values within 2 ulp, between those at the exact points on either side (`lo`, `hi`), with NX, and UF where the exact value lies below 2^−126. `key` grows with the magnitude of the result. -/
def approx (neg : Bool) (m : Nat) (e : Int) (from_ : Nat → Nat) (key lo hi : Nat) : FRes :=
  let down := (fp32.round .rtz false m e true).bits
  let least := fun (v : Nat) => from_ (fp32.sign neg + v)
  ⟨fp32.sign neg + max lo (min (climb least key down) hi), flagNX + ((fp32.round .rne false m e true).flags &&& flagUF)⟩

/-- The pattern of a power of two; the largest finite one above the range, zero below it. -/
def powerBits (p : Int) : Nat := (fp32.round .rtz false 1 p false).bits

/-- The pattern of a small integer. -/
def wholeBits (n : Nat) : Nat := (fp32.round .rne false n 0 false).bits

/-- Fraction bits of the fixed-point sums below. -/
def fixBits : Nat := 256

/-- The natural logarithm of 2, times 2^256, cut to an integer. -/
def ln2Fix : Nat := 80260960185991308862233904206310070533990667611589946606122867505419956976171

/-- Σ y^n / n! from n on, in fixed point: `t` is the current term. -/
def expSeries (y : Nat) : Nat → Nat → Nat → Nat → Nat
  | 0, _, _, acc => acc
  | k + 1, n, t, acc => expSeries y k (n + 1) (t * y / 2 ^ fixBits / (n + 1)) (acc + t)

/-- 2^(x / 2^256) for x below 2^256, in fixed point: a value from 1 up to 2. -/
def exp2Fix (x : Nat) : Nat := expSeries (x * ln2Fix / 2 ^ fixBits) 70 0 (2 ^ fixBits) 0

/-- The binary digits of the logarithm of x in [1, 2), in fixed point, one squaring each. -/
def log2Digits : Nat → Nat → Nat → Nat
  | 0, _, acc => acc
  | k + 1, x, acc =>
    let y := x * x / 2 ^ fixBits
    if 2 ^ (fixBits + 1) ≤ y then log2Digits k (y / 2) (2 * acc + 1) else log2Digits k y (2 * acc)

/-- m times 2^e in fixed point, cut toward zero. -/
def toFix (m : Nat) (e : Int) : Nat :=
  if 0 ≤ e + fixBits then m * 2 ^ (e + fixBits).toNat else m / 2 ^ (-(e + fixBits)).toNat

/-- A number m times 2^e is an integer. -/
def isIntegral (m : Nat) (e : Int) : Bool :=
  decide (0 ≤ e) || m % 2 ^ (-e).toNat == 0

/-- m times 2^e is a power of two; its exponent. -/
def powerExp (m : Nat) (e : Int) : Option Int :=
  if m = 2 ^ Nat.log2 m then some (e + Nat.log2 m) else none

/-- RSQ (R111). -/
def rsqRes (x : Word) : FRes :=
  match fp32.value x.toNat with
  | .nan s => fp32.nan (flagIf s flagNV)
  | .inf n => if n then fp32.nan flagNV else ⟨0, 0⟩
  | .num n m e =>
    if m = 0 then ⟨fp32.infBits, flagDZ⟩
    else if n then fp32.nan flagNV
    else
      match powerExp m e with
      | some p =>
        if p % 2 = 0 then fp32.round .rne false 1 (-(p / 2)) false
        else approx false (isqrt (2 ^ 201)) (-(p / 2) - 101) Config.rsqFrom (2 ^ 32 - x.toNat) (powerBits (-(p / 2) - 1)) (powerBits (-(p / 2)))
      | none =>
        let even := e % 2 = 0
        let q := 2 ^ 240 / (if even then m else 2 * m)
        let p : Int := (e + Nat.log2 m) / 2
        approx false (isqrt q) (-((if even then e else e - 1) / 2) - 120) Config.rsqFrom (2 ^ 32 - x.toNat) (powerBits (-p - 1)) (powerBits (-p))

/-- EX2 (R111). -/
def ex2Res (x : Word) : FRes :=
  match fp32.value x.toNat with
  | .nan s => fp32.nan (flagIf s flagNV)
  | .inf n => if n then ⟨0, 0⟩ else fp32.inf false
  | .num n m e =>
    if m = 0 then ⟨0x3F800000, 0⟩
    else
      let tops : Int := e + Nat.log2 m
      let key := if n then 2 ^ 32 - x.toNat else 2 ^ 31 + x.toNat
      if 7 ≤ tops ∧ n = false then ⟨fp32.infBits, flagOF + flagNX⟩
      else if 8 ≤ tops then approx false 1 (-300) Config.ex2From key 0 1
      else
        let fixed := toFix m e
        let whole : Int := fixed / 2 ^ fixBits
        let part := fixed % 2 ^ fixBits
        if isIntegral m e && decide (whole ≤ 149) then fp32.round .rne false 1 (if n then -whole else whole) false
        else
          let k : Int := if n then -whole - 1 else whole
          let y := if n then 2 ^ fixBits - part - (if part = 0 then 1 else 0) else part
          approx false (exp2Fix y) (k - fixBits) Config.ex2From key (powerBits k) (if k < -149 then 1 else powerBits (k + 1))

/-- LG2 (R111). -/
def lg2Res (x : Word) : FRes :=
  match fp32.value x.toNat with
  | .nan s => fp32.nan (flagIf s flagNV)
  | .inf n => if n then fp32.nan flagNV else fp32.inf false
  | .num n m e =>
    if m = 0 then ⟨fp32.signBit + fp32.infBits, flagDZ⟩
    else if n then fp32.nan flagNV
    else
      match powerExp m e with
      | some p => fp32.roundInt .rne false p 0
      | none =>
        let top := Nat.log2 m
        let digits := log2Digits 128 (m * 2 ^ (fixBits - top)) 0
        let v : Int := (e + top) * 2 ^ 128 + digits
        let p : Int := e + top
        if v < 0 then approx true v.natAbs (-128) Config.lg2From (2 ^ 32 - x.toNat) (wholeBits (p + 1).natAbs) (wholeBits p.natAbs)
        else approx false v.natAbs (-128) Config.lg2From x.toNat (wholeBits p.natAbs) (wholeBits (p + 1).natAbs)

/-- TANH (R111): odd, at most 1 in magnitude. -/
def tanhRes (x : Word) : FRes :=
  match fp32.value x.toNat with
  | .nan s => fp32.nan (flagIf s flagNV)
  | .inf n => ⟨fp32.sign n + 0x3F800000, 0⟩
  | .num n m e =>
    if m = 0 then ⟨fp32.sign n, 0⟩
    else
      let key := x.toNat % 2 ^ 31
      let from_ := fun (v : Nat) => Config.tanhFrom (v % 2 ^ 31)
      let top : Int := e + Nat.log2 m
      if 6 ≤ top then approx n (2 ^ 64 - 1) (-64) from_ key 0 0x3F800000
      else if top < -40 then approx n (m * 2 ^ 64 - 1) (e - 64) from_ key 0 0x3F800000
      else
        let z := 2 * toFix m e * 2 ^ fixBits / ln2Fix
        let p := exp2Fix (z % 2 ^ fixBits) * 2 ^ (z / 2 ^ fixBits)
        let num := (p - 2 ^ fixBits) * 2 ^ fixBits
        approx n (num / (p + 2 ^ fixBits)) (-(fixBits : Int)) from_ key 0 0x3F800000

/-! ## Integral values and conversions (R112, R114) -/

/-- The integral magnitude selected from m times 2^e, with whether it differs. -/
def integralOf (mode : Rnd) (neg : Bool) (m : Nat) (e : Int) : Nat × Bool := roundAt mode neg m e 0 false

/-- FLOOR and FRINT (R112): `nx` says whether a changed value raises NX. -/
def integralRes (mode : Rnd) (nx : Bool) (x : Nat) : FRes :=
  match fp32.value x with
  | .nan s => fp32.nan (flagIf s flagNV)
  | .inf n => fp32.inf n
  | .num n m e =>
    let r := integralOf mode n m e
    ⟨(fp32.round .rne n r.1 0 false).bits, flagIf (nx && r.2) flagNX⟩

/-- F2I and each half of F2N (R114, R115): to a signed integer of `w` bits. -/
def toIntRes (w : Nat) (mode : Rnd) (sat : Bool) (x : Nat) : FRes :=
  let low : Nat := 2 ^ (w - 1)
  match fp32.value x with
  | .nan _ => ⟨if sat then 0 else low, flagNV⟩
  | .inf n => if sat then ⟨if n then low else low - 1, flagNX⟩ else ⟨low, flagNV⟩
  | .num n m e =>
    let r := integralOf mode n m e
    let fits := if n then r.1 ≤ low else r.1 < low
    if fits then ⟨if n then (2 * low - r.1) % (2 * low) else r.1, flagIf r.2 flagNX⟩
    else if sat then ⟨if n then low else low - 1, flagNX⟩
    else ⟨low, flagNV⟩

/-- Round of a signed integer to FP32 (I2F, N2F). -/
def ofIntRes (mode : Rnd) (x : Int) : FRes := fp32.roundInt mode false x 0

/-! ## Groups of quantized elements (R74 to R77) -/

/-- A metadata word is malformed (R75); `q4` on a Q4 page or under DQ4. -/
def metaBad (q4 : Bool) (w : Word) : Bool :=
  w.toNat / 2 ^ 24 != 0 || (w.toNat / 2 ^ 10 % 32 == 31) || (q4 && decide (15 < w.toNat / 2 ^ 16 % 256))

/-- scale · (q − z), exact in FP32 (R76). -/
def dequant (w : Word) (q : Nat) : Nat :=
  let z : Nat := w.toNat / 2 ^ 16 % 256
  let d : Int := (q : Int) - z
  match fp16.value (w.toNat % 2 ^ 16) with
  | .num n m e => (fp32.round .rne (n != decide (d < 0)) (m * d.natAbs) e false).bits
  | _ => fp32.nanBits

/-- RoundInt of num / den by RNE, den above 0. -/
def rneDiv (num : Int) (den : Nat) : Int :=
  let r := (roundRatio .rne (decide (num < 0)) num.natAbs den false).1
  if num < 0 then -(r : Int) else r

/-- A quantized group (R77): scale pattern, zero point, elements, whether the scale was limited. -/
structure QGroup where
  scale : Nat
  zero : Nat
  qs : List Nat
  limited : Bool
  exact : List Bool
  deriving DecidableEq, Repr

/-- The quantize rule R77 for elements that are integers times 2^−u, to `b` bits. -/
def quantize (u b : Nat) (xs : List Int) : QGroup :=
  let mn := xs.foldl min 0
  let mx := xs.foldl max 0
  let qmax : Nat := 2 ^ b - 1
  if mx = mn then ⟨0, 0, xs.map fun _ => 0, false, xs.map fun _ => true⟩
  else
    let num := (mx - mn).toNat
    let den := qmax * 2 ^ u
    let limited := decide (65504 * den < num)
    let r := ratio num den
    let scale := if limited then fp16.maxBits else (fp16.round .rup false r.1 r.2.1 r.2.2).bits
    -- the scale as an integer times 2^−(u + 24)
    let s : Nat := match fp16.value scale with
      | .num _ m e => m * 2 ^ (e + 24 + u).toNat
      | _ => 1
    let z := (clampInt (rneDiv (-mn * 2 ^ 24) s) 0 qmax).toNat
    let qs := xs.map fun x => (clampInt (rneDiv (x * 2 ^ 24) s + z) 0 qmax).toNat
    ⟨scale, z, qs, limited, xs.zipWith (fun (x : Int) (q : Nat) => (s : Int) * ((q : Int) - z) == x * 2 ^ 24) qs⟩

/-- An FP32 element as an integer times 2^−149, with whether it is an infinity or a NaN, which count as zero (R77). -/
def quantInput (x : Nat) : Int × Bool :=
  match fp32.value x with
  | .num n m e => (alignTo n m e (-149), false)
  | _ => (0, true)

/-- The metadata word of a group (R74). -/
def QGroup.word (g : QGroup) : Nat := g.zero * 2 ^ 16 + g.scale

/-! ## The plane-group format (R79) -/

/-- A group of 32 elements as planes hold it: exponent, SPECIAL, PGSAT and the integers. -/
structure PGroup where
  exp : Int
  special : Bool
  sat : Bool
  ms : List Int
  deriving DecidableEq, Repr

/-- floor(log2 |x|) of a nonzero finite value. -/
def FVal.topExp : FVal → Option Int
  | .num _ m e => if m = 0 then none else some (e + Nat.log2 m)
  | _ => none

/-- RoundInt(x · 2^s, RNE) of a finite value. -/
def scaledInt (s : Int) : FVal → Int
  | .num n m e =>
    let r := (roundAt .rne n m (e + s) 0 false).1
    if n then -(r : Int) else r
  | _ => 0

/-- The plane-group conversion of R79 with precision `p`. -/
def planeGroup (p : Nat) (xs : List FVal) : PGroup :=
  if xs.any fun x => match x with | .num _ _ _ => false | _ => true then
    ⟨-128, true, false, xs.map fun _ => 0⟩
  else
    let tops := xs.filterMap FVal.topExp
    if tops.isEmpty then ⟨-128, false, false, xs.map fun _ => 0⟩
    else
      let e := tops.foldl max (-127)
      let raw := xs.map (scaledInt ((p : Int) - 2 - e))
      let lim : Int := 2 ^ (p - 1)
      ⟨e, false, raw.any (· == lim), raw.map fun m => if m = lim then lim - 1 else m⟩

/-! ## Wide reduction forms (R87 to R89) -/

/-- ACC320 (R87): an integer times 2^−160, or the sticky NAN state. -/
structure Acc where
  nan : Bool
  val : Int
  deriving DecidableEq, Repr

/-- The empty sum. -/
def Acc.zero : Acc := ⟨false, 0⟩

/-- Adding a value (R87). -/
def Acc.addVal (a : Acc) : FVal → Acc
  | .num n m e => ⟨a.nan, a.val + alignTo n m e (-160)⟩
  | _ => ⟨true, a.val⟩

/-- Adding two sums. -/
def Acc.add (a b : Acc) : Acc := ⟨a.nan || b.nan, a.val + b.val⟩

/-- The position of the most significant bit that differs from the sign; 0 where there is none (R88). -/
def Acc.lead (a : Acc) : Nat :=
  if 0 ≤ a.val then Nat.log2 a.val.toNat else Nat.log2 (-(a.val + 1)).toNat

/-- The RX128 form (R88). -/
def Acc.toRx (a : Acc) : BitVec 128 :=
  if a.nan then BitVec.ofNat 128 (0x1FF * 2 ^ 118)
  else if a.val = 0 then 0
  else
    let e := a.lead - 20
    let scaled : Int := a.val * 2 ^ 96
    let sig : Int := scaled / 2 ^ e
    let x : Nat := if scaled % 2 ^ e = 0 then 0 else 1
    BitVec.ofNat 128 (x * 2 ^ 127 + e * 2 ^ 118 + (sig % 2 ^ 118).toNat)

/-- The value of an RX128 as an integer times 2^−256, its X bit, and its NAN pattern. -/
structure RxVal where
  nan : Bool
  x : Bool
  val : Int
  deriving DecidableEq, Repr

/-- Reading an RX128 (R88). -/
def rxValue (r : BitVec 128) : RxVal :=
  let n := r.toNat
  let e : Nat := n / 2 ^ 118 % 512
  let sig : Nat := n % 2 ^ 118
  let s : Int := if sig < 2 ^ 117 then sig else (sig : Int) - 2 ^ 118
  if e = 511 then ⟨true, false, 0⟩ else ⟨false, n / 2 ^ 127 == 1, s * 2 ^ e⟩

/-- The final rounding of an exact sum times 2^−256 (R89). `sticky` is X of a single RX128; a negative value with X lies above its SIG. -/
def roundSum (f : Fmt) (nan : Bool) (val : Int) (sticky : Bool) : Nat :=
  if nan then f.nanBits
  else if sticky then (f.roundInt .rne false (2 * val + 1) (-257)).bits
  else (f.roundInt .rne false val (-256)).bits

end Sys2Proof.Machine
end

