-- ==== Sys2Proof/Syntax.lean ====
section
/-! DEFINITION. The syntax of the MZ-9: operand codes, the operands that device events carry, and the one inductive Instr with one constructor for each row of the table of operations and events. -/

namespace Sys2Proof

/-- What an operand code names (R42). `d n` is latch dn, n from 1 to 8. -/
inductive Src where
  | v (n : Nat)
  | k (n : Nat)
  | d (n : Nat)
  | zero
  | lane
  | tid
  | crew
  | task
  | ones
  | immw
  | rsv (code : Nat)
  deriving DecidableEq, Repr

/-- Who writes control space: the owner of the control plane (R390), or another master such as a thread. -/
inductive Owner where
  | garnet
  | host
  | bmc
  | thread
  | function (ten : Nat) (trusted : Bool)
  deriving DecidableEq, Repr

/-- What is asked of the object of a number, and by whom (R209, R335). -/
structure Demand where
  who : Owner
  num : Nat
  deriving DecidableEq, Repr

/-- A use that another package makes of a page of a module: where, whether it writes, and the package (R283, R284). -/
structure PeerUse where
  maddr : Nat
  writes : Bool
  pkg : Nat
  deriving DecidableEq, Repr

/-- Where an uncorrectable memory error lies (R281). -/
inductive ErrPlace where
  | cleanCopy
  | privateToCrew (crew : Nat)
  | sharedIn (ctx : Nat)
  | tenancyStructure (ten : Nat)
  | packageStructure
  deriving DecidableEq, Repr

/-- A task that a decision of the stage balancer places, with the cores the device chose (R295, R296). `cont` names a waiting continuation (R309). -/
structure Pick where
  ctx : Nat
  serial : Nat
  stage : Nat
  cores : List Nat
  cont : Bool
  deriving DecidableEq, Repr

/-- A firmware image as the ROM finds it (R387): its digest, whether each signature verifies, its security version and the fused minimum. -/
structure BootImage where
  digest : BitVec 384
  rsaOk : Bool
  slhOk : Bool
  version : Nat
  minimum : Nat
  deriving DecidableEq, Repr

/-- What a module reports of itself at training (R346). `offers` is false for a module with only features that the MZ-9 does not use (R345). -/
structure ModuleIdent where
  number : Nat
  heads : Nat
  head : Nat
  capacity : Nat
  cmdOff : Nat
  offers : Bool
  deriving DecidableEq, Repr

/-- A request that a relay package performs on a module (R361): `kind` 0 read, 1 write, 2 atomic, 3 window command. -/
structure RelayReq where
  src : Nat
  world : Nat
  module : Nat
  addr : Nat
  kind : Nat
  bytes : List Byte
  len : Nat
  deriving DecidableEq, Repr

/-- What a back-invalidation snoop of a line follows (R248, R352): the use of the module by another head that it tells of, with the number of that head in `src`; or none, where the line holds what it held. -/
structure HeadUse where
  maddr : Nat
  use : Option RelayReq
  deriving DecidableEq, Repr

/-- The message of an ordered package pair (R360). -/
inductive PairBody where
  | loss (module : Nat)
  | restore (module : Nat)
  | uliSend (ctx ep : Nat) (operand : Word) (fromCtx : Nat)
  | refusal (ctx : Nat)
  | relay (r : RelayReq)
  | relayReply (ok : Bool) (bytes : List Byte)
  | podKey (world : Nat)
  deriving DecidableEq, Repr

/-- A coherent access of the host (R370, R166): `push` is a committed push to the queue whose descriptor lies at `pa`. -/
inductive HostAccess where
  | load (pa len : Nat)
  | store (pa : Nat) (bytes : List Byte)
  | amo (pa op width : Nat) (data cmp : DWord)
  | push (pa : Nat) (item : List Byte)
  deriving DecidableEq, Repr

/-- An Ethernet packet of a message (R375, R376). `msg` is the sender's own number of the message (its send queue's delivery context). -/
structure Packet where
  job : Nat
  pid : Nat
  msg : Nat
  msgid : Word
  len : Nat
  off : Nat
  rma : Bool
  roff : Nat
  bytes : List Byte
  deriving DecidableEq, Repr

/-- A write to a control-space register that has no row of its own (R378). `context` creates a context of a tenancy; the other constructors name the register they write. -/
inductive CtlWrite where
  | context (ctx ten : Nat)
  | pageRoot (ctx : Nat) (pa : DWord)
  | queueBase (ctx : Nat) (va : DWord)
  | bases (ctx : Nat) (reg code : DWord)
  | formatDesc (ctx i : Nat) (dbase size mbase : DWord)
  | stream (ctx i sprio swt : Nat)
  | permission (ctx i : Nat) (lo vmask : DWord)
  | sendQueue (ctx i : Nat) (entry : DWord)
  | endpoint (ctx i : Nat) (isOpen : Bool) (job pid : Nat) (addr : BitVec 128)
  | receiveSlot (ctx i : Nat) (valid : Bool) (mask matchTag blen : Word) (buf cword : DWord)
  | identity (ctx job pid : Nat)
  | tenancy (ten : Nat) (dieMask : Nat) (weight : Nat)
  | hostRange (ten i : Nat) (base limit : Nat)
  | dataFence (ten : Nat) (pa : Nat)
  | noticeQueue (ten : Nat) (pa : Nat)
  | replicaFrame (ten frame : Nat)
  | service (die core : Nat) (queue : DWord)
  | portModule (port module : Nat)
  | podPackage (own : Nat)
  | podEntry (peer module port : Nat)
  | podLine (module : Nat) (members : List Nat)
  | sever (peer : Nat)
  | admitted (mask lowest : Nat) (peers : List (Nat × Nat))
  | admitModule (module world : Nat) (measured running keyed : Bool)
  | relayEntry (i : Nat) (valid : Bool) (src world module base limit : Nat)
  | moduleRange (module head world i : Nat) (base limit : Nat) (perms : Nat)
  | power (watts : Nat)
  | worldReq (die req : Nat)
  | packageReset
  | read (offset n : Nat)
  | other (offset : Nat) (value : DWord)
  deriving DecidableEq, Repr

/-- One constructor for each row of the table of operations and events. The first part are the instruction words of R58; `nw` is the NW bit (on AMO and AMOX the posted form), `d` the D field, `a` and `b` the operand codes of A and B, `imm` the 8-bit immediate, `disp` the signed displacement. The second part are the steps of the device itself; their operands name the object that moves, and carry the device's free choice or the outside input. -/
inductive Instr where
  /-- NOP. Does nothing beyond shifting an EMPTY latch entry (R125) -/
  | nop
  /-- YIELD. Invalidates the thread's latches and offers the issue slot to another ready gang while the thread stays in RUN (R125) -/
  | yield
  /-- EXIT. Moves every active thread to EXITED, leaving meetings and barrier counts, and ends the task when the last thread exits (R126) -/
  | exit
  /-- TASKEND. Ends the task for the whole crew, exiting every RUN, HELD or BLOCKED thread while frozen threads stay frozen (R127) -/
  | taskend
  /-- ADD. Adds two signed integers, saturating with SAT (R98) -/
  | add (nw : Bool) (d : Nat) (a : Src) (b : Src)
  /-- SUB. Subtracts two signed integers, saturating with SAT (R98) -/
  | sub (nw : Bool) (d : Nat) (a : Src) (b : Src)
  /-- MIN. Delivers the signed minimum of A and B (R98) -/
  | min (nw : Bool) (d : Nat) (a : Src) (b : Src)
  /-- MAX. Delivers the signed maximum of A and B (R98) -/
  | max (nw : Bool) (d : Nat) (a : Src) (b : Src)
  /-- ADDI. Adds a sign-extended 8-bit immediate to A (R98) -/
  | addi (nw : Bool) (d : Nat) (a : Src) (imm : Nat)
  /-- MINI. Delivers the signed minimum of A and a sign-extended immediate (R98) -/
  | mini (nw : Bool) (d : Nat) (a : Src) (imm : Nat)
  /-- MAXI. Delivers the signed maximum of A and a sign-extended immediate (R98) -/
  | maxi (nw : Bool) (d : Nat) (a : Src) (imm : Nat)
  /-- MINU. Delivers the unsigned minimum of A and B (R98) -/
  | minu (nw : Bool) (d : Nat) (a : Src) (b : Src)
  /-- MAXU. Delivers the unsigned maximum of A and B (R98) -/
  | maxu (nw : Bool) (d : Nat) (a : Src) (b : Src)
  /-- ABS. Delivers the absolute value of signed A, saturating with SAT (R98) -/
  | abs (nw : Bool) (d : Nat) (a : Src)
  /-- NEG. Delivers the negation of signed A, saturating with SAT (R98) -/
  | neg (nw : Bool) (d : Nat) (a : Src)
  /-- MUL. Delivers the low 32 bits of the product A times B (R99) -/
  | mul (nw : Bool) (d : Nat) (a : Src) (b : Src)
  /-- MULH. Delivers the high word of the signed product (R99) -/
  | mulh (nw : Bool) (d : Nat) (a : Src) (b : Src)
  /-- MULHU. Delivers the high word of the unsigned product (R99) -/
  | mulhu (nw : Bool) (d : Nat) (a : Src) (b : Src)
  /-- MAD. Delivers C plus A times B modulo 2^32, or clamped with SAT (R99) -/
  | mad (nw : Bool) (d : Nat) (a : Src) (b : Src)
  /-- AND. Bitwise AND of A and B (R100) -/
  | and (nw : Bool) (d : Nat) (a : Src) (b : Src)
  /-- OR. Bitwise OR of A and B (R100) -/
  | or (nw : Bool) (d : Nat) (a : Src) (b : Src)
  /-- XOR. Bitwise XOR of A and B (R100) -/
  | xor (nw : Bool) (d : Nat) (a : Src) (b : Src)
  /-- ANDN. Bitwise A AND NOT B (R100) -/
  | andn (nw : Bool) (d : Nat) (a : Src) (b : Src)
  /-- ANDI. Bitwise AND of A with a zero-extended immediate (R100) -/
  | andi (nw : Bool) (d : Nat) (a : Src) (imm : Nat)
  /-- ORI. Bitwise OR of A with a zero-extended immediate (R100) -/
  | ori (nw : Bool) (d : Nat) (a : Src) (imm : Nat)
  /-- XORI. Bitwise XOR of A with a zero-extended immediate (R100) -/
  | xori (nw : Bool) (d : Nat) (a : Src) (imm : Nat)
  /-- SHL. Shifts A left by the whole count B, giving zero for counts of 32 or more (R101) -/
  | shl (nw : Bool) (d : Nat) (a : Src) (b : Src)
  /-- SHR. Shifts A right logically by the whole count B (R101) -/
  | shr (nw : Bool) (d : Nat) (a : Src) (b : Src)
  /-- SAR. Shifts A right arithmetically, with the count limited to 31 (R101) -/
  | sar (nw : Bool) (d : Nat) (a : Src) (b : Src)
  /-- ROL. Rotates A left by the count modulo 32 (R101) -/
  | rol (nw : Bool) (d : Nat) (a : Src) (b : Src)
  /-- SHLI. Shifts A left by an immediate count (R101) -/
  | shli (nw : Bool) (d : Nat) (a : Src) (imm : Nat)
  /-- SHRI. Shifts A right logically by an immediate count (R101) -/
  | shri (nw : Bool) (d : Nat) (a : Src) (imm : Nat)
  /-- SARI. Shifts A right arithmetically by an immediate count (R101) -/
  | sari (nw : Bool) (d : Nat) (a : Src) (imm : Nat)
  /-- ROLI. Rotates A left by an immediate count modulo 32 (R101) -/
  | roli (nw : Bool) (d : Nat) (a : Src) (imm : Nat)
  /-- CLZ. Counts the leading zero bits of A (R102) -/
  | clz (nw : Bool) (d : Nat) (a : Src)
  /-- POPC. Counts the one bits of A (R102) -/
  | popc (nw : Bool) (d : Nat) (a : Src)
  /-- BREV. Reverses the bits of A (R102) -/
  | brev (nw : Bool) (d : Nat) (a : Src)
  /-- BYTEP. Permutes bytes of A and C under the selector B (R102) -/
  | bytep (nw : Bool) (d : Nat) (a : Src) (b : Src)
  /-- BFE. Extracts a sign-extended bit field of A (R103) -/
  | bfe (nw : Bool) (d : Nat) (a : Src) (b : Src)
  /-- BFEU. Extracts a zero-extended bit field of A (R103) -/
  | bfeu (nw : Bool) (d : Nat) (a : Src) (b : Src)
  /-- BFI. Inserts the low bits of A into a field of C (R103) -/
  | bfi (nw : Bool) (d : Nat) (a : Src) (b : Src)
  /-- SEQ. Delivers 1 when A equals B (R104) -/
  | seq (nw : Bool) (d : Nat) (a : Src) (b : Src)
  /-- SNE. Delivers 1 when A differs from B (R104) -/
  | sne (nw : Bool) (d : Nat) (a : Src) (b : Src)
  /-- SLT. Delivers 1 when signed A is below B (R104) -/
  | slt (nw : Bool) (d : Nat) (a : Src) (b : Src)
  /-- SLE. Delivers 1 when signed A is at most B (R104) -/
  | sle (nw : Bool) (d : Nat) (a : Src) (b : Src)
  /-- SLTU. Delivers 1 when unsigned A is below B (R104) -/
  | sltu (nw : Bool) (d : Nat) (a : Src) (b : Src)
  /-- SLEU. Delivers 1 when unsigned A is at most B (R104) -/
  | sleu (nw : Bool) (d : Nat) (a : Src) (b : Src)
  /-- SEL. Delivers A when C is nonzero and B otherwise, as pairs with W64 (R104) -/
  | sel (nw : Bool) (d : Nat) (a : Src) (b : Src)
  /-- MOV. Copies A, or pair A with W64, unchanged (R104) -/
  | mov (nw : Bool) (d : Nat) (a : Src)
  /-- ADD64. Adds sign-extended B to a 64-bit pair (R105) -/
  | add64 (nw : Bool) (d : Nat) (a : Src) (b : Src)
  /-- SUB64. Subtracts sign-extended B from a 64-bit pair (R105) -/
  | sub64 (nw : Bool) (d : Nat) (a : Src) (b : Src)
  /-- MAD64. Adds the signed 64-bit product of A and B to the pair C (R105) -/
  | mad64 (nw : Bool) (d : Nat) (a : Src) (b : Src)
  /-- SHL64. Shifts a 64-bit pair left by B (R105) -/
  | shl64 (nw : Bool) (d : Nat) (a : Src) (b : Src)
  /-- SEXT8. Sign-extends A[7:0] (R106) -/
  | sext8 (nw : Bool) (d : Nat) (a : Src)
  /-- SEXT16. Sign-extends A[15:0] (R106) -/
  | sext16 (nw : Bool) (d : Nat) (a : Src)
  /-- ZEXT8. Zero-extends A[7:0] (R106) -/
  | zext8 (nw : Bool) (d : Nat) (a : Src)
  /-- ZEXT16. Zero-extends A[15:0] (R106) -/
  | zext16 (nw : Bool) (d : Nat) (a : Src)
  /-- FADD. FP32 addition rounded once in mode RND (R107) -/
  | fadd (nw : Bool) (d : Nat) (a : Src) (b : Src)
  /-- FSUB. FP32 subtraction rounded once (R107) -/
  | fsub (nw : Bool) (d : Nat) (a : Src) (b : Src)
  /-- FMUL. FP32 multiplication rounded once (R107) -/
  | fmul (nw : Bool) (d : Nat) (a : Src) (b : Src)
  /-- FMA. FP32 fused multiply-add C plus A times B rounded once (R107) -/
  | fma (nw : Bool) (d : Nat) (a : Src) (b : Src)
  /-- FMIN. IEEE minimumNumber of A and B (R108) -/
  | fmin (nw : Bool) (d : Nat) (a : Src) (b : Src)
  /-- FMAX. IEEE maximumNumber of A and B (R108) -/
  | fmax (nw : Bool) (d : Nat) (a : Src) (b : Src)
  /-- FABS. Clears bit 31 of A (R108) -/
  | fabs (nw : Bool) (d : Nat) (a : Src)
  /-- FNEG. Inverts bit 31 of A (R108) -/
  | fneg (nw : Bool) (d : Nat) (a : Src)
  /-- FSEQ. Delivers 1 when the FP32 values are equal (R109) -/
  | fseq (nw : Bool) (d : Nat) (a : Src) (b : Src)
  /-- FSLT. Delivers 1 when FP32 A is below B (R109) -/
  | fslt (nw : Bool) (d : Nat) (a : Src) (b : Src)
  /-- FSLE. Delivers 1 when FP32 A is at most B (R109) -/
  | fsle (nw : Bool) (d : Nat) (a : Src) (b : Src)
  /-- FSUN. Delivers 1 when either operand is a NaN (R109) -/
  | fsun (nw : Bool) (d : Nat) (a : Src) (b : Src)
  /-- RCP. Correctly rounded reciprocal of A (R110) -/
  | rcp (nw : Bool) (d : Nat) (a : Src)
  /-- RSQ. Reciprocal square root within 2 ulp (R111) -/
  | rsq (nw : Bool) (d : Nat) (a : Src)
  /-- SQRT. Correctly rounded square root of A (R110) -/
  | sqrt (nw : Bool) (d : Nat) (a : Src)
  /-- EX2. Base-2 exponential of A within 2 ulp (R111) -/
  | ex2 (nw : Bool) (d : Nat) (a : Src)
  /-- LG2. Base-2 logarithm of A within 2 ulp (R111) -/
  | lg2 (nw : Bool) (d : Nat) (a : Src)
  /-- TANH. Hyperbolic tangent of A within 2 ulp (R111) -/
  | tanh (nw : Bool) (d : Nat) (a : Src)
  /-- FLOOR. Largest integral FP32 value not greater than A (R112) -/
  | floor (nw : Bool) (d : Nat) (a : Src)
  /-- FRINT. Integral value selected from A by RND (R112) -/
  | frint (nw : Bool) (d : Nat) (a : Src)
  /-- BADD2. Packed BF16x2 addition (R113) -/
  | badd2 (nw : Bool) (d : Nat) (a : Src) (b : Src)
  /-- BMUL2. Packed BF16x2 multiplication (R113) -/
  | bmul2 (nw : Bool) (d : Nat) (a : Src) (b : Src)
  /-- BFMA2. Packed BF16x2 fused multiply-add (R113) -/
  | bfma2 (nw : Bool) (d : Nat) (a : Src) (b : Src)
  /-- BMAX2. Packed BF16x2 maximumNumber (R113) -/
  | bmax2 (nw : Bool) (d : Nat) (a : Src) (b : Src)
  /-- HADD2. Packed FP16x2 addition (R113) -/
  | hadd2 (nw : Bool) (d : Nat) (a : Src) (b : Src)
  /-- HMUL2. Packed FP16x2 multiplication (R113) -/
  | hmul2 (nw : Bool) (d : Nat) (a : Src) (b : Src)
  /-- HFMA2. Packed FP16x2 fused multiply-add (R113) -/
  | hfma2 (nw : Bool) (d : Nat) (a : Src) (b : Src)
  /-- HMAX2. Packed FP16x2 maximumNumber (R113) -/
  | hmax2 (nw : Bool) (d : Nat) (a : Src) (b : Src)
  /-- F2I. Converts FP32 A to INT32 under RND and SAT (R114) -/
  | f2i (nw : Bool) (d : Nat) (a : Src)
  /-- I2F. Converts signed A to FP32 under RND (R114) -/
  | i2f (nw : Bool) (d : Nat) (a : Src)
  /-- F2N. Converts A and B to two signed 16-bit halves (R115) -/
  | f2n (nw : Bool) (d : Nat) (a : Src) (b : Src)
  /-- N2F. Converts the 16-bit half of A chosen by B to FP32 (R115) -/
  | n2f (nw : Bool) (d : Nat) (a : Src) (b : Src)
  /-- F2BF2. Rounds A and B to BF16 and packs them (R116) -/
  | f2bf2 (nw : Bool) (d : Nat) (a : Src) (b : Src)
  /-- F2H2. Rounds A and B to FP16 and packs them (R116) -/
  | f2h2 (nw : Bool) (d : Nat) (a : Src) (b : Src)
  /-- BF2F. Delivers the FP32 value of the BF16 element of A chosen by B (R116) -/
  | bf2f (nw : Bool) (d : Nat) (a : Src) (b : Src)
  /-- H2F. Delivers the FP32 value of the FP16 element of A chosen by B (R116) -/
  | h2f (nw : Bool) (d : Nat) (a : Src) (b : Src)
  /-- QF8. Quantizes the active lanes' values as one Q8 group (R117) -/
  | qf8 (nw : Bool) (d : Nat) (a : Src)
  /-- QF4. Quantizes the active lanes' values as one Q4 group (R117) -/
  | qf4 (nw : Bool) (d : Nat) (a : Src)
  /-- DQ8. Dequantizes a Q8 element exactly with metadata word B (R118) -/
  | dq8 (nw : Bool) (d : Nat) (a : Src) (b : Src)
  /-- DQ4. Dequantizes a Q4 element exactly with metadata word B (R118) -/
  | dq4 (nw : Bool) (d : Nat) (a : Src) (b : Src)
  /-- UADD. Uniform addition into a k register (R119) -/
  | uadd (nw : Bool) (d : Nat) (a : Src) (b : Src)
  /-- USUB. Uniform subtraction into a k register (R119) -/
  | usub (nw : Bool) (d : Nat) (a : Src) (b : Src)
  /-- UMUL. Uniform low-word multiplication into a k register (R119) -/
  | umul (nw : Bool) (d : Nat) (a : Src) (b : Src)
  /-- UMOV. Uniform move into a k register (R119) -/
  | umov (nw : Bool) (d : Nat) (a : Src)
  /-- UAND. Uniform bitwise AND (R119) -/
  | uand (nw : Bool) (d : Nat) (a : Src) (b : Src)
  /-- UOR. Uniform bitwise OR (R119) -/
  | uor (nw : Bool) (d : Nat) (a : Src) (b : Src)
  /-- UXOR. Uniform bitwise XOR (R119) -/
  | uxor (nw : Bool) (d : Nat) (a : Src) (b : Src)
  /-- USHR. Uniform logical right shift (R119) -/
  | ushr (nw : Bool) (d : Nat) (a : Src) (b : Src)
  /-- USHL. Uniform left shift (R119) -/
  | ushl (nw : Bool) (d : Nat) (a : Src) (b : Src)
  /-- UADD64. Uniform 64-bit addition into a k pair (R119) -/
  | uadd64 (nw : Bool) (d : Nat) (a : Src) (b : Src)
  /-- USEQ. Uniform equality compare (R119) -/
  | useq (nw : Bool) (d : Nat) (a : Src) (b : Src)
  /-- USLT. Uniform signed less-than compare (R119) -/
  | uslt (nw : Bool) (d : Nat) (a : Src) (b : Src)
  /-- RDLANE. Writes to a k register the value that lane L reads from operand A (R120) -/
  | rdlane (nw : Bool) (d : Nat) (a : Src) (b : Src)
  /-- UMIN. Uniform signed minimum (R119) -/
  | umin (nw : Bool) (d : Nat) (a : Src) (b : Src)
  /-- UMAX. Uniform signed maximum (R119) -/
  | umax (nw : Bool) (d : Nat) (a : Src) (b : Src)
  /-- UADDI. Uniform addition of a sign-extended immediate (R119) -/
  | uaddi (nw : Bool) (d : Nat) (a : Src) (imm : Nat)
  /-- SHFL_IDX. Reads A from the lane indexed by B (R122) -/
  | shflIdx (nw : Bool) (d : Nat) (a : Src) (b : Src)
  /-- SHFL_UP. Reads A from the lane B below (R122) -/
  | shflUp (nw : Bool) (d : Nat) (a : Src) (b : Src)
  /-- SHFL_DN. Reads A from the lane B above (R122) -/
  | shflDn (nw : Bool) (d : Nat) (a : Src) (b : Src)
  /-- SHFL_XOR. Reads A from the lane whose index is XORed with B (R122) -/
  | shflXor (nw : Bool) (d : Nat) (a : Src) (b : Src)
  /-- VOTE_ALL. Delivers 1 when A is nonzero in every active lane (R123) -/
  | voteAll (nw : Bool) (d : Nat) (a : Src)
  /-- VOTE_ANY. Delivers 1 when A is nonzero in some active lane (R123) -/
  | voteAny (nw : Bool) (d : Nat) (a : Src)
  /-- BALLOT. Writes to a k register the mask of active lanes with A nonzero (R123) -/
  | ballot (nw : Bool) (d : Nat) (a : Src)
  /-- MATCH. Delivers the mask of active lanes whose A equals the lane's own (R123) -/
  | matchAny (nw : Bool) (d : Nat) (a : Src)
  /-- RADD. Integer sum of A over active lanes into a k register (R124) -/
  | radd (nw : Bool) (d : Nat) (a : Src)
  /-- RMIN. Signed minimum of A over active lanes (R124) -/
  | rmin (nw : Bool) (d : Nat) (a : Src)
  /-- RMAX. Signed maximum of A over active lanes (R124) -/
  | rmax (nw : Bool) (d : Nat) (a : Src)
  /-- RFADD. FP32 pairwise tree sum of A over the gang (R124) -/
  | rfadd (nw : Bool) (d : Nat) (a : Src)
  /-- BRZ. Branches within the segment when A is zero (R129) -/
  | brz (a : Src) (disp : Int)
  /-- BRNZ. Branches within the segment when A is nonzero (R129) -/
  | brnz (a : Src) (disp : Int)
  /-- CALL. Writes PC+4 to the link register and branches within the segment (R129) -/
  | call (a : Src) (disp : Int)
  /-- JMPI. Jumps to the code address A within the segment (R130) -/
  | jmpi (a : Src)
  /-- RET. Jumps to A, marked as a return (R130) -/
  | ret (a : Src)
  /-- MEET. Sets the meeting register mt of each active thread (R131) -/
  | meet (a : Src)
  /-- RDMT. Reads the meeting register into vD (R131) -/
  | rdmt (nw : Bool) (d : Nat)
  /-- JF. Far jump to a resident segment, blocking while it is fetching (R137) -/
  | jf (a : Src)
  /-- CALLF. Far call to a resident segment, writing the link when it proceeds (R137) -/
  | callf (nw : Bool) (d : Nat) (a : Src)
  /-- CFETCH. Requests a code segment into the core's code store without waiting (R133) -/
  | cfetch (a : Src) (b : Src)
  /-- CQRY. Reads the state of a code segment on the lane's core (R136) -/
  | cqry (nw : Bool) (d : Nat) (a : Src)
  /-- LD_B. Loads a sign-extended byte from global memory (R146) -/
  | ldB (d : Nat) (a : Src) (b : Src)
  /-- LD_H. Loads a sign-extended halfword (R146) -/
  | ldH (d : Nat) (a : Src) (b : Src)
  /-- LD_W. Loads a word (R146) -/
  | ldW (d : Nat) (a : Src) (b : Src)
  /-- LD_D. Loads a doubleword into a pair (R146) -/
  | ldD (d : Nat) (a : Src) (b : Src)
  /-- LD_BU. Loads a zero-extended byte (R146) -/
  | ldBu (d : Nat) (a : Src) (b : Src)
  /-- LD_HU. Loads a zero-extended halfword (R146) -/
  | ldHu (d : Nat) (a : Src) (b : Src)
  /-- LD_Q. Loads 16 bytes into four registers (R146) -/
  | ldQ (d : Nat) (a : Src) (b : Src)
  /-- LD_F. Loads and decodes one element unit by the page's format (R150) -/
  | ldF (d : Nat) (a : Src) (b : Src)
  /-- ST_B. Stores a byte to global memory (R147) -/
  | stB (d : Nat) (a : Src) (b : Src)
  /-- ST_H. Stores a halfword (R147) -/
  | stH (d : Nat) (a : Src) (b : Src)
  /-- ST_W. Stores a word (R147) -/
  | stW (d : Nat) (a : Src) (b : Src)
  /-- ST_D. Stores a doubleword from a pair (R147) -/
  | stD (d : Nat) (a : Src) (b : Src)
  /-- ST_Q. Stores 16 bytes from four registers (R147) -/
  | stQ (d : Nat) (a : Src) (b : Src)
  /-- LDX_W. Loads a word from the vault window (R151) -/
  | ldxW (d : Nat) (a : Src) (b : Src)
  /-- LDX_D. Loads a doubleword from the vault window (R151) -/
  | ldxD (d : Nat) (a : Src) (b : Src)
  /-- LDX_Q. Loads 16 bytes from the vault window (R151) -/
  | ldxQ (d : Nat) (a : Src) (b : Src)
  /-- STX_W. Stores a word to the vault window (R151) -/
  | stxW (d : Nat) (a : Src) (b : Src)
  /-- STX_D. Stores a doubleword to the vault window (R151) -/
  | stxD (d : Nat) (a : Src) (b : Src)
  /-- STX_Q. Stores 16 bytes to the vault window (R151) -/
  | stxQ (d : Nat) (a : Src) (b : Src)
  /-- AMO_ADD. Atomic signed add at the home of the line (R155) -/
  | amoAdd (nw : Bool) (d : Nat) (a : Src) (b : Src)
  /-- AMO_MIN. Atomic signed minimum (R155) -/
  | amoMin (nw : Bool) (d : Nat) (a : Src) (b : Src)
  /-- AMO_MAX. Atomic signed maximum (R155) -/
  | amoMax (nw : Bool) (d : Nat) (a : Src) (b : Src)
  /-- AMO_AND. Atomic bitwise AND (R155) -/
  | amoAnd (nw : Bool) (d : Nat) (a : Src) (b : Src)
  /-- AMO_OR. Atomic bitwise OR (R155) -/
  | amoOr (nw : Bool) (d : Nat) (a : Src) (b : Src)
  /-- AMO_XOR. Atomic bitwise XOR (R155) -/
  | amoXor (nw : Bool) (d : Nat) (a : Src) (b : Src)
  /-- AMO_XCHG. Atomic exchange (R155) -/
  | amoXchg (nw : Bool) (d : Nat) (a : Src) (b : Src)
  /-- AMO_CAS. Atomic compare and swap (R155) -/
  | amoCas (nw : Bool) (d : Nat) (a : Src) (b : Src)
  /-- AMO_FADD. Atomic FP32 add rounded to nearest even (R156) -/
  | amoFadd (nw : Bool) (d : Nat) (a : Src) (b : Src)
  /-- AMO_BFADD2. Atomic packed BF16x2 add (R156) -/
  | amoBfadd2 (nw : Bool) (d : Nat) (a : Src) (b : Src)
  /-- AMO_MINU. Atomic unsigned minimum (R155) -/
  | amoMinu (nw : Bool) (d : Nat) (a : Src) (b : Src)
  /-- AMO_MAXU. Atomic unsigned maximum (R155) -/
  | amoMaxu (nw : Bool) (d : Nat) (a : Src) (b : Src)
  /-- AMOX_ADD. Vault atomic signed add (R155) -/
  | amoxAdd (nw : Bool) (d : Nat) (a : Src) (b : Src)
  /-- AMOX_CAS. Vault atomic compare and swap (R155) -/
  | amoxCas (nw : Bool) (d : Nat) (a : Src) (b : Src)
  /-- AMOX_XCHG. Vault atomic exchange (R155) -/
  | amoxXchg (nw : Bool) (d : Nat) (a : Src) (b : Src)
  /-- AMOX_FADD. Vault atomic FP32 add (R156) -/
  | amoxFadd (nw : Bool) (d : Nat) (a : Src) (b : Src)
  /-- FENCE. Orders the thread's earlier and later accesses at SCOPE as ORDER gives (R157) -/
  | fence
  /-- FENCEX. Orders accesses of the before paths ahead of accesses of the after paths (R158) -/
  | fencex (a : Src) (b : Src)
  /-- BAR. Arrives at the crew barrier and waits until every non-exited thread has arrived (R159) -/
  | bar
  /-- GBAR. Arrives at the barrier of a group and waits for every member thread (R160) -/
  | gbar (a : Src)
  /-- QPUSH. Reserves, writes and commits one item into a queue object, waiting while full (R164) -/
  | qpush (d : Nat) (a : Src)
  /-- QPOP. Reserves, reads and commits one item from a queue object, waiting while empty (R164) -/
  | qpop (d : Nat) (a : Src)
  /-- QTRYPOP. Pops an item if one is present and writes a status to vB (R164) -/
  | qtrypop (d : Nat) (a : Src) (b : Src)
  /-- QLEN. Reads TAIL minus HRES of a queue object (R164) -/
  | qlen (d : Nat) (a : Src)
  /-- XQ_CP. Publishes a copy-engine entry on the crew's command ring (R173) -/
  | xqCp (nw : Bool) (d : Nat) (a : Src)
  /-- XQ_GX. Publishes a gather-engine entry on the command ring (R173) -/
  | xqGx (nw : Bool) (d : Nat) (a : Src)
  /-- XQ_NE. Publishes a network-engine entry on the command ring (R173) -/
  | xqNe (nw : Bool) (d : Nat) (a : Src)
  /-- XQ_CL. Publishes a collective-engine entry on the command ring (R173) -/
  | xqCl (nw : Bool) (d : Nat) (a : Src)
  /-- WAITH. Waits until a buffer handle's state or counter meets the condition B (R189) -/
  | waith (a : Src) (b : Src)
  /-- HSET. Sets a buffer handle's state to FREE or FULL, optionally clearing its counter (R188) -/
  | hset (a : Src) (b : Src)
  /-- HQRY. Reads a buffer handle's state word or counter (R189) -/
  | hqry (nw : Bool) (d : Nat) (a : Src) (b : Src)
  /-- HBIND. Binds or releases a buffer handle for the crew (R187) -/
  | hbind (nw : Bool) (d : Nat) (a : Src) (b : Src)
  /-- TLR_SET. Writes a tile record from a register block after static checks (R191) -/
  | tlrSet (a : Src) (b : Src)
  /-- TLR_INV. Invalidates one tile record, or all of the crew's (R191) -/
  | tlrInv (a : Src)
  /-- TLR_RD. Reads one word of a tile record (R191) -/
  | tlrRd (nw : Bool) (d : Nat) (a : Src) (b : Src)
  /-- MMA. Multiplies an A block by a B block on the plane array into registers vD to vD+31 (R194) -/
  | mma (d : Nat) (a : Src) (b : Src)
  /-- MMAS. Multiplies an A block by a B block into an accumulator tile in vault (R195) -/
  | mmas (a : Src) (b : Src)
  /-- PODID. Reads the pod identity: ports in use, packages and this package's number (R200) -/
  | podid (nw : Bool) (d : Nat)
  /-- PODMAP. Reads the pod-map entry for a peer package (R200) -/
  | podmap (nw : Bool) (d : Nat) (a : Src)
  /-- TRAP. Raises a BRK fault with subcode 0x02 in every active lane (R204) -/
  | trap (a : Src)
  /-- SVC. Writes continuation records, pushes service requests and exits the calling lanes (R205) -/
  | svc (d : Nat) (a : Src) (b : Src)
  /-- BRK. Raises a BRK fault with subcode 0x01 in every active lane (R204) -/
  | brk
  /-- ASSERT. Raises a BRK fault with subcode 0x03 in each lane with A zero (R204) -/
  | assert (a : Src) (b : Src)
  /-- FRD. Reads a location of a frozen object through a capability (R212) -/
  | frd (d : Nat) (a : Src) (b : Src)
  /-- FWR. Writes a location of a frozen object through a capability (R212) -/
  | fwr (d : Nat) (a : Src) (b : Src)
  /-- FRES. Resumes lanes of a frozen set, or a frozen command, in the given mode (R213) -/
  | fres (nw : Bool) (d : Nat) (a : Src) (b : Src)
  /-- FKILL. Moves selected frozen lanes to EXITED, or kills a frozen command (R214) -/
  | fkill (nw : Bool) (d : Nat) (a : Src) (b : Src)
  /-- ULI_SEND. Sends an interrupt operand to an endpoint (R216) -/
  | uliSend (a : Src) (b : Src)
  /-- ULI_WAIT. Waits for and delivers the earliest pending unmasked vector of a bound endpoint (R219) -/
  | uliWait (d : Nat) (a : Src) (b : Src)
  /-- ULI_MASK. Reads and optionally writes half of an endpoint's mask (R218) -/
  | uliMask (nw : Bool) (d : Nat) (a : Src) (b : Src)
  /-- ULI_BIND. Binds or unbinds the gang as an endpoint's handler gang (R217) -/
  | uliBind (nw : Bool) (d : Nat) (a : Src)
  /-- LAUNCH. Reads, checks and submits a launch record to a stream (R220) -/
  | launch (nw : Bool) (d : Nat) (a : Src) (b : Src)
  /-- SPAWN. Starts a continuation task from a PENDING continuation record (R208) -/
  | spawn (nw : Bool) (d : Nat) (a : Src)
  /-- RDSR. Reads a special register named by IMMW (R222) -/
  | rdsr (nw : Bool) (d : Nat) (a : Src)
  /-- WRSR. Writes a special register named by IMMW (R222) -/
  | wrsr (a : Src) (b : Src)
  /-- INVL. Invalidates translations of a range of base pages within the scope (R223) -/
  | invl (a : Src) (b : Src)
  /-- INVLA. Invalidates every translation of a context, or of the tenancy (R224) -/
  | invla (a : Src)
  /-- PGQRY. Walks a translation without side effects and returns the leaf or the fault (R225) -/
  | pgqry (d : Nat) (a : Src)
  /-- HX_IMM. Makes a 24-bit payload pending as the IMMW value (R59) -/
  | hxImm (payload : Nat)
  /-- HX_EXT. Makes a payload pending as the EXT fields of the next instruction (R59) -/
  | hxExt (payload : Nat)
  /-- HX_REGION. Begins a new idempotent region at its own address (R53) -/
  | hxRegion (payload : Nat)
  /-- HX_SCHED. Makes scheduling advice pending for the next instruction (R52) -/
  | hxSched (pri : Nat) (reuse : Nat)
  /-- RESERVED_ENCODING. Issue of an instruction word whose major, or major and minor pair, is reserved takes ILLEGAL_INSN subcode 0x01 or 0x02 (R58) -/
  | reservedEncoding (w : Nat)
  /-- AGEING_FORCE. A path's ageing counter reaching AGEMAX releases its held threads and forces the path (R20) -/
  | ageingForce (g pc : Nat)
  /-- BLOCKED_WAKE. A BLOCKED thread's awaited condition holds and its instruction completes (R16) -/
  | blockedWake (g mask : Nat)
  /-- FULL_EMPTY_WAIT_SATISFIED. A lane waiting on a full-empty bit is satisfied and performs its access (R152) -/
  | fullEmptyWaitSatisfied (g lane : Nat)
  /-- QUEUE_REEXAMINE. A lane waiting on a queue re-examines it after at most 16,384 clocks (R165) -/
  | queueReexamine (g lane : Nat)
  /-- ULI_WAIT_TIMEOUT. ULI.WAIT's timeout of B·1,024 clocks expires and it returns zeros (R219) -/
  | uliWaitTimeout (g : Nat)
  /-- SEGMENT_FETCH_LANDED. A segment copy lands and the segment becomes RESIDENT, replacing the old copy between instructions (R135) -/
  | segmentFetchLanded (core ctx seg : Nat)
  /-- SEGMENT_FETCH_FAULTED. A segment copy meets a fault and the segment becomes FAULTED (R133) -/
  | segmentFetchFaulted (core ctx seg : Nat)
  /-- PATH_SEGMENT_REQUEST. The device requests a non-resident segment for a path's own PC and blocks its threads (R409) -/
  | pathSegmentRequest (g : Nat)
  /-- SEGMENT_REQUEST_RETRY. A REFUSED segment request is repeated when a slot of the core ceases to be held (R409) -/
  | segmentRequestRetry (core ctx seg : Nat)
  /-- REGISTER_LINE_FILL. A register line arrives after a register-cache miss and the stalled slot continues (R253) -/
  | registerLineFill (g line : Nat)
  /-- REGISTER_UNCORRECTABLE. An uncorrectable register-line error is repaired, freezes lanes with SOFT 0x01, or resets the tenancy (R255) -/
  | registerUncorrectable (g line part : Nat) (tags : Bool)
  /-- ECC_CORRECTION. A single-bit error is corrected and counted without a fault (R279) -/
  | eccCorrection (core : Nat)
  /-- MEMORY_UNCORRECTABLE. An uncorrectable memory error is contained by refetch, crew kill, poison or reset (R281) -/
  | memoryUncorrectable (pa : Nat) (place : ErrPlace)
  /-- HELD_RECORD_QUEUE. A record held by its source while the queue was full is queued when room appears (R323) -/
  | heldRecordQueue (ctx : Nat)
  /-- HANDLER_SPAWN. A queued record owned by CTX spawns a handler thread once its conditions hold (R320) -/
  | handlerSpawn (ctx sq slot : Nat)
  /-- RECORD_DELIVER_OWNER. A record is pushed to a WORLD, HOST, MGMT or escalation owner and the owner is signalled (R318) -/
  | recordDeliverOwner (ctx sq : Nat)
  /-- HANDLER_SLOT_FREE. A handler slot is freed once its thread has exited and its accesses are performed (R322) -/
  | handlerSlotFree (core k : Nat)
  /-- PUB_STORE. A stored PUB performed at the home core's vault publishes entries or breaks the ring (R172) -/
  | pubStore (crew : Nat)
  /-- RING_ACCEPT. An engine reads, checks and accepts the entry at TAKEN and advances TAKEN (R171) -/
  | ringAccept (crew : Nat)
  /-- COPY. Copy command moving LEN bytes, converting under a tile record if given (R175) -/
  | copy (crew sq : Nat)
  /-- COPY2D. Copy command moving pitched lines, packed or placed by a tile record (R175) -/
  | copy2d (crew sq : Nat)
  /-- FILLMC. Copy command reading global data once and writing it into several cluster windows (R175) -/
  | fillmc (crew sq : Nat)
  /-- COPYMMA. Copy command filling a plane tile and then issuing an MMAS (R175) -/
  | copymma (crew sq : Nat)
  /-- FILL. Copy command writing a 32-bit pattern over LEN bytes (R175) -/
  | fill (crew sq : Nat)
  /-- COPYMMA_FOLLOW_ON. Issues the follow-on MMAS once the COPYMMA copy's last byte has landed (R179) -/
  | copymmaFollowOn (crew sq : Nat)
  /-- GATHER. Gather command copying indexed table rows into packed vault rows (R182) -/
  | gather (crew sq : Nat)
  /-- SCATTER. Gather command copying packed rows to indexed table rows (R182) -/
  | scatter (crew sq : Nat)
  /-- SCATTERADD. Gather command adding packed rows into indexed table rows in FP32 (R182) -/
  | scatteradd (crew sq : Nat)
  /-- SEND. Network command sending a tagged message as MTU-sized packets (R375) -/
  | send (crew sq : Nat)
  /-- RMAW. Network command performing an RMA write at a remote offset (R375) -/
  | rmaw (crew sq : Nat)
  /-- CONTRIB. Collective command contributing elements to a module or package reduction window (R363) -/
  | contrib (crew sq : Nat)
  /-- READSUM. Collective command reading RX128 sums from a module window into vault or a package window (R364) -/
  | readsum (crew sq : Nat)
  /-- READROUND. Collective command reading a window's sums and rounding each once (R364) -/
  | readround (crew sq : Nat)
  /-- RELAY. Collective command copying bytes to a tier-2 address by relay (R366) -/
  | relay (crew sq : Nat)
  /-- SUBTRANSFER_COMPLETE. One sub-transfer of an engine command completes (R180) -/
  | subtransferComplete (crew sq n : Nat)
  /-- HANDLE_DEST_COMPLETE. A command's destination data become visible and its destination handle is updated in ring order (R185) -/
  | handleDestComplete (crew sq : Nat)
  /-- HANDLE_SOURCE_RELEASE. An engine no longer reads a command's source and its source handle is updated (R185) -/
  | handleSourceRelease (crew sq : Nat)
  /-- TILE_RECORD_EVICT. A tile record evicted from the core's cache is written to the crew record (R193) -/
  | tileRecordEvict (crew rec : Nat)
  /-- ARRAY_OPERATION_START. A queued MMA or MMAS starts in the plane array and reads its planes (R194) -/
  | arrayOperationStart (core sub : Nat)
  /-- ARRAY_RESULT_WRITE. An MMA or MMAS result is written 12 clocks after its occupancy ends (R197) -/
  | arrayResultWrite (core sub : Nat)
  /-- LAUNCH_START. A launch starts once every earlier launch of its stream has retired, or at once with OV (R290) -/
  | launchStart (ctx serial : Nat)
  /-- LAUNCH_RETIRE. A launch retires, writing its completion word, sending CSEND and starting the next launch (R291) -/
  | launchRetire (ctx serial : Nat)
  /-- BALANCER_DECISION. The die's stage balancer places eligible tasks in priority order (R295) -/
  | balancerDecision (die : Nat) (picks : List Pick)
  /-- BALANCER_PERIODIC. The balancer makes a decision at least once every 4,096 clocks (R295) -/
  | balancerPeriodic (die : Nat) (picks : List Pick)
  /-- WATCHED_QUEUE_REEXAMINE. The balancer re-examines a watched input queue at most 16,384 clocks after its last examination (R292) -/
  | watchedQueueReexamine (die ctx serial stage : Nat)
  /-- CACHE_BLOCK_HANDOVER. Cache blocks handed to scratch are emptied, zeroed and cleared before use (R258) -/
  | cacheBlockHandover (core : Nat)
  /-- TASK_START. A placed task starts once its staging commands have completed (R298) -/
  | taskStart (crew : Nat)
  /-- TASK_RETIRE. A task retires when its threads have exited, its accesses are performed and its commands are done (R128) -/
  | taskRetire (crew : Nat)
  /-- TASK_ABORT. An unpinned replayable task is aborted, discarded and run again (R301) -/
  | taskAbort (crew : Nat) (error : Bool)
  /-- SLOT_PREEMPTION. A gang holding an issue slot for 65,536 clocks against an equal ready gang is removed to its REP (R305) -/
  | slotPreemption (g : Nat)
  /-- PREEMPT. Pre-empts a context on a core, returning its threads to REP and marking its lines evictable (R307) -/
  | preempt (ctx core : Nat)
  /-- PREEMPT_RESUME. Resumes a pre-empted context on its core (R307) -/
  | preemptResume (ctx core : Nat)
  /-- CONTEXT_SWITCH_OUT. Flushes a pre-empted context's dirty register lines and frees its context slot (R307) -/
  | contextSwitchOut (ctx core : Nat)
  /-- SWITCHED_RESUME. Resumes a switched-out context with lines fetched on demand (R307) -/
  | switchedResume (ctx core : Nat)
  /-- CONTEXT_WAKE. Makes a descheduled context with deliverable work resident within its wake bound (R306) -/
  | contextWake (ctx core : Nat)
  /-- CONTEXT_RUN_CONTROL. The escalation owner writes a stopped context's RUN control (R323) -/
  | contextRunControl (who : Owner) (ctx : Nat)
  /-- CREW_KILL. System software kills a crew, exiting its threads and killing its commands (R336) -/
  | crewKill (crew : Demand)
  /-- CONTEXT_RESET. Resets a context, discarding its gangs, commands, launches and pending interrupts (R336) -/
  | contextReset (ctx : Demand)
  /-- TENANCY_RESET_DRAIN. Resets a tenancy, letting its engine commands run to completion (R336) -/
  | tenancyResetDrain (ten : Demand)
  /-- TENANCY_RESET_CANCEL. Resets a tenancy, stopping its engine commands as a context reset does (R336) -/
  | tenancyResetCancel (ten : Demand)
  /-- PACKAGE_RESET. Resets the whole package (R335) -/
  | packageReset
  /-- BOOT. At package reset the Garnet ROM verifies and loads the firmware images in order (R387) -/
  | boot (images : List BootImage)
  /-- ULI_SEND_ARRIVAL. A send is checked against the permission table and pended, coalesced or refused at the endpoint (R332) -/
  | uliSendArrival (n : Nat)
  /-- REFUSAL_NOTICE. A refusal notice adds one to the sender's drop count (R332) -/
  | refusalNotice (ctx : Nat)
  /-- REPLICATION_COMPLETE. A package's replica of a master page is made and its leaf becomes valid with DUP 1 (R283) -/
  | replicationComplete (ctx va : Nat)
  /-- COLLAPSE_COMPLETE. All replicas of a page are gone and the writer's leaf maps the master writably (R283) -/
  | collapseComplete (module maddr : Nat)
  /-- PAGE_PIN. A fourth collapse within 10 ms pins the page, moving its master to the writing pair's module (R284) -/
  | pagePin (module maddr toModule toAddr : Nat)
  /-- PIN_EXPIRE. A page PINNED by the device becomes WRITABLE 100 ms after entry (R283) -/
  | pinExpire (module maddr : Nat)
  /-- LINK_FAIL. A CXL link goes out of service and its granules move to the next link with requests reissued (R340) -/
  | linkFail (port link : Nat)
  /-- LINK_RESTORE. A link returns to service and its granules go back to it (R340) -/
  | linkRestore (port link : Nat)
  /-- FIBRE_PAIR_FAIL. A fibre pair fails and its links move to a free spare, or the port degrades (R341) -/
  | fibrePairFail (port pair : Nat)
  /-- SPARE_RETRAINED. Both links of a failed pair are up on a spare and the port returns to UP (R342) -/
  | spareRetrained (port pair : Nat)
  /-- RETRAIN. Writing RETRAIN in state LOST starts training of the port (R343) -/
  | retrain (who : Owner) (port : Nat)
  /-- PORT_TRAINED. Training completes and the module identity check decides UP or LOST (R346) -/
  | portTrained (port : Nat) (ident : ModuleIdent)
  /-- PORT_TRAINING_TIMEOUT. No link comes up within 100 ms and the port enters LOST (R342) -/
  | portTrainingTimeout (port : Nat)
  /-- PORT_LOST. Every link down for 10 ms, or a failed head, makes the module lost to the package (R344) -/
  | portLost (port : Nat) (headFailed : Bool)
  /-- MODULE_RESPONSE. A module command's response arrives and is mapped to completion, retry or fault (R348) -/
  | moduleResponse (tag status : Nat)
  /-- MODULE_WAIT_RETRY. A command answered WAIT is repeated at most 16,384 clocks later (R348) -/
  | moduleWaitRetry (tag : Nat)
  /-- MODULE_NOTICE. A back-invalidation notice on a watched line wakes the waiting lanes (R352) -/
  | moduleNotice (module : Nat) (maddr : HeadUse)
  /-- INCAST_NOTICE. An incast notice halves the port's injection limit for the module (R355) -/
  | incastNotice (port : Nat)
  /-- INCAST_RECOVERY. Each 8 µs without a notice raises the injection limit by 1/32 (R355) -/
  | incastRecovery (port : Nat)
  /-- HEAD_DOWN_NOTICE. A module reports a peer head down and the pairs with that package are severed (R362) -/
  | headDownNotice (peer : Nat)
  /-- LOSS_NOTICE. A received loss notice severs the pair and the pod map is updated (R358) -/
  | lossNotice (module peer : Nat)
  /-- RESTORE_NOTICE. A received restore notice clears the severed mark and the pod map is updated (R358) -/
  | restoreNotice (module peer : Nat)
  /-- PAIR_MESSAGE_ARRIVAL. A sequenced pair message is delivered in order, held, or discarded as a duplicate (R360) -/
  | pairMessageArrival (peer sq : Nat) (body : PairBody)
  /-- PAIR_ACK_ARRIVAL. A cumulative acknowledgment of pair messages arrives (R360) -/
  | pairAckArrival (peer upTo : Nat)
  /-- PAIR_RESEND_TIMEOUT. Unacknowledged pair messages are resent after 50 µs (R360) -/
  | pairResendTimeout (peer : Nat)
  /-- RELAY_REQUEST. The relay engine checks its relay table and performs a relayed request on a module (R361) -/
  | relayRequest (r : RelayReq)
  /-- HOST_SEND_PAGE_STORE. A host store to a send page sends an interrupt with that page's process tag (R369) -/
  | hostSendPageStore (ten tag : Nat) (ep : DWord) (operand : Word) (trusted : Bool)
  /-- HOST_CXL_ACCESS. A host coherent access over the CXL host link to a host-visible range (R370) -/
  | hostCxlAccess (ten : Nat) (a : HostAccess) (trusted : Bool)
  /-- CONTROL_MESSAGE. A control message with DFSEQ waits for the data-fence word before it is acted on (R371) -/
  | controlMessage (ten dfseq : Nat) (who : Owner) (w : CtlWrite)
  /-- FENCE_TIMEOUT. A control message still waiting after 1 s is refused (R371) -/
  | fenceTimeout (n : Nat)
  /-- NET_PACKET_TRANSMIT. A packet of a message leaves as the congestion window allows (R375) -/
  | netPacketTransmit (crew sq k : Nat)
  /-- NET_PACKET_RECEIVE. A packet is matched, placed, and on message completion counted in CWORD (R376) -/
  | netPacketReceive (p : Packet)
  /-- NET_ACK_RECEIVE. A selective acknowledgment arrives and may trigger a fast retransmission (R377) -/
  | netAckReceive (crew sq : Nat) (ks : List Nat)
  /-- NET_RTO_EXPIRE. A packet's retransmission timeout expires and it is retransmitted or its command frozen (R377) -/
  | netRtoExpire (crew sq k : Nat)
  /-- WORLD_ASSIGN_GO. Writing GO starts a world assignment over a die or a tenancy (R380) -/
  | worldAssignGo (who : Owner) (die req : Nat) (all : Bool)
  /-- KEY_GENERATE. Beryl draws entropy and generates a local key for a world (R386) -/
  | keyGenerate (world : Nat) (samples : List Byte)
  /-- SCRUB_COMPLETE. A die scrub completes and the dies latch the new world, or fail (R384) -/
  | scrubComplete (die : Nat) (failed : List Nat)
  /-- ENTROPY_TEST_FAIL. A health test fails and the source enters FAILED or LOCKED (R386) -/
  | entropyTestFail (samples : List Byte)
  /-- ENTROPY_HEALTH_RESET. A health reset moves a FAILED source to RECOVERING (R386) -/
  | entropyHealthReset (who : Owner)
  /-- ENTROPY_RECOVERED. 1,024 consecutive passing samples return the source to HEALTHY (R386) -/
  | entropyRecovered (samples : List Byte)
  /-- FRAME_OWNER_WRITE. A write of a frame's owning world zeroes the frame under the new key (R382) -/
  | frameOwnerWrite (who : Owner) (frame world : Nat)
  /-- OWNERSHIP_REQUEST. A master requests control-plane ownership (R391) -/
  | ownershipRequest (who : Owner)
  /-- OWNERSHIP_GRANT_DECISION. Garnet's policy check ends a pending ownership request GRANTED or DENIED (R391) -/
  | ownershipGrantDecision (granted : Bool)
  /-- OWNERSHIP_RELEASE. The owner releases ownership to Garnet (R391) -/
  | ownershipRelease (who : Owner)
  /-- OWNER_LINK_LOSS. An owning host's function-level reset or link loss returns ownership to Garnet (R391) -/
  | ownerLinkLoss
  /-- BMC_SILENCE_TIMEOUT. The BMC's management link silent for 1 s returns ownership to Garnet (R391) -/
  | bmcSilenceTimeout
  /-- CLAIM_WRITE. A claim-table write claims or releases ownership of a fault class (R316) -/
  | claimWrite (who : Owner) (ten entry owner ovec : Nat) (oq oep : DWord)
  /-- HANDLER_TABLE_WRITE. A write of a context's handler-table entry (R317) -/
  | handlerTableWrite (who : Owner) (ctx cls : Nat) (value : DWord)
  /-- VAULT_SETTINGS_WRITE. A write of QBLK for a core, refused if it would touch a live window (R262) -/
  | vaultSettingsWrite (who : Owner) (core q : Nat)
  /-- EXTEND. A digest written to EXTEND extends a measurement register (R388) -/
  | extendMr (who : Owner) (mr : Nat) (digest : BitVec 384)
  /-- CAPPORT_FRD. Capability port operation reading a frozen object's location (R378) -/
  | capportFrd (ten : Demand) (cap : DWord) (sel : Word)
  /-- CAPPORT_FWR. Capability port operation writing a frozen object's location (R378) -/
  | capportFwr (ten : Demand) (cap : DWord) (sel value : Word)
  /-- CAPPORT_FRES. Capability port operation resuming a frozen object (R378) -/
  | capportFres (ten : Demand) (cap : DWord) (mask mode : Word)
  /-- CAPPORT_FKILL. Capability port operation killing a frozen object (R378) -/
  | capportFkill (ten : Demand) (cap : DWord) (mask : Word)
  /-- CONTROL_SPACE_WRITE. A write to a control-space register without a row of its own, refused for non-owners (R391) -/
  | controlSpaceWrite (who : Owner) (w : CtlWrite)
  /-- GET_VERSION. SPDM request answered with supported versions (R389) -/
  | getVersion
  /-- GET_CAPABILITIES. SPDM request answered with capabilities (R389) -/
  | getCapabilities
  /-- NEGOTIATE_ALGORITHMS. SPDM request negotiating algorithms (R389) -/
  | negotiateAlgorithms (hashes sigs : List Nat)
  /-- GET_DIGESTS. SPDM request for certificate digests (R389) -/
  | getDigests
  /-- GET_CERTIFICATE. SPDM request for the certificate chain (R389) -/
  | getCertificate (off len : Nat)
  /-- CHALLENGE. SPDM challenge signed with the device key (R389) -/
  | challenge (nonce : BitVec 256)
  /-- GET_MEASUREMENTS. SPDM request for measurement blocks 1 to 17 (R389) -/
  | getMeasurements (index : Nat)
  /-- KEY_EXCHANGE. SPDM key exchange opening a secured session (R389) -/
  | keyExchange (share : BitVec 768)
  /-- FINISH. SPDM finish completing a secured session (R389) -/
  | spdmFinish (verified : Bool)
  /-- THERMAL_THROTTLE. A junction temperature of 105 °C lowers the clock to 1.2 GHz (R392) -/
  | thermalThrottle (celsius : Nat)
  /-- THERMAL_TRIP. At 115 °C Garnet orders a package reset and records the cause (R392) -/
  | thermalTrip (celsius : Nat)
  /-- POWER_GATE. A unit idle for 64 clocks is power-gated (R392) -/
  | powerGate (unit : Nat)
  /-- ACCESS_PERFORMED. A store, posted atomic or other access is performed at its destination and acknowledged, which closes intervals and ends fence, release and retirement waits (R233) -/
  | accessPerformed (g n : Nat)
  /-- FRAME_ZEROED. Zeroing of an HBM frame under the new world's key completes and the accesses waiting on it proceed (R382) -/
  | frameZeroed (frame : Nat)
  /-- REMOTE_FORM_RETURN. A package's replica or writable leaf is returned to remote form, with its sweep, because another package collapsed or replicated the page (R283) -/
  | remoteFormReturn (module : Nat) (maddr : PeerUse)
  /-- POWER_CONTROLLER. The power controller lowers or raises the arithmetic clock in 100 MHz steps and throttles plane-array issue to hold package power at or below PLIMIT (R392) -/
  | powerController (watts : Nat)
  deriving DecidableEq, Repr

/-- The device's own steps, as opposed to instruction words. -/
def Instr.isEvent : Instr → Bool
  | .nop => false
  | .yield => false
  | .exit => false
  | .taskend => false
  | .add _ _ _ _ => false
  | .sub _ _ _ _ => false
  | .min _ _ _ _ => false
  | .max _ _ _ _ => false
  | .addi _ _ _ _ => false
  | .mini _ _ _ _ => false
  | .maxi _ _ _ _ => false
  | .minu _ _ _ _ => false
  | .maxu _ _ _ _ => false
  | .abs _ _ _ => false
  | .neg _ _ _ => false
  | .mul _ _ _ _ => false
  | .mulh _ _ _ _ => false
  | .mulhu _ _ _ _ => false
  | .mad _ _ _ _ => false
  | .and _ _ _ _ => false
  | .or _ _ _ _ => false
  | .xor _ _ _ _ => false
  | .andn _ _ _ _ => false
  | .andi _ _ _ _ => false
  | .ori _ _ _ _ => false
  | .xori _ _ _ _ => false
  | .shl _ _ _ _ => false
  | .shr _ _ _ _ => false
  | .sar _ _ _ _ => false
  | .rol _ _ _ _ => false
  | .shli _ _ _ _ => false
  | .shri _ _ _ _ => false
  | .sari _ _ _ _ => false
  | .roli _ _ _ _ => false
  | .clz _ _ _ => false
  | .popc _ _ _ => false
  | .brev _ _ _ => false
  | .bytep _ _ _ _ => false
  | .bfe _ _ _ _ => false
  | .bfeu _ _ _ _ => false
  | .bfi _ _ _ _ => false
  | .seq _ _ _ _ => false
  | .sne _ _ _ _ => false
  | .slt _ _ _ _ => false
  | .sle _ _ _ _ => false
  | .sltu _ _ _ _ => false
  | .sleu _ _ _ _ => false
  | .sel _ _ _ _ => false
  | .mov _ _ _ => false
  | .add64 _ _ _ _ => false
  | .sub64 _ _ _ _ => false
  | .mad64 _ _ _ _ => false
  | .shl64 _ _ _ _ => false
  | .sext8 _ _ _ => false
  | .sext16 _ _ _ => false
  | .zext8 _ _ _ => false
  | .zext16 _ _ _ => false
  | .fadd _ _ _ _ => false
  | .fsub _ _ _ _ => false
  | .fmul _ _ _ _ => false
  | .fma _ _ _ _ => false
  | .fmin _ _ _ _ => false
  | .fmax _ _ _ _ => false
  | .fabs _ _ _ => false
  | .fneg _ _ _ => false
  | .fseq _ _ _ _ => false
  | .fslt _ _ _ _ => false
  | .fsle _ _ _ _ => false
  | .fsun _ _ _ _ => false
  | .rcp _ _ _ => false
  | .rsq _ _ _ => false
  | .sqrt _ _ _ => false
  | .ex2 _ _ _ => false
  | .lg2 _ _ _ => false
  | .tanh _ _ _ => false
  | .floor _ _ _ => false
  | .frint _ _ _ => false
  | .badd2 _ _ _ _ => false
  | .bmul2 _ _ _ _ => false
  | .bfma2 _ _ _ _ => false
  | .bmax2 _ _ _ _ => false
  | .hadd2 _ _ _ _ => false
  | .hmul2 _ _ _ _ => false
  | .hfma2 _ _ _ _ => false
  | .hmax2 _ _ _ _ => false
  | .f2i _ _ _ => false
  | .i2f _ _ _ => false
  | .f2n _ _ _ _ => false
  | .n2f _ _ _ _ => false
  | .f2bf2 _ _ _ _ => false
  | .f2h2 _ _ _ _ => false
  | .bf2f _ _ _ _ => false
  | .h2f _ _ _ _ => false
  | .qf8 _ _ _ => false
  | .qf4 _ _ _ => false
  | .dq8 _ _ _ _ => false
  | .dq4 _ _ _ _ => false
  | .uadd _ _ _ _ => false
  | .usub _ _ _ _ => false
  | .umul _ _ _ _ => false
  | .umov _ _ _ => false
  | .uand _ _ _ _ => false
  | .uor _ _ _ _ => false
  | .uxor _ _ _ _ => false
  | .ushr _ _ _ _ => false
  | .ushl _ _ _ _ => false
  | .uadd64 _ _ _ _ => false
  | .useq _ _ _ _ => false
  | .uslt _ _ _ _ => false
  | .rdlane _ _ _ _ => false
  | .umin _ _ _ _ => false
  | .umax _ _ _ _ => false
  | .uaddi _ _ _ _ => false
  | .shflIdx _ _ _ _ => false
  | .shflUp _ _ _ _ => false
  | .shflDn _ _ _ _ => false
  | .shflXor _ _ _ _ => false
  | .voteAll _ _ _ => false
  | .voteAny _ _ _ => false
  | .ballot _ _ _ => false
  | .matchAny _ _ _ => false
  | .radd _ _ _ => false
  | .rmin _ _ _ => false
  | .rmax _ _ _ => false
  | .rfadd _ _ _ => false
  | .brz _ _ => false
  | .brnz _ _ => false
  | .call _ _ => false
  | .jmpi _ => false
  | .ret _ => false
  | .meet _ => false
  | .rdmt _ _ => false
  | .jf _ => false
  | .callf _ _ _ => false
  | .cfetch _ _ => false
  | .cqry _ _ _ => false
  | .ldB _ _ _ => false
  | .ldH _ _ _ => false
  | .ldW _ _ _ => false
  | .ldD _ _ _ => false
  | .ldBu _ _ _ => false
  | .ldHu _ _ _ => false
  | .ldQ _ _ _ => false
  | .ldF _ _ _ => false
  | .stB _ _ _ => false
  | .stH _ _ _ => false
  | .stW _ _ _ => false
  | .stD _ _ _ => false
  | .stQ _ _ _ => false
  | .ldxW _ _ _ => false
  | .ldxD _ _ _ => false
  | .ldxQ _ _ _ => false
  | .stxW _ _ _ => false
  | .stxD _ _ _ => false
  | .stxQ _ _ _ => false
  | .amoAdd _ _ _ _ => false
  | .amoMin _ _ _ _ => false
  | .amoMax _ _ _ _ => false
  | .amoAnd _ _ _ _ => false
  | .amoOr _ _ _ _ => false
  | .amoXor _ _ _ _ => false
  | .amoXchg _ _ _ _ => false
  | .amoCas _ _ _ _ => false
  | .amoFadd _ _ _ _ => false
  | .amoBfadd2 _ _ _ _ => false
  | .amoMinu _ _ _ _ => false
  | .amoMaxu _ _ _ _ => false
  | .amoxAdd _ _ _ _ => false
  | .amoxCas _ _ _ _ => false
  | .amoxXchg _ _ _ _ => false
  | .amoxFadd _ _ _ _ => false
  | .fence => false
  | .fencex _ _ => false
  | .bar => false
  | .gbar _ => false
  | .qpush _ _ => false
  | .qpop _ _ => false
  | .qtrypop _ _ _ => false
  | .qlen _ _ => false
  | .xqCp _ _ _ => false
  | .xqGx _ _ _ => false
  | .xqNe _ _ _ => false
  | .xqCl _ _ _ => false
  | .waith _ _ => false
  | .hset _ _ => false
  | .hqry _ _ _ _ => false
  | .hbind _ _ _ _ => false
  | .tlrSet _ _ => false
  | .tlrInv _ => false
  | .tlrRd _ _ _ _ => false
  | .mma _ _ _ => false
  | .mmas _ _ => false
  | .podid _ _ => false
  | .podmap _ _ _ => false
  | .trap _ => false
  | .svc _ _ _ => false
  | .brk => false
  | .assert _ _ => false
  | .frd _ _ _ => false
  | .fwr _ _ _ => false
  | .fres _ _ _ _ => false
  | .fkill _ _ _ _ => false
  | .uliSend _ _ => false
  | .uliWait _ _ _ => false
  | .uliMask _ _ _ _ => false
  | .uliBind _ _ _ => false
  | .launch _ _ _ _ => false
  | .spawn _ _ _ => false
  | .rdsr _ _ _ => false
  | .wrsr _ _ => false
  | .invl _ _ => false
  | .invla _ => false
  | .pgqry _ _ => false
  | .hxImm _ => false
  | .hxExt _ => false
  | .hxRegion _ => false
  | .hxSched _ _ => false
  | .reservedEncoding _ => true
  | .ageingForce _ _ => true
  | .blockedWake _ _ => true
  | .fullEmptyWaitSatisfied _ _ => true
  | .queueReexamine _ _ => true
  | .uliWaitTimeout _ => true
  | .segmentFetchLanded _ _ _ => true
  | .segmentFetchFaulted _ _ _ => true
  | .pathSegmentRequest _ => true
  | .segmentRequestRetry _ _ _ => true
  | .registerLineFill _ _ => true
  | .registerUncorrectable _ _ _ _ => true
  | .eccCorrection _ => true
  | .memoryUncorrectable _ _ => true
  | .heldRecordQueue _ => true
  | .handlerSpawn _ _ _ => true
  | .recordDeliverOwner _ _ => true
  | .handlerSlotFree _ _ => true
  | .pubStore _ => true
  | .ringAccept _ => true
  | .copy _ _ => true
  | .copy2d _ _ => true
  | .fillmc _ _ => true
  | .copymma _ _ => true
  | .fill _ _ => true
  | .copymmaFollowOn _ _ => true
  | .gather _ _ => true
  | .scatter _ _ => true
  | .scatteradd _ _ => true
  | .send _ _ => true
  | .rmaw _ _ => true
  | .contrib _ _ => true
  | .readsum _ _ => true
  | .readround _ _ => true
  | .relay _ _ => true
  | .subtransferComplete _ _ _ => true
  | .handleDestComplete _ _ => true
  | .handleSourceRelease _ _ => true
  | .tileRecordEvict _ _ => true
  | .arrayOperationStart _ _ => true
  | .arrayResultWrite _ _ => true
  | .launchStart _ _ => true
  | .launchRetire _ _ => true
  | .balancerDecision _ _ => true
  | .balancerPeriodic _ _ => true
  | .watchedQueueReexamine _ _ _ _ => true
  | .cacheBlockHandover _ => true
  | .taskStart _ => true
  | .taskRetire _ => true
  | .taskAbort _ _ => true
  | .slotPreemption _ => true
  | .preempt _ _ => true
  | .preemptResume _ _ => true
  | .contextSwitchOut _ _ => true
  | .switchedResume _ _ => true
  | .contextWake _ _ => true
  | .contextRunControl _ _ => true
  | .crewKill _ => true
  | .contextReset _ => true
  | .tenancyResetDrain _ => true
  | .tenancyResetCancel _ => true
  | .packageReset => true
  | .boot _ => true
  | .uliSendArrival _ => true
  | .refusalNotice _ => true
  | .replicationComplete _ _ => true
  | .collapseComplete _ _ => true
  | .pagePin _ _ _ _ => true
  | .pinExpire _ _ => true
  | .linkFail _ _ => true
  | .linkRestore _ _ => true
  | .fibrePairFail _ _ => true
  | .spareRetrained _ _ => true
  | .retrain _ _ => true
  | .portTrained _ _ => true
  | .portTrainingTimeout _ => true
  | .portLost _ _ => true
  | .moduleResponse _ _ => true
  | .moduleWaitRetry _ => true
  | .moduleNotice _ _ => true
  | .incastNotice _ => true
  | .incastRecovery _ => true
  | .headDownNotice _ => true
  | .lossNotice _ _ => true
  | .restoreNotice _ _ => true
  | .pairMessageArrival _ _ _ => true
  | .pairAckArrival _ _ => true
  | .pairResendTimeout _ => true
  | .relayRequest _ => true
  | .hostSendPageStore _ _ _ _ _ => true
  | .hostCxlAccess _ _ _ => true
  | .controlMessage _ _ _ _ => true
  | .fenceTimeout _ => true
  | .netPacketTransmit _ _ _ => true
  | .netPacketReceive _ => true
  | .netAckReceive _ _ _ => true
  | .netRtoExpire _ _ _ => true
  | .worldAssignGo _ _ _ _ => true
  | .keyGenerate _ _ => true
  | .scrubComplete _ _ => true
  | .entropyTestFail _ => true
  | .entropyHealthReset _ => true
  | .entropyRecovered _ => true
  | .frameOwnerWrite _ _ _ => true
  | .ownershipRequest _ => true
  | .ownershipGrantDecision _ => true
  | .ownershipRelease _ => true
  | .ownerLinkLoss => true
  | .bmcSilenceTimeout => true
  | .claimWrite _ _ _ _ _ _ _ => true
  | .handlerTableWrite _ _ _ _ => true
  | .vaultSettingsWrite _ _ _ => true
  | .extendMr _ _ _ => true
  | .capportFrd _ _ _ => true
  | .capportFwr _ _ _ _ => true
  | .capportFres _ _ _ _ => true
  | .capportFkill _ _ _ => true
  | .controlSpaceWrite _ _ => true
  | .getVersion => true
  | .getCapabilities => true
  | .negotiateAlgorithms _ _ => true
  | .getDigests => true
  | .getCertificate _ _ => true
  | .challenge _ => true
  | .getMeasurements _ => true
  | .keyExchange _ => true
  | .spdmFinish _ => true
  | .thermalThrottle _ => true
  | .thermalTrip _ => true
  | .powerGate _ => true
  | .accessPerformed _ _ => true
  | .frameZeroed _ => true
  | .remoteFormReturn _ _ => true
  | .powerController _ => true

end Sys2Proof
end

