-- ==== Sys2Proof/WellFormed.lean ====
section
/-! DEFINITION. Well-formed instructions: every operand is a value that its field can hold. -/

namespace Sys2Proof

/-- An operand that some code of R42 names. -/
def Src.wf : Src → Bool
  | .v n => n < 128
  | .k n => n < 96
  | .d n => 1 ≤ n && n ≤ 8
  | .zero => true
  | .lane => true
  | .tid => true
  | .crew => true
  | .task => true
  | .ones => true
  | .immw => true
  | .rsv c => (0xEE ≤ c && c ≤ 0xFD) || c == 0xFF

/-- Every operand lies in the range of its field (R39). Of a device step: its lane, mask or word is one that exists. -/
def Instr.wf : Instr → Bool
  | .nop => true
  | .yield => true
  | .exit => true
  | .taskend => true
  | .add _ d a b => decide (d < 128) && a.wf && b.wf
  | .sub _ d a b => decide (d < 128) && a.wf && b.wf
  | .min _ d a b => decide (d < 128) && a.wf && b.wf
  | .max _ d a b => decide (d < 128) && a.wf && b.wf
  | .addi _ d a imm => decide (d < 128) && a.wf && decide (imm < 256)
  | .mini _ d a imm => decide (d < 128) && a.wf && decide (imm < 256)
  | .maxi _ d a imm => decide (d < 128) && a.wf && decide (imm < 256)
  | .minu _ d a b => decide (d < 128) && a.wf && b.wf
  | .maxu _ d a b => decide (d < 128) && a.wf && b.wf
  | .abs _ d a => decide (d < 128) && a.wf
  | .neg _ d a => decide (d < 128) && a.wf
  | .mul _ d a b => decide (d < 128) && a.wf && b.wf
  | .mulh _ d a b => decide (d < 128) && a.wf && b.wf
  | .mulhu _ d a b => decide (d < 128) && a.wf && b.wf
  | .mad _ d a b => decide (d < 128) && a.wf && b.wf
  | .and _ d a b => decide (d < 128) && a.wf && b.wf
  | .or _ d a b => decide (d < 128) && a.wf && b.wf
  | .xor _ d a b => decide (d < 128) && a.wf && b.wf
  | .andn _ d a b => decide (d < 128) && a.wf && b.wf
  | .andi _ d a imm => decide (d < 128) && a.wf && decide (imm < 256)
  | .ori _ d a imm => decide (d < 128) && a.wf && decide (imm < 256)
  | .xori _ d a imm => decide (d < 128) && a.wf && decide (imm < 256)
  | .shl _ d a b => decide (d < 128) && a.wf && b.wf
  | .shr _ d a b => decide (d < 128) && a.wf && b.wf
  | .sar _ d a b => decide (d < 128) && a.wf && b.wf
  | .rol _ d a b => decide (d < 128) && a.wf && b.wf
  | .shli _ d a imm => decide (d < 128) && a.wf && decide (imm < 256)
  | .shri _ d a imm => decide (d < 128) && a.wf && decide (imm < 256)
  | .sari _ d a imm => decide (d < 128) && a.wf && decide (imm < 256)
  | .roli _ d a imm => decide (d < 128) && a.wf && decide (imm < 256)
  | .clz _ d a => decide (d < 128) && a.wf
  | .popc _ d a => decide (d < 128) && a.wf
  | .brev _ d a => decide (d < 128) && a.wf
  | .bytep _ d a b => decide (d < 128) && a.wf && b.wf
  | .bfe _ d a b => decide (d < 128) && a.wf && b.wf
  | .bfeu _ d a b => decide (d < 128) && a.wf && b.wf
  | .bfi _ d a b => decide (d < 128) && a.wf && b.wf
  | .seq _ d a b => decide (d < 128) && a.wf && b.wf
  | .sne _ d a b => decide (d < 128) && a.wf && b.wf
  | .slt _ d a b => decide (d < 128) && a.wf && b.wf
  | .sle _ d a b => decide (d < 128) && a.wf && b.wf
  | .sltu _ d a b => decide (d < 128) && a.wf && b.wf
  | .sleu _ d a b => decide (d < 128) && a.wf && b.wf
  | .sel _ d a b => decide (d < 128) && a.wf && b.wf
  | .mov _ d a => decide (d < 128) && a.wf
  | .add64 _ d a b => decide (d < 128) && a.wf && b.wf
  | .sub64 _ d a b => decide (d < 128) && a.wf && b.wf
  | .mad64 _ d a b => decide (d < 128) && a.wf && b.wf
  | .shl64 _ d a b => decide (d < 128) && a.wf && b.wf
  | .sext8 _ d a => decide (d < 128) && a.wf
  | .sext16 _ d a => decide (d < 128) && a.wf
  | .zext8 _ d a => decide (d < 128) && a.wf
  | .zext16 _ d a => decide (d < 128) && a.wf
  | .fadd _ d a b => decide (d < 128) && a.wf && b.wf
  | .fsub _ d a b => decide (d < 128) && a.wf && b.wf
  | .fmul _ d a b => decide (d < 128) && a.wf && b.wf
  | .fma _ d a b => decide (d < 128) && a.wf && b.wf
  | .fmin _ d a b => decide (d < 128) && a.wf && b.wf
  | .fmax _ d a b => decide (d < 128) && a.wf && b.wf
  | .fabs _ d a => decide (d < 128) && a.wf
  | .fneg _ d a => decide (d < 128) && a.wf
  | .fseq _ d a b => decide (d < 128) && a.wf && b.wf
  | .fslt _ d a b => decide (d < 128) && a.wf && b.wf
  | .fsle _ d a b => decide (d < 128) && a.wf && b.wf
  | .fsun _ d a b => decide (d < 128) && a.wf && b.wf
  | .rcp _ d a => decide (d < 128) && a.wf
  | .rsq _ d a => decide (d < 128) && a.wf
  | .sqrt _ d a => decide (d < 128) && a.wf
  | .ex2 _ d a => decide (d < 128) && a.wf
  | .lg2 _ d a => decide (d < 128) && a.wf
  | .tanh _ d a => decide (d < 128) && a.wf
  | .floor _ d a => decide (d < 128) && a.wf
  | .frint _ d a => decide (d < 128) && a.wf
  | .badd2 _ d a b => decide (d < 128) && a.wf && b.wf
  | .bmul2 _ d a b => decide (d < 128) && a.wf && b.wf
  | .bfma2 _ d a b => decide (d < 128) && a.wf && b.wf
  | .bmax2 _ d a b => decide (d < 128) && a.wf && b.wf
  | .hadd2 _ d a b => decide (d < 128) && a.wf && b.wf
  | .hmul2 _ d a b => decide (d < 128) && a.wf && b.wf
  | .hfma2 _ d a b => decide (d < 128) && a.wf && b.wf
  | .hmax2 _ d a b => decide (d < 128) && a.wf && b.wf
  | .f2i _ d a => decide (d < 128) && a.wf
  | .i2f _ d a => decide (d < 128) && a.wf
  | .f2n _ d a b => decide (d < 128) && a.wf && b.wf
  | .n2f _ d a b => decide (d < 128) && a.wf && b.wf
  | .f2bf2 _ d a b => decide (d < 128) && a.wf && b.wf
  | .f2h2 _ d a b => decide (d < 128) && a.wf && b.wf
  | .bf2f _ d a b => decide (d < 128) && a.wf && b.wf
  | .h2f _ d a b => decide (d < 128) && a.wf && b.wf
  | .qf8 _ d a => decide (d < 128) && a.wf
  | .qf4 _ d a => decide (d < 128) && a.wf
  | .dq8 _ d a b => decide (d < 128) && a.wf && b.wf
  | .dq4 _ d a b => decide (d < 128) && a.wf && b.wf
  | .uadd _ d a b => decide (d < 128) && a.wf && b.wf
  | .usub _ d a b => decide (d < 128) && a.wf && b.wf
  | .umul _ d a b => decide (d < 128) && a.wf && b.wf
  | .umov _ d a => decide (d < 128) && a.wf
  | .uand _ d a b => decide (d < 128) && a.wf && b.wf
  | .uor _ d a b => decide (d < 128) && a.wf && b.wf
  | .uxor _ d a b => decide (d < 128) && a.wf && b.wf
  | .ushr _ d a b => decide (d < 128) && a.wf && b.wf
  | .ushl _ d a b => decide (d < 128) && a.wf && b.wf
  | .uadd64 _ d a b => decide (d < 128) && a.wf && b.wf
  | .useq _ d a b => decide (d < 128) && a.wf && b.wf
  | .uslt _ d a b => decide (d < 128) && a.wf && b.wf
  | .rdlane _ d a b => decide (d < 128) && a.wf && b.wf
  | .umin _ d a b => decide (d < 128) && a.wf && b.wf
  | .umax _ d a b => decide (d < 128) && a.wf && b.wf
  | .uaddi _ d a imm => decide (d < 128) && a.wf && decide (imm < 256)
  | .shflIdx _ d a b => decide (d < 128) && a.wf && b.wf
  | .shflUp _ d a b => decide (d < 128) && a.wf && b.wf
  | .shflDn _ d a b => decide (d < 128) && a.wf && b.wf
  | .shflXor _ d a b => decide (d < 128) && a.wf && b.wf
  | .voteAll _ d a => decide (d < 128) && a.wf
  | .voteAny _ d a => decide (d < 128) && a.wf
  | .ballot _ d a => decide (d < 128) && a.wf
  | .matchAny _ d a => decide (d < 128) && a.wf
  | .radd _ d a => decide (d < 128) && a.wf
  | .rmin _ d a => decide (d < 128) && a.wf
  | .rmax _ d a => decide (d < 128) && a.wf
  | .rfadd _ d a => decide (d < 128) && a.wf
  | .brz a disp => a.wf && decide (-131072 ≤ disp) && decide (disp < 131072)
  | .brnz a disp => a.wf && decide (-131072 ≤ disp) && decide (disp < 131072)
  | .call a disp => a.wf && decide (-131072 ≤ disp) && decide (disp < 131072)
  | .jmpi a => a.wf
  | .ret a => a.wf
  | .meet a => a.wf
  | .rdmt _ d => decide (d < 128)
  | .jf a => a.wf
  | .callf _ d a => decide (d < 128) && a.wf
  | .cfetch a b => a.wf && b.wf
  | .cqry _ d a => decide (d < 128) && a.wf
  | .ldB d a b => decide (d < 128) && a.wf && b.wf
  | .ldH d a b => decide (d < 128) && a.wf && b.wf
  | .ldW d a b => decide (d < 128) && a.wf && b.wf
  | .ldD d a b => decide (d < 128) && a.wf && b.wf
  | .ldBu d a b => decide (d < 128) && a.wf && b.wf
  | .ldHu d a b => decide (d < 128) && a.wf && b.wf
  | .ldQ d a b => decide (d < 128) && a.wf && b.wf
  | .ldF d a b => decide (d < 128) && a.wf && b.wf
  | .stB d a b => decide (d < 128) && a.wf && b.wf
  | .stH d a b => decide (d < 128) && a.wf && b.wf
  | .stW d a b => decide (d < 128) && a.wf && b.wf
  | .stD d a b => decide (d < 128) && a.wf && b.wf
  | .stQ d a b => decide (d < 128) && a.wf && b.wf
  | .ldxW d a b => decide (d < 128) && a.wf && b.wf
  | .ldxD d a b => decide (d < 128) && a.wf && b.wf
  | .ldxQ d a b => decide (d < 128) && a.wf && b.wf
  | .stxW d a b => decide (d < 128) && a.wf && b.wf
  | .stxD d a b => decide (d < 128) && a.wf && b.wf
  | .stxQ d a b => decide (d < 128) && a.wf && b.wf
  | .amoAdd _ d a b => decide (d < 128) && a.wf && b.wf
  | .amoMin _ d a b => decide (d < 128) && a.wf && b.wf
  | .amoMax _ d a b => decide (d < 128) && a.wf && b.wf
  | .amoAnd _ d a b => decide (d < 128) && a.wf && b.wf
  | .amoOr _ d a b => decide (d < 128) && a.wf && b.wf
  | .amoXor _ d a b => decide (d < 128) && a.wf && b.wf
  | .amoXchg _ d a b => decide (d < 128) && a.wf && b.wf
  | .amoCas _ d a b => decide (d < 128) && a.wf && b.wf
  | .amoFadd _ d a b => decide (d < 128) && a.wf && b.wf
  | .amoBfadd2 _ d a b => decide (d < 128) && a.wf && b.wf
  | .amoMinu _ d a b => decide (d < 128) && a.wf && b.wf
  | .amoMaxu _ d a b => decide (d < 128) && a.wf && b.wf
  | .amoxAdd _ d a b => decide (d < 128) && a.wf && b.wf
  | .amoxCas _ d a b => decide (d < 128) && a.wf && b.wf
  | .amoxXchg _ d a b => decide (d < 128) && a.wf && b.wf
  | .amoxFadd _ d a b => decide (d < 128) && a.wf && b.wf
  | .fence => true
  | .fencex a b => a.wf && b.wf
  | .bar => true
  | .gbar a => a.wf
  | .qpush d a => decide (d < 128) && a.wf
  | .qpop d a => decide (d < 128) && a.wf
  | .qtrypop d a b => decide (d < 128) && a.wf && b.wf
  | .qlen d a => decide (d < 128) && a.wf
  | .xqCp _ d a => decide (d < 128) && a.wf
  | .xqGx _ d a => decide (d < 128) && a.wf
  | .xqNe _ d a => decide (d < 128) && a.wf
  | .xqCl _ d a => decide (d < 128) && a.wf
  | .waith a b => a.wf && b.wf
  | .hset a b => a.wf && b.wf
  | .hqry _ d a b => decide (d < 128) && a.wf && b.wf
  | .hbind _ d a b => decide (d < 128) && a.wf && b.wf
  | .tlrSet a b => a.wf && b.wf
  | .tlrInv a => a.wf
  | .tlrRd _ d a b => decide (d < 128) && a.wf && b.wf
  | .mma d a b => decide (d < 128) && a.wf && b.wf
  | .mmas a b => a.wf && b.wf
  | .podid _ d => decide (d < 128)
  | .podmap _ d a => decide (d < 128) && a.wf
  | .trap a => a.wf
  | .svc d a b => decide (d < 128) && a.wf && b.wf
  | .brk => true
  | .assert a b => a.wf && b.wf
  | .frd d a b => decide (d < 128) && a.wf && b.wf
  | .fwr d a b => decide (d < 128) && a.wf && b.wf
  | .fres _ d a b => decide (d < 128) && a.wf && b.wf
  | .fkill _ d a b => decide (d < 128) && a.wf && b.wf
  | .uliSend a b => a.wf && b.wf
  | .uliWait d a b => decide (d < 128) && a.wf && b.wf
  | .uliMask _ d a b => decide (d < 128) && a.wf && b.wf
  | .uliBind _ d a => decide (d < 128) && a.wf
  | .launch _ d a b => decide (d < 128) && a.wf && b.wf
  | .spawn _ d a => decide (d < 128) && a.wf
  | .rdsr _ d a => decide (d < 128) && a.wf
  | .wrsr a b => a.wf && b.wf
  | .invl a b => a.wf && b.wf
  | .invla a => a.wf
  | .pgqry d a => decide (d < 128) && a.wf
  | .hxImm payload => decide (payload < 16777216)
  | .hxExt payload => decide (payload < 16777216)
  | .hxRegion payload => decide (payload < 16777216)
  | .hxSched pri reuse => decide (pri < 4) && decide (reuse < 16)
  | .reservedEncoding w => decide (w < 4294967296)
  | .ageingForce _ _ => true
  | .blockedWake _ mask => decide (mask < 4294967296)
  | .fullEmptyWaitSatisfied _ lane => decide (lane < 32)
  | .queueReexamine _ lane => decide (lane < 32)
  | .uliWaitTimeout _ => true
  | .segmentFetchLanded _ _ _ => true
  | .segmentFetchFaulted _ _ _ => true
  | .pathSegmentRequest _ => true
  | .segmentRequestRetry _ _ _ => true
  | .registerLineFill _ _ => true
  | .registerUncorrectable _ _ _ _ => true
  | .eccCorrection _ => true
  | .memoryUncorrectable _ _ => true
  | .heldRecordQueue _ => true
  | .handlerSpawn _ _ _ => true
  | .recordDeliverOwner _ _ => true
  | .handlerSlotFree _ _ => true
  | .pubStore _ => true
  | .ringAccept _ => true
  | .copy _ _ => true
  | .copy2d _ _ => true
  | .fillmc _ _ => true
  | .copymma _ _ => true
  | .fill _ _ => true
  | .copymmaFollowOn _ _ => true
  | .gather _ _ => true
  | .scatter _ _ => true
  | .scatteradd _ _ => true
  | .send _ _ => true
  | .rmaw _ _ => true
  | .contrib _ _ => true
  | .readsum _ _ => true
  | .readround _ _ => true
  | .relay _ _ => true
  | .subtransferComplete _ _ _ => true
  | .handleDestComplete _ _ => true
  | .handleSourceRelease _ _ => true
  | .tileRecordEvict _ _ => true
  | .arrayOperationStart _ _ => true
  | .arrayResultWrite _ _ => true
  | .launchStart _ _ => true
  | .launchRetire _ _ => true
  | .balancerDecision _ _ => true
  | .balancerPeriodic _ _ => true
  | .watchedQueueReexamine _ _ _ _ => true
  | .cacheBlockHandover _ => true
  | .taskStart _ => true
  | .taskRetire _ => true
  | .taskAbort _ _ => true
  | .slotPreemption _ => true
  | .preempt _ _ => true
  | .preemptResume _ _ => true
  | .contextSwitchOut _ _ => true
  | .switchedResume _ _ => true
  | .contextWake _ _ => true
  | .contextRunControl _ _ => true
  | .crewKill _ => true
  | .contextReset _ => true
  | .tenancyResetDrain _ => true
  | .tenancyResetCancel _ => true
  | .packageReset => true
  | .boot _ => true
  | .uliSendArrival _ => true
  | .refusalNotice _ => true
  | .replicationComplete _ _ => true
  | .collapseComplete _ _ => true
  | .pagePin _ _ _ _ => true
  | .pinExpire _ _ => true
  | .linkFail _ _ => true
  | .linkRestore _ _ => true
  | .fibrePairFail _ _ => true
  | .spareRetrained _ _ => true
  | .retrain _ _ => true
  | .portTrained _ _ => true
  | .portTrainingTimeout _ => true
  | .portLost _ _ => true
  | .moduleResponse _ _ => true
  | .moduleWaitRetry _ => true
  | .moduleNotice _ _ => true
  | .incastNotice _ => true
  | .incastRecovery _ => true
  | .headDownNotice _ => true
  | .lossNotice _ _ => true
  | .restoreNotice _ _ => true
  | .pairMessageArrival _ _ _ => true
  | .pairAckArrival _ _ => true
  | .pairResendTimeout _ => true
  | .relayRequest _ => true
  | .hostSendPageStore _ _ _ _ _ => true
  | .hostCxlAccess _ _ _ => true
  | .controlMessage _ _ _ _ => true
  | .fenceTimeout _ => true
  | .netPacketTransmit _ _ _ => true
  | .netPacketReceive _ => true
  | .netAckReceive _ _ _ => true
  | .netRtoExpire _ _ _ => true
  | .worldAssignGo _ _ _ _ => true
  | .keyGenerate _ _ => true
  | .scrubComplete _ _ => true
  | .entropyTestFail _ => true
  | .entropyHealthReset _ => true
  | .entropyRecovered _ => true
  | .frameOwnerWrite _ _ _ => true
  | .ownershipRequest _ => true
  | .ownershipGrantDecision _ => true
  | .ownershipRelease _ => true
  | .ownerLinkLoss => true
  | .bmcSilenceTimeout => true
  | .claimWrite _ _ _ _ _ _ _ => true
  | .handlerTableWrite _ _ _ _ => true
  | .vaultSettingsWrite _ _ _ => true
  | .extendMr _ _ _ => true
  | .capportFrd _ _ _ => true
  | .capportFwr _ _ _ _ => true
  | .capportFres _ _ _ _ => true
  | .capportFkill _ _ _ => true
  | .controlSpaceWrite _ _ => true
  | .getVersion => true
  | .getCapabilities => true
  | .negotiateAlgorithms _ _ => true
  | .getDigests => true
  | .getCertificate _ _ => true
  | .challenge _ => true
  | .getMeasurements _ => true
  | .keyExchange _ => true
  | .spdmFinish _ => true
  | .thermalThrottle _ => true
  | .thermalTrip _ => true
  | .powerGate _ => true
  | .accessPerformed _ _ => true
  | .frameZeroed _ => true
  | .remoteFormReturn _ _ => true
  | .powerController _ => true

end Sys2Proof
end

