-- ==== Sys2Proof/Decode.lean ====
section
/-! DEFINITION. Decoding of instruction words (R39 to R42, R47, R58, R59), total and rejecting by name, and the encoder written from the same formats. -/

namespace Sys2Proof

/-- Why a word is no instruction (R56). `nw` and `sched` keep the instruction that the word would be, since the checks of subcodes 0x04 to 0x07 come before 0x09, and 0x06 before 0x07. -/
inductive Illegal where
  | reserved (w : Nat)
  | unused
  | nw (i : Instr)
  | sched (pri reuse : Nat)
  | short
  deriving DecidableEq, Repr

/-! ## Operand codes (R42) -/

/-- The operand that a code names. -/
def Src.ofCode (c : Nat) : Src :=
  if c < 0x80 then .v c
  else if c < 0xE0 then .k (c - 0x80)
  else if c < 0xE8 then .d (c - 0xDF)
  else if c = 0xE8 then .zero
  else if c = 0xE9 then .lane
  else if c = 0xEA then .tid
  else if c = 0xEB then .crew
  else if c = 0xEC then .task
  else if c = 0xED then .ones
  else if c = 0xFE then .immw
  else .rsv c

/-- The code of an operand. -/
def Src.toCode : Src → Nat
  | .v n => n
  | .k n => 0x80 + n
  | .d n => 0xDF + n
  | .zero => 0xE8
  | .lane => 0xE9
  | .tid => 0xEA
  | .crew => 0xEB
  | .task => 0xEC
  | .ones => 0xED
  | .immw => 0xFE
  | .rsv c => c

/-! ## Word formats (R39) -/

/-- The fields of a word in format R, I or M. -/
structure Fields where
  maj : Nat
  nw : Nat
  d : Nat
  a : Nat
  b : Nat
  mn : Nat
  deriving DecidableEq, Repr

/-- The fields of a word. -/
def fieldsOf (w : Nat) : Fields :=
  ⟨w / 67108864 % 64, w / 33554432 % 2, w / 262144 % 128, w / 1024 % 256, w / 4 % 256, w % 4⟩

/-- The word with these fields. -/
def Fields.word (f : Fields) : Nat :=
  f.maj * 67108864 + f.nw * 33554432 + f.d * 262144 + f.a * 1024 + f.b * 4 + f.mn

/-- A displacement of 18 bits, two's complement. -/
def dispOf (n : Nat) : Int := if n < 131072 then (n : Int) else (n : Int) - 262144

/-- The 18 bits of a displacement. -/
def dispCode (x : Int) : Nat := (x % 262144).toNat

/-- A word of format B with this major, A code and displacement field. -/
def branchWord (maj a disp : Nat) : Nat := maj * 67108864 + a * 262144 + disp

/-- A word of format H. -/
def hintWord (kind payload : Nat) : Nat := 63 * 67108864 + kind * 16777216 + payload

/-- What an entry of the opcode map takes from the fields of its word. A field that is not named must be zero (R40); where NW is not named, NW = 1 is forbidden (R47). -/
inductive Row where
  | reserved
  | bare (i : Instr)
  | nDAB (f : Bool → Nat → Src → Src → Instr)
  | nDAI (f : Bool → Nat → Src → Nat → Instr)
  | nDA (f : Bool → Nat → Src → Instr)
  | nD (f : Bool → Nat → Instr)
  | dAB (f : Nat → Src → Src → Instr)
  | dA (f : Nat → Src → Instr)
  | aB (f : Src → Src → Instr)
  | aOnly (f : Src → Instr)

/-- A row of the opcode map: four minors, one branch, the hints, or wholly reserved. -/
inductive Major where
  | minors (r0 r1 r2 r3 : Row)
  | branch (f : Src → Int → Instr)
  | hints
  | reserved

/-- Majors 0x00 to 0x0F of the opcode map (R58). -/
def majors0 : List Major :=
  [.minors (.bare .nop) (.bare .yield) (.bare .exit) (.bare .taskend),
   .minors (.nDAB .add) (.nDAB .sub) (.nDAB .min) (.nDAB .max),
   .minors (.nDAI .addi) (.nDAI .mini) (.nDAI .maxi) .reserved,
   .minors (.nDAB .minu) (.nDAB .maxu) (.nDA .abs) (.nDA .neg),
   .minors (.nDAB .mul) (.nDAB .mulh) (.nDAB .mulhu) (.nDAB .mad),
   .minors (.nDAB .and) (.nDAB .or) (.nDAB .xor) (.nDAB .andn),
   .minors (.nDAI .andi) (.nDAI .ori) (.nDAI .xori) .reserved,
   .minors (.nDAB .shl) (.nDAB .shr) (.nDAB .sar) (.nDAB .rol),
   .minors (.nDAI .shli) (.nDAI .shri) (.nDAI .sari) (.nDAI .roli),
   .minors (.nDA .clz) (.nDA .popc) (.nDA .brev) (.nDAB .bytep),
   .minors (.nDAB .bfe) (.nDAB .bfeu) (.nDAB .bfi) .reserved,
   .minors (.nDAB .seq) (.nDAB .sne) (.nDAB .slt) (.nDAB .sle),
   .minors (.nDAB .sltu) (.nDAB .sleu) (.nDAB .sel) (.nDA .mov),
   .minors (.nDAB .add64) (.nDAB .sub64) (.nDAB .mad64) (.nDAB .shl64),
   .minors (.nDA .sext8) (.nDA .sext16) (.nDA .zext8) (.nDA .zext16),
   .reserved]

/-- Majors 0x10 to 0x1F of the opcode map (R58). -/
def majors1 : List Major :=
  [.minors (.nDAB .fadd) (.nDAB .fsub) (.nDAB .fmul) (.nDAB .fma),
   .minors (.nDAB .fmin) (.nDAB .fmax) (.nDA .fabs) (.nDA .fneg),
   .minors (.nDAB .fseq) (.nDAB .fslt) (.nDAB .fsle) (.nDAB .fsun),
   .minors (.nDA .rcp) (.nDA .rsq) (.nDA .sqrt) (.nDA .ex2),
   .minors (.nDA .lg2) (.nDA .tanh) (.nDA .floor) (.nDA .frint),
   .minors (.nDAB .badd2) (.nDAB .bmul2) (.nDAB .bfma2) (.nDAB .bmax2),
   .minors (.nDAB .hadd2) (.nDAB .hmul2) (.nDAB .hfma2) (.nDAB .hmax2),
   .minors (.nDA .f2i) (.nDA .i2f) (.nDAB .f2n) (.nDAB .n2f),
   .minors (.nDAB .f2bf2) (.nDAB .f2h2) (.nDAB .bf2f) (.nDAB .h2f),
   .minors (.nDA .qf8) (.nDA .qf4) (.nDAB .dq8) (.nDAB .dq4),
   .minors (.nDAB .uadd) (.nDAB .usub) (.nDAB .umul) (.nDA .umov),
   .minors (.nDAB .uand) (.nDAB .uor) (.nDAB .uxor) (.nDAB .ushr),
   .minors (.nDAB .ushl) (.nDAB .uadd64) (.nDAB .useq) (.nDAB .uslt),
   .minors (.nDAB .rdlane) (.nDAB .umin) (.nDAB .umax) (.nDAI .uaddi),
   .minors (.nDAB .shflIdx) (.nDAB .shflUp) (.nDAB .shflDn) (.nDAB .shflXor),
   .minors (.nDA .voteAll) (.nDA .voteAny) (.nDA .ballot) (.nDA .matchAny)]

/-- Majors 0x20 to 0x2F of the opcode map (R58). -/
def majors2 : List Major :=
  [.minors (.nDA .radd) (.nDA .rmin) (.nDA .rmax) (.nDA .rfadd),
   .branch .brz,
   .branch .brnz,
   .branch .call,
   .minors (.aOnly .jmpi) (.aOnly .ret) (.aOnly .meet) (.nD .rdmt),
   .minors (.aOnly .jf) (.nDA .callf) (.aB .cfetch) (.nDA .cqry),
   .minors (.dAB .ldB) (.dAB .ldH) (.dAB .ldW) (.dAB .ldD),
   .minors (.dAB .ldBu) (.dAB .ldHu) (.dAB .ldQ) (.dAB .ldF),
   .minors (.dAB .stB) (.dAB .stH) (.dAB .stW) (.dAB .stD),
   .minors (.dAB .stQ) (.dAB .ldxW) (.dAB .ldxD) (.dAB .ldxQ),
   .minors (.dAB .stxW) (.dAB .stxD) (.dAB .stxQ) .reserved,
   .minors (.nDAB .amoAdd) (.nDAB .amoMin) (.nDAB .amoMax) (.nDAB .amoAnd),
   .minors (.nDAB .amoOr) (.nDAB .amoXor) (.nDAB .amoXchg) (.nDAB .amoCas),
   .minors (.nDAB .amoFadd) (.nDAB .amoBfadd2) (.nDAB .amoMinu) (.nDAB .amoMaxu),
   .minors (.nDAB .amoxAdd) (.nDAB .amoxCas) (.nDAB .amoxXchg) (.nDAB .amoxFadd),
   .minors (.bare .fence) (.aB .fencex) (.bare .bar) (.aOnly .gbar)]

/-- Majors 0x30 to 0x3F of the opcode map (R58). -/
def majors3 : List Major :=
  [.minors (.dA .qpush) (.dA .qpop) (.dAB .qtrypop) (.dA .qlen),
   .minors (.nDA .xqCp) (.nDA .xqGx) (.nDA .xqNe) (.nDA .xqCl),
   .minors (.aB .waith) (.aB .hset) (.nDAB .hqry) (.nDAB .hbind),
   .minors (.aB .tlrSet) (.aOnly .tlrInv) (.nDAB .tlrRd) .reserved,
   .minors (.dAB .mma) (.aB .mmas) .reserved .reserved,
   .minors (.nD .podid) (.nDA .podmap) .reserved .reserved,
   .minors (.aOnly .trap) (.dAB .svc) (.bare .brk) (.aB .assert),
   .minors (.dAB .frd) (.dAB .fwr) (.nDAB .fres) (.nDAB .fkill),
   .minors (.aB .uliSend) (.dAB .uliWait) (.nDAB .uliMask) (.nDA .uliBind),
   .minors (.nDAB .launch) (.nDA .spawn) (.nDA .rdsr) (.aB .wrsr),
   .minors (.aB .invl) (.aOnly .invla) (.dA .pgqry) .reserved,
   .reserved,
   .reserved,
   .reserved,
   .reserved,
   .hints]

/-- The opcode map (R58): 64 majors. -/
def majors : List Major := majors0 ++ majors1 ++ majors2 ++ majors3

/-- The row of the map for a major and a minor. -/
def Major.row : Major → Nat → Row
  | .minors r0 r1 r2 r3, m => if m = 0 then r0 else if m = 1 then r1 else if m = 2 then r2 else r3
  | _, _ => .reserved

/-- The unused fields first (subcode 0x03), then NW where it is forbidden (subcode 0x09). -/
def guardRow (ok : Bool) (nwBad : Bool) (i : Instr) : Except Illegal Instr :=
  if ok then (if nwBad then .error (.nw i) else .ok i) else .error .unused

/-- The instruction that a row and the fields of a word give. -/
def Row.decode (r : Row) (w : Nat) (f : Fields) : Except Illegal Instr :=
  match r with
  | .reserved => .error (.reserved w)
  | .bare i => guardRow (f.d == 0 && f.a == 0 && f.b == 0) (f.nw == 1) i
  | .nDAB g => .ok (g (f.nw == 1) f.d (.ofCode f.a) (.ofCode f.b))
  | .nDAI g => .ok (g (f.nw == 1) f.d (.ofCode f.a) f.b)
  | .nDA g => guardRow (f.b == 0) false (g (f.nw == 1) f.d (.ofCode f.a))
  | .nD g => guardRow (f.a == 0 && f.b == 0) false (g (f.nw == 1) f.d)
  | .dAB g => guardRow true (f.nw == 1) (g f.d (.ofCode f.a) (.ofCode f.b))
  | .dA g => guardRow (f.b == 0) (f.nw == 1) (g f.d (.ofCode f.a))
  | .aB g => guardRow (f.d == 0) (f.nw == 1) (g (.ofCode f.a) (.ofCode f.b))
  | .aOnly g => guardRow (f.d == 0 && f.b == 0) (f.nw == 1) (g (.ofCode f.a))

/-- A hint word: KIND and PAYLOAD (R59). -/
def decodeHint (kind payload : Nat) : Except Illegal Instr :=
  if kind = 0 then .ok (.hxImm payload)
  else if kind = 1 then .ok (.hxExt payload)
  else if kind = 2 then .ok (.hxRegion payload)
  else if payload < 64 then .ok (.hxSched (payload / 16) (payload % 16))
  else .error (.sched (payload / 16 % 4) (payload % 16))

/-- The instruction of a word whose major is given. -/
def Major.decode (m : Major) (w : Nat) : Except Illegal Instr :=
  match m with
  | .reserved => .error (.reserved w)
  | .hints => decodeHint (w / 16777216 % 4) (w % 16777216)
  | .branch f => .ok (f (.ofCode (w / 262144 % 256)) (dispOf (w % 262144)))
  | m => (m.row (w % 4)).decode w (fieldsOf w)

/-- The instruction of a word, as a number of 32 bits. -/
def decodeNat (w : Nat) : Except Illegal Instr := (majors.getD (fieldsOf w).maj .reserved).decode w

/-- The instruction of a word. -/
def decode (w : Word) : Except Illegal Instr := decodeNat w.toNat

/-- The word that four bytes form, the first at the lowest address (R4). -/
def wordOfBytes (b0 b1 b2 b3 : Byte) : Word := b3 ++ b2 ++ b1 ++ b0

/-- The instruction at the head of a list of bytes, with the rest. -/
def decodeBytes : List Byte → Except Illegal (Instr × List Byte)
  | b0 :: b1 :: b2 :: b3 :: rest =>
    match decode (wordOfBytes b0 b1 b2 b3) with
    | .ok i => .ok (i, rest)
    | .error e => .error e
  | _ => .error .short

/-- The bytes of a word, the least significant first (R4). -/
def bytesOfWord (w : Word) : List Byte :=
  [w.extractLsb' 0 8, w.extractLsb' 8 8, w.extractLsb' 16 8, w.extractLsb' 24 8]

/-- The instruction that the decoder reads from a table row's bits: the word's bytes are laid out as the hardware stores them and decoded. -/
def decodeTableWord (nbits w : Nat) : Option Instr :=
  if nbits ≤ 32 ∧ w < 2 ^ nbits then
    match decodeBytes (bytesOfWord (BitVec.ofNat 32 w)) with
    | .ok (i, _) => some i
    | .error _ => none
  else none

/-! ## The encoder -/

/-- The number of a Bool field. -/
def bit (b : Bool) : Nat := if b then 1 else 0

/-- The word of an instruction in format R, I or M. -/
def encodeFields (maj mn nw d a b : Nat) : Option Nat := some (Fields.word ⟨maj, nw, d, a, b, mn⟩)

/-- The word of an instruction; none for the device's own steps, which have no word. -/
def encodeNat : Instr → Option Nat
  | .nop => encodeFields 0x00 0 0 0 0 0
  | .yield => encodeFields 0x00 1 0 0 0 0
  | .exit => encodeFields 0x00 2 0 0 0 0
  | .taskend => encodeFields 0x00 3 0 0 0 0
  | .add nw d a b => encodeFields 0x01 0 (bit nw) d a.toCode b.toCode
  | .sub nw d a b => encodeFields 0x01 1 (bit nw) d a.toCode b.toCode
  | .min nw d a b => encodeFields 0x01 2 (bit nw) d a.toCode b.toCode
  | .max nw d a b => encodeFields 0x01 3 (bit nw) d a.toCode b.toCode
  | .addi nw d a imm => encodeFields 0x02 0 (bit nw) d a.toCode imm
  | .mini nw d a imm => encodeFields 0x02 1 (bit nw) d a.toCode imm
  | .maxi nw d a imm => encodeFields 0x02 2 (bit nw) d a.toCode imm
  | .minu nw d a b => encodeFields 0x03 0 (bit nw) d a.toCode b.toCode
  | .maxu nw d a b => encodeFields 0x03 1 (bit nw) d a.toCode b.toCode
  | .abs nw d a => encodeFields 0x03 2 (bit nw) d a.toCode 0
  | .neg nw d a => encodeFields 0x03 3 (bit nw) d a.toCode 0
  | .mul nw d a b => encodeFields 0x04 0 (bit nw) d a.toCode b.toCode
  | .mulh nw d a b => encodeFields 0x04 1 (bit nw) d a.toCode b.toCode
  | .mulhu nw d a b => encodeFields 0x04 2 (bit nw) d a.toCode b.toCode
  | .mad nw d a b => encodeFields 0x04 3 (bit nw) d a.toCode b.toCode
  | .and nw d a b => encodeFields 0x05 0 (bit nw) d a.toCode b.toCode
  | .or nw d a b => encodeFields 0x05 1 (bit nw) d a.toCode b.toCode
  | .xor nw d a b => encodeFields 0x05 2 (bit nw) d a.toCode b.toCode
  | .andn nw d a b => encodeFields 0x05 3 (bit nw) d a.toCode b.toCode
  | .andi nw d a imm => encodeFields 0x06 0 (bit nw) d a.toCode imm
  | .ori nw d a imm => encodeFields 0x06 1 (bit nw) d a.toCode imm
  | .xori nw d a imm => encodeFields 0x06 2 (bit nw) d a.toCode imm
  | .shl nw d a b => encodeFields 0x07 0 (bit nw) d a.toCode b.toCode
  | .shr nw d a b => encodeFields 0x07 1 (bit nw) d a.toCode b.toCode
  | .sar nw d a b => encodeFields 0x07 2 (bit nw) d a.toCode b.toCode
  | .rol nw d a b => encodeFields 0x07 3 (bit nw) d a.toCode b.toCode
  | .shli nw d a imm => encodeFields 0x08 0 (bit nw) d a.toCode imm
  | .shri nw d a imm => encodeFields 0x08 1 (bit nw) d a.toCode imm
  | .sari nw d a imm => encodeFields 0x08 2 (bit nw) d a.toCode imm
  | .roli nw d a imm => encodeFields 0x08 3 (bit nw) d a.toCode imm
  | .clz nw d a => encodeFields 0x09 0 (bit nw) d a.toCode 0
  | .popc nw d a => encodeFields 0x09 1 (bit nw) d a.toCode 0
  | .brev nw d a => encodeFields 0x09 2 (bit nw) d a.toCode 0
  | .bytep nw d a b => encodeFields 0x09 3 (bit nw) d a.toCode b.toCode
  | .bfe nw d a b => encodeFields 0x0A 0 (bit nw) d a.toCode b.toCode
  | .bfeu nw d a b => encodeFields 0x0A 1 (bit nw) d a.toCode b.toCode
  | .bfi nw d a b => encodeFields 0x0A 2 (bit nw) d a.toCode b.toCode
  | .seq nw d a b => encodeFields 0x0B 0 (bit nw) d a.toCode b.toCode
  | .sne nw d a b => encodeFields 0x0B 1 (bit nw) d a.toCode b.toCode
  | .slt nw d a b => encodeFields 0x0B 2 (bit nw) d a.toCode b.toCode
  | .sle nw d a b => encodeFields 0x0B 3 (bit nw) d a.toCode b.toCode
  | .sltu nw d a b => encodeFields 0x0C 0 (bit nw) d a.toCode b.toCode
  | .sleu nw d a b => encodeFields 0x0C 1 (bit nw) d a.toCode b.toCode
  | .sel nw d a b => encodeFields 0x0C 2 (bit nw) d a.toCode b.toCode
  | .mov nw d a => encodeFields 0x0C 3 (bit nw) d a.toCode 0
  | .add64 nw d a b => encodeFields 0x0D 0 (bit nw) d a.toCode b.toCode
  | .sub64 nw d a b => encodeFields 0x0D 1 (bit nw) d a.toCode b.toCode
  | .mad64 nw d a b => encodeFields 0x0D 2 (bit nw) d a.toCode b.toCode
  | .shl64 nw d a b => encodeFields 0x0D 3 (bit nw) d a.toCode b.toCode
  | .sext8 nw d a => encodeFields 0x0E 0 (bit nw) d a.toCode 0
  | .sext16 nw d a => encodeFields 0x0E 1 (bit nw) d a.toCode 0
  | .zext8 nw d a => encodeFields 0x0E 2 (bit nw) d a.toCode 0
  | .zext16 nw d a => encodeFields 0x0E 3 (bit nw) d a.toCode 0
  | .fadd nw d a b => encodeFields 0x10 0 (bit nw) d a.toCode b.toCode
  | .fsub nw d a b => encodeFields 0x10 1 (bit nw) d a.toCode b.toCode
  | .fmul nw d a b => encodeFields 0x10 2 (bit nw) d a.toCode b.toCode
  | .fma nw d a b => encodeFields 0x10 3 (bit nw) d a.toCode b.toCode
  | .fmin nw d a b => encodeFields 0x11 0 (bit nw) d a.toCode b.toCode
  | .fmax nw d a b => encodeFields 0x11 1 (bit nw) d a.toCode b.toCode
  | .fabs nw d a => encodeFields 0x11 2 (bit nw) d a.toCode 0
  | .fneg nw d a => encodeFields 0x11 3 (bit nw) d a.toCode 0
  | .fseq nw d a b => encodeFields 0x12 0 (bit nw) d a.toCode b.toCode
  | .fslt nw d a b => encodeFields 0x12 1 (bit nw) d a.toCode b.toCode
  | .fsle nw d a b => encodeFields 0x12 2 (bit nw) d a.toCode b.toCode
  | .fsun nw d a b => encodeFields 0x12 3 (bit nw) d a.toCode b.toCode
  | .rcp nw d a => encodeFields 0x13 0 (bit nw) d a.toCode 0
  | .rsq nw d a => encodeFields 0x13 1 (bit nw) d a.toCode 0
  | .sqrt nw d a => encodeFields 0x13 2 (bit nw) d a.toCode 0
  | .ex2 nw d a => encodeFields 0x13 3 (bit nw) d a.toCode 0
  | .lg2 nw d a => encodeFields 0x14 0 (bit nw) d a.toCode 0
  | .tanh nw d a => encodeFields 0x14 1 (bit nw) d a.toCode 0
  | .floor nw d a => encodeFields 0x14 2 (bit nw) d a.toCode 0
  | .frint nw d a => encodeFields 0x14 3 (bit nw) d a.toCode 0
  | .badd2 nw d a b => encodeFields 0x15 0 (bit nw) d a.toCode b.toCode
  | .bmul2 nw d a b => encodeFields 0x15 1 (bit nw) d a.toCode b.toCode
  | .bfma2 nw d a b => encodeFields 0x15 2 (bit nw) d a.toCode b.toCode
  | .bmax2 nw d a b => encodeFields 0x15 3 (bit nw) d a.toCode b.toCode
  | .hadd2 nw d a b => encodeFields 0x16 0 (bit nw) d a.toCode b.toCode
  | .hmul2 nw d a b => encodeFields 0x16 1 (bit nw) d a.toCode b.toCode
  | .hfma2 nw d a b => encodeFields 0x16 2 (bit nw) d a.toCode b.toCode
  | .hmax2 nw d a b => encodeFields 0x16 3 (bit nw) d a.toCode b.toCode
  | .f2i nw d a => encodeFields 0x17 0 (bit nw) d a.toCode 0
  | .i2f nw d a => encodeFields 0x17 1 (bit nw) d a.toCode 0
  | .f2n nw d a b => encodeFields 0x17 2 (bit nw) d a.toCode b.toCode
  | .n2f nw d a b => encodeFields 0x17 3 (bit nw) d a.toCode b.toCode
  | .f2bf2 nw d a b => encodeFields 0x18 0 (bit nw) d a.toCode b.toCode
  | .f2h2 nw d a b => encodeFields 0x18 1 (bit nw) d a.toCode b.toCode
  | .bf2f nw d a b => encodeFields 0x18 2 (bit nw) d a.toCode b.toCode
  | .h2f nw d a b => encodeFields 0x18 3 (bit nw) d a.toCode b.toCode
  | .qf8 nw d a => encodeFields 0x19 0 (bit nw) d a.toCode 0
  | .qf4 nw d a => encodeFields 0x19 1 (bit nw) d a.toCode 0
  | .dq8 nw d a b => encodeFields 0x19 2 (bit nw) d a.toCode b.toCode
  | .dq4 nw d a b => encodeFields 0x19 3 (bit nw) d a.toCode b.toCode
  | .uadd nw d a b => encodeFields 0x1A 0 (bit nw) d a.toCode b.toCode
  | .usub nw d a b => encodeFields 0x1A 1 (bit nw) d a.toCode b.toCode
  | .umul nw d a b => encodeFields 0x1A 2 (bit nw) d a.toCode b.toCode
  | .umov nw d a => encodeFields 0x1A 3 (bit nw) d a.toCode 0
  | .uand nw d a b => encodeFields 0x1B 0 (bit nw) d a.toCode b.toCode
  | .uor nw d a b => encodeFields 0x1B 1 (bit nw) d a.toCode b.toCode
  | .uxor nw d a b => encodeFields 0x1B 2 (bit nw) d a.toCode b.toCode
  | .ushr nw d a b => encodeFields 0x1B 3 (bit nw) d a.toCode b.toCode
  | .ushl nw d a b => encodeFields 0x1C 0 (bit nw) d a.toCode b.toCode
  | .uadd64 nw d a b => encodeFields 0x1C 1 (bit nw) d a.toCode b.toCode
  | .useq nw d a b => encodeFields 0x1C 2 (bit nw) d a.toCode b.toCode
  | .uslt nw d a b => encodeFields 0x1C 3 (bit nw) d a.toCode b.toCode
  | .rdlane nw d a b => encodeFields 0x1D 0 (bit nw) d a.toCode b.toCode
  | .umin nw d a b => encodeFields 0x1D 1 (bit nw) d a.toCode b.toCode
  | .umax nw d a b => encodeFields 0x1D 2 (bit nw) d a.toCode b.toCode
  | .uaddi nw d a imm => encodeFields 0x1D 3 (bit nw) d a.toCode imm
  | .shflIdx nw d a b => encodeFields 0x1E 0 (bit nw) d a.toCode b.toCode
  | .shflUp nw d a b => encodeFields 0x1E 1 (bit nw) d a.toCode b.toCode
  | .shflDn nw d a b => encodeFields 0x1E 2 (bit nw) d a.toCode b.toCode
  | .shflXor nw d a b => encodeFields 0x1E 3 (bit nw) d a.toCode b.toCode
  | .voteAll nw d a => encodeFields 0x1F 0 (bit nw) d a.toCode 0
  | .voteAny nw d a => encodeFields 0x1F 1 (bit nw) d a.toCode 0
  | .ballot nw d a => encodeFields 0x1F 2 (bit nw) d a.toCode 0
  | .matchAny nw d a => encodeFields 0x1F 3 (bit nw) d a.toCode 0
  | .radd nw d a => encodeFields 0x20 0 (bit nw) d a.toCode 0
  | .rmin nw d a => encodeFields 0x20 1 (bit nw) d a.toCode 0
  | .rmax nw d a => encodeFields 0x20 2 (bit nw) d a.toCode 0
  | .rfadd nw d a => encodeFields 0x20 3 (bit nw) d a.toCode 0
  | .brz a disp => some (branchWord 0x21 a.toCode (dispCode disp))
  | .brnz a disp => some (branchWord 0x22 a.toCode (dispCode disp))
  | .call a disp => some (branchWord 0x23 a.toCode (dispCode disp))
  | .jmpi a => encodeFields 0x24 0 0 0 a.toCode 0
  | .ret a => encodeFields 0x24 1 0 0 a.toCode 0
  | .meet a => encodeFields 0x24 2 0 0 a.toCode 0
  | .rdmt nw d => encodeFields 0x24 3 (bit nw) d 0 0
  | .jf a => encodeFields 0x25 0 0 0 a.toCode 0
  | .callf nw d a => encodeFields 0x25 1 (bit nw) d a.toCode 0
  | .cfetch a b => encodeFields 0x25 2 0 0 a.toCode b.toCode
  | .cqry nw d a => encodeFields 0x25 3 (bit nw) d a.toCode 0
  | .ldB d a b => encodeFields 0x26 0 0 d a.toCode b.toCode
  | .ldH d a b => encodeFields 0x26 1 0 d a.toCode b.toCode
  | .ldW d a b => encodeFields 0x26 2 0 d a.toCode b.toCode
  | .ldD d a b => encodeFields 0x26 3 0 d a.toCode b.toCode
  | .ldBu d a b => encodeFields 0x27 0 0 d a.toCode b.toCode
  | .ldHu d a b => encodeFields 0x27 1 0 d a.toCode b.toCode
  | .ldQ d a b => encodeFields 0x27 2 0 d a.toCode b.toCode
  | .ldF d a b => encodeFields 0x27 3 0 d a.toCode b.toCode
  | .stB d a b => encodeFields 0x28 0 0 d a.toCode b.toCode
  | .stH d a b => encodeFields 0x28 1 0 d a.toCode b.toCode
  | .stW d a b => encodeFields 0x28 2 0 d a.toCode b.toCode
  | .stD d a b => encodeFields 0x28 3 0 d a.toCode b.toCode
  | .stQ d a b => encodeFields 0x29 0 0 d a.toCode b.toCode
  | .ldxW d a b => encodeFields 0x29 1 0 d a.toCode b.toCode
  | .ldxD d a b => encodeFields 0x29 2 0 d a.toCode b.toCode
  | .ldxQ d a b => encodeFields 0x29 3 0 d a.toCode b.toCode
  | .stxW d a b => encodeFields 0x2A 0 0 d a.toCode b.toCode
  | .stxD d a b => encodeFields 0x2A 1 0 d a.toCode b.toCode
  | .stxQ d a b => encodeFields 0x2A 2 0 d a.toCode b.toCode
  | .amoAdd nw d a b => encodeFields 0x2B 0 (bit nw) d a.toCode b.toCode
  | .amoMin nw d a b => encodeFields 0x2B 1 (bit nw) d a.toCode b.toCode
  | .amoMax nw d a b => encodeFields 0x2B 2 (bit nw) d a.toCode b.toCode
  | .amoAnd nw d a b => encodeFields 0x2B 3 (bit nw) d a.toCode b.toCode
  | .amoOr nw d a b => encodeFields 0x2C 0 (bit nw) d a.toCode b.toCode
  | .amoXor nw d a b => encodeFields 0x2C 1 (bit nw) d a.toCode b.toCode
  | .amoXchg nw d a b => encodeFields 0x2C 2 (bit nw) d a.toCode b.toCode
  | .amoCas nw d a b => encodeFields 0x2C 3 (bit nw) d a.toCode b.toCode
  | .amoFadd nw d a b => encodeFields 0x2D 0 (bit nw) d a.toCode b.toCode
  | .amoBfadd2 nw d a b => encodeFields 0x2D 1 (bit nw) d a.toCode b.toCode
  | .amoMinu nw d a b => encodeFields 0x2D 2 (bit nw) d a.toCode b.toCode
  | .amoMaxu nw d a b => encodeFields 0x2D 3 (bit nw) d a.toCode b.toCode
  | .amoxAdd nw d a b => encodeFields 0x2E 0 (bit nw) d a.toCode b.toCode
  | .amoxCas nw d a b => encodeFields 0x2E 1 (bit nw) d a.toCode b.toCode
  | .amoxXchg nw d a b => encodeFields 0x2E 2 (bit nw) d a.toCode b.toCode
  | .amoxFadd nw d a b => encodeFields 0x2E 3 (bit nw) d a.toCode b.toCode
  | .fence => encodeFields 0x2F 0 0 0 0 0
  | .fencex a b => encodeFields 0x2F 1 0 0 a.toCode b.toCode
  | .bar => encodeFields 0x2F 2 0 0 0 0
  | .gbar a => encodeFields 0x2F 3 0 0 a.toCode 0
  | .qpush d a => encodeFields 0x30 0 0 d a.toCode 0
  | .qpop d a => encodeFields 0x30 1 0 d a.toCode 0
  | .qtrypop d a b => encodeFields 0x30 2 0 d a.toCode b.toCode
  | .qlen d a => encodeFields 0x30 3 0 d a.toCode 0
  | .xqCp nw d a => encodeFields 0x31 0 (bit nw) d a.toCode 0
  | .xqGx nw d a => encodeFields 0x31 1 (bit nw) d a.toCode 0
  | .xqNe nw d a => encodeFields 0x31 2 (bit nw) d a.toCode 0
  | .xqCl nw d a => encodeFields 0x31 3 (bit nw) d a.toCode 0
  | .waith a b => encodeFields 0x32 0 0 0 a.toCode b.toCode
  | .hset a b => encodeFields 0x32 1 0 0 a.toCode b.toCode
  | .hqry nw d a b => encodeFields 0x32 2 (bit nw) d a.toCode b.toCode
  | .hbind nw d a b => encodeFields 0x32 3 (bit nw) d a.toCode b.toCode
  | .tlrSet a b => encodeFields 0x33 0 0 0 a.toCode b.toCode
  | .tlrInv a => encodeFields 0x33 1 0 0 a.toCode 0
  | .tlrRd nw d a b => encodeFields 0x33 2 (bit nw) d a.toCode b.toCode
  | .mma d a b => encodeFields 0x34 0 0 d a.toCode b.toCode
  | .mmas a b => encodeFields 0x34 1 0 0 a.toCode b.toCode
  | .podid nw d => encodeFields 0x35 0 (bit nw) d 0 0
  | .podmap nw d a => encodeFields 0x35 1 (bit nw) d a.toCode 0
  | .trap a => encodeFields 0x36 0 0 0 a.toCode 0
  | .svc d a b => encodeFields 0x36 1 0 d a.toCode b.toCode
  | .brk => encodeFields 0x36 2 0 0 0 0
  | .assert a b => encodeFields 0x36 3 0 0 a.toCode b.toCode
  | .frd d a b => encodeFields 0x37 0 0 d a.toCode b.toCode
  | .fwr d a b => encodeFields 0x37 1 0 d a.toCode b.toCode
  | .fres nw d a b => encodeFields 0x37 2 (bit nw) d a.toCode b.toCode
  | .fkill nw d a b => encodeFields 0x37 3 (bit nw) d a.toCode b.toCode
  | .uliSend a b => encodeFields 0x38 0 0 0 a.toCode b.toCode
  | .uliWait d a b => encodeFields 0x38 1 0 d a.toCode b.toCode
  | .uliMask nw d a b => encodeFields 0x38 2 (bit nw) d a.toCode b.toCode
  | .uliBind nw d a => encodeFields 0x38 3 (bit nw) d a.toCode 0
  | .launch nw d a b => encodeFields 0x39 0 (bit nw) d a.toCode b.toCode
  | .spawn nw d a => encodeFields 0x39 1 (bit nw) d a.toCode 0
  | .rdsr nw d a => encodeFields 0x39 2 (bit nw) d a.toCode 0
  | .wrsr a b => encodeFields 0x39 3 0 0 a.toCode b.toCode
  | .invl a b => encodeFields 0x3A 0 0 0 a.toCode b.toCode
  | .invla a => encodeFields 0x3A 1 0 0 a.toCode 0
  | .pgqry d a => encodeFields 0x3A 2 0 d a.toCode 0
  | .hxImm payload => some (hintWord 0 payload)
  | .hxExt payload => some (hintWord 1 payload)
  | .hxRegion payload => some (hintWord 2 payload)
  | .hxSched pri reuse => some (hintWord 3 (pri * 16 + reuse))
  | .reservedEncoding _ => none
  | .ageingForce _ _ => none
  | .blockedWake _ _ => none
  | .fullEmptyWaitSatisfied _ _ => none
  | .queueReexamine _ _ => none
  | .uliWaitTimeout _ => none
  | .segmentFetchLanded _ _ _ => none
  | .segmentFetchFaulted _ _ _ => none
  | .pathSegmentRequest _ => none
  | .segmentRequestRetry _ _ _ => none
  | .registerLineFill _ _ => none
  | .registerUncorrectable _ _ _ _ => none
  | .eccCorrection _ => none
  | .memoryUncorrectable _ _ => none
  | .heldRecordQueue _ => none
  | .handlerSpawn _ _ _ => none
  | .recordDeliverOwner _ _ => none
  | .handlerSlotFree _ _ => none
  | .pubStore _ => none
  | .ringAccept _ => none
  | .copy _ _ => none
  | .copy2d _ _ => none
  | .fillmc _ _ => none
  | .copymma _ _ => none
  | .fill _ _ => none
  | .copymmaFollowOn _ _ => none
  | .gather _ _ => none
  | .scatter _ _ => none
  | .scatteradd _ _ => none
  | .send _ _ => none
  | .rmaw _ _ => none
  | .contrib _ _ => none
  | .readsum _ _ => none
  | .readround _ _ => none
  | .relay _ _ => none
  | .subtransferComplete _ _ _ => none
  | .handleDestComplete _ _ => none
  | .handleSourceRelease _ _ => none
  | .tileRecordEvict _ _ => none
  | .arrayOperationStart _ _ => none
  | .arrayResultWrite _ _ => none
  | .launchStart _ _ => none
  | .launchRetire _ _ => none
  | .balancerDecision _ _ => none
  | .balancerPeriodic _ _ => none
  | .watchedQueueReexamine _ _ _ _ => none
  | .cacheBlockHandover _ => none
  | .taskStart _ => none
  | .taskRetire _ => none
  | .taskAbort _ _ => none
  | .slotPreemption _ => none
  | .preempt _ _ => none
  | .preemptResume _ _ => none
  | .contextSwitchOut _ _ => none
  | .switchedResume _ _ => none
  | .contextWake _ _ => none
  | .contextRunControl _ _ => none
  | .crewKill _ => none
  | .contextReset _ => none
  | .tenancyResetDrain _ => none
  | .tenancyResetCancel _ => none
  | .packageReset => none
  | .boot _ => none
  | .uliSendArrival _ => none
  | .refusalNotice _ => none
  | .replicationComplete _ _ => none
  | .collapseComplete _ _ => none
  | .pagePin _ _ _ _ => none
  | .pinExpire _ _ => none
  | .linkFail _ _ => none
  | .linkRestore _ _ => none
  | .fibrePairFail _ _ => none
  | .spareRetrained _ _ => none
  | .retrain _ _ => none
  | .portTrained _ _ => none
  | .portTrainingTimeout _ => none
  | .portLost _ _ => none
  | .moduleResponse _ _ => none
  | .moduleWaitRetry _ => none
  | .moduleNotice _ _ => none
  | .incastNotice _ => none
  | .incastRecovery _ => none
  | .headDownNotice _ => none
  | .lossNotice _ _ => none
  | .restoreNotice _ _ => none
  | .pairMessageArrival _ _ _ => none
  | .pairAckArrival _ _ => none
  | .pairResendTimeout _ => none
  | .relayRequest _ => none
  | .hostSendPageStore _ _ _ _ _ => none
  | .hostCxlAccess _ _ _ => none
  | .controlMessage _ _ _ _ => none
  | .fenceTimeout _ => none
  | .netPacketTransmit _ _ _ => none
  | .netPacketReceive _ => none
  | .netAckReceive _ _ _ => none
  | .netRtoExpire _ _ _ => none
  | .worldAssignGo _ _ _ _ => none
  | .keyGenerate _ _ => none
  | .scrubComplete _ _ => none
  | .entropyTestFail _ => none
  | .entropyHealthReset _ => none
  | .entropyRecovered _ => none
  | .frameOwnerWrite _ _ _ => none
  | .ownershipRequest _ => none
  | .ownershipGrantDecision _ => none
  | .ownershipRelease _ => none
  | .ownerLinkLoss => none
  | .bmcSilenceTimeout => none
  | .claimWrite _ _ _ _ _ _ _ => none
  | .handlerTableWrite _ _ _ _ => none
  | .vaultSettingsWrite _ _ _ => none
  | .extendMr _ _ _ => none
  | .capportFrd _ _ _ => none
  | .capportFwr _ _ _ _ => none
  | .capportFres _ _ _ _ => none
  | .capportFkill _ _ _ => none
  | .controlSpaceWrite _ _ => none
  | .getVersion => none
  | .getCapabilities => none
  | .negotiateAlgorithms _ _ => none
  | .getDigests => none
  | .getCertificate _ _ => none
  | .challenge _ => none
  | .getMeasurements _ => none
  | .keyExchange _ => none
  | .spdmFinish _ => none
  | .thermalThrottle _ => none
  | .thermalTrip _ => none
  | .powerGate _ => none
  | .accessPerformed _ _ => none
  | .frameZeroed _ => none
  | .remoteFormReturn _ _ => none
  | .powerController _ => none

/-- The words of an instruction: one, or none for a step of the device. -/
def encode (i : Instr) : List Word :=
  match encodeNat i with
  | some w => [BitVec.ofNat 32 w]
  | none => []

end Sys2Proof
end

