-- ==== Sys2Proof/Machine/State.lean ====
section
/-! DEFINITION. The state of the MZ-9 as plain data: threads, gangs, crews, contexts, tenancies, launches, memory with its bits and tags, cores and dies, engine commands, ports, pod, host, network and trust; the fault and refusal names; the state after reset. -/

namespace Sys2Proof.Machine

/-- A table: values under keys, in rising order of the keys. -/
abbrev Tbl (α : Type) := List (Nat × α)

/-! ## Outcomes -/

/-- The named faults of the model. -/
inductive Fault where
  /-- Raised by the meaning of an instruction word when no path is issuing it (`cur` is none, or names no gang). Safe: the machine does not go on. -/
  | noIssuingPath
  deriving DecidableEq, Repr

/-- The named refusals of the model. -/
inductive Refusal where
  /-- An instruction without a meaning, by its mnemonic. Safe: the machine does not go on. -/
  | notModelled (mnemonic : String)
  deriving DecidableEq, Repr

/-! ## Threads (R13, R16, R22, R24, R46, R50, R143) -/

/-- Thread run states (R16). -/
inductive Run where
  | run
  | held
  | blocked
  | frozen
  | exited
  deriving DecidableEq, Repr

/-- A result latch (R24). -/
inductive Latch where
  | empty
  | invalid
  | val (w : Word)
  deriving DecidableEq, Repr

/-- The hints pending for a thread (R50): the payloads of HX.IMM, HX.EXT and HX.SCHED. -/
structure Hints where
  imm : Option Nat
  ext : Option Nat
  sched : Option Nat
  deriving DecidableEq, Repr

/-- What a BLOCKED thread waits for (R16). `barrier n` and `group gid n` name the barrier instance at which it arrived. `moduleCmd` waits for the response to a command for the queue at an address; `moduleStep` has it: stage 0 no item was there, 1 the place is reserved and its item is due, 2 the step is made. -/
inductive Wait where
  | access
  | fullEmpty (granule : Nat) (full : Bool)
  | queue (pa : Nat)
  | handle (h : Nat)
  | barrier (inst : Nat)
  | group (gid inst : Nat)
  | segment (seg : Nat)
  | ownSegment (seg : Nat)
  | interrupt (ep : Nat) (until_ : Nat)
  | service (batch : Nat)
  | moduleCmd (tag pa : Nat)
  | moduleStep (pa stage : Nat)
  | pageInTransit (va : Nat)
  deriving DecidableEq, Repr

/-- The operation of a BLOCKED thread: the instruction with the hints it bound, the operand values it read, what it has done so far (a stage, a reservation, an item), what it waits for, the clock at which it began to wait, and the interval in which it stands (R233). -/
structure Pend where
  insn : Instr
  hints : Hints
  vals : List Word
  extra : List Word
  why : Wait
  since : Nat
  iv : Nat
  deriving DecidableEq, Repr

/-- The last-page register (R143): the 512 KiB page number and its leaf, as a level-2 entry. -/
structure LastPage where
  page : Nat
  leaf : DWord
  deriving DecidableEq, Repr

/-- A thread's control state (R13), latches (R24), L-pending bits with those that were set as a register pair (R46), pending hints (R50), waiting operation (R16) and last-page register (R143). -/
structure Thread where
  pc : Word
  mt : Word
  rep : Word
  rcnt : Word
  fps : Word
  clockhi : Word
  run : Run
  fset : Nat
  lat : List Latch
  lpv : BitVec 128
  lpp : BitVec 128
  lpk : BitVec 96
  hints : Hints
  wait : Option Pend
  lastPage : Option LastPage
  deriving DecidableEq, Repr

/-! ## Gangs (R9, R22, R29, R253, R303, R307) -/

/-- Context states on a core, held by each gang (R307). -/
inductive Resid where
  | running
  | preempted
  | switched
  deriving DecidableEq, Repr

/-- An interval that is open for race detection (R233): its number, the interval clock when it opened, the accesses not yet acknowledged by where they went (a module port with 32 times its link, 16 plus the port where it was lost first, or 12 inside the package), and whether a synchronising operation has ended it. -/
structure Iv where
  num : Nat
  stamp : Nat
  pend : List Nat
  ended : Bool
  deriving DecidableEq, Repr

/-- A tile record of a crew (R190): image, validity, and whether the core's record cache holds it (R193). -/
structure TileRec where
  img : BitVec 256
  valid : Bool
  cached : Bool
  deriving DecidableEq, Repr

/-- A gang. `grec` is its gang record number, or its handler record number where `hslot` names a handler slot; `slot` its gang slot on the core. `ages` holds the ageing counters (R19), each with the lanes of its path; `current` the PC of the current path; `forced` the lanes of a forced path with the instructions left; `split` the lane masks of a hint split still to issue. `readied` says that the gang was ready at the end of the last step, since the clock `readyAt` (R304). Of the register lines, `absent` are those that only the image holds, `backed` those in the register backing, `clean` those equal to the image, `marked` those marked EVICTABLE (R252 to R254); a line in neither of the first two is in the register cache of the sub-core. `damaged` are the registers of a lane lost to an uncorrectable error. `owed` are the accesses of intervals that were forced to an end (R242); `queries` the registers whose PGQRY results wait for a page in transit: lane, register, address, and whether it is the high word (R225); `tiles` the tile records that the gang has set and that other gangs do not see yet, `oldTiles` those that it still sees as they were, though another gang has set and ordered them anew (R192). -/
structure Gang where
  index : Nat
  crew : Nat
  ctx : Nat
  level : Nat
  grec : Nat
  core : Nat
  slot : Nat
  hslot : Option Nat
  resid : Resid
  threads : List Thread
  v : Tbl Word
  k : Tbl Word
  ages : Tbl Nat
  current : Option Nat
  forced : Option (Nat × Nat)
  split : List Nat
  issue : Option Nat
  takenAt : Nat
  readyAt : Nat
  readied : Bool
  guard : Bool
  ivNum : Nat
  ivs : List Iv
  absent : List Nat
  backed : List Nat
  clean : List Nat
  marked : List Nat
  damaged : List (Nat × Nat)
  owed : List Nat
  queries : List (Nat × Nat × Nat × Bool)
  tiles : Tbl TileRec
  oldTiles : Tbl TileRec
  deriving DecidableEq, Repr

/-! ## Crews and tasks (R11, R32, R170, R190, R296 to R302) -/

/-- The phase of a task: its window being emptied, its staging commands running (R298), running, killed. -/
inductive Phase where
  | handover
  | staging
  | running
  | killed
  deriving DecidableEq, Repr

/-- An entry of a commit log (R299): a store, or a posted atomic of operation `op` and width `w`; `pa` is the place in memory, `via` the physical address by which the task reached it, `who` the gang and the lane. -/
inductive LogOp where
  | store (pa via : Nat) (who : Nat × Nat) (bytes : List Byte)
  | atomic (pa via : Nat) (who : Nat × Nat) (op w : Nat) (data cmp : DWord)
  deriving DecidableEq, Repr

/-- What an unpinned task defers (R167, R207, R216): a push of an item by a thread, to the queue whose descriptor lies at an address; an interrupt send; a service request. -/
inductive Deferred where
  | push (lane pa : Nat) (item : List Byte)
  | send (agent : Nat) (ep : DWord) (operand : Word)
  | service (die : Nat) (request : List Byte)
  deriving DecidableEq, Repr

/-- A pop reservation of a task whose HEAD commit waits (R167): thread index, queue descriptor address, number. -/
structure PopRes where
  lane : Nat
  pa : Nat
  num : Nat
  deriving DecidableEq, Repr

/-- An entry that XQ published and that is not accepted yet (R173, R192): its ring number and image, the sub-core of its gang (core·12 + sub-core), that gang, and the tile records read at issue. -/
structure Xq where
  sq : Nat
  img : BitVec 256
  sub : Nat
  gkey : Nat
  trec : BitVec 256
  brec : BitVec 256
  crec : BitVec 256
  deriving DecidableEq, Repr

/-- A continuation task that SPAWN has created and that waits for a core of its die (R208, R309): its serial, saved crew index, stage, die, its gang as it will start, and the pop reservations kept for it where it is run again. -/
structure Cont where
  serial : Nat
  index : Nat
  stage : Nat
  die : Nat
  gang : Gang
  held : List PopRes
  deriving DecidableEq, Repr

/-- A crew and the task it runs. `blocks` are the first blocks of its window portions, one for each core; `portion` the blocks of a portion; `logBlock` the first block of its commit log with the count. `held` are pop reservations kept for a task that is run again; `cont` is the continuation that the task goes on with; `pubs` the values of PUB that its threads have stored, each with the sub-core and the gang of the store (R172, R179). -/
structure Crew where
  ctx : Nat
  launch : Nat
  stage : Nat
  index : Nat
  serial : Nat
  level : Nat
  cores : List Nat
  ring : Nat
  portion : Nat
  blocks : List Nat
  logBlock : Option (Nat × Nat)
  k2 : Word
  item : List Byte
  popped : Option PopRes
  k4 : Word
  k7 : Word
  groups : List Nat
  cluster : Option Nat
  rank : Nat
  cont : Option Cont
  phase : Phase
  bar : Nat
  pub : Word
  taken : Word
  broken : Bool
  xq : List Xq
  pubs : List (Nat × Nat × Nat)
  tiles : Tbl TileRec
  fetched : List (Nat × Nat)
  staged : Nat
  repl : Bool
  pinned : Bool
  log : List LogOp
  logUse : Nat
  deferred : List Deferred
  pops : List PopRes
  held : List PopRes
  conts : List Nat
  deriving DecidableEq, Repr

/-! ## Launches (R286 to R291) -/

/-- A stage record (R287). -/
structure Stage where
  entry : Word
  ncrew : Nat
  gangs : Nat
  cores : Nat
  repl : Bool
  regs : Nat
  kregs : Nat
  wblk : Nat
  log4k : Nat
  prio : Nat
  fpen : Nat
  oscope : Nat
  nstg : Nat
  stg : Nat
  inq : DWord
  outqs : List DWord
  deriving DecidableEq, Repr

/-- A group entry with its members in rank order (R289). -/
structure Group where
  barrier : Bool
  join : Bool
  cohab : Bool
  members : List (Nat × Nat)
  deriving DecidableEq, Repr

/-- A staging entry (R288). -/
structure Staging where
  mc : Bool
  stride : Word
  woff : Nat
  len : Nat
  src : DWord
  deriving DecidableEq, Repr

/-- An aborted task that is to be run again (R301). -/
structure Rerun where
  stage : Nat
  index : Nat
  serial : Nat
  k2 : Word
  item : List Byte
  popped : Option PopRes
  held : List PopRes
  deriving DecidableEq, Repr

/-- A launch that has been accepted and has not retired. `busy` are the crew indices taken, `gbar` the barrier instance of each group, `watch` the clock at which each stage's input queue was last examined, `conts` the continuations that wait for a place, `records` the continuation records of its tasks that are not FREE. -/
structure Launch where
  ctx : Nat
  serial : Nat
  stream : Nat
  ov : Bool
  level : Nat
  started : Bool
  hold : Bool
  csend : Bool
  cop : Word
  cep : DWord
  compl : DWord
  arg : DWord
  range : Nat
  taken : Nat
  stages : List Stage
  groups : List Group
  stagings : List Staging
  nextTask : Nat
  busy : List (Nat × Nat)
  retired : List (Nat × Nat)
  reruns : List Rerun
  gbar : Tbl Nat
  watch : Tbl Nat
  conts : List Cont
  records : List Nat
  deriving DecidableEq, Repr

/-! ## Fault records and frozen sets (R311, R313, R318) -/

/-- A fault record (R313). `gkey` is the model's key of the faulting gang, `crew` that of its crew, `fetch` the number of the fetch of its handler's entry segment that is made for it (R320), `ord` its place among the records of the package in the order in which they were made (R251, R319). -/
structure Rec where
  seq : Nat
  task : Nat
  crewIx : Nat
  gang : Nat
  grec : Nat
  gslot : Nat
  core : Nat
  cls : Nat
  sub : Nat
  level : Nat
  nested : Bool
  eng : Bool
  lanes : Nat
  rcnt : Word
  rep : Word
  pc : Word
  va : DWord
  cap : DWord
  gkey : Nat
  crew : Nat
  fetch : Option Nat
  ord : Nat
  deriving DecidableEq, Repr

/-- States of a frozen object (R318), CLOSED apart: a closed object is removed. -/
inductive FState where
  | queued
  | handled
  | owned
  | unattended
  deriving DecidableEq, Repr

/-- A frozen set (R310): its gang, the lanes still frozen, its record, its state, the handler gang that repairs it. -/
structure FSet where
  gkey : Nat
  lanes : Nat
  rec_ : Rec
  st : FState
  handler : Option Nat
  deriving DecidableEq, Repr

/-! ## Contexts (R28, R35, R280, R290, R317, R323, R330, R331, R374) -/

/-- A format descriptor (R280). -/
structure FDesc where
  dbase : Nat
  size : Nat
  mbase : Nat
  deriving DecidableEq, Repr

/-- A stream of a context (R290, R295): priority, weight and credit. -/
structure Stream where
  sprio : Nat
  swt : Nat
  credit : Nat
  deriving DecidableEq, Repr

/-- A sender permission entry (R330), with the sends accepted in its current window. -/
structure Perm where
  lo : DWord
  vmask : DWord
  window : Nat
  accepted : Nat
  deriving DecidableEq, Repr

/-- A pending vector of an endpoint (R331). -/
structure Vector_ where
  num : Nat
  payload : Nat
  count : Nat
  first : DWord
  ord : Nat
  deriving DecidableEq, Repr

/-- An interrupt endpoint (R331): pending vectors, mask, the gang record number of the bound gang, refused sends, arrival counter. -/
structure Endpoint where
  pending : List Vector_
  mask : DWord
  bound : Option Nat
  refused : Nat
  nextOrd : Nat
  deriving DecidableEq, Repr

/-- A network endpoint entry (R374). -/
structure NetEp where
  isOpen : Bool
  job : Nat
  pid : Nat
  addr : BitVec 128
  deriving DecidableEq, Repr

/-- A receive slot (R374). -/
structure RecvSlot where
  valid : Bool
  mask : Word
  tag : Word
  blen : Nat
  buf : DWord
  cword : DWord
  deriving DecidableEq, Repr

/-- A context. `regNext` and `codeNext` are written bases that wait for a context switch (R28). `queue` is the fault queue, `heldRecs` the records held by their sources while it is full; `sets` the frozen sets by index, `gens` the generations of the indices, `unindexed` the sets that wait for an index. `epsInImage` says that the endpoints lie in the image (R331). -/
structure Context where
  tenancy : Nat
  ageMax : Nat
  prio : Nat
  regBase : DWord
  codeBase : DWord
  regNext : DWord
  codeNext : DWord
  ptroot : Nat
  fqBase : DWord
  fdesc : Tbl FDesc
  handlers : Tbl DWord
  streams : Tbl Stream
  perms : Tbl Perm
  eps : List Endpoint
  epsInImage : Bool
  drops : Nat
  sendQs : Tbl DWord
  netEps : Tbl NetEp
  recvs : Tbl RecvSlot
  job : Nat
  pid : Nat
  noMatch : Nat
  placeFaults : Nat
  nextLaunch : Nat
  nextSeq : Nat
  queue : List Rec
  heldRecs : List Rec
  sets : Tbl FSet
  gens : Tbl Nat
  unindexed : List FSet
  stopped : Bool
  resetting : Bool
  deriving DecidableEq, Repr

/-! ## Tenancies (R35, R306, R315, R370 to R372) -/

/-- A claim entry (R315). -/
structure Claim where
  owner : Nat
  ovec : Nat
  oq : DWord
  oep : DWord
  deriving DecidableEq, Repr

/-- A tenancy: its dies as a mask, weight TWT, claim table, host-visible ranges, data-fence word, host notice queue, replica pool, counters, the MSI-X raised each with its trusted indication (R385), and whether a reset drains it. `gone` drops sends after its reset (R336). -/
structure Tenancy where
  dies : Nat
  twt : Nat
  claims : Tbl Claim
  hostRanges : Tbl (Nat × Nat)
  fence : Option Nat
  noticeQ : Option Nat
  replicas : List Nat
  refused : Nat
  msix : List Bool
  draining : Bool
  gone : Bool
  deriving DecidableEq, Repr

/-! ## Memory metadata (R152, R239) -/

/-- Modes of a race tag (R239). -/
inductive TagMode where
  | clear
  | read
  | write
  | shared
  deriving DecidableEq, Repr

/-- A race tag (R239). READ and WRITE name an agent and its interval; SHARED carries STAMP. -/
structure Tag where
  mode : TagMode
  syn : Bool
  wr : Bool
  agent : Nat
  epoch : Nat
  stamp : Nat
  deriving DecidableEq, Repr

/-! ## Cores and dies (R132, R185, R197, R256, R259, R278, R303, R320) -/

/-- Segment states (R132). A segment in none of the lists is ABSENT. -/
inductive SegState where
  | fetching
  | resident
  | refused
  | faulted
  deriving DecidableEq, Repr

/-- A segment on a core: its resident copy as listed bytes (an unlisted byte is what unlisted memory reads as), the level of the gang that asked for it, the order of its fetch, a refresh in flight, and the fault of a failed fetch. -/
structure Seg where
  ctx : Nat
  seg : Nat
  st : SegState
  level : Nat
  image : List Host.Cell
  order : Nat
  shadow : Bool
  cls : Nat
  sub : Nat
  va : DWord
  deriving DecidableEq, Repr

/-- Handle states (R185). -/
inductive HState where
  | free
  | filling
  | full
  | draining
  | fault
  deriving DecidableEq, Repr

/-- A buffer handle (R185). `base` is the state that its counts give, which FAULT covers. -/
structure Handle where
  st : HState
  base : HState
  counter : Word
  sub : Nat
  owner : Option Nat
  dpend : Nat
  spend : Nat
  deriving DecidableEq, Repr

/-- A TLB entry (R278): context, first 512 KiB page, pages covered, and the leaf of its first page. -/
structure TlbEntry where
  ctx : Nat
  page : Nat
  span : Nat
  leaf : DWord
  deriving DecidableEq, Repr

/-- A line of a vault cache or a home cache (R259, R265): address of the line, block or stack that holds it, DIRTY, the world it carries, the context that filled or last wrote it, and its replacement position: 0 normal, 1 protected, 2 the first to go. -/
structure Line where
  addr : Nat
  way : Nat
  dirty : Bool
  world : Nat
  ctx : Nat
  pos : Nat
  deriving DecidableEq, Repr

/-- An operation of a plane array (R194 to R197). The tile images and metadata words are those read at issue; `planes` holds the plane bytes and the accumulator read at the start. -/
structure ArrayOp where
  gkey : Nat
  stored : Bool
  d : Nat
  lanes : Nat
  recA : BitVec 256
  recB : BitVec 256
  crew : Nat
  addrA : Nat
  addrB : Nat
  addrC : Nat
  metaA : List Word
  metaB : List Word
  planesA : List Byte
  planesB : List Byte
  acc : List Word
  cmd : Option Nat
  startAt : Nat
  deriving DecidableEq, Repr

/-- The plane array of a sub-core: executing and queued operations (R197). -/
structure Array_ where
  exec : Option ArrayOp
  queued : Option ArrayOp
  deriving DecidableEq, Repr

/-- What a context slot holds (R307): register base, code base and page-table root. -/
structure SlotBases where
  reg : DWord
  code : DWord
  root : Nat
  deriving DecidableEq, Repr

/-- A core. `ringGens` holds the generation of each ring slot (R209) under ring·64 + slot; `bases` what each context slot of the core took up (R28, R307). -/
structure Core where
  segs : List Seg
  fetches : Nat
  boundary : Nat
  qblk : Nat
  cache : List Line
  tlb : List TlbEntry
  handles : Tbl Handle
  arrays : Tbl Array_
  hslots : Tbl Nat
  ringGens : Tbl Nat
  bases : Tbl SlotBases
  corrected : Nat
  deriving DecidableEq, Repr

/-- A compute die with its base die: die TLB, service core and queue (R309), last balancer decision, home-cache lines of its stacks (R265), world register (R379), refusals (R381). -/
structure Die where
  tlb : List TlbEntry
  svcCore : Nat
  svcQ : DWord
  decided : Nat
  home : List Line
  status : Nat
  req : Nat
  world : Nat
  refusals : Nat
  deriving DecidableEq, Repr

/-! ## Engine commands (R171, R180, R184, R375) -/

/-- Progress of an accepted command. -/
inductive CmdState where
  | active
  | frozen
  | following
  deriving DecidableEq, Repr

/-- A packet of a network message at its sender (R375, R377): number, times sent, acknowledged, and the order of its last sending among the packets of the package. -/
structure PktState where
  num : Nat
  sends : Nat
  acked : Bool
  turn : Nat
  deriving DecidableEq, Repr

/-- An accepted engine command: its image, the image whose handles it counts in, the captured tile records, the sub-core and the gang of its publisher (0 for none), the parts of it that are done, what it read ahead of writing, the elements of a part already added (R365), whether its source is released and its destination counted, its packets, and of its freeze the record, the state and the handler gang. -/
structure Cmd where
  crew : Nat
  sq : Nat
  img : BitVec 256
  named : BitVec 256
  level : Nat
  sub : Nat
  gkey : Nat
  trec : BitVec 256
  brec : BitVec 256
  crec : BitVec 256
  done : List Nat
  buf : Option (List (Nat × List Byte))
  added : List Nat
  finished : Bool
  released : Bool
  counted : Bool
  followed : Bool
  changed : Bool
  st : CmdState
  cls : Nat
  fsub : Nat
  rec_ : Option Rec
  fst_ : FState
  handler : Option Nat
  pkts : List PktState
  deriving DecidableEq, Repr

/-! ## Ports and modules (R342 to R355) -/

/-- Port states (R342). -/
inductive PortState where
  | down
  | training
  | up
  | repair
  | degraded
  | lost
  deriving DecidableEq, Repr

/-- Who asks for a module command: a lane, or a unit of the device whose command is answered at once. -/
inductive Asker where
  | lane (g lane : Nat)
  | device
  deriving DecidableEq, Repr

/-- A module command (R347) with the link that carries it (R340), whether it waits for a notice, and its response (R348). -/
structure ModCmd where
  tag : Nat
  module : Nat
  op : Nat
  subop : Nat
  addr : Nat
  opnd : DWord
  cmpv : DWord
  first : Nat
  count : Nat
  ncon : Nat
  nel : Nat
  world : Nat
  asker : Asker
  link : Nat
  waiting : Bool
  status : Option Nat
  value : DWord
  deriving DecidableEq, Repr

/-- A module port (R339 to R346, R355). `pairs` gives for each spare that the port holds the fibre pair moved to it; `limit` is the injection limit; `lostStores` counts the stores that were outstanding when the port was lost; `slots` holds the last command of each slot of the command aperture (R347); `returning` the links that are back and whose granules still go over their substitutes (R340). -/
structure Port where
  st : PortState
  linkUp : BitVec 20
  module : Nat
  heads : Nat
  head : Nat
  capacity : Nat
  cmdOff : Nat
  pairs : Tbl Nat
  limit : Rat
  lostStores : Nat
  nextTag : Nat
  slots : Tbl ModCmd
  returning : List Nat
  deriving DecidableEq, Repr

/-- A queue reservation whose operation has ended and whose commit follows in its turn (R166, R337): descriptor address, number, push or pop, and the context (0x1000 for none) and crew that reserved. -/
structure QCommit where
  pa : Nat
  num : Nat
  push : Bool
  ctx : Nat
  crew : Option Nat
  deriving DecidableEq, Repr

/-- An interrupt send on its way to an endpoint of this package (R216, R332): the sender's package (0xFF this one, 0xFE the host), context or process tag and sending agent, and where it goes. -/
structure Send where
  pkg : Nat
  sender : Nat
  agent : Nat
  ctx : Nat
  ep : Nat
  operand : Word
  deriving DecidableEq, Repr

/-- A permitted range of a module for a head and a world (R350): permissions read 1, write 2, atomic 4, window 8. -/
structure ModRange where
  module : Nat
  head : Nat
  world : Nat
  base : Nat
  limit : Nat
  perms : Nat
  deriving DecidableEq, Repr

/-- States of a migratable page (R283). -/
inductive PageState where
  | master
  | replicated
  | collapsing (writer : Nat)
  | writable
  | pinned
  deriving DecidableEq, Repr

/-- A leaf of this package for a migratable page: context, page, address of the entry, its remote form with MIG clear, the replica frame it maps, and whether it maps the master for writing or waits to. -/
structure MigLeaf where
  ctx : Nat
  page : Nat
  at_ : Nat
  remote : DWord
  frame : Option Nat
  writes : Bool
  deriving DecidableEq, Repr

/-- A migratable page, kept by the module of its master (R283, R284). `readers` are the packages that hold replicas, `collapses` the times of recent collapses, `reader` the package of the last replication, `writer` that of the last write, `since` the time at which it was pinned, `leaves` the leaves of this package that the device has changed, `movedTo` the master's new module and address after a pin moved it. -/
structure MigPage where
  module : Nat
  addr : Nat
  st : PageState
  readers : List Nat
  collapses : List Nat
  reader : Nat
  writer : Nat
  since : Nat
  leaves : List MigLeaf
  movedTo : Option (Nat × Nat)
  deriving DecidableEq, Repr

/-! ## Pod (R357 to R362, R408) -/

/-- A pod-map entry (R200). -/
structure PodEntry where
  relay : Nat
  port : Nat
  st : Nat
  module : Nat
  deriving DecidableEq, Repr

/-- A relay-table entry (R408). -/
structure RelayEntry where
  valid : Bool
  src : Nat
  world : Nat
  module : Nat
  base : Nat
  limit : Nat
  deriving DecidableEq, Repr

/-- The message state with one peer (R360): numbers and bodies not acknowledged, the next number to deliver, early arrivals, the clock of the last (re)send. -/
structure PairState where
  nextOut : Nat
  unacked : List (Nat × PairBody)
  nextIn : Nat
  early : List (Nat × PairBody)
  since : Nat
  deriving DecidableEq, Repr

/-- Who waits for the reply to a relay request (R361): nobody, a lane of a gang whose posted access it is, or an engine command. -/
inductive RelayWait where
  | nobody
  | gang (g lane : Nat)
  | command (crew sq : Nat)
  deriving DecidableEq, Repr

/-- The pod state of the package: own number, entries, module of each port, the packages of each module in head order, the pair table as packages with the module they have lost (R358; module 256 stands for a pair severed on purpose), ADMIT mask, the worlds of which this is the lowest-numbered admitting package, the peers that admit a world and whose Garnet holds a session with this one (world, peer), those that have been sent its key (R383), modules admitted to a world (module, world: R356), relay table, message state, this package's relayed requests that no reply has come for yet (peer, and who waits for it), messages that have left (peer, number, body). -/
structure Pod where
  own : Option Nat
  entries : Tbl PodEntry
  portModule : Tbl Nat
  lines : Tbl (List Nat)
  severed : List (Nat × Nat)
  admitMask : Nat
  lowest : Nat
  keyPeers : List (Nat × Nat)
  told : List (Nat × Nat)
  admitted : List (Nat × Nat)
  relay : Tbl RelayEntry
  pairs : Tbl PairState
  asked : List (Nat × RelayWait)
  wire : List (Nat × Nat × PairBody)
  deriving DecidableEq, Repr

/-! ## Host and network (R369 to R377) -/

/-- A control message waiting for the data-fence word (R371). -/
structure CtlMsg where
  num : Nat
  ten : Nat
  dfseq : Nat
  who : Owner
  write : CtlWrite
  since : Nat
  deriving DecidableEq, Repr

/-- The host side: waiting control messages, the next message number, messages refused with FENCE_TIMEOUT, stores discarded and counted (R369), sends dropped for a full notice queue. -/
structure HostSide where
  waiting : List CtlMsg
  nextMsg : Nat
  timedOut : List Nat
  discarded : Nat
  loaded : List Byte
  deriving DecidableEq, Repr

/-- A message being received (R376): sender's job and process with its number, the receiving context and slot, offsets and lengths of the packets received, whether bytes were discarded, whether it has completed. -/
structure RxMsg where
  job : Nat
  pid : Nat
  msg : Nat
  ctx : Nat
  slot : Option Nat
  got : List (Nat × Nat)
  cut : Bool
  complete : Bool
  deriving DecidableEq, Repr

/-- An acknowledgment of a packet at the receiver (R376, R377). -/
structure Ack where
  job : Nat
  pid : Nat
  msg : Nat
  off : Nat
  deriving DecidableEq, Repr

/-- The network engine: messages received, packets that left with their Ethernet ports (R373), messages that matched no context (R374) with their numbers, acknowledgments that left, and the acknowledged packets of this package, each by its send queue (64·context + queue) and the order of its last sending on the queue (R377). -/
structure Net where
  rx : List RxMsg
  sent : List (Nat × Packet)
  noMatch : Nat
  strays : List (Nat × Nat × Nat)
  acks : List Ack
  covered : List (Nat × Nat)
  deriving DecidableEq, Repr

/-! ## Trust, control plane, power (R378 to R392) -/

/-- States of the entropy source (R386). -/
inductive Entropy where
  | healthy
  | failed
  | recovering
  | locked
  deriving DecidableEq, Repr

/-- A world assignment that is BUSY: dies of the set, requested world, old worlds. -/
structure Assignment where
  dies : List Nat
  req : Nat
  key : Bool
  deriving DecidableEq, Repr

/-- Boot status (R387). -/
inductive Boot where
  | reset
  | running
  | recovery (image check : Nat)
  deriving DecidableEq, Repr

/-- The root of trust and the control plane. `frames` gives the owning world of each HBM frame, `zeroing` the frames being zeroed; `podWaits` the worlds whose pod key Beryl has still to make (R383); `drawn` the latest samples that its tests have seen since they began (R386), 511 at most; `ctl` the control-space bytes that have no field of their own; `mailbox` Garnet's fault mailbox; `capResult` what the capability port reads back; `fused` the fused digests and versions are inputs of BOOT. -/
structure Trust where
  frames : Tbl Nat
  zeroing : List (Nat × Nat)
  localKeys : Tbl (BitVec 512)
  podKeys : List Nat
  podWaits : List Nat
  keyWaits : List Assignment
  entropy : Entropy
  drawn : List Byte
  failTimes : List Nat
  failCnt : Nat
  boot : Boot
  mrs : Tbl (BitVec 384)
  owner : Nat
  epoch : Nat
  viol : Nat
  last : Nat
  pending : Option Nat
  claimBusy : Bool
  mailbox : List Rec
  capResult : List Word
  ctl : Tbl Byte
  spdmVersion : Bool
  spdmAlgs : Bool
  session : Nat
  response : List Byte
  deriving DecidableEq, Repr

/-- Power and thermal state (R392): limit in watts, clock in MHz, whether plane-array and vector issue are throttled, junction temperature, gated units, the clock at which each unit was last in use (units 0 to 1919 are the sub-cores, core·12 + sub-core, the next 160 the engines of the cores), cause of the last reset. -/
structure Power where
  limit : Nat
  mhz : Nat
  throttlePlane : Bool
  throttleVector : Bool
  celsius : Nat
  gated : List Nat
  used : Tbl Nat
  cause : Nat
  deriving DecidableEq, Repr

/-- An error report (R281, R342, R344, R381): reporting unit, kind, datum. -/
structure ErrReport where
  unit_ : Nat
  kind : Nat
  datum : Nat
  deriving DecidableEq, Repr

/-! ## The machine -/

/-- What the device does next: a step of its own, or the issue of one instruction by a gang. -/
inductive Turn where
  | issue (g : Nat)
  | event (i : Instr)
  deriving DecidableEq, Repr

/-- The issuing path: its gang and the mask of its active lanes (R17). -/
structure Cur where
  gang : Nat
  mask : Nat
  deriving DecidableEq, Repr

/-- A write of the device for a context that waits: for a frame to be zeroed (R382), or for the collapse of its page (R283). -/
structure LateWrite where
  ctx : Nat
  va : DWord
  bytes : List Byte
  deriving DecidableEq, Repr

/-- An access of the device for a context whose lines have still to pass through their home cache (R265). -/
structure Pass where
  ctx : Nat
  pa : Nat
  len : Nat
  writes : Bool
  deriving DecidableEq, Repr

/-- The machine. `timer` is Beryl's timer (R386), in parts of a microsecond. -/
structure State where
  clock : Nat
  pace : List Nat
  agenda : List Turn
  free : Nat
  nextKey : Nat
  cur : Option Cur
  gangs : Tbl Gang
  crews : Tbl Crew
  ctxs : Tbl Context
  tens : Tbl Tenancy
  launches : List Launch
  mem : List Host.Cell
  fe : Tbl Bool
  tags : Tbl Tag
  poison : List Nat
  ivClock : Nat
  cores : Tbl Core
  dies : Tbl Die
  cmds : List Cmd
  ports : Tbl Port
  modCmds : List ModCmd
  commits : List QCommit
  sends : List Send
  refusals : List Nat
  modRanges : List ModRange
  pages : List MigPage
  pod : Pod
  host : HostSide
  net : Net
  trust : Trust
  power : Power
  errors : List ErrReport
  late : List LateWrite
  passing : List Pass
  records : Nat
  timer : Nat
  deriving DecidableEq, Repr

/-! ## Values at reset -/

/-- No hints pending. -/
def Hints.none_ : Hints := ⟨none, none, none⟩

/-- NONE, the meeting register's empty value (R13). -/
def mtNone : Word := 0xFFFFFFFF#32

/-- A thread at the start of a task (R37) whose code starts at `pc`. -/
def Thread.start (pc : Word) (fps : Word) : Thread :=
  ⟨pc, mtNone, pc, 0, fps, 0, .run, 0, List.replicate 8 .empty, 0, 0, 0, Hints.none_, none, none⟩

/-- A core after package reset. -/
def Core.reset : Core := ⟨[], 0, 128, 0, [], [], [], [], [], [], [], 0⟩

/-- A die after package reset. -/
def Die.reset : Die := ⟨[], 0, 0, 0, [], 0, 0, 0, 0⟩

/-- A handle that no crew owns. -/
def Handle.reset : Handle := ⟨.free, .free, 0, 0, none, 0, 0⟩

/-- An endpoint of a new context. -/
def Endpoint.reset : Endpoint := ⟨[], 0, none, 0, 0⟩

/-- A claim entry after package reset: owned by MGMT (R316). -/
def Claim.reset : Claim := ⟨4, 0, 0, 0⟩

/-- A port after package reset (R343). -/
def Port.reset : Port := ⟨.down, 0, 0xFF, 0, 0, 0, 0, [], 1, 0, 0, [], []⟩

/-- A pod-map entry that names no peer (R200). -/
def PodEntry.none_ : PodEntry := ⟨0xFF, 0xF, 3, 0xFF⟩

/-- No messages exchanged with a peer (R360). -/
def PairState.reset : PairState := ⟨0, [], 0, [], 0⟩

/-- A cleared race tag (R239). -/
def Tag.none_ : Tag := ⟨.clear, false, false, 0, 0, 0⟩

/-- A new context of a tenancy. -/
def Context.fresh (tenancy : Nat) : Context :=
  { tenancy := tenancy, ageMax := Config.ageMax, prio := 0, regBase := 0, codeBase := 0, regNext := 0, codeNext := 0,
    ptroot := 0, fqBase := 0, fdesc := [], handlers := [], streams := [], perms := [],
    eps := List.replicate 4 Endpoint.reset, epsInImage := true, drops := 0, sendQs := [], netEps := [], recvs := [],
    job := 0, pid := 0, noMatch := 0, placeFaults := 0, nextLaunch := 0, nextSeq := 0, queue := [], heldRecs := [],
    sets := [], gens := [], unindexed := [], stopped := false, resetting := false }

/-- A new tenancy. -/
def Tenancy.fresh (dies twt : Nat) : Tenancy :=
  ⟨dies, twt, [], [], none, none, [], 0, [], false, false⟩

/-- The machine right after package reset: no work placed, memory with nothing listed, every register of the package at its reset value. -/
def State.reset : State where
  clock := 0
  pace := []
  agenda := []
  free := 0
  nextKey := 0
  cur := none
  gangs := []
  crews := []
  ctxs := []
  tens := []
  launches := []
  mem := []
  fe := []
  tags := []
  poison := []
  ivClock := 0
  cores := []
  dies := []
  cmds := []
  ports := []
  modCmds := []
  commits := []
  sends := []
  refusals := []
  modRanges := []
  pages := []
  pod := ⟨none, [], [], [], [], 0, 0, [], [], [], [], [], [], []⟩
  host := ⟨[], 0, [], 0, []⟩
  net := ⟨[], [], 0, [], [], []⟩
  trust := ⟨[], [], [(0, Config.keyZero)], [], [], [], .healthy, [], [], 0, .reset, [], 0, 0, 0, 0, none, false, [], [], [], false, false, 0, []⟩
  power := ⟨Config.powerLimit, Config.clockMHz, false, false, 0, [], [], 0⟩
  errors := []
  late := []
  passing := []
  records := 0
  timer := 0

end Sys2Proof.Machine
end

