-- ==== Sys2Proof/Machine/Maps.lean ====
section
/-! DEFINITION. Tables in rising order of their keys: lookup, write, removal, and the form in which an entry equal to the default is not listed. -/

namespace Sys2Proof.Machine

/-- The value under a key. -/
def Tbl.find? {α : Type} : Tbl α → Nat → Option α
  | [], _ => none
  | (k, a) :: t, n => if k = n then some a else Tbl.find? t n

/-- The value under a key, or the default. -/
def Tbl.at_ {α : Type} (d : α) (t : Tbl α) (n : Nat) : α := (t.find? n).getD d

/-- The table with `a` under `n`. -/
def Tbl.put {α : Type} : Tbl α → Nat → α → Tbl α
  | [], n, a => [(n, a)]
  | (k, b) :: t, n, a =>
    if n < k then (n, a) :: (k, b) :: t
    else if n = k then (n, a) :: t
    else (k, b) :: Tbl.put t n a

/-- The table without the key `n`. -/
def Tbl.drop {α : Type} (t : Tbl α) (n : Nat) : Tbl α := t.filter fun p => p.1 != n

/-- The table with `a` under `n`, not listed where it is the default. -/
def Tbl.set {α : Type} [DecidableEq α] (d : α) (t : Tbl α) (n : Nat) (a : α) : Tbl α :=
  if a = d then t.drop n else t.put n a

/-- The table with the value under `n` changed, where there is one. -/
def Tbl.adjust {α : Type} (t : Tbl α) (n : Nat) (f : α → α) : Tbl α :=
  t.map fun p => if p.1 = n then (p.1, f p.2) else p

/-- The keys of a table. -/
def Tbl.keys {α : Type} (t : Tbl α) : List Nat := t.map (·.1)

/-- Keys rise strictly. -/
def Tbl.rising {α : Type} : Tbl α → Bool
  | [] => true
  | [_] => true
  | (k, _) :: (m, b) :: t => decide (k < m) && Tbl.rising ((m, b) :: t)

/-- The smallest number not in a list, below `bound`. -/
def lowestFree (used : List Nat) (bound : Nat) : Option Nat :=
  (List.range bound).find? fun n => !used.contains n

/-- The lanes of a mask of 32 bits, ascending. -/
def lanesOf (mask : Nat) : List Nat := (List.range 32).filter fun l => mask.testBit l

/-- The mask of a list of lanes. -/
def maskOf (lanes : List Nat) : Nat := lanes.foldl (fun m l => m ||| 2 ^ l) 0

/-- The bits [lo + w − 1 : lo] of a number. -/
def bitsAt (x lo w : Nat) : Nat := x / 2 ^ lo % 2 ^ w

/-- A number with the bits [lo + w − 1 : lo] replaced by those of `y`. -/
def withBits (x lo w y : Nat) : Nat := x - bitsAt x lo w * 2 ^ lo + y % 2 ^ w * 2 ^ lo

/-- A saturating step up to `bound`. -/
def satSucc (n bound : Nat) : Nat := if n < bound then n + 1 else n

end Sys2Proof.Machine
end

