-- ==== Sys2Proof/Machine/Mem.lean ====
section
/-! DEFINITION. Access to the parts of the state, registers, memory by bytes, the physical map, vault windows, commit logs, full-empty bits and granules. -/

namespace Sys2Proof.Machine

/-! ## Parts of the state -/

/-- The gang under a key. -/
def State.gang? (s : State) (g : Nat) : Option Gang := s.gangs.find? g
/-- The state with a gang replaced. -/
def State.setGang (s : State) (g : Nat) (x : Gang) : State := { s with gangs := s.gangs.put g x }
/-- The state with a gang changed, where it exists. -/
def State.mapGang (s : State) (g : Nat) (f : Gang → Gang) : State := { s with gangs := s.gangs.adjust g f }
/-- The crew under a key. -/
def State.crew? (s : State) (c : Nat) : Option Crew := s.crews.find? c
/-- The state with a crew changed, where it exists. -/
def State.mapCrew (s : State) (c : Nat) (f : Crew → Crew) : State := { s with crews := s.crews.adjust c f }
/-- A context; one that was never created reads as fresh. -/
def State.ctx (s : State) (c : Nat) : Context := s.ctxs.at_ (Context.fresh 0) c
/-- The context exists. -/
def State.hasCtx (s : State) (c : Nat) : Bool := (s.ctxs.find? c).isSome
/-- The state with a context changed, where it exists. -/
def State.mapCtx (s : State) (c : Nat) (f : Context → Context) : State := { s with ctxs := s.ctxs.adjust c f }
/-- A tenancy. -/
def State.ten (s : State) (t : Nat) : Tenancy := s.tens.at_ (Tenancy.fresh 0 1) t
/-- The state with a tenancy changed, where it exists. -/
def State.mapTen (s : State) (t : Nat) (f : Tenancy → Tenancy) : State := { s with tens := s.tens.adjust t f }
/-- A core. -/
def State.core (s : State) (c : Nat) : Core := s.cores.at_ Core.reset c
/-- The state with a core changed. -/
def State.mapCore (s : State) (c : Nat) (f : Core → Core) : State :=
  { s with cores := s.cores.set Core.reset c (f (s.core c)) }
/-- A die. -/
def State.die (s : State) (d : Nat) : Die := s.dies.at_ Die.reset d
/-- The state with a die changed. -/
def State.mapDie (s : State) (d : Nat) (f : Die → Die) : State :=
  { s with dies := s.dies.set Die.reset d (f (s.die d)) }
/-- A port. -/
def State.port (s : State) (p : Nat) : Port := s.ports.at_ Port.reset p
/-- The state with a port changed. -/
def State.mapPort (s : State) (p : Nat) (f : Port → Port) : State :=
  { s with ports := s.ports.set Port.reset p (f (s.port p)) }
/-- The state with the trust part changed. -/
def State.mapTrust (s : State) (f : Trust → Trust) : State := { s with trust := f s.trust }
/-- The state with the pod part changed. -/
def State.mapPod (s : State) (f : Pod → Pod) : State := { s with pod := f s.pod }
/-- An error report is made. -/
def State.report (s : State) (unit kind datum : Nat) : State :=
  { s with errors := s.errors ++ [⟨unit, kind, datum⟩] }
/-- Boot has stopped in RECOVERY (R387): no die leaves reset, and PCI Express presents function 0 only. -/
def State.inRecovery (s : State) : Bool := match s.trust.boot with | .recovery _ _ => true | _ => false

/-- The die of a core. -/
def dieOf (core : Nat) : Nat := core / Config.coresPerDie

/-! ## Threads and registers (R22, R23) -/

/-- A lane's thread. -/
def Gang.th (g : Gang) (l : Nat) : Thread := g.threads.getD l (Thread.start 0 0)
/-- The gang with one thread replaced. -/
def Gang.setTh (g : Gang) (l : Nat) (t : Thread) : Gang := { g with threads := g.threads.set l t }
/-- The gang with the threads of some lanes changed. -/
def Gang.mapLanes (g : Gang) (lanes : List Nat) (f : Thread → Thread) : Gang :=
  { g with threads := g.threads.mapIdx fun l t => if lanes.contains l then f t else t }
/-- Register vn of lane l. -/
def Gang.readV (g : Gang) (l n : Nat) : Word := g.v.at_ 0 (128 * l + n)
/-- Register kn. -/
def Gang.readK (g : Gang) (n : Nat) : Word := g.k.at_ 0 n
/-- A write of vn in lane l; its register line then differs from the image (R252), and a query result still due there no longer is (R225). -/
def Gang.writeV (g : Gang) (l n : Nat) (x : Word) : Gang :=
  { g with
    v := g.v.set 0 (128 * l + n) x
    clean := g.clean.filter (· != n)
    damaged := g.damaged.filter (· != (l, n))
    queries := g.queries.filter fun q => !(q.1 == l && q.2.1 == n) }
/-- A write of kn. -/
def Gang.writeK (g : Gang) (n : Nat) (x : Word) : Gang :=
  { g with k := g.k.set 0 n x, clean := g.clean.filter (· != 128 + n / 32), damaged := g.damaged.filter (·.2 != 128 + n) }
/-- The lanes in a run state. -/
def Gang.lanesIn (g : Gang) (r : Run) : List Nat := (List.range 32).filter fun l => (g.th l).run = r
/-- The threads of a gang that are not EXITED. -/
def Gang.live (g : Gang) : List Nat := (List.range 32).filter fun l => (g.th l).run != .exited

/-! ## Bytes (R4) -/

/-- The number that bytes form, the first the least significant. -/
def natOfBytes : List Byte → Nat
  | [] => 0
  | b :: t => b.toNat + 256 * natOfBytes t

/-- The first `n` bytes of a number. -/
def bytesOf : Nat → Nat → List Byte
  | 0, _ => []
  | n + 1, x => BitVec.ofNat 8 x :: bytesOf n (x / 256)

/-- What an unlisted byte of memory reads as. Log entry 3. -/
def unlisted : Byte := 0

/-- Memory holds each address once, rising, and no byte equal to what an unlisted one reads as. -/
def Memory.wf (m : List Host.Cell) : Bool := Tbl.rising m && m.all fun c => c.2 != unlisted

/-- The byte at an address. -/
def readByte (m : List Host.Cell) (a : Nat) : Byte := Tbl.at_ unlisted m a
/-- A byte written. -/
def writeByte (m : List Host.Cell) (a : Nat) (b : Byte) : List Host.Cell := Tbl.set unlisted m a b
/-- `n` bytes from an address. -/
def readBytes (m : List Host.Cell) : Nat → Nat → List Byte
  | _, 0 => []
  | a, n + 1 => readByte m a :: readBytes m (a + 1) n
/-- Bytes written from an address on. -/
def writeBytes (m : List Host.Cell) : Nat → List Byte → List Host.Cell
  | _, [] => m
  | a, b :: t => writeBytes (writeByte m a b) (a + 1) t
/-- A little-endian number of `n` bytes (R4). -/
def readNum (m : List Host.Cell) (a n : Nat) : Nat := natOfBytes (readBytes m a n)
/-- A little-endian number written in `n` bytes. -/
def writeNum (m : List Host.Cell) (a n x : Nat) : List Host.Cell := writeBytes m a (bytesOf n x)
/-- The listed bytes of a range, with addresses from its start. -/
def sliceOf (m : List Host.Cell) (a n : Nat) : List Host.Cell :=
  (m.filter fun c => decide (a ≤ c.1) && decide (c.1 < a + n)).map fun c => (c.1 - a, c.2)
/-- The memory with a range returned to what unlisted bytes read as. -/
def eraseRange (m : List Host.Cell) (a n : Nat) : List Host.Cell :=
  m.filter fun c => !(decide (a ≤ c.1) && decide (c.1 < a + n))

/-- The state with bytes written to memory. -/
def State.store (s : State) (pa : Nat) (bytes : List Byte) : State := { s with mem := writeBytes s.mem pa bytes }

/-! ## The physical map (R261, R270) -/

/-- Bases of the map. -/
def vaultBase : Nat := 0x10000000000
def controlBase : Nat := 0x20000000000
def portBase : Nat := 0x10000000000000
def apertureBase : Nat := 0x20000000000000
/-- Bytes of a port range and of an aperture. -/
def moduleSpan : Nat := 0x100000000000

/-- What a physical address names. -/
inductive Region where
  | hbm
  | vault (core off : Nat)
  | control (off : Nat)
  | port (p off : Nat)
  | aperture (m off : Nat)
  | hole
  deriving DecidableEq, Repr

/-- The region of a physical address (R270). -/
def regionOf (pa : Nat) : Region :=
  if pa < 0x10000000000 then .hbm
  else if vaultBase ≤ pa ∧ pa < 0x10050000000 then .vault ((pa - vaultBase) / 0x800000) ((pa - vaultBase) % 0x800000)
  else if controlBase ≤ pa ∧ pa < 0x20100000000 then .control (pa - controlBase)
  else if portBase ≤ pa ∧ pa < portBase + 12 * moduleSpan then .port ((pa - portBase) / moduleSpan) ((pa - portBase) % moduleSpan)
  else if apertureBase ≤ pa ∧ pa < apertureBase + 256 * moduleSpan then
    .aperture ((pa - apertureBase) / moduleSpan) ((pa - apertureBase) % moduleSpan)
  else .hole

/-- The tier of a physical address: TIER of a leaf (R270). -/
def tierOf (pa : Nat) : Nat :=
  match regionOf pa with
  | .port _ _ => 1
  | .aperture _ _ => 2
  | _ => 0

/-- A port serves requests (R342). -/
def Port.inService (p : Port) : Bool := p.st == .up || p.st == .repair || p.st == .degraded

/-- The address under which memory holds a byte: module memory lies under its aperture address, by whichever port it is reached. -/
def State.home (s : State) (pa : Nat) : Nat :=
  match regionOf pa with
  | .port p off => apertureBase + (s.port p).module * moduleSpan + off
  | _ => pa

/-- The vault address of byte `off` of block `b` of a core (R261). -/
def vaultPa (core block off : Nat) : Nat := vaultBase + core * 0x800000 + block * 0x10000 + off

/-- Bytes of a crew's window (R257). -/
def Crew.winSize (c : Crew) : Nat := c.portion * c.cores.length * 0x10000

/-- The physical address of an offset of a crew's window (R32). -/
def Crew.winPa (c : Crew) (off : Nat) : Nat :=
  let share := c.portion * 0x10000
  vaultPa (c.cores.getD (off / share) 0) (c.blocks.getD (off / share) 0) (off % share)

/-- The crew's home core (R170). -/
def Crew.homeCore (c : Crew) : Nat := c.cores.getD 0 0

/-- Crews whose windows lie on a core. -/
def State.crewsOn (s : State) (core : Nat) : List (Nat × Crew) := s.crews.filter fun c => c.2.cores.contains core

/-- A block of a core belongs to a live window or is a queue block (R261). -/
def State.blockLive (s : State) (core block : Nat) : Bool :=
  decide (128 - (s.core core).qblk ≤ block) ||
  (s.crewsOn core).any fun c => (c.2.cores.zip c.2.blocks).any fun p =>
    p.1 == core && decide (p.2 ≤ block) && decide (block < p.2 + c.2.portion)

/-- A block of a core is a queue block (R262). -/
def State.isQueueBlock (s : State) (core block : Nat) : Bool := decide (128 - (s.core core).qblk ≤ block) && decide (block < 128)

/-! ## Atomic results (R154 to R156, R351) -/

/-- Two FP results of a packed pair. -/
def packedSum (f : Fmt) (x y : Nat) : Nat :=
  (f.add .rne (x % 65536) (y % 65536)).bits + 65536 * (f.add .rne (x / 65536) (y / 65536)).bits

/-- The new value of an atomic: operation numbers of the AMO module command (R348); `w` is the width in bytes. -/
def amoResult (op w : Nat) (old data cmp : DWord) : DWord :=
  let n := 8 * w
  let o := old.toNat % 2 ^ n
  let d := data.toNat % 2 ^ n
  let so := (BitVec.ofNat n o).toInt
  let sd := (BitVec.ofNat n d).toInt
  let r : Nat :=
    if op = 0 then o + d
    else if op = 1 then (if so ≤ sd then o else d)
    else if op = 2 then (if so ≤ sd then d else o)
    else if op = 3 then o &&& d
    else if op = 4 then o ||| d
    else if op = 5 then Nat.xor o d
    else if op = 6 then d
    else if op = 7 then (if o = cmp.toNat % 2 ^ n then d else o)
    else if op = 8 then (fp32.add .rne o d).bits
    else if op = 9 then packedSum bf16 o d
    else if op = 10 then min o d
    else max o d
  BitVec.ofNat 64 (r % 2 ^ n)

/-! ## Commit logs (R299) -/

/-- One log entry performed on memory. -/
def LogOp.apply (m : List Host.Cell) : LogOp → List Host.Cell
  | .store pa _ _ bytes => writeBytes m pa bytes
  | .atomic pa _ _ op w data cmp =>
    writeNum m pa w (amoResult op w (BitVec.ofNat 64 (readNum m pa w)) data cmp).toNat

/-- Memory as an unpinned task sees it: its own log over memory. -/
def State.view (s : State) (crew : Nat) : List Host.Cell :=
  match s.crew? crew with
  | some c => if c.repl && !c.pinned then c.log.foldl LogOp.apply s.mem else s.mem
  | none => s.mem

/-- Bytes of the log that the granules of a new entry take (R300): 32 B for each distinct granule stored. -/
def logCost (log : List LogOp) (e : LogOp) : Nat :=
  match e with
  | .atomic _ _ _ _ _ _ _ => 32
  | .store pa _ _ _ => if log.any (fun x => match x with | .store p _ _ _ => p / 16 == pa / 16 | _ => false) then 0 else 32

/-! ## Full-empty bits (R152, R153) -/

/-- The bit of a granule before anything sets it: FULL in tier 0, EMPTY elsewhere. -/
def feDefault (granule : Nat) : Bool := decide (granule < 0x1000000000)

/-- The full-empty bit of the granule of a physical address; true is FULL. -/
def State.isFull (s : State) (pa : Nat) : Bool := (s.fe.find? (pa / 16)).getD (feDefault (pa / 16))

/-- The bit set or cleared. -/
def State.setFull (s : State) (pa : Nat) (full : Bool) : State :=
  { s with fe := Tbl.set (feDefault (pa / 16)) s.fe (pa / 16) full }

/-- Granules from `a` on for `n` bytes lose bits, tags and poison, and their bytes are erased: a window or frame made new. -/
def State.scrubRange (s : State) (a n : Nat) : State :=
  let inside := fun g => decide (a / 16 ≤ g) && decide (g < (a + n) / 16)
  { s with
    mem := eraseRange s.mem a n
    fe := s.fe.filter fun p => !inside p.1
    tags := s.tags.filter fun p => !inside p.1
    poison := s.poison.filter fun g => !inside g }

end Sys2Proof.Machine
end

