-- ==== Sys2Proof/Machine/Translate.lean ====
section
/-! DEFINITION. Address translation (R271 to R278, R282, R283): the walk with its checks, remote leaves, the TLBs and the last-page register, and the checks of an access after translation. -/

namespace Sys2Proof.Machine

/-- A fault of a lane or a command: class (R314), subcode, and the value of the record's VA field. -/
structure Flt where
  cls : Nat
  sub : Nat
  va : DWord
  deriving DecidableEq, Repr

/-- Fault classes by name (R314). -/
def cIllegalInsn : Nat := 0
def cIllegalOperand : Nat := 1
def cAlign : Nat := 2
def cXlateNr : Nat := 3
def cXlatePerm : Nat := 4
def cXlateTable : Nat := 5
def cFormat : Nat := 6
def cRace : Nat := 7
def cFp : Nat := 8
def cCodeSeg : Nat := 9
def cEngine : Nat := 10
def cPoison : Nat := 11
def cSoft : Nat := 12
def cBrk : Nat := 13
def cQueue : Nat := 14
def cPriv : Nat := 15

/-- The kind of an access (R140, R276). -/
inductive Access where
  | read
  | write
  | atomic
  | fetch
  deriving DecidableEq, Repr

/-- Writes and atomics change the location. -/
def Access.writes : Access → Bool
  | .write => true
  | .atomic => true
  | _ => false

/-! ## Fields of a leaf (R273) -/

def leafPfn (x : DWord) : Nat := x.toNat / 2 ^ 28
def leafMig (x : DWord) : Bool := x.toNat.testBit 27
def leafRl (x : DWord) : Bool := x.toNat.testBit 26
def leafMt (x : DWord) : Nat := bitsAt x.toNat 24 2
def leafFdesc (x : DWord) : Nat := bitsAt x.toNat 20 4
def leafFmt (x : DWord) : Nat := bitsAt x.toNat 15 5
def leafTier (x : DWord) : Nat := bitsAt x.toNat 13 2
def leafPin (x : DWord) : Bool := x.toNat.testBit 12
def leafDup (x : DWord) : Bool := x.toNat.testBit 11
def leafRc (x : DWord) : Bool := x.toNat.testBit 10
def leafCt (x : DWord) : Bool := x.toNat.testBit 9
def leafL (x : DWord) : Bool := x.toNat.testBit 8
def leafD (x : DWord) : Bool := x.toNat.testBit 7
def leafA (x : DWord) : Bool := x.toNat.testBit 6
def leafG (x : DWord) : Bool := x.toNat.testBit 5
def leafK (x : DWord) : Bool := x.toNat.testBit 4
def leafX (x : DWord) : Bool := x.toNat.testBit 3
def leafW (x : DWord) : Bool := x.toNat.testBit 2
def leafR (x : DWord) : Bool := x.toNat.testBit 1
def leafV (x : DWord) : Bool := x.toNat.testBit 0

/-- A bit of a 64-bit entry set to a value. -/
def setBit64 (x : DWord) (i : Nat) (b : Bool) : DWord := dword (withBits x.toNat i 1 (if b then 1 else 0))

/-- Element formats that exist (R73). -/
def fmtKnown (f : Nat) : Bool := f ≤ 4 || (8 ≤ f && f ≤ 10) || (12 ≤ f && f ≤ 14)
/-- Q8 formats. -/
def fmtQ8 (f : Nat) : Bool := 8 ≤ f && f ≤ 10
/-- Q4 formats. -/
def fmtQ4 (f : Nat) : Bool := 12 ≤ f && f ≤ 14
/-- Group elements of a Q format (R73). -/
def fmtGroup (f : Nat) : Nat := 32 * 2 ^ (f % 4)
/-- Group data bytes of a Q format (R73). -/
def fmtGroupBytes (f : Nat) : Nat := if fmtQ4 f then fmtGroup f / 2 else fmtGroup f

/-- The check of a leaf at a level and index (R274): the subcode of XLATE_TABLE. -/
def leafCheck (x : DWord) (level index : Nat) (remote : Bool) : Option Nat :=
  let pa := leafPfn x * 2 ^ 19
  if (!remote && (leafMig x || leafRl x)) || (remote && leafDup x) || (level == 2 && leafL x) then some 3
  else if leafTier x == 3 || leafTier x != tierOf pa || (remote && leafTier x == 0) || leafMt x == 3 || !fmtKnown (leafFmt x)
      || (leafFmt x != 0 && leafMt x == 2) || (leafDup x && leafW x)
      || (level == 1 && (leafPfn x % 4096 != 0 || leafCt x)) then some 4
  else if level == 2 && leafCt x && leafPfn x % 64 != index % 64 then some 5
  else none

/-! ## Pairs and routes (R358, R359) -/

/-- A package has lost a module. -/
def Pod.hasLost (p : Pod) (pkg m : Nat) : Bool := p.severed.contains (pkg, m)

/-- The module that two packages share: by the pod map for a pair of this package, else by the packages of each module. -/
def Pod.shared (p : Pod) (a b : Nat) : Option Nat :=
  let other := if p.own = some a then some b else if p.own = some b then some a else none
  match other.bind fun x => p.entries.find? x with
  | some e => if e.module < 0xFF then some e.module else none
  | none => (List.find? (fun (l : Nat × List Nat) => l.2.contains a && l.2.contains b) p.lines).map (·.1)

/-- The head with which this package reaches a module directly, through a port in service. -/
def State.headAt (s : State) (m : Nat) : Option Nat :=
  ((List.range Config.ports).find? fun p => (s.port p).module == m && (s.port p).inService).map fun p => (s.port p).head

/-- A pair is intact: the shared module is in service at both, and neither has marked the pair severed. -/
def State.intact (s : State) (a b : Nat) : Bool :=
  match s.pod.shared a b with
  | none => false
  | some m =>
    let up := fun (x : Nat) => !s.pod.hasLost x m && !s.pod.hasLost x 256 && (s.pod.own != some x || (s.headAt m).isSome)
    a != b && up a && up b

/-- The relay package of a pair that is not intact: the lowest with which both are intact. -/
def State.relayOf (s : State) (a b : Nat) : Option Nat :=
  (List.range Config.podPackages).find? fun c => c != a && c != b && s.intact a c && s.intact c b

/-- The package through which this one reaches a module to which it is not attached, or whose port is out of service: the lowest that is attached to it. -/
def State.routeTo (s : State) (m : Nat) : Option Nat :=
  let members := s.pod.lines.at_ [] m
  match s.pod.own with
  | none => none
  | some a => (List.range Config.podPackages).find? fun c => c != a && members.contains c && !s.pod.hasLost c m && s.intact a c

/-- The head under which a module sees the requests of this package: its own, or that of the relay package. -/
def State.headFor (s : State) (m : Nat) : Option Nat :=
  match s.headAt m with
  | some h => some h
  | none => (s.routeTo m).map fun c => ((s.pod.lines.at_ [] m).idxOf c)

/-- The permission bit of an access at a module (R350). -/
def Access.permBit : Access → Nat
  | .write => 2
  | .atomic => 4
  | _ => 1

/-- The pod map names a module (R270, R357). -/
def State.inPodMap (s : State) (m : Nat) : Bool :=
  s.pod.portModule.any (fun p => p.2 == m) || s.pod.entries.any (fun p => p.2.module == m) || s.pod.lines.any fun p => p.1 == m

/-! ## The checks of an access where it arrives (R262, R270, R349, R350, R359, R380 to R382) -/

/-- A range of a module is granted to a head under a world with permission bit `perm` (R350). -/
def State.granted (s : State) (m head world a n perm : Nat) : Bool :=
  s.modRanges.any fun r =>
    r.module == m && r.head == head && r.world == world && decide (r.base ≤ a) && decide (a + n ≤ r.limit) && (r.perms / perm % 2 == 1)

/-- The checks of an access at a compute die's ports (R262, R380, R381), by a unit of a die or of the base dies (`none`): a die that is being assigned refuses every request from outside it, and a queue block serves the lanes and engines of its own die alone. Log entry 102. -/
def State.dieCheck (s : State) (source : Option Nat) (world target off : Nat) : Option Nat :=
  let d := s.die (dieOf target)
  if source = some (dieOf target) then none
  else if d.status = 1 ∨ d.world ≠ world then some 11
  else if source.isSome && s.isQueueBlock target (off / 0x10000) then some 8
  else none

/-- The checks that an access of a world meets where it arrives: the subcode of XLATE_PERM. -/
def State.reachFrom (s : State) (source : Option Nat) (world pa n : Nat) (a : Access) : Option Nat :=
  match regionOf pa with
  | .hole => some 8
  | .hbm => if (s.trust.frames.at_ 0 (pa / 2 ^ 19)) == world then none else some 11
  | .vault target off => s.dieCheck source world target off
  | .control _ => none
  | .port p off =>
    if !(s.port p).inService || decide ((s.port p).capacity < off + n) then some 8
    else if s.granted (s.port p).module (s.port p).head world off n a.permBit then none else some 10
  | .aperture m off =>
    if !s.inPodMap m then some 8
    else match (List.range Config.ports).find? fun p => (s.port p).module == m && (s.port p).inService with
    | some p =>
      if decide ((s.port p).capacity < off + n) then some 8
      else if s.granted m (s.port p).head world off n a.permBit then none else some 10
    | none =>
      match s.routeTo m, s.headFor m with
      | some c, some h =>
        if Config.moduleCapacity m < off + n then some 8
        else if s.granted m h world off n a.permBit && !Config.relayRefuses c s.free world m off n then none else some 10
      | _, _ => some 8

/-- The checks that an access from a core meets where it arrives. -/
def State.reachCheck (s : State) (core pa n : Nat) (a : Access) : Option Nat :=
  s.reachFrom (some (dieOf core)) (s.die (dieOf core)).world pa n a

/-- A request that a compute die has refused for its world is counted there, and reported to MGMT (R381). -/
def State.countRefusal (s : State) (pa : Nat) (sub : Nat) : State :=
  match regionOf pa with
  | .vault core _ =>
    if sub = 11 then (s.mapDie (dieOf core) fun d => { d with refusals := satSucc d.refusals 0xFFFFFFFF }).report (32 + dieOf core) 4 pa else s
  | _ => s

/-! ## The walk -/

/-- What a walk finds. `page` is the first 512 KiB page of the leaf, `span` its pages, `at_` the address of the entry; `busy` a node in a frame that is being zeroed (R382); `denied` the subcode of XLATE_PERM with which a home agent, a module or a port refuses the read of an entry. -/
inductive Walk where
  | leaf (page span at_ : Nat) (x : DWord)
  | remote (page at_ : Nat) (x : DWord)
  | absent (level : Nat)
  | bad (level sub : Nat)
  | busy
  | denied (sub : Nat)
  deriving DecidableEq, Repr

/-- The world of a tenancy: that of its dies. -/
def State.tenWorld (s : State) (t : Nat) : Nat :=
  let dies := (s.ten t).dies
  (s.die (((List.range Config.dies).find? fun d => dies.testBit d).getD 0)).world

/-- The world in which the device acts for a context: that of its tenancy. -/
def State.ctxWorld (s : State) (ctx : Nat) : Nat := s.tenWorld (s.ctx ctx).tenancy

/-- A frame is being zeroed for a new world: accesses wait (R382). -/
def State.zeroes (s : State) (pa : Nat) : Bool := s.trust.zeroing.any fun p => p.1 == pa / 2 ^ 19

/-- A node may lie at an address (R274). -/
def State.nodeCheck (s : State) (node : Nat) : Option Nat :=
  match regionOf node with
  | .hbm => none
  | .port p _ => if (s.port p).inService then none else some 2
  | _ => some 1

/-- The entry at an address, or its poison (R274). -/
def State.readEntry (s : State) (pa : Nat) : DWord × Bool :=
  (dword (readNum s.mem (s.home pa) 8), s.poison.contains (s.home pa / 16))

/-- The walk from a node of `level` on (R271, R272), made in a world: `fuel` counts the levels left. -/
def State.walkFrom (s : State) (world va : Nat) : Nat → Nat → Nat → Walk
  | 0, level, _ => .absent level
  | fuel + 1, level, node =>
    match s.nodeCheck node with
    | some sub => .bad level sub
    | none =>
      let index := bitsAt va (43 - 12 * level) 12
      let ea := node + 8 * index
      let (x, poisoned) := s.readEntry ea
      if s.zeroes ea then .busy
      else match s.reachFrom none world ea 8 .read with
      | some sub => .denied sub
      | none =>
      if poisoned then .bad level 6
      else if !leafV x then
        if level == 2 && leafRl x then
          match leafCheck x 2 index true with
          | some sub => .bad 2 sub
          | none => .remote (va / 2 ^ 19) ea x
        else .absent level
      else if level == 2 then
        match leafCheck x 2 index false with
        | some sub => .bad 2 sub
        | none => .leaf (va / 2 ^ 19) 1 ea x
      else if level == 1 && leafL x then
        match leafCheck x 1 index false with
        | some sub => .bad 1 sub
        | none => .leaf (va / 2 ^ 31 * 4096) 4096 ea x
      else if bitsAt x.toNat 55 9 != 0 || bitsAt x.toNat 9 6 != 0 || bitsAt x.toNat 1 8 != 0 then .bad level 3
      else s.walkFrom world va fuel (level + 1) (bitsAt x.toNat 15 40 * 2 ^ 15)

/-- The walk of a virtual address of a context. -/
def State.walk (s : State) (ctx va : Nat) : Walk := s.walkFrom (s.ctxWorld ctx) va 3 0 (s.ctx ctx).ptroot

/-- The bases of a context on a core: those that its context slot took up while a gang of it is bound there (R28, R307), else its own. -/
def State.basesOn (s : State) (core ctx : Nat) : SlotBases :=
  let c := s.ctx ctx
  let own : SlotBases := ⟨c.regBase, c.codeBase, c.ptroot⟩
  if s.gangs.any fun p => p.2.ctx == ctx && p.2.core == core && p.2.resid != .switched then (s.core core).bases.at_ own ctx else own

/-- The walk for an access from a core, from the root that the core's context slot holds. -/
def State.walkOn (s : State) (core ctx va : Nat) : Walk := s.walkFrom (s.ctxWorld ctx) va 3 0 (s.basesOn core ctx).root

/-- The leaf of one 512 KiB page inside a leaf of `span` pages from `first` on. -/
def leafOfPage (x : DWord) (first page : Nat) : DWord := dword (withBits x.toNat 28 36 (leafPfn x + (page - first)))

/-- The physical address of a byte under the leaf of its 512 KiB page (R273). -/
def leafPa (x : DWord) (va : Nat) : Nat := leafPfn x * 2 ^ 19 + va % 2 ^ 19

/-- A leaf maps a frame that is being zeroed for a new world: accesses wait (R382). -/
def State.frameBusy (s : State) (leaf : DWord) : Bool := s.trust.zeroing.any fun p => p.1 == leafPfn leaf

/-- A and D of a leaf as an access leaves them (R276). -/
def markLeaf (x : DWord) (writes : Bool) : DWord :=
  let y := setBit64 x 6 true
  if writes then setBit64 y 7 true else y

/-- The atomic update with which an access sets A, or D, of a leaf entry (R276): the subcode where a module refuses it (R350). -/
def State.markCheck (s : State) (ctx at_ : Nat) (x : DWord) (writes : Bool) : Option Nat :=
  if markLeaf x writes = x then none else s.reachFrom none (s.ctxWorld ctx) at_ 8 .atomic

/-- What the device's own access to a structure of a context meets, inside one page: the leaf with the address of its entry and of the byte; a refusal where it arrives; a wait, on a frame that is being zeroed (R382) or, for a write through a leaf with DUP, on the collapse of the page (R283); or no mapping. -/
inductive Own where
  | leaf (x : DWord) (at_ pa : Nat)
  | refused (pa sub : Nat)
  | waits
  | collapses (page at_ : Nat) (x : DWord)
  | absent
  deriving DecidableEq, Repr

/-- The device's own access of `n` bytes for a context (R270, R350, R380 to R382). Log entry 16. -/
def State.ownAccess (s : State) (ctx : Nat) (va : DWord) (n : Nat) (a : Access) : Own :=
  if 2 ^ 55 ≤ va.toNat then .absent
  else match s.walk ctx va.toNat with
    | .leaf first _ at_ x =>
      let y := leafOfPage x first (va.toNat / 2 ^ 19)
      let pa := leafPa y va.toNat
      if a.writes && leafDup x then .collapses (va.toNat / 2 ^ 19) at_ x
      else if s.frameBusy y then .waits
      else match s.reachFrom none (s.ctxWorld ctx) pa n a with
        | some sub => .refused pa sub
        | none =>
          match s.markCheck ctx at_ x a.writes with
          | some sub => .refused at_ sub
          | none => .leaf x at_ pa
    | .busy => .waits
    | _ => .absent

/-- The leaf through which the device reaches `n` bytes of a register image, a code image or another structure of a context, with the address of its entry and of the byte. -/
def State.kernelLeaf (s : State) (ctx : Nat) (va : DWord) (n : Nat) (a : Access) : Option (DWord × Nat × Nat) :=
  match s.ownAccess ctx va n a with
  | .leaf x at_ pa => some (x, at_, pa)
  | _ => none

/-- The address at which the device reads `n` bytes of such a structure. -/
def State.kernelPa (s : State) (ctx : Nat) (va : DWord) (n : Nat) : Option Nat := (s.kernelLeaf ctx va n .read).map fun p => s.home p.2.2

/-- The addresses of the lines that a run of bytes touches. -/
def lineRun (pa n : Nat) : List Nat := (List.range ((pa + n + 127) / 128 - pa / 128)).map fun i => (pa / 128 + i) * 128

/-- Every copy of a line in the vault caches of the package is invalidated (R260). A cache holds a line under the address at which memory holds it, by whichever port or aperture it was reached. -/
def State.dropCopies (s : State) (pa : Nat) : State :=
  { s with cores := s.cores.map fun p => (p.1, { p.2 with cache := p.2.cache.filter fun x => x.addr != s.home pa / 128 * 128 }) }

/-- Bytes written past the vault caches: every copy of their lines is invalidated (R260). -/
def State.storeOver (s : State) (pa : Nat) (bytes : List Byte) : State := (lineRun pa bytes.length).foldl State.dropCopies (s.store (s.home pa) bytes)

/-- A leaf entry in memory brought to a value. -/
def State.storeLeaf (s : State) (at_ : Nat) (y : DWord) : State :=
  if dword (readNum s.mem (s.home at_) 8) = y then s else s.storeOver at_ (bytesOf 8 y.toNat)

/-- The device's own access to a tier-0 page of MT normal or uncached passes through the home cache (R265) before the step ends. -/
def State.passHome (s : State) (ctx : Nat) (x : DWord) (pa n : Nat) (writes : Bool) : State :=
  if regionOf pa == .hbm && leafMt x != 2 then { s with passing := s.passing ++ [⟨ctx, pa, n, writes⟩] } else s

/-- The device's own access to bytes inside one page sets A, and D where it writes (R276); one that is refused is counted (R381). -/
def State.touchPage (s : State) (ctx : Nat) (va : DWord) (n : Nat) (a : Access) : State :=
  match s.ownAccess ctx va n a with
  | .leaf x at_ pa => (s.storeLeaf at_ (markLeaf x a.writes)).passHome ctx x pa n a.writes
  | .refused pa sub => s.countRefusal pa sub
  | _ => s

/-- The device's own access to a run of bytes marks the pages that it goes through (R276). -/
def State.touchRun (s : State) (ctx : Nat) (va : DWord) (n : Nat) (a : Access) : State :=
  (s.touchPage ctx va 1 a).touchPage ctx (va + dword (n - 1)) 1 a

/-- Bytes of such a structure inside one page; zero where it is not mapped. -/
def State.readPage (s : State) (ctx : Nat) (va : DWord) (n : Nat) : List Byte :=
  if n = 0 then []
  else match s.kernelPa ctx va n with
    | some pa => readBytes s.mem pa n
    | none => List.replicate n 0

/-- A write of such a structure inside one page. It is performed late where its frame is being zeroed or its page must collapse first; it is counted where it is refused, and nothing where it is not mapped. -/
def State.writePage (s : State) (ctx : Nat) (va : DWord) (bytes : List Byte) : State :=
  if bytes.isEmpty then s
  else match s.ownAccess ctx va bytes.length .write with
    | .leaf x at_ pa => ((s.storeLeaf at_ (markLeaf x true)).storeOver pa bytes).passHome ctx x pa bytes.length true
    | .refused pa sub => s.countRefusal pa sub
    | .waits => { s with late := s.late ++ [⟨ctx, va, bytes⟩] }
    | .collapses _ _ _ => { s with late := s.late ++ [⟨ctx, va, bytes⟩] }
    | .absent => s

/-- Bytes from an address to the end of its 512 KiB page. -/
def pageRoom (va : DWord) : Nat := 2 ^ 19 - va.toNat % 2 ^ 19

/-- Bytes of such a structure, of 512 KiB at most. -/
def State.readImage (s : State) (ctx : Nat) (va : DWord) (n : Nat) : List Byte :=
  let k := min n (pageRoom va)
  s.readPage ctx va k ++ s.readPage ctx (va + dword k) (n - k)

/-- A write of such a structure, of 512 KiB at most. -/
def State.writeImage (s : State) (ctx : Nat) (va : DWord) (bytes : List Byte) : State :=
  let k := pageRoom va
  (s.writePage ctx va (bytes.take k)).writePage ctx (va + dword k) (bytes.drop k)

/-! ## Migratable pages (R283) -/

/-- The module and module address of a master, from its page address in this package's map. -/
def State.masterOf (s : State) (pa : Nat) : Nat × Nat :=
  let h := s.home pa
  ((h - apertureBase) / moduleSpan, (h - apertureBase) % moduleSpan)

/-- The module's record of a page; a page it does not list is MASTER. -/
def State.migPage (s : State) (m a : Nat) : MigPage :=
  (s.pages.find? fun p => p.module == m && p.addr == a).getD ⟨m, a, .master, [], [], 0, 0, 0, [], none⟩

/-- The record of a page replaced. -/
def State.setPage (s : State) (p : MigPage) : State :=
  { s with pages := p :: s.pages.filter fun q => !(q.module == p.module && q.addr == p.addr) }

/-- This package's number for the pod's tables. -/
def State.self (s : State) : Nat := s.pod.own.getD 0

/-- A last-page register that holds a page is emptied. -/
def Thread.dropPage (page : Nat) (t : Thread) : Thread :=
  match t.lastPage with
  | some l => if l.page == page then { t with lastPage := none } else t
  | none => t

/-- The last-page registers of a context's gang that hold a page are emptied. -/
def Gang.dropPage (ctx page : Nat) (g : Gang) : Gang :=
  if g.ctx == ctx then { g with threads := g.threads.map (Thread.dropPage page) } else g

/-- TLB entries and last-page registers of a 512 KiB page dropped in the whole package (R223, R283). -/
def State.sweepPage (s : State) (ctx page : Nat) : State :=
  let keep := fun (e : TlbEntry) => !(e.ctx == ctx && decide (e.page ≤ page) && decide (page < e.page + e.span))
  { s with
    cores := s.cores.map fun p => (p.1, { p.2 with tlb := p.2.tlb.filter keep })
    dies := s.dies.map fun p => (p.1, { p.2 with tlb := p.2.tlb.filter keep })
    gangs := s.gangs.map fun p => (p.1, p.2.dropPage ctx page) }

/-- The remote form of a leaf, MIG clear (R282). -/
def remoteForm (x : DWord) : DWord := setBit64 (setBit64 (setBit64 (setBit64 x 0 false) 26 true) 27 false) 11 false

/-- A remote leaf made valid: it maps the master with its own W, DUP clear. -/
def liveForm (x : DWord) : DWord := setBit64 (setBit64 (setBit64 (setBit64 x 0 true) 26 false) 27 false) 11 false

/-- An entry of this package changed by the device: an atomic update, then a sweep (R283). -/
def State.putLeaf (s : State) (l : MigLeaf) (x : DWord) : State := (s.storeOver l.at_ (bytesOf 8 x.toNat)).sweepPage l.ctx l.page

/-- A leaf returns to remote form, and its replica frame to the pool of its tenancy. -/
def State.returnLeaf (s : State) (mig : Bool) (l : MigLeaf) : State :=
  let s := s.putLeaf l (setBit64 l.remote 27 mig)
  match l.frame with
  | some f => s.mapTen (s.ctx l.ctx).tenancy fun t => { t with replicas := t.replicas ++ [f] }
  | none => s

/-- A page with a leaf entered. -/
def MigPage.withLeaf (p : MigPage) (l : MigLeaf) : MigPage :=
  { p with leaves := l :: p.leaves.filter fun k => !(k.ctx == l.ctx && k.page == l.page) }

/-- A collapse begins (R283, R285): the page is COLLAPSING, its count grows, every leaf of this package returns to remote form with MIG set, and the replicas are freed. -/
def State.beginCollapse (s : State) (ctx page at_ : Nat) (remote : DWord) (p : MigPage) : State :=
  let l : MigLeaf := ⟨ctx, page, at_, remote, none, true⟩
  let s := (p.leaves.foldl (fun (s : State) k => s.returnLeaf true k) s).putLeaf l (setBit64 remote 27 true)
  let q := { p with
    st := .collapsing s.self, collapses := s.clock :: p.collapses, writer := s.self, readers := p.readers.filter (· != s.self)
    leaves := p.leaves.map fun (k : MigLeaf) => { k with frame := none, writes := false } }
  s.setPage (q.withLeaf l)

/-! ## Translation -/

/-- The outcome of a translation: the leaf of the page, a fault, or a wait on a page in transit. -/
inductive Xlate where
  | ok (leaf : DWord)
  | flt (cls sub : Nat)
  | wait
  deriving DecidableEq, Repr

/-- A held translation serves an access (R276). -/
def usable (x : DWord) (a : Access) : Bool := leafA x && (!a.writes || leafD x)

/-- The entry of a TLB for a page. -/
def tlbFind (t : List TlbEntry) (ctx page : Nat) : Option DWord :=
  match t.find? fun e => e.ctx == ctx && decide (e.page ≤ page) && decide (page < e.page + e.span) with
  | some e => some (leafOfPage e.leaf e.page page)
  | none => none

/-- A TLB with an entry in front, the oldest falling out beyond its size. -/
def tlbFill (t : List TlbEntry) (size : Nat) (e : TlbEntry) : List TlbEntry :=
  (e :: t.filter fun x => !(x.ctx == e.ctx && x.page == e.page)).take size

/-- The TLBs of a core and its die filled. -/
def State.fillTlbs (s : State) (core : Nat) (e : TlbEntry) : State :=
  (s.mapCore core fun c => { c with tlb := tlbFill c.tlb Config.coreTlb e }).mapDie (dieOf core)
    fun d => { d with tlb := tlbFill d.tlb Config.dieTlb e }

/-- A write through a leaf with DUP begins the collapse of its page, where the page is REPLICATED (R283). -/
def State.writeDup (s : State) (ctx page at_ : Nat) (x : DWord) : State :=
  let mine := s.pages.find? fun p => p.st == .replicated && p.leaves.any fun l => l.ctx == ctx && l.page == page
  match mine with
  | some p =>
    let r := ((p.leaves.find? fun l => l.ctx == ctx && l.page == page).map fun l => l.remote).getD (remoteForm x)
    s.beginCollapse ctx page at_ r p
  | none =>
    let (m, ad) := s.masterOf (leafPfn x * 2 ^ 19)
    let p := s.migPage m ad
    if leafTier x != 0 && p.st == .replicated then s.beginCollapse ctx page at_ (remoteForm x) p else s

/-- The device's late writes: each is performed once its page may be written, and begins the collapse that it waits for. -/
def State.settleLate (s : State) : State :=
  s.late.foldl (fun (s : State) (w : LateWrite) =>
    match s.ownAccess w.ctx w.va w.bytes.length .write with
    | .collapses page at_ x => { s.writeDup w.ctx page at_ x with late := s.late ++ [w] }
    | _ => s.writePage w.ctx w.va w.bytes) { s with late := [] }

/-- A leaf found by the walk: A and D are set in memory, the TLBs take it (R276, R278). -/
def State.useLeaf (s : State) (core ctx page first span at_ : Nat) (x : DWord) (a : Access) : State × Xlate :=
  if a.writes && leafDup x then (s.writeDup ctx page at_ x, .flt cXlateNr 4)
  else match s.markCheck ctx at_ x a.writes with
    | some sub => (s, .flt cXlatePerm sub)
    | none =>
      let y := markLeaf x a.writes
      let s := s.storeLeaf at_ y
      (s.fillTlbs core ⟨ctx, first, span, y⟩, .ok (leafOfPage y first page))

/-- The leaf of a page of a module in this package's map: through the port to which it is attached, else through its aperture (R284). -/
def State.leafAt (s : State) (x : DWord) (m a : Nat) : DWord :=
  let direct := (List.range Config.ports).find? fun p => (s.port p).module == m && (s.port p).inService
  let pa := match direct with
    | some p => portBase + p * moduleSpan + a
    | none => apertureBase + m * moduleSpan + a
  dword (withBits (withBits x.toNat 28 36 (pa / 2 ^ 19)) 13 2 (if direct.isSome then 1 else 2))

/-- A remote leaf whose master's record is known (R282, R283): a read waits for its replica; a write finds the master writable, or starts a collapse. -/
def State.useMaster (s : State) (core ctx page at_ : Nat) (x : DWord) (a : Access) (p : MigPage) : State × Xlate :=
  match p.st with
  | .collapsing _ => (s, .wait)
  | .pinned => (s.setPage (p.withLeaf ⟨ctx, page, at_, x, none, true⟩)).useLeaf core ctx page page 1 at_ (setBit64 (liveForm x) 12 true) a
  | _ =>
    if leafPin x then s.useLeaf core ctx page page 1 at_ (liveForm x) a
    else if a.writes then
      if p.st = .replicated then (s.beginCollapse ctx page at_ x p, .flt cXlateNr 4)
      else (s.setPage ({ p with st := .writable, writer := s.self }.withLeaf ⟨ctx, page, at_, x, none, true⟩)).useLeaf core ctx page page 1 at_ (liveForm x) a
    else (s.storeOver at_ (bytesOf 8 (setBit64 x 27 true).toNat), .wait)

/-- The record of a remote leaf's page, and the leaf as it names the master where it lies now: a pin may have moved it (R284). -/
def State.recordOf (s : State) (x : DWord) : MigPage × DWord :=
  let home := s.masterOf (leafPfn x * 2 ^ 19)
  let p := s.migPage home.1 home.2
  match p.movedTo with
  | some to_ => (s.migPage to_.1 to_.2, s.leafAt x (s.migPage to_.1 to_.2).module (s.migPage to_.1 to_.2).addr)
  | none => (p, x)

/-- A page whose collapse a write of this package has begun at this very clock: the other lanes that write with it freeze as it did (R283, R406). -/
def State.collapsesNow (s : State) (p : MigPage) : Bool := p.st == .collapsing s.self && p.collapses.head? == some s.clock

/-- A remote leaf met by a walk (R282, R283); with MIG set it waits, but for the lanes of the write that began the collapse. -/
def State.useRemote (s : State) (core ctx page at_ : Nat) (x : DWord) (a : Access) : State × Xlate :=
  let r := s.recordOf x
  if leafMig x then (if a.writes && s.collapsesNow r.1 then (s, .flt cXlateNr 4) else (s, .wait))
  else s.useMaster core ctx page at_ r.2 a r.1

/-- Translation of a page: the core TLB, the die TLB, then the walk (R278). -/
def State.lookPage (s : State) (core ctx page : Nat) (a : Access) : State × Xlate :=
  let held :=
    match tlbFind (s.core core).tlb ctx page with
    | some x => some x
    | none => tlbFind (s.die (dieOf core)).tlb ctx page
  let fresh := match held with
    | some x => if usable x a && !(a.writes && leafDup x) then some x else none
    | none => none
  match fresh with
  | some x => (s, .ok x)
  | none =>
    match s.walkOn core ctx (page * 2 ^ 19) with
    | .leaf first span at_ x => s.useLeaf core ctx page first span at_ x a
    | .remote p at_ x => s.useRemote core ctx p at_ x a
    | .absent level => (s, .flt cXlateNr (level + 1))
    | .bad _ sub => (s, .flt cXlateTable sub)
    | .busy => (s, .wait)
    | .denied sub => (s, .flt cXlatePerm sub)

/-- Translation of a page without the last-page register; an access to a frame that is being zeroed waits. -/
def State.translatePage (s : State) (core ctx page : Nat) (a : Access) : State × Xlate :=
  match s.lookPage core ctx page a with
  | (s, .ok x) => if s.frameBusy x then (s, .wait) else (s, .ok x)
  | r => r

/-- The page permission for an access at a level (step 4 of R140): the subcode of XLATE_PERM. -/
def permCheck (x : DWord) (a : Access) (level : Nat) : Option Nat :=
  let perm := match a with
    | .read => if leafR x then none else some 1
    | .write => if leafW x then none else some 2
    | .atomic => if leafW x then none else some 2
    | .fetch => if leafX x then none else some 3
  match perm with
  | some p => some p
  | none => if leafK x && level == 0 then some 4 else none

/-- The attributes that the vault range and control space require (R261, R270). -/
def State.mapCheck (s : State) (x : DWord) (pa : Nat) : Option Nat :=
  match regionOf pa with
  | .vault core off =>
    if leafMt x == 1 && (leafK x || s.isQueueBlock core (off / 0x10000)) then none else some 9
  | .control _ => if leafK x && leafMt x == 2 then none else some 9
  | _ => none

end Sys2Proof.Machine
end

