-- ==== Sys2Proof/Machine/ModCmd.lean ====
section
/-! DEFINITION. Requests that leave the package: the links of a port (R269, R340), module commands (R347 to R352), messages between packages and relay requests (R360, R361). -/

namespace Sys2Proof.Machine

/-! ## Module commands (R340, R347 to R352) -/

/-- The port of a tag, and the module behind it. -/
def tagPort (tag : Nat) : Nat := tag / 2 ^ 32

/-- A link carries granules: it is in service, and none of its granules still go over a substitute (R340). -/
def Port.carries (p : Port) (k : Nat) : Bool := p.linkUp.getLsbD k && !p.returning.contains k

/-- The link that R269 assigns to a physical address. -/
def linkOfPa (pa : Nat) : Nat := Nat.xor (bitsAt pa 8 8) (bitsAt pa 24 8) % 20

/-- The link that carries what is assigned to link `j`: itself, or the first one above it that is in service (R340). -/
def Port.substitute (p : Port) (j : Nat) : Option Nat := ((List.range 20).map fun i => (j + i) % 20).find? p.carries

/-- The link that carries a physical address on a port. -/
def Port.linkFor (p : Port) (pa : Nat) : Option Nat := p.substitute (linkOfPa pa)

/-- Where an access waits for its acknowledgment: the port of a code. -/
def destPort (d : Nat) : Nat := d % 32
/-- A request that a port has sent over a link. -/
def destOn (port link : Nat) : Nat := port + 32 * link
/-- A pending access went to a port that has been lost since (R344). -/
def lostDest (d : Nat) : Bool := decide (16 ≤ d % 32)
/-- A pending access waits for the reply of a relay package (R360). -/
def overRelay : Nat := 13
/-- A pending access of a lane. -/
def ofLane (l d : Nat) : Nat := d % 1024 + 1024 * l
/-- The lane of a pending access. -/
def laneOf (d : Nat) : Nat := d / 1024

/-- A request is outstanding on a link of a port. -/
def State.linkBusy (s : State) (port link : Nat) : Bool :=
  (s.gangs.any fun p => (p.2.ivs.flatMap (·.pend) ++ p.2.owed).any fun d => d % 1024 == destOn port link)
    || s.modCmds.any fun c => tagPort c.tag == port && c.link == link

/-- The requests in flight on a link are issued again, with their tags, on another (R340). -/
def State.moveRequests (s : State) (port link sub : Nat) : State :=
  let mv := fun (d : Nat) => if d % 1024 == destOn port link then ofLane (laneOf d) (destOn port sub) else d
  { s with
    gangs := s.gangs.map fun (p : Nat × Gang) =>
      (p.1, { p.2 with ivs := p.2.ivs.map fun (i : Iv) => { i with pend := i.pend.map mv }, owed := p.2.owed.map mv })
    modCmds := s.modCmds.map fun (c : ModCmd) => if tagPort c.tag == port && c.link == link then { c with link := sub } else c }

/-- Links that have returned take their granules back once nothing is outstanding on their substitutes (R340). -/
def State.settleLinks (s : State) : State :=
  { s with ports := s.ports.map fun (p : Nat × Port) =>
      (p.1, { p.2 with returning := p.2.returning.filter fun j => match p.2.substitute j with | some k => s.linkBusy p.1 k | none => false }) }

/-- A link goes out of service: its granules and the requests in flight go to its substitute (R340). -/
def State.failLink (s : State) (port link : Nat) : State :=
  let s := s.mapPort port fun p => { p with linkUp := p.linkUp &&& ~~~ BitVec.ofNat 20 (2 ^ link), returning := p.returning.filter (· != link) }
  match (s.port port).substitute link with
  | some k => s.moveRequests port link k
  | none => s

/-- A link returns to service (R340). -/
def State.restoreLink (s : State) (port link : Nat) : State :=
  (s.mapPort port fun p => { p with linkUp := p.linkUp ||| BitVec.ofNat 20 (2 ^ link), returning := if p.linkUp.getLsbD link then p.returning else link :: p.returning }).settleLinks

/-- What a module command asks for: the fields of its record that the asker gives (R347). -/
structure ModReq where
  op : Nat
  subop : Nat
  addr : Nat
  opnd : DWord := 0
  cmpv : DWord := 0
  first : Nat := 0
  count : Nat := 0
  ncon : Nat := 0
  nel : Nat := 0
  world : Nat := 0
  asker : Asker := .device
  deriving DecidableEq, Repr

/-- The lowest slot of a port's command aperture without a command in flight (R347). -/
def State.modSlot (s : State) (p : Nat) : Option Nat :=
  lowestFree (((s.port p).slots.filter fun x => s.modCmds.any fun c => c.tag == x.2.tag).map (·.1)) 1024

/-- A command as the port writes it into a slot: its tag is the head's command number, with the port above it. -/
def State.writeSlot (s : State) (p slot : Nat) (r : ModReq) (status : Option Nat) (value : DWord) : State × ModCmd :=
  let q := s.port p
  let c : ModCmd := {
    tag := p * 2 ^ 32 + q.nextTag, module := q.module, op := r.op, subop := r.subop, addr := r.addr, opnd := r.opnd, cmpv := r.cmpv
    first := r.first, count := r.count, ncon := r.ncon, nel := r.nel, world := r.world, asker := r.asker
    link := (q.linkFor (portBase + p * moduleSpan + q.cmdOff + 256 * slot)).getD 0, waiting := false, status := status, value := value }
  (s.mapPort p fun q => { q with nextTag := (q.nextTag + 1) % 2 ^ 32, slots := q.slots.put slot c }, c)

/-- A command leaves through a port, and its response is awaited; none while no slot is free. -/
def State.sendModCmd (s : State) (p : Nat) (r : ModReq) : Option (State × Nat) :=
  (s.modSlot p).map fun slot =>
    let x := s.writeSlot p slot r none 0
    ({ x.1 with modCmds := x.1.modCmds ++ [x.2] }, x.2.tag)

/-- A command of the device that the module answers in the same step. -/
def State.modCommand (s : State) (p : Nat) (r : ModReq) (status : Nat) (value : DWord) : State :=
  match s.modSlot p with
  | some slot => (s.writeSlot p slot r (some status) value).1
  | none => s

/-- The port and offset by which a physical address is reached at a module directly. -/
def State.modulePort (s : State) (pa : Nat) : Option (Nat × Nat) :=
  match regionOf pa with
  | .port p off => some (p, off)
  | .aperture m off => ((List.range Config.ports).find? fun p => (s.port p).module == m && (s.port p).inService).map fun p => (p, off)
  | _ => none

/-- The port and offset of a MODULE-homed descriptor. -/
def portOf (pa : Nat) : Nat × Nat :=
  match regionOf pa with
  | .port p off => (p, off)
  | _ => (0, 0)

/-- The operations of module commands (R348). -/
def modAmo : Nat := 1
def modQop : Nat := 2
def modWatch : Nat := 3
def modContrib : Nat := 0x10
def modReadsum : Nat := 0x11
def modMsg : Nat := 0x20

/-- The SUBOP numbers of QOP (R348). -/
def qPushRes : Nat := 0
def qPushCmt : Nat := 1
def qPopRes : Nat := 2
def qPopCmt : Nat := 3
def qLenStep : Nat := 4

/-! ## Messages between packages (R360) -/

/-- A module command that carries a message to a peer (R347, R348): MSG through the port of the module that is shared with the peer, or with the relay package. -/
def State.carry (s : State) (peer : Nat) : State :=
  let e := s.pod.entries.at_ PodEntry.none_ peer
  let next := if e.st = 1 then e.relay else peer
  match s.pod.own.bind fun a => s.pod.shared a next with
  | none => s
  | some m =>
    match (List.range Config.ports).find? fun p => (s.port p).module == m && (s.port p).inService with
    | some p => s.modCommand p { op := modMsg, subop := (s.pod.lines.at_ [] m).idxOf next, addr := 0 } 0 0
    | none => s

/-- A message for a peer: it takes the pair's next number, leaves, and is kept until it is acknowledged. -/
def State.pairSend (s : State) (peer : Nat) (body : PairBody) : State :=
  (s.mapPod fun p =>
    let x := p.pairs.at_ PairState.reset peer
    { p with
      pairs := p.pairs.put peer { x with nextOut := (x.nextOut + 1) % 2 ^ 32, unacked := x.unacked ++ [(x.nextOut, body)], since := s.clock }
      wire := p.wire ++ [(peer, x.nextOut, body)] }).carry peer

/-- An access of this package that goes over a relay package is a relay request, a message that the reply acknowledges (R360): read, write, atomic or window command; `who` waits for the reply. The access itself is performed with the request. Log entry 108. -/
def State.relayAccess (s : State) (world pa kind : Nat) (bytes : List Byte) (n : Nat) (who : RelayWait) : State :=
  match regionOf pa with
  | .aperture m off =>
    if (s.headAt m).isSome then s
    else match s.routeTo m with
      | some c =>
        let r : RelayReq := { src := s.self, world := world, module := m, addr := off, kind := kind, len := n, bytes := bytes }
        (s.pairSend c (.relay r)).mapPod fun p => { p with asked := p.asked ++ [(c, who)] }
      | none => s
  | _ => s

/-- What an atomic asks for beyond its own package: an AMO command at a module (R347, R351), or a relay request. Bit 5 of SUBOP says that no value is returned. -/
def State.askAtomic (s : State) (world pa op w : Nat) (data cmp : DWord) (posted : Bool) (value : DWord) (who : RelayWait) : State :=
  match s.modulePort pa with
  | some (p, off) =>
    s.modCommand p { op := modAmo, subop := op + (if w = 8 then 16 else 0) + (if posted then 32 else 0), addr := off, opnd := data, cmpv := cmp, world := world }
      0 (if posted then 0 else value)
  | none => s.relayAccess world pa 2 (bytesOf 1 op ++ bytesOf 1 w ++ bytesOf 8 data.toNat ++ bytesOf 8 cmp.toNat) w who

/-- The relay request of an access from a core. -/
def State.askRelay (s : State) (core pa kind : Nat) (bytes : List Byte) (n : Nat) (who : RelayWait) : State :=
  s.relayAccess (s.die (dieOf core)).world pa kind bytes n who

/-! ## The device's own requests to modules (R344, R347, R352) -/

/-- Where a posted access waits for its acknowledgment: a module port with 32 times the link that carries it, code 13 for a relay package, or 12 inside the package. -/
def State.destOf (s : State) (pa : Nat) : Nat :=
  match s.modulePort pa, regionOf pa with
  | some (p, off), _ => destOn p (((s.port p).linkFor (portBase + p * moduleSpan + off)).getD 0)
  | none, .aperture _ _ => overRelay
  | none, _ => 12

/-- The port of a request that cannot be made, for its error record: that of the address, or 12 for an aperture. -/
def State.portNear (s : State) (pa : Nat) : Nat :=
  match regionOf pa with
  | .port p _ => p
  | .aperture m _ => ((List.range Config.ports).find? fun p => (s.port p).module == m).getD 12
  | _ => 12

/-- A place that the device can still reach: not a module whose port has been lost (R344). -/
def State.canReach (s : State) (pa : Nat) : Bool :=
  match regionOf pa with
  | .port p _ => (s.port p).inService
  | .aperture m _ => (s.headFor m).isSome
  | _ => true

/-- A step of a MODULE-homed queue that the device makes by itself travels as a QOP command, which the module answers DONE (R352); at any other queue nothing travels. -/
def State.queueCommand (s : State) (world pa subop n : Nat) : State :=
  match s.modulePort pa with
  | some (p, off) => s.modCommand p { op := modQop, subop := subop, addr := off, opnd := dword n, world := world } 0 (dword n)
  | none => s

end Sys2Proof.Machine
end

