-- ==== Sys2Proof/Machine/Commit.lean ====
section
/-! DEFINITION. What a gang may leave half done: the reservations of queue instructions with their commits (R166, R301, R337) and the continuation records of SVC (R205, R206). -/

namespace Sys2Proof.Machine

/-! ## Structures in memory -/

/-- A 64-bit word of a structure in memory. -/
def State.word64 (s : State) (pa : Nat) : Nat := readNum s.mem (s.home pa) 8
/-- A 64-bit word written. -/
def State.setWord64 (s : State) (pa x : Nat) : State := s.storeOver pa (bytesOf 8 x)

/-! ## Queue descriptors (R162) -/

/-- A queue as its descriptor gives it: descriptor address, its leaf, BASE, item bytes, capacity, HOME. -/
structure Queue where
  pa : Nat
  leaf : DWord
  base : DWord
  isz : Nat
  cap : Nat
  home : Nat
  deriving DecidableEq, Repr

def State.qTail (s : State) (pa : Nat) : Nat := s.word64 pa
def State.qTres (s : State) (pa : Nat) : Nat := s.word64 (pa + 8)
def State.qHead (s : State) (pa : Nat) : Nat := s.word64 (pa + 16)
def State.qHres (s : State) (pa : Nat) : Nat := s.word64 (pa + 24)

/-- The queue that a descriptor describes, without checks. -/
def State.queueOf (s : State) (pa : Nat) (leaf : DWord) : Queue :=
  let c := readNum s.mem (s.home pa + 40) 4
  ⟨pa, leaf, dword (s.word64 (pa + 32)), 8 * 2 ^ bitsAt c 6 2, 2 ^ bitsAt c 11 5, bitsAt c 0 2⟩

/-- The slot of item `n` by the tables as they stand, for the device itself. -/
def State.slotPa (s : State) (ctx : Nat) (q : Queue) (n : Nat) : Option Nat := s.kernelPa ctx (q.base + dword (n % q.cap * q.isz)) q.isz

/-! ## Commits (R166, R337) -/

/-- The turn of a commit has come. -/
def State.commitTurn (s : State) (pa n : Nat) (push : Bool) : Bool := if push then s.qTail pa == n else s.qHead pa == n

/-- A commit made: at a module it is a QOP command (R352); one whose module is lost reaches it no more, and is reported as a store of the port is (R344). -/
def State.makeCommit (s : State) (c : QCommit) : State :=
  if !s.canReach c.pa then s.report (16 + s.portNear c.pa) 1 0
  else
    let s := s.queueCommand (s.ctxWorld c.ctx) c.pa (if c.push then qPushCmt else qPopCmt) c.num
    if c.push then s.setWord64 c.pa (c.num + 1) else s.setWord64 (c.pa + 16) (c.num + 1)

/-- Commits that are due at a queue are made, in reservation order; `fuel` bounds their number. -/
def State.settleCommits (s : State) (pa : Nat) : Nat → State
  | 0 => s
  | fuel + 1 =>
    match s.commits.find? fun c => c.pa == pa && (!s.canReach pa || s.commitTurn pa c.num c.push) with
    | none => s
    | some c => ({ s with commits := s.commits.filter fun d => d != c }.makeCommit c).settleCommits pa fuel

/-- A reservation is committed now or in its turn. -/
def State.commitLater (s : State) (c : QCommit) : State :=
  { s with commits := s.commits ++ [c] }.settleCommits c.pa (s.commits.length + 1)

/-- The direction of a waiting queue instruction. -/
def queueSide : Instr → Option Bool
  | .qpush _ _ => some true
  | .qpop _ _ => some false
  | .qtrypop _ _ _ => some false
  | _ => none

/-- The instruction reserves a place in a queue. -/
def reserves (i : Instr) : Bool := (queueSide i).isSome

/-- A waiting queue instruction whose step has been made already needs no commit. -/
def Wait.committed : Wait → Bool
  | .moduleStep _ stage => stage == 2
  | _ => false

/-- The commit that the reservation of a waiting queue instruction still needs. -/
def State.pendCommit (s : State) (ctx : Nat) (crew : Option Nat) (p : Pend) : Option QCommit :=
  match reserves p.insn && !p.why.committed, p.extra with
  | true, lo :: hi :: _ =>
    let num := (pairOf lo hi).toNat
    let push := queueSide p.insn == some true
    match p.why with
    | .queue pa => some ⟨pa, num, push, ctx, crew⟩
    | .moduleCmd _ pa => some ⟨pa, num, push, ctx, crew⟩
    | .moduleStep pa _ => some ⟨pa, num, push, ctx, crew⟩
    | _ => (s.kernelPa ctx (pairOf (p.vals.getD 0 0) (p.vals.getD 1 0)) 64).map fun pa => ⟨s.home pa, num, push, ctx, crew⟩
  | _, _ => none

/-- The item of a push to a module whose place is reserved and whose item is not written yet. -/
def Pend.dueItem (p : Pend) : Option (Nat × Nat × List Byte) :=
  match queueSide p.insn, p.why, p.extra with
  | some true, .moduleStep pa 1, lo :: hi :: item => some (pa, (pairOf lo hi).toNat, item.flatMap fun w => bytesOf 4 w.toNat)
  | _, _, _ => none

/-- That item is written (R337). -/
def State.writeDue (s : State) (ctx : Nat) (p : Pend) : State :=
  match p.dueItem with
  | none => s
  | some (pa, n, item) =>
    let q := s.queueOf pa 0
    s.writeImage ctx (q.base + dword (n % q.cap * q.isz)) item

/-- A waiting queue instruction is given up: its item is written, its commit follows in its turn (R337). R127 has the waiting operations of a TASKEND withdrawn without effect, and says nothing of a reservation that one of them holds: it is committed in its turn as well (DESIGN CHOICE, log entry 123). -/
def State.withdrawPend (s : State) (ctx : Nat) (crew : Option Nat) (p : Pend) : State :=
  match s.pendCommit ctx crew p with
  | none => s
  | some c => (s.writeDue ctx p).commitLater c

/-- The item of a waiting pop that has its reservation: the one it has read, or the one in its slot. -/
def State.poppedItem (s : State) (ctx : Nat) (p : Pend) (c : QCommit) : List Word :=
  match p.extra.drop 2 with
  | [] =>
    let q := s.queueOf c.pa 0
    match s.slotPa ctx q c.num with
    | some slot => (List.range (q.isz / 4)).map fun i => word (readNum s.mem (slot + 4 * i) 4)
    | none => []
  | ws => ws

/-- The registers that a waiting queue instruction writes when it completes with its reservation. -/
def State.poppedRegs (s : State) (ctx : Nat) (p : Pend) (c : QCommit) : List (Nat × Word) :=
  let item := fun (d : Nat) => (s.poppedItem ctx p c).mapIdx fun i w => (d + i, w)
  match p.insn with
  | .qpop d _ => item d
  | .qtrypop d _ (.v n) => item d ++ [(n, 1)]
  | .qtrypop d _ _ => item d
  | _ => []

/-! ## Records of the continuation pool (R205, R206) -/

/-- The VA of record `c` of a context's continuation pool (R206). -/
def State.poolVa (s : State) (ctx c : Nat) : DWord := (s.ctx ctx).regBase + dword (0x31380000 + c * 0x4800)

/-- STATE of a record written: 0 FREE, 1 PENDING, 2 SPAWNED. -/
def State.setRecord (s : State) (ctx c st : Nat) : State := s.writeImage ctx (s.poolVa ctx c + 0x4600) (bytesOf 4 st)

/-- Records return to FREE. -/
def State.freeRecords (s : State) (ctx : Nat) (cs : List Nat) : State :=
  let s := cs.foldl (fun s c => s.setRecord ctx c 0) s
  { s with launches := s.launches.map fun l => if l.ctx = ctx then { l with records := l.records.filter fun c => !cs.contains c } else l }

/-- The record that a lane waiting in SVC holds (R205). -/
def Pend.svcRecord (p : Pend) : Option Nat :=
  match p.insn, p.extra with
  | .svc _ _ _, c :: _ => some c.toNat
  | _, _ => none

/-- The crew of a gang, where it has one: a handler gang has none (R321). -/
def Gang.crew? (g : Gang) : Option Nat := if g.hslot.isSome then none else some g.crew

/-- The waiting operations of a gang's lanes. -/
def Gang.pends (g : Gang) : List Pend := g.threads.filterMap fun t => if t.run = .blocked then t.wait else none

/-- The operations of a gang's waiting lanes are withdrawn: reservations are committed in their turn, records of SVC return to FREE (R301, R336, R337). -/
def State.withdrawWaits (s : State) (gk : Nat) : State :=
  match s.gang? gk with
  | none => s
  | some g =>
    let s := g.pends.foldl (fun (s : State) p => s.withdrawPend g.ctx g.crew? p) s
    s.freeRecords g.ctx (g.pends.filterMap Pend.svcRecord)

end Sys2Proof.Machine
end

