-- ==== Sys2Proof/Machine/Ops.lean ====
section
/-! DEFINITION. The shared operations of the machine: latches, intervals, freezing (the one way in which a fault is taken), resumption and killing of frozen lanes, the meeting rule, barriers, issue slots, pre-emption. -/

namespace Sys2Proof.Machine

/-! ## Latches and thread moves (R16, R25, R45) -/

/-- Eight INVALID latches. -/
def latInvalid : List Latch := List.replicate 8 .invalid

/-- The latches after an entry is shifted in (R45). -/
def shiftLat (l : List Latch) (e : Latch) : List Latch := (e :: l).take 8

/-- The events of R25: latches INVALID, pending hints lost (R54). -/
def Thread.dropLatches (t : Thread) : Thread := { t with lat := latInvalid, hints := Hints.none_ }

/-- A thread returns to its region entry (R15, R305, R307): the waiting operation is withdrawn. -/
def Thread.toRegion (t : Thread) : Thread :=
  { t.dropLatches with pc := t.rep, rcnt := 0, run := .run, wait := none, lpv := 0, lpp := 0, lpk := 0, lastPage := none }

/-- A thread exits (R126); a waiting operation is withdrawn. -/
def Thread.toExited (t : Thread) : Thread := { t with run := .exited, wait := none, hints := Hints.none_ }

/-! ## Intervals (R233, R239, R241, R242) -/

/-- What a lane waits for is an access that it still has to perform. -/
def Pend.accesses (p : Pend) : Bool :=
  match p.why with
  | .access => true
  | .fullEmpty _ _ => true
  | .queue _ => true
  | .moduleCmd _ _ => true
  | .moduleStep _ _ => true
  | .pageInTransit _ => true
  | _ => false

/-- A waiting lane has still to perform an access of an interval. -/
def Gang.waitsIn (g : Gang) (n : Nat) : Bool := g.pends.any fun p => p.iv == n && p.accesses

/-- An interval that has ended closes once every access that it holds has been performed (R233). -/
def Gang.prune (g : Gang) : Gang := { g with ivs := g.ivs.filter fun i => !(i.ended && i.pend.isEmpty && !g.waitsIn i.num) }

/-- A synchronising operation of a gang has completed: its interval ends, and stays open while accesses are not performed (R233); tile records that other gangs of its crew have set and ordered are seen from now on (R192). -/
def Gang.endInterval (g : Gang) : Gang :=
  let h : Gang := { g with ivs := (g.ivs.map fun i => { i with ended := true }), oldTiles := [] }
  h.prune

/-- Intervals of a gang are forced to an end (R242): the gang owes their accesses to its next memory instruction. -/
def Gang.closeIvs (p : Iv → Bool) (g : Gang) : Gang :=
  { g with ivs := g.ivs.filter fun i => !p i, owed := g.owed ++ (g.ivs.filter p).flatMap (·.pend) }

/-- Every interval of a gang is forced to an end (R242). -/
def Gang.closeIntervals (g : Gang) : Gang := g.closeIvs fun _ => true

/-- Accesses of a gang that are not yet performed (R233), by where they went. -/
def Gang.pending (g : Gang) : List Nat := g.ivs.flatMap (·.pend) ++ g.owed

/-- The gang owes nothing from intervals that were forced to an end, but stores that were lost. -/
def Gang.settled (g : Gang) : Bool := g.owed.all lostDest

/-- The number of a gang as an agent of race detection (R239). -/
def Gang.agent (g : Gang) : Nat :=
  match g.hslot with
  | some k => 46080 + g.core * 64 + k
  | none => g.core * 288 + g.slot

/-- The number of an interval as a tag holds it (R239). -/
def epochOf (n : Nat) : Nat := n % 4096

/-- The package's interval clock after an interval has opened (R239). -/
def State.nextStamp (s : State) : Nat := (s.ivClock + 1) % 2 ^ 28

/-- No SHARED tag outlives a turn of the interval clock (R241). -/
def State.turnStamps (s : State) : State :=
  if s.nextStamp ≠ 0 then s
  else { s with
    gangs := s.gangs.map fun p => (p.1, p.2.closeIntervals)
    tags := s.tags.filter fun p => p.2.mode != .shared }

/-- No tag names a new interval of a gang's slot (R241): the tags that hold its number are cleared, and an interval of the gang that has had it ends. -/
def State.freshEpoch (s : State) (gk : Nat) (g : Gang) : State :=
  let e := epochOf (g.ivNum + 1)
  { s.mapGang gk (Gang.closeIvs fun i => epochOf i.num == e) with
    tags := s.tags.filter fun p => !((p.2.mode == .read || p.2.mode == .write) && p.2.agent == g.agent && p.2.epoch == e) }

/-- A gang's interval opens, unless one is open that no synchronising operation has ended (R233, R239). -/
def State.openIv (s : State) (gk : Nat) : State :=
  match s.gang? gk with
  | none => s
  | some g =>
    if g.ivs.any fun i => !i.ended then s
    else
      let s := s.turnStamps.freshEpoch gk g
      { s.mapGang gk fun g => { g with ivNum := g.ivNum + 1, ivs := ⟨g.ivNum + 1, s.nextStamp, [], false⟩ :: g.ivs } with ivClock := s.nextStamp }

/-- The interval to which an access belongs: that of a waiting instruction where it is still open, else the current one. -/
def Gang.ivFor (g : Gang) (iv : Option Nat) : Nat :=
  match iv with
  | some n => if g.ivs.any fun i => i.num == n then n else g.ivNum
  | none => g.ivNum

/-- A gang still holds open the interval in which a waiting instruction stands. -/
def State.holdsIv (s : State) (gk : Nat) (iv : Option Nat) : Bool :=
  match s.gang? gk, iv with
  | some g, some n => g.ivs.any fun i => i.num == n
  | _, _ => false

/-- An access of a gang: its interval opens at the first one (R233, R239), one that stands in an earlier interval opens none; a posted access stays outstanding at its destination. -/
def State.access (s : State) (gk : Nat) (iv : Option Nat) (posted : Option Nat) : State :=
  (if s.holdsIv gk iv then s else s.openIv gk).mapGang gk fun g =>
    let n := g.ivFor iv
    { g with ivs := g.ivs.map fun i => if i.num == n then { i with pend := i.pend ++ posted.toList } else i }

/-! ## Fault records (R313, R318, R323) -/

/-- The crew of a gang; a handler gang has none. -/
def State.crewOf (s : State) (g : Gang) : Option Crew := s.crew? g.crew

/-- The capability of a frozen set (R209). -/
def setCap (gen ctx index : Nat) : DWord := dword (gen % 65536 * 2 ^ 48 + ctx % 4096 * 2 ^ 32 + index % 256)

/-- The record of a frozen set of a gang (R313), without SEQ and CAP. -/
def State.gangRec (s : State) (gk : Nat) (g : Gang) (lanes : List Nat) (f : Flt) : Rec :=
  let t := g.th (lanes.headD 0)
  let c := s.crewOf g
  { seq := 0, task := (c.map (·.serial)).getD 0, crewIx := (c.map (·.index)).getD 0, gang := g.index, grec := g.grec,
    gslot := match g.hslot with | some k => 288 + k | none => g.slot,
    core := g.core, cls := f.cls, sub := f.sub, level := g.level, nested := g.hslot.isSome || g.level == 2, eng := false,
    lanes := maskOf lanes, rcnt := t.rcnt, rep := t.rep, pc := t.pc, va := f.va, cap := 0, gkey := gk, crew := g.crew, fetch := none, ord := 0 }

/-- The 64 bytes of a record (R313). -/
def Rec.bytes (r : Rec) : List Byte :=
  bytesOf 8 r.cap.toNat ++ bytesOf 8 r.va.toNat ++ bytesOf 4 r.pc.toNat ++ bytesOf 4 r.rep.toNat ++ bytesOf 4 r.rcnt.toNat
    ++ bytesOf 4 r.lanes
    ++ bytesOf 4 ((if r.eng then 1 else 0) + (if r.nested then 2 else 0))
    ++ bytesOf 4 (r.level + r.sub % 256 * 256 + r.cls % 256 * 65536 + r.core % 256 * 16777216)
    ++ bytesOf 2 r.gslot ++ bytesOf 2 r.grec ++ bytesOf 2 r.gang ++ bytesOf 2 r.crewIx
    ++ bytesOf 8 r.task ++ bytesOf 8 r.seq

/-- Word i of a record. -/
def Rec.word (r : Rec) (i : Nat) : Word := Sys2Proof.word (natOfBytes ((r.bytes.drop (4 * i)).take 4))

/-- The VA of entry i of a context's frozen-set table (R311). -/
def Context.setEntry (c : Context) (i : Nat) : DWord := c.regBase + dword (0x40A80000 + 64 * i)

/-! ## Issue slots (R303 to R305) -/

/-- A launch of a context by its serial. -/
def State.launch? (s : State) (ctx serial : Nat) : Option Launch :=
  s.launches.find? fun l => l.ctx == ctx && l.serial == serial

/-- The sub-core of a gang (R303, R320). -/
def Gang.subCore (g : Gang) : Nat := match g.hslot with | some k => k % 12 | none => g.slot / 24

/-- The gang could issue: resident, with a thread in RUN. -/
def Gang.ready (g : Gang) : Bool := g.resid == .running && !(g.lanesIn .run).isEmpty

/-- The crew serves the die's service queue (R309): a kernel-level crew of a launch with HOLD. -/
def State.isService (s : State) (g : Gang) : Bool :=
  g.level == 2 && match s.crewOf g with
    | some c => (match s.launch? c.ctx c.launch with | some l => l.hold | none => false)
    | none => false

/-- Priority for an issue slot (R304, R309, R320): service crews, context PRIO, handlers, stage PRIO, the PRI of a pending HX.SCHED. -/
def State.slotPriority (s : State) (g : Gang) : Nat :=
  let stagePrio := match s.crewOf g with
    | some c => (match s.launch? c.ctx c.launch with | some l => ((l.stages[c.stage]?).map (·.prio)).getD 0 | none => 0)
    | none => 0
  let pri := match g.lanesIn .run with
    | l :: _ => ((g.th l).hints.sched.map (· / 16 % 4)).getD 0
    | [] => 0
  (if s.isService g then 4096 else 0) + (s.ctx g.ctx).prio * 256 + (if g.hslot.isSome then 128 else 0) + stagePrio * 8 + pri

/-- A gang gives up its issue slot; releasing it counts as becoming ready (R304). It may be slot-pre-empted again (R305). Free slots are given on at the end of the step. -/
def State.releaseSlot (s : State) (gk : Nat) : State :=
  match s.gang? gk with
  | none => s
  | some g => if g.issue.isNone then s else s.setGang gk { g with issue := none, readyAt := s.clock, guard := false }

/-! ## Taking a fault (R310 to R313) -/

/-- The records of a queue that are no context-stop notices. -/
def waitingRecs (q : List Rec) : Nat := (q.filter fun r => r.cls != 0xFF).length

/-- The records of a queue as FQBASE holds them: those that wait, in their order. Log entry 99. -/
def queueImage (q : List Rec) : List (List Byte) := (q.filter fun r => r.cls != 0xFF).map Rec.bytes

/-- The VA of the n-th waiting record (R323). -/
def Context.fqEntry (c : Context) (n : Nat) : DWord := c.fqBase + dword (64 * n)

/-- A record takes the next SEQ and enters the fault queue, or is held by its source while the queue is full or older records are held (R318, R323). The record with its SEQ is given back. -/
def State.queueRec (s : State) (ctx : Nat) (r : Rec) : State × Rec :=
  let c := s.ctx ctx
  let r := { r with seq := c.nextSeq, ord := s.records }
  let s := { s with records := s.records + 1 }.mapCtx ctx fun c => { c with nextSeq := c.nextSeq + 1 }
  if Config.faultQueue ≤ waitingRecs c.queue || !c.heldRecs.isEmpty then
    (s.mapCtx ctx fun c => { c with heldRecs := c.heldRecs ++ [r] }, r)
  else
    let t := s.mapCtx ctx fun c => { c with queue := c.queue ++ [r] }
    (if r.cls = 0xFF then t else t.writeImage ctx (c.fqEntry (waitingRecs c.queue)) r.bytes, r)

/-- Lanes enter FROZEN (R16). -/
def Gang.freezeLanes (g : Gang) (lanes : List Nat) (shown : Nat) : Gang :=
  g.mapLanes lanes fun t => { t.dropLatches with run := .frozen, wait := none, fset := shown }

/-- THE ONE WAY A FAULT IS TAKEN. The lanes of a gang that meet one class and subcode form one frozen set: they enter FROZEN where they stand, the set takes the lowest free index (or waits for one), its record takes the next SEQ and enters the fault queue, and the gang's interval ends. No PC moves (R310 to R313, R318). -/
def State.freeze (s : State) (gk : Nat) (lanes : List Nat) (f : Flt) : State :=
  match s.gang? gk with
  | none => s
  | some g =>
    let ctx := g.ctx
    let c := s.ctx ctx
    let r := s.gangRec gk g lanes f
    match lowestFree c.sets.keys 255 with
    | some i =>
      let r := { r with cap := setCap (c.gens.at_ 0 i) ctx i }
      let s := s.setGang gk (g.freezeLanes lanes i).closeIntervals
      let (s, r) := s.queueRec ctx r
      let s := s.mapCtx ctx fun c => { c with sets := c.sets.put i ⟨gk, maskOf lanes, r, .queued, none⟩ }
      s.writeImage ctx (c.setEntry i) r.bytes
    | none =>
      let s := s.setGang gk (g.freezeLanes lanes 0xFF).closeIntervals
      let (s, r) := s.queueRec ctx r
      s.mapCtx ctx fun c => { c with unindexed := c.unindexed ++ [⟨gk, maskOf lanes, r, .queued, none⟩] }

/-- The faults of one instruction grouped into sets by class and subcode, in ascending order of their lowest lane (R310). -/
def groupFaults : List (Nat × Flt) → List (List Nat × Flt)
  | [] => []
  | (l, f) :: rest =>
    let same := rest.filter fun p => p.2.cls == f.cls && p.2.sub == f.sub
    (l :: same.map (·.1), f) :: (groupFaults rest).filter fun p => !(p.2.cls == f.cls && p.2.sub == f.sub)

/-- Every fault of an instruction is taken, set by set. -/
def State.freezeAll (s : State) (gk : Nat) (fs : List (Nat × Flt)) : State :=
  (groupFaults fs).foldl (fun s p => s.freeze gk p.1 p.2) s

/-! ## Pre-emption and stops (R307, R323) -/

/-- A thread whose queue instruction has been completed for it: a region begins after it (R46, R48). -/
def Thread.pastQueue (t : Thread) : Thread :=
  { t.dropLatches with pc := t.pc + 4, rep := t.pc + 4, rcnt := 0, run := .run, wait := none }

/-- A waiting queue instruction stands at the last word of its segment, which its completion passes (R55). -/
def Thread.lastWord (t : Thread) : Bool := t.pc.toNat % 0x8000 == 0x7FFC

/-- A queue instruction that has its reservation is an RB instruction already issued: it completes before its gang is pre-empted (R307), and where it stands at the last word of its segment takes the fault of R55. Log entry 101. -/
def State.finishQueue (s : State) (gk l : Nat) : State × Option (Nat × Flt) :=
  match s.gang? gk with
  | none => (s, none)
  | some g =>
    let t := g.th l
    match (if t.run = .blocked then t.wait else none) with
    | none => (s, none)
    | some p =>
      if !reserves p.insn || p.extra.isEmpty then (s, none)
      else
        let c := s.pendCommit g.ctx g.crew? p
        let regs := match c with
          | some c => s.poppedRegs g.ctx p c
          | none => s.poppedRegs g.ctx p ⟨0, 0, false, 0, none⟩
        let s := (s.withdrawPend g.ctx g.crew? p).mapGang gk fun g => regs.foldl (fun (g : Gang) w => g.writeV l w.1 w.2) g
        if t.lastWord then (s, some (l, ⟨cCodeSeg, 2, dword (t.pc + 4).toNat⟩))
        else (s.mapGang gk fun g => g.setTh l t.pastQueue, none)

/-- The lanes of a gang that hold a reservation complete, ascending; those that pass the end of one segment freeze together. -/
def State.finishQueues (s : State) (gk : Nat) : State :=
  let r := (List.range 32).foldl (fun (acc : State × List (Nat × Flt)) l =>
    let x := acc.1.finishQueue gk l
    (x.1, acc.2 ++ x.2.toList)) (s, [])
  ((r.2.map fun x => x.2.va).dedup).foldl (fun (s : State) va => s.freezeAll gk (r.2.filter fun x => x.2.va == va)) r.1

/-- A context's gangs leave their slots and every running thread returns to its region entry (R307). -/
def Gang.preempt (g : Gang) : Gang :=
  let move := fun (t : Thread) => match t.run with
    | .run => t.toRegion
    | .held => t.toRegion
    | .blocked => t.toRegion
    | _ => { t.dropLatches with lastPage := none }
  { g.closeIntervals with
    threads := g.threads.map move
    resid := if g.resid = .running then .preempted else g.resid
    issue := none, current := none, forced := none, split := [], marked := List.range 131 }

/-- A gang is pre-empted: queue instructions with a reservation complete, the records that its lanes waiting in SVC hold return to FREE, and a handler gang leaves its handler slot (R328). -/
def State.preemptGang (s : State) (gk : Nat) : State :=
  let s := s.finishQueues gk
  match s.gang? gk with
  | none => s
  | some g =>
    let s := (s.freeRecords g.ctx (g.pends.filterMap Pend.svcRecord)).mapGang gk Gang.preempt
    match g.hslot with
    | some k => s.mapCore g.core fun c => { c with hslots := c.hslots.filter fun p => !(p.1 == k && p.2 == gk) }
    | none => s

/-- The gangs of a context that meet a condition are pre-empted. -/
def State.preemptWhere (s : State) (ctx : Nat) (p : Gang → Bool) : State :=
  (s.gangs.filter fun q => q.2.ctx == ctx && p q.2).foldl (fun s q => s.preemptGang q.1) s

/-- The fault queue of a context changed, with its copy at FQBASE (R323). -/
def State.setQueue (s : State) (ctx : Nat) (q : List Rec) : State :=
  let old := queueImage (s.ctx ctx).queue
  let new := queueImage q
  let c := s.ctx ctx
  let s := s.mapCtx ctx fun c => { c with queue := q }
  (List.range (max old.length new.length)).foldl (fun (s : State) i =>
    if old[i]? = new[i]? then s else s.writeImage ctx (c.fqEntry i) (new.getD i (List.replicate 64 0))) s

/-- A context stops (R323): its crews are pre-empted, and a notice is made for the escalation owner. -/
def State.stopCtx (s : State) (ctx : Nat) : State :=
  let c := s.ctx ctx
  if c.stopped then s
  else
    let notice : Rec := ⟨c.nextSeq, 0, 0, 0, 0, 0, 0, 0xFF, 1, 0, false, false, 0, 0, 0, 0, 0, 0, 0, 0, none, s.records⟩
    let s := { s with records := s.records + 1 }.mapCtx ctx fun c => { c with stopped := true, nextSeq := c.nextSeq + 1, queue := c.queue ++ [notice] }
    s.preemptWhere ctx fun _ => true

/-- While 4,096 records wait the context is stopped (R323): looked at when a step ends. -/
def State.stopIfFull (s : State) (ctx : Nat) : State :=
  if Config.faultQueue ≤ waitingRecs (s.ctx ctx).queue then s.stopCtx ctx else s

/-! ## Closing, resuming and killing frozen sets (R209, R213, R214, R311, R318) -/

/-- A record is withdrawn from the queue and from its source. -/
def State.withdraw (s : State) (ctx sq : Nat) : State :=
  (s.setQueue ctx ((s.ctx ctx).queue.filter fun r => r.seq != sq)).mapCtx ctx fun c =>
    { c with heldRecs := c.heldRecs.filter fun r => r.seq != sq }

/-- A queued record's copy kept in step with its capability. -/
def State.updateRec (s : State) (ctx : Nat) (r : Rec) : State :=
  let new := fun (q : Rec) => if q.seq == r.seq then r else q
  (s.setQueue ctx ((s.ctx ctx).queue.map new)).mapCtx ctx fun c => { c with heldRecs := c.heldRecs.map new }

/-- The register base of a gang: that of its core's context slot while it is bound there, else the context's (R28, R307). -/
def State.regBaseOf (s : State) (g : Gang) : DWord :=
  if g.resid = .switched then (s.ctx g.ctx).regBase else (s.basesOn g.core g.ctx).reg

/-- The VA of a gang's record: gang records from REGBASE, handler records behind the continuation pool (R29, R320). -/
def State.recVa (s : State) (g : Gang) : DWord :=
  s.regBaseOf g + dword ((if g.hslot.isSome then 0x35B80000 else 0) + g.grec * 0x4600)

/-- The lanes of a gang show the index of their frozen set: in their lane states, which lie in the image where the gang is switched out (R29, R311). -/
def State.showIndex (s : State) (gk lanes i : Nat) : State :=
  let s := s.mapGang gk fun g => g.mapLanes (lanesOf lanes) fun t => { t with fset := i }
  match s.gang? gk with
  | none => s
  | some g =>
    if g.resid = .switched then (lanesOf lanes).foldl (fun (s : State) l => s.writeImage g.ctx (s.recVa g + dword (0x4215 + 32 * l)) [BitVec.ofNat 8 i]) s
    else s

/-- A freed index goes to the set that has waited longest (R311). -/
def State.assignIndex (s : State) (ctx i : Nat) : State :=
  let c := s.ctx ctx
  match c.unindexed with
  | [] => s
  | w :: rest =>
    let r := { w.rec_ with cap := setCap (c.gens.at_ 0 i) ctx i }
    let s := (s.updateRec ctx r).mapCtx ctx fun c => { c with sets := c.sets.put i { w with rec_ := r }, unindexed := rest }
    let s := s.showIndex w.gkey w.lanes i
    s.writeImage ctx (c.setEntry i) r.bytes

/-- The generation of an index advances (R209). -/
def State.bumpGen (s : State) (ctx i : Nat) : State :=
  s.mapCtx ctx fun c => { c with gens := c.gens.put i ((c.gens.at_ 0 i + 1) % 65536) }

/-- A set closes (R318): its record is withdrawn, its index freed and given on. -/
def State.closeSet (s : State) (ctx i : Nat) : State :=
  match (s.ctx ctx).sets.find? i with
  | none => s
  | some f =>
    let s := s.bumpGen ctx i
    let s := (s.withdraw ctx f.rec_.seq).mapCtx ctx fun c => { c with sets := c.sets.drop i }
    let s := s.writeImage ctx ((s.ctx ctx).setEntry i) (List.replicate 64 0)
    s.assignIndex ctx i

/-- Lanes leave a set: with none left it closes, and otherwise a new capability stands for the rest (R213). The value for vD:vD+1 is given back. -/
def State.shrinkSet (s : State) (ctx i : Nat) (gone : Nat) : State × DWord :=
  match (s.ctx ctx).sets.find? i with
  | none => (s, 0)
  | some f =>
    let left := f.lanes - (f.lanes &&& gone)
    if f.lanes &&& gone = 0 then (s, f.rec_.cap)
    else if left = 0 then (s.closeSet ctx i, 0)
    else
      let s := s.bumpGen ctx i
      let cap := setCap ((s.ctx ctx).gens.at_ 0 i) ctx i
      let r := { f.rec_ with cap := cap, lanes := left }
      let s := (s.updateRec ctx r).mapCtx ctx fun c => { c with sets := c.sets.put i { f with lanes := left, rec_ := r } }
      (s.writeImage ctx ((s.ctx ctx).setEntry i) r.bytes, cap)

/-- A resumed thread (R213): mode 0 restarts its region, 1 begins one at its PC, 2 goes on after the instruction. -/
def Thread.resume (t : Thread) (mode : Nat) : Thread :=
  let t := { t.dropLatches with run := .run, rcnt := 0, lpv := 0, lpp := 0, lpk := 0, fset := 0 }
  if mode = 0 then { t with pc := t.rep }
  else if mode = 1 then { t with rep := t.pc }
  else { t with pc := t.pc + 4, rep := t.pc + 4 }

/-! ## Meetings (R18, R161) -/

/-- The meeting rule keeps a thread held (R18). -/
def Gang.keepsHeld (g : Gang) (l : Nat) : Bool :=
  let t := g.th l
  t.mt != mtNone && (List.range 32).any fun u =>
    u != l && (g.th u).mt == t.mt && ((g.th u).run == .run || (g.th u).run == .blocked) && (g.th u).pc != t.mt

/-- A thread waits at a barrier. -/
def Thread.atBarrier (t : Thread) : Bool :=
  t.run == .blocked && match t.wait with
    | some p => (match p.why with | .barrier _ => true | .group _ _ => true | _ => false)
    | none => false

/-- R161: every live thread of the gang is held or waits at a barrier. -/
def Gang.barrierHeld (g : Gang) : Bool :=
  g.threads.all fun t => t.run == .frozen || t.run == .exited || t.run == .held || t.atBarrier

/-- A HELD thread released (R16). -/
def Thread.release (t : Thread) : Thread := if t.run = .held then { t with run := .run, mt := mtNone } else t

/-- The lane has performed its access and waits for the other lanes of the instruction (R144). -/
def Thread.parked (t : Thread) : Bool :=
  t.run == .blocked && match t.wait with
    | some p => p.why == .access
    | none => false

/-- Two threads wait in one instruction, issued at one time. -/
def Thread.sameIssue (a b : Thread) : Bool :=
  match a.wait, b.wait with
  | some p, some q => p.insn == q.insn && p.hints == q.hints && p.since == q.since
  | _, _ => false

/-- The instruction of a parked lane is complete: none of its lanes waits any more (R144). -/
def Gang.unparks (g : Gang) (l : Nat) : Bool :=
  (g.th l).parked && (List.range 32).all fun m => !((g.th m).run == .blocked && !(g.th m).parked && (g.th m).sameIssue (g.th l))

/-- Lanes whose instruction is complete go on (R144), and the held threads that the meeting rule no longer holds are released (R18, R161). -/
def Gang.settle (g : Gang) : Gang :=
  let g := g.mapLanes ((List.range 32).filter g.unparks) fun t => { t with run := .run, wait := none }
  let free := (List.range 32).filter fun l => (g.th l).run == .held && (g.barrierHeld || !g.keepsHeld l)
  (g.mapLanes free Thread.release).prune

/-! ## Barriers (R159, R160) -/

/-- The gangs of a crew. -/
def State.gangsOf (s : State) (crew : Nat) : List (Nat × Gang) := s.gangs.filter fun p => p.2.crew == crew && p.2.hslot.isNone

/-- The thread has arrived at an instance of the crew barrier. -/
def Thread.arrived (t : Thread) (inst : Nat) : Bool :=
  t.run == .exited || (t.run == .blocked && match t.wait with | some p => p.why == .barrier inst | none => false)

/-- The thread has arrived at an instance of a group's barrier. -/
def Thread.arrivedGroup (t : Thread) (gid inst : Nat) : Bool :=
  t.run == .exited || (t.run == .blocked && match t.wait with | some p => p.why == .group gid inst | none => false)

/-- The crew barrier's instance completes: its threads are released together. -/
def State.passBar (s : State) (crew inst : Nat) : State :=
  { s.mapCrew crew fun c => { c with bar := inst + 1 } with
    gangs := s.gangs.map fun p => if p.2.crew == crew && p.2.hslot.isNone && p.2.pends.any (fun w => w.why == .barrier inst) then (p.1, p.2.endInterval) else p }

/-- The crew barrier's instance completes when every thread that is not EXITED has arrived. -/
def State.settleBar (s : State) (crew : Nat) : State :=
  match s.crew? crew with
  | none => s
  | some c =>
    let gs := s.gangsOf crew
    if gs.any (fun p => !p.2.live.isEmpty) && gs.all fun p => p.2.threads.all fun t => t.arrived c.bar then s.passBar crew c.bar
    else s

/-- The launches with one changed. -/
def State.mapLaunch (s : State) (ctx serial : Nat) (f : Launch → Launch) : State :=
  { s with launches := s.launches.map fun l => if l.ctx == ctx && l.serial == serial then f l else l }

/-- The member crews of a group of a launch that hold their cores. -/
def State.groupCrews (s : State) (ctx serial gid : Nat) : List (Nat × Crew) :=
  s.crews.filter fun p => p.2.ctx == ctx && p.2.launch == serial && p.2.groups.contains gid && p.2.cont.isNone

/-- The gangs of the member crews of a group of a launch. -/
def State.groupGangs (s : State) (ctx serial gid : Nat) : List (Nat × Gang) := (s.groupCrews ctx serial gid).flatMap fun p => s.gangsOf p.1

/-- Every member crew has started, or its task has retired (R160). -/
def State.groupStarted (s : State) (l : Launch) (gid : Nat) : Bool :=
  (((l.groups[gid]?).map (·.members)).getD []).all fun m =>
    match (s.groupCrews l.ctx l.serial gid).filter fun p => p.2.stage == m.1 && p.2.index == m.2 with
    | [] => l.retired.contains m
    | cs => cs.all fun p => p.2.phase == .running || p.2.phase == .killed

/-- The instance of a group's barrier completes: its threads are released together. -/
def State.passGroup (s : State) (ctx serial gid inst : Nat) : State :=
  let keys := (s.groupGangs ctx serial gid).map (·.1)
  { s.mapLaunch ctx serial fun l => { l with gbar := l.gbar.put gid (inst + 1) } with
    gangs := s.gangs.map fun p => if keys.contains p.1 && p.2.pends.any (fun w => w.why == .group gid inst) then (p.1, p.2.endInterval) else p }

/-- The barrier of group `gid` of a launch completes when every thread of every member crew has arrived or exited. -/
def State.settleGroup (s : State) (ctx serial gid : Nat) : State :=
  match s.launch? ctx serial with
  | none => s
  | some l =>
    let inst := l.gbar.at_ 0 gid
    let gs := s.groupGangs ctx serial gid
    if gs.any (fun p => !p.2.live.isEmpty) && s.groupStarted l gid && gs.all fun p => p.2.threads.all fun t => t.arrivedGroup gid inst then
      s.passGroup ctx serial gid inst
    else s

/-- Every barrier that a crew's threads count in is looked at again. -/
def State.settleBarriers (s : State) (crew : Nat) : State :=
  match s.crew? crew with
  | none => s
  | some c => c.groups.foldl (fun s gid => s.settleGroup c.ctx c.launch gid) (s.settleBar crew)

/-! ## The end of an issue -/

/-- The handler gang of a frozen object has exited: the object is UNATTENDED where it is still frozen (R318). -/
def State.unattend (s : State) (gk : Nat) : State :=
  match s.gang? gk with
  | none => s
  | some g =>
    if g.hslot.isNone || !g.live.isEmpty then s
    else
      let s := s.mapCtx g.ctx fun c => { c with
        sets := c.sets.map fun p => if p.2.handler = some gk ∧ p.2.st = .handled then (p.1, { p.2 with st := .unattended }) else p }
      { s with cmds := s.cmds.map fun m => if m.handler = some gk ∧ m.fst_ = .handled then { m with fst_ := .unattended } else m }

/-- After threads of a gang have moved: meetings settle, barriers are looked at, and a gang without threads in RUN gives up its slot. -/
def State.settleGang (s : State) (gk : Nat) : State :=
  let s := (s.mapGang gk Gang.settle).unattend gk
  match s.gang? gk with
  | none => s
  | some g =>
    let s := s.settleBarriers g.crew
    if g.ready then s else s.releaseSlot gk

/-- Threads of a gang have moved at an event of R46: the gang gives up its issue slot, whatever path runs (R304). -/
def State.settleEvent (s : State) (gk : Nat) : State := (s.settleGang gk).releaseSlot gk

/-- Lanes of a set are resumed (R213). -/
def State.resumeSet (s : State) (ctx i mask mode : Nat) : State × DWord :=
  match (s.ctx ctx).sets.find? i with
  | none => (s, 0)
  | some f =>
    let lanes := lanesOf (f.lanes &&& mask)
    let s := s.mapGang f.gkey fun g => g.mapLanes lanes fun t => t.resume mode
    let (s, cap) := s.shrinkSet ctx i mask
    (s.settleEvent f.gkey, cap)

/-- Lanes of a set are killed (R214). -/
def State.killSet (s : State) (ctx i mask : Nat) : State × DWord :=
  match (s.ctx ctx).sets.find? i with
  | none => (s, 0)
  | some f =>
    let lanes := lanesOf (f.lanes &&& mask)
    let s := s.mapGang f.gkey fun g => g.mapLanes lanes Thread.toExited
    let (s, cap) := s.shrinkSet ctx i mask
    (s.settleGang f.gkey, cap)

/-! ## Pinning (R174, R299) -/

/-- An unpinned replayable task. -/
def Crew.unpinned (c : Crew) : Bool := c.repl && !c.pinned

end Sys2Proof.Machine
end

