-- ==== Sys2Proof/Machine/Operands.lean ====
section
/-! DEFINITION. Operand forms: how a lane reads an operand code by its kind, pairs, uniform positions, data registers and register blocks, the operand faults, the registers an instruction reads, the bound hints. -/

namespace Sys2Proof.Machine

/-- Operand kinds (R94). -/
inductive Kind where
  | s
  | u
  | f
  | p
  deriving DecidableEq, Repr

/-- A 24-bit payload as an operand of a kind (R94). -/
def immExt (k : Kind) (p : Nat) : Word :=
  match k with
  | .s => (BitVec.ofNat 24 p).signExtend 32
  | .u => word (p % 2 ^ 24)
  | .f => word (p % 2 ^ 24 * 256)
  | .p => word (p % 65536 * 65537)

/-- An 8-bit immediate of kind s or u (R94). -/
def imm8 (k : Kind) (i : Nat) : Word :=
  match k with
  | .s => (BitVec.ofNat 8 i).signExtend 32
  | _ => word (i % 256)

/-- An operand position. `reg` are data registers of D, `lane` is the A of RDLANE, whose latch is another lane's, and `block` is a block of k registers (R169). -/
inductive Opnd where
  | src (x : Src) (k : Kind)
  | uni (x : Src) (k : Kind)
  | pair (x : Src)
  | upair (x : Src)
  | reg (n count : Nat)
  | lane (x : Src)
  | block (x : Src) (count : Nat)
  deriving DecidableEq, Repr

/-- What a lane's operands are read from: its gang, the crew's index and the task's serial, and the bound HX.IMM. -/
structure View where
  g : Gang
  crew : Word
  task : Word
  imm : Option Nat
  deriving DecidableEq, Repr

/-- The thread index of a lane (R10). -/
def Gang.tid (g : Gang) (l : Nat) : Word := word (32 * g.index + l)

/-- The value of a latch; zero for one that holds none, whose reader faults. -/
def Latch.value : Latch → Word
  | .val w => w
  | _ => 0

/-- Latch dn of a lane. -/
def Gang.latch (g : Gang) (l n : Nat) : Latch := (g.th l).lat.getD (n - 1) .invalid

/-- The value that an operand code gives a lane (R42). -/
def View.value (w : View) (k : Kind) (l : Nat) : Src → Word
  | .v n => w.g.readV l n
  | .k n => w.g.readK n
  | .d n => (w.g.latch l n).value
  | .zero => 0
  | .lane => word l
  | .tid => w.g.tid l
  | .crew => w.crew
  | .task => w.task
  | .ones => 0xFFFFFFFF#32
  | .immw => immExt k (w.imm.getD 0)
  | .rsv _ => 0

/-- The two registers of a pair position (R23). -/
def View.pairVals (w : View) (l : Nat) : Src → List Word
  | .v n => [w.g.readV l n, w.g.readV l (n + 1)]
  | .k n => [w.g.readK n, w.g.readK (n + 1)]
  | _ => [0, 0]

/-- The words that a position gives a lane. -/
def View.vals (w : View) (l : Nat) : Opnd → List Word
  | .src x k => [w.value k l x]
  | .uni x k => [w.value k l x]
  | .pair x => w.pairVals l x
  | .upair x => w.pairVals l x
  | .reg n count => (List.range count).map fun i => w.g.readV l (n + i)
  | .lane _ => [0]
  | .block x count => match x with
    | .k n => (List.range count).map fun i => w.g.readK (n + i)
    | _ => List.replicate count 0

/-- A code is reserved (R42). -/
def isReserved : Src → Bool
  | .rsv _ => true
  | _ => false

/-- The subcode that a position takes whatever the lane (R43): 0x01, 0x04, 0x05, 0x06, and 0x0A of a register block (R169). -/
def Opnd.staticSub (imm : Option Nat) : Opnd → Option Nat
  | .src x _ => if isReserved x then some 1 else if x = .immw ∧ imm = none then some 4 else none
  | .lane x => if isReserved x then some 1 else if x = .immw ∧ imm = none then some 4 else none
  | .uni x _ =>
    if isReserved x then some 1
    else if x = .immw ∧ imm = none then some 4
    else match x with
      | .v _ => some 6
      | .lane => some 6
      | .tid => some 6
      | _ => none
  | .pair x =>
    if isReserved x then some 1
    else if x = .immw ∧ imm = none then some 4
    else match x with
      | .v n => if n % 2 = 0 then none else some 5
      | .k n => if n % 2 = 0 then none else some 5
      | _ => some 5
  | .upair x =>
    if isReserved x then some 1
    else if x = .immw ∧ imm = none then some 4
    else match x with
      | .k n => if n % 2 = 0 then none else some 5
      | .v n => if n % 2 = 0 then some 6 else some 5
      | _ => some 5
  | .reg _ _ => none
  | .block x count => match x with
    | .k n => if n % count = 0 then none else some 0x0A
    | _ => some 0x0A

/-- The latch that a position reads. -/
def Opnd.latch? : Opnd → Option Nat
  | .src (.d n) _ => some n
  | .uni (.d n) _ => some n
  | _ => none

/-- The position is uniform. -/
def Opnd.isUniform : Opnd → Bool
  | .uni _ _ => true
  | .upair _ => true
  | _ => false

/-- A uniform position names a latch whose value differs between the active lanes (R43). -/
def Gang.differs (g : Gang) (lanes : List Nat) (p : Opnd) : Bool :=
  match p with
  | .uni (.d n) _ =>
    let vals := lanes.filterMap fun l => match g.latch l n with | .val w => some w | _ => none
    match vals with
    | [] => false
    | x :: rest => rest.any fun y => y != x
  | _ => false

/-- The subcode that a lane takes from its own latch state: 0x02, 0x03, 0x07 (R43). -/
def Gang.latchSub (g : Gang) (lanes : List Nat) (l : Nat) (p : Opnd) : Option Nat :=
  match p.latch? with
  | none => none
  | some n =>
    match g.latch l n with
    | .empty => some 2
    | .invalid => some 3
    | .val _ => if g.differs lanes p then some 7 else none

/-- The lower of two subcodes. -/
def minSub : Option Nat → Option Nat → Option Nat
  | none, y => y
  | x, none => x
  | some x, some y => some (min x y)

/-- The lowest of several subcodes. -/
def minSubs (xs : List (Option Nat)) : Option Nat := xs.foldl minSub none

/-- The position names IMMW, and so consumes HX.IMM (R51). -/
def Opnd.namesImm : Opnd → Bool
  | .src .immw _ => true
  | .uni .immw _ => true
  | .pair .immw => true
  | .upair .immw => true
  | .lane .immw => true
  | .block .immw _ => true
  | _ => false

/-- The v registers that a position reads. -/
def Opnd.vRegs : Opnd → List Nat
  | .src (.v n) _ => [n]
  | .uni (.v n) _ => [n]
  | .pair (.v n) => [n, n + 1]
  | .upair (.v n) => [n, n + 1]
  | .lane (.v n) => [n]
  | .reg n count => (List.range count).map fun i => n + i
  | _ => []

/-- The k registers that a position reads. -/
def Opnd.kRegs : Opnd → List Nat
  | .src (.k n) _ => [n]
  | .uni (.k n) _ => [n]
  | .pair (.k n) => [n, n + 1]
  | .upair (.k n) => [n, n + 1]
  | .lane (.k n) => [n]
  | .block (.k n) count => (List.range count).map fun i => n + i
  | _ => []

/-! ## L-pending bits (R46) -/

/-- Bits of a set of registers. -/
def regBits (w : Nat) (regs : List Nat) : BitVec w := regs.foldl (fun m n => m ||| BitVec.twoPow w n) 0

/-- The thread reads a register whose L-pending bit is set. -/
def Thread.hitsPending (t : Thread) (vs ks : List Nat) : Bool :=
  vs.any (fun n => t.lpv.getLsbD n) || ks.any fun n => t.lpk.getLsbD n

/-- v registers with the other halves of those whose bits were set as a pair: bits of a pair are cleared together. -/
def Thread.withPairs (t : Thread) (vs : List Nat) : List Nat :=
  vs ++ (vs.filter fun n => t.lpp.getLsbD n).map fun n => if n % 2 = 0 then n + 1 else n - 1

/-- The L-pending bits of some v registers cleared. -/
def Thread.clearPending (t : Thread) (vs : List Nat) : Thread :=
  let bits := regBits 128 (t.withPairs vs)
  { t with lpv := t.lpv &&& ~~~bits, lpp := t.lpp &&& ~~~bits }

/-- The L-pending bits of the registers that a class L instruction writes: two registers are a pair. Log entry 95. -/
def Thread.setPending (t : Thread) (vs : List Nat) : Thread :=
  let bits := regBits 128 vs
  let u := t.clearPending vs
  { u with lpv := u.lpv ||| bits, lpp := if vs.length = 2 then u.lpp ||| bits else u.lpp }

/-- The thread before its operands are read: latches INVALID where an L-pending register is read, whose bit is cleared. -/
def Thread.beforeRead (t : Thread) (vs ks : List Nat) : Thread :=
  if t.hitsPending vs ks then { t.clearPending vs with lat := latInvalid, lpk := t.lpk &&& ~~~regBits 96 ks }
  else t

/-! ## Fields of HX.EXT (R51) -/

def extSrc3 (x : Nat) : Nat := bitsAt x 16 8
def extOv (x : Nat) : Bool := x.testBit 15
def extRaw (x : Nat) : Bool := x.testBit 14
def extCache (x : Nat) : Nat := bitsAt x 12 2
def extSat (x : Nat) : Bool := x.testBit 11
def extRnd (x : Nat) : Nat := bitsAt x 9 2
def extW64 (x : Nat) : Bool := x.testBit 8
def extFe (x : Nat) : Nat := bitsAt x 6 2
def extScope (x : Nat) : Nat := bitsAt x 3 3
def extOrder (x : Nat) : Nat := bitsAt x 0 3

/-- Places of the EXT fields in the payload. -/
def mSrc3 : Nat := 0xFF0000
def mOv : Nat := 0x8000
def mRaw : Nat := 0x4000
def mCache : Nat := 0x3000
def mSat : Nat := 0x800
def mRnd : Nat := 0x600
def mW64 : Nat := 0x100
def mFe : Nat := 0xC0
def mScope : Nat := 0x38
def mOrder : Nat := 0x7

/-- The rounding mode of an RND value (R51). -/
def rndMode (x : Nat) : Rnd := rndOf (extRnd x)

/-- The EXT payload that an instruction takes: 0 with none bound (R51). -/
def Hints.x (h : Hints) : Nat := h.ext.getD 0

/-- SRC3 as an operand code. -/
def Hints.src3 (h : Hints) : Src := Src.ofCode (extSrc3 h.x)

/-- No hint is pending. -/
def Hints.isNone (h : Hints) : Bool := h.imm.isNone && h.ext.isNone && h.sched.isNone

/-- The third operand C (R95): SRC3, or register D. -/
def accOpnd (h : Hints) (d : Nat) (k : Kind) : Opnd :=
  if extSrc3 h.x = 0 then .reg d 1 else .src h.src3 k

/-- The accumulator pair of MAD64 (R95). -/
def accPair (h : Hints) (d : Nat) : Opnd :=
  if extSrc3 h.x = 0 then .reg d 2 else .pair h.src3

end Sys2Proof.Machine
end

