-- ==== Sys2Proof/Machine/Flags.lean ====
section
/-! DEFINITION. FPSTATUS (R26): flags raised, enables, traps. -/

namespace Sys2Proof.Machine

/-- The raised flags include one whose enable bit is set (R26). -/
def Thread.traps (t : Thread) (raised : Nat) : Bool := (raised &&& bitsAt t.fps.toNat 8 5) != 0

/-- The thread with flags set: the five IEEE flags and MSAT (bit 5) are sticky. -/
def Thread.raise_ (t : Thread) (raised : Nat) : Thread := { t with fps := t.fps ||| word (raised % 64) }

/-- The fault of a trap: class FP, subcode the five raised flags. -/
def fpFault (raised : Nat) : Flt := ⟨cFp, raised % 32, 0⟩

/-- The bits that FPSTATUS keeps of a written value: reserved bits [31:13] and [7:6] stay zero. -/
def fpsWritten (x : Word) : Word := x &&& 0x1F3F#32

end Sys2Proof.Machine
end

