-- ==== Sys2Proof/Machine/Exec.lean ====
section
/-! DEFINITION. One instruction for the active lanes of a path: its form (classes, operand positions, destination, consumed hints), the checks in the order of R57, the operand values, and the completion, waiting and faulting of its lanes. -/

namespace Sys2Proof.Machine

/-- Where a result goes. -/
inductive Dst where
  | none
  | v (n : Nat)
  | k (n : Nat)
  deriving DecidableEq, Repr

/-- A lane that completes: the words of its destination (register n first), further v registers it writes, the next PC where it is not the sequential one, and what changes in its thread. -/
structure Done where
  ws : List Word := []
  also : List (Nat × Word) := []
  npc : Option Word := none
  set : Thread → Thread := id

/-- What an instruction does for a lane. -/
inductive LaneOut where
  | done (d : Done)
  | fault (f : Flt)
  | wait (why : Wait) (extra : List Word := [])
  | exit

/-- What the body of an instruction is given: the gang's key and the gang before the instruction, the lanes that execute it, the EXT payload, each lane's operand words, and what a resumed lane waited for, since when, what it had done, and the interval in which its instruction stands. -/
structure Env where
  gk : Nat
  g : Gang
  lanes : List Nat
  x : Nat
  vals : Nat → List Word
  why : Option Wait
  since : Nat
  extra : List Word
  iv : Option Nat

/-- Operand word i of lane l. -/
def Env.val (e : Env) (l i : Nat) : Word := (e.vals l).getD i 0

/-- Operand words i and i + 1 of lane l as a pair. -/
def Env.pair (e : Env) (l i : Nat) : DWord := pairOf (e.val l i) (e.val l (i + 1))

/-- The effect of an instruction: the state and what becomes of each lane. -/
abbrev Body := State → Env → State × List (Nat × LaneOut)

/-- The form of an instruction with its bound hints: classes (R48), operand positions, destination and the number of v registers it writes at most, NW, a field that must be zero and is not, NW where R47 forbids it by the class, the EXT fields it consumes with the values it excludes, the level it needs and other PRIV checks, ILLEGAL_OPERAND subcodes of its own, gang-uniform (R44), synchronising (R233), complete only when every lane is (R144), an access of memory that path LS makes (R227), a latch entry other than that of R45; and the v registers that it reads or writes beyond its positions and D. -/
structure Form where
  sCls : Bool := false
  lCls : Bool := false
  rbCls : Bool := false
  srcs : List Opnd := []
  dst : Dst := .none
  width : Nat := 1
  nw : Bool := false
  bad3 : Bool := false
  bad9 : Bool := false
  ext : Nat := 0
  extBad : Nat → Bool := fun _ => false
  level : Nat := 0
  priv : Gang → Option Nat := fun _ => none
  illegal : Option Nat := none
  uniform : Bool := false
  sync : Bool := false
  joint : Bool := false
  mem : Bool := false
  entry : Option Latch := none
  reads : List Nat := []
  also : List Nat := []

/-- An instruction with its bound hints: its form, whether its issue can go on, what it does while it cannot, and its effect. -/
structure Op where
  form : Form
  ready : State → Env → Bool := fun _ _ => true
  stall : State → Env → State := fun s _ => s
  body : Body

/-! ## Bodies -/

/-- Each lane by itself, in registers alone. -/
def perLane (f : Env → Nat → LaneOut) : Body := fun s e => (s, e.lanes.map fun l => (l, f e l))

/-- The lanes one after the other, in ascending order, on the state. -/
def inOrder (f : State → Env → Nat → State × LaneOut) : Body := fun s e =>
  e.lanes.foldl (fun (acc : State × List (Nat × LaneOut)) l =>
    let r := f acc.1 e l
    (r.1, acc.2 ++ [(l, r.2)])) (s, [])

/-- Once for the gang: every lane gets the same outcome. -/
def oncePer (f : State → Env → Nat → State × LaneOut) : Body := fun s e =>
  let r := f s e (e.lanes.headD 0)
  (r.1, e.lanes.map fun l => (l, r.2))

/-- The result of a floating-point operation in a lane: a trap, or the word with the flags set (R26). -/
def fpOut (t : Thread) (w : Word) (raised : Nat) : LaneOut :=
  if t.traps raised then .fault (fpFault raised) else .done { ws := [w], set := fun t => t.raise_ raised }

/-! ## Checks 1 and 2 of R57 -/

/-- ILLEGAL_INSN, lowest subcode first (R56). A reserved SCOPE, ORDER or SRC3 value of a bound EXT is met here, at the binding instruction (DESIGN CHOICE, log entry 114). -/
def Form.illegalInsn (f : Form) (h : Hints) : Option Nat :=
  minSubs [
    if f.bad3 then some 3 else none,
    (match f.dst with | .k n => if 96 ≤ n ∧ !f.nw then some 4 else none | _ => none),
    if (h.imm.isSome && !f.srcs.any Opnd.namesImm) || (h.ext.isSome && f.ext == 0) then some 5 else none,
    if h.ext.isSome && f.ext != 0 && ((h.x &&& f.ext) != h.x || extScope h.x == 7 || decide (4 < extOrder h.x)
        || isReserved h.src3 || f.extBad h.x) then some 7 else none,
    if f.bad9 then some 9 else none]

/-- The first of checks 1 and 2 that fails (R57). -/
def Form.check (f : Form) (g : Gang) (h : Hints) : Option Flt :=
  match f.illegalInsn h with
  | some n => some ⟨cIllegalInsn, n, 0⟩
  | none =>
    if g.level < f.level then some ⟨cPriv, 1, 0⟩
    else match f.priv g with
      | some n => some ⟨cPriv, n, 0⟩
      | none => none

/-! ## Check 3 and the operands -/

/-- The v registers that an instruction reads. -/
def Form.vRegs (f : Form) : List Nat := f.srcs.flatMap Opnd.vRegs ++ f.reads
/-- The k registers that an instruction reads. -/
def Form.kRegs (f : Form) : List Nat := f.srcs.flatMap Opnd.kRegs

/-- The gang before the operands are read: hints bound, latches INVALID where an L-pending register is read. -/
def Form.prepare (f : Form) (g : Gang) (lanes : List Nat) : Gang :=
  g.mapLanes lanes fun t => { t.beforeRead f.vRegs f.kRegs with hints := Hints.none_ }

/-- The ILLEGAL_OPERAND subcode of a lane (R43). -/
def Form.laneSub (f : Form) (imm : Option Nat) (g : Gang) (lanes : List Nat) (l : Nat) : Option Nat :=
  minSub (minSub f.illegal (minSubs (f.srcs.map fun p => p.staticSub imm))) (minSubs (f.srcs.map fun p => g.latchSub lanes l p))

/-- The lanes that take ILLEGAL_OPERAND, with the subcode: every lane where the instruction is gang-uniform (R44). -/
def Form.operandFaults (f : Form) (imm : Option Nat) (g : Gang) (lanes : List Nat) : List (Nat × Nat) :=
  let bad := lanes.filterMap fun l => (f.laneSub imm g lanes l).map fun n => (l, n)
  if f.uniform then
    match minSubs (bad.map fun p => some p.2) with
    | none => []
    | some n => lanes.map fun l => (l, n)
  else bad

/-- What the lanes of a gang read from. -/
def State.viewOf (s : State) (g : Gang) (imm : Option Nat) : View :=
  let c := if g.hslot.isSome then none else s.crewOf g
  ⟨g, word ((c.map (·.index)).getD 0), word ((c.map (·.serial)).getD 0), imm⟩

/-- The operand words of a lane. -/
def Form.values (f : Form) (w : View) (l : Nat) : List Word := f.srcs.flatMap fun p => w.vals l p

/-! ## Completion -/

/-- The latch entry of a completed instruction (R45). -/
def Form.entryOf (f : Form) (d : Done) : Latch :=
  match f.entry with
  | some e => e
  | none =>
    if f.lCls then .invalid
    else match d.ws with
      | [] => .empty
      | w :: rest => if 3 ≤ rest.length then .invalid else .val w

/-- The registers of D that a lane writes. -/
def Form.writes (f : Form) (d : Done) : List (Nat × Word) :=
  (match f.dst with
    | .v n => if f.nw then [] else (List.range d.ws.length).map fun i => (n + i, d.ws.getD i 0)
    | _ => []) ++ d.also

/-- The k registers that are written once for the gang. -/
def Form.kWrites (f : Form) (d : Done) : List (Nat × Word) :=
  match f.dst with
  | .k n => if f.nw then [] else (List.range d.ws.length).map fun i => (n + i, d.ws.getD i 0)
  | _ => []

/-- RCNT counts, saturating (R13). -/
def countUp (x : Word) : Word := if x = 0xFFFFFFFF#32 then x else x + 1

/-- The thread of a lane that completes, its registers apart: L-pending bits, latches, RCNT, and where it goes on. -/
def Form.threadAfter (f : Form) (t : Thread) (d : Done) : Thread :=
  let t := d.set t
  let vs := (f.writes d).map (·.1)
  let kb := regBits 96 ((f.kWrites d).map (·.1))
  let pc := d.npc.getD (t.pc + 4)
  let t := { (if f.lCls then t.setPending vs else t.clearPending vs) with
    run := .run
    wait := none
    lpk := t.lpk &&& ~~~kb
    lat := if f.sCls then latInvalid else shiftLat t.lat (f.entryOf d)
    rcnt := countUp t.rcnt
    pc := pc }
  if f.rbCls then { t with rep := pc, rcnt := 0 } else t

/-- Sequential execution passes offset 0x7FFC (R55). -/
def passesEnd (t : Thread) (d : Done) : Bool := d.npc.isNone && t.pc.toNat % 0x8000 == 0x7FFC

/-- The thread of a lane whose instruction took effect at offset 0x7FFC: its PC stays, and no region begins. -/
def Form.threadAtEnd (f : Form) (t : Thread) (d : Done) : Thread :=
  { ({ f with rbCls := false }).threadAfter t d with pc := t.pc }

/-- The registers of a lane written. -/
def Gang.writeAll (g : Gang) (l : Nat) (ws : List (Nat × Word)) : Gang := ws.foldl (fun g p => g.writeV l p.1 p.2) g

/-- A lane completes; CODE_SEG 0x02 where it passes the end of its segment. -/
def Form.complete (f : Form) (g : Gang) (l : Nat) (d : Done) : Gang × Option Flt :=
  let g := g.writeAll l (f.writes d)
  let t := g.th l
  if passesEnd t d then (g.setTh l (f.threadAtEnd t d), some ⟨cCodeSeg, 2, dword (t.pc + 4).toNat⟩)
  else (g.setTh l (f.threadAfter t d), none)

/-- A lane waits (R16). -/
def Gang.block (g : Gang) (l : Nat) (p : Pend) : Gang :=
  g.setTh l { (g.th l).dropLatches with run := .blocked, wait := some p }

/-- What a waiting lane keeps; `iv` where it has waited before. -/
structure Held where
  insn : Instr
  hints : Hints
  vals : Nat → List Word
  clock : Nat
  iv : Option Nat

/-- The number of a gang's interval that no synchronising operation has ended. -/
def Gang.openNum (g : Gang) : Nat := ((g.ivs.find? fun i => !i.ended).map (·.num)).getD 0

/-- One lane's outcome on the gang. -/
def Form.settleLane (f : Form) (h : Held) (g : Gang) (l : Nat) : LaneOut → Gang × Option Flt
  | .done d => f.complete g l d
  | .fault x => (g, some x)
  | .wait why extra => (g.block l ⟨h.insn, h.hints, h.vals l, extra, why, h.clock, h.iv.getD g.openNum⟩, none)
  | .exit => (g.setTh l (g.th l).toExited, none)

/-- The lanes' outcomes on the gang, with the faults to take. -/
def Form.settleLanes (f : Form) (h : Held) (g : Gang) (outs : List (Nat × LaneOut)) : Gang × List (Nat × Flt) :=
  outs.foldl (fun (acc : Gang × List (Nat × Flt)) o =>
    let r := f.settleLane h acc.1 o.1 o.2
    (r.1, match r.2 with | some x => acc.2 ++ [(o.1, x)] | none => acc.2)) (g, [])

/-- The first lane that completes. -/
def firstDone : List (Nat × LaneOut) → Option Done
  | [] => none
  | (_, .done d) :: _ => some d
  | _ :: rest => firstDone rest

/-- The lane has completed its instruction. -/
def LaneOut.completes : LaneOut → Bool
  | .done _ => true
  | .exit => true
  | _ => false

/-- An outcome after which the gang goes on as before. -/
def LaneOut.isDone : LaneOut → Bool
  | .done _ => true
  | _ => false

/-- The lane goes on waiting. -/
def LaneOut.waits : LaneOut → Bool
  | .wait _ _ => true
  | _ => false

/-- Lanes that have performed their accesses while others of their instruction wait stay BLOCKED, with their results written (R144, R152). -/
def Gang.park (g : Gang) (h : Held) (outs : List (Nat × LaneOut)) : Gang :=
  g.mapLanes ((outs.filter fun p => p.2.isDone && (g.th p.1).run == .run).map (·.1))
    fun t => { t.dropLatches with run := .blocked, wait := some ⟨h.insn, h.hints, [], [], .access, h.clock, h.iv.getD g.openNum⟩ }

/-- A gang has a thread in RUN. -/
def State.stillRuns (s : State) (gk : Nat) : Bool := match s.gang? gk with | some g => g.ready | none => false

/-- The instruction ends: k registers, lanes, the interval of a synchronising operation, faults, meetings, and where its lanes waited, faulted, exited or switched, the barriers and the issue slot, which a gang keeps whose other threads go on after an EXIT (R45, R46, R233, R304). -/
def Op.finish (o : Op) (s : State) (gk : Nat) (h : Held) (outs : List (Nat × LaneOut)) (switch : Bool) : State :=
  let s := if o.form.mem && outs.any (fun p => p.2.waits) then s.openIv gk else s
  match s.gang? gk with
  | none => s
  | some g =>
    let g := match firstDone outs with
      | some d => (o.form.kWrites d).foldl (fun g p => g.writeK p.1 p.2) g
      | none => g
    let r := o.form.settleLanes h g outs
    let g := if o.form.sync && outs.any (fun p => p.2.completes) then r.1.endInterval else r.1
    let g := if o.form.rbCls && outs.any (fun p => p.2.completes) then { g with guard := false } else g
    let g := if o.form.joint && outs.any (fun p => p.2.waits) then g.park h outs else g
    if outs.all (fun p => p.2.isDone) && r.2.isEmpty && !switch && !o.form.sCls then s.setGang gk g.settle
    else
      let s := (((s.setGang gk g).freezeAll gk r.2).mapGang gk Gang.settle).unattend gk
      let s := s.settleBarriers g.crew
      if outs.all (fun p => p.2.completes) && r.2.isEmpty && !switch && !o.form.sCls && s.stillRuns gk then s else s.releaseSlot gk

/-! ## Issue of one instruction -/

/-- The outcomes of the lanes in ascending order: those with an operand fault, and those of the body. -/
def mergeOuts (lanes : List Nat) (bad : List (Nat × Nat)) (outs : List (Nat × LaneOut)) : List (Nat × LaneOut) :=
  lanes.filterMap fun l =>
    match bad.find? fun p => p.1 == l with
    | some p => some (l, .fault ⟨cIllegalOperand, p.2, 0⟩)
    | none => outs.find? fun p => p.1 == l

/-- Every active lane takes one fault before the instruction has any effect; its hints are discarded (R50, R57). -/
def State.rejectAll (s : State) (gk : Nat) (g : Gang) (lanes : List Nat) (f : Flt) : State :=
  let g := g.mapLanes lanes fun t => { t with hints := Hints.none_ }
  let s := ((s.setGang gk g).freezeAll gk (lanes.map fun l => (l, f))).mapGang gk Gang.settle
  (s.settleBarriers g.crew).releaseSlot gk

/-- What an instruction executes with: the gang with hints bound and L-pending registers read, the lanes without an operand fault, their words. -/
def Op.env (o : Op) (s : State) (gk : Nat) (g : Gang) (lanes : List Nat) (h : Hints) : Env :=
  let g1 := o.form.prepare g lanes
  let bad := o.form.operandFaults h.imm g1 lanes
  ⟨gk, g1, lanes.filter fun l => !(bad.any fun p => p.1 == l), h.x, o.form.values (s.viewOf g1 h.imm), none, s.clock, [], none⟩

/-- The requests of a core that are outstanding (R1): accesses not acknowledged, and lanes that wait for theirs. -/
def State.outstanding (s : State) (core : Nat) : Nat :=
  ((s.gangs.filter fun p => p.2.core == core).map fun p => p.2.pending.length + (p.2.pends.filter Pend.accesses).length).foldl (· + ·) 0

/-- The accesses of some lanes can be made: the gang owes nothing from a forced end (R242), and its core has room for their requests (R1). -/
def State.memReady (s : State) (g : Gang) (lanes : Nat) : Bool := g.settled && decide (s.outstanding g.core + lanes ≤ Config.outstanding)

/-- The issue goes on, or waits (R157, R158, R197, R242). -/
def Op.canIssue (o : Op) (s : State) (gk : Nat) (g : Gang) (lanes : List Nat) (h : Hints) : Bool :=
  (o.form.check g h).isSome || (o.env s gk g lanes h).lanes.isEmpty
    || ((!o.form.mem || s.memReady g (o.env s gk g lanes h).lanes.length) && o.ready s (o.env s gk g lanes h))

/-- An instruction of a path issued for its active lanes (R57). -/
def Op.issue (o : Op) (i : Instr) (s : State) (gk : Nat) (g : Gang) (lanes : List Nat) (h : Hints) : State :=
  match o.form.check g h with
  | some f => s.rejectAll gk g lanes f
  | none =>
    if !o.canIssue s gk g lanes h then o.stall s (o.env s gk g lanes h)
    else
      let e := o.env s gk g lanes h
      let s1 := s.setGang gk e.g
      let r := if e.lanes.isEmpty then (s1, []) else o.body s1 e
      let hit := lanes.any fun l => (g.th l).hitsPending o.form.vRegs o.form.kRegs
      o.finish r.1 gk ⟨i, h, e.vals, s.clock, none⟩ (mergeOuts lanes (o.form.operandFaults h.imm e.g lanes) r.2) hit

/-- The issuing path is done with. -/
def State.clearCur (s : State) : State := { s with cur := none }

/-- The meaning of a word that is no instruction: every active lane takes ILLEGAL_INSN (R56). -/
def runIllegal (sub : Nat) (s : State) : Host.Outcome State Fault Refusal :=
  match s.cur with
  | none => .fault .noIssuingPath
  | some c =>
    match s.gang? c.gang with
    | none => .fault .noIssuingPath
    | some g => .next (s.rejectAll c.gang g (lanesOf c.mask) ⟨cIllegalInsn, sub, 0⟩).clearCur

/-- The meaning of an instruction word: its issue for the path in `cur`. -/
def run (i : Instr) (op : Hints → Op) (s : State) : Host.Outcome State Fault Refusal :=
  match s.cur with
  | none => .fault .noIssuingPath
  | some c =>
    match s.gang? c.gang with
    | none => .fault .noIssuingPath
    | some g =>
      let lanes := lanesOf c.mask
      let h := (g.th (lanes.headD 0)).hints
      .next ((op h).issue i s c.gang g lanes h).clearCur

end Sys2Proof.Machine
end

