-- ==== Sys2Proof/Machine/Issue.lean ====
section
/-! DEFINITION. Which path a gang issues (R16 to R20, R54), where its word is fetched (R132), what holds its issue back (R197, R253, R409), and what the issue leaves behind (ageing counters, current path, forced path, hint split). -/

namespace Sys2Proof.Machine

/-! ## Meetings at issue (R16, R18) -/

/-- Threads in RUN at their meeting address that the meeting rule holds become HELD; then held threads that nothing holds are released. -/
def Gang.meet (g : Gang) : Gang :=
  let stop := (List.range 32).filter fun l => (g.th l).run == .run && (g.th l).pc == (g.th l).mt && g.keepsHeld l
  (g.mapLanes stop fun t => { t with run := .held }).settle

/-- A thread about to issue at its meeting address drops it (R16). -/
def Thread.passMeeting (t : Thread) : Thread := if t.pc = t.mt then { t with mt := mtNone } else t

/-! ## Paths (R17, R19, R20, R54) -/

/-- Threads in RUN or HELD. -/
def Gang.inPath (g : Gang) (l : Nat) : Bool := (g.th l).run == .run || (g.th l).run == .held

/-- The PCs of the paths of a gang, without repeats. -/
def Gang.pathPcs (g : Gang) : List Nat :=
  (((List.range 32).filter g.inPath).map fun l => (g.th l).pc.toNat).foldl (fun acc p => if acc.contains p then acc else acc ++ [p]) []

/-- The ageing counter of the path at a PC (R19): a path that others have joined has the largest of their counters. -/
def Gang.age (g : Gang) (pc : Nat) : Nat :=
  (((List.range 32).filter fun l => g.inPath l && (g.th l).pc.toNat == pc).map fun l => g.ages.at_ 0 l).foldl max 0

/-- The path that reaches the threshold: the larger counter, then the lower PC (R20). -/
def Gang.agedPath (g : Gang) (ageMax : Nat) : Option Nat :=
  (g.pathPcs.filter fun p => decide (ageMax ≤ g.age p)).foldl (fun best p =>
    match best with
    | none => some p
    | some b => if g.age b < g.age p || (g.age b == g.age p && decide (p < b)) then some p else some b) none

/-- The lanes in RUN of a forced path that still has instructions to issue. -/
def Gang.forcedRun (g : Gang) : List Nat :=
  match g.forced with
  | some (m, left) => if left = 0 then [] else (g.lanesIn .run).filter fun l => m.testBit l
  | none => []

/-- Lanes grouped by their pending hints: the sets with hints first, by lowest lane, the lanes without hints last (R54). -/
def hintSets (g : Gang) : List Nat → List (List Nat)
  | [] => []
  | l :: rest =>
    let h := (g.th l).hints
    (l :: rest.filter fun m => (g.th m).hints == h) ::
      (hintSets g rest).filterMap fun set => match set with
        | [] => none
        | m :: _ => if (g.th m).hints == h then none else some set

/-- The sets with hints before the set without. -/
def orderSets (g : Gang) (sets : List (List Nat)) : List (List Nat) :=
  let bare := fun (x : List Nat) => (g.th (x.headD 0)).hints.isNone
  sets.filter (fun x => !bare x) ++ sets.filter bare

/-- The lanes that a gang issues next, with the masks of the hint split that stay to issue after them; the first mask holds the lanes that have issued. -/
structure Choice where
  lanes : List Nat
  split : List Nat
  deriving DecidableEq, Repr

/-- The lowest of some numbers. -/
def lowest : List Nat → Nat
  | [] => 0
  | x :: rest => rest.foldl min x

/-- The PC at which a gang issues next: its current path where some of the lanes that may go first still stand there, else the lowest of their PCs. -/
def Gang.nextPc (g : Gang) (lanes : List Nat) : Nat :=
  let pcs := lanes.map fun l => (g.th l).pc.toNat
  match g.current with
  | some p => if pcs.contains p then p else lowest pcs
  | none => lowest pcs

/-- Path selection (R20, R54): the rest of a hint split; the forced path while it has instructions left; the current path; the path with the lowest PC. Every path issues hint set by hint set. -/
def Gang.choose (g : Gang) : Option Choice :=
  let run := g.lanesIn .run
  match g.split with
  | done :: m :: rest => some ⟨run.filter fun l => m.testBit l, (done ||| m) :: rest⟩
  | _ =>
    match run with
    | [] => none
    | _ =>
      let pc := g.nextPc (if g.forcedRun.isEmpty then run else g.forcedRun)
      match orderSets g (hintSets g (run.filter fun l => (g.th l).pc.toNat == pc)) with
      | [] => none
      | [set] => some ⟨set, []⟩
      | set :: rest => some ⟨set, maskOf set :: rest.map maskOf⟩

/-- The PC of a choice. -/
def Choice.pc (c : Choice) (g : Gang) : Nat := (g.th (c.lanes.headD 0)).pc.toNat

/-! ## After an issue (R19, R20) -/

/-- The counter of a lane's path where the path at `pc` issues: threads with other pending hints stand there in paths of their own (R54). -/
def Gang.ageBeside (g : Gang) (pc l : Nat) : Nat :=
  if (g.th l).pc.toNat ≠ pc then g.age (g.th l).pc.toNat
  else (((List.range 32).filter fun m => g.inPath m && (g.th m).pc.toNat == pc && (g.th m).hints == (g.th l).hints).map fun m => g.ages.at_ 0 m).foldl max 0

/-- The ageing counters after some lanes have issued from `pc`, from the gang as it stood before: the issued path's is 0, with the threads held there; the other paths' counters grow, those of other hint sets at the PC among them (R19, R54); those of waiting threads stay. They go with the threads wherever they move. -/
def agedAfter (before : Gang) (pc : Nat) (lanes : List Nat) : Tbl Nat :=
  (List.range 32).foldl (fun (t : Tbl Nat) l =>
    if !before.inPath l then t
    else
      let issued := lanes.contains l || ((before.th l).run == .held && (before.th l).pc.toNat == pc)
      t.set 0 l (if issued then 0 else satSucc (before.ageBeside pc l) 65535)) before.ages

/-- The current path after an issue: the lanes that issued, where they still stand at one PC. -/
def Gang.currentOf (g : Gang) (lanes : List Nat) : Option Nat :=
  match (lanes.filter fun l => (g.th l).run == .run).map fun l => (g.th l).pc.toNat with
  | [] => none
  | p :: rest => if rest.all (· == p) then some p else none

/-- What an issue of a choice from `pc` leaves in its gang, which stood as `before`. -/
def Gang.afterIssue (g before : Gang) (pc : Nat) (c : Choice) : Gang :=
  let forced := match g.forced with
    | some (m, left) => if left ≤ 1 || !((g.lanesIn .run).any fun l => m.testBit l) then none else some (m, left - 1)
    | none => none
  let going := 2 ≤ c.split.length && (c.split.drop 1).any fun m => (g.lanesIn .run).any fun l => m.testBit l
  let issued := match c.split with
    | [] => c.lanes
    | m :: _ => lanesOf m
  { g with
    ages := agedAfter before pc c.lanes
    forced := forced
    split := if going then c.split else []
    current := if going then some pc else g.currentOf issued }

/-! ## Fetch (R132) -/

/-- The state of a segment of a context on a core. -/
def State.seg? (s : State) (core ctx seg : Nat) : Option Seg :=
  (s.core core).segs.find? fun x => x.ctx == ctx && x.seg == seg

/-- The segment of a code address. -/
def segOf (pc : Nat) : Nat := pc / 0x8000

/-- The word at a code address of a resident segment. -/
def Seg.word (x : Seg) (pc : Nat) : Nat := readNum x.image (pc % 0x8000) 4

/-- The word at a PC of a gang, where its segment is RESIDENT on the gang's core. -/
def State.fetch (s : State) (g : Gang) (pc : Nat) : Option Nat :=
  match s.seg? g.core g.ctx (segOf pc) with
  | some x => if x.st = .resident then some (x.word pc) else none
  | none => none

/-! ## What holds an issue back -/

/-- The register lines of v and k registers (R252). -/
def linesOf (vs ks : List Nat) : List Nat := vs ++ ks.map fun n => 128 + n / 32

/-- The v registers that an instruction writes. -/
def Form.target (f : Form) : List Nat :=
  (match f.dst with
    | .v n => if f.nw then [] else ((List.range f.width).map fun i => n + i).filter fun i => i < 128
    | _ => []) ++ f.also

/-- The k registers that an instruction writes. -/
def Form.kTarget (f : Form) : List Nat :=
  match f.dst with
  | .k n => if f.nw then [] else [n]
  | _ => []

/-- A line is in the register cache of the gang's sub-core (R253). -/
def Gang.holdsLine (g : Gang) (n : Nat) : Bool := !g.absent.contains n && !g.backed.contains n

/-- A register operand misses in the register cache: the issue stalls until the line has arrived (R253). -/
def Gang.lineHeld (g : Gang) (f : Form) : Bool :=
  (linesOf (f.vRegs ++ f.target) (f.kRegs ++ f.kTarget)).any fun n => !g.holdsLine n

/-- The operations of the plane array of a gang's sub-core (R197). -/
def State.arrayOf (s : State) (g : Gang) : Array_ := (s.core g.core).arrays.at_ ⟨none, none⟩ g.subCore

/-- The MMA operations of a gang whose result is not written. -/
def State.mmaPending (s : State) (gk : Nat) (g : Gang) : List Nat :=
  let a := s.arrayOf g
  ([a.exec, a.queued].filterMap id).filterMap fun o => if o.gkey == gk && !o.stored then some o.d else none

/-- The scoreboard holds back an instruction that touches a register of a pending MMA, but not a further MMA with the same D (R197). -/
def State.boardHeld (s : State) (gk : Nat) (g : Gang) (f : Form) (mmaD : Option Nat) : Bool :=
  (s.mmaPending gk g).any fun d =>
    mmaD != some d && (f.vRegs ++ f.target).any fun r => decide (d ≤ r) && decide (r < d + 32)

/-- Lanes with a register lost to an uncorrectable error, with the lowest such register (R255). -/
def Gang.damagedLanes (g : Gang) (lanes : List Nat) : List (Nat × Flt) :=
  lanes.filterMap fun l =>
    match (g.damaged.filter fun p => p.1 == l).map (·.2) with
    | [] => none
    | n :: rest => some (l, ⟨cSoft, 1, dword (lowest (n :: rest))⟩)

/-- The damage of some lanes has been reported. -/
def Gang.undamage (lanes : List Nat) (g : Gang) : Gang := { g with damaged := g.damaged.filter fun p => !lanes.contains p.1 }

end Sys2Proof.Machine
end

