-- ==== Sys2Proof/Machine/Code.lean ====
section
/-! DEFINITION. The code store (R132 to R135, R409): slots and what holds them, requests, copies of segments. -/

namespace Sys2Proof.Machine

/-- A segment takes a slot while it is FETCHING, RESIDENT or FAULTED. -/
def Seg.inSlot (x : Seg) : Bool := x.st != .refused

/-- The entry PC of a crew's stage. -/
def State.entryOf (s : State) (c : Crew) : Option Nat :=
  match s.launch? c.ctx c.launch with
  | some l => (l.stages[c.stage]?).map fun st => st.entry.toNat
  | none => none

/-- The slot of a segment is held (R134). -/
def State.segHeld (s : State) (core : Nat) (x : Seg) : Bool :=
  (s.crews.any fun p => p.2.ctx == x.ctx && p.2.fetched.contains (core, x.seg))
  || (s.crews.any fun p => p.2.ctx == x.ctx && p.2.cores.contains core && (s.entryOf p.2).map segOf == some x.seg)
  || s.gangs.any fun p => p.2.core == core && p.2.ctx == x.ctx && p.2.resid == .running
      && p.2.threads.any fun t => segOf t.pc.toNat == x.seg

/-- The least recently fetched segment of a core that is not held. -/
def State.segVictim (s : State) (core : Nat) : Option Seg :=
  (((s.core core).segs.filter fun x => x.inSlot && !s.segHeld core x).foldl (fun (best : Option Seg) x =>
    match best with
    | none => some x
    | some b => if x.order < b.order then some x else some b) none)

/-- The segments of a core with one replaced, or added. -/
def Core.putSeg (c : Core) (x : Seg) : Core :=
  { c with segs := c.segs.filter (fun y => !(y.ctx == x.ctx && y.seg == x.seg)) ++ [x] }

/-- The segments of a core without one. -/
def Core.dropSeg (c : Core) (ctx seg : Nat) : Core :=
  { c with segs := c.segs.filter fun y => !(y.ctx == ctx && y.seg == seg) }

/-- A segment whose fetch starts. -/
def Seg.start (ctx seg level order : Nat) : Seg := ⟨ctx, seg, .fetching, level, [], order, false, 0, 0, 0⟩

/-- A fetch is asked for (R133): a slot is taken, or the segment is REFUSED. -/
def State.takeSlot (s : State) (core ctx seg level : Nat) : State :=
  let order := (s.core core).fetches
  let used := ((s.core core).segs.filter fun x => x.inSlot && !(x.ctx == ctx && x.seg == seg)).length
  let start := fun (c : Core) => { c.putSeg (Seg.start ctx seg level order) with fetches := order + 1 }
  if used < Config.codeSlots then s.mapCore core start
  else
    let others := s.mapCore core fun c => c.dropSeg ctx seg
    match others.segVictim core with
    | some v => others.mapCore core fun c => start (c.dropSeg v.ctx v.seg)
    | none => others.mapCore core fun c => c.putSeg { Seg.start ctx seg level order with st := .refused }

/-- A segment is copied again: as the most recent fetch of the core, at the level of the gang that asks for it (R133, R134). -/
def State.refetch (s : State) (core : Nat) (x : Seg) (level : Nat) : State :=
  s.mapCore core fun c => { c.putSeg { x with shadow := x.st == .resident, level := level, order := c.fetches } with fetches := c.fetches + 1 }

/-- A request as CFETCH makes it (R133). -/
def State.requestSeg (s : State) (core ctx seg level : Nat) (refresh : Bool) : State :=
  match s.seg? core ctx seg with
  | none => s.takeSlot core ctx seg level
  | some x =>
    match x.st with
    | .refused => s.takeSlot core ctx seg level
    | .faulted => s.takeSlot core ctx seg level
    | _ => if refresh then s.refetch core x level else s

/-- A context takes a slot of a core, with its bases as they stand; one that holds a slot keeps it. -/
def State.takeBases (s : State) (core ctx : Nat) : State :=
  let b := s.basesOn core ctx
  s.mapCore core fun c => { c with bases := c.bases.put ctx b }

/-- The code-image address of a segment (R132). -/
def State.segVa (s : State) (core ctx seg : Nat) : DWord := (s.basesOn core ctx).code + dword (seg * Config.segBytes)

/-- What a copy of a segment comes to: the physical address of its bytes, a fault, or a wait on a page in transit. -/
inductive CopyOut where
  | bytes (pa : Nat)
  | flt (f : Flt)
  | wait
  deriving DecidableEq, Repr

/-- The granules of a range that hold poison. -/
def State.poisoned (s : State) (pa n : Nat) : Option Nat := s.poison.find? fun g => decide (pa / 16 ≤ g) && decide (g * 16 < pa + n)

/-- The translation and checks of a segment copy (R133): execute permission at the level of the request. -/
def State.copySeg (s : State) (core : Nat) (x : Seg) : State × CopyOut :=
  let va := s.segVa core x.ctx x.seg
  if 2 ^ 55 ≤ va.toNat then (s, .flt ⟨cXlatePerm, 0x10, va⟩)
  else
    match s.translatePage core x.ctx (va.toNat / 2 ^ 19) .fetch with
    | (s, .wait) => (s, .wait)
    | (s, .flt c b) => (s, .flt ⟨c, b, va⟩)
    | (s, .ok leaf) =>
      let pa := leafPa leaf va.toNat
      match permCheck leaf .fetch x.level with
      | some b => (s, .flt ⟨cXlatePerm, b, va⟩)
      | none =>
        match s.mapCheck leaf pa with
        | some b => (s, .flt ⟨cXlatePerm, b, va⟩)
        | none =>
          match s.reachCheck core pa Config.segBytes .fetch with
          | some b => (s.countRefusal pa b, .flt ⟨cXlatePerm, b, va⟩)
          | none =>
            match s.poisoned (s.home pa) Config.segBytes with
            | some g => (s, .flt ⟨cPoison, 3, va + dword (g * 16 - s.home pa)⟩)
            | none => (s, .bytes (s.home pa))

/-- A copy lands whole (R135): the segment is RESIDENT with the bytes of the code image as they stand when it lands. Log entry 98. -/
def State.landSeg (s : State) (core ctx seg : Nat) : State :=
  match s.seg? core ctx seg with
  | none => s
  | some x =>
    if x.st = .fetching ∨ x.shadow then
      match s.copySeg core x with
      | (t, .bytes pa) =>
        t.mapCore core fun c => c.putSeg { x with st := .resident, shadow := false, image := sliceOf t.mem pa Config.segBytes }
      | _ => s
    else s

/-- A copy meets a fault (R133): the segment is FAULTED with the fault's class and subcode. -/
def State.failSeg (s : State) (core ctx seg : Nat) : State :=
  match s.seg? core ctx seg with
  | none => s
  | some x =>
    if x.st = .fetching ∨ x.shadow then
      match s.copySeg core x with
      | (t, .flt f) =>
        t.mapCore core fun c => c.putSeg { x with st := .faulted, shadow := false, image := [], cls := f.cls, sub := f.sub, va := f.va }
      | _ => s
    else s

/-- A path whose segment is not RESIDENT (R409): the device asks for it, and the path's threads wait. -/
def State.requestPath (s : State) (gk : Nat) : State :=
  match s.gang? gk with
  | none => s
  | some g =>
    match g.choose with
    | none => s
    | some c =>
      let pc := c.pc g
      if (s.fetch g pc).isSome then s
      else
        let seg := segOf pc
        let s := s.requestSeg g.core g.ctx seg g.level false
        let block := fun (t : Thread) =>
          { t.dropLatches with run := .blocked, wait := some ⟨.nop, Hints.none_, [], [], .ownSegment seg, s.clock, 0⟩ }
        (s.mapGang gk fun g => (g.mapLanes c.lanes block).settle).releaseSlot gk

/-- A thread waits for a segment of its own PC. -/
def Thread.waitsOwn (t : Thread) (seg : Nat) : Bool :=
  t.run == .blocked && match t.wait with | some p => p.why == .ownSegment seg | none => false

/-- A request of R409 that was REFUSED is repeated. -/
def State.retrySeg (s : State) (core ctx seg : Nat) : State :=
  match s.seg? core ctx seg with
  | none => s
  | some x =>
    if x.st = .refused then
      match List.find? (fun (p : Nat × Gang) => p.2.core == core && p.2.ctx == ctx && p.2.threads.any fun t => t.waitsOwn seg) s.gangs with
      | some p => s.requestSeg core ctx seg p.2.level false
      | none => s
    else s

/-- The value of CQRY (R136). -/
def State.segStatus (s : State) (core ctx seg : Nat) : Word :=
  match s.seg? core ctx seg with
  | none => 0
  | some x =>
    match x.st with
    | .fetching => 1
    | .resident => 2
    | .refused => 3
    | .faulted => word (4 + x.cls % 256 * 256 + x.sub % 256 * 65536)

end Sys2Proof.Machine
end

