-- ==== Sys2Proof/Machine/ControlSpace.lean ====
section
/-! DEFINITION. What control space reads back (R378): the registers whose offsets the manual gives, and those that it gives a region only, at the offsets that log entry 125 lays out. -/

namespace Sys2Proof.Machine

/-- Byte i of a number, the low byte first. -/
def byteAt (x i : Nat) : Byte := BitVec.ofNat 8 (x / 256 ^ i)

/-- A register of a page of control space: its offset, its bytes, its contents. -/
structure CtlField where
  at_ : Nat
  len : Nat
  val : Nat
  deriving DecidableEq, Repr

/-- The byte of the register that covers an offset. -/
def fieldByte (fs : List CtlField) (o : Nat) : Option Byte :=
  (fs.find? fun f => decide (f.at_ ≤ o) && decide (o < f.at_ + f.len)).map fun f => byteAt f.val (o - f.at_)

/-- A byte of a table of n entries of `size` bytes that begins at an offset. -/
def rowByte (base size n : Nat) (row : Nat → Nat) (o : Nat) : Option Byte :=
  if base ≤ o ∧ o < base + n * size then some (byteAt (row ((o - base) / size)) ((o - base) % size)) else none

/-- The first of several parts of a page that covers the offset. -/
def firstByte (parts : List (Nat → Option Byte)) (o : Nat) : Option Byte := parts.findSome? fun p => p o

/-! ## Registers as numbers -/

/-- The ownership register (R390). -/
def Trust.ownership (t : Trust) : Nat := t.epoch % 2 ^ 32 * 2 ^ 32 + t.viol % 65536 * 65536 + t.last % 256 * 256 + t.owner % 4

/-- The world register of a die (R379). -/
def Die.worldWord (d : Die) : Nat := d.status % 256 * 2 ^ 24 + d.world % 16 * 2 ^ 16 + d.req % 16 * 2 ^ 8

/-- The boot status (R387): state in the low byte (0 reset, 1 running, 2 RECOVERY), then the image and the check that failed. -/
def Boot.word : Boot → Nat
  | .reset => 0
  | .running => 1
  | .recovery image check => 2 + image % 256 * 2 ^ 8 + check % 256 * 2 ^ 16

/-- The entropy status (R386): state in the low byte, then FAILCNT. -/
def Trust.entropyWord (t : Trust) : Nat :=
  t.failCnt % 256 * 2 ^ 8 + match t.entropy with
    | .healthy => 0
    | .failed => 1
    | .recovering => 2
    | .locked => 3

/-- A measurement register (R388). -/
def Trust.mr (t : Trust) (i : Nat) : BitVec 384 := t.mrs.at_ 0 i

/-- A byte of the measurement registers, each as SHA-384 gives it, its first byte first. -/
def Trust.mrByte (t : Trust) (o : Nat) : Option Byte :=
  if 0x400 ≤ o ∧ o < 0x700 then some (byteAt (t.mr ((o - 0x400) / 48)).toNat (47 - (o - 0x400) % 48)) else none

/-- The number of a port state (R343). -/
def PortState.code : PortState → Nat
  | .down => 0
  | .training => 1
  | .up => 2
  | .repair => 3
  | .degraded => 4
  | .lost => 5

/-- The status register of a port (R343). -/
def Port.statusWord (p : Port) : Nat :=
  let spare := fun (i : Nat) => ((p.pairs[i]?).map (·.2)).getD 0xF
  p.linkUp.toNat * 2 ^ 44 + p.module % 256 * 2 ^ 36 + p.heads % 32 * 2 ^ 31 + p.head % 16 * 2 ^ 27 + p.st.code * 2 ^ 24
    + spare 0 % 16 * 2 ^ 20 + spare 1 % 16 * 2 ^ 16

/-- A relay-table entry as a number (R408). -/
def RelayEntry.image (e : RelayEntry) : Nat :=
  e.limit % 2 ^ 64 * 2 ^ 192 + e.base % 2 ^ 64 * 2 ^ 128 + e.module % 256 * 2 ^ 16 + e.src % 256 * 2 ^ 8 + e.world % 16 * 2 ^ 4 + (if e.valid then 1 else 0)

/-- The word of a pod-map entry (R200). -/
def PodEntry.word (x : PodEntry) : Word :=
  Sys2Proof.word (x.relay % 256 * 2 ^ 24 + x.port % 16 * 2 ^ 20 + x.st % 4 * 2 ^ 18 + x.module % 256)

/-- The pod-map entry for a peer (R200). -/
def Pod.entry (p : Pod) (peer : Nat) : PodEntry := if p.own = some peer then PodEntry.none_ else p.entries.at_ PodEntry.none_ peer

/-- A receive slot (R374). -/
def RecvSlot.image (r : RecvSlot) : Nat :=
  r.cword.toNat * 2 ^ 192 + r.buf.toNat * 2 ^ 128 + r.blen % 2 ^ 32 * 2 ^ 96 + r.tag.toNat * 2 ^ 64 + r.mask.toNat * 2 ^ 32 + r.valid.toNat

/-- A format descriptor (R280). -/
def FDesc.image (d : FDesc) : Nat := d.mbase * 2 ^ 192 + d.size * 2 ^ 128 + d.dbase * 2 ^ 64

/-! ## The context table and the slices of the tenancies -/

/-- The registers of a context's entry (R28, R35, R271, R305, R323, R374). -/
def Context.fields (c : Context) : List CtlField :=
  [⟨0, 8, c.ptroot⟩, ⟨8, 8, c.fqBase.toNat⟩, ⟨0x10, 4, c.job⟩, ⟨0x14, 4, c.pid⟩, ⟨0x18, 4, c.prio⟩, ⟨0x1C, 4, c.ageMax⟩,
   ⟨0x20, 8, c.regNext.toNat⟩, ⟨0x28, 8, c.codeNext.toNat⟩, ⟨0x30, 4, c.noMatch⟩, ⟨0x34, 4, c.placeFaults⟩]

/-- A byte of a context's entry: the registers, the handler table (R317), the format descriptors (R280), the streams (R290), the send queues (R374), the receive slots (R374). -/
def Context.entryByte (c : Context) (o : Nat) : Option Byte :=
  firstByte [fieldByte c.fields,
    rowByte 0x80 8 16 fun i => (c.handlers.at_ 0 i).toNat,
    rowByte 0x200 32 16 fun i => ((c.fdesc.find? i).map FDesc.image).getD 0,
    rowByte 0x400 2 64 fun i => let x := c.streams.at_ ⟨0, 1, 0⟩ i; x.swt % 256 * 2 ^ 8 + x.sprio % 256,
    rowByte 0x800 32 64 fun i => (c.sendQs.at_ 0 i).toNat,
    rowByte 0x2000 32 256 fun i => ((c.recvs.find? i).map RecvSlot.image).getD 0] o

/-- The contexts of a tenancy, in rising order. -/
def State.ctxsOf (s : State) (ten : Nat) : List Nat := (s.ctxs.filter fun p => p.2.tenancy == ten).map (·.1)

/-- The entry of a context's handler table for a class: EN and the entry PC (R317). -/
def State.handlerEntry (s : State) (ctx cls : Nat) : Option Word :=
  let x := (s.ctx ctx).handlers.at_ 0 cls
  if x.toNat.testBit 32 then some (loOf x) else none

/-- The claim entry of a class, or the escalation entry 16, of a context's tenancy. -/
def State.claimOf (s : State) (ctx entry : Nat) : Claim := (s.ten (s.ctx ctx).tenancy).claims.at_ Claim.reset entry

/-- The claim entry that decides who receives a record: nested records and stop notices go to the escalation entry, and so does a record of a class owned by CTX without an enabled handler. -/
def State.claimEntry (s : State) (ctx : Nat) (r : Rec) : Nat :=
  if r.nested || r.cls == 0xFF || ((s.claimOf ctx r.cls).owner == 1 && (s.handlerEntry ctx r.cls).isNone) then 16 else r.cls

/-- HELD of a claim entry (R315): a record of the entry waits, and the entry has no owner. -/
def State.claimHeld (s : State) (ten entry : Nat) : Bool :=
  ((s.ten ten).claims.at_ Claim.reset entry).owner == 0 &&
    s.ctxs.any fun p => p.2.tenancy == ten && (p.2.queue ++ p.2.heldRecs).any fun r => s.claimEntry p.1 r == entry

/-- A claim entry as a number (R315). -/
def State.claimImage (s : State) (ten entry : Nat) : Nat :=
  let c := (s.ten ten).claims.at_ Claim.reset entry
  c.oq.toNat * 2 ^ 192 + c.oep.toNat * 2 ^ 128 + c.ovec % 64 * 16 + (if s.claimHeld ten entry then 8 else 0) + c.owner % 8

/-- A byte of the permission tables of a tenancy (R330): a table of 4 KiB for each of its contexts, in rising order. -/
def State.permByte (s : State) (ten o : Nat) : Option Byte :=
  if o < 0x1000 then none
  else ((s.ctxsOf ten)[o / 0x1000 - 1]?).bind fun c =>
    rowByte 0 16 256 (fun i => (((s.ctx c).perms.find? i).map fun x => x.vmask.toNat * 2 ^ 64 + x.lo.toNat).getD 0) (o % 0x1000)

/-- A byte of the slice of a tenancy: its claim table (R315), TWT (R306), CLAIM_BUSY (R316), the permission tables. -/
def State.sliceByte (s : State) (ten o : Nat) : Option Byte :=
  if (s.tens.find? ten).isNone then none
  else firstByte [rowByte 0 32 17 (s.claimImage ten),
    fieldByte [⟨0x400, 4, (s.ten ten).twt⟩, ⟨0x404, 1, s.trust.claimBusy.toNat⟩], s.permByte ten] o

/-! ## The map -/

/-- A byte of control space that a register gives. Log entries 111 and 125. -/
def State.ctlReg (s : State) (off : Nat) : Option Byte :=
  let sub := fun (base len : Nat) (f : Nat → Option Byte) => if base ≤ off ∧ off < base + len then f (off - base) else none
  [sub 0 0x1000 fun o => firstByte [fieldByte [⟨8, 4, s.trust.boot.word⟩], s.trust.mrByte] o,
   sub 0x1000 8 fun o => some (byteAt s.trust.ownership o),
   sub 0x2000 0x20 (rowByte 0 8 4 fun d => (s.die d).worldWord),
   sub 0x3000 0x1000 (fieldByte [⟨0, 2, s.trust.entropyWord⟩]),
   sub 0x4000 0xA0 (rowByte 0 1 160 fun k => (s.core k).qblk),
   sub 0x10000 0x10000 (fieldByte [⟨0, 4, s.power.limit⟩]),
   sub 0x100000 0xC00 fun o => if o % 0x100 < 8 then some (byteAt (s.port (o / 0x100)).statusWord (o % 0x100)) else none,
   sub 0x1000000 0x4000000 fun o => ((s.ctxs.find? (o / 0x4000)).bind fun c => c.entryByte (o % 0x4000)),
   sub 0x8000000 0x1000000 fun o => s.sliceByte (o / 0x400000) (o % 0x400000),
   sub 0x9000000 0x80000 (firstByte [rowByte 0 8 133 fun p => (s.pod.entry p).word.toNat,
     rowByte 0x1000 1 12 fun p => s.pod.portModule.at_ 0xFF p, fieldByte [⟨0x1100, 4, s.pod.admitMask⟩, ⟨0x1104, 4, s.pod.own.getD 0xFF⟩]]),
   sub 0x9080000 0x8000 (rowByte 0 32 1024 fun i => (s.pod.relay.at_ ⟨false, 0, 0, 0, 0, 0⟩ i).image),
   sub 0xA000000 0x20 (rowByte 0 4 8 fun i => (s.trust.capResult.getD i 0).toNat),
   sub 0x10000000 0x100000 (rowByte 0 1 0x100000 fun i => s.trust.frames.at_ 0 (2 * i) % 16 + s.trust.frames.at_ 0 (2 * i + 1) % 16 * 16)].findSome? id

/-- A byte of control space as a read finds it: a register with a place of its own, what the model holds there, else a free value. Log entry 13. -/
def State.ctlByte (s : State) (off : Nat) : Byte :=
  match s.ctlReg off with
  | some b => b
  | none => (s.trust.ctl.find? off).getD (Config.controlByte off s.free)

end Sys2Proof.Machine
end

