-- ==== Sys2Proof/Machine/Access.lean ====
section
/-! DEFINITION. An access of a lane (R31 to R33, R138 to R145, R149, R152, R236 to R242, R259, R265): address formation, translation, attributes, full-empty waits, race tags, poison, the bytes themselves. -/

namespace Sys2Proof.Machine

/-! ## Where an access goes -/

/-- What becomes of the search for a lane's location. `leaf` is none for a vault address. -/
inductive Loc where
  | found (pa : Nat) (leaf : Option DWord)
  | flt (f : Flt)
  | wait (why : Wait)
  deriving DecidableEq, Repr

/-- What an access asks for: its bytes (0 for LD.F, whose unit its page decides), kind, RAW, full-empty mode, vault or global, decoding. -/
structure Ask where
  width : Nat
  acc : Access
  raw : Bool := false
  fe : Nat := 0
  vault : Bool := false
  decode : Bool := false
  syn : Bool := false
  deriving DecidableEq, Repr

/-- The member crew of a crew's cluster with a rank (R33, R264). -/
def State.clusterMember (s : State) (c : Crew) (rank : Nat) : Option Crew :=
  match c.cluster, s.launch? c.ctx c.launch with
  | some gid, some l =>
    match (l.groups[gid]?).bind fun gr => gr.members[rank]? with
    | some (st, ix) =>
      (List.find? (fun (p : Nat × Crew) => p.2.ctx == c.ctx && p.2.launch == c.launch && p.2.stage == st && p.2.index == ix && p.2.cont.isNone) s.crews).map (·.2)
    | none => none
  | _, _ => none

/-- The member crews of a crew's cluster. -/
def State.clusterSize (s : State) (c : Crew) : Nat :=
  match c.cluster, s.launch? c.ctx c.launch with
  | some gid, some l => ((l.groups[gid]?).map fun gr => gr.members.length).getD 0
  | _, _ => 0

/-- The vault address checks of R31 and R33 with the alignment between them (R140): subcode, or the physical address. A member of the cluster whose task has retired has no window left, so its offsets take 0x21 as those beyond a window do. Log entry 103. -/
def State.vaultLoc (s : State) (c : Option Crew) (ea : DWord) (width : Nat) : Loc :=
  let x := ea.toNat
  let bad := fun (n : Nat) => Loc.flt ⟨cXlatePerm, n, ea⟩
  if 2 ^ 32 ≤ x ∨ bitsAt x 28 3 ≠ 0 then bad 0x20
  else
    match c with
    | none => if x % width ≠ 0 then .flt ⟨cAlign, 1, ea⟩ else bad 0x21
    | some c =>
      let j := x.testBit 31
      if j && c.cluster.isNone then bad 0x22
      else if j && decide (s.clusterSize c ≤ bitsAt x 24 4) then bad 0x23
      else if x % width ≠ 0 then .flt ⟨cAlign, 1, ea⟩
      else
        let target := if j then s.clusterMember c (bitsAt x 24 4) else some c
        let off := if j then bitsAt x 0 24 else bitsAt x 0 28
        match target with
        | none => bad 0x21
        | some m => if m.winSize < off + width then bad 0x21 else .found (m.winPa off) none

/-- The translation of a lane's page: its last-page register, then the TLBs and the walk; the register is refilled (R143). -/
def State.translateLane (s : State) (gk : Nat) (g : Gang) (l page : Nat) (a : Access) : State × Xlate :=
  let kept := match s.gang? gk with
    | none => none
    | some g => match (g.th l).lastPage with
      | some p => if p.page == page && usable p.leaf a && !(a.writes && leafDup p.leaf) && !s.frameBusy p.leaf then some p.leaf else none
      | none => none
  match kept with
  | some x => (s, .ok x)
  | none =>
    match s.translatePage g.core g.ctx page a with
    | (s, .ok x) => (s.mapGang gk fun g => g.setTh l { g.th l with lastPage := some ⟨page, x⟩ }, .ok x)
    | r => r

/-- The unit of LD.F by the page's format (R150). -/
def fmtUnit (fmt : Nat) : Nat := if fmt = 1 then 4 else if fmt = 2 ∨ fmt = 3 then 2 else 1

/-- The page attributes against the instruction: step 5 of R140. -/
def State.attrCheck (s : State) (q : Ask) (x : DWord) (va : DWord) (pa : Nat) : Option Flt :=
  let fmt := leafFmt x
  if q.decode && fmt == 0 then some ⟨cFormat, 4, va⟩
  else if !q.decode && (fmtQ8 fmt || fmtQ4 fmt) && (q.acc == .atomic || !q.raw) then some ⟨cFormat, 5, va⟩
  else if (q.acc == .atomic || q.fe != 0) && leafMt x == 2 then some ⟨cXlatePerm, 6, va⟩
  else if q.fe != 0 && regionOf pa != .hbm then some ⟨cXlatePerm, 7, va⟩
  else if q.decode && va.toNat % fmtUnit fmt != 0 then some ⟨cAlign, 1, va⟩
  else match s.mapCheck x pa with
    | some n => some ⟨cXlatePerm, n, va⟩
    | none => none

/-- The bytes of an access, once its page's format is known. -/
def Ask.bytes (q : Ask) (leaf : Option DWord) : Nat :=
  if q.decode then fmtUnit (leafFmt (leaf.getD 0)) else q.width

/-- Steps 1 to 5 of R140 for a global address. -/
def State.globalLoc (s : State) (gk : Nat) (g : Gang) (l : Nat) (ea : DWord) (q : Ask) : State × Loc :=
  if 2 ^ 55 ≤ ea.toNat then (s, .flt ⟨cXlatePerm, 0x10, ea⟩)
  else if ea.toNat % (max q.width 1) ≠ 0 then (s, .flt ⟨cAlign, 1, ea⟩)
  else
    match s.translateLane gk g l (ea.toNat / 2 ^ 19) q.acc with
    | (s, .wait) => (s, .wait (.pageInTransit ea.toNat))
    | (s, .flt c n) => (s, .flt ⟨c, n, ea⟩)
    | (s, .ok x) =>
      let pa := leafPa x ea.toNat
      match permCheck x q.acc g.level with
      | some n => (s, .flt ⟨cXlatePerm, n, ea⟩)
      | none =>
        match s.attrCheck q x ea pa with
        | some f => (s, .flt f)
        | none =>
          match s.reachCheck g.core pa (q.bytes (some x)) q.acc with
          | some n => (s.countRefusal pa n, .flt ⟨cXlatePerm, n, ea⟩)
          | none => (s, .found pa (some x))

/-- The crew whose window a gang reaches; a handler gang has none (R322). -/
def State.windowOf (s : State) (g : Gang) : Option Crew := if g.hslot.isSome then none else s.crewOf g

/-- Steps 1 to 5 of R140. -/
def State.locate (s : State) (gk : Nat) (g : Gang) (l : Nat) (ea : DWord) (q : Ask) : State × Loc :=
  if q.vault then (s, s.vaultLoc (s.windowOf g) ea q.width) else s.globalLoc gk g l ea q

/-! ## Race tags (R236, R240, R242) -/

/-- The access is covered by race detection: a window, or a tier-0 page with RC = 1. -/
def covered (pa : Nat) (leaf : Option DWord) : Bool :=
  match leaf with
  | none => true
  | some x => leafRc x && regionOf pa == .hbm

/-- An interval that a tag names is open. -/
def State.ivOpen (s : State) (agent epoch : Nat) : Bool :=
  s.gangs.any fun p => p.2.agent == agent && p.2.ivs.any fun i => epochOf i.num == epoch

/-- A SHARED tag is live (R240). -/
def State.sharedLive (s : State) (stamp : Nat) : Bool := s.gangs.any fun p => p.2.ivs.any fun i => decide (i.stamp ≤ stamp)

/-- What the tag of a granule means for an access (R240). -/
inductive RaceOut where
  | fresh
  | own (t : Tag)
  | share (syn wr : Bool)
  | force (stamp : Nat)
  | race (sub : Nat)
  deriving DecidableEq, Repr

/-- A gang by its number as an agent of race detection; a key without a gang has none. -/
def State.agentOf (s : State) (gk : Nat) : Option Nat := (s.gang? gk).map Gang.agent

/-- The table of R240. -/
def State.raceLook (s : State) (gk : Nat) (t : Tag) (writes syn : Bool) : RaceOut :=
  match t.mode with
  | .clear => .fresh
  | .shared =>
    if !s.sharedLive t.stamp then .fresh
    else if (writes || t.wr) && !(syn && t.syn) then .force t.stamp
    else .share (t.syn && syn) (t.wr || writes)
  | m =>
    if !s.ivOpen t.agent t.epoch then .fresh
    else if some t.agent = s.agentOf gk then .own t
    else if (writes || m == .write) && !(syn && t.syn) then
      .race (if !writes then 1 else if m == .read then 2 else 3)
    else .share (t.syn && syn) (m == .write || writes)

/-- Every interval open at a stamp is forced to an end (R242). -/
def State.closeUpTo (s : State) (stamp : Nat) : State :=
  { s with gangs := s.gangs.map fun p => (p.1, p.2.closeIvs fun i => decide (i.stamp ≤ stamp)) }

/-- The interval that a tag names is forced to an end (R242). -/
def State.closeNamed (s : State) (agent epoch : Nat) : State :=
  { s with gangs := s.gangs.map fun p => if p.2.agent = agent then (p.1, p.2.closeIvs fun i => epochOf i.num == epoch) else p }

/-- The number of the interval to which an access of a gang belongs. -/
def State.ivOf (s : State) (gk : Nat) (iv : Option Nat) : Nat := ((s.gang? gk).map fun g => g.ivFor iv).getD 0

/-- The tag of a granule. -/
def State.tagOf (s : State) (granule : Nat) : Tag := s.tags.at_ Tag.none_ granule

/-- The access is recorded: its interval opens, and a covered granule's tag is updated (R233, R240). -/
def State.recordAccess (s : State) (gk : Nat) (iv : Option Nat) (granule : Nat) (cov writes syn : Bool) (posted : Option Nat) : State :=
  if !cov then s.access gk iv posted
  else
    let look := s.raceLook gk (s.tagOf granule) writes syn
    let s := match look with | .force stamp => s.closeUpTo stamp | _ => s
    let s := s.access gk iv posted
    let mine : Tag := ⟨if writes then .write else .read, syn, false, (s.agentOf gk).getD 0, epochOf (s.ivOf gk iv), 0⟩
    let tag : Tag := match look with
      | .own t => { mine with mode := if writes || t.mode == .write then .write else .read, syn := t.syn && syn }
      | .share y w => ⟨.shared, y, w, 0, 0, s.ivClock⟩
      | _ => mine
    { s with tags := s.tags.set Tag.none_ granule tag }

/-- The race that an access meets. -/
def State.raceSub (s : State) (gk granule : Nat) (cov writes syn : Bool) : Option Nat :=
  if !cov then none
  else match s.raceLook gk (s.tagOf granule) writes syn with
    | .race n => some n
    | _ => none

/-! ## Full-empty waits (R152) -/

/-- A BLOCKED lane that waits on a granule for a state of its bit, and stands before another one. -/
def State.feAhead (s : State) (granule : Nat) (full : Bool) (since gk l : Nat) : Bool :=
  s.gangs.any fun p => (List.range 32).any fun m =>
    let t := p.2.th m
    t.run == .blocked && match t.wait with
      | some w => w.why == .fullEmpty granule full
          && (decide (w.since < since) || (w.since == since && (decide (p.1 < gk) || (p.1 == gk && decide (m < l)))))
      | none => false

/-- A full-empty access may go on. -/
def State.feReady (s : State) (pa : Nat) (full : Bool) (since gk l : Nat) : Bool :=
  s.isFull pa == full && !s.feAhead (pa / 16) full since gk l

/-! ## Cache lines (R258 to R260, R265, R266) -/

/-- The line of an address. -/
def lineAddr (pa : Nat) : Nat := pa / 128 * 128
/-- The vault-cache set of an address (R259). -/
def lineSet (pa : Nat) : Nat := pa / 128 % 512
/-- The place of a byte in local HBM: stack, channel, pseudo-channel, column, bank group, bank, row, and byte of the granule. -/
structure HbmPlace where
  stack : Nat
  channel : Nat
  pseudo : Nat
  column : Nat
  bankGroup : Nat
  bank : Nat
  row : Nat
  byte : Nat
  deriving DecidableEq, Repr

/-- The Local HBM address hash (R268). -/
def hbmPlace (pa : Nat) : HbmPlace where
  stack := Nat.xor (Nat.xor (bitsAt pa 8 4) (bitsAt pa 24 4)) (bitsAt pa 36 4)
  channel := Nat.xor (bitsAt pa 12 5) (bitsAt pa 28 5)
  pseudo := Nat.xor (bitsAt pa 17 1) (bitsAt pa 33 1)
  column := bitsAt pa 18 2
  bankGroup := Nat.xor (bitsAt pa 20 2) (bitsAt pa 34 2)
  bank := Nat.xor (bitsAt pa 22 2) (bitsAt pa 36 2)
  row := bitsAt pa 24 16
  byte := bitsAt pa 0 8

/-- The stack of a tier-0 address (R268). -/
def stackOf (pa : Nat) : Nat := (hbmPlace pa).stack

/-- The intervals that a line's tags name live are ended, and its tags are cleared (R242). -/
def State.endTagged (s : State) (a n : Nat) : State :=
  let inside := fun (g : Nat) => decide (a / 16 ≤ g) && decide (g * 16 < a + n)
  let live := (s.tags.filter fun p => inside p.1).map (·.2)
  let s := live.foldl (fun (s : State) t =>
    match t.mode with
    | .shared => s.closeUpTo t.stamp
    | .clear => s
    | _ => s.closeNamed t.agent t.epoch) s
  { s with tags := s.tags.filter fun p => !inside p.1 }

/-- A page whose lines a vault cache may hold (R259). -/
def cacheable (leaf : DWord) (pa : Nat) : Bool :=
  leafMt leaf == 0 && match regionOf pa with
    | .hbm => !leafRc leaf
    | .port _ _ => true
    | _ => false

/-- A tier-0 access of a page with MT normal or uncached, or a write-back from a vault cache, passes through the home cache of its stack (R265); a line that it replaces ends the intervals of its tags (R266). -/
def State.homeFill (s : State) (core ctx pa : Nat) (writes : Bool) : State :=
  let a := lineAddr pa
  let st := stackOf pa
  let d := st / 4
  let x := s.die d
  if x.home.any fun y => y.addr == a then
    if writes then s.mapDie d fun x => { x with home := x.home.map fun y => if y.addr == a then { y with dirty := true } else y } else s
  else
    let old := (x.home.filter fun y => y.way == st)[Config.stackLines - 1]?
    let s := match old with | some y => s.endTagged y.addr 128 | none => s
    s.mapDie d fun x => { x with home := ⟨a, st, writes, (s.die (dieOf core)).world, ctx, 0⟩ :: x.home.filter fun y => some y != old }

/-- Every line of a run of bytes passes through its home cache. -/
def State.homeRun (s : State) (core ctx pa n : Nat) (writes : Bool) : State := (lineRun pa n).foldl (fun s a => s.homeFill core ctx a writes) s

/-- The lines of a set that a fill may replace: the least protected ones (R259). -/
def leastProtected (xs : List Line) : List Line :=
  let at_ := fun (n : Nat) => xs.filter fun x => x.pos == n
  if !(at_ 2).isEmpty then at_ 2 else if !(at_ 0).isEmpty then at_ 0 else xs

/-- A line is replaced: a DIRTY one is written back to its home (R259, R265). -/
def State.replaceLine (s : State) (core : Nat) (y : Line) : State :=
  let s := if y.dirty && regionOf y.addr == .hbm then s.homeFill core y.ctx y.addr true else s
  s.mapCore core fun c => { c with cache := c.cache.filter fun x => !(lineSet x.addr == lineSet y.addr && x.way == y.way) }

/-- The replacement position that the CACHE field asks for: keep the most protected, stream the least (R259). -/
def cachePos (mode : Nat) : Nat := if mode = 1 then 1 else if mode = 2 then 2 else 0

/-- A fill of a core's vault cache (R259): the lowest way without a valid line, else the way that the device chooses among the least protected. A line beyond the boundary waits for its block's handover, and is no place for a fill (R261). -/
def State.cacheFill (s : State) (core ctx pa mode : Nat) : State :=
  let c := s.core core
  let a := lineAddr (s.home pa)
  if c.cache.any fun x => x.addr == a then
    s.mapCore core fun c => { c with cache := c.cache.map fun x => if x.addr == a then { x with pos := cachePos mode } else x }
  else
    let ways := c.boundary - 16
    let set := c.cache.filter fun x => lineSet x.addr == lineSet a && decide (x.way < c.boundary)
    let used := set.map (·.way)
    let line := fun (w : Nat) => (⟨a, w, false, (s.die (dieOf core)).world, ctx, cachePos mode⟩ : Line)
    match (List.range ways).find? fun w => !used.contains (16 + w) with
    | some w => s.mapCore core fun c => { c with cache := line (16 + w) :: c.cache }
    | none =>
      let may := leastProtected set
      match may[Config.victimWay s.free % may.length]? with
      | none => s
      | some y => ({ s with free := s.free + 1 }.replaceLine core y).mapCore core fun c => { c with cache := line y.way :: c.cache }

/-- A write to a line: every other copy in the package is invalidated, and the own copy is DIRTY (R260), in the position that the CACHE field asks for (R259). -/
def State.cacheWrite (s : State) (core ctx pa mode : Nat) : State :=
  let a := lineAddr (s.home pa)
  { s with cores := s.cores.map fun p =>
      if p.1 = core then (p.1, { p.2 with cache := p.2.cache.map fun x => if x.addr == a then { x with dirty := true, ctx := ctx, pos := if mode = 0 then x.pos else cachePos mode } else x })
      else (p.1, { p.2 with cache := p.2.cache.filter fun x => x.addr != a }) }

/-- What an access does to the caches (R267). -/
def State.cacheAccess (s : State) (core ctx pa : Nat) (leaf : Option DWord) (mode : Nat) (writes : Bool) : State :=
  match leaf with
  | none => s
  | some x =>
    let s := if regionOf pa == .hbm && leafMt x != 2 then s.homeFill core ctx pa writes else s
    let s := if cacheable x pa && !writes && mode != 3 then s.cacheFill core ctx pa mode else s
    if writes then s.cacheWrite core ctx pa mode else s

/-! ## The bytes -/

/-- Memory as a gang's loads see it (R299): under its crew's commit log; a handler gang has no crew. -/
def State.viewFor (s : State) (g : Gang) : List Host.Cell := if g.hslot.isSome then s.mem else s.view g.crew

/-- The bytes that an access reads from memory as its maker sees it. -/
def State.bytesAt (s : State) (m : List Host.Cell) (pa n : Nat) : State × List Byte :=
  match regionOf pa with
  | .control off => ({ s with free := s.free + 1 }, (List.range n).map fun i => s.ctlByte (off + i))
  | .vault core off => (s, if s.blockLive core (off / 0x10000) then readBytes m pa n else List.replicate n 0)
  | _ => (s, readBytes m (s.home pa) n)

/-- A store that wholly overwrites a poisoned granule clears the poison (R281). -/
def clearPoison (poison : List Nat) (pa n : Nat) : List Nat :=
  poison.filter fun g => !(decide (pa ≤ g * 16) && decide (g * 16 + 16 ≤ pa + n))

/-- A thread's write of control space is no register's write: it is counted by VIOL and has no effect (R391). -/
def State.violate (s : State) : State := s.mapTrust fun t => { t with viol := satSucc t.viol 0xFFFF }

/-- A master owns the control plane. -/
def State.isOwner (s : State) (who : Owner) : Bool :=
  match who with
  | .garnet => s.trust.owner == 0
  | .host => s.trust.owner == 1
  | .bmc => s.trust.owner == 2
  | _ => false

/-- The tenancy takes a request of the host (R385). -/
def State.hostTrusted (s : State) (ten : Nat) (trusted : Bool) : Bool := trusted || s.tenWorld ten == 0

/-- Kind of the report on a request without the trusted indication. -/
def errTrusted : Nat := 6

/-- A request that lacks the trusted indication its tenancy asks for is refused, counted and reported (R385). -/
def State.refuseHost (s : State) (ten : Nat) : State := (s.mapTen ten fun t => { t with refused := t.refused + 1 }).report 2 errTrusted ten

/-- A request of a master reaches the device: in RECOVERY there is no virtual function (R387), and one of a virtual function whose tenancy is confidential carries the trusted indication, or is refused (R385). -/
def State.fromMaster (s : State) (who : Owner) (f : State → State) : State :=
  match who with
  | .function ten trusted => if s.inRecovery then s else if !s.hostTrusted ten trusted then s.refuseHost ten else f s
  | _ => f s

/-- A write by the owner; any other master's has no effect and counts in VIOL. -/
def State.ownerWrite (s : State) (who : Owner) (f : State → State) : State := if s.isOwner who then f s else s.fromMaster who State.violate

/-- Bytes written by an access. -/
def State.putBytes (s : State) (pa : Nat) (bytes : List Byte) : State :=
  match regionOf pa with
  | .control _ => s.violate
  | .vault core off =>
    if s.blockLive core (off / 0x10000) then
      { s.store pa bytes with poison := clearPoison s.poison pa bytes.length }
    else s
  | _ => { s.store (s.home pa) bytes with poison := clearPoison s.poison (s.home pa) bytes.length }

/-- A read of the location meets poison. -/
def State.isPoisoned (s : State) (pa : Nat) : Bool := s.poison.contains (s.home pa / 16)

/-! ## Stored publication (R172, R179) -/

/-- PUB as it stands in the ring. -/
def State.ringPub (s : State) (c : Crew) : Nat := readNum s.mem (c.winPa 0x800) 4
/-- Entries published and not accepted. -/
def State.ringFill (s : State) (c : Crew) : Nat := (s.ringPub c + 2 ^ 32 - c.taken.toNat) % 2 ^ 32
/-- The record of a fault that names the ring or a command of it (R172, R313). -/
def ringRec (crew : Nat) (c : Crew) (cls sub pc : Nat) (va cap : DWord) : Rec :=
  { seq := 0, task := c.serial, crewIx := c.index, gang := 0xFFFF, grec := 0xFFFF, gslot := 0xFFFF, core := c.homeCore, cls := cls, sub := sub,
    level := c.level, nested := c.level == 2, eng := true, lanes := 0, rcnt := 0, rep := 0, pc := word pc, va := va, cap := cap, gkey := 0, crew := crew, fetch := none, ord := 0 }

/-- The sub-core of a gang in its package: core·12 + sub-core. -/
def Gang.subId (g : Gang) : Nat := g.core * 12 + g.subCore

/-- The numbers that a PUB stored as `now` over `old` publishes; none where it lies more than a ring ahead. -/
def newlyPublished (old now : Nat) : List Nat :=
  let n := (now + 2 ^ 32 - old) % 2 ^ 32
  if n ≤ 64 then (List.range n).map fun i => (old + i) % 2 ^ 32 else []

/-- A stored PUB is noted (R172): who published which entry, and whether the ring is broken or mended; on breaking, an ENGINE 0x08 record (where it fills the queue, the context stops at the end of the step, R323). `by_` is the sub-core and the key of the gang that stored it. -/
def State.notePub (s : State) (crew : Nat) (by_ : Option (Nat × Nat)) : State :=
  match s.crew? crew with
  | none => s
  | some c =>
    let broken := decide (64 < s.ringFill c)
    let fresh := match by_ with
      | some (sub, gk) => (newlyPublished c.pub.toNat (s.ringPub c)).map fun q => (q, sub, gk)
      | none => []
    let kept := c.pubs.filter fun q => decide ((q.1 + 2 ^ 32 - c.taken.toNat) % 2 ^ 32 < s.ringFill c) && !fresh.any fun f => f.1 == q.1
    let t := s.mapCrew crew fun c => { c with pub := word (s.ringPub c), broken := broken, pubs := kept ++ fresh }
    if broken && !c.broken then (t.queueRec c.ctx (ringRec crew c cEngine 8 (s.ringPub c) 0 0)).1 else t

/-- A write of n bytes at a physical address has been performed: a PUB that lies in them is noted at once (R172). -/
def State.pubStored (s : State) (pa n : Nat) (by_ : Option (Nat × Nat)) : State :=
  match regionOf pa with
  | .vault _ _ =>
    match List.find? (fun (p : Nat × Crew) => p.2.phase != .handover && decide (pa < p.2.winPa 0x800 + 4) && decide (p.2.winPa 0x800 < pa + n)) s.crews with
    | some p => s.notePub p.1 by_
    | none => s
  | _ => s

end Sys2Proof.Machine
end

