-- ==== Sys2Proof/Machine/QueueOps.lean ====
section
/-! DEFINITION. Queue objects (R162 to R166, R292): how a descriptor is found and checked, the steps of a push and a pop, commits that follow in their turn, and who is admitted first. Also the accesses that the device makes on an agent's behalf. -/

namespace Sys2Proof.Machine

/-! ## Accesses by an agent of the device -/

/-- Who makes an access: the core whose TLBs translate it, the context, the level, the gang and lane where it is a thread, and what waits for the replies to its writes that go over a relay (R361, R366). -/
structure Who where
  core : Nat
  ctx : Nat
  level : Nat
  lane : Option (Nat × Nat)
  asks : RelayWait
  deriving DecidableEq, Repr

/-- A lane as the maker of an access. -/
def Env.who (e : Env) (l : Nat) : Who := ⟨e.g.core, e.g.ctx, e.g.level, some (e.gk, l), .nobody⟩

/-- Translation of a page for an agent. -/
def State.translateFor (s : State) (w : Who) (page : Nat) (a : Access) : State × Xlate :=
  match w.lane with
  | some (gk, l) =>
    match s.gang? gk with
    | some g => s.translateLane gk g l page a
    | none => s.translatePage w.core w.ctx page a
  | none => s.translatePage w.core w.ctx page a

/-- Steps 1, 3 and 4 of R140 and the checks on arrival, for `n` bytes inside one page: `both` asks for read permission beside that of the access. -/
def State.agentLoc (s : State) (w : Who) (va : DWord) (n : Nat) (a : Access) (both : Bool) : State × Loc :=
  if 2 ^ 55 ≤ va.toNat then (s, .flt ⟨cXlatePerm, 0x10, va⟩)
  else
    match s.translateFor w (va.toNat / 2 ^ 19) a with
    | (s, .wait) => (s, .wait (.pageInTransit va.toNat))
    | (s, .flt c n) => (s, .flt ⟨c, n, va⟩)
    | (s, .ok x) =>
      let pa := leafPa x va.toNat
      let perm := match (if both then permCheck x .read w.level else none) with
        | some p => some p
        | none => permCheck x a w.level
      match perm with
      | some p => (s, .flt ⟨cXlatePerm, p, va⟩)
      | none =>
        match s.mapCheck x pa with
        | some p => (s, .flt ⟨cXlatePerm, p, va⟩)
        | none =>
          match s.reachCheck w.core pa n a with
          | some p => (s.countRefusal pa p, .flt ⟨cXlatePerm, p, va⟩)
          | none => (s, .found pa (some x))

/-! ## Descriptors (R162, R163) -/

/-- Reserved bits, LOG2CAP, HOME and BASE are in order. -/
def State.qConfigOk (s : State) (pa : Nat) : Bool :=
  let c := readNum s.mem (s.home pa + 40) 4
  readNum s.mem (s.home pa + 44) 20 == 0 && bitsAt c 16 16 == 0 && bitsAt c 8 3 == 0 && bitsAt c 2 4 == 0
    && decide (1 ≤ bitsAt c 11 5) && decide (bitsAt c 11 5 ≤ 24) && bitsAt c 0 2 != 3 && s.word64 (pa + 32) % 64 == 0

/-- HEAD ≤ HRES ≤ TAIL ≤ TRES ≤ HEAD + CAP. -/
def State.qInvariant (s : State) (pa cap : Nat) : Bool :=
  decide (s.qHead pa ≤ s.qHres pa) && decide (s.qHres pa ≤ s.qTail pa) && decide (s.qTail pa ≤ s.qTres pa)
    && decide (s.qTres pa ≤ s.qHead pa + cap)

/-- The place that HOME names: a core's queue blocks, tier 0, a module behind a port; none where an address lies in no such place. -/
def State.placeOf (s : State) (home pa : Nat) : Option Nat :=
  match home, regionOf pa with
  | 0, .vault core off => if s.isQueueBlock core (off / 0x10000) then some core else none
  | 1, .hbm => some 0
  | 2, .port p _ => some p
  | _, _ => none

/-- The leaf of a page of items with the permissions that a queue operation needs, found without a trace: class and subcode, or the leaf; none where the walk waits. -/
def State.itemPage (s : State) (core ctx page level : Nat) : Except (Nat × Nat) (Option DWord) :=
  let perms := fun (x : DWord) =>
    match permCheck x .read level with
    | some n => Except.error (cXlatePerm, n)
    | none => match permCheck x .write level with
      | some n => Except.error (cXlatePerm, n)
      | none => Except.ok (some x)
  match s.walkOn core ctx (page * 2 ^ 19) with
  | .leaf first _ _ x => perms (leafOfPage x first page)
  | .remote _ _ x => perms x
  | .denied n => .error (cXlatePerm, n)
  | .busy => .ok none
  | .absent n => .error (cXlateNr, n + 1)
  | .bad _ n => .error (cXlateTable, n)

/-- The first fault among the pages of items from `page` on. -/
def State.itemFault (s : State) (w : Who) (q : Queue) (place : Nat) : Nat → Nat → Option Flt
  | 0, _ => none
  | n + 1, page =>
    let va := dword (max q.base.toNat (page * 2 ^ 19))
    match s.itemPage w.core w.ctx page w.level with
    | .error (c, k) => some ⟨c, k, va⟩
    | .ok none => s.itemFault w q place n (page + 1)
    | .ok (some x) =>
      if s.placeOf q.home (leafPa x va.toNat) = some place then s.itemFault w q place n (page + 1)
      else some ⟨cQueue, 1, va⟩

/-- What becomes of the search for a queue. -/
inductive QFind where
  | found (q : Queue)
  | flt (f : Flt)
  | wait (why : Wait)
  deriving DecidableEq, Repr

/-- A descriptor found in memory, checked (R163): tier, poison, CONFIG, place, items, invariant. -/
def State.checkQueue (s : State) (w : Who) (va : DWord) (pa : Nat) (leaf : DWord) : QFind :=
  let q := s.queueOf pa leaf
  let bad := fun (n : Nat) => QFind.flt ⟨cQueue, n, va⟩
  match regionOf pa with
  | .aperture _ _ => bad 4
  | _ =>
    if s.isPoisoned pa then .flt ⟨cPoison, 1, va⟩
    else if !s.qConfigOk pa then bad 1
    else
      match s.placeOf q.home pa with
      | none => bad 1
      | some place =>
        if q.home == 0 && dieOf place != dieOf w.core then bad 4
        else
          let first := q.base.toNat / 2 ^ 19
          let past := min ((q.base.toNat + q.cap * q.isz - 1) / 2 ^ 19 + 1) (2 ^ 36)
          match s.itemFault w q place (past - first) first with
          | some f => .flt f
          | none =>
            if 2 ^ 55 < q.base.toNat + q.cap * q.isz then .flt ⟨cXlatePerm, 0x10, dword (max q.base.toNat (2 ^ 55))⟩
            else if s.qInvariant pa q.cap then .found q else bad 2

/-- A virtual address lies in the queue blocks of a core of another die. -/
def State.queueAway (s : State) (w : Who) (va : DWord) : Bool :=
  match s.walkOn w.core w.ctx va.toNat with
  | .leaf first _ _ x =>
    match regionOf (leafPa (leafOfPage x first (va.toNat / 2 ^ 19)) va.toNat) with
    | .vault core off => dieOf core != dieOf w.core && s.isQueueBlock core (off / 0x10000)
    | _ => false
  | _ => false

/-- The queue whose descriptor lies at a virtual address. One in the vault of another die is refused as a queue (R163), before its die's port refuses the access. -/
def State.findQueue (s : State) (w : Who) (va : DWord) : State × QFind :=
  if va.toNat % 64 ≠ 0 then (s, .flt ⟨cAlign, 3, va⟩)
  else
    match s.agentLoc w va 64 .atomic true with
    | (t, .found pa leaf) => (t, t.checkQueue w va pa (leaf.getD 0))
    | (t, .wait why) => (t, .wait why)
    | (t, .flt f) => (t, .flt (if f.cls = cXlatePerm ∧ f.sub = 8 ∧ t.queueAway w va = true then ⟨cQueue, 4, va⟩ else f))

/-- The physical address of the slot of item `n`. -/
def State.slotLoc (s : State) (w : Who) (q : Queue) (n : Nat) (a : Access) : State × Loc :=
  s.agentLoc w (q.base + dword (n % q.cap * q.isz)) q.isz a false

/-! ## The steps (R166) -/

/-- A push can be reserved. -/
def State.qHasRoom (s : State) (pa cap : Nat) : Bool := decide (s.qTres pa < s.qHead pa + cap)
/-- A pop can be reserved. -/
def State.qHasItem (s : State) (pa : Nat) : Bool := decide (s.qHres pa < s.qTail pa)

/-- A push is reserved and its item written at the slot. -/
def State.reservePush (s : State) (pa slot : Nat) (item : List Byte) : State :=
  let n := s.qTres pa
  ((s.putBytes slot item).dropCopies slot).setWord64 (pa + 8) (n + 1)

/-- A pop is reserved. -/
def State.reservePop (s : State) (pa : Nat) : State := s.setWord64 (pa + 24) (s.qHres pa + 1)

/-- The device may reserve at a queue for a context: the module behind it can be reached, and its range check grants QOP (R344, R350). -/
def State.deviceReserves (s : State) (ctx pa : Nat) : Bool := s.canReach pa && (s.reachFrom none (s.ctxWorld ctx) pa 64 .atomic).isNone

/-- A push by the device itself into a queue of which it knows the descriptor (R309, R372): nothing where it is full, not mapped, or refused. A MODULE-homed queue takes its steps as QOP commands (R352). -/
def State.pushWhole (s : State) (ctx : Nat) (crew : Option Nat) (q : Queue) (item : List Byte) : Option State :=
  if !s.qInvariant q.pa q.cap || !s.qHasRoom q.pa q.cap || !s.deviceReserves ctx q.pa then none
  else
    let n := s.qTres q.pa
    let va := q.base + dword (n % q.cap * q.isz)
    match s.kernelLeaf ctx va q.isz .write with
    | none => none
    | some (_, _, slot) =>
      let s := (s.touchPage ctx va q.isz .write).queueCommand (s.ctxWorld ctx) q.pa qPushRes n
      some ((s.reservePush q.pa slot item).commitLater ⟨s.home q.pa, n, true, ctx, crew⟩)

/-- A pop reserved by the device itself; nothing where it is refused. -/
def State.popWhole (s : State) (ctx pa : Nat) : Option State :=
  if !s.deviceReserves ctx pa then none
  else some ((s.queueCommand (s.ctxWorld ctx) pa qPopRes (s.qHres pa)).reservePop pa)

/-! ## Who is admitted (R165) -/

/-- The descriptor address that a waiting queue instruction names. -/
def Pend.queueVa (p : Pend) : DWord := pairOf (p.vals.getD 0 0) (p.vals.getD 1 0)

/-- The place in memory of the descriptor at a virtual address, by the tables as they stand. -/
def State.queuePlace (s : State) (ctx : Nat) (va : DWord) : Option Nat := (s.kernelPa ctx va 64).map s.home

/-- A lane waits to be admitted at a queue: it has no reservation yet, whether it waits there, for a page of the queue, or for the commit of its task before it may push. -/
def State.unadmitted (s : State) (ctx : Nat) (p : Pend) (pa : Nat) : Bool :=
  p.extra.isEmpty && match p.why with
    | .queue x => x == pa || s.queuePlace ctx p.queueVa == some pa
    | .moduleCmd _ x => x == pa
    | .pageInTransit _ => s.queuePlace ctx p.queueVa == some pa
    | _ => false

/-- A BLOCKED lane that has no reservation yet, waits at the same queue on the same side, and stands before another one. -/
def State.queueAhead (s : State) (pa : Nat) (push : Bool) (since gk l : Nat) : Bool :=
  s.gangs.any fun p => (List.range 32).any fun m =>
    let t := p.2.th m
    t.run == .blocked && match t.wait with
      | some w => queueSide w.insn == some push
          && (decide (w.since < since) || (w.since == since && (decide (p.1 < gk) || (p.1 == gk && decide (m < l)))))
          && s.unadmitted p.2.ctx w pa
      | none => false

/-- A lower lane of the same instruction waits to be admitted at the queue. -/
def State.lowerAhead (s : State) (pa since gk l : Nat) : Bool :=
  match s.gang? gk with
  | none => false
  | some g => (List.range l).any fun m =>
    let t := g.th m
    t.run == .blocked && match t.wait with
      | some w => w.since == since && s.unadmitted g.ctx w pa
      | none => false

/-! ## Race tags of several granules -/

/-- The granules of a range. -/
def granulesOf (pa n : Nat) : List Nat := (List.range ((pa + n + 15) / 16 - pa / 16)).map fun i => pa / 16 + i

/-- The race that an access to a range meets. -/
def State.raceRange (s : State) (gk pa n : Nat) (cov writes syn : Bool) : Option Nat :=
  (granulesOf pa n).findSome? fun gr => s.raceSub gk gr cov writes syn

/-- An access to a range is recorded. -/
def State.recordRange (s : State) (gk : Nat) (iv : Option Nat) (pa n : Nat) (cov writes syn : Bool) : State :=
  if cov then (granulesOf pa n).foldl (fun s gr => s.recordAccess gk iv gr cov writes syn none) s else s.access gk iv none

/-! ## The steps at a module (R348, R352) -/

/-- The place of a command's descriptor in memory. -/
def ModCmd.pa (c : ModCmd) : Nat := apertureBase + c.module * moduleSpan + c.addr

/-- The step that a QOP command asks for can be taken at the module. -/
def State.qopReady (s : State) (c : ModCmd) : Bool :=
  let cap := 2 ^ bitsAt (readNum s.mem (c.pa + 40) 4) 11 5
  if c.subop = qPushRes then s.qHasRoom c.pa cap
  else if c.subop = qPushCmt then s.commitTurn c.pa c.opnd.toNat true
  else if c.subop = qPopRes then s.qHasItem c.pa
  else if c.subop = qPopCmt then s.commitTurn c.pa c.opnd.toNat false
  else true

/-- The step made at the module (R352), with the VALUE of the response (R348). A commit whose turn comes with it follows. -/
def State.qopStep (s : State) (c : ModCmd) : State × DWord :=
  let n := c.opnd.toNat
  let after := fun (s : State) => s.settleCommits c.pa (s.commits.length + 1)
  if c.subop = qPushRes then (s.setWord64 (c.pa + 8) (s.qTres c.pa + 1), dword (s.qTres c.pa))
  else if c.subop = qPushCmt then (after (s.setWord64 c.pa (n + 1)), c.opnd)
  else if c.subop = qPopRes then (s.setWord64 (c.pa + 24) (s.qHres c.pa + 1), dword (s.qHres c.pa))
  else if c.subop = qPopCmt then (after (s.setWord64 (c.pa + 16) (n + 1)), c.opnd)
  else (s, dword (s.qTail c.pa - s.qHres c.pa))

end Sys2Proof.Machine
end

