-- ==== Sys2Proof/Machine/Sends.lean ====
section
/-! DEFINITION. User-level interrupts (R215, R216, R330 to R334, R372) and messages between packages (R360): sending, arrival at an endpoint, refusal, the host notice queue. -/

namespace Sys2Proof.Machine

/-! ## Endpoint values (R215) -/

def epPkg (e : DWord) : Nat := bitsAt e.toNat 56 8
def epCtx (e : DWord) : Nat := bitsAt e.toNat 32 16
def epIndex (e : DWord) : Nat := bitsAt e.toNat 0 8
/-- An endpoint value of a package, a context or process tag, and an endpoint. -/
def epValue (pkg ctx ep : Nat) : DWord := dword (pkg % 256 * 2 ^ 56 + ctx % 65536 * 2 ^ 32 + ep % 256)

/-- A value that ULI.SEND takes (R216). -/
def epValid (e : DWord) : Bool :=
  let p := epPkg e
  (decide (p < 133) || decide (0xFE ≤ p)) && bitsAt e.toNat 48 8 == 0 && bitsAt e.toNat 8 24 == 0
    && (if p == 0xFE then epIndex e == 0 else decide (epCtx e ≤ 0xFFF) && decide (epIndex e ≤ 3))

/-- The package names this package. -/
def State.isSelf (s : State) (pkg : Nat) : Bool := pkg == 0xFF || s.pod.own == some pkg

/-! ## Endpoints in the image (R331) -/

/-- The VA of endpoint `e` of a context. -/
def Context.epVa (c : Context) (e : Nat) : DWord := c.regBase + dword (0x40A84000 + e * 0x1000)
/-- The VA of a context's drop count. -/
def Context.dropVa (c : Context) : DWord := c.regBase + dword 0x40A88000

/-- The bytes of one vector of an endpoint record. -/
def Endpoint.vectorBytes (x : Endpoint) (v : Nat) : List Byte :=
  match x.pending.find? fun p => p.num == v with
  | some p => bytesOf 4 p.payload ++ bytesOf 4 p.count ++ bytesOf 8 p.first.toNat ++ bytesOf 8 p.ord ++ List.replicate 8 0
  | none => List.replicate 32 0

/-- An endpoint record (R331). -/
def Endpoint.bytes (x : Endpoint) : List Byte :=
  bytesOf 8 (x.pending.foldl (fun m p => m + 2 ^ p.num) 0) ++ bytesOf 8 x.mask.toNat
    ++ bytesOf 4 (x.bound.getD 0xFFFFFFFF) ++ bytesOf 4 x.refused ++ bytesOf 8 x.nextOrd ++ List.replicate 224 0
    ++ (List.range 64).flatMap x.vectorBytes

/-- An endpoint as its record gives it. -/
def Endpoint.ofBytes (b : List Byte) : Endpoint :=
  let num := fun (o n : Nat) => natOfBytes ((b.drop o).take n)
  let pend := num 0 8
  { pending := (List.range 64).filterMap fun v =>
      if pend.testBit v then
        some ⟨v, num (0x100 + 32 * v) 4, num (0x104 + 32 * v) 4, dword (num (0x108 + 32 * v) 8), num (0x110 + 32 * v) 8⟩
      else none
    mask := dword (num 8 8)
    bound := if num 16 4 = 0xFFFFFFFF then none else some (num 16 4)
    refused := num 20 4
    nextOrd := num 24 8 }

/-- An endpoint as the image of a context has it; one at reset where the image is not mapped. Log entry 107. -/
def State.imageEp (s : State) (ctx e : Nat) : Endpoint :=
  let va := (s.ctx ctx).epVa e
  if (s.kernelPa ctx va 0x900).isNone then Endpoint.reset else Endpoint.ofBytes (s.readImage ctx va 0x900)

/-- An endpoint of a context, where its state is held. -/
def State.endpoint (s : State) (ctx e : Nat) : Endpoint :=
  let c := s.ctx ctx
  if c.epsInImage then s.imageEp ctx e else c.eps.getD e Endpoint.reset

/-- An endpoint replaced, where its state is held. -/
def State.setEndpoint (s : State) (ctx e : Nat) (x : Endpoint) : State :=
  let c := s.ctx ctx
  if c.epsInImage then s.writeImage ctx (c.epVa e) x.bytes
  else s.mapCtx ctx fun c => { c with eps := c.eps.set e x }

/-- A context's endpoints and drop count written to the image (R334). -/
def State.storeEps (s : State) (ctx : Nat) : State :=
  let c := s.ctx ctx
  if c.epsInImage then s
  else
    let s := (List.range 4).foldl (fun (s : State) e => s.writeImage ctx (c.epVa e) (c.eps.getD e Endpoint.reset).bytes) s
    (s.writeImage ctx c.dropVa (bytesOf 4 c.drops)).mapCtx ctx fun c => { c with epsInImage := true }

/-- A context's endpoints and drop count loaded from the image (R334). -/
def State.loadEps (s : State) (ctx : Nat) : State :=
  let c := s.ctx ctx
  if !c.epsInImage then s
  else
    let eps := (List.range 4).map (s.imageEp ctx)
    let drops := natOfBytes (s.readImage ctx c.dropVa 4)
    let s := (List.range 4).foldl (fun (s : State) e => s.touchRun ctx (c.epVa e) 0x900 .read) s
    (s.touchPage ctx c.dropVa 4 .read).mapCtx ctx fun c => { c with eps := eps, drops := drops, epsInImage := false }

/-- One more send of a context has been dropped or refused (R216, R331). -/
def State.countDrop (s : State) (ctx : Nat) : State :=
  let c := s.ctx ctx
  if c.epsInImage then s.writeImage ctx c.dropVa (bytesOf 4 (satSucc (natOfBytes (s.readImage ctx c.dropVa 4)) 0xFFFFFFFF))
  else s.mapCtx ctx fun c => { c with drops := satSucc c.drops 0xFFFFFFFF }

/-- A peer that a message can reach: INTACT or RELAYED (R359). -/
def State.reachesPeer (s : State) (peer : Nat) : Bool := decide ((s.pod.entries.at_ PodEntry.none_ peer).st ≤ 1)

/-! ## Arrival of a send (R330, R332) -/

/-- A permission entry matches a sender: classes 1, 2 and 3. -/
def Perm.matches (p : Perm) (x : Send) : Bool :=
  let ctxOk := bitsAt p.lo.toNat 16 16 == 0xFFFF || bitsAt p.lo.toNat 16 16 == x.sender
  let pkg := bitsAt p.lo.toNat 32 8
  match bitsAt p.lo.toNat 0 2 with
  | 1 => x.pkg == 0xFF && ctxOk
  | 2 => decide (x.pkg < 133) && pkg == x.pkg && ctxOk
  | 3 => x.pkg == 0xFE && ctxOk
  | _ => false

/-- The sender's package learns that a send was refused or dropped. -/
def State.refuseBack (s : State) (x : Send) : State :=
  if x.pkg = 0xFF then { s with refusals := s.refusals ++ [x.sender] }
  else if x.pkg = 0xFE then s
  else s.pairSend x.pkg (.refusal x.sender)

/-- The send is refused at its endpoint. -/
def State.refuseSend (s : State) (x : Send) : State :=
  let e := s.endpoint x.ctx x.ep
  (s.setEndpoint x.ctx x.ep { e with refused := satSucc e.refused 0xFFFFFFFF }).refuseBack x

/-- The vector pended or coalesced. -/
def Endpoint.accept (e : Endpoint) (v pay : Nat) (first : DWord) : Endpoint :=
  if e.pending.any fun p => p.num == v then
    { e with pending := e.pending.map fun p => if p.num == v then { p with payload := pay, count := min (p.count + 1) 65535 } else p }
  else { e with pending := e.pending ++ [⟨v, pay, 1, first, e.nextOrd⟩], nextOrd := e.nextOrd + 1 }

/-- A send processed at its endpoint (R332). -/
def State.arrive (s : State) (x : Send) : State :=
  let c := s.ctx x.ctx
  if !s.hasCtx x.ctx || (s.ten c.tenancy).gone then s.refuseBack x
  else
    let v := x.operand.toNat / 2 ^ 26
    let pay := x.operand.toNat % 2 ^ 26
    match List.find? (fun (p : Nat × Perm) => p.2.matches x) c.perms with
    | none => s.refuseSend x
    | some (i, p) =>
      let window := s.clock / 65536
      let taken := if p.window = window then p.accepted else 0
      let rate := bitsAt p.lo.toNat 48 16
      if !p.vmask.toNat.testBit v || !p.lo.toNat.testBit (8 + x.ep) then s.refuseSend x
      else if rate != 0 && decide (rate ≤ taken) then s.refuseSend x
      else
        let s := s.mapCtx x.ctx fun c => { c with perms := c.perms.put i { p with window := window, accepted := taken + 1 } }
        s.setEndpoint x.ctx x.ep ((s.endpoint x.ctx x.ep).accept v pay (epValue x.pkg x.sender 0))

/-! ## Sending (R216, R372) -/

/-- A record of the host notice queue: operand, process tag, the sender's endpoint value. -/
def noticeRec (operand : Word) (tag : Nat) (sender : DWord) : List Byte := bytesOf 4 operand.toNat ++ bytesOf 4 (tag % 65536) ++ bytesOf 8 sender.toNat

/-- The device reaches a range of memory for a tenancy: the home agent finds the tenancy's world there, and no frame of it is being zeroed (R382). -/
def State.tenReaches (s : State) (ten pa n : Nat) (a : Access) : Bool :=
  (s.reachFrom none (s.tenWorld ten) pa n a).isNone && !s.zeroes pa && !s.zeroes (pa + n - 1)

/-- A record pushed to a tenancy's host notice queue, which raises MSI-X when it was empty, with the trusted indication for a confidential tenancy (R385); none where the queue is full, not placed or refused. -/
def State.pushNotice (s : State) (ten : Nat) (record : List Byte) : Option State :=
  match (s.ten ten).noticeQ with
  | none => none
  | some pa =>
    let q := s.queueOf pa 0
    let n := s.qTres pa
    let slot := q.base.toNat + n % q.cap * q.isz
    if !s.qInvariant pa q.cap || !s.qHasRoom pa q.cap || !s.tenReaches ten pa 64 .atomic || !s.tenReaches ten slot q.isz .write then none
    else
      let empty := s.qTail pa == s.qHead pa
      let s := (s.reservePush pa slot record).commitLater ⟨s.home pa, n, true, 0x1000, none⟩
      some (if empty then s.mapTen ten fun t => { t with msix := t.msix ++ [s.tenWorld ten != 0] } else s)

/-- A send to the host: dropped and counted where the notice queue is full. -/
def State.notifyHost (s : State) (ctx tag : Nat) (operand : Word) : State :=
  (s.pushNotice (s.ctx ctx).tenancy (noticeRec operand tag (epValue 0xFF ctx 0))).getD (s.countDrop ctx)

/-- A send by an agent of a context. -/
def State.sendUli (s : State) (agent ctx : Nat) (ep : DWord) (operand : Word) : State :=
  let p := epPkg ep
  if s.isSelf p then
    if s.hasCtx (epCtx ep) then { s with sends := s.sends ++ [⟨0xFF, ctx, agent, epCtx ep, epIndex ep, operand⟩] }
    else s.countDrop ctx
  else if p = 0xFE then s.notifyHost ctx (epCtx ep) operand
  else if s.reachesPeer p then s.pairSend p (.uliSend (epCtx ep) (epIndex ep) operand ctx)
  else s.countDrop ctx

end Sys2Proof.Machine
end

