-- ==== Sys2Proof/Machine/Pin.lean ====
section
/-! DEFINITION. Replayable tasks (R167, R174, R207, R250, R299, R300, R302): the commit log, what an unpinned task defers, pinning, and the commit in its order. Also the service queue of a die (R206, R309). -/

namespace Sys2Proof.Machine

/-! ## The service queue (R206, R309) -/

/-- The descriptor of a die's service queue, as the tables of a context give its VA. -/
def State.serviceQueue (s : State) (die ctx : Nat) : Option Queue :=
  (s.kernelPa ctx (s.die die).svcQ 64).map fun pa => s.queueOf pa 0

/-- A service request pushed; none while the queue is full or is not there. The descriptor's page is marked as its slot's is (R276). -/
def State.pushService (s : State) (die ctx : Nat) (crew : Option Nat) (request : List Byte) : Option State :=
  match s.serviceQueue die ctx with
  | none => none
  | some q => (s.touchPage ctx (s.die die).svcQ 64 .atomic).pushWhole ctx crew q request

/-! ## What a log takes (R300) -/

/-- Bytes of the log that a deferred operation takes. -/
def deferCost : Deferred → Nat
  | .push _ _ item => 16 + item.length
  | .send _ _ _ => 16
  | .service _ _ => 16

/-- Bytes of a crew's commit log: LOG4K units of 4 KiB. -/
def State.logSize (s : State) (c : Crew) : Nat :=
  match s.launch? c.ctx c.launch with
  | some l => ((l.stages[c.stage]?).map fun st => st.log4k * 4096).getD 0
  | none => 0

/-- A further entry of some bytes fits. -/
def State.logFits (s : State) (c : Crew) (cost : Nat) : Bool := decide (c.logUse + cost ≤ s.logSize c)

/-! ## The commit (R302) -/

/-- The bytes that a log entry writes: address and count. -/
def LogOp.range : LogOp → Nat × Nat
  | .store pa _ _ bytes => (pa, bytes.length)
  | .atomic pa _ _ _ w _ _ => (pa, w)

/-- The physical address by which a log entry's place was reached. -/
def LogOp.via : LogOp → Nat
  | .store _ via _ _ => via
  | .atomic _ via _ _ _ _ _ => via

/-- The gang and the lane that made a log entry. -/
def LogOp.who : LogOp → Nat × Nat
  | .store _ _ who _ => who
  | .atomic _ _ who _ _ _ _ => who

/-- The kind of access that a log entry makes. -/
def LogOp.kind : LogOp → Access
  | .store _ _ _ _ => .write
  | .atomic _ _ _ _ _ _ _ => .atomic

/-- The intervals of other gangs that a live tag of a range names are ended (R242). -/
def State.endForCommit (s : State) (crew pa n : Nat) : State :=
  let inside := fun (g : Nat) => decide (pa / 16 ≤ g) && decide (g * 16 < pa + n)
  let own := fun (a : Nat) => s.gangs.any fun (p : Nat × Gang) => p.2.agent == a && p.2.crew == crew && p.2.hslot.isNone
  (s.tags.filter fun p => inside p.1).foldl (fun (s : State) p =>
    match p.2.mode with
    | .clear => s
    | .shared => { s.closeUpTo p.2.stamp with tags := s.tags.drop p.1 }
    | _ =>
      if own p.2.agent then s
      else { s.closeNamed p.2.agent p.2.epoch with tags := s.tags.drop p.1 }) s

/-- What a log entry asks of a module or a relay package: an atomic is an AMO command at a module (R347), and any access behind a relay package is a relay request (R360), for whose reply the thread's pod releases wait (R248). -/
def State.sendLog (s : State) (world : Nat) : LogOp → State
  | .store _ via who bytes => s.relayAccess world via 1 bytes bytes.length (.gang who.1 who.2)
  | .atomic _ via who op w data cmp => s.askAtomic world via op w data cmp true 0 (.gang who.1 who.2)

/-- A write of a commit to a module stays outstanding for the lane that made it: its later pod releases wait for the acknowledgment (R248). -/
def State.oweLog (s : State) (e : LogOp) : State :=
  if s.destOf e.via = 12 then s
  else s.mapGang e.who.1 fun g => { g with owed := g.owed ++ [ofLane e.who.2 (s.destOf e.via)] }

/-- One log entry performed (R250, R302), by the checks that every access meets where it arrives (R344, R350): one that is refused has no effect and is reported. -/
def State.performLog (s : State) (crew : Nat) (c : Crew) (e : LogOp) : State :=
  let r := e.range
  let world := s.ctxWorld c.ctx
  match s.reachFrom none world e.via r.2 e.kind with
  | some sub => (s.countRefusal e.via sub).report (16 + s.portNear e.via) 1 0
  | none =>
    let s := (s.endForCommit crew r.1 r.2).dropCopies r.1
    let s := if regionOf r.1 == .hbm then s.homeRun c.homeCore c.ctx r.1 r.2 true else s
    ({ s with mem := LogOp.apply s.mem e, poison := clearPoison s.poison r.1 r.2 }.sendLog world e).oweLog e

/-- The log of a crew is performed on memory as one (R250). -/
def State.commitLog (s : State) (crew : Nat) : State :=
  match s.crew? crew with
  | none => s
  | some c => (c.log.foldl (fun (s : State) e => s.performLog crew c e) s).mapCrew crew fun c => { c with log := [], logUse := 0 }

/-- The HEAD commits of a task's pops, which are writes of its commit (R242). -/
def State.commitPops (s : State) (crew ctx : Nat) (ps : List PopRes) : State :=
  ps.foldl (fun (s : State) p => (s.endForCommit crew p.pa 64).commitLater ⟨p.pa, p.num, false, ctx, some crew⟩) s

/-- The intervals that the writes of a commit's push end (R242): at the descriptor and at the slot of the next item. -/
def State.endForPush (s : State) (crew ctx : Nat) (q : Queue) : State :=
  let s := s.endForCommit crew (s.home q.pa) 64
  match s.slotPa ctx q (s.qTres q.pa) with
  | some slot => s.endForCommit crew slot q.isz
  | none => s

/-- The pops of a task, lanes ascending, in program order for each. -/
def popOrder (ps : List PopRes) : List PopRes :=
  let lanes := (ps.map (·.lane)).foldl (fun acc l => if acc.contains l then acc else acc ++ [l]) []
  (lanes.insertionSort fun a b => a ≤ b).flatMap fun l => ps.filter fun p => p.lane == l

/-- The pushes of a task, in the same order. -/
def pushOrder (ds : List Deferred) : List (Nat × List Byte) :=
  let ps := ds.filterMap fun d => match d with | .push l pa item => some (l, pa, item) | _ => none
  let lanes := (ps.map (·.1)).foldl (fun acc l => if acc.contains l then acc else acc ++ [l]) []
  (lanes.insertionSort fun a b => a ≤ b).flatMap fun l => (ps.filter fun p => p.1 == l).map (·.2)

/-- One deferred push made; none while it finds no room. -/
@[irreducible]
def State.commitPush (s : State) (crew ctx : Nat) (p : Nat × List Byte) : Option State :=
  (s.endForPush crew ctx (s.queueOf p.1 0)).pushWhole ctx (some crew) (s.queueOf p.1 0) p.2

/-- The deferred pushes made, or the queue at which one finds no room. -/
def State.commitPushes (s : State) (crew ctx : Nat) : List (Nat × List Byte) → Except Nat State
  | [] => .ok s
  | p :: rest =>
    match s.commitPush crew ctx p with
    | some t => t.commitPushes crew ctx rest
    | none => .error p.1

/-- The intervals that a service request of a commit ends. -/
def State.endForService (s : State) (crew die ctx : Nat) : State :=
  match s.serviceQueue die ctx with
  | some q => s.endForPush crew ctx q
  | none => s

/-- One service request made; none while it finds no room. -/
@[irreducible]
def State.commitService (s : State) (crew ctx die : Nat) (request : List Byte) : Option State :=
  (s.endForService crew die ctx).pushService die ctx (some crew) request

/-- The service requests made. -/
def State.commitServices (s : State) (crew ctx : Nat) : List Deferred → Except Nat State
  | [] => .ok s
  | .service die request :: rest =>
    match s.commitService crew ctx die request with
    | some t => t.commitServices crew ctx rest
    | none => .error ((s.kernelPa ctx (s.die die).svcQ 64).getD 0)
  | _ :: rest => s.commitServices crew ctx rest

/-- The interrupt sends made. -/
def State.commitSends (s : State) (ctx : Nat) (ds : List Deferred) : State :=
  ds.foldl (fun s d => match d with | .send agent ep operand => s.sendUli agent ctx ep operand | _ => s) s

/-- The steps of a task's commit in their order (R302): log, HEAD commits, pushes, service requests, sends. The queue at which it has to wait otherwise. -/
def State.commitSteps (s : State) (crew : Nat) (c : Crew) : Except Nat State :=
  let s := (s.commitLog crew).commitPops crew c.ctx (c.popped.toList ++ popOrder c.pops)
  match s.commitPushes crew c.ctx (pushOrder c.deferred) with
  | .error pa => .error pa
  | .ok s =>
    match s.commitServices crew c.ctx c.deferred with
    | .error pa => .error pa
    | .ok s => .ok ((s.commitSends c.ctx c.deferred).mapCrew crew fun c => { c with popped := none, pops := [], deferred := [], conts := [] })

/-- The whole commit of a task. It takes effect as one (R250): while one of its queue commits would have to follow in a later turn, the whole of it waits. Log entry 124. -/
def State.commitTask (s : State) (crew : Nat) : Except Nat State :=
  match s.crew? crew with
  | none => .ok s
  | some c =>
    match s.commitSteps crew c with
    | .error pa => .error pa
    | .ok t =>
      match t.commits.find? fun q => !s.commits.contains q with
      | some q => .error q.pa
      | none => .ok t

/-! ## Pinning (R299) -/

/-- The crew of a gang runs an unpinned task. -/
def State.unpinnedOf (s : State) (g : Gang) : Bool :=
  g.hslot.isNone && match s.crewOf g with | some c => c.unpinned | none => false

/-- The task of a gang is pinned before an instruction takes effect; the queue at which its commit has to wait otherwise. -/
def State.pin (s : State) (g : Gang) : Except Nat State :=
  if !s.unpinnedOf g then .ok s
  else match s.commitTask g.crew with
    | .error pa => .error pa
    | .ok t => .ok (t.mapCrew g.crew fun c => { c with pinned := true })

/-- An entry of the commit log written. -/
def State.logEntry (s : State) (crew : Nat) (e : LogOp) : State :=
  s.mapCrew crew fun c => { c with log := c.log ++ [e], logUse := c.logUse + logCost c.log e }

/-- An operation deferred to retirement. -/
def State.defer (s : State) (crew : Nat) (d : Deferred) : State :=
  s.mapCrew crew fun c => { c with deferred := c.deferred ++ [d], logUse := c.logUse + deferCost d }

end Sys2Proof.Machine
end

