-- ==== Sys2Proof/Machine/LoadStore.lean ====
section
/-! DEFINITION. Loads and stores, global and vault, and the decoding load (R138 to R153): majors 0x26 to 0x2A. -/

namespace Sys2Proof.Machine

/-! ## Common parts -/

/-- The address of a memory operand (R138). -/
def Env.ea (e : Env) (l : Nat) : DWord := e.pair l 0 + (e.val l 2).signExtend 64

/-- The words of a memory operand's address: pair A and B. -/
def addrOpnds (a b : Src) : List Opnd := [.pair a, .src b .s]

/-- Bytes as 32-bit words, the first the least significant. -/
def wordsOf (n : Nat) (bytes : List Byte) : List Word := (List.range n).map fun i => word (natOfBytes ((bytes.drop (4 * i)).take 4))

/-- The low `width` bytes of data registers. -/
def dataBytes (width : Nat) (ws : List Word) : List Byte := (ws.flatMap fun w => bytesOf 4 w.toNat).take width

/-- The relay request of a lane's access, where it goes over a relay package; a posted one stays outstanding until the reply. -/
def State.askFor (s : State) (e : Env) (l pa kind : Nat) (bytes : List Byte) (n : Nat) (posted : Bool) : State :=
  s.askRelay e.g.core pa kind bytes n (if posted then .gang e.gk l else .nobody)

/-- The data checks of an access in their order: full-empty wait (R152), race tag (R240), poison (R281). -/
def State.gate (s : State) (e : Env) (l pa : Nat) (leaf : Option DWord) (va : DWord) (wantFull : Option Bool) (reads writes syn : Bool) : Option LaneOut :=
  let gr := s.home pa / 16
  let held := match wantFull with
    | some full => !s.feReady pa full e.since e.gk l
    | none => false
  if held then some (.wait (.fullEmpty gr (wantFull.getD true)))
  else match s.raceSub e.gk gr (covered pa leaf) writes syn with
    | some n => some (.fault ⟨cRace, n, va⟩)
    | none => if reads && s.isPoisoned pa then some (.fault ⟨cPoison, 1, va⟩) else none

/-- Two crews belong to one group. -/
def Crew.sharesGroup (a b : Crew) : Bool := a.ctx == b.ctx && a.launch == b.launch && a.groups.any fun n => b.groups.contains n

/-- A gang lies in the scope instance of an operation of another (R228). -/
def State.inInstance (s : State) (g : Gang) (gk scope other : Nat) : Bool :=
  other == gk || match s.gang? other with
    | none => false
    | some o =>
      match scope with
      | 0 => false
      | 1 => g.hslot.isNone && o.hslot.isNone && o.crew == g.crew
      | 2 => g.hslot.isNone && o.hslot.isNone && (o.crew == g.crew || match s.crewOf g, s.crewOf o with
        | some a, some b => a.sharesGroup b
        | _, _ => false)
      | 3 => dieOf o.core == dieOf g.core
      | _ => true

/-- A release of one gang and an acquire of another synchronise: each lies in the instance of the other's operation (R229). -/
def State.synchronise (s : State) (rel acq : Nat) (relScope acqScope : Nat) : Bool :=
  match s.gang? rel, s.gang? acq with
  | some a, some b => s.inInstance a rel relScope acq && s.inInstance b acq acqScope rel
  | _, _ => false

/-- The instance of an operation of a gang holds a command of a crew: one accepted, or published and not accepted yet (R228). -/
def State.commandsIn (s : State) (g : Gang) (gk scope : Nat) : Bool :=
  s.crews.any fun p => (s.gangsOf p.1).any (fun x => s.inInstance g gk scope x.1)
    && ((s.cmds.any fun m => m.crew == p.1) || !p.2.xq.isEmpty || decide (0 < s.ringFill p.2))

/-- The instance of an operation of a gang holds no other agent. Beyond group scope it holds the home agents and the module ports. -/
def State.alone (s : State) (g : Gang) (gk scope : Nat) : Bool :=
  scope == 0 || (decide (scope ≤ 2) && !(s.gangs.any fun p => p.1 != gk && s.inInstance g gk scope p.1) && !s.commandsIn g gk scope)

/-- Earlier accesses of the lanes of a gang are performed at a scope (R230, R231, R248), or their port was lost (R344): no other agent lies in the instance, or they are acknowledged. Log entry 104. -/
def State.performedAt (s : State) (gk : Nat) (lanes : List Nat) (scope : Nat) : Bool :=
  match s.gang? gk with
  | some g => s.alone g gk scope || g.pending.all fun d => lostDest d || !lanes.contains (laneOf d)
  | none => true

/-- The wait of a release at the scope that its EXT gives. -/
def releaseReady : State → Env → Bool := fun s e => s.performedAt e.gk e.lanes (extScope e.x)

/-- The scope that a bound EXT gives, or the default. -/
def Hints.scopeOr (h : Hints) (n : Nat) : Nat := if h.ext.isSome then extScope h.x else n

/-- The wait of a release whose scope its instruction fixes. -/
def releaseAt (scope : Nat) : State → Env → Bool := fun s e => s.performedAt e.gk e.lanes scope

/-- A lane has a store whose port was lost (R344). -/
def storeLost (s : State) (e : Env) (l : Nat) : Bool :=
  match s.gang? e.gk with
  | some g => g.pending.any fun d => lostDest d && laneOf d == l
  | none => false

/-- The stores of a lane whose port was lost are no longer waited for: a release has met them. -/
def Gang.dropLost (g : Gang) (l : Nat) : Gang :=
  let keep := fun (d : Nat) => !(lostDest d && laneOf d == l)
  let h : Gang := { g with ivs := g.ivs.map fun i => { i with pend := i.pend.filter keep }, owed := g.owed.filter keep }
  h.prune

/-- The lanes of a release at pod or sys scope that wait for a store to a lost port (R344). -/
def lostLanesOf (s : State) (e : Env) : List Nat := if 5 ≤ extScope e.x then e.lanes.filter (storeLost s e) else []

/-- The lanes of a release one after the other; a lane that waits for a store to a lost port faults. -/
def release (va : Env → Nat → DWord) (f : State → Env → Nat → State × LaneOut) : Body := fun s e =>
  let lost := lostLanesOf s e
  inOrder (fun s e l => if lost.contains l then (s.mapGang e.gk fun g => g.dropLost l, .fault ⟨cXlatePerm, 8, va e l⟩) else f s e l) s e

/-- A D field that a width of 8 or 16 bytes excludes (R139). -/
def badData (width d : Nat) : Option Nat := if d % (max (width / 4) 1) = 0 then none else some 5

/-! ## Loads (R146, R150 to R152) -/

/-- A load of one lane, whose bytes give its result. -/
def loadLane (q : Ask) (out : List Byte → Done) (s : State) (e : Env) (l : Nat) : State × LaneOut :=
  let va := e.ea l
  match s.locate e.gk e.g l va q with
  | (s, .flt f) => (s, .fault f)
  | (s, .wait w) => (s, .wait w)
  | (s, .found pa leaf) =>
    match s.gate e l pa leaf va (if q.fe = 0 then none else some true) true false q.syn with
    | some o => (s, o)
    | none =>
      let (s, bytes) := s.bytesAt (s.viewFor e.g) pa q.width
      let s := s.recordAccess e.gk e.iv (s.home pa / 16) (covered pa leaf) false q.syn none
      let s := (s.cacheAccess e.g.core e.g.ctx pa leaf (extCache e.x) false).askFor e l pa 0 [] q.width false
      (if q.fe = 2 then s.setFull pa false else s, .done (out bytes))

/-- The result of a load of B and H widths, sign-extended or not, or of whole words. -/
def loadResult (width : Nat) (signed : Bool) (bytes : List Byte) : Done :=
  let n := natOfBytes bytes
  if width = 1 then { ws := [if signed then (BitVec.ofNat 8 n).signExtend 32 else word n] }
  else if width = 2 then { ws := [if signed then (BitVec.ofNat 16 n).signExtend 32 else word n] }
  else { ws := wordsOf (width / 4) bytes }

/-- A load instruction: ORDER rlx, acq or sc, FE none, fw or fc. -/
def loadOp (d : Nat) (a b : Src) (h : Hints) (width : Nat) (signed vault : Bool) : Op where
  form := {
    sCls := true, lCls := true, srcs := addrOpnds a b, dst := .v d, width := max (width / 4) 1
    ext := mOrder ||| mScope ||| mFe ||| (if vault then 0 else mCache ||| mRaw)
    extBad := fun x => extOrder x == 2 || extOrder x == 3 || extFe x == 3
    illegal := badData width d, sync := extOrder h.x != 0, joint := true, mem := true }
  body := inOrder fun s e l =>
    loadLane { width := width, acc := .read, raw := extRaw e.x, fe := extFe e.x, vault := vault, syn := extOrder e.x != 0 || extFe e.x != 0 }
      (loadResult width signed) s e l

/-- LD.B (R146). -/
def opLdB (d : Nat) (a : Src) (b : Src) (h : Hints) : Op :=
  loadOp d a b h 1 true false
/-- The meaning of LD.B. -/
def execLdB (d : Nat) (a : Src) (b : Src) (s : State) : Host.Outcome State Fault Refusal := run (.ldB d a b) (opLdB d a b) s

/-- LD.H (R146). -/
def opLdH (d : Nat) (a : Src) (b : Src) (h : Hints) : Op :=
  loadOp d a b h 2 true false
/-- The meaning of LD.H. -/
def execLdH (d : Nat) (a : Src) (b : Src) (s : State) : Host.Outcome State Fault Refusal := run (.ldH d a b) (opLdH d a b) s

/-- LD.W (R146). -/
def opLdW (d : Nat) (a : Src) (b : Src) (h : Hints) : Op :=
  loadOp d a b h 4 false false
/-- The meaning of LD.W. -/
def execLdW (d : Nat) (a : Src) (b : Src) (s : State) : Host.Outcome State Fault Refusal := run (.ldW d a b) (opLdW d a b) s

/-- LD.D (R146). -/
def opLdD (d : Nat) (a : Src) (b : Src) (h : Hints) : Op :=
  loadOp d a b h 8 false false
/-- The meaning of LD.D. -/
def execLdD (d : Nat) (a : Src) (b : Src) (s : State) : Host.Outcome State Fault Refusal := run (.ldD d a b) (opLdD d a b) s

/-- LD.BU (R146). -/
def opLdBu (d : Nat) (a : Src) (b : Src) (h : Hints) : Op :=
  loadOp d a b h 1 false false
/-- The meaning of LD.BU. -/
def execLdBu (d : Nat) (a : Src) (b : Src) (s : State) : Host.Outcome State Fault Refusal := run (.ldBu d a b) (opLdBu d a b) s

/-- LD.HU (R146). -/
def opLdHu (d : Nat) (a : Src) (b : Src) (h : Hints) : Op :=
  loadOp d a b h 2 false false
/-- The meaning of LD.HU. -/
def execLdHu (d : Nat) (a : Src) (b : Src) (s : State) : Host.Outcome State Fault Refusal := run (.ldHu d a b) (opLdHu d a b) s

/-- LD.Q (R146). -/
def opLdQ (d : Nat) (a : Src) (b : Src) (h : Hints) : Op :=
  loadOp d a b h 16 false false
/-- The meaning of LD.Q. -/
def execLdQ (d : Nat) (a : Src) (b : Src) (s : State) : Host.Outcome State Fault Refusal := run (.ldQ d a b) (opLdQ d a b) s

/-! ## The decoding load (R150) -/

/-- The place of the group metadata word of an element (R78): its address, or FORMAT 0x01. -/
def Context.metaVa (c : Context) (leaf : DWord) (va : DWord) : Except Flt DWord :=
  let f := c.fdesc.at_ ⟨0, 0, 0⟩ (leafFdesc leaf)
  if va.toNat < f.dbase ∨ f.dbase + f.size ≤ va.toNat then .error ⟨cFormat, 1, va⟩
  else .ok (dword (f.mbase + (va.toNat - f.dbase) / fmtGroupBytes (leafFmt leaf) * 4))

/-- The metadata word of a lane's element, read as a load of the lane reads it: translation, race tag, poison. It is read raw, whatever the format of its own page (R78; DESIGN CHOICE, log entry 115). -/
def metaWord (s : State) (e : Env) (l : Nat) (va : DWord) : State × Except LaneOut Word :=
  match s.globalLoc e.gk e.g l va { width := 4, acc := .read, raw := true } with
  | (s, .flt f) => (s, .error (.fault f))
  | (s, .wait w) => (s, .error (.wait w))
  | (s, .found pa leaf) =>
    match s.raceSub e.gk (s.home pa / 16) (covered pa leaf) false false with
    | some n => (s, .error (.fault ⟨cRace, n, va⟩))
    | none =>
      if s.isPoisoned pa then (s, .error (.fault ⟨cPoison, 4, va⟩))
      else
        let (s, bytes) := s.bytesAt (s.viewFor e.g) pa 4
        (((s.recordAccess e.gk e.iv (s.home pa / 16) (covered pa leaf) false false none).cacheAccess e.g.core e.g.ctx pa leaf 0 false).askFor e l pa 0 [] 4 false, .ok (word (natOfBytes bytes)))

/-- A decoded element: the two words, and the flags it raises. -/
def decodeUnit (fmt : Nat) (w : Word) (x : Nat) : Word × Word × Nat :=
  let fl := fun (f : Fmt) => let r := fp32.ofVal .rne (f.value x); (word r.bits, 0#32, r.flags)
  if fmt = 1 then fl fp32
  else if fmt = 2 then fl bf16
  else if fmt = 3 then fl fp16
  else if fmt = 4 then ((BitVec.ofNat 8 x).signExtend 32, 0#32, 0)
  else if fmtQ8 fmt then (word (dequant w x), 0#32, 0)
  else (word (dequant w (x % 16)), word (dequant w (x / 16)), 0)

/-- The data of LD.F once its metadata is known. -/
def decodeLane (s : State) (e : Env) (l pa : Nat) (leaf : DWord) (va : DWord) (syn : Bool) (w : Word) : State × LaneOut :=
  match s.gate e l pa (some leaf) va none true false syn with
  | some o => (s, o)
  | none =>
    let (s, bytes) := s.bytesAt (s.viewFor e.g) pa (fmtUnit (leafFmt leaf))
    let r := decodeUnit (leafFmt leaf) w (natOfBytes bytes)
    if (e.g.th l).traps r.2.2 then (s, .fault (fpFault r.2.2))
    else
      let s := s.recordAccess e.gk e.iv (s.home pa / 16) (covered pa (some leaf)) false syn none
      ((s.cacheAccess e.g.core e.g.ctx pa (some leaf) (extCache e.x) false).askFor e l pa 0 [] (fmtUnit (leafFmt leaf)) false,
        .done { ws := [r.1, r.2.1], set := fun t => t.raise_ r.2.2 })

/-- LD.F of one lane. -/
def loadDecoded (s : State) (e : Env) (l : Nat) : State × LaneOut :=
  let va := e.ea l
  let syn := extOrder e.x != 0
  match s.globalLoc e.gk e.g l va { width := 1, acc := .read, decode := true, syn := syn } with
  | (s, .flt f) => (s, .fault f)
  | (s, .wait w) => (s, .wait w)
  | (s, .found _ none) => (s, .fault ⟨cFormat, 4, va⟩)
  | (s, .found pa (some leaf)) =>
    let fmt := leafFmt leaf
    if !(fmtQ8 fmt || fmtQ4 fmt) then decodeLane s e l pa leaf va syn 0
    else
      match (s.ctx e.g.ctx).metaVa leaf va with
      | .error f => (s, .fault f)
      | .ok mva =>
        match metaWord s e l mva with
        | (s, .error o) => (s, o)
        | (s, .ok w) => if metaBad (fmtQ4 fmt) w then (s, .fault ⟨cFormat, 2, va⟩) else decodeLane s e l pa leaf va syn w

/-- LD.F (R150). -/
def opLdF (d : Nat) (a : Src) (b : Src) (h : Hints) : Op :=
  { form := {
      sCls := true, lCls := true, srcs := addrOpnds a b, dst := .v d, width := 2
      ext := mOrder ||| mScope ||| mCache, extBad := fun x => extOrder x == 2 || extOrder x == 3
      illegal := badData 8 d, sync := extOrder h.x != 0, joint := true, mem := true }
    body := inOrder loadDecoded }
/-- The meaning of LD.F. -/
def execLdF (d : Nat) (a : Src) (b : Src) (s : State) : Host.Outcome State Fault Refusal := run (.ldF d a b) (opLdF d a b) s

/-! ## Stores (R147, R151, R299) -/

/-- A store enters a commit log: it goes to memory, not to control space or to vault blocks that ignore it. -/
def State.loggable (s : State) (pa : Nat) : Bool :=
  match regionOf pa with
  | .control _ => false
  | .vault core off => s.blockLive core (off / 0x10000)
  | _ => true

/-- A store performed: recorded, cached, written, with its full-empty effect. -/
def State.performStore (s : State) (e : Env) (l pa : Nat) (leaf : Option DWord) (q : Ask) (bytes : List Byte) (posted : Bool) : State :=
  let s := s.recordAccess e.gk e.iv (s.home pa / 16) (covered pa leaf) true q.syn (if posted then some (ofLane l (s.destOf pa)) else none)
  let s := (s.cacheAccess e.g.core e.g.ctx pa leaf (extCache e.x) true).putBytes pa bytes
  let s := (s.pubStored pa bytes.length (some (e.g.subId, e.gk))).askFor e l pa 1 bytes bytes.length posted
  if q.fe = 2 ∨ q.fe = 3 then s.setFull pa true else s

/-- What a full-empty store waits for: FULL for wait-full, EMPTY for consume. -/
def storeWants (fe : Nat) : Option Bool := if fe = 1 then some true else if fe = 2 then some false else none

/-- A plain global store of an unpinned task that its log still takes. -/
def State.logsStore (s : State) (g : Gang) (pa : Nat) (q : Ask) (rel : Bool) : Bool := s.unpinnedOf g && !q.vault && !rel && q.fe == 0 && s.loggable pa

/-- A store of one lane, after location. -/
def storeAt (q : Ask) (rel : Bool) (bytes : List Byte) (s : State) (e : Env) (l pa : Nat) (leaf : Option DWord) : State × LaneOut :=
  let direct := fun (s : State) =>
    match s.gate e l pa leaf (e.ea l) (storeWants q.fe) false true q.syn with
    | some o => (s, o)
    | none => (s.performStore e l pa leaf q bytes (!rel && (q.fe == 0 || q.fe == 3)), .done {})
  if s.logsStore e.g pa q rel then
    let entry := LogOp.store (s.home pa) pa (e.gk, l) bytes
    match s.crewOf e.g with
    | none => direct s
    | some c =>
      if s.logFits c (logCost c.log entry) then (s.logEntry e.g.crew entry, .done {})
      else match s.pin e.g with
        | .ok t => direct t
        | .error qpa => (s, .wait (.queue qpa))
  else if rel || q.fe != 0 then
    match s.gate e l pa leaf (e.ea l) (storeWants q.fe) false true q.syn with
    | some o => (s, o)
    | none =>
      match s.pin e.g with
      | .ok t => direct t
      | .error qpa => (s, .wait (.queue qpa))
  else direct s

/-- A store of one lane. -/
def storeLane (q : Ask) (rel : Bool) (s : State) (e : Env) (l : Nat) : State × LaneOut :=
  match s.locate e.gk e.g l (e.ea l) q with
  | (s, .flt f) => (s, .fault f)
  | (s, .wait w) => (s, .wait w)
  | (s, .found pa leaf) => storeAt q rel (dataBytes q.width ((e.vals l).drop 3)) s e l pa leaf

/-- The order of a store is rel or sc. -/
def isRelease (x : Nat) : Bool := extOrder x == 2 || extOrder x == 4

/-- A store instruction: ORDER rlx, rel or sc; of class S with wait-full or consume, of class RB with rel or sc. -/
def storeOp (d : Nat) (a b : Src) (h : Hints) (width : Nat) (vault : Bool) : Op where
  form := {
    sCls := extFe h.x == 1 || extFe h.x == 2, rbCls := isRelease h.x
    srcs := addrOpnds a b ++ [.reg d (max (width / 4) 1)]
    ext := mOrder ||| mScope ||| mFe ||| (if vault then 0 else mCache ||| mRaw)
    extBad := fun x => extOrder x == 1 || extOrder x == 3
    illegal := badData width d, sync := extOrder h.x != 0, joint := extFe h.x == 1 || extFe h.x == 2, mem := true }
  ready := fun s e => !isRelease e.x || releaseReady s e
  body := fun s e =>
    let q : Ask := { width := width, acc := .write, raw := extRaw e.x, fe := extFe e.x, vault := vault, syn := extOrder e.x != 0 || extFe e.x != 0 }
    if isRelease e.x then release Env.ea (storeLane q true) s e else inOrder (storeLane q false) s e

/-- ST.B (R147). -/
def opStB (d : Nat) (a : Src) (b : Src) (h : Hints) : Op :=
  storeOp d a b h 1 false
/-- The meaning of ST.B. -/
def execStB (d : Nat) (a : Src) (b : Src) (s : State) : Host.Outcome State Fault Refusal := run (.stB d a b) (opStB d a b) s

/-- ST.H (R147). -/
def opStH (d : Nat) (a : Src) (b : Src) (h : Hints) : Op :=
  storeOp d a b h 2 false
/-- The meaning of ST.H. -/
def execStH (d : Nat) (a : Src) (b : Src) (s : State) : Host.Outcome State Fault Refusal := run (.stH d a b) (opStH d a b) s

/-- ST.W (R147). -/
def opStW (d : Nat) (a : Src) (b : Src) (h : Hints) : Op :=
  storeOp d a b h 4 false
/-- The meaning of ST.W. -/
def execStW (d : Nat) (a : Src) (b : Src) (s : State) : Host.Outcome State Fault Refusal := run (.stW d a b) (opStW d a b) s

/-- ST.D (R147). -/
def opStD (d : Nat) (a : Src) (b : Src) (h : Hints) : Op :=
  storeOp d a b h 8 false
/-- The meaning of ST.D. -/
def execStD (d : Nat) (a : Src) (b : Src) (s : State) : Host.Outcome State Fault Refusal := run (.stD d a b) (opStD d a b) s

/-- ST.Q (R147). -/
def opStQ (d : Nat) (a : Src) (b : Src) (h : Hints) : Op :=
  storeOp d a b h 16 false
/-- The meaning of ST.Q. -/
def execStQ (d : Nat) (a : Src) (b : Src) (s : State) : Host.Outcome State Fault Refusal := run (.stQ d a b) (opStQ d a b) s

/-- LDX.W (R151). -/
def opLdxW (d : Nat) (a : Src) (b : Src) (h : Hints) : Op :=
  loadOp d a b h 4 false true
/-- The meaning of LDX.W. -/
def execLdxW (d : Nat) (a : Src) (b : Src) (s : State) : Host.Outcome State Fault Refusal := run (.ldxW d a b) (opLdxW d a b) s

/-- LDX.D (R151). -/
def opLdxD (d : Nat) (a : Src) (b : Src) (h : Hints) : Op :=
  loadOp d a b h 8 false true
/-- The meaning of LDX.D. -/
def execLdxD (d : Nat) (a : Src) (b : Src) (s : State) : Host.Outcome State Fault Refusal := run (.ldxD d a b) (opLdxD d a b) s

/-- LDX.Q (R151). -/
def opLdxQ (d : Nat) (a : Src) (b : Src) (h : Hints) : Op :=
  loadOp d a b h 16 false true
/-- The meaning of LDX.Q. -/
def execLdxQ (d : Nat) (a : Src) (b : Src) (s : State) : Host.Outcome State Fault Refusal := run (.ldxQ d a b) (opLdxQ d a b) s

/-- STX.W (R151). -/
def opStxW (d : Nat) (a : Src) (b : Src) (h : Hints) : Op :=
  storeOp d a b h 4 true
/-- The meaning of STX.W. -/
def execStxW (d : Nat) (a : Src) (b : Src) (s : State) : Host.Outcome State Fault Refusal := run (.stxW d a b) (opStxW d a b) s

/-- STX.D (R151). -/
def opStxD (d : Nat) (a : Src) (b : Src) (h : Hints) : Op :=
  storeOp d a b h 8 true
/-- The meaning of STX.D. -/
def execStxD (d : Nat) (a : Src) (b : Src) (s : State) : Host.Outcome State Fault Refusal := run (.stxD d a b) (opStxD d a b) s

/-- STX.Q (R151). -/
def opStxQ (d : Nat) (a : Src) (b : Src) (h : Hints) : Op :=
  storeOp d a b h 16 true
/-- The meaning of STX.Q. -/
def execStxQ (d : Nat) (a : Src) (b : Src) (s : State) : Host.Outcome State Fault Refusal := run (.stxQ d a b) (opStxQ d a b) s

end Sys2Proof.Machine
end

