-- ==== Sys2Proof/Machine/Atomics.lean ====
section
/-! DEFINITION. Atomics, global and vault (R154 to R156): majors 0x2B to 0x2E. -/

namespace Sys2Proof.Machine

/-! ## Atomics (R154 to R156) -/

/-- Data registers of an atomic for one value: one, or a pair under W64. -/
def amoRegs (x : Nat) : Nat := if extW64 x then 2 else 1

/-- The compare operand of CAS (R155): SRC3, or the registers after the data. -/
def casOpnds (d : Nat) (h : Hints) : List Opnd :=
  let n := amoRegs h.x
  if extSrc3 h.x = 0 then [.reg (d + n) n] else if n = 2 then [.pair h.src3] else [.src h.src3 .u]

/-- The value that `n` words give. -/
def valueOf (ws : List Word) : DWord := dword (natOfBytes (ws.flatMap fun w => bytesOf 4 w.toNat))

/-- The words of an old value. -/
def amoWords (w x : Nat) : List Word := wordsOf (w / 4) (bytesOf w x)

/-- Order rel, ar or sc: the write part is a release. -/
def amoReleases (x : Nat) : Bool := decide (2 ≤ extOrder x)

/-- What an atomic of one lane does: operation of R348, width, vault or global, posted, and whether its write part is a release. -/
structure Amo where
  op : Nat
  w : Nat
  vault : Bool
  posted : Bool
  rel : Bool
  deriving DecidableEq, Repr

/-- An atomic to a module goes as an AMO command. -/
def State.amoCommand (s : State) (e : Env) (l : Nat) (q : Amo) (pa old : Nat) (data cmp : DWord) : State :=
  s.askAtomic (s.die (dieOf e.g.core)).world pa q.op q.w data cmp q.posted (dword old) (if q.posted && !q.rel then .gang e.gk l else .nobody)

/-- An atomic performed at its location. One that releases leaves nothing outstanding: an acquire that reads it synchronises with it (R237). -/
def performAmo (q : Amo) (data cmp : DWord) (s : State) (e : Env) (l pa : Nat) (leaf : Option DWord) : State × LaneOut :=
  let (s, bytes) := s.bytesAt s.mem pa q.w
  let old := natOfBytes bytes
  let s := s.recordAccess e.gk e.iv (s.home pa / 16) (covered pa leaf) true true (if q.posted && !q.rel then some (ofLane l (s.destOf pa)) else none)
  let s := (s.cacheAccess e.g.core e.g.ctx pa leaf 0 true).putBytes pa (bytesOf q.w (amoResult q.op q.w (dword old) data cmp).toNat)
  let s := s.pubStored pa q.w (some (e.g.subId, e.gk))
  (s.amoCommand e l q pa old data cmp, .done { ws := if q.posted then [] else amoWords q.w old })

/-- An atomic of one lane, after location. -/
def amoAt (q : Amo) (data cmp : DWord) (s : State) (e : Env) (l pa : Nat) (leaf : Option DWord) : State × LaneOut :=
  let direct := fun (s : State) =>
    match s.gate e l pa leaf (e.ea l) none true true true with
    | some o => (s, o)
    | none => performAmo q data cmp s e l pa leaf
  let pinned := fun (s : State) =>
    match s.gate e l pa leaf (e.ea l) none true true true with
    | some o => (s, o)
    | none => match s.pin e.g with
      | .ok t => direct t
      | .error qpa => (s, .wait (.queue qpa))
  if !q.posted then pinned s
  else if s.unpinnedOf e.g && !q.vault && s.loggable pa then
    let entry := LogOp.atomic (s.home pa) pa (e.gk, l) q.op q.w data cmp
    match s.crewOf e.g with
    | none => direct s
    | some c => if s.logFits c (logCost c.log entry) then (s.logEntry e.g.crew entry, .done {}) else pinned s
  else direct s

/-- An atomic of one lane. -/
def amoLane (q : Amo) (s : State) (e : Env) (l : Nat) : State × LaneOut :=
  let n := q.w / 4
  let ws := (e.vals l).drop 3
  match s.locate e.gk e.g l (e.ea l) { width := q.w, acc := .atomic, vault := q.vault, syn := true } with
  | (s, .flt f) => (s, .fault f)
  | (s, .wait w) => (s, .wait w)
  | (s, .found pa leaf) => amoAt q (valueOf (ws.take n)) (valueOf ((ws.drop n).take n)) s e l pa leaf

/-- An atomic instruction. -/
def amoOp (nw : Bool) (d : Nat) (a b : Src) (h : Hints) (op : Nat) (vault : Bool) : Op where
  form := {
    sCls := true, rbCls := true, lCls := !nw
    srcs := addrOpnds a b ++ [.reg d (amoRegs h.x)] ++ (if op = 7 then casOpnds d h else [])
    dst := .v d, width := amoRegs h.x, nw := nw
    ext := mOrder ||| mScope ||| (if op = 8 ∨ op = 9 then 0 else mW64) ||| (if op = 7 then mSrc3 else 0)
    illegal := minSub (badData (4 * amoRegs h.x) d) (if op = 7 ∧ extSrc3 h.x = 0 ∧ 128 < d + 2 * amoRegs h.x then some 5 else none)
    entry := if nw then some .empty else none
    sync := extOrder h.x != 0, joint := true, mem := true }
  ready := fun s e => !amoReleases e.x || releaseReady s e
  body := fun s e =>
    let q : Amo := ⟨op, if extW64 e.x then 8 else 4, vault, nw, amoReleases e.x⟩
    if amoReleases e.x then release Env.ea (amoLane q) s e else inOrder (amoLane q) s e

/-- AMO.ADD (R155). -/
def opAmoAdd (nw : Bool) (d : Nat) (a : Src) (b : Src) (h : Hints) : Op :=
  amoOp nw d a b h 0 false
/-- The meaning of AMO.ADD. -/
def execAmoAdd (nw : Bool) (d : Nat) (a : Src) (b : Src) (s : State) : Host.Outcome State Fault Refusal := run (.amoAdd nw d a b) (opAmoAdd nw d a b) s

/-- AMO.MIN (R155). -/
def opAmoMin (nw : Bool) (d : Nat) (a : Src) (b : Src) (h : Hints) : Op :=
  amoOp nw d a b h 1 false
/-- The meaning of AMO.MIN. -/
def execAmoMin (nw : Bool) (d : Nat) (a : Src) (b : Src) (s : State) : Host.Outcome State Fault Refusal := run (.amoMin nw d a b) (opAmoMin nw d a b) s

/-- AMO.MAX (R155). -/
def opAmoMax (nw : Bool) (d : Nat) (a : Src) (b : Src) (h : Hints) : Op :=
  amoOp nw d a b h 2 false
/-- The meaning of AMO.MAX. -/
def execAmoMax (nw : Bool) (d : Nat) (a : Src) (b : Src) (s : State) : Host.Outcome State Fault Refusal := run (.amoMax nw d a b) (opAmoMax nw d a b) s

/-- AMO.AND (R155). -/
def opAmoAnd (nw : Bool) (d : Nat) (a : Src) (b : Src) (h : Hints) : Op :=
  amoOp nw d a b h 3 false
/-- The meaning of AMO.AND. -/
def execAmoAnd (nw : Bool) (d : Nat) (a : Src) (b : Src) (s : State) : Host.Outcome State Fault Refusal := run (.amoAnd nw d a b) (opAmoAnd nw d a b) s

/-- AMO.OR (R155). -/
def opAmoOr (nw : Bool) (d : Nat) (a : Src) (b : Src) (h : Hints) : Op :=
  amoOp nw d a b h 4 false
/-- The meaning of AMO.OR. -/
def execAmoOr (nw : Bool) (d : Nat) (a : Src) (b : Src) (s : State) : Host.Outcome State Fault Refusal := run (.amoOr nw d a b) (opAmoOr nw d a b) s

/-- AMO.XOR (R155). -/
def opAmoXor (nw : Bool) (d : Nat) (a : Src) (b : Src) (h : Hints) : Op :=
  amoOp nw d a b h 5 false
/-- The meaning of AMO.XOR. -/
def execAmoXor (nw : Bool) (d : Nat) (a : Src) (b : Src) (s : State) : Host.Outcome State Fault Refusal := run (.amoXor nw d a b) (opAmoXor nw d a b) s

/-- AMO.XCHG (R155). -/
def opAmoXchg (nw : Bool) (d : Nat) (a : Src) (b : Src) (h : Hints) : Op :=
  amoOp nw d a b h 6 false
/-- The meaning of AMO.XCHG. -/
def execAmoXchg (nw : Bool) (d : Nat) (a : Src) (b : Src) (s : State) : Host.Outcome State Fault Refusal := run (.amoXchg nw d a b) (opAmoXchg nw d a b) s

/-- AMO.CAS (R155). -/
def opAmoCas (nw : Bool) (d : Nat) (a : Src) (b : Src) (h : Hints) : Op :=
  amoOp nw d a b h 7 false
/-- The meaning of AMO.CAS. -/
def execAmoCas (nw : Bool) (d : Nat) (a : Src) (b : Src) (s : State) : Host.Outcome State Fault Refusal := run (.amoCas nw d a b) (opAmoCas nw d a b) s

/-- AMO.FADD (R155). -/
def opAmoFadd (nw : Bool) (d : Nat) (a : Src) (b : Src) (h : Hints) : Op :=
  amoOp nw d a b h 8 false
/-- The meaning of AMO.FADD. -/
def execAmoFadd (nw : Bool) (d : Nat) (a : Src) (b : Src) (s : State) : Host.Outcome State Fault Refusal := run (.amoFadd nw d a b) (opAmoFadd nw d a b) s

/-- AMO.BFADD2 (R155). -/
def opAmoBfadd2 (nw : Bool) (d : Nat) (a : Src) (b : Src) (h : Hints) : Op :=
  amoOp nw d a b h 9 false
/-- The meaning of AMO.BFADD2. -/
def execAmoBfadd2 (nw : Bool) (d : Nat) (a : Src) (b : Src) (s : State) : Host.Outcome State Fault Refusal := run (.amoBfadd2 nw d a b) (opAmoBfadd2 nw d a b) s

/-- AMO.MINU (R155). -/
def opAmoMinu (nw : Bool) (d : Nat) (a : Src) (b : Src) (h : Hints) : Op :=
  amoOp nw d a b h 10 false
/-- The meaning of AMO.MINU. -/
def execAmoMinu (nw : Bool) (d : Nat) (a : Src) (b : Src) (s : State) : Host.Outcome State Fault Refusal := run (.amoMinu nw d a b) (opAmoMinu nw d a b) s

/-- AMO.MAXU (R155). -/
def opAmoMaxu (nw : Bool) (d : Nat) (a : Src) (b : Src) (h : Hints) : Op :=
  amoOp nw d a b h 11 false
/-- The meaning of AMO.MAXU. -/
def execAmoMaxu (nw : Bool) (d : Nat) (a : Src) (b : Src) (s : State) : Host.Outcome State Fault Refusal := run (.amoMaxu nw d a b) (opAmoMaxu nw d a b) s

/-- AMOX.ADD (R155). -/
def opAmoxAdd (nw : Bool) (d : Nat) (a : Src) (b : Src) (h : Hints) : Op :=
  amoOp nw d a b h 0 true
/-- The meaning of AMOX.ADD. -/
def execAmoxAdd (nw : Bool) (d : Nat) (a : Src) (b : Src) (s : State) : Host.Outcome State Fault Refusal := run (.amoxAdd nw d a b) (opAmoxAdd nw d a b) s

/-- AMOX.CAS (R155). -/
def opAmoxCas (nw : Bool) (d : Nat) (a : Src) (b : Src) (h : Hints) : Op :=
  amoOp nw d a b h 7 true
/-- The meaning of AMOX.CAS. -/
def execAmoxCas (nw : Bool) (d : Nat) (a : Src) (b : Src) (s : State) : Host.Outcome State Fault Refusal := run (.amoxCas nw d a b) (opAmoxCas nw d a b) s

/-- AMOX.XCHG (R155). -/
def opAmoxXchg (nw : Bool) (d : Nat) (a : Src) (b : Src) (h : Hints) : Op :=
  amoOp nw d a b h 6 true
/-- The meaning of AMOX.XCHG. -/
def execAmoxXchg (nw : Bool) (d : Nat) (a : Src) (b : Src) (s : State) : Host.Outcome State Fault Refusal := run (.amoxXchg nw d a b) (opAmoxXchg nw d a b) s

/-- AMOX.FADD (R155). -/
def opAmoxFadd (nw : Bool) (d : Nat) (a : Src) (b : Src) (h : Hints) : Op :=
  amoOp nw d a b h 8 true
/-- The meaning of AMOX.FADD. -/
def execAmoxFadd (nw : Bool) (d : Nat) (a : Src) (b : Src) (s : State) : Host.Outcome State Fault Refusal := run (.amoxFadd nw d a b) (opAmoxFadd nw d a b) s

end Sys2Proof.Machine
end

