-- ==== Sys2Proof/Machine/Sync.lean ====
section
/-! DEFINITION. FENCE and the barriers of crews and groups (R157, R159, R160): major 0x2F without FENCEX. -/

namespace Sys2Proof.Machine

/-! ## FENCE (R157, R230) -/

/-- FENCE (R157, R230). With no HX.EXT it is fence.sc.crew. -/
def opFence (h : Hints) : Op :=
  { form := { ext := mOrder ||| mScope, extBad := fun x => extOrder x == 0, sync := true }
    ready := fun s e => extOrder h.x == 1 || s.performedAt e.gk e.lanes (h.scopeOr 1)
    body :=
      if extOrder h.x = 1 then perLane fun _ _ => .done {}
      else release (fun _ _ => 0) fun s _ _ => (s, .done {}) }
/-- The meaning of FENCE. -/
def execFence (s : State) : Host.Outcome State Fault Refusal := run .fence opFence s

/-! ## Crew and group barriers (R159, R160) -/

/-- Every thread of some gangs has arrived, the arriving lanes of one gang counted in. -/
def allArrived (gs : List (Nat × Gang)) (gk : Nat) (lanes : List Nat) (arrived : Thread → Bool) : Bool :=
  gs.all fun p => (List.range 32).all fun l => arrived (p.2.th l) || (p.1 == gk && lanes.contains l)

/-- A lane that waited at an instance of its crew's barrier. -/
def Env.barInst (e : Env) : Option Nat :=
  match e.why with
  | some (.barrier n) => some n
  | _ => none

/-- The lanes of one gang arrive at the crew barrier. -/
def barBody : Body := fun s e =>
  match (if e.g.hslot.isSome then none else s.crewOf e.g) with
  | none => (s, e.lanes.map fun l => (l, .done {}))
  | some c =>
    let passed := match e.barInst with
      | some n => decide (n < c.bar)
      | none => false
    if passed then (s, e.lanes.map fun l => (l, .done {}))
    else if allArrived (s.gangsOf e.g.crew) e.gk e.lanes fun t => t.arrived c.bar then
      (s.passBar e.g.crew c.bar, e.lanes.map fun l => (l, .done {}))
    else (s, e.lanes.map fun l => (l, .wait (.barrier c.bar)))

/-- BAR (R159). A handler thread completes at once (R322). -/
def opBar (_ : Hints) : Op :=
  { form := { sCls := true, sync := true }, ready := releaseAt 1, body := barBody }
/-- The meaning of BAR. -/
def execBar (s : State) : Host.Outcome State Fault Refusal := run .bar opBar s

/-- The group that a lane names is one of its crew's groups and has the flag BARRIER. -/
def State.mayGbar (s : State) (g : Gang) (gid : Nat) : Bool :=
  match (if g.hslot.isSome then none else s.crewOf g) with
  | none => false
  | some c => c.groups.contains gid && match s.launch? c.ctx c.launch with
    | some l => ((l.groups[gid]?).map (·.barrier)).getD false
    | none => false

/-- Lanes of one gang arrive at the barrier of one group, or find that the instance at which they waited has completed. -/
def State.arriveGroup (s : State) (e : Env) (gid : Nat) (lanes : List Nat) : State × LaneOut :=
  match s.crewOf e.g with
  | none => (s, .done {})
  | some c =>
    match s.launch? c.ctx c.launch with
    | none => (s, .done {})
    | some l =>
      let inst := l.gbar.at_ 0 gid
      let passed := match e.why with
        | some (.group g n) => g == gid && decide (n < inst)
        | _ => false
      if passed then (s, .done {})
      else if s.groupStarted l gid && allArrived (s.groupGangs c.ctx c.launch gid) e.gk lanes fun t => t.arrivedGroup gid inst then
        (s.passGroup c.ctx c.launch gid inst, .done {})
      else (s, .wait (.group gid inst))

/-- The numbers of a list without repeats, in their first order. -/
def distinct (xs : List Nat) : List Nat := xs.foldl (fun acc x => if acc.contains x then acc else acc ++ [x]) []

/-- The lanes of one gang arrive at the barriers of the groups that they name. -/
def gbarBody : Body := fun s e =>
  let gid := fun (l : Nat) => bitsAt (e.val l 0).toNat 0 8
  let good := e.lanes.filter fun l => s.mayGbar e.g (gid l)
  let r := (distinct (good.map gid)).foldl (fun (acc : State × List (Nat × LaneOut)) n =>
    let o := acc.1.arriveGroup e n (good.filter fun l => gid l == n)
    (o.1, acc.2 ++ [(n, o.2)])) (s, [])
  (r.1, e.lanes.map fun l =>
    if s.mayGbar e.g (gid l) then (l, ((r.2.find? fun p => p.1 == gid l).map (·.2)).getD (.done {}))
    else (l, .fault ⟨cIllegalOperand, 9, 0⟩))

/-- GBAR (R160). -/
def opGbar (a : Src) (_ : Hints) : Op :=
  { form := { sCls := true, srcs := [.src a .u], sync := true }, ready := releaseAt 2, body := gbarBody }
/-- The meaning of GBAR. -/
def execGbar (a : Src) (s : State) : Host.Outcome State Fault Refusal := run (.gbar a) (opGbar a) s

end Sys2Proof.Machine
end

