-- ==== Sys2Proof/Machine/Launch.lean ====
section
/-! DEFINITION. LAUNCH (R220, R286 to R290): the launch record, its checks, the launch it makes. -/

namespace Sys2Proof.Machine

/-! ## Reading the record (R220, R286) -/

/-- `n` granules of a launch record read by a lane, as a load would read them (R220). -/
def State.readGranules (s : State) (e : Env) (l : Nat) (va : DWord) : Nat → State × Except LaneOut (List Byte)
  | 0 => (s, .ok [])
  | n + 1 =>
    match s.globalLoc e.gk e.g l va { width := 16, acc := .read } with
    | (s, .flt f) => (s, .error (.fault f))
    | (s, .wait w) => (s, .error (.wait w))
    | (s, .found pa leaf) =>
      match s.gate e l pa leaf va none true false false with
      | some o => (s, .error o)
      | none =>
        let (s, b) := s.bytesAt (s.viewFor e.g) pa 16
        let s := s.recordAccess e.gk e.iv (s.home pa / 16) (covered pa leaf) false false none
        match (s.cacheAccess e.g.core e.g.ctx pa leaf 0 false).readGranules e l (va + 16) n with
        | (s, .ok rest) => (s, .ok (b ++ rest))
        | r => r

/-- The number that a part of a record holds. -/
def partNum (b : List Byte) (off n : Nat) : Nat := natOfBytes ((b.drop off).take n)

/-! ## The header (R286) -/

/-- The counts of a launch header. -/
structure Counts where
  stages : Nat
  groups : Nat
  stagings : Nat
  members : Nat
  deriving DecidableEq, Repr

/-- The counts that a header gives. -/
def countsOf (h : Nat) : Counts := ⟨bitsAt h 192 8, bitsAt h 208 16, bitsAt h 224 8, bitsAt h 240 16⟩

/-- The size of a record by its counts. -/
def Counts.size (c : Counts) : Nat := 128 + 128 * c.stages + 16 * c.groups + 32 * c.stagings + (2 * c.members + 15) / 16 * 16

/-- LEN of a header. -/
def headLen (h : Nat) : Nat := bitsAt h 160 32

/-- A header field that R286 excludes: reason 0x01. -/
def badHeader (h : Nat) : Bool :=
  let c := countsOf h
  let csend := h.testBit 352
  let cep := dword (bitsAt h 256 64)
  bitsAt h 1016 8 != 1 || bitsAt h 354 662 != 0 || bitsAt h 232 8 != 0 || bitsAt h 200 8 != 0
    || decide (4096 < c.members) || decide (128 < c.stagings) || decide (256 < c.groups)
    || headLen h != c.size || bitsAt h 64 64 % 8 != 0 || (if csend then !epValid cep else cep != 0)

/-- The lowest reason for which a header is rejected (R220). -/
def State.headReason (s : State) (ctx stream h : Nat) : Option Nat :=
  let n := (countsOf h).stages
  minSubs [
    if badHeader h then some 1 else none,
    if n = 0 ∨ 16 < n then some 2 else none,
    if 63 < stream then some 7 else none,
    if 64 ≤ (s.launches.filter fun l => l.ctx == ctx && l.stream == stream).length then some 9 else none]

/-! ## Stages, staging entries and groups (R287 to R289) -/

/-- A stage record. -/
def stageOf (x : Nat) : Stage where
  entry := word (bitsAt x 0 32)
  ncrew := bitsAt x 32 16
  gangs := bitsAt x 48 8
  cores := bitsAt x 56 3
  repl := x.testBit 59
  regs := bitsAt x 64 8
  kregs := bitsAt x 72 8
  wblk := bitsAt x 80 16
  log4k := bitsAt x 96 8
  prio := bitsAt x 104 3
  fpen := bitsAt x 107 5
  oscope := bitsAt x 112 3
  nstg := bitsAt x 116 4
  stg := bitsAt x 120 8
  inq := dword (bitsAt x 128 64)
  outqs := (List.range 4).map fun i => dword (bitsAt x (192 + 64 * i) 64)

/-- A reserved field of a stage record, or a field outside its range: reason 0x01. -/
def badStage (x : Nat) : Bool :=
  let t := stageOf x
  bitsAt x 448 576 != 0 || x.testBit 115 || bitsAt x 60 4 != 0 || decide (t.oscope < 3) || decide (6 < t.oscope)
    || (if t.repl then t.log4k == 0 || decide (64 < t.log4k) else t.log4k != 0)
    || t.ncrew == 0 || decide (4096 < t.ncrew) || t.regs == 0 || decide (128 < t.regs) || t.kregs == 0 || decide (96 < t.kregs)

/-- A crew shape that R287 excludes: reason 0x03. -/
def Stage.badShape (t : Stage) : Bool :=
  t.gangs == 0 || decide (128 < t.gangs) || t.cores == 0 || decide (4 < t.cores)
    || decide (Config.gangSlots < (t.gangs + t.cores - 1) / max t.cores 1) || t.wblk == 0 || t.wblk % max t.cores 1 != 0

/-- Blocks of a commit log (R296). -/
def Stage.logBlocks (t : Stage) : Nat := (t.log4k + 15) / 16

/-- Blocks of a window portion on one core (R257). -/
def Stage.portion (t : Stage) : Nat := t.wblk / max t.cores 1

/-- A window that can never fit beside Q queue blocks: reason 0x04. -/
def Stage.tooWide (t : Stage) (q : Nat) : Bool := decide (104 - q < t.portion + t.logBlocks)

/-- The cores of a tenancy's dies. -/
def State.tenancyCores (s : State) (ten : Nat) : List Nat := (List.range Config.cores).filter fun c => (s.ten ten).dies.testBit (dieOf c)

/-- The smallest QBLK among the cores of a context's tenancy. -/
def State.leastQblk (s : State) (ctx : Nat) : Nat := lowest ((s.tenancyCores (s.ctx ctx).tenancy).map fun c => (s.core c).qblk)

/-- A staging entry. -/
def stagingOf (x : Nat) : Staging := ⟨x.testBit 160, word (bitsAt x 128 32), bitsAt x 96 32, bitsAt x 64 32, dword (bitsAt x 0 64)⟩

/-- A staging entry that R288 excludes whatever its window: reason 0x06. -/
def Staging.bad (t : Staging) : Bool :=
  t.woff % 16 != 0 || decide (t.woff < 0x1040) || t.len == 0 || t.len % 16 != 0 || t.src.toNat % 16 != 0 || t.stride.toNat % 16 != 0

/-- A descriptor VA that lies on a tier-2 page (R292). -/
def State.onTier2 (s : State) (ctx : Nat) (va : DWord) : Bool :=
  match s.walk ctx va.toNat with
  | .leaf _ _ _ x => leafTier x == 2
  | .remote _ _ x => leafTier x == 2
  | _ => false

/-- The queues and staging entries of a stage: reason 0x06. -/
def State.badQueues (s : State) (ctx : Nat) (stagings : List Staging) (t : Stage) : Bool :=
  let mine := (stagings.drop t.stg).take t.nstg
  t.inq.toNat % 64 != 0 || t.outqs.any (fun q => q.toNat % 64 != 0) || (t.inq != 0 && s.onTier2 ctx t.inq)
    || decide (8 < t.nstg) || decide (stagings.length < t.stg + t.nstg)
    || mine.any fun x => decide (t.wblk * 0x10000 < x.woff + x.len)

/-- A group entry of members. -/
def groupOf (x : Nat) (members : List (Nat × Nat)) : Group :=
  ⟨x.testBit 34, x.testBit 33, x.testBit 32, (members.drop (bitsAt x 0 16)).take (bitsAt x 16 16)⟩

/-- The group is a cluster (R33). -/
def Group.cluster (g : Group) : Bool := g.cohab && g.join

/-- A group entry that R289 excludes by itself: reason 0x05. -/
def badGroup (x total : Nat) (stages : List Stage) (g : Group) : Bool :=
  let n := bitsAt x 16 16
  let shape := g.members.map fun m => (stages[m.1]?).map fun t => (t.cores, t.wblk)
  n == 0 || decide (4096 < n) || decide (total < bitsAt x 0 16 + n)
    || g.members.any (fun m => match stages[m.1]? with | some t => decide (t.ncrew ≤ m.2) | none => true)
    || !decide g.members.Nodup
    || (g.join && !g.cohab) || (g.barrier && !g.cohab) || (g.cohab && decide (16 < g.members.length))
    || (g.join && (shape.any fun p => p != shape.headD none))
    || (g.join && g.members.any fun m => match stages[m.1]? with | some t => decide (256 < t.wblk) | none => false)

/-- A crew in more than four groups or in two clusters: reason 0x05. -/
def badMembership (gs : List Group) : Bool :=
  (gs.flatMap fun g => g.members).any fun m =>
    let mine := gs.filter fun g => g.members.contains m
    decide (4 < mine.length) || decide (1 < (mine.filter Group.cluster).length)

/-! ## The whole record -/

/-- The parts of a record behind its header, as numbers and as what they mean. -/
structure Parts where
  stageNums : List Nat
  groupNums : List Nat
  stagingNums : List Nat
  stages : List Stage
  groups : List Group
  stagings : List Staging

/-- The parts of a record, from the bytes behind the header. -/
def partsOf (c : Counts) (b : List Byte) : Parts :=
  let go := 128 * c.stages
  let so := go + 16 * c.groups
  let mo := so + 32 * c.stagings
  let st := (List.range c.stages).map fun i => partNum b (128 * i) 128
  let gr := (List.range c.groups).map fun i => partNum b (go + 16 * i) 16
  let sg := (List.range c.stagings).map fun i => partNum b (so + 32 * i) 32
  let members := (List.range c.members).map fun i =>
    let x := partNum b (mo + 2 * i) 2
    (x / 4096, x % 4096)
  ⟨st, gr, sg, st.map stageOf, gr.map fun x => groupOf x members, sg.map stagingOf⟩

/-- The lowest reason for which the rest of a record is rejected (R220, R287 to R289). -/
def State.restReason (s : State) (ctx h : Nat) (p : Parts) : Option Nat :=
  let q := s.leastQblk ctx
  let rangeClash := bitsAt h 128 32 != 0 && ((p.stages.head?).map fun t => t.inq != 0).getD false
  minSubs [
    if p.stageNums.any badStage || p.groupNums.any (fun x => bitsAt x 35 93 != 0) || p.stagingNums.any (fun x => bitsAt x 161 95 != 0)
      then some 1 else none,
    if p.stages.any Stage.badShape then some 3 else none,
    if p.stages.any (fun t => t.tooWide q) then some 4 else none,
    if ((p.groupNums.zip p.groups).any fun g => badGroup g.1 (countsOf h).members p.stages g.2) || badMembership p.groups then some 5 else none,
    if rangeClash || p.stagings.any Staging.bad || p.stages.any (fun t => s.badQueues ctx p.stagings t) then some 6 else none,
    if p.stages.any (fun t => t.entry.toNat % 4 != 0) then some 8 else none]

/-- The launch that a record describes, with the next launch serial of its context (R290). -/
def newLaunch (ctx serial stream level : Nat) (ov : Bool) (h : Nat) (p : Parts) : Launch where
  ctx := ctx
  serial := serial
  stream := stream
  ov := ov
  level := level
  started := ov
  hold := h.testBit 353
  csend := h.testBit 352
  cop := word (bitsAt h 320 32)
  cep := dword (bitsAt h 256 64)
  compl := dword (bitsAt h 64 64)
  arg := dword (bitsAt h 0 64)
  range := bitsAt h 128 32
  taken := 0
  stages := p.stages
  groups := p.groups
  stagings := p.stagings
  nextTask := 0
  busy := []
  retired := []
  reruns := []
  gbar := []
  watch := []
  conts := []
  records := []

/-- The result of a rejected launch. -/
def rejected (reason : Nat) : LaneOut := .done { ws := [word (0x80000000 + reason)] }

/-- A launch accepted: it takes the context's next serial, and bits [30:0] of it are the result. -/
def State.acceptLaunch (s : State) (ctx stream level : Nat) (ov : Bool) (h : Nat) (p : Parts) : State × LaneOut :=
  let n := (s.ctx ctx).nextLaunch
  ({ s with launches := s.launches ++ [newLaunch ctx n stream level ov h p] }.mapCtx ctx fun c => { c with nextLaunch := n + 1 },
    .done { ws := [word (n % 2 ^ 31)] })

/-- LAUNCH of one lane: header, then the rest (R220). -/
def launchLane (s : State) (e : Env) (l : Nat) : State × LaneOut :=
  let va := e.pair l 0
  let stream := (e.val l 2).toNat
  if 2 ^ 55 ≤ va.toNat then (s, .fault ⟨cXlatePerm, 0x10, va⟩)
  else if va.toNat % 128 ≠ 0 then (s, .fault ⟨cAlign, 1, va⟩)
  else
    match s.readGranules e l va 8 with
    | (s, .error o) => (s, o)
    | (s, .ok b) =>
      let h := natOfBytes b
      match s.headReason e.g.ctx stream h with
      | some n => (s, rejected n)
      | none =>
        match s.readGranules e l (va + 128) ((headLen h - 128) / 16) with
        | (s, .error o) => (s, o)
        | (s, .ok b) =>
          let p := partsOf (countsOf h) b
          match s.restReason e.g.ctx h p with
          | some n => (s, rejected n)
          | none => s.acceptLaunch e.g.ctx stream e.g.level (extOv e.x) h p

/-- The lanes launch, the task being pinned first (R299): where its commit has to wait for a queue, the lanes wait. -/
def launchBody : Body := fun s e =>
  match s.pin e.g with
  | .error pa => (s, e.lanes.map fun l => (l, .wait (.queue pa)))
  | .ok t => release (fun e l => e.pair l 0) launchLane t e

/-- An access of a lane waits for a page in transit. -/
def LaneOut.inTransit : LaneOut → Bool
  | .wait .access _ => true
  | .wait (.pageInTransit _) _ => true
  | _ => false

/-- The pages of a launch record asked for while the gang's issue waits for them. -/
def State.askRecord (s : State) (e : Env) (l : Nat) : State :=
  let va := e.pair l 0
  if 2 ^ 55 ≤ va.toNat ∨ va.toNat % 128 ≠ 0 then s
  else
    match s.translatePage e.g.core e.g.ctx (va.toNat / 2 ^ 19) .read with
    | (s, .ok x) =>
      let n := headLen (readNum s.mem (s.home (leafPa x va.toNat)) 128)
      (s.translatePage e.g.core e.g.ctx ((va.toNat + min n (2 ^ 19) - 1) / 2 ^ 19) .read).1
    | r => r.1

/-- Every lane's record can be read (R202, R220). -/
def launchReady (s : State) (e : Env) : Bool := releaseAt 4 s e && !(launchBody s e).2.any fun p => p.2.inTransit

/-- LAUNCH (R220). -/
def opLaunch (nw : Bool) (d : Nat) (a : Src) (b : Src) (_ : Hints) : Op :=
  { form := { rbCls := true, srcs := [.pair a, .src b .u], dst := .v d, nw := nw, bad3 := nw && d != 0, ext := mOv, sync := true }
    ready := launchReady
    stall := fun s e => e.lanes.foldl (fun s l => s.askRecord e l) s
    body := launchBody }
/-- The meaning of LAUNCH. -/
def execLaunch (nw : Bool) (d : Nat) (a : Src) (b : Src) (s : State) : Host.Outcome State Fault Refusal := run (.launch nw d a b) (opLaunch nw d a b) s

end Sys2Proof.Machine
end

