-- ==== Sys2Proof/Machine/Ring.lean ====
section
/-! DEFINITION. Command rings and buffer handles (R169 to R190, R193): entry fields, tile records, the checks of an entry, publication and acceptance, handle transitions, freezing, resuming and killing of commands. -/

namespace Sys2Proof.Machine

/-! ## Fields of an entry (R175, R182, R183) -/

/-- Bits of a 32-byte image. -/
def fld (x : BitVec 256) (lo w : Nat) : Nat := bitsAt x.toNat lo w

def cmdOp (x : BitVec 256) : Nat := fld x 0 8
def cmdDh (x : BitVec 256) : Nat := fld x 8 8
def cmdSh (x : BitVec 256) : Nat := fld x 16 8
def cmdCnt (x : BitVec 256) : Bool := x.toNat.testBit 24
def cmdScope (x : BitVec 256) : Nat := fld x 25 3
def cmdFs (x : BitVec 256) : Bool := x.toNat.testBit 28
def cmdSend (x : BitVec 256) : Bool := x.toNat.testBit 29
def cmdSv (x : BitVec 256) : Bool := x.toNat.testBit 30
def cmdDv (x : BitVec 256) : Bool := x.toNat.testBit 31
def cmdSrc (x : BitVec 256) : DWord := dword (fld x 32 64)
def cmdDst (x : BitVec 256) : DWord := dword (fld x 96 64)
def cmdLen (x : BitVec 256) : Nat := fld x 160 32
def cmdTrec (x : BitVec 256) : Nat := fld x 192 16
def cmdMask (x : BitVec 256) : Nat := fld x 208 16
def cmdBrec (x : BitVec 256) : Nat := fld x 224 16
def cmdAccrec (x : BitVec 256) : Nat := fld x 240 16

/-- The operation works on lines (COPY2D, COPYMMA). -/
def cmdLined (x : BitVec 256) : Bool := cmdOp x == 2 || cmdOp x == 4
def cmdLines (x : BitVec 256) : Nat := fld x 176 16
def cmdLineBytes (x : BitVec 256) : Nat := fld x 160 16
/-- Bytes between the source lines of COPY2D and COPYMMA. -/
def cmdPitch (x : BitVec 256) : Nat := if cmdMask x = 0 then cmdLineBytes x else 16 * cmdMask x
/-- Bytes that a copy moves. -/
def cmdBytes (x : BitVec 256) : Nat := if cmdLined x then cmdLines x * cmdLineBytes x else cmdLen x
/-- Bytes from the first to the last that a copy reads. -/
def cmdReach (x : BitVec 256) : Nat :=
  if cmdLined x then (if cmdLines x = 0 then 0 else (cmdLines x - 1) * cmdPitch x + cmdLineBytes x) else cmdLen x

/-- The engine of an op: 0 copy, 1 gather, 2 network, 3 collective (R173). -/
def engineOf (op : Nat) : Option Nat :=
  if op = 1 ∨ op = 2 ∨ op = 3 ∨ op = 4 ∨ op = 7 then some 0
  else if op = 0x10 ∨ op = 0x11 ∨ op = 0x12 then some 1
  else if op = 0x20 ∨ op = 0x21 then some 2
  else if op = 0x30 ∨ op = 0x31 ∨ op = 0x32 ∨ op = 0x33 then some 3
  else none

/-! ## Tile records (R190 to R193) -/

def tileBase (r : BitVec 256) : DWord := dword (fld r 0 64)
def tileRows (r : BitVec 256) : Nat := fld r 64 16
def tileCols (r : BitVec 256) : Nat := fld r 80 16
def tileFmt (r : BitVec 256) : Nat := fld r 96 5
def tileP (r : BitVec 256) : Nat := fld r 104 5
def tilePdecl (r : BitVec 256) : Nat := fld r 112 5
def tileRole (r : BitVec 256) : Nat := fld r 120 2
def tileKind (r : BitVec 256) : Nat := fld r 122 2
def tileAccf (r : BitVec 256) : Nat := fld r 124 2
def tileLayout (r : BitVec 256) : Nat := fld r 126 2
def tilePitch (r : BitVec 256) : Nat := fld r 128 16
def tileStride (r : BitVec 256) : Nat := fld r 160 32

/-- Lines of a PLANES tile, and its extent along k. -/
def tileLines (r : BitVec 256) : Nat := if tileRole r = 0 then tileRows r else tileCols r
def tileK (r : BitVec 256) : Nat := if tileRole r = 0 then tileCols r else tileRows r
/-- Blocks of a PLANES tile. -/
def tileBlocks (r : BitVec 256) : Nat := tileLines r / 32 * (tileK r / 64)
/-- Bytes of one block: planes and metadata (R80). -/
def blockSize (r : BitVec 256) : Nat := 256 * (tileP r + 1)
/-- Bytes from BASE to the end of the last block. -/
def tileSpan (r : BitVec 256) : Nat := 16 * tilePitch r * (tileBlocks r - 1) + blockSize r

/-- The VA of the crew record of a crew (R193). -/
def State.crewRecVa (s : State) (c : Crew) : DWord :=
  (s.basesOn c.homeCore c.ctx).reg + dword (0x40B00000 + (64 * c.homeCore + c.ring) * 0x1000)

/-- The reserved bits of a tile record read as zero, whatever was stored there (R6). -/
def tileKept : Nat := 2 ^ 192 - 1 - (2 ^ 160 - 2 ^ 144) - (2 ^ 120 - 2 ^ 117) - (2 ^ 112 - 2 ^ 109) - (2 ^ 104 - 2 ^ 101)

/-- A tile record of a crew that no gang has set anew: in the record cache, or in the crew record. A record that is not listed is invalid. -/
def State.tileNow (s : State) (c : Crew) (n : Nat) : TileRec :=
  let t := c.tiles.at_ ⟨0, false, true⟩ n
  if t.cached then t
  else
    let va := s.crewRecVa c
    let valid := (natOfBytes (s.readImage c.ctx (va + 0x800) 8)).testBit n
    ⟨BitVec.ofNat 256 (natOfBytes (s.readImage c.ctx (va + dword (32 * n)) 32) &&& tileKept), valid, true⟩

/-- A tile record as a gang sees it: what the gang itself has set comes before what it still sees of old, and that before what its crew holds (R192). -/
def State.tileSeen (s : State) (c : Crew) (crew gk n : Nat) : TileRec :=
  match s.gang? gk with
  | none => s.tileNow c n
  | some g =>
    if g.crew == crew && g.hslot.isNone then ((g.tiles.find? n).orElse fun _ => g.oldTiles.find? n).getD (s.tileNow c n) else s.tileNow c n

/-- The valid mask of a crew record (R193). -/
def State.tileMask (s : State) (c : Crew) : Nat :=
  let old := natOfBytes (s.readImage c.ctx (s.crewRecVa c + 0x800) 8)
  c.tiles.foldl (fun m p =>
    if p.1 < 64 then withBits m p.1 1 (if p.2.cached then (if p.2.valid then 1 else 0) else bitsAt old p.1 1) else m) 0

/-- A tile record leaves the record cache: its image is written to the crew record, and the valid mask (R193). -/
def State.evictTile (s : State) (crew n : Nat) : State :=
  match s.crew? crew with
  | none => s
  | some c =>
    match c.tiles.find? n with
    | none => s
    | some t =>
      if !t.cached || 64 ≤ n then s
      else
        let va := s.crewRecVa c
        let mask := s.tileMask c
        let s := s.writeImage c.ctx (va + dword (32 * n)) (bytesOf 32 t.img.toNat)
        let s := s.writeImage c.ctx (va + 0x800) (bytesOf 8 mask)
        s.mapCrew crew fun c => { c with tiles := c.tiles.put n { t with cached := false } }

/-- The records that the cache of a core holds, each under its crew (R190). -/
def State.tilesOn (s : State) (core : Nat) : List (Nat × Nat) :=
  s.crews.flatMap fun p => if p.2.homeCore == core then (p.2.tiles.filter fun t => t.2.cached).map fun t => (p.1, t.1) else []

/-- A record comes into the cache of its core, and another leaves it where the cache is full (R190). Which one is the device's choice. -/
def State.cacheTile (s : State) (crew n : Nat) (t : TileRec) : State :=
  match s.crew? crew with
  | none => s
  | some c =>
    let s := s.mapCrew crew fun c => { c with tiles := c.tiles.put n { t with cached := true } }
    let held := s.tilesOn c.homeCore
    if held.length ≤ Config.tileCache then s
    else
      let may := held.filter (· != (crew, n))
      match may[Config.victimLine s.free % may.length]? with
      | none => s
      | some x => { s with free := s.free + 1 }.evictTile x.1 x.2

/-- A record is read by a gang, or for it: an evicted one comes back into the record cache. -/
def State.useTile (s : State) (crew gk n : Nat) : State × TileRec :=
  match s.crew? crew with
  | none => (s, ⟨0, false, true⟩)
  | some c =>
    let t := s.tileSeen c crew gk n
    (if (c.tiles.at_ ⟨0, false, true⟩ n).cached then s else (s.touchPage c.ctx (s.crewRecVa c + dword (32 * n)) 32 .read).cacheTile crew n (s.tileNow c n), t)

/-- A gang sets a record (R191): the gang itself sees it from now on, the other gangs of its crew once it has been ordered (R192). -/
def State.setTile (s : State) (crew gk n : Nat) (r : BitVec 256) : State :=
  let s := match s.crew? crew with
    | some c => if (c.tiles.find? n).isSome then s else s.cacheTile crew n (s.tileNow c n)
    | none => s
  s.mapGang gk fun g => { g with tiles := g.tiles.put n ⟨r, true, true⟩ }

/-- A record of a crew is about to change: the other gangs of the crew go on seeing it as it is (R192). -/
def State.keepOld (s : State) (crew gk n : Nat) (old : TileRec) : State :=
  { s with gangs := s.gangs.map fun p =>
      if p.1 != gk && p.2.crew == crew && p.2.hslot.isNone && (p.2.oldTiles.find? n).isNone then (p.1, { p.2 with oldTiles := p.2.oldTiles.put n old }) else p }

/-- One record that a gang has set becomes its crew's. -/
def State.mergeTile (s : State) (crew gk : Nat) (t : Nat × TileRec) : State :=
  match s.crew? crew with
  | none => s
  | some c => (s.keepOld crew gk t.1 (s.tileNow c t.1)).cacheTile crew t.1 t.2

/-- What a gang has set becomes its crew's: at its FENCEX with TL in the before mask, and where the gang ends or is switched out (R192, R193). Another gang sees it from its own next synchronising operation on. Log entry 105. -/
def State.mergeTiles (s : State) (gk : Nat) : State :=
  match s.gang? gk with
  | none => s
  | some g =>
    if g.tiles.isEmpty then s
    else (g.tiles.foldl (fun (s : State) t => s.mergeTile g.crew gk t) s).mapGang gk fun g => { g with tiles := [] }

/-- Records of a crew become invalid (R191): record n, or every one, at once and for every gang of the crew (DESIGN CHOICE, log entry 126: R192 speaks of TLR.SET alone). -/
def State.dropTiles (s : State) (crew : Nat) (n : Option Nat) : State :=
  let keep := fun (t : Tbl TileRec) => match n with | some n => t.drop n | none => []
  let s := s.mapCrew crew fun c => { c with tiles := keep c.tiles }
  { s with gangs := s.gangs.map fun p => if p.2.crew == crew && p.2.hslot.isNone then (p.1, { p.2 with tiles := keep p.2.tiles, oldTiles := keep p.2.oldTiles }) else p }

/-- The image of a valid record; none where the number names no valid record. -/
def State.validTile (s : State) (crew gk n : Nat) : State × Option (BitVec 256) :=
  if 64 ≤ n then (s, none)
  else
    let r := s.useTile crew gk n
    (r.1, if r.2.valid then some r.2.img else none)

/-- The records that an entry names: TREC, BREC, ACCREC. -/
structure Recs where
  t : Option (BitVec 256)
  b : Option (BitVec 256)
  c : Option (BitVec 256)
  deriving DecidableEq, Repr

/-- The records of a copy entry, read whole, as the gang that publishes it sees them (R192). -/
def State.readRecs (s : State) (crew gk : Nat) (x : BitVec 256) : State × Recs :=
  if engineOf (cmdOp x) ≠ some 0 then (s, ⟨none, none, none⟩)
  else
    let t := s.validTile crew gk (cmdTrec x)
    if cmdOp x ≠ 4 then (t.1, ⟨t.2, none, none⟩)
    else
      let b := t.1.validTile crew gk (cmdBrec x)
      let c := b.1.validTile crew gk (cmdAccrec x)
      (c.1, ⟨t.2, b.2, c.2⟩)

/-! ## Vault addresses of engines (R31, R33, R176) -/

/-- The physical address of a byte that a vault address of a crew names. -/
def State.vaultByte (s : State) (c : Crew) (va : Nat) : Option Nat :=
  match s.vaultLoc (some c) (dword va) 1 with
  | .found pa _ => some pa
  | _ => none

/-- A range of vault addresses lies in the window that its first address names. -/
def State.vaultRangeOk (s : State) (c : Crew) (va n : Nat) : Bool :=
  n == 0 || ((s.vaultByte c va).isSome && (s.vaultByte c (va + n - 1)).isSome && va / 2 ^ 24 * 2 ^ 24 + (if va.testBit 31 then 2 ^ 24 else 2 ^ 28) ≥ va + n)

/-! ## The checks of an entry (R176, R182, R183, R366) -/

/-- A handle of a core. -/
def State.handle (s : State) (core h : Nat) : Handle := (s.core core).handles.at_ Handle.reset h
/-- A handle changed. -/
def State.mapHandle (s : State) (core h : Nat) (f : Handle → Handle) : State :=
  s.mapCore core fun c => { c with handles := c.handles.set Handle.reset h (f (c.handles.at_ Handle.reset h)) }

/-- A handle field names no handle, or one that is bound to the crew. -/
def State.handleOk (s : State) (crew : Nat) (c : Crew) (h : Nat) : Bool :=
  h == 0xFF || (decide (h < 64) && (s.handle c.homeCore h).owner == some crew)

/-- What a failing check says: the ENGINE subcode and the address. -/
abbrev Bad := Option (Nat × DWord)

/-- The first failing check. -/
def firstBad (xs : List Bad) : Bad := xs.findSome? id

/-- A check: the subcode where the condition holds. -/
def badIf (cond : Bool) (sub : Nat) (va : DWord := 0) : Bad := if cond then some (sub, va) else none

/-- A tile lies in the crew's window. -/
def State.tileInWindow (s : State) (c : Crew) (r : BitVec 256) : Bool := s.vaultRangeOk c (tileBase r).toNat (tileSpan r)

/-- Bytes of a line of a tile by an element size of the source: possible sizes. -/
def lineSizes (r : BitVec 256) : List Nat :=
  if tileLayout r = 2 then [4 * tileCols r, 2 * tileCols r]
  else
    let k := tileK r
    match tileKind r with
    | 0 => if tileP r = 4 then [k / 2] else [k]
    | 1 => if tileFmt r = 1 then [4 * k] else [2 * k]
    | _ => [k]

/-- Lines of a tile that a copy fills. -/
def tileLineCount (r : BitVec 256) : Nat := if tileLayout r = 2 then tileRows r else tileLines r

/-- The lines of a copy match its record. -/
def linesMatch (x r : BitVec 256) : Bool :=
  if cmdLined x then cmdLines x == tileLineCount r && (lineSizes r).contains (cmdLineBytes x)
  else (lineSizes r).any fun n => cmdLen x == n * tileLineCount r

/-- The size of a cluster for FILLMC. -/
def State.rankBad (s : State) (c : Crew) (mask : Nat) : Bool :=
  c.cluster.isNone || mask == 0 || decide (2 ^ s.clusterSize c ≤ mask)

/-- The checks of a copy entry (R176). A FILLMC whose DST has not the form that R176 requires takes 0x04, and a DST with DV = 1 that a PLANES record replaces is checked for its alignment alone (DESIGN CHOICE, log entry 127). -/
def State.checkCopy (s : State) (crew : Nat) (c : Crew) (x : BitVec 256) (r : Recs) : Bad :=
  let op := cmdOp x
  let named := cmdTrec x != 0xFFFF
  let planes := match r.t with | some t => named && tileLayout t == 0 | none => false
  let src := cmdSrc x
  let dst := cmdDst x
  firstBad [
    badIf (!s.handleOk crew c (cmdDh x) || !s.handleOk crew c (cmdSh x)) 3,
    badIf (cmdScope x == 7 || (cmdSend x && (op != 1 && op != 2 || cmdDv x || cmdFs x || named))
      || (named && (op == 7 || op == 3)) || (!named && op == 4)
      || (op != 4 && (cmdBrec x != 0 || cmdAccrec x != 0)) || (cmdMask x != 0 && (op == 1 || op == 7))
      || (op == 7 && fld x 64 32 != 0)
      || (op == 3 && (cmdSv x || !cmdDv x || bitsAt dst.toNat 24 8 != 0x80))) 4,
    badIf (match named, r.t with
      | true, none => true
      | true, some t => tileLayout t == 1 || (op == 4 && (tileLayout t != 0 || tileRole t != 0))
      | false, _ => false) 5,
    badIf (op == 4 && (match r.b with | some b => tileLayout b != 0 || tileRole b != 1 | none => true)) 5,
    badIf (op == 4 && (match r.c with | some a => tileLayout a != 1 | none => true)) 5,
    badIf (op != 7 && cmdSv x && !s.vaultRangeOk c src.toNat (cmdReach x)) 0x10 src,
    badIf (op == 3 && (2 ^ 32 ≤ dst.toNat || c.winSize < dst.toNat % 2 ^ 24 + cmdLen x)) 0x10 dst,
    badIf (op != 3 && !planes && !cmdSend x && cmdDv x && !s.vaultRangeOk c dst.toNat (cmdBytes x)) 0x10 dst,
    badIf ((op != 7 && src.toNat % 16 != 0) || (!cmdSend x && dst.toNat % 16 != 0)
      || (if cmdLined x then cmdLineBytes x else cmdLen x) % 16 != 0
      || (cmdLined x && cmdPitch x < cmdLineBytes x)) 0x11,
    (match planes, r.t with
      | true, some t => badIf (!s.tileInWindow c t) 0x12 (tileBase t)
      | _, _ => none),
    badIf (op == 3 && s.rankBad c (cmdMask x)) 0x13,
    (match named, r.t with
      | true, some t => badIf (!linesMatch x t) 0x14
      | _, _ => none)]

def gatRowb (x : BitVec 256) : Nat := fld x 176 16 * 16
def gatCount (x : BitVec 256) : Nat := fld x 160 16
def gatIdx (x : BitVec 256) : Nat := fld x 128 32
def gatRows (x : BitVec 256) : Nat := fld x 96 32
def gatStride (x : BitVec 256) : Nat := fld x 192 32
def gatNrows (x : BitVec 256) : Nat := fld x 224 32
/-- Bytes of an index. -/
def gatIsz (x : BitVec 256) : Nat := if x.toNat.testBit 28 then 4 else 2

/-- The checks of a gather entry (R182). A misaligned VIDX, and a STRIDE or TABLE that is not a multiple of 16, take ENGINE 0x11 (DESIGN CHOICE, log entry 119). -/
def State.checkGather (s : State) (crew : Nat) (c : Crew) (x : BitVec 256) : Bad :=
  firstBad [
    badIf (!s.handleOk crew c (cmdDh x) || !s.handleOk crew c (cmdSh x)) 3,
    badIf (fld x 29 3 != 0 || cmdScope x == 7 || gatRowb x == 0 || gatCount x == 0) 4,
    badIf (!s.vaultRangeOk c (gatIdx x) (gatCount x * gatIsz x)) 0x10 (dword (gatIdx x)),
    badIf (!s.vaultRangeOk c (gatRows x) (gatCount x * gatRowb x)) 0x10 (dword (gatRows x)),
    badIf (gatIdx x % gatIsz x != 0 || gatRows x % 16 != 0 || (cmdSrc x).toNat % 16 != 0 || gatStride x % 16 != 0) 0x11]

def netLen (x : BitVec 256) : Nat := cmdLen x
def netMsgid (x : BitVec 256) : Word := word (fld x 128 32)
def netEp (x : BitVec 256) : Nat := fld x 112 16
def netSq (x : BitVec 256) : Nat := fld x 96 16
def netRoff (x : BitVec 256) : Nat := fld x 192 64

/-- The checks of a network entry (R183). -/
def State.checkNet (s : State) (crew : Nat) (c : Crew) (x : BitVec 256) : Bad :=
  firstBad [
    badIf (!s.handleOk crew c (cmdDh x) || !s.handleOk crew c (cmdSh x)) 3,
    badIf (cmdDv x || fld x 25 5 != 0 || netLen x == 0 || 2 ^ 24 < netLen x || (cmdOp x == 0x20 && netRoff x != 0)) 4,
    badIf (cmdSv x && !s.vaultRangeOk c (cmdSrc x).toNat (netLen x)) 0x10 (cmdSrc x)]

def colEfmt (x : BitVec 256) : Nat := fld x 28 2
def colCount (x : BitVec 256) : Nat := cmdLen x
def colWin (x : BitVec 256) : DWord := cmdDst x
def colNcon (x : BitVec 256) : Nat := fld x 192 16
/-- Bytes of an element of EFMT. -/
def colUnit (x : BitVec 256) : Nat := match colEfmt x with | 0 => 4 | 3 => 1 | _ => 2
/-- Bytes at LOCAL. -/
def colLocal (x : BitVec 256) : Nat :=
  if cmdOp x = 0x33 then colCount x else if cmdOp x = 0x31 then 16 * colCount x else colUnit x * colCount x

/-- The checks of a collective entry (R183, R366). EFMT 3 with LV = 1 or with a COUNT that is no multiple of 32 takes ENGINE 0x04 (DESIGN CHOICE, log entry 118). -/
def State.checkCol (s : State) (crew : Nat) (c : Crew) (x : BitVec 256) : Bad :=
  let op := cmdOp x
  let e := colEfmt x
  firstBad [
    badIf (!s.handleOk crew c (cmdDh x) || !s.handleOk crew c (cmdSh x)) 3,
    badIf (fld x 208 48 != 0 || cmdDv x || cmdScope x == 7 || (op == 0x31 && e != 0) || (op == 0x32 && e == 2)
      || (op == 0x33 && e != 0) || (op == 0x30) != (colNcon x != 0) || (e == 3 && (cmdSv x || colCount x % 32 != 0))) 4,
    badIf (cmdSv x && !s.vaultRangeOk c (cmdSrc x).toNat (colLocal x)) 0x10 (cmdSrc x),
    badIf (if op == 0x33 then colCount x % 16 != 0 || (cmdSrc x).toNat % 16 != 0 || (colWin x).toNat % 16 != 0
      else (colWin x).toNat % 64 != 0) 0x11]

/-- The checks of an entry; ENGINE 0x02 for a reserved op. -/
def State.checkEntry (s : State) (crew : Nat) (x : BitVec 256) (r : Recs) : Bad :=
  match s.crew? crew with
  | none => some (2, 0)
  | some c =>
    match engineOf (cmdOp x) with
    | some 0 => s.checkCopy crew c x r
    | some 1 => s.checkGather crew c x
    | some 2 => s.checkNet crew c x
    | some _ => s.checkCol crew c x
    | none => some (2, 0)

/-- Publishing the entry pins a replayable task (R174). -/
def pinsTask (x : BitVec 256) (r : Recs) : Bool :=
  match engineOf (cmdOp x) with
  | some 0 =>
    match r.t with
    | some t => if cmdTrec x == 0xFFFF then !cmdDv x || cmdSend x else tileLayout t == 2
    | none => !cmdDv x || cmdSend x
  | some 1 => cmdOp x != 0x10
  | _ => true

/-! ## The ring (R170 to R173) -/

/-- The image in a ring slot. -/
def State.ringEntry (s : State) (c : Crew) (n : Nat) : BitVec 256 := BitVec.ofNat 256 (readNum s.mem (c.winPa (32 * (n % 64))) 32)

/-- The accepted commands of a ring. -/
def State.cmdsOf (s : State) (crew : Nat) : List Cmd := s.cmds.filter fun c => c.crew == crew
/-- A command of a ring by its number. -/
def State.cmd? (s : State) (crew sq : Nat) : Option Cmd := s.cmds.find? fun c => c.crew == crew && c.sq == sq
/-- A command changed. -/
def State.mapCmd (s : State) (crew sq : Nat) (f : Cmd → Cmd) : State :=
  { s with cmds := s.cmds.map fun c => if c.crew == crew && c.sq == sq then f c else c }

/-- The command has neither completed nor been killed. -/
def Cmd.isHeld (c : Cmd) : Bool := !c.finished || (cmdOp c.img == 4 && !c.followed)
/-- The held commands of a ring (R171). -/
def State.heldCmds (s : State) (crew : Nat) : List Cmd := (s.cmdsOf crew).filter Cmd.isHeld

/-- One entry is published (R173): image, PUB, and the records read for it. -/
def State.publish (s : State) (crew sub gkey : Nat) (x : BitVec 256) (r : Recs) : State :=
  match s.crew? crew with
  | none => s
  | some c =>
    let pub := s.ringPub c
    let s := (s.store (c.winPa (32 * (pub % 64))) (bytesOf 32 x.toNat)).store (c.winPa 0x800) (bytesOf 4 (pub + 1))
    s.mapCrew crew fun c => { c with
      pub := word (pub + 1)
      pubs := c.pubs.filter fun q => q.1 != pub
      xq := (c.xq.filter fun q => q.sq != pub) ++ [⟨pub, x, sub, gkey, r.t.getD 0, r.b.getD 0, r.c.getD 0⟩] }

/-! ## Handles (R185, R186) -/

/-- The state that a handle shows. -/
def Handle.show_ (h : Handle) : Handle := if h.st = .fault then h else { h with st := h.base }

/-- Accepted as destination. -/
def Handle.acceptDest (h : Handle) (cnt : Bool) : Handle :=
  { h with dpend := h.dpend + 1, base := if cnt then h.base else HState.filling }.show_

/-- Accepted as source. -/
def Handle.acceptSource (h : Handle) : Handle :=
  { h with spend := h.spend + 1, base := if h.base = HState.free ∨ h.base = HState.full then HState.draining else h.base }.show_

/-- A destination complete. -/
def Handle.destDone (h : Handle) (cnt : Bool) : Handle :=
  let n := h.dpend - 1
  if cnt then { h with dpend := n, counter := h.counter + 1 }.show_
  else { h with dpend := n, base := if h.base = HState.filling ∧ n = 0 then (if h.spend = 0 then HState.full else HState.draining) else h.base }.show_

/-- A source released. -/
def Handle.sourceDone (h : Handle) : Handle :=
  let n := h.spend - 1
  { h with spend := n, base := if h.base = HState.draining ∧ n = 0 then HState.free else h.base }.show_

/-- A naming command freezes. -/
def Handle.toFault (h : Handle) (sub : Nat) : Handle := { h with st := .fault, sub := sub }

/-- A handle that a field names, where it is bound to the crew. -/
def State.onHandle (s : State) (crew h : Nat) (f : Handle → Handle) : State :=
  match s.crew? crew with
  | none => s
  | some c => if h < 64 ∧ (s.handle c.homeCore h).owner = some crew then s.mapHandle c.homeCore h f else s

/-- The handles of an entry take it up. -/
def State.takeHandles (s : State) (crew : Nat) (x : BitVec 256) : State :=
  (s.onHandle crew (cmdDh x) fun h => h.acceptDest (cmdCnt x)).onHandle crew (cmdSh x) Handle.acceptSource

/-- The counts of a command that is killed or changed are taken out of its handles. -/
def State.dropCounts (s : State) (c : Cmd) : State :=
  let s := if c.counted then s else s.onHandle c.crew (cmdDh c.named) fun h => { h with dpend := h.dpend - 1 }
  if c.released then s else s.onHandle c.crew (cmdSh c.named) fun h => { h with spend := h.spend - 1 }

/-- A handle is named by a frozen command of its crew. -/
def State.handleFrozen (s : State) (crew h : Nat) : Bool :=
  (s.cmdsOf crew).any fun c => c.st == .frozen && (cmdDh c.named == h || cmdSh c.named == h)

/-! ## Freezing, resuming, killing (R184, R209, R213, R312) -/

/-- The generation of a ring slot. -/
def State.ringGen (s : State) (c : Crew) (sq : Nat) : Nat := (s.core c.homeCore).ringGens.at_ 0 (64 * c.ring + sq % 64)

/-- The capability of a frozen command (R209). -/
def State.cmdCap (s : State) (c : Crew) (sq : Nat) : DWord :=
  dword (s.ringGen c sq % 65536 * 2 ^ 48 + c.ctx % 4096 * 2 ^ 32 + 2 ^ 31 + c.homeCore % 256 * 65536 + c.ring % 256 * 256 + sq % 64)

/-- The generation of a ring slot advances. -/
def State.bumpRing (s : State) (c : Crew) (sq : Nat) : State :=
  s.mapCore c.homeCore fun k => { k with ringGens := k.ringGens.put (64 * c.ring + sq % 64) ((k.ringGens.at_ 0 (64 * c.ring + sq % 64) + 1) % 65536) }

/-- A frozen command's record is withdrawn and its capability revoked. -/
def State.revokeCmd (s : State) (c : Crew) (m : Cmd) : State :=
  let s := match m.rec_ with
    | some r => s.withdraw c.ctx r.seq
    | none => s
  (s.bumpRing c m.sq).mapCmd m.crew m.sq fun m => { m with rec_ := none }

/-- A handle leaves FAULT when no frozen command names it any more. -/
def State.unfault (s : State) (crew h : Nat) : State :=
  if s.handleFrozen crew h then s
  else s.onHandle crew h fun x => if x.st = .fault ∧ x.sub ≠ 0xFF then { x with st := x.base, sub := 0 } else x

/-- A command is killed (R184): its handles stay in FAULT with 0xFF. -/
def State.killCmd (s : State) (crew sq : Nat) : State :=
  match s.crew? crew, s.cmd? crew sq with
  | some c, some m =>
    let s := if m.st = .frozen then s.revokeCmd c m else s.bumpRing c sq
    let s := { s.dropCounts m with cmds := s.cmds.filter fun k => !(k.crew == crew && k.sq == sq) }
    (s.onHandle crew (cmdDh m.named) fun h => h.toFault 0xFF).onHandle crew (cmdSh m.named) fun h => h.toFault 0xFF
  | _, _ => s

/-- A command that is always drained: a CONTRIB of which an element has been counted (R337). -/
def Cmd.drains (m : Cmd) : Bool := cmdOp m.img == 0x30 && (!m.done.isEmpty || !m.added.isEmpty)

/-- A command freezes (R184): its handles move to FAULT, and its record is queued. One that drains for a killed crew is killed (R336), but for a CONTRIB that has begun, which tries again while its module is there (R337). Log entry 113. -/
def State.freezeCmd (s : State) (crew sq cls sub : Nat) (va : DWord) : State :=
  match s.crew? crew, s.cmd? crew sq with
  | some c, some m =>
    if c.phase = .killed then if m.drains && !(cls == cXlatePerm && sub == 8) then s else s.killCmd crew sq else
    let r := ringRec crew c cls sub sq va (s.cmdCap c sq)
    let (s, r) := s.queueRec c.ctx r
    let s := s.mapCmd crew sq fun m => { m with st := .frozen, cls := cls, fsub := sub, rec_ := some r, fst_ := .queued, handler := none }
    (s.onHandle crew (cmdDh m.named) fun h => h.toFault sub).onHandle crew (cmdSh m.named) fun h => h.toFault sub
  | _, _ => s

/-- A frozen command is resumed (R213); a changed image is checked again, counts in its own handles, and starts anew. -/
def State.resumeCmd (s : State) (crew sq : Nat) : State :=
  match s.crew? crew, s.cmd? crew sq with
  | some c, some m =>
    if m.st ≠ .frozen then s
    else
      let s := (s.revokeCmd c m).mapCmd crew sq fun m => { m with st := .active }
      let s := (s.unfault crew (cmdDh m.named)).unfault crew (cmdSh m.named)
      if !m.changed then s
      else
        let s := (s.dropCounts m).takeHandles crew m.img
        let (s, r) := s.readRecs crew m.gkey m.img
        let s := s.mapCmd crew sq fun m => { m with
          named := m.img, done := [], buf := none, finished := false, released := false, counted := false,
          followed := false, changed := false, added := [], trec := r.t.getD 0, brec := r.b.getD 0, crec := r.c.getD 0, pkts := [] }
        match s.checkEntry crew m.img r with
        | some (n, va) => s.freezeCmd crew sq cEngine n va
        | none => s
  | _, _ => s

/-! ## Acceptance (R171) -/

/-- An entry can be accepted: the ring is whole, an entry stands, and fewer than 16 commands are held. -/
def State.canAccept (s : State) (crew : Nat) : Bool :=
  match s.crew? crew with
  | none => false
  | some c => !c.broken && s.ringFill c != 0 && decide (s.ringFill c ≤ 64) && decide ((s.heldCmds crew).length < Config.heldCommands)

/-- TAKEN advances and is stored to the ring. -/
def State.advanceTaken (s : State) (crew : Nat) (c : Crew) : State :=
  (s.store (c.winPa 0x804) (bytesOf 4 (c.taken + 1).toNat)).mapCrew crew fun c => { c with
    taken := c.taken + 1, xq := c.xq.filter fun q => q.sq != c.taken.toNat, pubs := c.pubs.filter fun q => q.1 != c.taken.toNat }

/-- Entry TAKEN is accepted for the gang that published it (R179; where no thread stored PUB, for sub-core 0 of the home core, log entry 106): read from its slot, checked where XQ did not publish it as it stands, taken up by its handles. -/
def State.acceptEntry (s : State) (crew : Nat) : State :=
  if !s.canAccept crew then s
  else
    match s.crew? crew with
    | none => s
    | some c =>
      let sq := c.taken.toNat
      let x := s.ringEntry c sq
      let known := c.xq.find? fun q => q.sq == sq && q.img == x
      let stored := c.pubs.find? fun q => q.1 == sq
      let by_ := match known, stored with
        | some q, _ => (q.sub, q.gkey)
        | none, some q => q.2
        | none, none => (c.homeCore * 12, 0)
      let read := s.readRecs crew by_.2 x
      let s := if known.isSome then s else read.1
      let recs : Recs := match known with
        | some q => ⟨some q.trec, some q.brec, some q.crec⟩
        | none => read.2
      let bad := if known.isSome then none else s.checkEntry crew x recs
      let m : Cmd := {
        crew := crew, sq := sq, img := x, named := x, level := c.level, sub := by_.1, gkey := by_.2, trec := recs.t.getD 0, brec := recs.b.getD 0,
        crec := recs.c.getD 0, done := [], buf := none, finished := false, released := false, counted := false, followed := false, changed := false,
        st := .active, cls := 0, fsub := 0, rec_ := none, fst_ := .queued, handler := none, pkts := [], added := [] }
      let s := { s.advanceTaken crew c with cmds := s.cmds ++ [m] }.takeHandles crew x
      match bad with
      | some (n, va) => s.freezeCmd crew sq cEngine n va
      | none => s

/-! ## Completion (R185, R186) -/

/-- No earlier command of the ring that names the handle in the same role still has to apply its own. -/
def State.roleFree (s : State) (m : Cmd) (dest : Bool) : Bool :=
  (s.cmdsOf m.crew).all fun k =>
    !(decide ((k.sq + 2 ^ 32 - m.sq) % 2 ^ 32 ≥ 2 ^ 31)) ||
    (if dest then k.counted || cmdDh k.named != cmdDh m.named else k.released || cmdSh k.named != cmdSh m.named)

/-- A command that has completed, released and counted is no longer kept. -/
def State.forgetDone (s : State) (crew sq : Nat) : State :=
  { s with cmds := s.cmds.filter fun m => !(m.crew == crew && m.sq == sq && !m.isHeld && m.counted && m.released) }

/-- A relay request of a command has no reply yet: a module has not acknowledged a granule of it (R366). -/
def State.awaitsReply (s : State) (crew sq : Nat) : Bool := s.pod.asked.any fun a => a.2 == .command crew sq

/-- The destination of a completed command is applied to its handle. -/
def State.countDest (s : State) (crew sq : Nat) : State :=
  match s.cmd? crew sq with
  | none => s
  | some m =>
    if m.isHeld || m.counted || m.st == .frozen || s.awaitsReply crew sq || !s.roleFree m true then s
    else ((s.onHandle crew (cmdDh m.named) fun h => h.destDone (cmdCnt m.named)).mapCmd crew sq fun m => { m with counted := true }).forgetDone crew sq

/-- The source of a command is applied to its handle. -/
def State.releaseSource (s : State) (crew sq : Nat) : State :=
  match s.cmd? crew sq with
  | none => s
  | some m =>
    if m.released || m.st == .frozen || !s.roleFree m false then s
    else ((s.onHandle crew (cmdSh m.named) Handle.sourceDone).mapCmd crew sq fun m => { m with released := true }).forgetDone crew sq

end Sys2Proof.Machine
end

