-- ==== Sys2Proof/Machine/Parts.lean ====
section
/-! DEFINITION. What the engines share (R177, R180, R181, R185, R281): reads and writes of a command in pieces of a granule run, the parts of a command, completion. -/

namespace Sys2Proof.Machine

/-- Why a part of a command does not go on: a fault, or a wait. -/
inductive Stop where
  | flt (f : Flt)
  | wait
  deriving DecidableEq, Repr

/-- A command as the maker of accesses: at its home core, in its context, at its gang's level (R177). -/
def Cmd.who (m : Cmd) (c : Crew) : Who := ⟨c.homeCore, c.ctx, m.level, none, .command m.crew m.sq⟩

/-- An ENGINE fault of a command. -/
def engStop (sub : Nat) (va : Nat) : Stop := .flt ⟨cEngine, sub, dword va⟩

/-- A check of the place and the page of an access by its physical address and leaf. -/
abbrev PageCheck := Nat → DWord → Option Stop

/-- No check of the page. -/
def anyPage : PageCheck := fun _ _ => none

/-- The page of an access of a command, inside one page. -/
def State.engineLoc (s : State) (w : Who) (va n : Nat) (a : Access) (chk : PageCheck) : State × Except Stop (Nat × DWord) :=
  match s.agentLoc w (dword va) n a false with
  | (s, .flt f) => (s, .error (.flt f))
  | (s, .wait _) => (s, .error .wait)
  | (s, .found pa leaf) =>
    match chk pa (leaf.getD 0) with
    | some e => (s, .error e)
    | none => (s, .ok (pa, leaf.getD 0))

/-- A range cut at the multiples of a size. -/
def cutsOf (step va n : Nat) : List (Nat × Nat) :=
  if n = 0 then []
  else (List.range ((va + n + step - 1) / step - va / step)).map fun i =>
    let lo := max va ((va / step + i) * step)
    (lo, min (va + n) ((va / step + i + 1) * step) - lo)

/-- A range cut at multiples of 256 B (R180). -/
def chunks (va n : Nat) : List (Nat × Nat) := cutsOf 256 va n

/-- The physical address of a run of bytes that a vault address of a crew names. -/
def State.vaultRun (s : State) (c : Crew) (va n : Nat) : Option Nat :=
  match s.vaultByte c va, s.vaultByte c (va + n - 1) with
  | some pa, some _ => some pa
  | _, _ => none

/-- Bytes of one piece read by a command. -/
def State.readPiece (s : State) (c : Crew) (w : Who) (vault : Bool) (chk : PageCheck) (va n : Nat) : State × Except Stop (List Byte) :=
  if vault then
    match s.vaultRun c va n with
    | none => (s, .error (engStop 0x10 va))
    | some pa => if (s.poisoned pa n).isSome then (s, .error (.flt ⟨cPoison, 2, dword va⟩)) else (s, .ok (readBytes s.mem pa n))
  else
    match s.engineLoc w va n .read chk with
    | (s, .error e) => (s, .error e)
    | (s, .ok (pa, leaf)) =>
      if (s.poisoned (s.home pa) n).isSome then (s, .error (.flt ⟨cPoison, 2, dword va⟩))
      else
        let r := s.bytesAt s.mem pa n
        ((if regionOf pa == .hbm && leafMt leaf != 2 then r.1.homeRun w.core w.ctx pa n false else r.1).askRelay w.core pa 0 [] n .nobody, .ok r.2)

/-- Bytes of pieces read one after the other. -/
def State.readPieces (s : State) (c : Crew) (w : Who) (vault : Bool) (chk : PageCheck) : List (Nat × Nat) → State × Except Stop (List Byte)
  | [] => (s, .ok [])
  | (va, n) :: rest =>
    match s.readPiece c w vault chk va n with
    | (s, .error e) => (s, .error e)
    | (s, .ok b) =>
      match s.readPieces c w vault chk rest with
      | (s, .error e) => (s, .error e)
      | (s, .ok r) => (s, .ok (b ++ r))

/-- A range read by a command. -/
def State.readRange (s : State) (c : Crew) (w : Who) (vault : Bool) (chk : PageCheck) (va n : Nat) : State × Except Stop (List Byte) :=
  s.readPieces c w vault chk (chunks va n)

/-- The granules of a range set FULL (R181). -/
def State.fillGranules (s : State) (pa n : Nat) : State := (granulesOf (s.home pa) n).foldl (fun s g => s.setFull (g * 16) true) s

/-- Bytes of one piece at its place outside the vault: no copy of their lines stays, and a tier-0 piece passes its home cache (R260, R265). -/
def State.putPiece (s : State) (w : Who) (pa : Nat) (leaf : DWord) (bytes : List Byte) : State :=
  let s := (lineRun pa bytes.length).foldl State.dropCopies (s.putBytes pa bytes)
  if regionOf pa == .hbm && leafMt leaf != 2 then s.homeRun w.core w.ctx pa bytes.length true else s

/-- Bytes of one piece written by a command; with `fs` its granules are set FULL, which a device page and a place outside tier 0 refuse. -/
def State.writePiece (s : State) (c : Crew) (w : Who) (vault fs : Bool) (chk : PageCheck) (va : Nat) (bytes : List Byte) : State × Except Stop Unit :=
  let n := bytes.length
  if vault then
    match s.vaultRun c va n with
    | none => (s, .error (engStop 0x10 va))
    | some pa =>
      let s := (s.putBytes pa bytes).pubStored pa n none
      (if fs then s.fillGranules pa n else s, .ok ())
  else
    match s.engineLoc w va n .write chk with
    | (s, .error e) => (s, .error e)
    | (s, .ok (pa, leaf)) =>
      if fs && leafMt leaf == 2 then (s, .error (.flt ⟨cXlatePerm, 6, dword va⟩))
      else if fs && regionOf pa != .hbm then (s, .error (.flt ⟨cXlatePerm, 7, dword va⟩))
      else
        let s := (s.putPiece w pa leaf bytes).askRelay w.core pa 1 bytes n w.asks
        (if fs then s.fillGranules pa n else s, .ok ())

/-- Pieces written one after the other. -/
def State.writePieces (s : State) (c : Crew) (w : Who) (vault fs : Bool) (chk : PageCheck) : List (Nat × List Byte) → State × Except Stop Unit
  | [] => (s, .ok ())
  | (va, b) :: rest =>
    match s.writePiece c w vault fs chk va b with
    | (s, .error e) => (s, .error e)
    | (s, .ok ()) => s.writePieces c w vault fs chk rest

/-- A range written by a command. -/
def State.writeRange (s : State) (c : Crew) (w : Who) (vault fs : Bool) (chk : PageCheck) (va : Nat) (bytes : List Byte) : State × Except Stop Unit :=
  s.writePieces c w vault fs chk ((chunks va bytes.length).map fun p => (p.1, (bytes.drop (p.1 - va)).take p.2))

/-! ## Metadata of format pages (R75, R78, R177) -/

/-- The metadata word of a group as an engine reads it. -/
def State.engineMeta (s : State) (c : Crew) (w : Who) (leaf : DWord) (va : Nat) : State × Except Stop Word :=
  match (s.ctx c.ctx).metaVa leaf (dword va) with
  | .error f => (s, .error (.flt f))
  | .ok mva =>
    match s.readPiece c w false anyPage mva.toNat 4 with
    | (s, .error (.flt f)) => (s, .error (.flt (if f.cls = cPoison then { f with sub := 4 } else f)))
    | (s, .error .wait) => (s, .error .wait)
    | (s, .ok b) =>
      let x := word (natOfBytes b)
      (s, if metaBad (fmtQ4 (leafFmt leaf)) x then .error (.flt ⟨cFormat, 2, dword va⟩) else .ok x)

/-- The leaf of a page as a command finds it for an access. -/
def State.leafFor (s : State) (w : Who) (va : Nat) (a : Access) : State × Except Stop DWord :=
  match s.engineLoc w va 1 a anyPage with
  | (s, .error e) => (s, .error e)
  | (s, .ok (_, leaf)) => (s, .ok leaf)

/-! ## Parts of a command (R180) -/

/-- A command has completed: a role without a handle is applied at once. -/
def State.finishCmd (s : State) (crew sq : Nat) : State :=
  (s.mapCmd crew sq fun m => { m with
    finished := true, buf := none, counted := m.counted || (cmdDh m.named == 0xFF && cmdOp m.img != 4), released := m.released || cmdSh m.named == 0xFF }).forgetDone crew sq

/-- What an operation of an engine does: the parts of a command, the rank of each (a part waits for those of lower rank), how the source of a part is read, and what a part does with it. -/
structure Engine where
  parts : State → Crew → Cmd → List Nat
  rank : Nat → Nat
  source : State → Crew → Cmd → Nat → State × Except Stop (List Byte)
  dest : State → Crew → Cmd → Nat → List Byte → State × Except Stop Unit

/-- The source bytes of a part: those read ahead, or those that stand there. -/
def Engine.sourceOf (e : Engine) (s : State) (c : Crew) (m : Cmd) (n : Nat) : State × Except Stop (List Byte) :=
  match m.buf.bind fun b => b.find? fun p => p.1 == n with
  | some p => (s, .ok p.2)
  | none => e.source s c m n

/-- A part that stops: the command freezes at a fault (R177, R184). -/
def State.stopPart (s : State) (crew sq : Nat) : Stop → State
  | .wait => s
  | .flt f => s.freezeCmd crew sq f.cls f.sub f.va

/-- The command completes when every part is done. -/
def Engine.settle (e : Engine) (s : State) (crew sq : Nat) : State :=
  match s.crew? crew, s.cmd? crew sq with
  | some c, some m =>
    if m.st == .active && !m.finished && (e.parts s c m).all fun n => m.done.contains n then s.finishCmd crew sq else s
  | _, _ => s

/-- Parts in no order. -/
def noRank : Nat → Nat := fun _ => 0

/-- A part may be performed now. -/
def Engine.open_ (e : Engine) (s : State) (c : Crew) (m : Cmd) (n : Nat) : Bool :=
  let ps := e.parts s c m
  m.st == .active && !m.finished && ps.contains n && !m.done.contains n
    && ps.all fun k => m.done.contains k || decide (e.rank n ≤ e.rank k)

/-- One part performed: a sub-transfer completes, or the command freezes. -/
def Engine.part (e : Engine) (s : State) (crew sq n : Nat) : State :=
  match s.crew? crew, s.cmd? crew sq with
  | some c, some m =>
    if !e.open_ s c m n then s
    else
      match e.sourceOf s c m n with
      | (t, .error x) => t.stopPart crew sq x
      | (t, .ok b) =>
        match e.dest t c m n b with
        | (u, .error x) => u.stopPart crew sq x
        | (u, .ok ()) => e.settle (u.mapCmd crew sq fun m => { m with done := n :: m.done }) crew sq
  | _, _ => s

/-- Every part that is left is performed, as far as the command gets. -/
def Engine.all (e : Engine) (s : State) (crew sq : Nat) : State :=
  match s.crew? crew, s.cmd? crew sq with
  | some c, some m => e.settle ((e.parts s c m).foldl (fun s n => e.part s crew sq n) s) crew sq
  | _, _ => s

/-- The sources of parts read ahead of their writing. -/
def Engine.readAhead (e : Engine) (s : State) (c : Crew) (m : Cmd) : List Nat → State × Except Stop (List (Nat × List Byte))
  | [] => (s, .ok [])
  | n :: rest =>
    match e.sourceOf s c m n with
    | (s, .error x) => (s, .error x)
    | (s, .ok b) =>
      match e.readAhead s c m rest with
      | (s, .error x) => (s, .error x)
      | (s, .ok l) => (s, .ok ((n, b) :: l))

/-- The source is released before the command has completed: what is left of it is read first (R185). -/
def Engine.release (e : Engine) (s : State) (crew sq : Nat) : State :=
  match s.crew? crew, s.cmd? crew sq with
  | some c, some m =>
    if m.st != .active || m.released || !s.roleFree m false then s
    else if m.finished then s.releaseSource crew sq
    else
      match e.readAhead s c m ((e.parts s c m).filter fun n => !m.done.contains n) with
      | (t, .error x) => t.stopPart crew sq x
      | (t, .ok l) => (t.mapCmd crew sq fun m => { m with buf := some l }).releaseSource crew sq
  | _, _ => s

end Sys2Proof.Machine
end

