-- ==== Sys2Proof/Machine/Image.lean ====
section
/-! DEFINITION. The context image of a gang (R29, R30, R252 to R254, R307): gang records, register lines, lane states, what is written to them and loaded from them. -/

namespace Sys2Proof.Machine

/-- The image of a gang is mapped. -/
def State.hasImage (s : State) (g : Gang) : Bool := (s.kernelPa g.ctx (s.recVa g) 1).isSome

/-- The offset of a register line in a gang record: v0 to v127, then three lines of k registers (R252). -/
def lineOff (n : Nat) : Nat := 128 * n

/-- The 32 words of a register line. -/
def Gang.lineWords (g : Gang) (n : Nat) : List Word :=
  (List.range 32).map fun i => if n < 128 then g.readV i n else g.readK (32 * (n - 128) + i)

/-- Words as bytes. -/
def bytesOfWords (ws : List Word) : List Byte := ws.flatMap fun w => bytesOf 4 w.toNat

/-- The words of a register line loaded. -/
def Gang.setLine (g : Gang) (n : Nat) (ws : List Word) : Gang :=
  (List.range 32).foldl (fun (g : Gang) i =>
    let x := ws.getD i 0
    if n < 128 then { g with v := g.v.set 0 (128 * i + n) x } else { g with k := g.k.set 0 (32 * (n - 128) + i) x }) g

/-- All register lines. -/
def allLines : List Nat := List.range 131

/-- Run states as lane states hold them (R29). -/
def Run.code : Run → Nat
  | .run => 0
  | .held => 1
  | .blocked => 2
  | .frozen => 3
  | .exited => 4

/-- The run state that a lane state holds. -/
def runOf (n : Nat) : Run :=
  match n % 8 with
  | 0 => .run
  | 1 => .held
  | 2 => .blocked
  | 3 => .frozen
  | _ => .exited

/-- Word 5 of a lane state: the run state, and the frozen-set index in FROZEN. -/
def Thread.stateWord (t : Thread) : Word := word (t.run.code + if t.run = .frozen then t.fset % 256 * 256 else 0)

/-- A lane state entry (R29). -/
def Thread.entryBytes (t : Thread) : List Byte :=
  bytesOfWords [t.pc, t.mt, t.rep, t.rcnt, t.fps, t.stateWord, t.clockhi, 0]

/-- A thread as its lane state gives it; one that is recorded as BLOCKED is taken as RUN at its REP (R30). A PC, a meeting register or a run state that no device writes is taken as it stands, codes 5 to 7 as EXITED. Log entry 97. -/
def Thread.ofEntry (t : Thread) (ws : List Word) : Thread :=
  let w := fun (i : Nat) => ws.getD i 0
  let st := runOf (w 5).toNat
  let t := { t with
    pc := w 0, mt := w 1, rep := w 2, rcnt := w 3, fps := fpsWritten (w 4), run := st, clockhi := w 6, wait := none
    fset := if st = .frozen then bitsAt (w 5).toNat 8 8 else 0 }
  if st = .blocked then { t with run := .run, pc := t.rep, rcnt := 0 } else t

/-- The PCs of a gang's paths in rising order. -/
def Gang.sortedPcs (g : Gang) : List Nat := g.pathPcs.insertionSort fun a b => a ≤ b

/-- Bytes 0x4180 to 0x45FF of a gang record: identity, level, paths with their ageing counters, lane states (R29). -/
def controlBytes (g : Gang) (crew serial : Nat) (counters : List Nat) : List Byte :=
  bytesOf 4 g.index ++ bytesOf 4 crew ++ bytesOf 8 serial ++ bytesOf 4 g.level ++ bytesOf 4 counters.length
    ++ ((List.range 32).flatMap fun i => bytesOf 2 (counters.getD i 0)) ++ List.replicate 40 0
    ++ g.threads.flatMap Thread.entryBytes

/-- The control part of a gang's record as the gang stands. A gang without a path is recorded with none. Log entry 97. -/
def State.controlOf (s : State) (g : Gang) : List Byte :=
  let c := if g.hslot.isSome then none else s.crewOf g
  controlBytes g ((c.map (·.index)).getD 0) ((c.map (·.serial)).getD 0) (g.sortedPcs.map g.age)

/-- A gang with the control state that record bytes from 0x4180 on give. -/
def Gang.withControl (g : Gang) (b : List Byte) : Gang :=
  let num := fun (o n : Nat) => natOfBytes ((b.drop o).take n)
  let lane := fun (l : Nat) => (List.range 8).map fun i => word (num (0x80 + 32 * l + 4 * i) 4)
  let g := { g with threads := g.threads.mapIdx fun l (t : Thread) => t.ofEntry (lane l) }
  let counters := g.sortedPcs.mapIdx fun i p => (p, num (0x18 + 2 * i) 2)
  { g with ages := (List.range 32).filterMap fun l =>
      if g.inPath l then (counters.find? fun p => p.1 == (g.th l).pc.toNat && p.2 != 0).map fun p => (l, p.2) else none }

/-- Register lines written to a gang's record. -/
def State.storeLines (s : State) (g : Gang) (lines : List Nat) : State :=
  lines.foldl (fun s n => s.writeImage g.ctx (s.recVa g + dword (lineOff n)) (bytesOfWords (g.lineWords n))) s

/-- The control state of a gang written to its record. -/
def State.storeControl (s : State) (g : Gang) : State := s.writeImage g.ctx (s.recVa g + 0x4180) (s.controlOf g)

/-- The lines that differ from the image. -/
def Gang.dirtyLines (g : Gang) : List Nat := allLines.filter fun n => !g.clean.contains n && !g.absent.contains n

/-! ## The register cache and the register backing (R252 to R254) -/

/-- The lines that the register cache of a sub-core holds, each under its gang. -/
def State.cachedLines (s : State) (core sub : Nat) : List (Nat × Nat) :=
  s.gangs.flatMap fun p => if p.2.core == core && p.2.subCore == sub then (allLines.filter p.2.holdsLine).map fun n => (p.1, n) else []

/-- The lines that the register backing of a core holds. -/
def State.backedLines (s : State) (core : Nat) : List (Nat × Nat) :=
  s.gangs.flatMap fun p => if p.2.core == core then p.2.backed.map fun n => (p.1, n) else []

/-- A line carries the EVICTABLE mark. -/
def State.isMarked (s : State) (x : Nat × Nat) : Bool := match s.gang? x.1 with | some g => g.marked.contains x.2 | none => false

/-- The line to evict: a marked one before any other (R254), and among them the device's choice. `keep` is not evicted. -/
def State.evictChoice (s : State) (lines : List (Nat × Nat)) (keep : Option (Nat × Nat)) : Option (Nat × Nat) :=
  let may := lines.filter fun x => some x != keep
  let first := may.filter s.isMarked
  let from_ := if first.isEmpty then may else first
  from_[Config.victimLine s.free % from_.length]?

/-- A line leaves the register backing: a DIRTY one is written to the image (R253). -/
def State.dropBacked (s : State) (x : Nat × Nat) : State :=
  match s.gang? x.1 with
  | none => s
  | some g =>
    let s := if g.clean.contains x.2 then s else s.storeLines g [x.2]
    s.mapGang x.1 fun g => { g with backed := g.backed.filter (· != x.2), clean := g.clean.filter (· != x.2), absent := x.2 :: g.absent }

/-- A line leaves a register cache for the backing, whose own eviction makes room for it (R253). -/
def State.evictLine (s : State) (core : Nat) (x : Nat × Nat) : State :=
  let s := s.mapGang x.1 fun g => { g with backed := x.2 :: g.backed }
  if (s.backedLines core).length ≤ Config.regBacking then s
  else
    let t := { s with free := s.free + 1 }
    match s.evictChoice (s.backedLines core) (some x) with
    | none => t
    | some y => t.dropBacked y

/-- Lines are evicted until a register cache holds no more than it can; `fuel` bounds their number. -/
def State.trimFuel (core sub : Nat) (keep : Option (Nat × Nat)) : Nat → State → State
  | 0, s => s
  | fuel + 1, s =>
    if (s.cachedLines core sub).length ≤ Config.regCache then s
    else
      let t := { s with free := s.free + 1 }
      match s.evictChoice (s.cachedLines core sub) keep with
      | none => t
      | some x => State.trimFuel core sub keep fuel (t.evictLine core x)

/-- A register cache after lines have come to it. -/
def State.trimLines (s : State) (core sub : Nat) (keep : Option (Nat × Nat)) : State :=
  State.trimFuel core sub keep (s.cachedLines core sub).length s

/-- A line comes to the register cache: from the backing, or from the image (R253). Log entry 16. -/
def State.fillLine (s : State) (gk n : Nat) : State :=
  match s.gang? gk with
  | none => s
  | some g =>
    if g.holdsLine n then s
    else
      let g1 := { g with backed := g.backed.filter (· != n), absent := g.absent.filter (· != n) }
      let s :=
        if g.backed.contains n || !s.hasImage g then s.setGang gk g1
        else
          let b := s.readImage g.ctx (s.recVa g + dword (lineOff n)) 128
          let s := s.touchPage g.ctx (s.recVa g + dword (lineOff n)) 128 .read
          s.setGang gk ({ g1 with clean := n :: g.clean.filter (· != n) }.setLine n ((List.range 32).map fun i => word (natOfBytes ((b.drop (4 * i)).take 4))))
      s.trimLines g.core g.subCore (some (gk, n))

/-- Lines that the device itself is about to read or write for a gang. -/
def State.bringLines (s : State) (gk : Nat) (lines : List Nat) : State := lines.foldl (fun s n => s.fillLine gk n) s

/-- The bytes of a register line, wherever its current value lies (R254). -/
def State.lineBytes (s : State) (g : Gang) (n : Nat) : List Byte :=
  if g.absent.contains n && s.hasImage g then s.readImage g.ctx (s.recVa g + dword (lineOff n)) 128 else bytesOfWords (g.lineWords n)

/-- A gang that is flushed: its dirty lines and its control state lie in the image, and no line is held any more (R307). -/
def State.flushGang (s : State) (gk : Nat) : State :=
  match s.gang? gk with
  | none => s
  | some g => ((s.storeLines g g.dirtyLines).storeControl g).setGang gk { g with absent := allLines, backed := [], clean := [], marked := [] }

/-- The control state of a gang loaded from its record, where it is mapped. -/
def State.loadControl (s : State) (gk : Nat) : State :=
  match s.gang? gk with
  | none => s
  | some g =>
    if !s.hasImage g then s
    else (s.touchPage g.ctx (s.recVa g + 0x4180) 0x480 .read).setGang gk (g.withControl (s.readImage g.ctx (s.recVa g + 0x4180) 0x480))

/-- A change of a gang, through its image where the gang is switched out (R210). -/
def State.onGang {α : Type} (s : State) (gk : Nat) (f : State → State × α) : State × α :=
  match s.gang? gk with
  | none => f s
  | some g =>
    if g.resid = .switched then
      let r := f (s.loadControl gk)
      (r.1.flushGang gk, r.2)
    else f s

end Sys2Proof.Machine
end

