-- ==== Sys2Proof/Machine/Kill.lean ====
section
/-! DEFINITION. Crew kill (R301, R336, R337): withdrawn operations, closed frozen sets, killed commands, bindings that end. -/

namespace Sys2Proof.Machine

/-! ## Frozen sets and bindings -/

/-- The frozen sets of a context that meet a condition are closed. -/
def State.closeWhere (s : State) (ctx : Nat) (p : FSet → Bool) : State :=
  let gone := (s.ctx ctx).unindexed.filter p
  let s := (gone.foldl (fun (s : State) f => s.withdraw ctx f.rec_.seq) s).mapCtx ctx fun c =>
    { c with unindexed := c.unindexed.filter fun f => !p f }
  ((s.ctx ctx).sets.filter fun x => p x.2).foldl (fun s x => s.closeSet ctx x.1) s

/-- The number by which an endpoint names its bound gang; a handler record stands above the gang records. -/
def Gang.bindNum (g : Gang) : Nat := if g.hslot.isSome then 0x10000 + g.grec else g.grec

/-- The bindings of a gang end (R217). -/
def State.unbind (s : State) (ctx num : Nat) : State :=
  (List.range 4).foldl (fun (s : State) e =>
    let x := s.endpoint ctx e
    if x.bound = some num then s.setEndpoint ctx e { x with bound := none } else s) s

/-! ## Crew kill (R336) -/

/-- A command that drains goes on where it was frozen: its record is withdrawn (R337). -/
def State.drainCmd (s : State) (crew : Nat) (m : Cmd) : State :=
  match s.crew? crew with
  | none => s
  | some c =>
    if m.st ≠ .frozen then s
    else (((s.revokeCmd c m).mapCmd crew m.sq fun m => { m with st := .active, rec_ := none, handler := none }).unfault crew (cmdDh m.named)).unfault crew (cmdSh m.named)

/-- The commands of a ring are killed, but for those that a test keeps; entries not accepted yet are never accepted. -/
def State.killCmds (s : State) (crew : Nat) (keep : Cmd → Bool) : State :=
  let s := (s.cmdsOf crew).foldl (fun s m => if m.drains then s.drainCmd crew m else if keep m then s else s.killCmd crew m.sq) s
  match s.crew? crew with
  | none => s
  | some c => s.mapCrew crew fun c' => { c' with taken := word (s.ringPub c), xq := [] }

/-- What an unpinned task has logged and deferred is dropped; its reservations are committed and their items discarded (R301, R337). -/
def State.dropTask (s : State) (crew : Nat) : State :=
  match s.crew? crew with
  | none => s
  | some c =>
    let s := (c.popped.toList ++ c.pops ++ c.held).foldl (fun s p => s.commitLater ⟨p.pa, p.num, false, c.ctx, some crew⟩) s
    (s.freeRecords c.ctx c.conts).mapCrew crew fun c => { c with log := [], logUse := 0, deferred := [], popped := none, pops := [], held := [], conts := [] }

/-- Every thread of a gang exits. -/
def State.exitGang (s : State) (gk : Nat) : State :=
  ((s.withdrawWaits gk).onGang gk fun s => (s.mapGang gk fun g => { g with threads := g.threads.map Thread.toExited }, ())).1

/-- A crew is stopped (R336): its threads are EXITED, its frozen sets CLOSED, its bindings ended, what it holds back dropped; `cmds` is what becomes of its commands, those included that a draining reset has left running. -/
def State.stopCrew (s : State) (crew : Nat) (cmds : State → State) : State :=
  match s.crew? crew with
  | none => s
  | some c =>
    if c.phase = .killed then cmds s
    else
      let gs := s.gangsOf crew
      let s := s.mapCrew crew fun c => { c with phase := .killed }
      let s := s.closeWhere c.ctx fun f => gs.any fun g => g.1 == f.gkey
      let s := gs.foldl (fun s g => s.exitGang g.1) s
      let s := cmds s
      let s := gs.foldl (fun s g => s.unbind c.ctx g.2.bindNum) s
      let s := s.dropTask crew
      gs.foldl (fun s g => s.settleGang g.1) s

/-- A crew is killed alone. -/
def State.killOne (s : State) (crew : Nat) : State := s.stopCrew crew fun s => s.killCmds crew fun _ => false

/-- The member crews of a crew's cluster that run its stage, by rank. -/
def State.clusterPeers (s : State) (c : Crew) : List (Nat × Crew) :=
  match c.cluster with
  | none => []
  | some _ =>
    (s.crews.filter fun p => p.2.ctx == c.ctx && p.2.launch == c.launch && p.2.cluster == c.cluster && p.2.stage == c.stage && p.2.cont.isNone).insertionSort
      fun a b => a.2.rank ≤ b.2.rank

/-- A multicast is among the commands of a ring that have not completed. -/
def State.owesMulticast (s : State) (crew : Nat) (c : Crew) : Bool :=
  ((s.heldCmds crew).any fun m => m.img.toNat % 256 == 3)
    || (List.range (min (s.ringFill c) 64)).any fun i => readNum s.mem (c.winPa (32 * ((c.taken.toNat + i) % 64))) 1 == 3

/-- The other members of a cluster whose staging a crew still owes them by multicast: the command is a staging command of each of them, and they do not start without it (R298). Log entry 130. -/
def State.stagedBy (s : State) (crew : Nat) : List Nat :=
  match s.crew? crew with
  | none => []
  | some c =>
    if c.phase = .staging && s.owesMulticast crew c then
      ((s.clusterPeers c).filter fun p => p.1 != crew && p.2.phase == .staging).map (·.1)
    else []

/-- A crew is killed (R336): its commands are CLOSED, and the task retires as killed. With a multicast of its staging the crews that wait for it are killed too. -/
def State.killCrew (s : State) (crew : Nat) : State := (s.stagedBy crew).foldl State.killOne (s.killOne crew)

/-- A crew is stopped by a tenancy reset that drains (R336): its commands run to completion, but for those that are frozen, which are killed. -/
def State.drainCrew (s : State) (crew : Nat) : State :=
  s.stopCrew crew fun s => ((s.cmdsOf crew).filter fun m => m.st == .frozen).foldl (fun s m => if m.drains then s.drainCmd crew m else s.killCmd crew m.sq) s

end Sys2Proof.Machine
end

