-- ==== Sys2Proof/Machine/Frozen.lean ====
section
/-! DEFINITION. Frozen-set capabilities (R209 to R214): the checks of a capability and a selector, reading, writing, resuming and killing of frozen objects, for threads and for the capability port (R378). -/

namespace Sys2Proof.Machine

/-- A frozen object: set `i` of a context, or a command of a ring. -/
inductive Obj where
  | set (ctx i : Nat)
  | cmd (crew sq : Nat)
  deriving DecidableEq, Repr

def capGen (cap : DWord) : Nat := bitsAt cap.toNat 48 16
def capCtx (cap : DWord) : Nat := bitsAt cap.toNat 32 12
def capKind (cap : DWord) : Bool := cap.toNat.testBit 31
def capCore (cap : DWord) : Nat := bitsAt cap.toNat 16 8
def capRing (cap : DWord) : Nat := bitsAt cap.toNat 8 8
def capObj (cap : DWord) : Nat := bitsAt cap.toNat 0 8

/-- The frozen set that a capability of KIND 0 names with its current generation. -/
def State.capSet (s : State) (cap : DWord) : Option Obj :=
  let c := s.ctx (capCtx cap)
  if capCore cap = 0 ∧ capRing cap = 0 ∧ (c.sets.find? (capObj cap)).isSome ∧ c.gens.at_ 0 (capObj cap) = capGen cap then
    some (.set (capCtx cap) (capObj cap))
  else none

/-- The frozen command that a capability of KIND 1 names with its current generation. -/
def State.capCmd (s : State) (cap : DWord) : Option Obj :=
  match List.find? (fun (p : Nat × Crew) => p.2.ctx == capCtx cap && p.2.homeCore == capCore cap && p.2.ring == capRing cap) s.crews with
  | none => none
  | some (crew, c) =>
    match s.cmds.find? fun m => m.crew == crew && m.sq % 64 == capObj cap && m.st == .frozen with
    | none => none
    | some m => if capObj cap < 64 ∧ s.ringGen c m.sq = capGen cap then some (.cmd crew m.sq) else none

/-- The three checks of a capability (R209), in their order; `reach` says which contexts its holder reaches. -/
def State.capability (s : State) (reach : Nat → Bool) (cap : DWord) : Except Flt Obj :=
  if bitsAt cap.toNat 44 4 ≠ 0 ∨ bitsAt cap.toNat 24 7 ≠ 0 then .error ⟨cPriv, 3, 0⟩
  else if !reach (capCtx cap) then .error ⟨cPriv, 4, 0⟩
  else match (if capKind cap then s.capCmd cap else s.capSet cap) with
    | some o => .ok o
    | none => .error ⟨cPriv, 3, 0⟩

/-- The contexts that a gang reaches: its own, and at kernel level those of its tenancy. -/
def State.reaches (s : State) (g : Gang) (ctx : Nat) : Bool :=
  if g.level < 2 then ctx == g.ctx else s.hasCtx ctx && (s.ctx ctx).tenancy == (s.ctx g.ctx).tenancy

/-! ## Selectors (R211) -/

def selSpace (x : Word) : Nat := bitsAt x.toNat 16 2
def selLane (x : Word) : Nat := bitsAt x.toNat 8 5
def selIndex (x : Word) : Nat := bitsAt x.toNat 0 7

/-- A selector that R211 excludes whatever object the capability names. -/
def selBad (cap : DWord) (x : Word) : Bool :=
  bitsAt x.toNat 18 14 != 0 || bitsAt x.toNat 13 3 != 0 || x.toNat.testBit 7 || (capKind cap != (selSpace x == 3)) ||
  match selSpace x with
  | 0 => false
  | 1 => selLane x != 0 || decide (96 ≤ selIndex x)
  | 2 => decide (7 ≤ selIndex x)
  | _ => selLane x != 0 || decide (8 ≤ selIndex x)

/-- A selector of FWR that R212 excludes whatever object the capability names: lane states 5 and 6 are read only. -/
def selFixed (x : Word) : Bool := selSpace x == 2 && decide (5 ≤ selIndex x)

/-- ILLEGAL_OPERAND 0x0D. -/
def badSelector : Flt := ⟨cIllegalOperand, 0x0D, 0⟩

/-- The value of a lane state (R29). -/
def Thread.laneWord (t : Thread) (i : Nat) : Word := [t.pc, t.mt, t.rep, t.rcnt, t.fps, t.stateWord, t.clockhi].getD i 0

/-- The register line that a selector reaches. -/
def selLine (x : Word) : Option Nat :=
  match selSpace x with
  | 0 => some (selIndex x)
  | 1 => some (128 + selIndex x / 32)
  | _ => none

/-- A register line that a selector reaches is fetched where only the image holds it (R253). -/
def State.reachLine (s : State) (gk : Nat) (x : Word) : State :=
  match selLine x with
  | some n => s.fillLine gk n
  | none => s

/-- The value at a selected location of a gang. -/
def Gang.atSelector (g : Gang) (x : Word) : Word :=
  match selSpace x with
  | 0 => g.readV (selLane x) (selIndex x)
  | 1 => g.readK (selIndex x)
  | _ => (g.th (selLane x)).laneWord (selIndex x)

/-- FRD of an object (R212). -/
def State.readFrozen (s : State) (o : Obj) (x : Word) : State × Word :=
  match o with
  | .cmd crew sq => (s, ((s.cmd? crew sq).map fun m => word (fld m.img (32 * selIndex x) 32)).getD 0)
  | .set ctx i =>
    match (s.ctx ctx).sets.find? i with
    | none => (s, 0)
    | some f => s.onGang f.gkey fun s =>
      let s := s.reachLine f.gkey x
      (s, ((s.gang? f.gkey).map fun g => g.atSelector x).getD 0)

/-- The fault that FWR takes for a location or a value (R212). -/
def writeFault (f : FSet) (x value : Word) : Option Flt :=
  let sp := selSpace x
  let i := selIndex x
  if (sp = 0 ∨ sp = 2) ∧ !f.lanes.testBit (selLane x) then some badSelector
  else if sp = 2 ∧ (i = 0 ∨ i = 2) ∧ value.toNat % 4 ≠ 0 then some ⟨cAlign, 2, dword value.toNat⟩
  else if sp = 2 ∧ i = 1 ∧ value ≠ mtNone ∧ value.toNat % 4 ≠ 0 then some ⟨cAlign, 2, dword value.toNat⟩
  else none

/-- A lane state written. -/
def Thread.setLaneWord (t : Thread) (i : Nat) (x : Word) : Thread :=
  match i with
  | 0 => { t with pc := x }
  | 1 => { t with mt := x }
  | 2 => { t with rep := x }
  | 3 => { t with rcnt := x }
  | 4 => { t with fps := fpsWritten x }
  | _ => t

/-- A selected location of a gang written. -/
def Gang.putSelector (g : Gang) (x value : Word) : Gang :=
  match selSpace x with
  | 0 => g.writeV (selLane x) (selIndex x) value
  | 1 => g.writeK (selIndex x) value
  | _ => g.setTh (selLane x) ((g.th (selLane x)).setLaneWord (selIndex x) value)

/-- An entry word of a frozen command written (R212). -/
def Cmd.setWord (m : Cmd) (i : Nat) (x : Word) : Cmd :=
  let img := BitVec.ofNat 256 (withBits m.img.toNat (32 * i) 32 x.toNat)
  { m with img := img, changed := m.changed || img != m.img }

/-- FWR of an object (R212). -/
def State.writeFrozen (s : State) (o : Obj) (x value : Word) : Except Flt State :=
  match o with
  | .cmd crew sq => .ok (s.mapCmd crew sq fun m => m.setWord (selIndex x) value)
  | .set ctx i =>
    match (s.ctx ctx).sets.find? i with
    | none => .ok s
    | some f =>
      match writeFault f x value with
      | some e => .error e
      | none => .ok (s.onGang f.gkey fun s => ((s.reachLine f.gkey x).mapGang f.gkey fun g => g.putSelector x value, ())).1

/-! ## Resuming and killing (R213, R214) -/

/-- FRES of an object: the state, and the value for vD:vD+1. -/
def State.resumeFrozen (s : State) (o : Obj) (mask mode : Nat) : State × DWord :=
  match o with
  | .cmd crew sq => (s.resumeCmd crew sq, 0)
  | .set ctx i =>
    match (s.ctx ctx).sets.find? i with
    | none => (s, 0)
    | some f => s.onGang f.gkey fun s => s.resumeSet ctx i mask mode

/-- A staging command of a task that has not started: its killing kills the crew (R298). -/
def State.stagingOf (s : State) (crew sq : Nat) : Bool :=
  match s.crew? crew with
  | some c => c.phase == .staging && decide (sq < c.staged)
  | none => false

/-- FKILL of an object. -/
def State.killFrozen (s : State) (o : Obj) (mask : Nat) : State × DWord :=
  match o with
  | .cmd crew sq =>
    let t := s.killCmd crew sq
    (if s.stagingOf crew sq then s.killCrew crew else t, 0)
  | .set ctx i =>
    match (s.ctx ctx).sets.find? i with
    | none => (s, 0)
    | some f => s.onGang f.gkey fun s => s.killSet ctx i mask

end Sys2Proof.Machine
end

