-- ==== Sys2Proof/Machine/System.lean ====
section
/-! DEFINITION. Traps, frozen sets, user-level interrupts, special registers (R201 to R222) and the hints (R50 to R59): majors 0x36 to 0x38, 0x39 without LAUNCH and SPAWN, 0x3F; reserved words. -/

namespace Sys2Proof.Machine

/-! ## Traps (R204) -/

/-- TRAP (R204). -/
def opTrap (a : Src) (_ : Hints) : Op :=
  { form := { sCls := true, srcs := [.src a .u] }
    body := perLane fun e l => .fault ⟨cBrk, 2, dword (e.val l 0).toNat⟩ }
/-- The meaning of TRAP. -/
def execTrap (a : Src) (s : State) : Host.Outcome State Fault Refusal := run (.trap a) (opTrap a) s

/-- BRK (R204). -/
def opBrk (_ : Hints) : Op :=
  { form := {}, body := perLane fun _ _ => .fault ⟨cBrk, 1, 0⟩ }
/-- The meaning of BRK. -/
def execBrk (s : State) : Host.Outcome State Fault Refusal := run .brk opBrk s

/-- ASSERT (R204). -/
def opAssert (a : Src) (b : Src) (_ : Hints) : Op :=
  { form := { srcs := [.src a .u, .src b .u] }
    body := perLane fun e l => if e.val l 0 = 0 then .fault ⟨cBrk, 3, dword (e.val l 1).toNat⟩ else .done {} }
/-- The meaning of ASSERT. -/
def execAssert (a : Src) (b : Src) (s : State) : Host.Outcome State Fault Refusal := run (.assert a b) (opAssert a b) s

/-! ## Frozen sets (R210 to R214) -/

/-- A lane works on the object that its capability names. -/
def withObj (s : State) (e : Env) (l : Nat) (f : Obj → State × LaneOut) : State × LaneOut :=
  match s.capability (s.reaches e.g) (e.pair l 0) with
  | .error x => (s, .fault x)
  | .ok o => f o

/-- A pair as two words. -/
def pairWords (x : DWord) : List Word := [loOf x, hiOf x]

/-- FRD (R212). -/
def opFrd (d : Nat) (a : Src) (b : Src) (_ : Hints) : Op :=
  { form := { lCls := true, srcs := [.pair a, .src b .u], dst := .v d, level := 1 }
    body := inOrder fun s e l =>
      if selBad (e.pair l 0) (e.val l 2) then (s, .fault badSelector)
      else withObj s e l fun o =>
        let r := s.readFrozen o (e.val l 2)
       (r.1, .done { ws := [r.2] }) }
/-- The meaning of FRD. -/
def execFrd (d : Nat) (a : Src) (b : Src) (s : State) : Host.Outcome State Fault Refusal := run (.frd d a b) (opFrd d a b) s

/-- FWR (R212). -/
def opFwr (d : Nat) (a : Src) (b : Src) (_ : Hints) : Op :=
  { form := { srcs := [.pair a, .src b .u, .reg d 1], level := 1 }
    body := inOrder fun s e l =>
      if selBad (e.pair l 0) (e.val l 2) || selFixed (e.val l 2) then (s, .fault badSelector)
      else withObj s e l fun o =>
        match s.writeFrozen o (e.val l 2) (e.val l 3) with
        | .ok t => (t, .done {})
        | .error x => (s, .fault x) }
/-- The meaning of FWR. -/
def execFwr (d : Nat) (a : Src) (b : Src) (s : State) : Host.Outcome State Fault Refusal := run (.fwr d a b) (opFwr d a b) s

/-- The form of FRES and FKILL. -/
def frozenForm (nw : Bool) (d : Nat) (srcs : List Opnd) : Form :=
  { rbCls := true, srcs := srcs, dst := .v d, width := 2, nw := nw, bad3 := nw && d != 0
    illegal := if !nw && d % 2 != 0 then some 5 else none, level := 1, sync := false }

/-- FRES (R213). -/
def opFres (nw : Bool) (d : Nat) (a : Src) (b : Src) (h : Hints) : Op :=
  { form := { frozenForm nw d ([.pair a, .src b .u] ++ if extSrc3 h.x = 0 then [] else [.src h.src3 .u]) with ext := mSrc3 }
    body := inOrder fun s e l =>
      let mask := (e.val l 2).toNat
      let mode := (e.val l 3).toNat
      if 3 ≤ mode || (capKind (e.pair l 0) && (mask != 0 || mode != 0)) then (s, .fault badSelector)
      else withObj s e l fun o =>
        let r := s.resumeFrozen o mask mode
       (r.1, .done { ws := pairWords r.2 }) }
/-- The meaning of FRES. -/
def execFres (nw : Bool) (d : Nat) (a : Src) (b : Src) (s : State) : Host.Outcome State Fault Refusal := run (.fres nw d a b) (opFres nw d a b) s

/-- FKILL (R214). -/
def opFkill (nw : Bool) (d : Nat) (a : Src) (b : Src) (_ : Hints) : Op :=
  { form := frozenForm nw d [.pair a, .src b .u]
    body := inOrder fun s e l =>
      let mask := (e.val l 2).toNat
      if capKind (e.pair l 0) && mask != 0 then (s, .fault badSelector)
      else withObj s e l fun o =>
        let r := s.killFrozen o mask
       (r.1, .done { ws := pairWords r.2 }) }
/-- The meaning of FKILL. -/
def execFkill (nw : Bool) (d : Nat) (a : Src) (b : Src) (s : State) : Host.Outcome State Fault Refusal := run (.fkill nw d a b) (opFkill nw d a b) s

/-! ## User-level interrupts (R216 to R219) -/

/-- ILLEGAL_OPERAND 0x0F. -/
def badEndpoint : LaneOut := .fault ⟨cIllegalOperand, 0x0F, 0⟩

/-- A send of one lane: deferred by an unpinned task, or made (R216). -/
def sendLane (lost : Nat → Bool) (s : State) (e : Env) (l : Nat) : State × LaneOut :=
  let ep := e.pair l 0
  let operand := e.val l 2
  if !epValid ep then (s, badEndpoint)
  else if lost l && !s.isSelf (epPkg ep) then (s.mapGang e.gk fun g => g.dropLost l, .fault ⟨cXlatePerm, 8, 0⟩)
  else
    let make := fun (s : State) => (s.sendUli e.gk e.g.ctx ep operand, LaneOut.done {})
    if !s.unpinnedOf e.g then make s
    else match s.crewOf e.g with
      | none => make s
      | some c =>
        if s.logFits c 16 then (s.defer e.g.crew (.send e.gk ep operand), .done {})
        else match s.pin e.g with
          | .ok t => make t
          | .error pa => (s, .wait (.queue pa))

/-- ULI.SEND (R216). -/
def opUliSend (a : Src) (b : Src) (_ : Hints) : Op :=
  { form := { rbCls := true, srcs := [.pair a, .src b .u], sync := true }
    ready := releaseAt 4
    body := fun s e => inOrder (sendLane (storeLost s e)) s e }
/-- The meaning of ULI.SEND. -/
def execUliSend (a : Src) (b : Src) (s : State) : Host.Outcome State Fault Refusal := run (.uliSend a b) (opUliSend a b) s

/-- The vector that a wait delivers: pending, unmasked, the lowest ORD (R333). -/
def Endpoint.deliverable (x : Endpoint) : Option Vector_ :=
  (x.pending.filter fun v => !x.mask.toNat.testBit v.num).foldl (fun (best : Option Vector_) v =>
    match best with
    | none => some v
    | some b => if v.ord < b.ord then some v else some b) none

/-- The four words of a delivery (R219). -/
def Vector_.words (v : Vector_) : List Word := [word (v.num * 2 ^ 26 + v.payload), word v.count] ++ pairWords v.first

/-- When a wait ends without a delivery; 0 for never. -/
def Env.waitUntil (e : Env) (s : State) (b : Word) : Nat :=
  match e.why with
  | some (.interrupt _ u) => u
  | _ => if b = 0 then 0 else s.clock + b.toNat * 1024

/-- ULI.WAIT of a gang. -/
def waitGang (s : State) (e : Env) (l : Nat) : State × LaneOut :=
  let x := e.val l 0
  if 4 ≤ x.toNat then (s, badEndpoint)
  else
    let ep := s.endpoint e.g.ctx x.toNat
    if ep.bound ≠ some e.g.bindNum then (s, .fault ⟨cIllegalOperand, 0x10, 0⟩)
    else
      match ep.deliverable with
      | some v => (s.setEndpoint e.g.ctx x.toNat { ep with pending := ep.pending.filter fun w => w.num != v.num }, .done { ws := v.words })
      | none =>
        let u := e.waitUntil s (e.val l 1)
        if u != 0 && decide (u ≤ s.clock) then (s, .done { ws := [0, 0, 0, 0] }) else (s, .wait (.interrupt x.toNat u))

/-- ULI.WAIT (R219). -/
def opUliWait (d : Nat) (a : Src) (b : Src) (_ : Hints) : Op :=
  { form := { sCls := true, lCls := true, srcs := [.src a .u, .src b .u], dst := .v d, width := 4, sync := true
              illegal := if d % 4 = 0 then none else some 5 }
    body := oncePer waitGang }
/-- The meaning of ULI.WAIT. -/
def execUliWait (d : Nat) (a : Src) (b : Src) (s : State) : Host.Outcome State Fault Refusal := run (.uliWait d a b) (opUliWait d a b) s

/-- ULI.MASK of a lane: the half as it stood, and its write. -/
def maskLane (s : State) (e : Env) (l : Nat) : State × LaneOut :=
  let x := (e.val l 0).toNat
  if x / 1024 ≠ 0 ∨ bitsAt x 2 6 ≠ 0 then (s, badEndpoint)
  else
    let ep := s.endpoint e.g.ctx (x % 4)
    let lo := if x.testBit 8 then 32 else 0
    let old := word (bitsAt ep.mask.toNat lo 32)
    let s := if x.testBit 9 then s.setEndpoint e.g.ctx (x % 4) { ep with mask := dword (withBits ep.mask.toNat lo 32 (e.val l 1).toNat) } else s
    (s, .done { ws := [old] })

/-- ULI.MASK (R218). -/
def opUliMask (nw : Bool) (d : Nat) (a : Src) (b : Src) (_ : Hints) : Op :=
  { form := { srcs := [.src a .u, .src b .u], dst := .v d, nw := nw, bad3 := nw && d != 0 }
    body := inOrder maskLane }
/-- The meaning of ULI.MASK. -/
def execUliMask (nw : Bool) (d : Nat) (a : Src) (b : Src) (s : State) : Host.Outcome State Fault Refusal := run (.uliMask nw d a b) (opUliMask nw d a b) s

/-- ULI.BIND of a gang. -/
def bindGang (s : State) (e : Env) (l : Nat) : State × LaneOut :=
  let x := (e.val l 0).toNat
  if x / 512 ≠ 0 ∨ bitsAt x 2 6 ≠ 0 then (s, badEndpoint)
  else
    let ep := s.endpoint e.g.ctx (x % 4)
    let me := some e.g.bindNum
    let ok := ep.bound == me || (x.testBit 8 && ep.bound == none)
    if ok then (s.setEndpoint e.g.ctx (x % 4) { ep with bound := if x.testBit 8 then me else none }, .done { ws := [1] })
    else (s, .done { ws := [0] })

/-- ULI.BIND (R217). -/
def opUliBind (nw : Bool) (d : Nat) (a : Src) (_ : Hints) : Op :=
  { form := { srcs := [.src a .u], dst := .v d, nw := nw, bad3 := nw && d != 0 }
    body := oncePer bindGang }
/-- The meaning of ULI.BIND. -/
def execUliBind (nw : Bool) (d : Nat) (a : Src) (s : State) : Host.Outcome State Fault Refusal := run (.uliBind nw d a) (opUliBind nw d a) s

/-! ## Special registers (R27, R28, R221, R222) -/

/-- The identifier that the A operand gives: the payload of IMMW. -/
def srId (a : Src) (h : Hints) : Option Nat := if a = .immw then h.imm else none

/-- ILLEGAL_OPERAND of the identifier (R221). -/
def srIllegal (a : Src) (h : Hints) : Option Nat :=
  if a ≠ .immw then some 0x12
  else match h.imm with
    | some n => if 0x1C < n then some 0x11 else none
    | none => none

/-- WRSR is permitted: FPSTATUS at every level, seven registers of the context at kernel level (R27). -/
def srWritable (n level : Nat) : Bool := n == 0 || (level == 2 && (n == 0x12 || (decide (0x18 ≤ n) && decide (n ≤ 0x1C))))

/-- Check 2 of WRSR (R221). -/
def srPriv (a : Src) (h : Hints) (g : Gang) : Option Nat :=
  match srId a h with
  | some n => if n ≤ 0x1C ∧ !srWritable n g.level then some 2 else none
  | none => none

/-- The crew whose registers a gang reads; a handler gang has none (R321). -/
def State.srCrew (s : State) (g : Gang) : Option Crew := if g.hslot.isSome then none else s.crewOf g

/-- The value of a special register for a lane (R27). For a handler thread, which has no crew, R321 gives GROUPS, WINSIZE and WINBASE; CREW, TASK, TASKHI and STAGE read 0 (DESIGN CHOICE, log entry 22). -/
def State.readSr (s : State) (e : Env) (l n : Nat) : Word :=
  let g := e.g
  let t := g.th l
  let c := s.srCrew g
  let x := s.ctx g.ctx
  match n with
  | 0x00 => t.fps
  | 0x01 => t.mt
  | 0x02 => word l
  | 0x03 => g.tid l
  | 0x04 => word ((c.map (·.index)).getD 0)
  | 0x05 => word ((c.map (·.serial)).getD 0)
  | 0x06 => word (((c.map (·.serial)).getD 0) / 2 ^ 32)
  | 0x07 => word g.index
  | 0x08 => word (dieOf g.core * 256 + g.core % Config.coresPerDie)
  | 0x09 => word (g.issue.getD 0 * 16 + g.subCore)
  | 0x0A => word ((c.map (·.stage)).getD 0)
  | 0x0B => word g.level
  | 0x0C => word g.ctx
  | 0x0D => word (x.tenancy % 16 + (s.ten x.tenancy).dies % 16 * 16)
  | 0x0E => word (s.die (dieOf g.core)).world
  | 0x0F => word s.clock
  | 0x10 => t.clockhi
  | 0x11 => t.rep
  | 0x12 => word x.ageMax
  | 0x13 => (c.map (·.k7)).getD 0xFFFFFFFF#32
  | 0x14 => (c.map (·.k4)).getD 0
  | 0x15 => word ((c.map (·.winSize)).getD 0)
  | 0x16 => word (maskOf e.lanes)
  | 0x17 => (s.pod.own.map word).getD 0xFFFFFFFF#32
  | 0x18 => loOf x.regBase
  | 0x19 => hiOf x.regBase
  | 0x1A => loOf x.codeBase
  | 0x1B => hiOf x.codeBase
  | _ => word x.prio

/-- RDSR (R221, R222). -/
def opRdsr (nw : Bool) (d : Nat) (a : Src) (h : Hints) : Op :=
  { form := { lCls := srId a h == some 0x0F, srcs := [.src a .u], dst := .v d, nw := nw, bad3 := nw && d != 0 && srId a h != some 0x0F
              bad9 := nw && srId a h == some 0x0F, illegal := srIllegal a h }
    body := fun s e => (s, e.lanes.map fun l =>
      let n := (e.val l 0).toNat
     (l, .done { ws := [s.readSr e l n], set := fun t => if n = 0x0F then { t with clockhi := word (s.clock / 2 ^ 32) } else t })) }
/-- The meaning of RDSR. -/
def execRdsr (nw : Bool) (d : Nat) (a : Src) (s : State) : Host.Outcome State Fault Refusal := run (.rdsr nw d a) (opRdsr nw d a) s

/-- A base with its low half written: bits [15:0] stay zero. -/
def lowHalf (x : DWord) (w : Word) : DWord := pairOf (w &&& 0xFFFF0000#32) (hiOf x)
/-- A base with its high half written: bits [54:32] in [22:0]. -/
def highHalf (x : DWord) (w : Word) : DWord := pairOf (loOf x) (w &&& 0x7FFFFF#32)

/-- A register of a context written (R222): the bases wait for the next context switch (R28). -/
def Context.writeSr (c : Context) (n : Nat) (w : Word) : Context :=
  match n with
  | 0x12 => { c with ageMax := min (max w.toNat 64) 65535 }
  | 0x18 => { c with regNext := lowHalf c.regNext w }
  | 0x19 => { c with regNext := highHalf c.regNext w }
  | 0x1A => { c with codeNext := lowHalf c.codeNext w }
  | 0x1B => { c with codeNext := highHalf c.codeNext w }
  | 0x1C => { c with prio := w.toNat % 8 }
  | _ => c

/-- WRSR (R221, R222). -/
def opWrsr (a : Src) (b : Src) (h : Hints) : Op :=
  { form := { srcs := [.src a .u, .src b .u], priv := srPriv a h, illegal := srIllegal a h }
    body := inOrder fun s e l =>
      let n := (e.val l 0).toNat
      let w := e.val l 1
      if n = 0 then (s, .done { set := fun t => { t with fps := fpsWritten w } })
      else (s.mapCtx e.g.ctx fun c => c.writeSr n w, .done {}) }
/-- The meaning of WRSR. -/
def execWrsr (a : Src) (b : Src) (s : State) : Host.Outcome State Fault Refusal := run (.wrsr a b) (opWrsr a b) s

/-! ## Hints (R50 to R54, R59) -/

/-- A lane has issued a hint: what it leaves in the thread, the next PC, and CODE_SEG 0x02 at the end of the segment (R55). -/
def hintLane (f : Thread → Thread) (t : Thread) : Thread × Option Flt :=
  let u := f { t with rcnt := countUp t.rcnt }
  if t.pc.toNat % 0x8000 = 0x7FFC then (u, some ⟨cCodeSeg, 2, dword (t.pc + 4).toNat⟩) else ({ u with pc := t.pc + 4 }, none)

/-- A hint issued for the lanes of a path: no operand, no latch, no class. One that begins a region ends the guard of R305. -/
def State.issueHint (s : State) (gk : Nat) (g : Gang) (lanes : List Nat) (begins : Bool) (f : Thread → Thread) : State :=
  let ended := lanes.filterMap fun l => (hintLane f (g.th l)).2.map fun x => (l, x)
  let g := lanes.foldl (fun (g : Gang) l => g.setTh l (hintLane f (g.th l)).1) { g with guard := g.guard && !begins }
  if ended.isEmpty then s.setGang gk g.settle
  else
    let s := ((s.setGang gk g).freezeAll gk ended).mapGang gk Gang.settle
    (s.settleBarriers g.crew).releaseSlot gk

/-- The meaning of a hint: the check of the hints that are pending, then what it leaves in each thread. -/
def runHint (begins : Bool) (check : Hints → Option Nat) (f : Thread → Thread) (s : State) : Host.Outcome State Fault Refusal :=
  match s.cur with
  | none => .fault .noIssuingPath
  | some c =>
    match s.gang? c.gang with
    | none => .fault .noIssuingPath
    | some g =>
      let lanes := lanesOf c.mask
      match check (g.th (lanes.headD 0)).hints with
      | some n => .next (s.rejectAll c.gang g lanes ⟨cIllegalInsn, n, 0⟩).clearCur
      | none => .next (s.issueHint c.gang g lanes begins f).clearCur

/-- The meaning of HX.IMM (R50, R59). -/
def execHxImm (payload : Nat) (s : State) : Host.Outcome State Fault Refusal :=
  runHint false (fun q => if q.imm.isSome then some 6 else none) (fun t => { t with hints := { t.hints with imm := some payload } }) s

/-- The meaning of HX.EXT (R50, R51, R59). -/
def execHxExt (payload : Nat) (s : State) : Host.Outcome State Fault Refusal :=
  runHint false (fun q => if q.ext.isSome then some 6 else none) (fun t => { t with hints := { t.hints with ext := some payload } }) s

/-- The meaning of HX.REGION (R53): a region begins at the hint, which is its first instruction. The tag is not kept. -/
def execHxRegion (_payload : Nat) (s : State) : Host.Outcome State Fault Refusal :=
  runHint true (fun q => if q.isNone then none else some 8) (fun t => { t with rep := t.pc, rcnt := 1 }) s

/-- The meaning of HX.SCHED (R50, R52, R59). -/
def execHxSched (pri : Nat) (reuse : Nat) (s : State) : Host.Outcome State Fault Refusal :=
  runHint false (fun q => if q.sched.isSome then some 6 else none) (fun t => { t with hints := { t.hints with sched := some (pri * 16 + reuse) } }) s

/-- The meaning of RESERVED_ENCODING (R56, R58): 0x01 where the major is reserved, 0x02 where the minor is. -/
def execReservedEncoding (w : Nat) (s : State) : Host.Outcome State Fault Refusal :=
  let maj := bitsAt w 26 6
  runIllegal (if maj = 0x0F ∨ (0x3B ≤ maj ∧ maj ≤ 0x3E) then 1 else 2) s

end Sys2Proof.Machine
end

