-- ==== Sys2Proof/Machine/Service.lean ====
section
/-! DEFINITION. Service calls and continuations (R38, R205 to R208): SVC and SPAWN. -/

namespace Sys2Proof.Machine

/-! ## Records of the continuation pool (R206) -/

/-- STATE of a record; none where the pool is not mapped. -/
def State.recordState (s : State) (ctx c : Nat) : Option Nat :=
  (s.kernelPa ctx (s.poolVa ctx c + 0x4600) 4).map fun pa => readNum s.mem pa 4

/-- The FREE record that a batch takes: the lowest. -/
def State.freeRecord (s : State) (ctx : Nat) : Option Nat :=
  if (s.recordState ctx 0).isNone then none else (List.range 4096).find? fun c => s.recordState ctx c == some 0

/-- A thread as a continuation record holds it (R205). -/
def Thread.forRecord (t : Thread) (batch : Bool) : Thread :=
  if batch then { t with pc := t.pc + 4, mt := mtNone, run := .run } else { t with run := .exited }

/-- The bytes of a record up to its arguments (R206): register lines that only the image holds are read from it. -/
def State.recordHead (s : State) (c : Crew) (g : Gang) (service d : Nat) (batch : List Nat) : List Byte :=
  let lines := allLines.flatMap (s.lineBytes g)
  let g := { g with threads := g.threads.mapIdx fun l (t : Thread) => t.forRecord (batch.contains l) }
  lines ++ controlBytes g c.index c.serial [0]
    ++ bytesOf 4 1 ++ bytesOf 4 service ++ bytesOf 4 (maskOf batch) ++ bytesOf 4 d ++ bytesOf 8 c.serial
    ++ bytesOf 4 (c.stage % 16 + dieOf g.core % 4 * 256) ++ bytesOf 4 c.index ++ List.replicate 96 0

/-- The granules of a record that race detection covers, with their addresses in the pool (R227, R236). -/
def State.recordGranules (s : State) (ctx r : Nat) : List (Nat × DWord) :=
  let va := s.poolVa ctx r
  let first := min 0x4800 (pageRoom va)
  [(va, first), (va + dword first, 0x4800 - first)].flatMap fun p =>
    match s.kernelLeaf ctx p.1 1 .write with
    | some (x, _, pa) => if covered pa (some x) then (List.range (p.2 / 16)).map fun i => ((s.home pa + 16 * i) / 16, p.1 + dword (16 * i)) else []
    | none => []

/-- The race that the writes of a record meet. -/
def State.recordRace (s : State) (gk ctx r : Nat) : Option Flt :=
  (s.recordGranules ctx r).findSome? fun p => (s.raceSub gk p.1 true true false).map fun n => ⟨cRace, n, p.2⟩

/-- The writes of a record are accesses of path LS (R227), of the interval in which the SVC stands (R233). They are performed before its request is pushed (R206, R237). -/
def State.noteRecord (s : State) (gk : Nat) (iv : Option Nat) (ctx r : Nat) : State :=
  ((s.recordGranules ctx r).foldl (fun (s : State) p => s.recordAccess gk iv p.1 true true false none) s).access gk iv none

/-- A record is written for a batch, and its launch knows it. -/
def State.writeRecord (s : State) (e : Env) (c : Crew) (r d : Nat) (batch : List Nat) : State :=
  let s := s.noteRecord e.gk e.iv e.g.ctx r
  let va := s.poolVa e.g.ctx r
  let s := s.writeImage e.g.ctx va (s.recordHead c e.g (e.val (batch.headD 0) 0).toNat d batch)
  let s := batch.foldl (fun s l => s.writeImage e.g.ctx (va + dword (0x4680 + 4 * l)) (bytesOf 4 (e.val l 1).toNat)) s
  let s := s.writeImage e.g.ctx (va + 0x4780) (List.replicate 128 0)
  s.mapLaunch c.ctx c.launch fun l => { l with records := l.records ++ [r] }

/-- A service request (R206). -/
def serviceRequest (ctx r service mask : Nat) : List Byte := bytesOf 4 ctx ++ bytesOf 4 r ++ bytesOf 4 service ++ bytesOf 4 mask

/-! ## SVC (R205, R207) -/

/-- The record that a waiting batch holds. -/
def Env.heldRecord (e : Env) : Option Nat := e.extra.head?.map fun c => c.toNat

/-- The request of a batch with its record written: deferred by an unpinned task, or pushed. -/
def requestBatch (s : State) (e : Env) (c : Crew) (r : Nat) (batch : List Nat) : State × LaneOut :=
  let die := dieOf e.g.core
  let req := serviceRequest e.g.ctx r (e.val (batch.headD 0) 0).toNat (maskOf batch)
  let wait : LaneOut := .wait (.service (batch.headD 0)) [word r]
  let push := fun (s : State) => match s.pushService die e.g.ctx e.g.crew? req with
    | some t => (t, LaneOut.exit)
    | none => (s, wait)
  if !s.unpinnedOf e.g then push s
  else if s.logFits c 16 then
    ((s.defer e.g.crew (.service die req)).mapCrew e.g.crew fun c => { c with conts := c.conts ++ [r] }, .exit)
  else match s.pin e.g with
    | .ok t => push t
    | .error _ => (s, wait)

/-- One batch: a record, then its request. -/
def svcBatch (d : Nat) (s : State) (e : Env) (batch : List Nat) : State × LaneOut :=
  match s.crewOf e.g with
  | none => (s, .exit)
  | some c =>
    match e.heldRecord with
    | some r => requestBatch s e c r batch
    | none =>
      match s.freeRecord e.g.ctx with
      | none => (s, .wait (.service (batch.headD 0)))
      | some r =>
        match s.recordRace e.gk e.g.ctx r with
        | some f => (s, .fault f)
        | none => requestBatch (s.writeRecord e c r d batch) e c r batch

/-- The batches of the lanes by service number, in ascending order of their lowest lane. -/
def svcBody (d : Nat) : Body := fun s e =>
  let nums := distinct (e.lanes.map fun l => (e.val l 0).toNat)
  let r := nums.foldl (fun (acc : State × List (Nat × LaneOut)) n =>
    let batch := e.lanes.filter fun l => (e.val l 0).toNat == n
    let o := svcBatch d acc.1 e batch
    (o.1, acc.2 ++ batch.map fun l => (l, o.2))) (s, [])
  (r.1, e.lanes.filterMap fun l => r.2.find? fun p => p.1 == l)

/-- SVC (R205, R207). It reads every register of the gang, so that it waits for query results that are due (R225). -/
def opSvc (d : Nat) (a : Src) (b : Src) (_ : Hints) : Op :=
  { form := { sCls := true, srcs := [.src a .u, .src b .u], sync := true
              priv := fun g => if g.level = 0 then none else some 1 }
    ready := fun s e => releaseAt 4 s e && e.g.queries.isEmpty
    body := svcBody d }
/-- The meaning of SVC. -/
def execSvc (d : Nat) (a : Src) (b : Src) (s : State) : Host.Outcome State Fault Refusal := run (.svc d a b) (opSvc d a b) s

/-! ## SPAWN (R208, R38) -/

/-- The record of a context's pool that begins at a physical address. -/
def State.poolIndex (s : State) (ctx pa : Nat) : Option Nat :=
  let base := (s.poolVa ctx 0).toNat
  (List.range 146).findSome? fun i =>
    let page := (base / 2 ^ 19 + i) * 2 ^ 19
    match s.kernelPa ctx (dword page) 1 with
    | none => none
    | some p =>
      let off := page + (pa - p) - base
      if p ≤ pa ∧ pa < p + 2 ^ 19 ∧ base ≤ page + (pa - p) ∧ off % 0x4800 = 0 ∧ off / 0x4800 < 4096 then some (off / 0x4800) else none

/-- The context and index of the record at a physical address: of the gang's own context first. -/
def State.recordAt (s : State) (ctx pa : Nat) : Option (Nat × Nat) :=
  (ctx :: s.ctxs.keys).findSome? fun x => (s.poolIndex x pa).map fun c => (x, c)

/-- A gang as it begins: no path has issued, no interval is open, every register line is held. -/
def Gang.make (index crew ctx level : Nat) (threads : List Thread) (v k : Tbl Word) : Gang :=
  { index := index, crew := crew, ctx := ctx, level := level, grec := 0, core := 0, slot := 0, hslot := none, resid := .running,
    threads := threads, v := v, k := k, ages := [], current := none, forced := none, split := [], issue := none, takenAt := 0, readyAt := 0,
    readied := false, guard := false, ivNum := 0, ivs := [], absent := [], backed := [], clean := [], marked := [], damaged := [],
    owed := [], queries := [], tiles := [], oldTiles := [] }

/-- The words of a byte list as a table, zero words not listed. -/
def wordTable (keys : List (Nat × Nat)) (b : List Byte) : Tbl Word :=
  (keys.map fun p => (p.1, word (natOfBytes ((b.drop p.2).take 4)))).filter fun p => p.2 != 0

/-- Keys of the v registers with their offsets in a gang record. -/
def vKeys : List (Nat × Nat) := (List.range 32).flatMap fun l => (List.range 128).map fun n => (128 * l + n, 128 * n + 4 * l)
/-- Keys of the k registers with their offsets in a gang record. -/
def kKeys : List (Nat × Nat) := (List.range 96).map fun n => (n, 0x4000 + 4 * n)

/-- The gang of a continuation task, from the bytes of its record (R38, R208): saved registers with the replies, a new PC, mt and latches as at every task start. -/
def contGang (ctx level : Nat) (b : List Byte) : Gang :=
  let num := fun (o n : Nat) => natOfBytes ((b.drop o).take n)
  let mask := num 0x4608 4
  let reg := num 0x460C 4 % 128
  let lane := fun (l : Nat) =>
    let at_ := 0x4200 + 32 * l
    { Thread.start (word (num at_ 4)) (fpsWritten (word (num (at_ + 16) 4))) with
      clockhi := word (num (at_ + 24) 4), run := if mask.testBit l then Run.run else Run.exited }
  let g := Gang.make 0 0 ctx level ((List.range 32).map lane) (wordTable vKeys b) (wordTable kKeys b)
  (lanesOf mask).foldl (fun (g : Gang) l => g.writeV l reg (word (num (0x4700 + 4 * l) 4))) g

/-- A continuation task is created from a PENDING record: it waits for a core, and its record is FREE again. The low word of its serial is given back. -/
def State.spawn (s : State) (ctx c : Nat) (l : Launch) : State × Word :=
  let b := s.readImage ctx (s.poolVa ctx c) 0x4800
  let num := fun (o n : Nat) => natOfBytes ((b.drop o).take n)
  let k : Cont := ⟨l.nextTask, num 0x461C 4, num 0x4618 4 % 16, num 0x4618 4 / 256 % 4, contGang ctx l.level b, []⟩
  let s := ((s.touchRun ctx (s.poolVa ctx c) 0x4800 .read).setRecord ctx c 2).mapLaunch l.ctx l.serial fun l => { l with conts := l.conts ++ [k], nextTask := l.nextTask + 1 }
  (s.freeRecords ctx [c], word l.nextTask)

/-- ILLEGAL_OPERAND 0x0E. -/
def badRecord : LaneOut := .fault ⟨cIllegalOperand, 0x0E, 0⟩

/-- The record of a lane of SPAWN found in memory, each of its pages translated. -/
def State.recordLoc (s : State) (e : Env) (l : Nat) : State × Loc :=
  let va := e.pair l 0
  match s.agentLoc (e.who l) va 16 .write true with
  | (s, .found pa leaf) =>
    if 0x4800 ≤ pageRoom va then (s, .found pa leaf)
    else match s.agentLoc (e.who l) (va + dword (pageRoom va)) 16 .write true with
      | (s, .found _ _) => (s, .found pa leaf)
      | (s, .flt f) => (s, .flt { f with va := va })
      | (s, .wait w) => (s, .wait w)
  | r => r

/-- SPAWN of one lane. -/
def spawnLane (s : State) (e : Env) (l : Nat) : State × LaneOut :=
  match s.recordLoc e l with
  | (s, .flt f) => (s, .fault f)
  | (s, .wait w) => (s, .wait w)
  | (s, .found pa _) =>
    match s.recordAt e.g.ctx (s.home pa) with
    | none => (s, badRecord)
    | some (x, c) =>
      if x ≠ e.g.ctx ∧ !(s.reaches e.g x) then (s, .fault ⟨cPriv, 4, 0⟩)
      else if s.recordState x c ≠ some 1 then (s, badRecord)
      else
        match s.launches.find? fun l => l.ctx == x && l.records.contains c with
        | none => (s, badRecord)
        | some k =>
          let r := s.spawn x c k
          (r.1, .done { ws := [r.2] })

/-- SPAWN (R208). -/
def opSpawn (nw : Bool) (d : Nat) (a : Src) (_ : Hints) : Op :=
  { form := { rbCls := true, srcs := [.pair a], dst := .v d, nw := nw, bad3 := nw && d != 0, level := 1, sync := true }
    ready := fun s e => releaseAt 3 s e && !(inOrder spawnLane s e).2.any fun p => p.2.waits
    stall := fun s e => e.lanes.foldl (fun s l =>
      let va := e.pair l 0
      if 2 ^ 55 ≤ va.toNat then s
      else ((s.translatePage e.g.core e.g.ctx (va.toNat / 2 ^ 19) .write).1.translatePage e.g.core e.g.ctx ((va.toNat + 0x47FF) / 2 ^ 19) .write).1) s
    body := inOrder spawnLane }
/-- The meaning of SPAWN. -/
def execSpawn (nw : Bool) (d : Nat) (a : Src) (s : State) : Host.Outcome State Fault Refusal := run (.spawn nw d a) (opSpawn nw d a) s

end Sys2Proof.Machine
end

