-- ==== Sys2Proof/Machine/Task.lean ====
section
/-! DEFINITION. Tasks (R32, R37, R38, R128, R256 to R258, R296 to R303): their blocks and slots, start, staging, retirement and abort. -/

namespace Sys2Proof.Machine

/-! ## Vault blocks (R256 to R258, R262) -/

/-- First blocks and lengths of what the crews hold on a core: window portions and commit logs. -/
def State.runsOn (s : State) (core : Nat) : List (Nat × Nat) :=
  s.crews.flatMap fun p =>
    ((p.2.cores.zip p.2.blocks).filterMap fun q => if q.1 = core then some (q.2, p.2.portion) else none)
      ++ (if p.2.homeCore = core then p.2.logBlock.toList else [])

/-- The first block above the scratch blocks: 128 − QBLK. -/
def State.scratchEnd (s : State) (core : Nat) : Nat := 128 - (s.core core).qblk

/-- The boundary that the runs of a core give (R256). -/
def State.boundaryOf (s : State) (core : Nat) : Nat := lowest (s.scratchEnd core :: (s.runsOn core).map (·.1))

/-- `n` blocks from `a` on touch none of some runs. -/
def runFree (runs : List (Nat × Nat)) (a n : Nat) : Bool := runs.all fun r => decide (r.1 + r.2 ≤ a) || decide (a + n ≤ r.1)

/-- Where a portion of `n` blocks goes (R257): at the top of the highest long enough run of free scratch blocks, else at a boundary lowered by its size. -/
def findRun (runs : List (Nat × Nat)) (b top n : Nat) : Option Nat :=
  match (if n ≤ top then (List.range (top - n + 1)).reverse.find? fun a => decide (b ≤ a) && runFree runs a n else none) with
  | some a => some a
  | none => if Config.minBoundary + n ≤ b then some (b - n) else none

/-- The first blocks of a portion and of a commit log on a core. -/
def State.findBlocks (s : State) (core portion log : Nat) : Option (Nat × Nat) :=
  let runs := s.runsOn core
  let b := (s.core core).boundary
  match findRun runs b (s.scratchEnd core) portion with
  | none => none
  | some a =>
    if log = 0 then some (a, 0)
    else (findRun ((a, portion) :: runs) (min a b) (s.scratchEnd core) log).map fun l => (a, l)

/-- The lines of a core's vault cache in blocks that have left the cache role. -/
def State.strayLines (s : State) (core : Nat) : List Line := (s.core core).cache.filter fun x => decide ((s.core core).boundary ≤ x.way)

/-- The cache blocks of a core that were handed over are empty: dirty lines written back through their home cache, clean ones dropped, the intervals of their tags ended (R258). -/
def State.emptyBlocks (s : State) (core : Nat) : State :=
  let gone := s.strayLines core
  let s := gone.foldl (fun (s : State) x =>
    let s := s.endTagged x.addr 128
    if x.dirty && regionOf x.addr == .hbm then s.homeFill core x.ctx x.addr true else s) s
  s.mapCore core fun c => { c with cache := c.cache.filter fun x => decide (x.way < c.boundary) }

/-! ## Resident slots (R303, R305) -/

/-- The gangs resident on a core. -/
def State.residents (s : State) (core : Nat) : List Gang :=
  (s.gangs.filter fun p => p.2.core == core && p.2.hslot.isNone && p.2.resid == .running).map (·.2)

/-- The slot that a further gang takes: on the sub-core with the fewest resident gangs, then the lowest number. -/
def State.pickSlot (s : State) (core : Nat) : Option Nat :=
  let used := (s.residents core).map (·.slot)
  let count := fun (sub : Nat) => (used.filter fun x => x / 24 == sub).length
  let sub := (List.range 12).foldl (fun (best : Nat) x => if count x < count best then x else best) 0
  (lowestFree ((used.filter fun x => x / 24 == sub).map fun x => x % 24) 24).map fun x => 24 * sub + x

/-- The core of a gang among the cores of its crew (R296). -/
def coreIndex (gangs cores g : Nat) : Nat := g * cores / max gangs 1

/-- Gangs of a crew on its core number `j`. -/
def shareOf (gangs cores j : Nat) : Nat := ((List.range gangs).filter fun g => coreIndex gangs cores g == j).length

/-- A stage as a continuation task of it has it: one gang on one core, with the share of one core of the window, and nothing staged (R208). -/
def Stage.forCont (t : Stage) : Stage := { t with gangs := 1, cores := 1, wblk := t.wblk / max t.cores 1, nstg := 0 }

/-- The stage of a crew, as its task has it. -/
def State.stageOfCrew (s : State) (c : Crew) : Option Stage :=
  ((s.launch? c.ctx c.launch).bind fun l => l.stages[c.stage]?).map fun t => if c.cont.isSome then t.forCont else t

/-- Slots of a core that are kept for gangs of placed tasks that have not started. -/
def State.reservedSlots (s : State) (core : Nat) : Nat :=
  s.crews.foldl (fun n p =>
    if p.2.phase = .handover ∨ p.2.phase = .staging then
      match s.stageOfCrew p.2 with
      | some t => n + ((List.range p.2.cores.length).foldl (fun m j =>
          if p.2.cores[j]? = some core then m + shareOf t.gangs p.2.cores.length j else m) 0)
      | none => n
    else n) 0

/-- The lowest gang record number of a context that no gang has. -/
def State.freeRecNum (s : State) (ctx : Nat) : Nat :=
  let used := (s.gangs.filter fun p => p.2.ctx == ctx && p.2.hslot.isNone).map fun p => p.2.grec
  (lowestFree used (used.length + 1)).getD 0

/-! ## The start of a task (R37, R38, R298) -/

/-- A key for a new gang or crew. -/
def State.newKey (s : State) : Nat × State := (s.nextKey + 1, { s with nextKey := s.nextKey + 1 })

/-- The k registers at the start of a task (R37). -/
def startK (c : Crew) (arg : DWord) : Tbl Word :=
  [(0, loOf arg), (1, hiOf arg), (2, c.k2), (3, word c.index), (4, c.k4), (5, word c.winSize), (6, word c.ring), (7, c.k7)].filter fun p => p.2 != 0

/-- The v registers of gang `i` at the start of a task: v0 is the thread index. -/
def startV (i : Nat) : Tbl Word := ((List.range 32).map fun l => (128 * l, word (32 * i + l))).filter fun p => p.2 != 0

/-- Gang `i` of a task as it starts. -/
def startGang (crew : Nat) (c : Crew) (t : Stage) (arg : DWord) (i : Nat) : Gang :=
  match c.cont with
  | some k => { k.gang with crew := crew, level := c.level }
  | none =>
    Gang.make i crew c.ctx c.level (List.replicate 32 (Thread.start t.entry (word (t.fpen * 256)))) (startV i) (startK c arg)

/-- A gang comes to a core: slot, record number, readiness. -/
def State.seatGang (s : State) (core : Nat) (g : Gang) : State :=
  match s.pickSlot core with
  | none => s
  | some slot =>
    let r := (s.takeBases core g.ctx).newKey
    { r.2 with gangs := r.2.gangs.put r.1 { g with core := core, slot := slot, grec := s.freeRecNum g.ctx, readyAt := s.clock } }.trimLines core (slot / 24) none

/-- The commands published on a crew's ring have all completed; those that a broken ring does not accept have not (R172). -/
def State.ringDone (s : State) (crew : Nat) : Bool :=
  match s.crew? crew with
  | none => true
  | some c => s.ringFill c == 0 && (s.heldCmds crew).isEmpty && ((s.cmdsOf crew).all fun m => m.st != .frozen)

/-- The staging commands that a crew's start waits for have completed: its own, and the multicasts of its cluster. -/
def State.staged (s : State) (crew : Nat) (c : Crew) : Bool :=
  s.ringDone crew && (s.clusterPeers c).all fun p => p.2.phase != .handover && (p.2.phase != .staging || s.ringDone p.1)

/-- The context runs on a core: none of its gangs there is pre-empted or switched out. -/
def State.runsHere (s : State) (ctx core : Nat) : Bool := s.gangs.all fun p => !(p.2.ctx == ctx && p.2.core == core) || p.2.resid == .running

/-! ### Whole crews and COHAB groups (R308) -/

/-- Two crews are members of one COHAB group. -/
def State.cohabits (s : State) (a b : Crew) : Bool :=
  a.ctx == b.ctx && a.launch == b.launch && a.cont.isNone && b.cont.isNone &&
    match s.launch? a.ctx a.launch with
    | some l => l.groups.any fun g => g.cohab && g.members.contains (a.stage, a.index) && g.members.contains (b.stage, b.index)
    | none => false

/-- The cores on which a context has to move together: those of its crews and COHAB groups that touch some cores. -/
def State.movedWith (s : State) (ctx : Nat) : Nat → List Nat → List Nat
  | 0, ks => ks
  | n + 1, ks =>
    let own := s.crews.filter fun p => p.2.ctx == ctx
    let hit := own.filter fun p => p.2.cores.any ks.contains
    let mates := own.filter fun p => hit.any fun q => s.cohabits p.2 q.2
    s.movedWith ctx n (distinct (ks ++ (hit ++ mates).flatMap fun p => p.2.cores))

/-- The cores that a move of a context on one core takes in. -/
def State.moveSet (s : State) (ctx core : Nat) : List Nat := s.movedWith ctx (s.crews.length + 1) [core]

/-- A placed task starts once its staging is complete (R298): its gangs become resident, and its item's HEAD commit is made where it is not held back to retirement (R293). It waits while its context is pre-empted on a core that moves with its own (R308). -/
def State.startTask (s : State) (crew : Nat) : State :=
  match s.crew? crew with
  | none => s
  | some c =>
    match s.launch? c.ctx c.launch, s.stageOfCrew c with
    | some l, some t =>
      let n := t.gangs
      let room := (List.range c.cores.length).all fun j =>
        decide ((s.residents (c.cores.getD j 0)).length + shareOf n c.cores.length j ≤ Config.gangSlots)
      if c.phase ≠ .staging || !s.staged crew c || (s.ctx c.ctx).stopped || !room || !(s.moveSet c.ctx c.homeCore).all (s.runsHere c.ctx) then s
      else
        let s := s.mapCrew crew fun d => { d with phase := .running, popped := if c.unpinned then d.popped else none }
        let s := if c.unpinned then s else c.popped.toList.foldl (fun s p => s.commitLater ⟨p.pa, p.num, false, c.ctx, some crew⟩) s
        (List.range n).foldl (fun s i => s.seatGang (c.cores.getD (coreIndex n c.cores.length i) 0) (startGang crew c t l.arg i)) s
    | _, _ => s

/-- TASK_START (R298, R37, R38). A placed task starts once its staging commands have completed. -/
def execTaskStart (crew : Nat) (s : State) : Host.Outcome State Fault Refusal :=
  .next (s.startTask crew)

/-! ## Staging (R298) -/

/-- The source of a staging entry for a task (R288). -/
def Staging.from (t : Staging) (k2 : Word) : DWord := t.src + dword ((t.stride.toInt * k2.toNat) % 2 ^ 64).toNat

/-- A staging command as a ring entry: COPY, or FILLMC to the ranks of a mask; VSCOPE crew, no handles. -/
def stagingEntry (t : Staging) (k2 : Word) (mask : Option Nat) : BitVec 256 :=
  let op := if mask.isSome then 3 else 1
  let dst := if mask.isSome then 0x80000000 + t.woff else t.woff
  BitVec.ofNat 256 (op + 0xFFFF * 2 ^ 8 + 2 ^ 25 + 2 ^ 31 + (t.from k2).toNat * 2 ^ 32 + dst * 2 ^ 96 + t.len * 2 ^ 160 + 0xFFFF * 2 ^ 192
    + mask.getD 0 * 2 ^ 208)

/-- An entry stored in a ring by the balancer. -/
def State.storeEntry (s : State) (crew : Nat) (x : BitVec 256) : State :=
  match s.crew? crew with
  | none => s
  | some c =>
    let n := s.ringPub c
    ((s.store (c.winPa (32 * (n % 64))) (bytesOf 32 x.toNat)).store (c.winPa 0x800) (bytesOf 4 (n + 1))).mapCrew crew
      fun c => { c with pub := word (n + 1), staged := c.staged + 1 }

/-- The staging entries of a task published on its ring, in entry order. -/
def State.stage (s : State) (crew : Nat) : State :=
  match s.crew? crew with
  | none => s
  | some c =>
    match s.launch? c.ctx c.launch, s.stageOfCrew c with
    | some l, some t =>
      let peers := s.clusterPeers c
      let lead := match peers with | p :: _ => p.1 == crew | [] => true
      ((l.stagings.drop t.stg).take t.nstg).foldl (fun s e =>
        if !e.mc then s.storeEntry crew (stagingEntry e c.k2 none)
        else if lead then s.storeEntry crew (stagingEntry e c.k2 (some (maskOf (peers.map fun p => p.2.rank))))
        else s) s
    | _, _ => s

/-- The window of a crew as its task finds it (R258, R293): zero, EMPTY and clear, with its item at 0x1000. -/
def State.newWindow (s : State) (crew : Nat) : State :=
  match s.crew? crew with
  | none => s
  | some c =>
    let s := (c.cores.zip c.blocks).foldl (fun (s : State) (p : Nat × Nat) => s.scrubRange (vaultPa p.1 p.2 0) (c.portion * 0x10000)) s
    s.store (c.winPa 0x1000) c.item

/-- The crews whose blocks are empty on every core of theirs, and of their cluster, leave the handover: their windows are made, and their staging begins. -/
def State.leaveHandover (s : State) : State :=
  let clean := fun (c : Crew) => c.cores.all fun k => (s.strayLines k).isEmpty
  let go := s.crews.filter fun p => p.2.phase == .handover && clean p.2 && (s.clusterPeers p.2).all fun q => clean q.2
  let s := go.foldl (fun (s : State) (p : Nat × Crew) => (s.newWindow p.1).mapCrew p.1 fun c => { c with phase := .staging }) s
  go.foldl (fun (s : State) (p : Nat × Crew) => s.stage p.1) s

/-- CACHE_BLOCK_HANDOVER (R258). The blocks that a core has handed from cache to scratch are emptied; the crews that waited for them go on to staging. -/
def execCacheBlockHandover (core : Nat) (s : State) : Host.Outcome State Fault Refusal :=
  .next ((s.emptyBlocks core).leaveHandover)

/-! ## The end of a task (R128, R187, R190, R217, R258, R297) -/

/-- The cores' boundaries rise to what is still held: the blocks return to the cache with every line invalid (R258). -/
def State.riseBoundaries (s : State) (cores : List Nat) : State :=
  cores.foldl (fun (s : State) k =>
    if s.boundaryOf k ≤ (s.core k).boundary then s
    else (s.emptyBlocks k).mapCore k fun c => { c with boundary := s.boundaryOf k }) s

/-- What a crew holds is given back: bindings, handles, commands, window and log blocks, slots. -/
def State.freeCrew (s : State) (crew : Nat) : State :=
  match s.crew? crew with
  | none => s
  | some c =>
    let gs := s.gangsOf crew
    let s := gs.foldl (fun s g => s.unbind c.ctx g.2.bindNum) s
    let s := (c.cores.zip c.blocks).foldl (fun (s : State) (p : Nat × Nat) => s.scrubRange (vaultPa p.1 p.2 0) (c.portion * 0x10000)) s
    let s := { s with
      cores := s.cores.map fun (p : Nat × Core) => (p.1, { p.2 with handles := p.2.handles.filter fun (h : Nat × Handle) => h.2.owner != some crew })
      cmds := s.cmds.filter fun m => m.crew != crew
      gangs := s.gangs.filter fun p => !(p.2.crew == crew && p.2.hslot.isNone)
      crews := s.crews.drop crew }
    s.riseBoundaries c.cores

/-- Crews with the members of every COHAB group that holds one of them, `n` times over. -/
def Launch.cohabClose (l : Launch) : Nat → List (Nat × Nat) → List (Nat × Nat)
  | 0, xs => xs
  | n + 1, xs => l.cohabClose n ((xs ++ (l.groups.filter fun g => g.cohab && g.members.any xs.contains).flatMap (·.members)).eraseDups)

/-- The crews that are placed together with a crew, itself among them: its COHAB groups, and those that share a member with them (R297); none where it is in no COHAB group. -/
def Launch.cohabOf (l : Launch) (stage index : Nat) : List (Nat × Nat) :=
  if l.groups.any fun g => g.cohab && g.members.contains (stage, index) then l.cohabClose l.groups.length [(stage, index)] else []

/-- A crew index is given back: at once, or with the whole COHAB group once its last member has retired (R297). -/
def Launch.giveIndex (l : Launch) (stage index : Nat) : Launch :=
  match l.cohabOf stage index with
  | [] => { l with busy := l.busy.filter fun p => p != (stage, index) }
  | members =>
    let done := (stage, index) :: l.retired
    if members.all fun m => done.contains m || !l.busy.contains m then
      { l with busy := l.busy.filter (fun p => !members.contains p), retired := l.retired.filter fun p => !members.contains p }
    else { l with retired := done }

/-- The phase of a crew's task. -/
def State.crewPhase (s : State) (crew : Nat) : Option Phase := (s.crew? crew).map (·.phase)

/-- The commits of a crew's queue reservations have been made (R337). -/
def State.committedFor (s : State) (crew : Nat) : Bool := s.commits.all fun c => c.crew != some crew

/-- Every thread of a crew has exited and every access and command of it is over (R128); a killed one has also committed its reservations (R337). -/
def State.crewOver (s : State) (crew : Nat) : Bool :=
  (s.gangsOf crew).all (fun g => g.2.live.isEmpty && g.2.pending.all lostDest)
    && s.ringDone crew
    && (s.committedFor crew || s.crewPhase crew != some .killed)
    && !s.cores.any fun k => k.2.arrays.any fun a => [a.2.exec, a.2.queued].any fun o => match o with | some o => o.crew == crew | none => false

/-- A context holds a context slot of some core (R307). -/
def State.boundAnywhere (s : State) (ctx : Nat) : Bool :=
  (s.gangs.any fun p => p.2.ctx == ctx && p.2.resid != .switched) || s.crews.any fun p => p.2.ctx == ctx && (s.gangsOf p.1).isEmpty

/-- The endpoints of a context that is resident nowhere any more go to its image (R331). -/
def State.leaveSlots (s : State) (ctx : Nat) : State := if s.boundAnywhere ctx then s else s.storeEps ctx

/-- A reset of a context is complete once its crews are gone and its queue reservations are committed (R337). -/
def State.endReset (s : State) (ctx : Nat) : State :=
  if (s.ctx ctx).resetting = false ∨ (s.crews.any fun p => p.2.ctx == ctx) ∨ (s.commits.any fun c => c.ctx == ctx) then s
  else s.mapCtx ctx fun x => { x with resetting := false }

/-- The crew is removed, its index given back, its groups looked at again (R160); the endpoints of a context that is resident nowhere any more go to its image (R331). -/
def State.endCrew (s : State) (crew : Nat) : State :=
  match s.crew? crew with
  | none => s
  | some c =>
    let s := s.freeCrew crew
    let s := if c.cont.isSome then s else s.mapLaunch c.ctx c.launch fun l => l.giveIndex c.stage c.index
    let s := c.groups.foldl (fun s g => s.settleGroup c.ctx c.launch g) s
    (s.leaveSlots c.ctx).endReset c.ctx

/-- The resets that a crew's end completes: a tenancy that drained is done when its last crew is gone and its queue reservations are committed. -/
def State.endDrain (s : State) : State :=
  let holds := fun (ten : Nat) =>
    (s.crews.any fun p => (s.ctx p.2.ctx).tenancy == ten) || s.commits.any fun c => s.hasCtx c.ctx && (s.ctx c.ctx).tenancy == ten
  { s with tens := s.tens.map fun t => if t.2.draining && !holds t.1 then (t.1, { t.2 with draining := false }) else t }

/-- Resets that nothing holds any more are complete. -/
def State.endResets (s : State) : State :=
  ((s.ctxs.filter fun p => p.2.resetting).foldl (fun (s : State) p => s.endReset p.1) s).endDrain

/-- A task retires (R128, R302): a replayable one commits first, where its queues have room; a killed one commits nothing. -/
def State.retireTask (s : State) (crew : Nat) : State :=
  match s.crew? crew with
  | none => s
  | some c =>
    if !s.crewOver crew then s
    else if c.phase = .killed then (s.endCrew crew).endDrain
    else if c.phase ≠ .running then s
    else
      match s.commitTask crew with
      | .error _ => s
      | .ok t =>
        let t := match t.crew? crew with
          | some c => c.held.foldl (fun (s : State) (p : PopRes) => s.commitLater ⟨p.pa, p.num, false, c.ctx, some crew⟩) t
          | none => t
        t.endCrew crew

/-- TASK_RETIRE (R128, R302). A task whose threads have exited, whose accesses are performed and whose commands are done retires. -/
def execTaskRetire (crew : Nat) (s : State) : Host.Outcome State Fault Refusal :=
  .next (s.retireTask crew)

/-! ## Abort (R301) -/

/-- The reservations of the pops at which a gang's lanes wait. -/
def State.waitingPops (s : State) (g : Gang) : List PopRes :=
  (List.range 32).filterMap fun l =>
    match (g.th l).run, (g.th l).wait with
    | .blocked, some p =>
      match s.pendCommit g.ctx g.crew? p with
      | some c => if c.push then none else some ⟨32 * g.index + l, c.pa, c.num⟩
      | none => none
    | _, _ => none

/-- An unpinned replayable task is aborted and waits to be run again: its log and window are discarded, its item and its pop reservations kept, those of waiting pops among them. -/
def State.abortTask (s : State) (crew : Nat) : State :=
  match s.crew? crew with
  | none => s
  | some c =>
    let gs := s.gangsOf crew
    let s := s.closeWhere c.ctx fun f => gs.any fun g => g.1 == f.gkey
    let s := gs.foldl (fun s g => s.freeRecords c.ctx (g.2.pends.filterMap Pend.svcRecord)) s
    let s := s.killCmds crew fun _ => false
    let s := s.freeRecords c.ctx c.conts
    let kept := c.pops ++ gs.flatMap (fun g => s.waitingPops g.2) ++ c.held
    let s := (s.freeCrew crew).leaveSlots c.ctx
    s.mapLaunch c.ctx c.launch fun l =>
      match c.cont with
      | some k => { l with conts := l.conts ++ [{ k with held := kept }] }
      | none => { l with reruns := l.reruns ++ [⟨c.stage, c.index, c.serial, c.k2, c.item, c.popped, kept⟩] }

/-- A task that has not ended and can be aborted. -/
def Crew.mayAbort (c : Crew) : Bool := c.unpinned && c.phase != .killed

end Sys2Proof.Machine
end

