-- ==== Sys2Proof/Machine/Balance.lean ====
section
/-! DEFINITION. The stage balancer (R292 to R297, R301, R309): eligible stages, the order of placement, creation and placement of tasks; the start and end of launches (R290, R291). -/

namespace Sys2Proof.Machine

/-! ## Eligible stages (R292, R294, R297, R309) -/

/-- Work that a die could place: a new or repeated task of a stage, or a continuation of it. -/
structure Work where
  l : Launch
  stage : Nat
  cont : Bool
  deriving DecidableEq, Repr

/-- The stage of a piece of work, as its task will have it. -/
def Work.stage? (w : Work) : Option Stage := (w.l.stages[w.stage]?).map fun t => if w.cont then t.forCont else t

/-- The queue whose descriptor a launch names, where it is mapped and in order. -/
def State.queueAt (s : State) (ctx : Nat) (va : DWord) : Option Queue :=
  match s.kernelPa ctx va 64 with
  | none => none
  | some pa =>
    let q := s.queueOf pa 0
    if s.qConfigOk pa && s.qInvariant pa q.cap then some q else none

/-- A queue of a launch holds no item that can be popped, or is none. -/
def State.queueEmpty (s : State) (ctx : Nat) (va : DWord) : Bool :=
  va == 0 || match s.queueAt ctx va with | some q => !s.qHasItem q.pa | none => false

/-- An output queue is full: TRES − HEAD = CAP (R294). -/
def State.queueFull (s : State) (ctx : Nat) (va : DWord) : Bool :=
  va != 0 && match s.queueAt ctx va with | some q => s.qTres q.pa - s.qHead q.pa == q.cap | none => false

/-- A queue homed in vault serves its own die alone (R162, R292). -/
def State.queueServes (s : State) (ctx : Nat) (va : DWord) (die : Nat) : Bool :=
  va == 0 || match s.queueAt ctx va with
    | some q => q.home != 0 || (match regionOf q.pa with | .vault core _ => dieOf core == die | _ => false)
    | none => true

/-- The lowest free crew index of a stage (R296). -/
def Launch.freeIndex (l : Launch) (stage : Nat) (t : Stage) : Option Nat :=
  lowestFree ((l.busy.filter fun p => p.1 == stage).map fun p => p.2) t.ncrew

/-- A new task of a stage has an input: a range index, or an item. -/
def State.hasInput (s : State) (l : Launch) (stage : Nat) (t : Stage) : Bool :=
  if t.inq = 0 then stage == 0 && decide (l.taken < l.range) else !s.queueEmpty l.ctx t.inq

/-- Tasks of a context may be placed on a die (R323, R336, R338, R380, R387). -/
def State.dieOpen (s : State) (ctx die : Nat) : Bool :=
  let c := s.ctx ctx
  let t := s.ten c.tenancy
  s.hasCtx ctx && t.dies.testBit die && !t.draining && !t.gone && !c.stopped && !c.resetting && (s.die die).status != 1 && !s.inRecovery

/-- A PENDING continuation record of a stage of a launch for a die (R206, R294). -/
def State.pendingRecord (s : State) (l : Launch) (stage die : Nat) : Bool :=
  l.records.any fun c => s.recordState l.ctx c == some 1
    && natOfBytes (s.readImage l.ctx (s.poolVa l.ctx c + 0x4618) 4) % 16 == stage
    && natOfBytes (s.readImage l.ctx (s.poolVa l.ctx c + 0x4618) 4) / 256 % 4 == die

/-- The stage is eligible on a die (R294) for a new or repeated task, or for a continuation. The index that a repeated task keeps is free for it. -/
def State.eligible (s : State) (die : Nat) (w : Work) : Bool :=
  match w.stage? with
  | none => false
  | some t =>
    w.l.started && s.dieOpen w.l.ctx die && !(t.outqs.any fun q => s.queueFull w.l.ctx q) && s.queueServes w.l.ctx t.inq die
      && if w.cont then (w.l.freeIndex w.stage t).isSome && ((w.l.conts.any fun k => k.stage == w.stage && k.die == die) || s.pendingRecord w.l w.stage die)
         else (w.l.reruns.any fun r => r.stage == w.stage) || ((w.l.freeIndex w.stage t).isSome && s.hasInput w.l w.stage t)

/-- The eligible work of a die. -/
def State.works (s : State) (die : Nat) : List Work :=
  (s.launches.flatMap fun l => (List.range l.stages.length).flatMap fun i => [Work.mk l i false, Work.mk l i true]).filter (s.eligible die)

/-! ## The order of placement (R295) -/

/-- A launch of service crews (R309). -/
def Launch.isService (l : Launch) : Bool := l.level == 2 && l.hold

/-- A stream of a context. -/
def State.stream (s : State) (ctx i : Nat) : Stream := (s.ctx ctx).streams.at_ ⟨0, 1, 0⟩ i

/-- A stage has a task on a die. -/
def State.runsOnDie (s : State) (die : Nat) (w : Work) : Bool :=
  s.crews.any fun p => p.2.ctx == w.l.ctx && p.2.launch == w.l.serial && p.2.stage == w.stage && dieOf p.2.homeCore == die

/-- The ranks that come before streams: the minimum grant, service crews, context PRIO, SPRIO. -/
def State.rank (s : State) (die : Nat) (w : Work) : List Nat :=
  [if s.runsOnDie die w then 0 else 1, if w.l.isService then 1 else 0, (s.ctx w.l.ctx).prio, (s.stream w.l.ctx w.l.stream).sprio]

/-- The input occupancy of a stage: TAIL − HRES, and CAP. -/
def State.occupancy (s : State) (w : Work) : Nat × Nat :=
  match w.l.stages[w.stage]? with
  | some t => (match s.queueAt w.l.ctx t.inq with | some q => (s.qTail q.pa - s.qHres q.pa, q.cap) | none => (0, 1))
  | none => (0, 1)

/-- The first of two lists of ranks is the higher. -/
def higher : List Nat → List Nat → Bool
  | a :: x, b :: y => decide (b < a) || (a == b && higher x y)
  | _, _ => false

/-- The order of R295 puts one piece of work before another. -/
def State.precedes (s : State) (die : Nat) (a b : Work) : Bool :=
  let ra := s.rank die a
  let rb := s.rank die b
  if ra ≠ rb then higher ra rb
  else if a.l.ctx ≠ b.l.ctx ∨ a.l.stream ≠ b.l.stream then
    (s.stream a.l.ctx a.l.stream).credit != 0 && (s.stream b.l.ctx b.l.stream).credit == 0
  else
    let prio : Work → Nat := fun w => ((w.l.stages[w.stage]?).map (fun t => t.prio)).getD 0
    let oa := s.occupancy a
    let ob := s.occupancy b
    if prio a ≠ prio b then decide (prio b < prio a)
    else if oa.1 * ob.2 ≠ ob.1 * oa.2 then decide (ob.1 * oa.2 < oa.1 * ob.2)
    else decide (a.stage < b.stage)

/-- The streams of the level of a piece of work: those of equal SPRIO in the contexts of equal PRIO. -/
def State.levelStreams (s : State) (w : Work) : List (Nat × Nat) :=
  (s.ctxs.filter fun p => p.2.prio == (s.ctx w.l.ctx).prio).flatMap fun p =>
    ((List.range 64).filter fun i => (s.stream p.1 i).sprio == (s.stream w.l.ctx w.l.stream).sprio).map fun i => (p.1, i)

/-- A stream's credit is refilled to its weight. -/
def State.refillStream (s : State) (p : Nat × Nat) : State :=
  s.mapCtx p.1 fun c => { c with streams := c.streams.put p.2 { s.stream p.1 p.2 with credit := (s.stream p.1 p.2).swt } }

/-- Each stream of a level has its credit refilled, whether it has work or not, when every backlogged one has reached zero (R295). -/
def State.refill (s : State) (die : Nat) (w : Work) : State :=
  let level := s.levelStreams w
  if (s.works die).all fun x => !level.contains (x.l.ctx, x.l.stream) || (s.stream x.l.ctx x.l.stream).credit == 0 then level.foldl State.refillStream s
  else s

/-- One placed task costs one credit. -/
def State.spend (s : State) (l : Launch) : State :=
  let r := s.stream l.ctx l.stream
  s.mapCtx l.ctx fun c => { c with streams := c.streams.put l.stream { r with credit := r.credit - 1 } }

/-! ## Room for a crew (R296, R303, R307) -/

/-- The contexts that hold a context slot of a core. -/
def State.contextsOn (s : State) (core : Nat) : List Nat :=
  distinct (((s.gangs.filter fun p => p.2.core == core && p.2.resid != .switched).map fun p => p.2.ctx) ++ ((s.crewsOn core).filter fun p => (s.gangsOf p.1).isEmpty).map fun p => p.2.ctx)

/-- A free ring index of a core (R170). -/
def State.freeRing (s : State) (core : Nat) : Option Nat :=
  lowestFree ((s.crews.filter fun p => p.2.homeCore == core).map fun p => p.2.ring) 64

/-- A core can hold a crew's share: slots, context slot, blocks, and on the home core a ring. -/
def State.canHold (s : State) (ctx core gangs portion log : Nat) (isHome : Bool) : Bool :=
  decide ((s.residents core).length + s.reservedSlots core + gangs ≤ Config.gangSlots) && s.runsHere ctx core
    && ((s.contextsOn core).contains ctx || decide ((s.contextsOn core).length < 8))
    && (s.findBlocks core portion log).isSome && (!isHome || (s.freeRing core).isSome)

/-- The cores of a die. -/
def coresOfDie (die : Nat) : List Nat := (List.range Config.coresPerDie).map fun i => die * Config.coresPerDie + i

/-- A crew of a launch has to have a core: a service crew its die's SVCCORE (R309). -/
def State.mustHave (s : State) (die : Nat) (l : Launch) (core : Nat) : Bool := l.isService && core == (s.die die).svcCore

/-- Core number `j` of a crew can be a given core. -/
def State.holdsShare (s : State) (l : Launch) (t : Stage) (j core : Nat) : Bool :=
  s.canHold l.ctx core (shareOf t.gangs t.cores j) t.portion (if j = 0 then t.logBlocks else 0) (j == 0)

/-- Every list of rising cores of a list that can hold the shares of a crew from `j` on, lowest first; `n` shares are to go. -/
def State.coreChoices (s : State) (die : Nat) (l : Launch) (t : Stage) : Nat → Nat → List Nat → List (List Nat)
  | 0, _, ks => if ks.any (s.mustHave die l) then [] else [[]]
  | _ + 1, _, [] => []
  | n + 1, j, k :: rest =>
    (if s.holdsShare l t j k then (s.coreChoices die l t n (j + 1) rest).map (k :: ·) else [])
      ++ if s.mustHave die l k then [] else s.coreChoices die l t (n + 1) j rest
  termination_by structural _ _ ks => ks

/-- Another crew of the same launch and stage is placed on a core. -/
def State.taken (s : State) (l : Launch) (stage core : Nat) : Bool :=
  s.crews.any fun p => p.2.ctx == l.ctx && p.2.launch == l.serial && p.2.stage == stage && p.2.cores.contains core

/-- Numbers that rise strictly. -/
def risingList : List Nat → Bool
  | a :: b :: t => decide (a < b) && risingList (b :: t)
  | _ => true

/-- The lesser of two numbers that may be missing. -/
def leastOf : Option Nat → Option Nat → Option Nat
  | some a, some b => some (min a b)
  | some a, none => some a
  | none, b => b

/-- For each number of shares of a crew, the fewest cores with another crew of its stage among the cores of a list that can take these shares. -/
def State.fewest (s : State) (die : Nat) (l : Launch) (stage : Nat) (t : Stage) (cores : List Nat) : List (Option Nat) :=
  cores.foldl (fun best k =>
    (List.range (t.cores + 1)).map fun j =>
      let kept := if s.mustHave die l k then none else best.getD j none
      if 0 < j ∧ s.holdsShare l t (j - 1) k then leastOf kept ((best.getD (j - 1) none).map fun m => m + if s.taken l stage k then 1 else 0) else kept)
    (some 0 :: List.replicate t.cores none)

/-- The cores of a list that hold another crew of the same launch and stage. -/
def State.sharedCores (s : State) (l : Launch) (stage : Nat) (cores : List Nat) : Nat := (cores.filter fun k => s.taken l stage k).length

/-- The cores that the device chose can hold a crew (R296, R309). -/
def State.coresFit (s : State) (die : Nat) (l : Launch) (t : Stage) (cores : List Nat) : Bool :=
  cores.length == t.cores && risingList cores && cores.all (coresOfDie die).contains && (!l.isService || cores.contains (s.die die).svcCore)
    && (List.range cores.length).all fun j => s.holdsShare l t j (cores.getD j 0)

/-- The fewest cores of a die that a crew can share with crews of its stage; none where no cores can hold it. -/
def State.leastShared (s : State) (die : Nat) (l : Launch) (stage : Nat) (t : Stage) : Option Nat :=
  (s.fewest die l stage t (coresOfDie die)).getD t.cores none

/-- The cores that the device chose can hold a crew, and share cores with crews of the same stage only where no other choice is open (R296). -/
def State.coresOk (s : State) (die : Nat) (l : Launch) (stage : Nat) (t : Stage) (cores : List Nat) : Bool :=
  s.coresFit die l t cores && (s.leastShared die l stage t).any fun m => decide (s.sharedCores l stage cores ≤ m)

/-! ## Creating and placing a task (R293, R296, R297, R299) -/

/-- What a task brings to its crew. -/
structure Job where
  index : Nat
  serial : Nat
  k2 : Word
  item : List Byte
  popped : Option PopRes
  held : List PopRes
  cont : Option Cont

/-- A new task is created (R11, R293): it takes the next range index, or reserves and reads the next item of its input queue; none where the queue's module refuses the reservation. -/
def State.newJob (s : State) (l : Launch) (stage index : Nat) (t : Stage) : Option (State × Job) :=
  let serial := l.nextTask
  let note := fun (s : State) => s.mapLaunch l.ctx l.serial fun l => { l with nextTask := l.nextTask + 1, busy := l.busy ++ [(stage, index)] }
  if t.inq = 0 then
    some ((note s).mapLaunch l.ctx l.serial fun l => { l with taken := l.taken + 1 }, ⟨index, serial, word l.taken, [], none, [], none⟩)
  else
    match s.queueAt l.ctx t.inq with
    | none => none
    | some q =>
      let n := s.qHres q.pa
      match s.slotPa l.ctx q n with
      | none => none
      | some pa =>
        let item := readBytes s.mem pa q.isz
        let s := (s.touchPage l.ctx t.inq 64 .atomic).touchPage l.ctx (q.base + dword (n % q.cap * q.isz)) q.isz .read
        (s.popWhole l.ctx q.pa).map fun s => (note s, ⟨index, serial, word (natOfBytes (item.take 4)), item, some ⟨0, s.home q.pa, n⟩, [], none⟩)

/-- The task that a piece of work comes to: a continuation, a task to be run again, or a new one. -/
def State.takeJob (s : State) (die : Nat) (w : Work) (t : Stage) : Option (State × Job) :=
  if w.cont then
    match w.l.conts.find? fun k => k.stage == w.stage && k.die == die with
    | none => none
    | some k =>
      some (s.mapLaunch w.l.ctx w.l.serial fun l => { l with conts := l.conts.erase k }, ⟨k.index, k.serial, 0, [], none, k.held, some k⟩)
  else
    match w.l.reruns.find? fun r => r.stage == w.stage with
    | some r =>
      some (s.mapLaunch w.l.ctx w.l.serial fun l => { l with reruns := l.reruns.erase r }, ⟨r.index, r.serial, r.k2, r.item, r.popped, r.held, none⟩)
    | none =>
      match w.l.freeIndex w.stage t with
      | none => none
      | some i => s.newJob w.l w.stage i t

/-- The groups of a crew, in increasing order (R289). -/
def Launch.groupsOf (l : Launch) (stage index : Nat) : List Nat :=
  (List.range l.groups.length).filter fun g => match l.groups[g]? with | some x => x.members.contains (stage, index) | none => false

/-- The group membership word (R37). -/
def groupWord (gs : List Nat) : Word := word (natOfBytes ((List.range 4).map fun i => BitVec.ofNat 8 (gs.getD i 0xFF)))

/-- A crew as it is placed. -/
def placedCrew (l : Launch) (stage : Nat) (t : Stage) (j : Job) (cores blocks : List Nat) (log ring : Nat) : Crew :=
  let gs := if j.cont.isSome then [] else l.groupsOf stage j.index
  let cl := gs.find? fun g => match l.groups[g]? with | some x => x.cluster | none => false
  let rank := match cl.bind fun g => l.groups[g]? with | some x => x.members.idxOf (stage, j.index) | none => 0
  let cohab := gs.any fun g => match l.groups[g]? with | some x => x.cohab | none => false
  { ctx := l.ctx, launch := l.serial, stage := stage, index := j.index, serial := j.serial, level := l.level, cores := cores, ring := ring,
    portion := t.portion, blocks := blocks, logBlock := if t.logBlocks = 0 then none else some (log, t.logBlocks), k2 := j.k2, item := j.item,
    popped := j.popped, k4 := if cl.isSome then word (0x80000000 + rank * 0x1000000) else 0, k7 := groupWord gs, groups := gs, cluster := cl,
    rank := rank, cont := j.cont, phase := .handover, bar := 0, pub := 0, taken := 0, broken := false, xq := [], pubs := [], tiles := [], fetched := [],
    staged := 0, repl := t.repl, pinned := t.repl && cohab, log := [], logUse := 0, deferred := [], pops := [], held := j.held, conts := [] }

/-- A crew takes its cores (R257, R296): blocks, boundary, ring; its entry segment is requested on each of them (R409), and its context has its endpoints (R331). -/
def State.seatCrew (s : State) (l : Launch) (stage : Nat) (t : Stage) (j : Job) (cores : List Nat) : State :=
  let logOf := fun (i : Nat) => if i = 0 then t.logBlocks else 0
  let found := (List.range cores.length).map fun i => (s.findBlocks (cores.getD i 0) t.portion (logOf i)).getD (0, 0)
  let log := (found.headD (0, 0)).2
  let ring := (s.freeRing (cores.headD 0)).getD 0
  let r := s.newKey
  let s := { r.2 with crews := r.2.crews.put r.1 (placedCrew l stage t j cores (found.map (·.1)) log ring) }
  let s := (cores.foldl (fun (s : State) k => s.mapCore k fun c => { c with boundary := min c.boundary (s.boundaryOf k) }) s).loadEps l.ctx
  let entry := match j.cont with | some k => (k.gang.th 0).pc.toNat | none => t.entry.toNat
  cores.foldl (fun (s : State) k => s.requestSeg k l.ctx (segOf entry) l.level false) s

/-- The members of the COHAB groups with which the next new task of a stage is placed (R297). -/
def Work.group (w : Work) (t : Stage) : Option (List (Nat × Nat)) :=
  if w.cont || (w.l.reruns.any fun r => r.stage == w.stage) then none
  else match w.l.freeIndex w.stage t with
    | none => none
    | some i =>
      match w.l.cohabOf w.stage i with
      | [] => none
      | ms => some ms

/-- Members of COHAB groups placed one after the other (R297): the first is tried on the core list that is given for it, or where none are given on all that it could take, until the others fit as well. With the state comes what is left of `room`, the cores that they may share with crews of their stages; none where there is no way. -/
def State.placeMembers (die ctx serial : Nat) : List (Nat × Nat) → Option (List (List Nat)) → Nat → State → Option (State × Nat)
  | [], _, room, s => some (s, room)
  | (stage, index) :: rest, given, room, s =>
    match s.launch? ctx serial with
    | none => none
    | some l =>
      match l.stages[stage]? with
      | none => none
      | some t =>
        if l.busy.contains (stage, index) || !s.eligible die ⟨l, stage, false⟩ then none
        else
          let choices := match given with
            | some cs => (cs.take 1).filter (s.coresFit die l t)
            | none => s.coreChoices die l t t.cores 0 (coresOfDie die)
          (choices.filter fun x => decide (s.sharedCores l stage x ≤ room)).findSome? fun x =>
            match s.newJob l stage index t with
            | none => none
            | some (u, j) => State.placeMembers die ctx serial rest (given.map (·.drop 1)) (room - s.sharedCores l stage x) (u.seatCrew l stage t j x)

/-- Cores that the members of a group could share at most. -/
def groupRoom (ms : List (Nat × Nat)) : Nat := ms.length * Config.coresPerDie

/-- The members of COHAB groups placed whole on the cores that the device chose, where no other choice lets them share fewer cores with crews of their stages (R296, R297). -/
def State.placeGroup (s : State) (die ctx serial : Nat) (ms : List (Nat × Nat)) (given : List (List Nat)) : Option State :=
  match State.placeMembers die ctx serial ms (some given) (groupRoom ms) s with
  | none => none
  | some (t, left) =>
    match groupRoom ms - left with
    | 0 => some t
    | used + 1 => if (State.placeMembers die ctx serial ms none used s).isSome then none else some t

/-- Work that could be placed now. -/
def State.placeable (s : State) (die : Nat) (w : Work) : Bool :=
  match w.stage? with
  | none => false
  | some t =>
    match w.group t with
    | some ms => (State.placeMembers die w.l.ctx w.l.serial ms none (groupRoom ms) s).isSome
    | none => (!w.cont || w.l.conts.any fun k => k.stage == w.stage && k.die == die) && (s.leastShared die w.l w.stage t).isSome

/-- No placeable work comes before a pick (R295). -/
def State.isNext (s : State) (die : Nat) (w : Work) : Bool := (s.works die).all fun x => !(s.precedes die x w && s.placeable die x)

/-- One pick placed, with those that follow it for the other members of its COHAB group: the state and the picks left. -/
def State.takePick (s : State) (die : Nat) (p : Pick) (rest : List Pick) : State × List Pick :=
  match s.launch? p.ctx p.serial with
  | none => (s, rest)
  | some l =>
    let w : Work := ⟨l, p.stage, p.cont⟩
    match w.stage? with
    | none => (s, rest)
    | some t =>
      if !s.eligible die w then (s, rest)
      else
        let s1 := s.refill die w
        if !s1.isNext die w then (s, rest)
        else
          match w.group t with
          | some ms =>
            let mine := (p :: rest).take ms.length
            if (mine.map fun q => (q.ctx, q.serial, q.stage, q.cont)) ≠ ms.map (fun m => (p.ctx, p.serial, m.1, false)) then (s, rest)
            else match s1.placeGroup die p.ctx p.serial ms (mine.map (·.cores)) with
              | some u => (ms.foldl (fun s _ => s.spend l) u, rest.drop (ms.length - 1))
              | none => (s, rest)
          | none =>
            if !s1.coresOk die l p.stage t p.cores then (s, rest)
            else match s1.takeJob die w t with
              | some (u, j) => ((u.seatCrew l p.stage t j p.cores).spend l, rest)
              | none => (s, rest)

/-- The picks of a decision, one after the other. -/
def State.takePicks (die : Nat) : Nat → State → List Pick → State
  | 0, s, _ => s
  | _, s, [] => s
  | fuel + 1, s, p :: rest =>
    let r := s.takePick die p rest
    State.takePicks die fuel r.1.leaveHandover r.2

/-- A decision of a die's stage balancer: a pick that the rules do not admit places nothing. -/
def State.balance (s : State) (die : Nat) (picks : List Pick) : State :=
  (State.takePicks die picks.length s picks).mapDie die fun d => { d with decided := s.clock }

/-- BALANCER_DECISION (R295). The stage balancer of a die places tasks that the device picks. -/
def execBalancerDecision (die : Nat) (picks : List Pick) (s : State) : Host.Outcome State Fault Refusal :=
  .next (s.balance die picks)

/-- BALANCER_PERIODIC (R295). The stage balancer of a die decides because 4,096 clocks have passed. -/
def execBalancerPeriodic (die : Nat) (picks : List Pick) (s : State) : Host.Outcome State Fault Refusal :=
  .next (s.balance die picks)

/-- WATCHED_QUEUE_REEXAMINE (R292). The balancer looks at the input queue of a stage: an item found there counts at its next decision. -/
def execWatchedQueueReexamine (die ctx serial stage : Nat) (s : State) : Host.Outcome State Fault Refusal :=
  .next (s.mapLaunch ctx serial fun l => if (s.ten (s.ctx ctx).tenancy).dies.testBit die then { l with watch := l.watch.put stage s.clock } else l)

/-! ## Launches begin and retire (R290, R291) -/

/-- Every earlier launch of a launch's stream has retired. -/
def State.streamFree (s : State) (l : Launch) : Bool :=
  s.launches.all fun k => !(k.ctx == l.ctx && k.stream == l.stream && decide (k.serial < l.serial))

/-- A launch starts where it may. -/
def State.startLaunch (s : State) (ctx serial : Nat) : State :=
  match s.launch? ctx serial with
  | none => s
  | some l => if l.ov || s.streamFree l then s.mapLaunch ctx serial fun l => { l with started := true } else s

/-- LAUNCH_START (R290). A launch starts when every earlier launch of its stream has retired. -/
def execLaunchStart (ctx serial : Nat) (s : State) : Host.Outcome State Fault Refusal :=
  .next (s.startLaunch ctx serial)

/-- The launch has nothing left (R291). -/
def State.launchDone (s : State) (l : Launch) : Bool :=
  l.started && !l.hold && decide (l.range ≤ l.taken) && l.stages.all (fun t => s.queueEmpty l.ctx t.inq)
    && l.conts.isEmpty && l.records.isEmpty && l.reruns.isEmpty
    && s.crews.all fun p => !(p.2.ctx == l.ctx && p.2.launch == l.serial)

/-- The completion word of a launch: its serial with bit 63 set, and whether it is written: it waits while its page is in transit. -/
def State.writeCompletion (s : State) (l : Launch) : State × Bool :=
  if l.compl = 0 then (s, true)
  else
    let w : Who := ⟨((s.tenancyCores (s.ctx l.ctx).tenancy).head?).getD 0, l.ctx, l.level, none, .nobody⟩
    let word := bytesOf 8 (2 ^ 63 + l.serial % 2 ^ 63)
    match s.agentLoc w l.compl 8 .write false with
    | (s, .found pa leaf) => ((s.putPiece w pa (leaf.getD 0) word).askRelay w.core pa 1 word 8 .nobody, true)
    | (s, .wait _) => (s, false)
    | (s, .flt _) => (s, true)

/-- A launch retires: completion word, interrupt, and the next launch of its stream starts. -/
def State.retireLaunch (s : State) (ctx serial : Nat) : State :=
  match s.launch? ctx serial with
  | none => s
  | some l =>
    if !s.launchDone l then s
    else
      match s.writeCompletion l with
      | (s, false) => s
      | (s, true) =>
        let s := if l.csend then s.sendUli 0 ctx l.cep l.cop else s
        let s := { s with launches := s.launches.filter fun k => !(k.ctx == ctx && k.serial == serial) }
        match s.launches.find? fun k => k.ctx == ctx && k.stream == l.stream with
        | some k => s.startLaunch ctx k.serial
        | none => s

/-- LAUNCH_RETIRE (R291). A launch retires. -/
def execLaunchRetire (ctx serial : Nat) (s : State) : Host.Outcome State Fault Refusal :=
  .next (s.retireLaunch ctx serial)

/-- A task of higher context PRIO waits for a place on a die. -/
def State.outranked (s : State) (c : Crew) : Bool :=
  let die := dieOf c.homeCore
  (s.works die).any fun w => decide ((s.ctx c.ctx).prio < (s.ctx w.l.ctx).prio) && !s.placeable die w

/-- TASK_ABORT (R301). An unpinned replayable task is aborted, for an error or for the sake of a task of higher context PRIO, and waits to be run again. -/
def execTaskAbort (crew : Nat) (error : Bool) (s : State) : Host.Outcome State Fault Refusal :=
  .next (match s.crew? crew with
    | some c => if c.mayAbort && (error || s.outranked c) then s.abortTask crew else s
    | none => s)

end Sys2Proof.Machine
end

