-- ==== Sys2Proof/Machine/Copy.lean ====
section
/-! DEFINITION. The copy engine (R175 to R181, R77 to R81): plain copies, fills and multicasts, conversion into plane tiles and into quantized pages, and its steps. -/

namespace Sys2Proof.Machine

/-! ## Lines of the source -/

/-- The record by which a copy converts. -/
def Cmd.tile (m : Cmd) : Option (BitVec 256) := if cmdTrec m.img = 0xFFFF then none else some m.trec

/-- Lines of a copy, bytes of a line, and bytes from a source line to the next. -/
def Cmd.lineShape (m : Cmd) : Nat × Nat × Nat :=
  if cmdLined m.img then (cmdLines m.img, cmdLineBytes m.img, cmdPitch m.img)
  else match m.tile with
    | none => (1, cmdLen m.img, cmdLen m.img)
    | some r => (tileLineCount r, cmdLen m.img / tileLineCount r, cmdLen m.img / tileLineCount r)

/-- Bytes of a range read from the source of a copy, `off` bytes into line i. -/
def State.readSource (s : State) (c : Crew) (m : Cmd) (chk : PageCheck) (i off n : Nat) : State × Except Stop (List Byte) :=
  s.readRange c (m.who c) (cmdSv m.img) chk ((cmdSrc m.img).toNat + i * m.lineShape.2.2 + off) n

/-! ## Plain copies: COPY, COPY2D, FILL, FILLMC without a record -/

/-- The destination address of a byte of the packed stream. -/
def Cmd.dstAt (m : Cmd) (o : Nat) : Nat := if cmdOp m.img = 3 then (cmdDst m.img).toNat % 2 ^ 24 + o else (cmdDst m.img).toNat + o

/-- The source address of a byte of the packed stream. -/
def Cmd.srcAt (m : Cmd) (o : Nat) : Nat :=
  let h := m.lineShape
  (cmdSrc m.img).toNat + o / h.2.1 * h.2.2 + o % h.2.1

/-- A sub-transfer begins at granule n of the stream: at the start of a line, or at a multiple of 256 B on either side (R180). -/
def Cmd.cutsAt (m : Cmd) (n : Nat) : Bool :=
  let o := 16 * n
  o % m.lineShape.2.1 == 0 || m.dstAt o % 256 == 0 || (cmdOp m.img != 7 && m.srcAt o % 256 == 0)

/-- Bytes of the stream. -/
def Cmd.streamBytes (m : Cmd) : Nat := m.lineShape.1 * m.lineShape.2.1

/-- The sub-transfers of a plain copy, each by its first granule. -/
def plainParts (m : Cmd) : List Nat := (List.range (m.streamBytes / 16)).filter m.cutsAt

/-- Bytes of the sub-transfer that begins at granule n. -/
def plainBytes (m : Cmd) (n : Nat) : Nat :=
  16 * (((plainParts m).find? fun k => decide (n < k)).getD (m.streamBytes / 16) - n)

/-- FILLMC reads from tiers 0 and 1 only (R177). -/
def multicastPage (va : Nat) : PageCheck := fun pa _ => if tierOf pa = 2 then some (engStop 0x20 va) else none

/-- The source of a sub-transfer. -/
def plainSource (s : State) (c : Crew) (m : Cmd) (n : Nat) : State × Except Stop (List Byte) :=
  let k := plainBytes m n
  if cmdOp m.img = 7 then (s, .ok ((List.range (k / 4)).flatMap fun _ => bytesOf 4 (fld m.img 32 32)))
  else
    let va := m.srcAt (16 * n)
    s.readRange c (m.who c) (cmdSv m.img) (if cmdOp m.img = 3 then multicastPage va else anyPage) va k

/-- The member windows that a multicast writes. -/
def multicastRanks (s : State) (c : Crew) (m : Cmd) : List Nat := (List.range (s.clusterSize c)).filter fun r => (cmdMask m.img).testBit r

/-- A sub-transfer written. -/
def plainDest (s : State) (c : Crew) (m : Cmd) (n : Nat) (bytes : List Byte) : State × Except Stop Unit :=
  let o := m.dstAt (16 * n)
  if cmdOp m.img = 3 then
    s.writePieces c (m.who c) true (cmdFs m.img) anyPage
      ((multicastRanks s c m).flatMap fun r => (chunks (2 ^ 31 + r * 2 ^ 24 + o) bytes.length).map fun p =>
        (p.1, (bytes.drop (p.1 - (2 ^ 31 + r * 2 ^ 24 + o))).take p.2))
  else s.writeRange c (m.who c) (cmdDv m.img) (cmdFs m.img) anyPage o bytes

/-- Plain copies. -/
def plainEngine : Engine := ⟨fun _ _ m => plainParts m, noRank, plainSource, plainDest⟩

/-! ## Elements of a line (R73, R74) -/

/-- Half-bytes of an element of a format. -/
def fmtHalves (fmt : Nat) : Nat := if fmt = 1 then 8 else if fmt = 2 ∨ fmt = 3 then 4 else if fmtQ4 fmt then 1 else 2

/-- Elements that bytes hold. -/
def elementsOf (fmt : Nat) (bytes : List Byte) : List Nat :=
  if fmtQ4 fmt then bytes.flatMap fun b => [b.toNat % 16, b.toNat / 16]
  else
    let u := fmtUnit fmt
    (List.range (bytes.length / u)).map fun i => natOfBytes ((bytes.drop (u * i)).take u)

/-- The value of a floating-point element. -/
def elementVal (fmt x : Nat) : FVal := if fmt = 1 then fp32.value x else if fmt = 2 then bf16.value x else fp16.value x

/-- A source page must have a format (R177). -/
def formatPage (fmt va : Nat) : PageCheck := fun _ leaf => if leafFmt leaf = fmt then none else some (.flt ⟨cFormat, 6, dword va⟩)

/-! ## Conversion into plane tiles (R79 to R81, R178) -/

/-- The elements of a group of 32 as the planes hold them, as numbers of P bits, with the metadata word. -/
structure PlaneGroup where
  us : List Nat
  meta_ : Nat
  deriving DecidableEq, Repr

/-- A 32-k group converted by the kind of its record. The bytes end with the group metadata word where the kind is QUANT. -/
def toPlaneGroup (r : BitVec 256) (bytes : List Byte) : PlaneGroup :=
  let p := tileP r
  let n := 32 * fmtHalves (tileFmt r) / 2
  let xs := elementsOf (tileFmt r) (bytes.take n)
  match tileKind r with
  | 0 => ⟨xs, natOfBytes (bytes.drop n)⟩
  | 1 =>
    let g := planeGroup p (xs.map (elementVal (tileFmt r)))
    ⟨g.ms.map fun x => (x % 2 ^ p).toNat,
      (g.exp % 256).toNat + (if g.special then 256 else 0) + (if g.sat then 512 else 0)⟩
  | _ => ⟨xs, 0⟩

/-- One 32-k group of a source line. A vault source has no page: its elements are those of the record's format, and a QUANT tile cannot be made from it. Where the source is aligned so that its 32 elements lie in two groups of a Q8 or Q4 page, the metadata word is that of the first element's group (DESIGN CHOICE, log entry 128). -/
def planeGroupSource (s : State) (c : Crew) (m : Cmd) (r : BitVec 256) (line g : Nat) : State × Except Stop (List Byte) :=
  let n := 32 * fmtHalves (tileFmt r) / 2
  let va := (cmdSrc m.img).toNat + line * m.lineShape.2.2 + g * n
  match s.readSource c m (formatPage (tileFmt r) va) line (g * n) n with
  | (s, .error e) => (s, .error e)
  | (s, .ok b) =>
    if tileKind r ≠ 0 then (s, .ok b)
    else if cmdSv m.img then (s, .error (.flt ⟨cFormat, 6, dword va⟩))
    else
      match s.leafFor (m.who c) va .read with
      | (s, .error e) => (s, .error e)
      | (s, .ok leaf) =>
        match s.engineMeta c (m.who c) leaf va with
        | (s, .error e) => (s, .error e)
        | (s, .ok w) => (s, .ok (b ++ bytesOf 4 w.toNat))

/-- The groups of a part one after the other. -/
def planeGroups (s : State) (c : Crew) (m : Cmd) (r : BitVec 256) : List (Nat × Nat) → State × Except Stop (List Byte)
  | [] => (s, .ok [])
  | (line, g) :: rest =>
    match planeGroupSource s c m r line g with
    | (s, .error e) => (s, .error e)
    | (s, .ok b) =>
      match planeGroups s c m r rest with
      | (s, .error e) => (s, .error e)
      | (s, .ok l) => (s, .ok (b ++ l))

/-- A part is one granule of a block (R180): block, pair of lines, and the plane, the last one being the metadata. -/
def planePart (r : BitVec 256) (n : Nat) : Nat × Nat × Nat :=
  let k := tileP r + 1
  (n / k / 16, n / k % 16, n % k)

/-- The first line and the first 32-k group of a part. -/
def planePlace (r : BitVec 256) (n : Nat) : Nat × Nat :=
  let b := planePart r n
  let nk := tileK r / 64
  (32 * (b.1 / nk) + 2 * b.2.1, 2 * (b.1 % nk))

/-- The source of a part of a plane tile. -/
def planeSource (s : State) (c : Crew) (m : Cmd) (n : Nat) : State × Except Stop (List Byte) :=
  let x := planePlace m.trec n
  planeGroups s c m m.trec [(x.1, x.2), (x.1, x.2 + 1), (x.1 + 1, x.2), (x.1 + 1, x.2 + 1)]

/-- Eight bits as a byte, the first the least significant. -/
def packBits (bs : List Bool) : Byte := BitVec.ofNat 8 (bs.foldr (fun b n => 2 * n + (if b then 1 else 0)) 0)

/-- The four bytes of a group in plane j (R80). -/
def planeBytes (r : BitVec 256) (j : Nat) (us : List Nat) : List Byte :=
  (List.range 4).map fun i => packBits (((us.drop (8 * i)).take 8).map fun u => u.testBit (tileP r - 1 - j))

/-- The granule that a part writes, in a plane or in the metadata area (R80, R81). -/
def planeWrite (r : BitVec 256) (n : Nat) (gs : List PlaneGroup) : Nat × List Byte :=
  let b := planePart r n
  let j := b.2.2
  ((tileBase r).toNat + 16 * tilePitch r * b.1 + 16 * b.2.1 + 256 * j,
    gs.flatMap fun g => if j < tileP r then planeBytes r j g.us else bytesOf 4 g.meta_)

/-- A part of a plane tile written. -/
def planeDest (s : State) (c : Crew) (m : Cmd) (n : Nat) (bytes : List Byte) : State × Except Stop Unit :=
  let k := bytes.length / 4
  let gs := (List.range 4).map fun i => toPlaneGroup m.trec ((bytes.drop (k * i)).take k)
  s.writePieces c (m.who c) true (cmdFs m.img) anyPage [planeWrite m.trec n gs]

/-- Conversion into a plane tile. -/
def planeEngine : Engine := ⟨fun _ _ m => List.range (16 * tileBlocks m.trec * (tileP m.trec + 1)), noRank, planeSource, planeDest⟩

/-! ## Conversion into a quantized page (R77, R78, R178) -/

/-- The format of the elements that a line of a LINEAR copy holds: four bytes each F32; two bytes each BF16 or F16 by the page. -/
def linearUnit (m : Cmd) : Nat := m.lineShape.2.1 / tileCols m.trec

/-- Source formats by element size. -/
def linearPage (unit va : Nat) : PageCheck := fun _ leaf =>
  let f := leafFmt leaf
  if (unit = 4 ∧ f = 1) ∨ (unit = 2 ∧ (f = 2 ∨ f = 3)) then none else some (.flt ⟨cFormat, 6, dword va⟩)

/-- Parts of a group: its granules, and its metadata word (R180). -/
def linearPieces (m : Cmd) : Nat := fmtGroupBytes (tileFmt m.trec) / 16 + 1

/-- The line and the group of a part. -/
def linearPlace (m : Cmd) (n : Nat) : Nat × Nat :=
  let k := tileCols m.trec / fmtGroup (tileFmt m.trec)
  (n / linearPieces m / k, n / linearPieces m % k)

/-- The elements of a source group as FP32 patterns, piece by piece, each by the format of its page (R73). A vault source has no page: its elements are FP32. -/
def linearElements (s : State) (c : Crew) (m : Cmd) : List (Nat × Nat) → State × Except Stop (List Byte)
  | [] => (s, .ok [])
  | (va, n) :: rest =>
    let leaf := if cmdSv m.img then (s, .ok 0) else s.leafFor (m.who c) va .read
    match leaf with
    | (s, .error e) => (s, .error e)
    | (s, .ok x) =>
      match s.readPiece c (m.who c) (cmdSv m.img) (linearPage (linearUnit m) va) va n with
      | (s, .error e) => (s, .error e)
      | (s, .ok b) =>
        match linearElements s c m rest with
        | (s, .error e) => (s, .error e)
        | (s, .ok l) =>
          let fmt := if cmdSv m.img then 1 else leafFmt x
          (s, .ok ((elementsOf fmt b).flatMap (fun y => bytesOf 4 (fp32.ofVal .rne (elementVal fmt y)).bits) ++ l))

/-- The source of one destination group: its elements as FP32 patterns. A vault source has no page, so only four-byte elements are known there. -/
def linearSource (s : State) (c : Crew) (m : Cmd) (n : Nat) : State × Except Stop (List Byte) :=
  let u := linearUnit m
  let x := linearPlace m n
  let k := fmtGroup (tileFmt m.trec) * u
  let va := (cmdSrc m.img).toNat + x.1 * m.lineShape.2.2 + x.2 * k
  if cmdSv m.img && u != 4 then (s, .error (.flt ⟨cFormat, 6, dword va⟩)) else linearElements s c m (chunks va k)

/-- The data bytes of a quantized group (R74). -/
def groupBytes (fmt : Nat) (qs : List Nat) : List Byte :=
  if fmtQ4 fmt then (List.range (qs.length / 2)).map fun i => BitVec.ofNat 8 (qs.getD (2 * i) 0 + 16 * qs.getD (2 * i + 1) 0)
  else qs.map fun q => BitVec.ofNat 8 q

/-- A group quantized to a format (R77). -/
def quantizeTo (fmt : Nat) (xs : List Nat) : QGroup := quantize 149 (if fmtQ4 fmt then 4 else 8) (xs.map fun x => (quantInput x).1)

/-- Piece j of a group written to a page of its format: a granule of its data, or after them its metadata word in its place (R78). A destination that is aligned so that a group lies in two groups of the page gets the word in the place of the first element's group (DESIGN CHOICE, log entry 128). -/
def State.writeGroup (s : State) (c : Crew) (m : Cmd) (fs : Bool) (fmt va j : Nat) (g : QGroup) : State × Except Stop Unit :=
  match s.leafFor (m.who c) va .write with
  | (s, .error e) => (s, .error e)
  | (s, .ok leaf) =>
    if leafFmt leaf ≠ fmt then (s, .error (.flt ⟨cFormat, 6, dword va⟩))
    else
      match (s.ctx c.ctx).metaVa leaf (dword va) with
      | .error f => (s, .error (.flt f))
      | .ok mva =>
        if 16 * j < fmtGroupBytes fmt then
          s.writeRange c (m.who c) false fs (formatPage fmt va) (va + 16 * j) (((groupBytes fmt g.qs).drop (16 * j)).take 16)
        else s.writePiece c (m.who c) false false anyPage mva.toNat (bytesOf 4 g.word)

/-- A piece of a group of a LINEAR destination. -/
def linearDest (s : State) (c : Crew) (m : Cmd) (n : Nat) (bytes : List Byte) : State × Except Stop Unit :=
  let fmt := tileFmt m.trec
  let x := linearPlace m n
  let va := (cmdDst m.img).toNat + x.1 * tileStride m.trec + x.2 * fmtGroupBytes fmt
  if cmdDv m.img then (s, .error (.flt ⟨cFormat, 6, dword va⟩))
  else s.writeGroup c m (cmdFs m.img) fmt va (n % linearPieces m) (quantizeTo fmt (elementsOf 1 bytes))

/-- Conversion into a quantized page. -/
def linearEngine : Engine :=
  ⟨fun _ _ m => List.range (tileRows m.trec * (tileCols m.trec / fmtGroup (tileFmt m.trec)) * linearPieces m), noRank, linearSource, linearDest⟩

/-! ## The steps of the copy engine -/

/-- The way in which a copy command moves its data. -/
def copyEngine (m : Cmd) : Engine :=
  match m.tile with
  | none => plainEngine
  | some r => if tileLayout r = 0 then planeEngine else linearEngine

/-- A copy that the network engine sends. -/
def Cmd.isMessage (m : Cmd) : Bool := engineOf (cmdOp m.img) == some 2 || (engineOf (cmdOp m.img) == some 0 && cmdSend m.img)

/-- A copy command with an op performs what is left of it. -/
def State.runCopy (s : State) (op crew sq : Nat) : State :=
  match s.cmd? crew sq with
  | some m => if cmdOp m.img = op ∧ !m.isMessage then (copyEngine m).all s crew sq else s
  | none => s

end Sys2Proof.Machine
end

