-- ==== Sys2Proof/Machine/Gather.lean ====
section
/-! DEFINITION. The gather engine (R182): gathers, scatters and scatter-adds, in pieces of their rows. -/

namespace Sys2Proof.Machine

/-- The index that marks padding. -/
def gatPad (x : BitVec 256) : Nat := 2 ^ (8 * gatIsz x) - 1

/-- The address of a table row. -/
def gatRow (x : BitVec 256) (n : Nat) : Nat := ((cmdSrc x).toNat + n * gatStride x) % 2 ^ 64

/-- The index at a position. -/
def gatIndex (s : State) (c : Crew) (m : Cmd) (i : Nat) : State × Except Stop Nat :=
  match s.readRange c (m.who c) true anyPage (gatIdx m.img + i * gatIsz m.img) (gatIsz m.img) with
  | (s, .error e) => (s, .error e)
  | (s, .ok b) => (s, .ok (natOfBytes b))

/-- The packed row of a position. -/
def gatPacked (m : Cmd) (i : Nat) : Nat := gatRows m.img + i * gatRowb m.img

/-- Pieces of a row: the 256 B granules that it can touch (R180). -/
def gatPieces (m : Cmd) : Nat := (gatRowb m.img + 255) / 256 + 1

/-- The offset and length in a row at an address of its piece j, which may be empty. -/
def rowPiece (m : Cmd) (row j : Nat) : Nat × Nat :=
  let n := gatRowb m.img
  let lo := min n (256 * j - row % 256)
  (lo, min n (256 * (j + 1) - row % 256) - lo)

/-- The table row of an index, or row 0 for padding and for an index beyond the table. -/
def gatTarget (m : Cmd) (n : Nat) : Nat := gatRow m.img (if n = gatPad m.img ∨ gatNrows m.img ≤ n then 0 else n)

/-- What a part reads: the index of its position in four bytes, then the piece of the row that it moves; nothing for padding. -/
def gatherSource (s : State) (c : Crew) (m : Cmd) (p : Nat) : State × Except Stop (List Byte) :=
  let i := p / gatPieces m
  match gatIndex s c m i with
  | (s, .error e) => (s, .error e)
  | (s, .ok n) =>
    if n = gatPad m.img then (s, .ok (bytesOf 4 n))
    else if gatNrows m.img ≤ n then (s, .error (engStop 0x23 (gatRow m.img n)))
    else
      let k := rowPiece m (gatRow m.img n) (p % gatPieces m)
      let row := if cmdOp m.img = 0x10 then s.readRange c (m.who c) false anyPage (gatRow m.img n + k.1) k.2
        else s.readRange c (m.who c) true anyPage (gatPacked m i + k.1) k.2
      match row with
      | (s, .error e) => (s, .error e)
      | (s, .ok b) => (s, .ok (bytesOf 4 n ++ b))

/-- Rows added element by element in FP32, each addition rounded to nearest even. -/
def addRows (old new : List Byte) : List Byte :=
  ((elementsOf 1 old).zipWith (fun x y => bytesOf 4 (fp32.add .rne x y).bits) (elementsOf 1 new)).flatMap id

/-- The table rows that a SCATTERADD has still to add to: by the indices that it has read ahead, else as they stand. -/
def rowsLeft (s : State) (c : Crew) (m : Cmd) : List Nat :=
  ((List.range (gatCount m.img * gatPieces m)).filter fun p => !m.done.contains p).filterMap fun p =>
    let ahead := (m.buf.bind fun b => b.find? fun q => q.1 == p).map fun q => natOfBytes (q.2.take 4)
    let index := match ahead with
      | some n => some n
      | none => match gatIndex s c m (p / gatPieces m) with | (_, .ok n) => some n | _ => none
    match index with
    | some n => if n = gatPad m.img then none else some (gatRow m.img n)
    | none => none

/-- A command of a ring stands before another one. -/
def Cmd.before (k m : Cmd) : Bool := k.crew == m.crew && k.sq != m.sq && decide ((m.sq + 2 ^ 32 - k.sq) % 2 ^ 32 < 2 ^ 31)

/-- An earlier SCATTERADD of the ring has still to add to a row (R182). -/
def addWaits (s : State) (c : Crew) (m : Cmd) (row : Nat) : Bool :=
  s.cmds.any fun k => k.before m && cmdOp k.img == 0x12 && !k.finished && (rowsLeft s c k).contains row

/-- What a part writes. -/
def gatherDest (s : State) (c : Crew) (m : Cmd) (p : Nat) (bytes : List Byte) : State × Except Stop Unit :=
  let n := natOfBytes (bytes.take 4)
  let piece := bytes.drop 4
  let w := m.who c
  let k := rowPiece m (gatTarget m n) (p % gatPieces m)
  if cmdOp m.img = 0x10 then
    s.writeRange c w true false anyPage (gatPacked m (p / gatPieces m) + k.1) (if n = gatPad m.img then List.replicate k.2 0 else piece)
  else if n = gatPad m.img then (s, .ok ())
  else if cmdOp m.img = 0x11 then s.writeRange c w false false anyPage (gatRow m.img n + k.1) piece
  else if addWaits s c m (gatRow m.img n) then (s, .error .wait)
  else
    match s.readRange c w false anyPage (gatRow m.img n + k.1) k.2 with
    | (s, .error e) => (s, .error e)
    | (s, .ok old) => s.writeRange c w false false anyPage (gatRow m.img n + k.1) (addRows old piece)

/-- The gather engine: pieces in no order for GATHER, the positions in ascending order for SCATTER and SCATTERADD. -/
def gatherEngine (m : Cmd) : Engine :=
  ⟨fun _ _ m => List.range (gatCount m.img * gatPieces m), if cmdOp m.img = 0x10 then noRank else fun p => p / gatPieces m, gatherSource, gatherDest⟩

/-- A gather command with an op performs what is left of it. -/
def State.runGather (s : State) (op crew sq : Nat) : State :=
  match s.cmd? crew sq with
  | some m => if cmdOp m.img = op then (gatherEngine m).all s crew sq else s
  | none => s

end Sys2Proof.Machine
end

