-- ==== Sys2Proof/Machine/Collect.lean ====
section
/-! DEFINITION. The collective and relay engine (R87 to R89, R353, R354, R363 to R366): reduction windows, contributions, reads, final rounding, relays. -/

namespace Sys2Proof.Machine

/-! ## Window records (R353) -/

/-- A window header: COUNT, NCON, WEIGHT as it stands. -/
structure WinHead where
  count : Nat
  ncon : Nat
  weight : Int
  deriving DecidableEq, Repr

/-- An element slot. -/
structure Slot where
  acc : Acc
  xs : Bool
  ncnt : Nat
  nrd : Nat
  deriving DecidableEq, Repr

/-- An empty slot. -/
def Slot.empty : Slot := ⟨Acc.zero, false, 0, 0⟩

/-- The header whose first byte memory holds at an address. -/
def State.winHead (s : State) (h : Nat) : WinHead :=
  let x := s.word64 h
  ⟨x / 2 ^ 32, x / 2 ^ 16 % 65536, (BitVec.ofNat 16 x).toInt⟩

/-- A slot read. -/
def State.winSlot (s : State) (a : Nat) : Slot :=
  let n := readNum s.mem (s.home a) 64
  ⟨⟨n.testBit 320, (BitVec.ofNat 320 n).toInt⟩, n.testBit 321, bitsAt n 324 16, bitsAt n 340 16⟩

/-- A number in memory written at a place, with the copies of its line dropped. -/
def State.putNum (s : State) (a n x : Nat) : State := (s.store (s.home a) (bytesOf n x)).dropCopies a

/-- A slot written. -/
def State.setSlot (s : State) (a : Nat) (t : Slot) : State :=
  s.putNum a 64 ((t.acc.val % 2 ^ 320).toNat + (if t.acc.nan then 2 ^ 320 else 0) + (if t.xs then 2 ^ 321 else 0)
    + t.ncnt % 65536 * 2 ^ 324 + t.nrd % 65536 * 2 ^ 340)

/-- The address of slot i of a window. -/
def slotAt (h i : Nat) : Nat := h + 64 + 64 * i

/-! ## Module windows (R350, R354, R356) -/

/-- The answer of a module. -/
inductive ModAns where
  | done
  | wait
  | refused
  deriving DecidableEq, Repr

/-- CONTRIB of elements from `first` on: taken whole or not at all. -/
def State.winContrib (s : State) (h count ncon first : Nat) (xs : List Acc) : State × ModAns :=
  let hd := s.winHead h
  if hd.count ≠ 0 ∧ (hd.count ≠ count ∨ hd.ncon ≠ ncon) then (s, .refused)
  else
    let places := (List.range xs.length).map fun i => slotAt h (first + i)
    if places.any (fun a => decide (ncon ≤ (s.winSlot a).ncnt)) then (s, .wait)
    else
      let s := if hd.count = 0 then (s.putNum (h + 4) 4 count).putNum (h + 2) 2 ncon else s
      ((places.zip xs).foldl (fun s p =>
        let t := s.winSlot p.1
        s.setSlot p.1 { t with acc := if t.ncnt = 0 then p.2 else t.acc.add p.2, ncnt := t.ncnt + 1 }) s, .done)

/-- Every slot of a window is empty. -/
def State.winEmpty (s : State) (h count : Nat) : Bool := (List.range count).all fun i => (s.winSlot (slotAt h i)).ncnt == 0

/-- READSUM of `n` elements from `first` on: taken whole or not at all. -/
def State.winRead (s : State) (h first n : Nat) : State × Option (List (BitVec 128)) :=
  let hd := s.winHead h
  let places := (List.range n).map fun i => slotAt h (first + i)
  if hd.count = 0 ∨ places.any (fun a => (s.winSlot a).ncnt != hd.ncon) then (s, none)
  else
    let out := places.map fun a => (s.winSlot a).acc.toRx
    let s := places.foldl (fun s a =>
      let t := s.winSlot a
      s.setSlot a (if t.nrd + 1 = hd.ncon then Slot.empty else { t with nrd := t.nrd + 1 })) s
    (if s.winEmpty h hd.count then s.putNum (h + 4) 4 0 else s, some out)

/-- The module and its address of a physical address outside the package. -/
def State.moduleOf (s : State) (pa : Nat) : Nat × Nat := s.masterOf pa

/-- Window permission on the whole extent of a window (R350). -/
def State.winGranted (s : State) (world m a n : Nat) : Bool :=
  match s.headFor m with
  | some hd => s.granted m hd world a n 8
  | none => false

/-- The command goes over a relay package, whose own checks refuse it (R361). -/
def State.relayStops (s : State) (world pa n : Nat) : Bool :=
  match regionOf pa with
  | .aperture m off =>
    (s.headAt m).isNone && (match s.routeTo m with | some c => Config.relayRefuses c s.free world m off n | none => false)
  | _ => false

/-- A module window is reached: in service (R344, R359), of an admitted module where the world is confidential (R356), and permitted, by a relay package as well (R349, R350, R361). -/
def State.winReach (s : State) (core : Nat) (pa va count : Nat) : Option Stop :=
  let world := (s.die (dieOf core)).world
  let m := s.moduleOf pa
  let reached := match regionOf pa with
    | .port p _ => (s.port p).inService
    | _ => (s.headFor m.1).isSome
  if !reached then some (.flt ⟨cXlatePerm, 8, dword va⟩)
  else if world != 0 && !s.pod.admitted.contains (m.1, world) then some (engStop 0x22 va)
  else if !s.winGranted world m.1 m.2 (64 + 64 * count) || s.relayStops world pa (64 + 64 * count) then some (.flt ⟨cXlatePerm, 10, dword va⟩)
  else none

/-- A CONTRIB or READSUM command as its port sends it, with its answer (R347, R348); one that goes over a relay is a message to the relay package (R360). -/
def State.windowCommand (s : State) (core pa : Nat) (r : ModReq) (payload : List Byte) (status : Nat) : State :=
  let world := (s.die (dieOf core)).world
  match s.modulePort pa with
  | some (p, off) => s.modCommand p { r with addr := off, world := world } status 0
  | none =>
    let head := bytesOf 1 r.op ++ bytesOf 1 r.subop ++ bytesOf 2 r.ncon ++ bytesOf 4 r.count ++ bytesOf 4 r.first ++ bytesOf 1 r.nel ++ List.replicate 3 0
    s.askRelay core pa 3 (head ++ payload) (64 + 64 * r.count) .nobody

/-- Where a window lies: its physical address and leaf, with the permissions of the page; `adds` asks for W. -/
def State.winLoc (s : State) (w : Who) (va : Nat) (adds : Bool) : State × Except Stop (Nat × DWord) :=
  let a : Access := if adds then .atomic else .read
  if 2 ^ 55 ≤ va then (s, .error (.flt ⟨cXlatePerm, 0x10, dword va⟩))
  else
    match s.translatePage w.core w.ctx (va / 2 ^ 19) a with
    | (s, .wait) => (s, .error .wait)
    | (s, .flt c n) => (s, .error (.flt ⟨c, n, dword va⟩))
    | (s, .ok x) =>
      match permCheck x a w.level with
      | some n => (s, .error (.flt ⟨cXlatePerm, n, dword va⟩))
      | none => match s.mapCheck x (leafPa x va) with
        | some n => (s, .error (.flt ⟨cXlatePerm, n, dword va⟩))
        | none => (s, .ok (leafPa x va, x))

/-! ## Package windows (R365) -/

/-- A page on which a package window may lie. -/
def packagePage (va : Nat) : PageCheck := fun pa x =>
  if regionOf pa = .hbm ∧ leafMt x = 0 ∧ leafRc x = false then none else some (engStop 4 va)

/-- The place of a part of a package window. -/
def State.packageLoc (s : State) (w : Who) (va : Nat) : State × Except Stop Nat :=
  match s.engineLoc w va 64 .atomic (packagePage va) with
  | (s, .error e) => (s, .error e)
  | (s, .ok (pa, _)) => (s, .ok pa)

/-- The places of several slots. -/
def State.packageSlots (s : State) (w : Who) (va first : Nat) : Nat → State × Except Stop (List Nat)
  | 0 => (s, .ok [])
  | n + 1 =>
    match s.packageSlots w va first n with
    | (s, .error e) => (s, .error e)
    | (s, .ok l) =>
      match s.packageLoc w (slotAt va (first + n)) with
      | (s, .error e) => (s, .error e)
      | (s, .ok a) => (s, .ok (l ++ [a]))

/-- A value added to a slot: an ACC that leaves its range sets NAN for good. -/
def Slot.update (t : Slot) (nan x : Bool) (v : Int) : Slot :=
  let y := t.acc.val + v
  let bad := nan || decide (y < -(2 ^ 319)) || decide (2 ^ 319 ≤ y)
  { t with acc := ⟨t.acc.nan || bad, if bad then t.acc.val else y⟩, xs := t.xs || x, ncnt := t.ncnt + 1 }

/-- An update of a package window: NAN, X and the value in units of 2^−160. -/
structure Upd where
  nan : Bool
  x : Bool
  v : Int
  deriving DecidableEq, Repr

/-- A place that a window command reads holds poison (R281). -/
def State.windowPoison (s : State) (va : Nat) (places : List Nat) : Option Stop :=
  if places.any fun a => (s.poisoned (s.home a) 64).isSome then some (.flt ⟨cPoison, 2, dword va⟩) else none

/-- Slots of a package window pass through their home caches, as every access of tier 0 does (R265). -/
def State.homeSlots (s : State) (w : Who) (places : List Nat) (writes : Bool) : State :=
  places.foldl (fun (s : State) a => s.homeRun w.core w.ctx a 64 writes) s

/-- The updates of a package window from `first` on that a command has not made yet: each is made where its slot has room, and an update that finds NCNT == NCON waits alone. -/
def State.packageAdd (s : State) (m : Cmd) (w : Who) (va first : Nat) (weighted : Bool) (us : List Upd) : State × Except Stop Unit :=
  match s.packageLoc w va with
  | (s, .error e) => (s, .error e)
  | (s, .ok h) =>
    match s.packageSlots w va first us.length with
    | (s, .error e) => (s, .error e)
    | (s, .ok places) =>
      match s.windowPoison va (h :: places) with
      | some e => (s, .error e)
      | none =>
        let hd := s.winHead h
        let left := ((List.range us.length).zip (places.zip us)).filter fun p => !m.added.contains (first + p.1)
        let now := left.filter fun p => hd.count != 0 && decide ((s.winSlot p.2.1).ncnt < hd.ncon)
        let s := (s.homeSlots w [h] false).homeSlots w (now.map fun p => p.2.1) true
        let s := now.foldl (fun (s : State) p =>
          s.setSlot p.2.1 ((s.winSlot p.2.1).update p.2.2.nan p.2.2.x (if weighted then hd.weight * p.2.2.v else p.2.2.v))) s
        if now.length = left.length then
          (s.mapCmd m.crew m.sq fun m => { m with added := m.added.filter fun i => decide (i < first) || decide (first + us.length ≤ i) }, .ok ())
        else (s.mapCmd m.crew m.sq fun m => { m with added := m.added ++ now.map fun p => first + p.1 }, .error .wait)

/-! ## CONTRIB (R363) -/

/-- Elements that one command of CONTRIB carries. -/
def colStep (x : BitVec 256) : Nat := if colEfmt x = 0 ∨ colEfmt x = 3 then 16 else 32

/-- Elements of part n. -/
def colPart (m : Cmd) (n : Nat) : Nat × Nat :=
  let first := n * colStep m.img
  (first, min (colStep m.img) (colCount m.img - first))

/-- The element formats of EFMT. -/
def colFmt (x : BitVec 256) : Nat := match colEfmt x with | 0 => 1 | 1 => 2 | 2 => 3 | _ => 8

/-- The FP32 patterns of Q8G32 elements, group by group, each decoded with the word of its group (R75, R76, R78). A page of another format takes FORMAT 0x06 (DESIGN CHOICE, log entry 118). -/
def decodeGroups (s : State) (c : Crew) (m : Cmd) : List (Nat × Nat) → State × Except Stop (List Byte)
  | [] => (s, .ok [])
  | (va, n) :: rest =>
    match s.leafFor (m.who c) va .read with
    | (s, .error e) => (s, .error e)
    | (s, .ok leaf) =>
      match s.readPiece c (m.who c) false (formatPage 8 va) va n with
      | (s, .error e) => (s, .error e)
      | (s, .ok b) =>
        match s.engineMeta c (m.who c) leaf va with
        | (s, .error e) => (s, .error e)
        | (s, .ok w) =>
          match decodeGroups s c m rest with
          | (s, .error e) => (s, .error e)
          | (s, .ok l) => (s, .ok (b.flatMap (fun q => bytesOf 4 (dequant w q.toNat)) ++ l))

/-- A run of Q8G32 elements decoded: cut at the groups of 32 bytes, none of which leaves its page. -/
def decodeRun (s : State) (c : Crew) (m : Cmd) (va n : Nat) : State × Except Stop (List Byte) := decodeGroups s c m (cutsOf 32 va n)

/-- The elements of a contribution as they stand at LOCAL; Q8G32 elements decoded. -/
def contribSource (s : State) (c : Crew) (m : Cmd) (n : Nat) : State × Except Stop (List Byte) :=
  let p := colPart m n
  let va := (cmdSrc m.img).toNat + p.1 * colUnit m.img
  if colEfmt m.img = 3 then decodeRun s c m va p.2
  else s.readRange c (m.who c) (cmdSv m.img) anyPage va (p.2 * colUnit m.img)

/-- The values of a contribution. -/
def contribVals (m : Cmd) (bytes : List Byte) : List Acc :=
  let f := if colEfmt m.img = 3 then 1 else colFmt m.img
  (elementsOf f bytes).map fun x => Acc.zero.addVal (elementVal f x)

/-- The command that carries a part of a contribution. -/
def contribReq (m : Cmd) (n : Nat) : ModReq :=
  { op := modContrib, subop := if colEfmt m.img = 3 then 0 else colEfmt m.img, addr := 0, first := (colPart m n).1, count := colCount m.img
    ncon := colNcon m.img, nel := (colPart m n).2 }

/-- A part of CONTRIB. -/
def contribDest (s : State) (c : Crew) (m : Cmd) (n : Nat) (bytes : List Byte) : State × Except Stop Unit :=
  let w := m.who c
  let va := (colWin m.img).toNat
  let p := colPart m n
  match s.winLoc w va true with
  | (s, .error e) => (s, .error e)
  | (s, .ok (pa, _)) =>
    if tierOf pa = 0 then s.packageAdd m w va p.1 true ((contribVals m bytes).map fun a => ⟨a.nan, false, a.val⟩)
    else
      match (s.winReach w.core pa va (colCount m.img)).orElse fun _ => s.windowPoison va (pa :: (List.range p.2).map fun i => slotAt pa (p.1 + i)) with
      | some e => (s, .error e)
      | none =>
        match s.winContrib pa (colCount m.img) (colNcon m.img) p.1 (contribVals m bytes) with
        | (s, .done) => (s.windowCommand w.core pa (contribReq m n) bytes 0, .ok ())
        | (s, .wait) => (s.windowCommand w.core pa (contribReq m n) bytes 1, .error .wait)
        | (s, .refused) => (s.windowCommand w.core pa (contribReq m n) bytes 2, .error (engStop 0x22 va))

/-! ## READSUM and READROUND (R364, R365) -/

/-- The four values that command k reads from a module window, which counts as one of its reads. -/
def readWindow (s : State) (c : Crew) (m : Cmd) (k : Nat) : State × Except Stop (List (BitVec 128)) :=
  let w := m.who c
  let va := (colWin m.img).toNat
  let n := min 4 (colCount m.img - 4 * k)
  let req : ModReq := { op := modReadsum, subop := 0, addr := 0, first := 4 * k, count := colCount m.img, nel := n }
  match s.winLoc w va false with
  | (s, .error e) => (s, .error e)
  | (s, .ok (pa, _)) =>
    if tierOf pa = 0 then (s, .error (engStop 4 va))
    else
      match (s.winReach w.core pa va (colCount m.img)).orElse fun _ => s.windowPoison va (pa :: (List.range n).map fun i => slotAt pa (4 * k + i)) with
      | some e => (s, .error e)
      | none =>
        match s.winRead pa (4 * k) n with
        | (s, some l) => (s.windowCommand w.core pa req [] 0, .ok l)
        | (s, none) => (s.windowCommand w.core pa req [] 1, .error .wait)

/-- The pieces of LOCAL that bytes go to can be written. -/
def State.probeRange (s : State) (w : Who) (vault : Bool) (chk : PageCheck) : List (Nat × Nat) → State × Except Stop Unit
  | [] => (s, .ok ())
  | (va, n) :: rest =>
    if vault then (s, .ok ())
    else match s.engineLoc w va n .write chk with
      | (s, .error e) => (s, .error e)
      | (s, .ok _) => s.probeRange w vault chk rest

/-- An RX128 as an update of a package window. -/
def rxUpd (r : BitVec 128) : Upd :=
  let v := rxValue r
  ⟨v.nan, v.x, v.val / 2 ^ 96⟩

/-- The value of element i that READSUM reads: the four of its command are read together, and kept until each has gone where it goes. -/
def readsumSource (s : State) (c : Crew) (m : Cmd) (i : Nat) : State × Except Stop (List Byte) :=
  match readWindow s c m (i / 4) with
  | (s, .error e) => (s, .error e)
  | (s, .ok l) =>
    let kept := (List.range l.length).map fun j => (4 * (i / 4) + j, bytesOf 16 (l.getD j 0).toNat)
    (s.mapCmd m.crew m.sq fun m => { m with buf := some (m.buf.getD [] ++ kept) }, .ok (bytesOf 16 (l.getD (i % 4) 0).toNat))

/-- An element of READSUM goes to vault, or into a package window. -/
def readsumDest (s : State) (c : Crew) (m : Cmd) (i : Nat) (bytes : List Byte) : State × Except Stop Unit :=
  let w := m.who c
  let dst := (cmdSrc m.img).toNat
  if cmdSv m.img then s.writeRange c w true false anyPage (dst + 16 * i) bytes
  else s.packageAdd m w dst i false [rxUpd (BitVec.ofNat 128 (natOfBytes bytes))]

/-- Sums rounded to EFMT: exact values in units of 2^−256, with NAN and a sticky bit (R89). -/
def roundOut (x : BitVec 256) (vs : List (Bool × Int × Bool)) : List Byte :=
  match colEfmt x with
  | 1 => vs.flatMap fun v => bytesOf 2 (roundSum bf16 v.1 v.2.1 v.2.2)
  | _ => vs.flatMap fun v => bytesOf 4 (roundSum fp32 v.1 v.2.1 v.2.2)

/-- Sums quantized to groups of 32 (R77, R89), X of a single RX128 as a sticky bit (R364); a NAN counts as zero. R77 asks for exact values, and X gives an interval: the model takes half a unit of 2^−256 more than the value that X goes with (DESIGN CHOICE, log entry 129). -/
def quantOut (vs : List (Bool × Int × Bool)) : QGroup :=
  quantize 257 8 (vs.map fun v => if v.1 then 0 else 2 * v.2.1 + (if v.2.2 then 1 else 0))

/-- Elements of a part of READROUND: those that fill a granule, or a group with EFMT 3. -/
def roundStep (x : BitVec 256) : Nat := if colEfmt x = 3 then 32 else 16 / colUnit x

/-- Pieces of a part of READROUND: one, or the two granules and the metadata word of a group (R180). -/
def roundPieces (x : BitVec 256) : Nat := if colEfmt x = 3 then 3 else 1

/-- Parts of READROUND that write results. A last part closes a package window. -/
def roundParts (x : BitVec 256) : Nat := (colCount x + roundStep x - 1) / roundStep x * roundPieces x

/-- First element and number of elements of a part. -/
def roundPart (x : BitVec 256) (n : Nat) : Nat × Nat :=
  let g := n / roundPieces x
  (g * roundStep x, min (roundStep x) (colCount x - g * roundStep x))

/-- The results of a part written at LOCAL. -/
def writeResults (s : State) (c : Crew) (m : Cmd) (n : Nat) (vs : List (Bool × Int × Bool)) : State × Except Stop Unit :=
  let va := (cmdSrc m.img).toNat + (roundPart m.img n).1 * colUnit m.img
  if colEfmt m.img = 3 then s.writeGroup c m false 8 va (n % 3) (quantOut vs)
  else s.writeRange c (m.who c) (cmdSv m.img) false anyPage va (roundOut m.img vs)

/-- LOCAL can take the results of a part. -/
def roomFor (s : State) (c : Crew) (m : Cmd) (n : Nat) : State × Except Stop Unit :=
  let p := roundPart m.img n
  let va := (cmdSrc m.img).toNat + p.1 * colUnit m.img
  match s.probeRange (m.who c) (cmdSv m.img) (if colEfmt m.img = 3 then formatPage 8 va else anyPage) (chunks va (p.2 * colUnit m.img)) with
  | (s, .error e) => (s, .error e)
  | (s, .ok ()) =>
    if colEfmt m.img ≠ 3 then (s, .ok ())
    else
      match s.leafFor (m.who c) va .write with
      | (s, .error e) => (s, .error e)
      | (s, .ok leaf) =>
        match (s.ctx c.ctx).metaVa leaf (dword va) with
        | .error f => (s, .error (.flt f))
        | .ok mva => s.probeRange (m.who c) false anyPage (chunks mva.toNat 4)

/-- Values read from a module window by several commands of READSUM. -/
def readMany (s : State) (c : Crew) (m : Cmd) : List Nat → State × Except Stop (List (BitVec 128))
  | [] => (s, .ok [])
  | n :: rest =>
    match readWindow s c m n with
    | (s, .error e) => (s, .error e)
    | (s, .ok l) =>
      match readMany s c m rest with
      | (s, .error e) => (s, .error e)
      | (s, .ok k) => (s, .ok (l ++ k))

/-- What READROUND keeps of the values of a part: RX128 patterns in order. -/
def rxBytes (l : List (BitVec 128)) : List Byte := l.flatMap fun r => bytesOf 16 r.toNat

/-- RX128 patterns as values to round; X of a single RX128 is a sticky bit. -/
def rxVals (bytes : List Byte) : List (Bool × Int × Bool) :=
  (List.range (bytes.length / 16)).map fun i =>
    let v := rxValue (BitVec.ofNat 128 (natOfBytes ((bytes.drop (16 * i)).take 16)))
    (v.nan, v.val, v.x)

/-- The values of a part of READROUND over a module window. The reads of a part are made when every element of it is complete and LOCAL can take the results, and its pieces share them. -/
def readroundSource (s : State) (c : Crew) (m : Cmd) (n : Nat) : State × Except Stop (List Byte) :=
  match roomFor s c m n with
  | (s, .error e) => (s, .error e)
  | (s, .ok ()) =>
    let p := roundPart m.img n
    match readMany s c m ((List.range ((p.2 + 3) / 4)).map fun i => p.1 / 4 + i) with
    | (_, .error .wait) => (s, .error .wait)
    | (t, .error e) => (t, .error e)
    | (t, .ok l) =>
      let first := n / roundPieces m.img * roundPieces m.img
      let kept := (List.range (roundPieces m.img)).map fun j => (first + j, rxBytes l)
      (t.mapCmd m.crew m.sq fun m => { m with buf := some (m.buf.getD [] ++ kept) }, .ok (rxBytes l))

/-- The slots of a package window, read in their order. -/
def packageVals (s : State) (places : List Nat) : List Slot := places.map s.winSlot

/-- A part of READROUND of a package window: once every element is complete, each is rounded once and written; the last part lets the header tell NAN and INEXACT_WINDOW, empties the slots, and leaves the window idle. -/
def packageRound (s : State) (c : Crew) (m : Cmd) (h n : Nat) : State × Except Stop Unit :=
  let hd := s.winHead h
  match s.packageSlots (m.who c) (colWin m.img).toNat 0 hd.count with
  | (s, .error e) => (s, .error e)
  | (s, .ok places) =>
    let w := m.who c
    let slots := packageVals s places
    match s.windowPoison (colWin m.img).toNat (h :: places) with
    | some e => (s, .error e)
    | none =>
    if hd.count = 0 ∨ slots.any (fun t => decide (t.ncnt < hd.ncon)) then (s, .error .wait)
    else if n < roundParts m.img then
      let p := roundPart m.img n
      match roomFor (s.homeSlots w (h :: (places.drop p.1).take p.2) false) c m n with
      | (s, .error e) => (s, .error e)
      | (s, .ok ()) => writeResults s c m n (((slots.drop p.1).take p.2).map fun t => (t.acc.nan, t.acc.val * 2 ^ 96, false))
    else
      let s := places.foldl (fun s a => s.setSlot a Slot.empty) (s.homeSlots w (h :: places) true)
      let s := s.putNum (h + 8) 1 ((if slots.any (·.acc.nan) then 1 else 0) + (if slots.any (·.xs) then 2 else 0))
      (s.putNum (h + 4) 4 0, .ok ())

/-- The window of READROUND lies in tier 0. -/
def roundsPackage (s : State) (c : Crew) (m : Cmd) : State × Except Stop Bool :=
  match s.winLoc (m.who c) (colWin m.img).toNat false with
  | (s, .error e) => (s, .error e)
  | (s, .ok (pa, _)) => (s, .ok (tierOf pa == 0))

/-- What a part of READROUND reads ahead of its writing: the values of a module window. -/
def roundSource (s : State) (c : Crew) (m : Cmd) (n : Nat) : State × Except Stop (List Byte) :=
  match roundsPackage s c m with
  | (s, .error e) => (s, .error e)
  | (s, .ok inPackage) => if inPackage ∨ roundParts m.img ≤ n then (s, .ok []) else readroundSource s c m n

/-- A part of READROUND. -/
def roundDest (s : State) (c : Crew) (m : Cmd) (n : Nat) (bytes : List Byte) : State × Except Stop Unit :=
  match roundsPackage s c m with
  | (s, .error e) => (s, .error e)
  | (s, .ok true) =>
    match s.packageLoc (m.who c) (colWin m.img).toNat with
    | (s, .error e) => (s, .error e)
    | (s, .ok h) => packageRound s c m h n
  | (s, .ok false) => if roundParts m.img ≤ n then (s, .ok ()) else writeResults s c m n (rxVals bytes)

/-! ## RELAY (R366) -/

/-- The destination of a relay lies in tier 2. -/
def relayPage (va : Nat) : PageCheck := fun pa _ => if tierOf pa = 2 then none else some (engStop 4 va)

/-- The bytes of a relay. -/
def relaySource (s : State) (c : Crew) (m : Cmd) (_ : Nat) : State × Except Stop (List Byte) :=
  s.readRange c (m.who c) (cmdSv m.img) anyPage (cmdSrc m.img).toNat (colCount m.img)

/-- The message of a relay lands piece by piece; what it has brought, by physical address, runs that follow each other joined. -/
def State.relayPieces (s : State) (w : Who) : List (Nat × List Byte) → State × Except Stop (List (Nat × List Byte))
  | [] => (s, .ok [])
  | (va, b) :: rest =>
    match s.engineLoc w va b.length .write (relayPage va) with
    | (s, .error e) => (s, .error e)
    | (s, .ok (pa, leaf)) =>
      match (s.putPiece w pa leaf b).relayPieces w rest with
      | (s, .error e) => (s, .error e)
      | (s, .ok ((next, l) :: more)) => (s, .ok (if next = pa + b.length then (pa, b ++ l) :: more else (pa, b) :: (next, l) :: more))
      | (s, .ok []) => (s, .ok [(pa, b)])

/-- The relay as one message (R366), for whose reply the destination handle waits; nothing is written where one page of the destination refuses it. -/
def relayDest (s : State) (c : Crew) (m : Cmd) (_ : Nat) (bytes : List Byte) : State × Except Stop Unit :=
  let w := m.who c
  let va := (colWin m.img).toNat
  match s.probeRange w false (relayPage va) (chunks va (colCount m.img)) with
  | (s, .error e) => (s, .error e)
  | (s, .ok ()) =>
    match s.relayPieces w ((chunks va bytes.length).map fun p => (p.1, (bytes.drop (p.1 - va)).take p.2)) with
    | (s, .error e) => (s, .error e)
    | (s, .ok runs) => (runs.foldl (fun (s : State) r => s.askRelay w.core r.1 1 r.2 r.2.length w.asks) s, .ok ())

/-! ## The steps of the collective engine -/

/-- Parts of a number of elements. -/
def pieces (n step : Nat) : List Nat := List.range ((n + step - 1) / step)

/-- The collective and relay engine by op. READSUM and READROUND hold their source until they have completed. -/
def collectEngine (m : Cmd) : Engine :=
  match cmdOp m.img with
  | 0x30 => ⟨fun _ _ m => pieces (colCount m.img) (colStep m.img), noRank, contribSource, contribDest⟩
  | 0x31 => ⟨fun _ _ m => List.range (colCount m.img), noRank, readsumSource, readsumDest⟩
  | 0x32 => ⟨fun _ _ m => List.range (roundParts m.img + 1), fun n => if n < roundParts m.img then 0 else 1, roundSource, roundDest⟩
  | _ => ⟨fun _ _ _ => [0], noRank, relaySource, relayDest⟩

/-- A collective command with an op performs what is left of it. -/
def State.runCollect (s : State) (op crew sq : Nat) : State :=
  match s.cmd? crew sq with
  | some m => if cmdOp m.img = op then (collectEngine m).all s crew sq else s
  | none => s

end Sys2Proof.Machine
end

