-- ==== Sys2Proof/Machine/Reset.lean ====
section
/-! DEFINITION. Resets (R335 to R338): crew kill, context, tenancy and package reset; uncorrectable errors in memory and registers (R255, R279, R281). -/

namespace Sys2Proof.Machine

/-! ## Discarded launches and endpoints (R336, R337) -/

/-- The pop reservations that a launch keeps for tasks that wait to be run again. -/
def Launch.keptPops (l : Launch) : List PopRes :=
  (l.reruns.flatMap fun r => r.popped.toList ++ r.held) ++ l.conts.flatMap fun k => k.held

/-- The launches of a context are discarded: no completion word, no CSEND; kept reservations are committed, records are FREE. -/
def State.discardLaunches (s : State) (ctx : Nat) : State :=
  let ls := s.launches.filter fun l => l.ctx == ctx
  let s := (ls.flatMap Launch.keptPops).foldl (fun (s : State) (p : PopRes) => s.commitLater ⟨p.pa, p.num, false, ctx, none⟩) s
  let s := s.freeRecords ctx (ls.flatMap fun l => l.records)
  { s with launches := s.launches.filter fun l => l.ctx != ctx }

/-- An endpoint after a context reset: PENDING, counts and the binding cleared, every vector masked. -/
def Endpoint.afterReset (x : Endpoint) : Endpoint := { x with pending := [], mask := BitVec.allOnes 64, bound := none }

/-- The endpoints of a context after its reset. -/
def State.resetEndpoints (s : State) (ctx : Nat) : State :=
  (List.range 4).foldl (fun (s : State) e => s.setEndpoint ctx e (s.endpoint ctx e).afterReset) s

/-- A handler thread is stopped and discarded, its slot freed. -/
def State.dropHandler (s : State) (gk : Nat) : State :=
  match s.gang? gk with
  | none => s
  | some g =>
    let s := s.withdrawWaits gk
    let s := s.mapCore g.core fun c => { c with hslots := c.hslots.filter fun h => h.2 != gk }
    { s with gangs := s.gangs.drop gk }.leaveSlots g.ctx

/-! ## Context and tenancy resets (R336, R337) -/

/-- A context is reset; `stop` stops a crew. Crews whose accesses and commands are over are gone at once, the others retire as killed when they are. -/
def State.resetWith (s : State) (ctx : Nat) (stop : State → Nat → State) : State :=
  if !s.hasCtx ctx then s
  else
    let crews := (s.crews.filter fun p => p.2.ctx == ctx).map (·.1)
    let s := crews.foldl stop s
    let s := s.closeWhere ctx fun _ => true
    let s := ((s.gangs.filter fun p => p.2.ctx == ctx && p.2.hslot.isSome).map (·.1)).foldl State.dropHandler s
    let s := (s.discardLaunches ctx).resetEndpoints ctx
    let s := (s.setQueue ctx []).mapCtx ctx fun c => { c with heldRecs := [], resetting := true }
    let s := crews.foldl (fun (s : State) c => if s.crewOver c then s.endCrew c else s) s
    s.endReset ctx

/-- A context reset. -/
def State.resetCtx (s : State) (ctx : Nat) : State := s.resetWith ctx State.killCrew

/-- A tenancy reset: with DRAIN the commands of its rings run to completion, with CANCEL every context is reset. Sends that arrive for it afterwards are dropped. -/
def State.resetTen (s : State) (ten : Nat) (drain : Bool) : State :=
  if (s.tens.find? ten).isNone then s
  else
    let s := (s.ctxsOf ten).foldl (fun (s : State) x => if drain then s.resetWith x State.drainCrew else s.resetCtx x) s
    (s.mapTen ten fun t => { t with draining := drain, gone := true }).endDrain

/-- A package reset: nothing of the package survives. What lies in the modules stays, and what the model keeps for itself. -/
def State.resetPackage (s : State) (cause : Nat) : State :=
  { State.reset with
    pace := s.pace
    agenda := s.agenda
    free := s.free
    nextKey := s.nextKey
    mem := s.mem.filter fun c => decide (apertureBase ≤ c.1)
    fe := s.fe.filter fun p => decide (apertureBase ≤ 16 * p.1)
    poison := s.poison.filter fun g => decide (apertureBase ≤ 16 * g)
    pages := s.pages
    modRanges := s.modRanges
    power := { State.reset.power with cause := cause } }

/-- CREW_KILL (R335, R336, R337). System software kills a crew through control space. -/
def execCrewKill (crew : Demand) (s : State) : Host.Outcome State Fault Refusal :=
  .next (s.ownerWrite crew.who fun s => s.killCrew crew.num)

/-- CONTEXT_RESET (R335, R336, R337). System software resets a context through control space. -/
def execContextReset (ctx : Demand) (s : State) : Host.Outcome State Fault Refusal :=
  .next (s.ownerWrite ctx.who fun s => s.resetCtx ctx.num)

/-- TENANCY_RESET_DRAIN (R335, R336, R337). The owner of the control plane resets a tenancy with MODE DRAIN. -/
def execTenancyResetDrain (ten : Demand) (s : State) : Host.Outcome State Fault Refusal :=
  .next (s.ownerWrite ten.who fun s => s.resetTen ten.num true)

/-- TENANCY_RESET_CANCEL (R335, R336, R337). The owner of the control plane resets a tenancy with MODE CANCEL. -/
def execTenancyResetCancel (ten : Demand) (s : State) : Host.Outcome State Fault Refusal :=
  .next (s.ownerWrite ten.who fun s => s.resetTen ten.num false)

/-- PACKAGE_RESET (R335, R336, R342, R386). Garnet orders a reset of the package; the owner of the control plane orders it by the write `.packageReset` of control space. -/
def execPackageReset (s : State) : Host.Outcome State Fault Refusal :=
  .next (s.resetPackage 0)

/-! ## Errors in memory and registers (R255, R279, R281) -/

/-- Kinds of an error report: a corrected copy, a crew killed, a line poisoned, a tenancy reset. -/
def errClean : Nat := 1
def errPrivate : Nat := 2
def errShared : Nat := 3
def errTenancy : Nat := 4

/-- A record that reports a poisoned line to the owner of class POISON; it names no frozen object. Where that owner is the context itself, which is stopped, the escalation owner receives it. -/
def State.poisonRec (s : State) (ctx pa : Nat) : Rec :=
  let owner := ((s.ten (s.ctx ctx).tenancy).claims.at_ Claim.reset cPoison).owner
  { seq := 0, task := 0, crewIx := 0, gang := 0xFFFF, grec := 0xFFFF, gslot := 0xFFFF, core := 0, cls := cPoison, sub := 0, level := 0,
    nested := owner == 1, eng := false, lanes := 0, rcnt := 0, rep := 0, pc := 0, va := dword pa, cap := 0, gkey := 0, crew := 0, fetch := none, ord := 0 }

/-- The granules of a 128 B line are poisoned. -/
def State.poisonLine (s : State) (pa : Nat) : State :=
  let gs := ((List.range 8).map fun i => lineAddr (s.home pa) / 16 + i).filter fun g => !s.poison.contains g
  { s with poison := s.poison ++ gs }

/-- An uncorrectable error in memory, contained by where the line lies (R281). -/
def State.memoryError (s : State) (pa : Nat) (place : ErrPlace) : State :=
  match place with
  | .cleanCopy => s.report 0 errClean pa
  | .privateToCrew crew =>
    match s.crew? crew with
    | none => s
    | some c =>
      let s := if regionOf pa == .hbm || tierOf pa != 0 then s.poisonLine pa else s
      let s := if c.mayAbort then s.abortTask crew else s.killCrew crew
      s.report 0 errPrivate pa
  | .sharedIn ctx =>
    if !s.hasCtx ctx then s
    else (((s.poisonLine pa).stopCtx ctx).queueRec ctx (s.poisonRec ctx pa)).1.report 0 errShared pa
  | .tenancyStructure ten => (s.resetTen ten false).report 0 errTenancy pa
  | .packageStructure => s.resetPackage 1

/-- MEMORY_UNCORRECTABLE (R281, R301). An uncorrectable error in memory is contained according to where the line lies. -/
def execMemoryUncorrectable (pa : Nat) (place : ErrPlace) (s : State) : Host.Outcome State Fault Refusal :=
  .next (s.memoryError pa place)

/-- ECC_CORRECTION (R279). A single-bit error is corrected and counted in the core's error counters. -/
def execEccCorrection (core : Nat) (s : State) : Host.Outcome State Fault Refusal :=
  .next (s.mapCore core fun c => { c with corrected := c.corrected + 1 })

/-- The registers in 16-byte part `part` of line `n` of a gang, for each lane: v registers of four lanes, or four k registers of every lane. -/
def damagedOf (n part : Nat) : List (Nat × Nat) :=
  if n < 128 then (List.range 4).map fun i => (4 * part + i, n)
  else (List.range 32).flatMap fun l => (List.range 4).map fun i => (l, 128 + 32 * (n - 128) + 4 * part + i)

/-- A register's value is lost. Log entry 18. -/
def Gang.lose (g : Gang) (free : Nat) (p : Nat × Nat) : Gang :=
  if p.2 < 128 then { g with v := g.v.set 0 (128 * p.1 + p.2) (Config.lostWord free) }
  else { g with k := g.k.set 0 (p.2 - 128) (Config.lostWord free) }

/-- An uncorrectable error in a register line that is held: a CLEAN line is fetched again, a DIRTY one has lost the part (R255). -/
def State.registerError (s : State) (gk n part : Nat) (tags : Bool) : State :=
  match s.gang? gk with
  | none => s
  | some g =>
    if tags then s.resetTen (s.ctx g.ctx).tenancy false
    else if 131 ≤ n ∨ 8 ≤ part ∨ g.absent.contains n then s
    else if g.clean.contains n then
      (s.setGang gk { g with absent := n :: g.absent, backed := g.backed.filter (· != n), clean := g.clean.filter fun m => m != n }).report 1 errClean n
    else
      let lost := damagedOf n part
      let h := (lost.mapIdx fun i p => (i, p)).foldl (fun (h : Gang) x => h.lose (s.free + (if n < 128 then x.1 else x.1 % 4)) x.2) g
      { s.setGang gk { h with damaged := h.damaged ++ lost.filter fun p => !h.damaged.contains p } with free := s.free + 4 }

/-- REGISTER_UNCORRECTABLE (R255). An uncorrectable error in a register line of a gang, or in the tags of the register backing. -/
def execRegisterUncorrectable (g line part : Nat) (tags : Bool) (s : State) : Host.Outcome State Fault Refusal :=
  .next (s.registerError g line part tags)

end Sys2Proof.Machine
end

