-- ==== Sys2Proof/Machine/Engine.lean ====
section
/-! DEFINITION. Publication, handles, tile records, FENCEX and the pod identity: majors 0x31 to 0x33, 0x35 and FENCEX (R158, R168 to R174, R187 to R191, R200). -/

namespace Sys2Proof.Machine

/-! ## Publication (R173, R174, R322) -/

/-- PRIV 0x01 of the instructions that a handler gang may not execute (R322). -/
def noHandler (g : Gang) : Option Nat := if g.hslot.isSome then some 1 else none

/-- The image that a register block holds. -/
def imageOf (ws : List Word) : BitVec 256 := BitVec.ofNat 256 (natOfBytes (ws.flatMap fun w => bytesOf 4 w.toNat))

/-- The image that a gang publishes or sets. -/
def Env.image (e : Env) (skip : Nat) : BitVec 256 := imageOf (((e.vals (e.lanes.headD 0)).drop skip).take 8)

/-- 16 commands of a ring are held, and every one is frozen. -/
def State.ringStuck (s : State) (crew : Nat) : Bool :=
  decide (Config.heldCommands ≤ (s.heldCmds crew).length) && (s.heldCmds crew).all fun m => m.st == .frozen

/-- XQ goes on: it faults, or its ring has room and the pinning of its task can commit. -/
def xqReady (engine : Nat) (s : State) (e : Env) : Bool :=
  let x := e.image 0
  let r := s.readRecs e.g.crew e.gk x
  match s.crewOf e.g with
  | none => true
  | some c =>
    engineOf (cmdOp x) != some engine || (r.1.checkEntry e.g.crew x r.2).isSome
      || (if s.ringFill c == 64 then s.ringStuck e.g.crew
          else !pinsTask x r.2 || (match s.pin e.g with | .ok _ => true | .error _ => false))

/-- XQ for the gang. -/
def xqBody (engine : Nat) (s : State) (e : Env) (_ : Nat) : State × LaneOut :=
  let x := e.image 0
  match s.crewOf e.g with
  | none => (s, .fault ⟨cPriv, 1, 0⟩)
  | some c =>
    if engineOf (cmdOp x) ≠ some engine then (s, .fault ⟨cEngine, 2, 0⟩)
    else
      let (s, r) := (s.notePub e.g.crew none).readRecs e.g.crew e.gk x
      match s.checkEntry e.g.crew x r with
      | some (n, va) => (s, .fault ⟨cEngine, n, va⟩)
      | none =>
        if s.ringFill c = 64 then (s, .fault ⟨cEngine, 1, 0⟩)
        else
          let t := if pinsTask x r then (match s.pin e.g with | .ok t => t | .error _ => s) else s
          (t.publish e.g.crew e.g.subId e.gk x r, .done { ws := [word (s.ringPub c)] })

/-- XQ of one engine. -/
def xqOp (engine : Nat) (nw : Bool) (d : Nat) (a : Src) : Op where
  form := { rbCls := true, srcs := [.block a 8], dst := .v d, nw := nw, bad3 := nw && d != 0, uniform := true, priv := noHandler }
  ready := xqReady engine
  body := oncePer (xqBody engine)

/-- XQ.CP (R173). -/
def opXqCp (nw : Bool) (d : Nat) (a : Src) (_ : Hints) : Op :=
  xqOp 0 nw d a
/-- The meaning of XQ.CP. -/
def execXqCp (nw : Bool) (d : Nat) (a : Src) (s : State) : Host.Outcome State Fault Refusal := run (.xqCp nw d a) (opXqCp nw d a) s

/-- XQ.GX (R173). -/
def opXqGx (nw : Bool) (d : Nat) (a : Src) (_ : Hints) : Op :=
  xqOp 1 nw d a
/-- The meaning of XQ.GX. -/
def execXqGx (nw : Bool) (d : Nat) (a : Src) (s : State) : Host.Outcome State Fault Refusal := run (.xqGx nw d a) (opXqGx nw d a) s

/-- XQ.NE (R173). -/
def opXqNe (nw : Bool) (d : Nat) (a : Src) (_ : Hints) : Op :=
  xqOp 2 nw d a
/-- The meaning of XQ.NE. -/
def execXqNe (nw : Bool) (d : Nat) (a : Src) (s : State) : Host.Outcome State Fault Refusal := run (.xqNe nw d a) (opXqNe nw d a) s

/-- XQ.CL (R173). -/
def opXqCl (nw : Bool) (d : Nat) (a : Src) (_ : Hints) : Op :=
  xqOp 3 nw d a
/-- The meaning of XQ.CL. -/
def execXqCl (nw : Bool) (d : Nat) (a : Src) (s : State) : Host.Outcome State Fault Refusal := run (.xqCl nw d a) (opXqCl nw d a) s

/-! ## Handles (R187 to R189) -/

/-- The value of a handle state (R185). -/
def HState.code : HState → Nat
  | .free => 0
  | .filling => 1
  | .full => 2
  | .draining => 3
  | .fault => 4

/-- The form of a handle instruction. -/
def handleForm (a b : Src) : Form := { srcs := [.uni a .u, .uni b .u], uniform := true, priv := noHandler }

/-- The ENGINE fault of a gang. -/
def engineFault (n : Nat) : LaneOut := .fault ⟨cEngine, n, 0⟩

/-- The home core and the handle that A names, where it is bound to the gang's crew. -/
def boundHandle (s : State) (e : Env) (l : Nat) : Option (Nat × Nat) :=
  match s.crewOf e.g with
  | none => none
  | some c =>
    let h := (e.val l 0).toNat
    if h < 64 ∧ (s.handle c.homeCore h).owner = some e.g.crew then some (c.homeCore, h) else none

/-- The condition of WAITH on a handle (R189). -/
def waithHolds (h : Handle) (b : Word) : Bool :=
  if b.getLsbD 31 then decide (b.toNat % 2 ^ 31 ≤ h.counter.toNat) else b.toNat == 0 || b.getLsbD h.st.code

/-- WAITH (R189). -/
def opWaith (a : Src) (b : Src) (_ : Hints) : Op :=
  { form := { handleForm a b with sCls := true, sync := true }
    body := oncePer fun s e l =>
      match boundHandle s e l with
      | none => (s, engineFault 3)
      | some (core, hn) =>
        let x := e.val l 1
        if !x.getLsbD 31 && bitsAt x.toNat 5 26 != 0 then (s, engineFault 4)
        else if waithHolds (s.handle core hn) x then (s, .done {}) else (s, .wait (.handle hn)) }
/-- The meaning of WAITH. -/
def execWaith (a : Src) (b : Src) (s : State) : Host.Outcome State Fault Refusal := run (.waith a b) (opWaith a b) s

/-- HSET (R188). -/
def opHset (a : Src) (b : Src) (_ : Hints) : Op :=
  { form := handleForm a b
    body := oncePer fun s e l =>
      match boundHandle s e l with
      | none => (s, engineFault 3)
      | some (core, hn) =>
        let x := (e.val l 1).toNat
        let k := s.handle core hn
        if (x % 8 != 0 && x % 8 != 2) || x / 16 != 0 then (s, engineFault 4)
        else if k.dpend != 0 || k.spend != 0 || s.handleFrozen e.g.crew hn then (s, engineFault 6)
        else
          let st : HState := if x % 8 = 0 then .free else .full
         (s.mapHandle core hn fun k => { k with st := st, base := st, sub := 0, counter := if x.testBit 3 then 0 else k.counter }, .done {}) }
/-- The meaning of HSET. -/
def execHset (a : Src) (b : Src) (s : State) : Host.Outcome State Fault Refusal := run (.hset a b) (opHset a b) s

/-- The state word of a handle (R189). -/
def Handle.word (h : Handle) : Word := Sys2Proof.word (h.st.code + h.sub % 256 * 256 + h.counter.toNat % 65536 * 65536)

/-- HQRY (R189). It is not among the instructions that R322 denies to a handler gang, which has no handle that it could name (R188). -/
def opHqry (nw : Bool) (d : Nat) (a : Src) (b : Src) (_ : Hints) : Op :=
  { form := { srcs := [.uni a .u, .uni b .u], uniform := true, dst := .v d, nw := nw, bad3 := nw && d != 0 }
    body := oncePer fun s e l =>
      match boundHandle s e l with
      | none => (s, engineFault 3)
      | some (core, hn) =>
        let x := e.val l 1
        if x = 0 then (s, .done { ws := [(s.handle core hn).word] })
        else if x = 1 then (s, .done { ws := [(s.handle core hn).counter] })
        else (s, engineFault 4) }
/-- The meaning of HQRY. -/
def execHqry (nw : Bool) (d : Nat) (a : Src) (b : Src) (s : State) : Host.Outcome State Fault Refusal := run (.hqry nw d a b) (opHqry nw d a b) s

/-- HBIND of handle h (R187). B = 0 on a handle that nobody owns returns 0 and changes nothing (DESIGN CHOICE, log entry 120). -/
def bindHandle (s : State) (crew core h : Nat) (bind : Bool) : State × LaneOut :=
  let k := s.handle core h
  if bind then
    match k.owner with
    | none => (s.mapHandle core h fun _ => { Handle.reset with owner := some crew }, .done { ws := [1] })
    | some o => (s, .done { ws := [if o = crew then 1 else 0] })
  else if k.owner ≠ some crew then (s, .done { ws := [0] })
  else if k.st = .filling ∨ k.st = .draining ∨ s.handleFrozen crew h then (s, engineFault 6)
  else (s.mapHandle core h fun _ => Handle.reset, .done { ws := [1] })

/-- HBIND (R187). -/
def opHbind (nw : Bool) (d : Nat) (a : Src) (b : Src) (_ : Hints) : Op :=
  { form := { handleForm a b with dst := .v d, nw := nw, bad3 := nw && d != 0 }
    body := oncePer fun s e l =>
      let hn := (e.val l 0).toNat
      let x := (e.val l 1).toNat
      match s.crewOf e.g with
      | none => (s, engineFault 3)
      | some c => if 64 ≤ hn ∨ 1 < x then (s, engineFault 3) else bindHandle s e.g.crew c.homeCore hn (x == 1) }
/-- The meaning of HBIND. -/
def execHbind (nw : Bool) (d : Nat) (a : Src) (b : Src) (s : State) : Host.Outcome State Fault Refusal := run (.hbind nw d a b) (opHbind nw d a b) s

/-! ## Tile records (R190, R191) -/

/-- Static check 1: reserved and zero fields. -/
def tileReserved (r : BitVec 256) : Bool :=
  let lay := tileLayout r
  fld r 192 64 != 0 || fld r 144 16 != 0 || fld r 117 3 != 0 || fld r 109 3 != 0 || fld r 101 3 != 0
    || lay == 3 || tileKind r == 3 || decide (2 ≤ tileRole r) || decide (2 ≤ tileAccf r)
    || (lay != 2 && (tileStride r != 0 || fld r 32 32 != 0)) || (lay == 2 && tilePitch r != 0)

/-- Static check 2: FMT, P and KIND agree. -/
def tileFormats (r : BitVec 256) : Bool :=
  let f := tileFmt r
  let p := tileP r
  let q := fmtQ8 f || fmtQ4 f
  match tileLayout r with
  | 0 =>
    match tileKind r with
    | 0 => q && p == (if fmtQ8 f then 8 else 4)
    | 1 => decide (1 ≤ f) && decide (f ≤ 3) && decide (9 ≤ p) && decide (p ≤ 16)
    | _ => f == 4 && p == 8
  | 1 => f == 0 && p == 0 && tilePdecl r == 0 && tileKind r == 0 && tileRole r == 0
  | _ => q && p == 0 && tilePdecl r == 0 && tileKind r == 0 && tileRole r == 0 && tileAccf r == 0

/-- Static check 3: PDECL, and ACCF of a B-role record. -/
def tileDeclared (r : BitVec 256) : Bool :=
  tileLayout r != 0 || (decide (1 ≤ tilePdecl r) && decide (tilePdecl r ≤ tileP r) && (tileRole r != 1 || tileAccf r == 0))

/-- Static check 4: the sizes. -/
def tileSizes (r : BitVec 256) : Bool :=
  match tileLayout r with
  | 0 => tileLines r % 32 == 0 && tileK r % 64 == 0
  | 1 => tileRows r == 32 && tileCols r == 32
  | _ => tileRows r != 0 && tileCols r % fmtGroup (tileFmt r) == 0

/-- Bytes of a row of a LINEAR tile. -/
def linearRow (r : BitVec 256) : Nat := if fmtQ4 (tileFmt r) then tileCols r / 2 else tileCols r

/-- Static check 5: the pitch. -/
def tilePitches (r : BitVec 256) : Bool :=
  match tileLayout r with
  | 0 => tilePitch r % 16 == 0 && decide (16 * (tileP r + 1) ≤ tilePitch r)
  | 1 => tilePitch r == 8
  | _ => tileStride r % 16 == 0 && decide (linearRow r ≤ tileStride r)

/-- The static checks of TLR.SET, in order (R191). -/
def tileBad (r : BitVec 256) : Option (Nat × Nat) :=
  if tileReserved r || !tileFormats r || !tileDeclared r then some (cIllegalOperand, 0x0B)
  else if !tileSizes r then some (cAlign, 4)
  else if !tilePitches r then some (cAlign, 5)
  else none

/-- ILLEGAL_OPERAND 0x0B of a gang. -/
def tileFault : LaneOut := .fault ⟨cIllegalOperand, 0x0B, 0⟩

/-- TLR.SET (R191). -/
def opTlrSet (a : Src) (b : Src) (_ : Hints) : Op :=
  { form := { srcs := [.uni a .u, .block b 8], uniform := true, priv := noHandler }
    body := oncePer fun s e l =>
      let n := (e.val l 0).toNat
      let r := e.image 1
      if 64 ≤ n then (s, tileFault)
      else match tileBad r with
        | some (c, k) => (s, .fault ⟨c, k, 0⟩)
        | none => (s.setTile e.g.crew e.gk n r, .done {}) }
/-- The meaning of TLR.SET. -/
def execTlrSet (a : Src) (b : Src) (s : State) : Host.Outcome State Fault Refusal := run (.tlrSet a b) (opTlrSet a b) s

/-- TLR.INV (R191). -/
def opTlrInv (a : Src) (_ : Hints) : Op :=
  { form := { srcs := [.uni a .u], uniform := true, priv := noHandler }
    body := oncePer fun s e l =>
      let x := e.val l 0
      if x = 0xFFFFFFFF#32 then (s.dropTiles e.g.crew none, .done {})
      else if 64 ≤ x.toNat then (s, tileFault)
      else (s.dropTiles e.g.crew (some x.toNat), .done {}) }
/-- The meaning of TLR.INV. -/
def execTlrInv (a : Src) (s : State) : Host.Outcome State Fault Refusal := run (.tlrInv a) (opTlrInv a) s

/-- TLR.RD (R191). -/
def opTlrRd (nw : Bool) (d : Nat) (a : Src) (b : Src) (_ : Hints) : Op :=
  { form := { srcs := [.uni a .u, .uni b .u], dst := .v d, nw := nw, bad3 := nw && d != 0, uniform := true, priv := noHandler }
    body := oncePer fun s e l =>
      let n := (e.val l 0).toNat
      let w := (e.val l 1).toNat
      if 64 ≤ n ∨ 8 ≤ w then (s, tileFault)
      else
        let r := s.useTile e.g.crew e.gk n
        let x := if w = 7 then (if r.2.valid then 1 else 0) else if r.2.valid then fld r.2.img (32 * w) 32 else 0
       (r.1, .done { ws := [word x] }) }
/-- The meaning of TLR.RD. -/
def execTlrRd (nw : Bool) (d : Nat) (a : Src) (b : Src) (s : State) : Host.Outcome State Fault Refusal := run (.tlrRd nw d a b) (opTlrRd nw d a b) s

/-! ## FENCEX (R158) -/

/-- The access paths of a command, as bits of a FENCEX mask (R158, R227), its tile records apart. -/
def cmdPaths (x : BitVec 256) : Nat :=
  match engineOf (cmdOp x) with
  | some 0 => 2 + (if cmdOp x = 4 then 8 else 0) + (if cmdSend x then 32 else 0)
  | some 1 => 4
  | some 2 => 32
  | some _ => 16
  | none => 0

/-- Path TL, where the device still reads tile records for an entry. -/
def tilePath (x : BitVec 256) : Nat := if engineOf (cmdOp x) = some 0 ∧ (cmdTrec x ≠ 0xFFFF ∨ cmdOp x = 4) then 64 else 0

/-- The paths on which an accepted command still has accesses to perform. -/
def Cmd.openPaths (m : Cmd) : Nat :=
  (if !m.finished then cmdPaths m.img else if m.isHeld then cmdPaths m.img &&& 8 else 0) ||| (if m.changed then tilePath m.img else 0)

/-- The paths of the entries of a ring that are not accepted yet. -/
def State.waitingPaths (s : State) (c : Crew) : Nat :=
  (List.range (min (s.ringFill c) 64)).foldl (fun m i =>
    let sq := (c.taken.toNat + i) % 2 ^ 32
    let x := s.ringEntry c sq
    m ||| cmdPaths x ||| (if c.xq.any fun q => q.sq == sq && q.img == x then 0 else tilePath x)) 0

/-- The union of an operand's low bytes over the active lanes. -/
def Env.maskOf8 (e : Env) (i : Nat) : Nat := e.lanes.foldl (fun m l => m ||| (e.val l i).toNat % 256) 0

/-- Plane-array operations of a gang that are not written. -/
def State.gangArrays (s : State) (gk : Nat) (g : Gang) : Bool :=
  let a := s.arrayOf g
  (a.exec.toList ++ a.queued.toList).any fun o => o.gkey == gk

/-- Segments that the crew asked for on the gang's core are still being copied; for a handler gang, any of its context there. -/
def State.copiesOpen (s : State) (g : Gang) : Bool :=
  match (if g.hslot.isSome then none else s.crewOf g) with
  | none => (s.core g.core).segs.any fun x => x.ctx == g.ctx && (x.st == .fetching || x.shadow)
  | some c => (s.core g.core).segs.any fun x => x.ctx == g.ctx && c.fetched.contains (g.core, x.seg) && (x.st == .fetching || x.shadow)

/-- Every access of the before paths has been performed at a scope. -/
def fencexReady (scope : Nat) (s : State) (e : Env) : Bool :=
  let before := e.maskOf8 0
  let ring := match (if e.g.hslot.isSome then none else s.crewOf e.g) with
    | none => 0
    | some c => s.waitingPaths c ||| (s.cmdsOf e.g.crew).foldl (fun m k => m ||| k.openPaths) 0
  before == 0 || e.maskOf8 1 == 0 || (
    (!before.testBit 0 || s.performedAt e.gk e.lanes scope) && before &&& ring == 0
      && (!before.testBit 3 || !s.gangArrays e.gk e.g) && (!before.testBit 7 || !s.copiesOpen e.g))

/-- FENCEX (R158). -/
def opFencex (a : Src) (b : Src) (h : Hints) : Op :=
  { form := { srcs := [.src a .u, .src b .u], ext := mScope, sync := true }
    ready := fencexReady (h.scopeOr 1)
    body := fun s e =>
      let s := if (e.maskOf8 0).testBit 6 && e.maskOf8 1 != 0 then s.mergeTiles e.gk else s
      if (e.maskOf8 0).testBit 0 && e.maskOf8 1 != 0 then release (fun _ _ => 0) (fun s _ _ => (s, .done {})) s e
      else (s, e.lanes.map fun l => (l, .done {})) }
/-- The meaning of FENCEX. -/
def execFencex (a : Src) (b : Src) (s : State) : Host.Outcome State Fault Refusal := run (.fencex a b) (opFencex a b) s

/-! ## Pod identity (R200) -/

/-- The value of PODID. -/
def Pod.ident (p : Pod) : Word :=
  match p.own with
  | none => 0xFFFF#32
  | some n => word (p.portModule.length % 256 * 2 ^ 24 + (p.entries.length + 1) % 256 * 2 ^ 16 + n % 65536)

/-- PODID (R200). -/
def opPodid (nw : Bool) (d : Nat) (_ : Hints) : Op :=
  { form := { dst := .v d, nw := nw, bad3 := nw && d != 0 }
    body := fun s e => (s, e.lanes.map fun l => (l, .done { ws := [s.pod.ident] })) }
/-- The meaning of PODID. -/
def execPodid (nw : Bool) (d : Nat) (s : State) : Host.Outcome State Fault Refusal := run (.podid nw d) (opPodid nw d) s

/-- PODMAP (R200). -/
def opPodmap (nw : Bool) (d : Nat) (a : Src) (_ : Hints) : Op :=
  { form := { srcs := [.src a .u], dst := .v d, nw := nw, bad3 := nw && d != 0 }
    body := fun s e => (s, e.lanes.map fun l => (l, .done { ws := [(s.pod.entry (bitsAt (e.val l 0).toNat 0 8)).word] })) }
/-- The meaning of PODMAP. -/
def execPodmap (nw : Bool) (d : Nat) (a : Src) (s : State) : Host.Outcome State Fault Refusal := run (.podmap nw d a) (opPodmap nw d a) s

end Sys2Proof.Machine
end

