-- ==== Sys2Proof/Machine/NetEngine.lean ====
section
/-! DEFINITION. The network engine (R373 to R377): messages as packets, acknowledgment and retransmission, matching and placement at the receiver. -/

namespace Sys2Proof.Machine

/-! ## The sender (R374, R375, R377) -/

/-- The send queue entry that a message names. -/
def State.sendQueue (s : State) (c : Crew) (m : Cmd) : DWord := (s.ctx c.ctx).sendQs.at_ 0 (netSq m.img)

/-- The network endpoint that a message names. -/
def State.netEndpoint (s : State) (c : Crew) (m : Cmd) : NetEp := (s.ctx c.ctx).netEps.at_ ⟨false, 0, 0, 0⟩ (netEp m.img)

/-- Bytes of a packet of a send queue (R374). -/
def mtuOf (q : DWord) : Nat := 1024 * 2 ^ bitsAt q.toNat 16 2
/-- The Ethernet port of a send queue (R373, R374). -/
def etherPort (q : DWord) : Nat := bitsAt q.toNat 4 3 % Config.ethernetPorts
/-- Unreliable datagram mode. -/
def isUud (q : DWord) : Bool := q.toNat.testBit 18

/-- Bytes of a message. -/
def Cmd.msgLen (m : Cmd) : Nat := if engineOf (cmdOp m.img) = some 0 then cmdBytes m.img else netLen m.img

/-- Packets of a message. -/
def packetsOf (q : DWord) (m : Cmd) : Nat := (m.msgLen + mtuOf q - 1) / mtuOf q

/-- What refuses a message before its first packet: ENGINE 0x21 for a send queue or endpoint that is not open, 0x04 for its length. -/
def State.refuseMsg (s : State) (c : Crew) (m : Cmd) : Option Nat :=
  let q := s.sendQueue c m
  if !q.toNat.testBit 0 || !(s.netEndpoint c m).isOpen then some 0x21
  else if m.msgLen = 0 ∨ 2 ^ 24 < m.msgLen ∨ (isUud q ∧ mtuOf q < m.msgLen) then some 4
  else none

/-- A message starts: its packets stand ready to be sent. One that was frozen, and whose packets have all been acknowledged since, completes. -/
def State.startMsg (s : State) (crew sq : Nat) : State :=
  match s.crew? crew, s.cmd? crew sq with
  | some c, some m =>
    if m.st != .active || m.finished then s
    else if !m.pkts.isEmpty then if m.pkts.all (·.acked) then s.finishCmd crew sq else s
    else match s.refuseMsg c m with
      | some n => s.freezeCmd crew sq cEngine n 0
      | none => s.mapCmd crew sq fun m => { m with pkts := (List.range (packetsOf (s.sendQueue c m) m)).map fun k => ⟨k, 0, false, 0⟩ }
  | _, _ => s

/-- The source bytes of a message from an offset on. -/
def State.msgBytes (s : State) (c : Crew) (m : Cmd) (off n : Nat) : State × Except Stop (List Byte) :=
  if engineOf (cmdOp m.img) = some 0 ∧ cmdLined m.img then
    let lb := cmdLineBytes m.img
    s.readPieces c (m.who c) (cmdSv m.img) anyPage
      ((List.range (cmdLines m.img)).flatMap fun i =>
        let lo := max off (i * lb)
        let hi := min (off + n) ((i + 1) * lb)
        if lo < hi then chunks ((cmdSrc m.img).toNat + i * cmdPitch m.img + (lo - i * lb)) (hi - lo) else [])
  else s.readRange c (m.who c) (cmdSv m.img) anyPage ((cmdSrc m.img).toNat + off) n

/-- The number of a message in its sender's delivery context. -/
def msgNumber (crew sq : Nat) : Nat := crew * 2 ^ 32 + sq

/-- The send queue of a message, as the package numbers it. -/
def State.queueKey (s : State) (m : Cmd) : Nat := ((s.crew? m.crew).map fun c => 64 * c.ctx + netSq m.img).getD 0

/-- A packet of a message leaves. -/
def State.sendPacket (s : State) (crew sq k : Nat) : State :=
  match s.crew? crew, s.cmd? crew sq with
  | some c, some m =>
    let q := s.sendQueue c m
    let off := k * mtuOf q
    match s.msgBytes c m off (min (mtuOf q) (m.msgLen - off)) with
    | (t, .error e) => t.stopPart crew sq e
    | (t, .ok b) =>
      let ep := t.netEndpoint c m
      let p : Packet := ⟨ep.job, ep.pid, msgNumber crew sq, netMsgid m.img, m.msgLen, off, cmdOp m.img == 0x21, if cmdOp m.img = 0x21 then netRoff m.img else 0, b⟩
      let t := { t with net := { t.net with sent := t.net.sent ++ [(etherPort q, p)] } }.mapCmd crew sq fun m => { m with pkts := m.pkts.map fun (x : PktState) =>
        if x.num == k then { x with sends := x.sends + 1, turn := s.net.sent.length + 1, acked := x.acked || isUud q } else x }
      match t.cmd? crew sq with
      | some m => if m.pkts.all (·.acked) then t.finishCmd crew sq else t
      | none => t
  | _, _ => s

/-- A packet may leave for the first time: the packets before it have left. -/
def Cmd.nextPacket (m : Cmd) (k : Nat) : Bool :=
  m.st == .active && !m.finished && m.pkts.any (fun p => p.num == k && p.sends == 0 && !p.acked)
    && m.pkts.all fun p => decide (k ≤ p.num) || p.acked || p.sends != 0

/-- A packet whose loss acknowledgments show: at least three packets of the send queue, sent after it, are acknowledged (R377). -/
def State.showsLoss (s : State) (m : Cmd) (p : PktState) : Bool :=
  !p.acked && p.sends != 0 && decide (3 ≤ (s.net.covered.filter fun q => q.1 == s.queueKey m && decide (p.turn < q.2)).length)

/-- A packet that still lacks its acknowledgment is sent again, or after 16 retransmissions the command freezes (R377). -/
def State.resendPacket (s : State) (crew sq k : Nat) : State :=
  match s.cmd? crew sq with
  | none => s
  | some m =>
    match m.pkts.find? fun p => p.num == k && !p.acked && p.sends != 0 with
    | none => s
    | some p =>
      if m.st != .active || m.finished then s
      else if 16 < p.sends then
        (s.mapCmd crew sq fun m => { m with pkts := m.pkts.map fun (p : PktState) => if p.acked then p else { p with sends := 0 } }).freezeCmd crew sq cEngine 0x21 0
      else s.sendPacket crew sq k

/-- Packets of the messages of a send queue whose loss shows are sent again. -/
def State.resendLost (s : State) (key : Nat) : State :=
  (s.cmds.filter fun m => m.isMessage && m.st == .active && !m.finished && s.queueKey m == key).foldl (fun (s : State) m =>
    (m.pkts.filter (s.showsLoss m)).foldl (fun s p => s.resendPacket m.crew m.sq p.num) s) s

/-- Packets of a message that an acknowledgment covers are noted, and the message completes once all are. -/
def State.notePackets (s : State) (m : Cmd) (ks : List Nat) : State :=
  let new := m.pkts.filter fun p => ks.contains p.num && p.turn != 0 && !p.acked
  let covered := s.net.covered ++ new.map fun (p : PktState) => (s.queueKey m, p.turn)
  let t : State := { s with net := { s.net with covered := covered } }
  let t := t.mapCmd m.crew m.sq fun m =>
    { m with pkts := m.pkts.map fun (p : PktState) => if ks.contains p.num && p.turn != 0 then { p with acked := true } else p }
  match t.cmd? m.crew m.sq with
  | some m => if m.st == .active && m.pkts.all (·.acked) then t.finishCmd m.crew m.sq else t
  | none => t

/-- A selective acknowledgment: packets that have been sent are acknowledged, those of a frozen command too; packets of the queue whose loss shows are sent again. -/
def State.ackPackets (s : State) (crew sq : Nat) (ks : List Nat) : State :=
  match s.cmd? crew sq with
  | none => s
  | some m => if m.finished || m.pkts.isEmpty then s else (s.notePackets m ks).resendLost (s.queueKey m)

/-! ## The receiver (R374, R376) -/

/-- The context of a job and process. -/
def State.jobCtx (s : State) (job pid : Nat) : Option Nat := (List.find? (fun (p : Nat × Context) => p.2.job == job && p.2.pid == pid) s.ctxs).map (·.1)

/-- The slot that a message matches (R376). -/
def Context.matchSlot (c : Context) (id : Word) : Option Nat :=
  (List.find? (fun (p : Nat × RecvSlot) => p.2.valid && (id &&& p.2.mask) == p.2.tag) c.recvs).map (·.1)

/-- A core of a context's tenancy, through which the network engine's accesses for it are translated. -/
def State.ctxCore (s : State) (ctx : Nat) : Nat :=
  let dies := (s.ten (s.ctx ctx).tenancy).dies
  40 * (((List.range 4).find? fun d => dies.testBit d).getD 0)

/-- The places of the pieces of a packet, translated at user level before any is written: none while a page is in transit, an error where one fails. -/
def State.locatePieces (s : State) (w : Who) : List (Nat × List Byte) → State × Option (Except Unit (List (Nat × DWord × List Byte)))
  | [] => (s, some (.ok []))
  | (va, b) :: rest =>
    match s.engineLoc w va b.length .write anyPage with
    | (s, .error .wait) => (s, none)
    | (s, .error _) => (s, some (.error ()))
    | (s, .ok (pa, leaf)) =>
      match s.locatePieces w rest with
      | (s, some (.ok l)) => (s, some (.ok ((pa, leaf, b) :: l)))
      | r => r

/-- A piece of a packet written, past the vault caches (R260, R265), at tier 2 as a relay request (R360). -/
def State.placePiece (s : State) (w : Who) (pa : Nat) (leaf : DWord) (b : List Byte) : State :=
  (s.putPiece w pa leaf b).askRelay w.core pa 1 b b.length w.asks

/-- CWORD grows by 1, and by 2^32 where bytes were discarded, by an atomic that a module performs itself (R347); a failure of its translation is counted. -/
def State.countMsg (s : State) (w : Who) (va : DWord) (cut : Bool) : Option State :=
  match s.engineLoc w va.toNat 8 .atomic anyPage with
  | (_, .error .wait) => none
  | (s, .error _) => some (s.mapCtx w.ctx fun c => { c with placeFaults := c.placeFaults + 1 })
  | (s, .ok (pa, leaf)) =>
    let add := 1 + if cut then 2 ^ 32 else 0
    some ((s.putPiece w pa leaf (bytesOf 8 ((s.word64 pa + add) % 2 ^ 64))).askAtomic (s.die (dieOf w.core)).world pa 0 8 (dword add) 0 true 0 w.asks)

/-- A message received replaced. -/
def State.setRx (s : State) (r : RxMsg) : State :=
  { s with net := { s.net with rx := r :: s.net.rx.filter fun x => !(x.job == r.job && x.pid == r.pid && x.msg == r.msg) } }

/-- A packet placed in its slot's buffer; none while a page of it is in transit. -/
def State.placePacket (s : State) (p : Packet) (r : RxMsg) (slot : RecvSlot) : Option State :=
  let w : Who := ⟨s.ctxCore r.ctx, r.ctx, 0, none, .nobody⟩
  let start := (if p.rma then p.roff else 0) + p.off
  let kept := p.bytes.take (slot.blen - start)
  let va := slot.buf.toNat + start
  match s.locatePieces w ((chunks va kept.length).map fun x => (x.1, (kept.drop (x.1 - va)).take x.2)) with
  | (_, none) => none
  | (s, some places) =>
    let bad := match places with | .ok _ => false | .error _ => true
    let s := match places with
      | .ok l => l.foldl (fun (s : State) (x : Nat × DWord × List Byte) => s.placePiece w x.1 x.2.1 x.2.2) s
      | .error _ => s.mapCtx r.ctx fun c => { c with placeFaults := c.placeFaults + 1 }
    let r := { r with
      got := if r.got.any fun g => g.1 == p.off then r.got else (p.off, p.bytes.length) :: r.got
      cut := r.cut || decide (kept.length < p.bytes.length) || bad }
    if p.len ≤ (r.got.map (·.2)).foldl (· + ·) 0 then
      (s.setRx { r with complete := true }).countMsg w slot.cword r.cut
    else some (s.setRx r)

/-- The receiver acknowledges a packet (R376, R377). -/
def State.ackPacket (s : State) (p : Packet) : State := { s with net := { s.net with acks := s.net.acks ++ [⟨p.job, p.pid, p.msg, p.off⟩] } }

/-- A message that matches no context is counted once (R374). -/
def State.countStray (s : State) (p : Packet) : State :=
  if s.net.strays.contains (p.job, p.pid, p.msg) then s
  else { s with net := { s.net with noMatch := s.net.noMatch + 1, strays := s.net.strays ++ [(p.job, p.pid, p.msg)] } }

/-- A packet arrives: it is placed or discarded, and acknowledged; nothing happens yet while a page of it is in transit. -/
def State.receivePacket (s : State) (p : Packet) : State :=
  match s.jobCtx p.job p.pid with
  | none => (s.countStray p).ackPacket p
  | some ctx =>
    match s.net.rx.find? fun x => x.job == p.job && x.pid == p.pid && x.msg == p.msg with
    | some r =>
      if r.complete then s.ackPacket p
      else match r.slot.bind fun i => (s.ctx r.ctx).recvs.find? i with
        | some slot => ((s.placePacket p r slot).map fun t => t.ackPacket p).getD s
        | none => s.ackPacket p
    | none =>
      let r : RxMsg := ⟨p.job, p.pid, p.msg, ctx, (s.ctx ctx).matchSlot p.msgid, [], false, false⟩
      match r.slot.bind fun i => (s.ctx ctx).recvs.find? i with
      | some slot => ((s.placePacket p r slot).map fun t => t.ackPacket p).getD s
      | none => ((s.setRx r).mapCtx ctx fun c => { c with noMatch := c.noMatch + 1 }).ackPacket p

end Sys2Proof.Machine
end

