-- ==== Sys2Proof/Machine/Plane.lean ====
section
/-! DEFINITION. The plane array (R80 to R86, R194 to R199): blocks, checks at issue, arithmetic, start and result of an operation, the follow-on of COPYMMA; major 0x34. -/

namespace Sys2Proof.Machine

/-! ## Blocks in vault (R80, R194) -/

/-- Bytes of a crew's vault addresses as the array reads them; zero where an address names nothing. -/
def State.arrayBytes (s : State) (c : Crew) (va n : Nat) : List Byte :=
  (chunks va n).flatMap fun p => match s.vaultRun c p.1 p.2 with
    | some pa => readBytes s.mem pa p.2
    | none => List.replicate p.2 0

/-- The 64 metadata words of a block. -/
def State.blockMeta (s : State) (c : Crew) (r : BitVec 256) (va : Nat) : List Word := wordsOf 64 (s.arrayBytes c (va + 256 * tileP r) 256)

/-- The planes of a block that the declared precision reads (R84). -/
def State.blockPlanes (s : State) (c : Crew) (r : BitVec 256) (va : Nat) : List Byte := s.arrayBytes c va (256 * tilePdecl r)

/-- u of line l and k index i, by the planes read: those that are not read count as zero (R80, R84). -/
def planeElement (r : BitVec 256) (planes : List Byte) (l i : Nat) : Int :=
  let u : Nat := (List.range (tilePdecl r)).foldl (fun n j =>
    if (planes.getD (256 * j + 8 * l + i / 8) 0).getLsbD (i % 8) then n + 2 ^ (tileP r - 1 - j) else n) 0
  if tileKind r ≠ 0 ∧ 2 ^ (tileP r - 1) ≤ u then (u : Int) - 2 ^ tileP r else u

/-! ## Metadata (R81, R82) -/

/-- A metadata word as its kind reads it: zero point, coefficient (integer and exponent), SPECIAL. -/
structure Coef where
  z : Nat
  m : Int
  e : Int
  special : Bool
  deriving DecidableEq, Repr

/-- The coefficient of a group (R82). -/
def coefOf (r : BitVec 256) (w : Word) : Coef :=
  match tileKind r with
  | 0 => match fp16.value (w.toNat % 65536) with
    | .num n m e => ⟨bitsAt w.toNat 16 8, if n then -(m : Int) else m, e, false⟩
    | _ => ⟨bitsAt w.toNat 16 8, 0, 0, true⟩
  | 1 => ⟨0, 1, (BitVec.ofNat 8 w.toNat).toInt - tileP r + 2, w.getLsbD 8⟩
  | _ => ⟨0, 1, 0, false⟩

/-- The FORMAT subcode of a metadata word (R81, R86). -/
def metaSub (r : BitVec 256) (ints : Bool) (w : Word) : Option Nat :=
  match tileKind r with
  | 0 => if metaBad (tileP r == 4) w then some 3 else if ints && w.toNat % 65536 != 0x3C00 then some 7 else none
  | 1 => none
  | _ => if w = 0 then none else some 3

/-! ## Checks at issue (R194, R195, R198) -/

/-- The record of a block operand. -/
def operandRec (x : Word) : Nat := x.toNat / 2 ^ 26
/-- The block's offset of a block operand, in 256 B units. -/
def operandOff (x : Word) : Nat := x.toNat % 2 ^ 26

/-- The offset names a block of the tile. -/
def blockNamed (r : BitVec 256) (off : Nat) : Bool := (List.range (tileBlocks r)).any fun j => 16 * tilePitch r * j == 256 * off

/-- The checks of one block: ENGINE 0x14, then 0x10. -/
def State.blockBad (s : State) (c : Crew) (r : BitVec 256) (off : Nat) : Bad :=
  let va := (tileBase r).toNat + 256 * off
  firstBad [badIf (!blockNamed r off) 0x14, badIf (!s.vaultRangeOk c va (blockSize r)) 0x10 (dword va)]

/-- Operand kinds that integer accumulation refuses (R198). -/
def pairBad (ra rb : BitVec 256) (accf : Nat) : Bad := badIf (accf == 1 && (tileKind ra == 1 || tileKind rb == 1)) 7

/-- A record fits as an operand of a role. -/
def roleBad (r : Option (BitVec 256)) (role : Nat) : Bad :=
  badIf (match r with | some x => tileLayout x != 0 || tileRole x != role | none => true) 5

/-- The checks of the accumulator tile of MMAS (R195). -/
def State.accBad (s : State) (c : Crew) (ra : BitVec 256) (rc : Option (BitVec 256)) (off : Nat) : Bad :=
  firstBad [
    badIf (match rc with | some x => tileLayout x != 1 || tileAccf x != tileAccf ra | none => true) 5,
    badIf (off != 0) 0x11,
    (match rc with
      | some x => firstBad [
          badIf ((tileBase x).toNat % 4096 != 0) 0x11 (tileBase x),
          badIf (!s.vaultRangeOk c (tileBase x).toNat 4096) 0x10 (tileBase x)]
      | none => none)]

/-- The first bad metadata word of a block. -/
def metaFault (r : BitVec 256) (ints : Bool) (ws : List Word) : Option Flt := (ws.findSome? (metaSub r ints)).map fun n => ⟨cFormat, n, 0⟩

/-- The fault of a check. -/
def badFlt (b : Bad) : Option Flt := b.map fun p => ⟨cEngine, p.1, p.2⟩

/-- An operation whose operands have been found: the A and B records with their block offsets, and the accumulator record of MMAS. -/
structure Operands where
  ra : BitVec 256
  offA : Nat
  rb : BitVec 256
  offB : Nat
  rc : Option (BitVec 256)
  deriving DecidableEq, Repr

/-- The operation that its operands give, or the fault of its metadata. -/
def State.makeOp (s : State) (c : Crew) (crew gk : Nat) (lanes : List Nat) (d : Nat) (o : Operands) (cmd : Option Nat) : Except Flt ArrayOp :=
  let ints := tileAccf o.ra == 1
  let addrA := (tileBase o.ra).toNat + 256 * o.offA
  let addrB := (tileBase o.rb).toNat + 256 * o.offB
  let ma := s.blockMeta c o.ra addrA
  let mb := s.blockMeta c o.rb addrB
  match metaFault o.ra ints ma with
  | some f => .error f
  | none =>
    match metaFault o.rb ints mb with
    | some f => .error f
    | none => .ok {
        gkey := gk, stored := o.rc.isSome, d := d, lanes := maskOf lanes, recA := o.ra, recB := o.rb, crew := crew,
        addrA := addrA, addrB := addrB, addrC := (o.rc.map fun r => (tileBase r).toNat).getD 0, metaA := ma, metaB := mb,
        planesA := [], planesB := [], acc := [], cmd := cmd, startAt := 0 }

/-- The checks of MMA in their order, and its operation. -/
def State.checkMma (s : State) (c : Crew) (e : Env) (d : Nat) (a b : Word) : State × Except Flt ArrayOp :=
  let (s, ra) := s.validTile e.g.crew e.gk (operandRec a)
  let (s, rb) := s.validTile e.g.crew e.gk (operandRec b)
  let o : Operands := ⟨ra.getD 0, operandOff a, rb.getD 0, operandOff b, none⟩
  match badFlt (firstBad [roleBad ra 0, roleBad rb 1, pairBad o.ra o.rb (tileAccf o.ra), s.blockBad c o.ra o.offA, s.blockBad c o.rb o.offB]) with
  | some f => (s, .error f)
  | none => (s, s.makeOp c e.g.crew e.gk e.lanes d o none)

/-- The checks of MMAS on its records, in their order: A and B with their blocks, C, the pairing (R195). -/
def State.checkStored (s : State) (c : Crew) (ra rb rc : Option (BitVec 256)) (offA offB offC : Nat) : Option Flt :=
  let a := ra.getD 0
  let b := rb.getD 0
  badFlt (firstBad [roleBad ra 0, roleBad rb 1, s.blockBad c a offA, s.blockBad c b offB, s.accBad c a rc offC, pairBad a b (tileAccf a)])

/-- MMAS with its operands checked. -/
def State.checkMmas (s : State) (c : Crew) (e : Env) (a b x : Word) : State × Except Flt ArrayOp :=
  let (s, ra) := s.validTile e.g.crew e.gk (operandRec a)
  let (s, rb) := s.validTile e.g.crew e.gk (operandRec b)
  let (s, rc) := s.validTile e.g.crew e.gk (operandRec x)
  match s.checkStored c ra rb rc (operandOff a) (operandOff b) (operandOff x) with
  | some f => (s, .error f)
  | none => (s, s.makeOp c e.g.crew e.gk e.lanes 0 ⟨ra.getD 0, operandOff a, rb.getD 0, operandOff b, rc⟩ none)

/-! ## The array of a sub-core (R197) -/

/-- The plane array of a sub-core. -/
def State.arrayAt (s : State) (core sub : Nat) : Array_ := (s.core core).arrays.at_ ⟨none, none⟩ sub

/-- The plane array of a sub-core replaced. -/
def State.setArray (s : State) (core sub : Nat) (a : Array_) : State :=
  s.mapCore core fun c => { c with arrays := c.arrays.set ⟨none, none⟩ sub a }

/-- An operation takes the queued place. -/
def State.queueOp (s : State) (core sub : Nat) (o : ArrayOp) : State := s.setArray core sub { s.arrayAt core sub with queued := some o }

/-- MMA and MMAS issue while the queued place is free. -/
def arrayReady (s : State) (e : Env) : Bool := (s.arrayAt e.g.core e.g.subCore).queued.isNone

/-- The registers that an MMA adds to and writes (R194). -/
def mmaRegs (d : Nat) : List Nat := (List.range 32).map fun i => d + i

/-- An operation issued, or its fault. -/
def arrayIssue (r : State × Except Flt ArrayOp) (e : Env) (d : Done) : State × LaneOut :=
  match r.2 with
  | .error f => (r.1, .fault f)
  | .ok o => (r.1.queueOp e.g.core e.g.subCore o, .done d)

/-- The L-pending bits of the registers that an MMA writes. -/
def pendMma (d : Nat) (t : Thread) : Thread := t.setPending (mmaRegs d)

/-- MMA (R194). -/
def opMma (d : Nat) (a : Src) (b : Src) (_ : Hints) : Op :=
  { form := {
      lCls := true, rbCls := true, srcs := [.uni a .u, .uni b .u], dst := .v d, width := 32, uniform := true, priv := noHandler
      illegal := if d % 32 = 0 then none else some 0x0C, reads := if d % 32 = 0 then mmaRegs d else [] }
    ready := arrayReady
    body := oncePer fun s e l =>
      match s.crewOf e.g with
      | none => (s, .fault ⟨cPriv, 1, 0⟩)
      | some c => arrayIssue (s.checkMma c e d (e.val l 0) (e.val l 1)) e { set := pendMma d } }
/-- The meaning of MMA. -/
def execMma (d : Nat) (a : Src) (b : Src) (s : State) : Host.Outcome State Fault Refusal := run (.mma d a b) (opMma d a b) s

/-- MMAS (R195). -/
def opMmas (a : Src) (b : Src) (h : Hints) : Op :=
  { form := {
      rbCls := true, srcs := [.uni a .u, .uni b .u, .uni h.src3 .u], uniform := true, priv := noHandler, ext := mSrc3, entry := some .invalid }
    ready := arrayReady
    body := oncePer fun s e l =>
      match s.crewOf e.g with
      | none => (s, .fault ⟨cPriv, 1, 0⟩)
      | some c => arrayIssue (s.checkMmas c e (e.val l 0) (e.val l 1) (e.val l 2)) e {} }
/-- The meaning of MMAS. -/
def execMmas (a : Src) (b : Src) (s : State) : Host.Outcome State Fault Refusal := run (.mmas a b) (opMmas a b) s

/-! ## Arithmetic (R83 to R86) -/

/-- Σ over one 32-k group of (ua − za)·(ub − zb). -/
def groupSum (o : ArrayOp) (ca cb : Coef) (m n g : Nat) : Int :=
  (List.range 32).foldl (fun s i =>
    s + (planeElement o.recA o.planesA m (32 * g + i) - ca.z) * (planeElement o.recB o.planesB n (32 * g + i) - cb.z)) 0

/-- One output element: its word and the flags it raises. -/
def mmaElement (o : ArrayOp) (d : Word) (m n : Nat) : Word × Nat :=
  let ca := fun g => coefOf o.recA (o.metaA.getD (2 * m + g) 0)
  let cb := fun g => coefOf o.recB (o.metaB.getD (2 * n + g) 0)
  let s := fun g => groupSum o (ca g) (cb g) m n g
  if tileAccf o.recA = 1 then
    let t : Int := d.toInt + s 0 + s 1
    let r := clampInt t (-(2 ^ 31)) (2 ^ 31 - 1)
    (BitVec.ofInt 32 r, if r = t then 0 else 32)
  else if (ca 0).special || (cb 0).special || (ca 1).special || (cb 1).special then (word fp32.nanBits, flagNV)
  else
    match fp32.value d.toNat with
    | .nan _ => (word fp32.nanBits, flagNV)
    | .inf _ => (d, 0)
    | .num neg mm e =>
      let term := fun g => (ca g).m * (cb g).m * s g * 2 ^ ((ca g).e + (cb g).e + 320).toNat
      let r := fp32.roundInt .rne false (alignTo neg mm e (-320) + term 0 + term 1) (-320)
      (word r.bits, r.flags)

/-- The 1,024 output elements, row by row, from the accumulator elements. -/
def mmaAll (o : ArrayOp) (acc : List Word) : List (Word × Nat) :=
  (List.range 1024).map fun i => mmaElement o (acc.getD i 0) (i / 32) (i % 32)

/-! ## The steps of the array -/

/-- The accumulator tile as a list of elements, row by row. -/
def State.tileWords (s : State) (c : Crew) (va : Nat) : List Word := wordsOf 1024 (s.arrayBytes c va 4096)

/-- The queued operation starts once nothing executes: its planes are read, and the registers or the tile that it adds to (R194, R195). A write of these bytes that is ordered before no start is not seen after it (DESIGN CHOICE, log entry 53). -/
def State.startArray (s : State) (core sub : Nat) : State :=
  let a := s.arrayAt core sub
  match a.exec, a.queued with
  | none, some o =>
    match s.crew? o.crew with
    | none => s.setArray core sub ⟨none, none⟩
    | some c =>
      let s := if o.stored then s else s.bringLines o.gkey (mmaRegs o.d)
      let acc := match s.gang? o.gkey with
        | some g => if o.stored then s.tileWords c o.addrC else (List.range 1024).map fun i => g.readV (i % 32) (o.d + i / 32)
        | none => if o.stored then s.tileWords c o.addrC else []
      let o := { o with planesA := s.blockPlanes c o.recA o.addrA, planesB := s.blockPlanes c o.recB o.addrB, acc := acc, startAt := s.clock }
      s.setArray core sub ⟨some o, none⟩
  | _, _ => s

/-- The result of MMA written: the columns of its active lanes, with their flags. -/
def Gang.takeMma (g : Gang) (o : ArrayOp) (out : List (Word × Nat)) : Gang :=
  (lanesOf o.lanes).foldl (fun g l =>
    let col := (List.range 32).map fun m => out.getD (32 * m + l) (0, 0)
    let g := (List.range 32).foldl (fun (g : Gang) m => g.writeV l (o.d + m) (col.getD m (0, 0)).1) g
    g.setTh l ((g.th l).raise_ (col.foldl (fun f p => f ||| p.2) 0))) g

/-- The flags of MMAS, raised in every lane. -/
def Gang.takeFlags (g : Gang) (out : List (Word × Nat)) : Gang :=
  (List.range 32).foldl (fun g l => g.setTh l ((g.th l).raise_ ((List.range 32).foldl (fun f m => f ||| (out.getD (32 * m + l) (0, 0)).2) 0))) g

/-- The accumulator tile written. -/
def State.putTile (s : State) (c : Crew) (va : Nat) (ws : List Word) : State :=
  let bytes := ws.flatMap fun w => bytesOf 4 w.toNat
  (chunks va 4096).foldl (fun (s : State) p => match s.vaultRun c p.1 p.2 with
    | some pa => s.putBytes pa ((bytes.drop (p.1 - va)).take p.2)
    | none => s) s

/-- A follow-on has written its tile: its command is done (R179). -/
def State.followed (s : State) (crew sq : Nat) : State :=
  (s.mapCmd crew sq fun m => { m with st := .active, followed := true, counted := m.counted || cmdDh m.named == 0xFF }).forgetDone crew sq

/-- The executing operation writes its result. -/
def State.finishArray (s : State) (core sub : Nat) : State :=
  let a := s.arrayAt core sub
  match a.exec with
  | none => s
  | some o =>
    let s := s.setArray core sub { a with exec := none }
    if !o.stored then (s.bringLines o.gkey (mmaRegs o.d)).mapGang o.gkey fun g => g.takeMma o (mmaAll o o.acc)
    else
      match s.crew? o.crew with
      | none => s
      | some c =>
        let out := mmaAll o o.acc
        let s := (s.putTile c o.addrC (out.map (·.1))).mapGang o.gkey fun g => g.takeFlags out
        match o.cmd with
        | some sq => s.followed o.crew sq
        | none => s

/-- The follow-on of a COPYMMA whose copy has landed: an MMAS of its records on the array of its publisher's sub-core, or the freeze of the command (R179, R199). -/
def State.followOn (s : State) (crew sq : Nat) : State :=
  match s.crew? crew, s.cmd? crew sq with
  | some c, some m =>
    let core := m.sub / 12
    let sub := m.sub % 12
    if cmdOp m.img != 4 || !m.finished || m.followed || m.st != .active || (s.arrayAt core sub).queued.isSome then s
    else
      match s.checkStored c (some m.trec) (some m.brec) (some m.crec) 0 0 0 with
      | some f => s.freezeCmd crew sq f.cls f.sub f.va
      | none =>
        match s.makeOp c crew m.gkey [] 0 ⟨m.trec, 0, m.brec, 0, some m.crec⟩ (some sq) with
        | .error f => s.freezeCmd crew sq f.cls f.sub f.va
        | .ok o => (s.queueOp core sub o).mapCmd crew sq fun m => { m with st := .following }
  | _, _ => s

end Sys2Proof.Machine
end

