-- ==== Sys2Proof/Machine/EngineSteps.lean ====
section
/-! DEFINITION. The steps of the engines, the handles, the plane array and the network (R171 to R199, R363 to R377). -/

namespace Sys2Proof.Machine

/-! ## Commands by their engine -/

/-- How a command that is no network message is performed. -/
def engineFor (m : Cmd) : Engine :=
  match engineOf (cmdOp m.img) with
  | some 0 => copyEngine m
  | some 1 => gatherEngine m
  | _ => collectEngine m

/-- READSUM and READROUND hold their source until they have completed, and so do messages (R183). -/
def Cmd.holdsSource (m : Cmd) : Bool := m.isMessage || cmdOp m.img == 0x31 || cmdOp m.img == 0x32

/-- A copy command goes on: its data, or its message. -/
def State.goCopy (s : State) (op crew sq : Nat) : State :=
  match s.cmd? crew sq with
  | some m => if cmdOp m.img = op ∧ m.isMessage then s.startMsg crew sq else s.runCopy op crew sq
  | none => s

/-- A network command starts. -/
def State.goNet (s : State) (op crew sq : Nat) : State :=
  match s.cmd? crew sq with
  | some m => if cmdOp m.img = op then s.startMsg crew sq else s
  | none => s

/-- One sub-transfer of a command. -/
def State.goPart (s : State) (crew sq n : Nat) : State :=
  match s.cmd? crew sq with
  | some m => if m.isMessage then s else (engineFor m).part s crew sq n
  | none => s

/-- The source of a command is released. -/
def State.goRelease (s : State) (crew sq : Nat) : State :=
  match s.cmd? crew sq with
  | some m => if m.holdsSource then (if m.finished then s.releaseSource crew sq else s) else (engineFor m).release s crew sq
  | none => s

/-- PUB_STORE (R172). PUB of a ring has been stored: the device notes it, and a ring that holds more than 64 entries is broken. -/
def execPubStore (crew : Nat) (s : State) : Host.Outcome State Fault Refusal :=
  .next (s.notePub crew none)

/-- RING_ACCEPT (R171). The next published entry of a ring is accepted as a command, and TAKEN is stored. -/
def execRingAccept (crew : Nat) (s : State) : Host.Outcome State Fault Refusal :=
  .next ((s.notePub crew none).acceptEntry crew)

/-- COPY (R175). What is left of the command is performed. -/
def execCopy (crew sq : Nat) (s : State) : Host.Outcome State Fault Refusal :=
  .next (s.goCopy 1 crew sq)

/-- COPY2D (R175). What is left of the command is performed. -/
def execCopy2d (crew sq : Nat) (s : State) : Host.Outcome State Fault Refusal :=
  .next (s.goCopy 2 crew sq)

/-- FILLMC (R175). What is left of the command is performed. -/
def execFillmc (crew sq : Nat) (s : State) : Host.Outcome State Fault Refusal :=
  .next (s.goCopy 3 crew sq)

/-- COPYMMA (R175). What is left of the command is performed. -/
def execCopymma (crew sq : Nat) (s : State) : Host.Outcome State Fault Refusal :=
  .next (s.goCopy 4 crew sq)

/-- FILL (R175). What is left of the command is performed. -/
def execFill (crew sq : Nat) (s : State) : Host.Outcome State Fault Refusal :=
  .next (s.goCopy 7 crew sq)

/-- COPYMMA_FOLLOW_ON (R179). A completed COPYMMA goes on to its matrix operation. -/
def execCopymmaFollowOn (crew sq : Nat) (s : State) : Host.Outcome State Fault Refusal :=
  .next (s.followOn crew sq)

/-- GATHER (R182). What is left of the command is performed. -/
def execGather (crew sq : Nat) (s : State) : Host.Outcome State Fault Refusal :=
  .next (s.runGather 0x10 crew sq)

/-- SCATTER (R182). What is left of the command is performed. -/
def execScatter (crew sq : Nat) (s : State) : Host.Outcome State Fault Refusal :=
  .next (s.runGather 0x11 crew sq)

/-- SCATTERADD (R182). What is left of the command is performed. -/
def execScatteradd (crew sq : Nat) (s : State) : Host.Outcome State Fault Refusal :=
  .next (s.runGather 0x12 crew sq)

/-- SEND (R375). The message is checked and its packets stand ready. -/
def execSend (crew sq : Nat) (s : State) : Host.Outcome State Fault Refusal :=
  .next (s.goNet 0x20 crew sq)

/-- RMAW (R375). The message is checked and its packets stand ready. -/
def execRmaw (crew sq : Nat) (s : State) : Host.Outcome State Fault Refusal :=
  .next (s.goNet 0x21 crew sq)

/-- CONTRIB (R363). What is left of the command is performed. -/
def execContrib (crew sq : Nat) (s : State) : Host.Outcome State Fault Refusal :=
  .next (s.runCollect 0x30 crew sq)

/-- READSUM (R364). What is left of the command is performed. -/
def execReadsum (crew sq : Nat) (s : State) : Host.Outcome State Fault Refusal :=
  .next (s.runCollect 0x31 crew sq)

/-- READROUND (R364). What is left of the command is performed. -/
def execReadround (crew sq : Nat) (s : State) : Host.Outcome State Fault Refusal :=
  .next (s.runCollect 0x32 crew sq)

/-- RELAY (R366). What is left of the command is performed. -/
def execRelay (crew sq : Nat) (s : State) : Host.Outcome State Fault Refusal :=
  .next (s.runCollect 0x33 crew sq)

/-- SUBTRANSFER_COMPLETE (R180). One part of a command is performed and counted; the last one completes the command. -/
def execSubtransferComplete (crew sq n : Nat) (s : State) : Host.Outcome State Fault Refusal :=
  .next (s.goPart crew sq n)

/-- HANDLE_DEST_COMPLETE (R185, R186). A completed command is counted in its destination handle. -/
def execHandleDestComplete (crew sq : Nat) (s : State) : Host.Outcome State Fault Refusal :=
  .next (s.countDest crew sq)

/-- HANDLE_SOURCE_RELEASE (R185, R186). A command releases its source handle. -/
def execHandleSourceRelease (crew sq : Nat) (s : State) : Host.Outcome State Fault Refusal :=
  .next (s.goRelease crew sq)

/-- TILE_RECORD_EVICT (R193). A tile record leaves the record cache for the crew record. -/
def execTileRecordEvict (crew rec : Nat) (s : State) : Host.Outcome State Fault Refusal :=
  .next (s.evictTile crew rec)

/-- ARRAY_OPERATION_START (R194, R197). The queued operation of a plane array starts, and reads its planes and accumulators. -/
def execArrayOperationStart (core sub : Nat) (s : State) : Host.Outcome State Fault Refusal :=
  .next (s.startArray core sub)

/-- ARRAY_RESULT_WRITE (R196, R197). The operation that a plane array executes writes its result. -/
def execArrayResultWrite (core sub : Nat) (s : State) : Host.Outcome State Fault Refusal :=
  .next (s.finishArray core sub)

/-- NET_PACKET_TRANSMIT (R375). The next packet of a message leaves. -/
def execNetPacketTransmit (crew sq k : Nat) (s : State) : Host.Outcome State Fault Refusal :=
  .next (match s.cmd? crew sq with
    | some m => if m.nextPacket k then s.sendPacket crew sq k else s
    | none => s)

/-- NET_PACKET_RECEIVE (R376). A packet arrives: it is matched, placed and counted. -/
def execNetPacketReceive (p : Packet) (s : State) : Host.Outcome State Fault Refusal :=
  .next (s.receivePacket p)

/-- NET_ACK_RECEIVE (R377). Packets of a message are acknowledged. -/
def execNetAckReceive (crew sq : Nat) (ks : List Nat) (s : State) : Host.Outcome State Fault Refusal :=
  .next (s.ackPackets crew sq ks)

/-- NET_RTO_EXPIRE (R377). The timeout of an unacknowledged packet has passed: it leaves again, or its command freezes. -/
def execNetRtoExpire (crew sq k : Nat) (s : State) : Host.Outcome State Fault Refusal :=
  .next (s.resendPacket crew sq k)

end Sys2Proof.Machine
end

