-- ==== Sys2Proof/Machine/Residency.lean ====
section
/-! DEFINITION. Residency of contexts on cores (R28, R143, R193, R306 to R308, R328 to R334): pre-emption, resumption, context switch, and what wakes a context. -/

namespace Sys2Proof.Machine

/-! ## Pre-emption (R307, R308) -/

/-- The gangs of a context on some cores in a residency state. -/
def State.gangsAt (s : State) (ctx : Nat) (cores : List Nat) (r : Resid) : List (Nat × Gang) :=
  s.gangs.filter fun p => p.2.ctx == ctx && cores.contains p.2.core && p.2.resid == r

/-- PREEMPT (R307, R308). A context is pre-empted on a core, with the whole of its crews and COHAB groups: its threads return to REP, its lines become EVICTABLE. -/
def execPreempt (ctx core : Nat) (s : State) : Host.Outcome State Fault Refusal :=
  .next (s.preemptWhere ctx fun g => g.resid == .running && (s.moveSet ctx core).contains g.core)

/-! ## Resumption (R307, R328) -/

/-- A core can take the gangs of a context back: resident slots, handler slots and a context slot. -/
def State.canReturn (s : State) (ctx core : Nat) : Bool :=
  let n := (s.gangs.filter fun p => p.2.ctx == ctx && p.2.core == core && p.2.hslot.isNone && p.2.resid != .running).length
  let h := (s.gangs.filter fun p => p.2.ctx == ctx && p.2.core == core && p.2.hslot.isSome && p.2.resid != .running).length
  decide ((s.residents core).length + s.reservedSlots core + n ≤ Config.gangSlots) && decide ((s.core core).hslots.length + h ≤ Config.handlerSlots)
    && ((s.contextsOn core).contains ctx || decide ((s.contextsOn core).length < 8))

/-- A thread of a gang that becomes resident: last-page register and L-pending bits clear. -/
def Thread.returned (t : Thread) : Thread := { t with lastPage := none, lpv := 0, lpp := 0, lpk := 0 }

/-- The slot into which a gang returns: its place among the gang slots, and the handler slot of a handler thread. -/
def State.slotFor (s : State) (g : Gang) : Option (Nat × Option Nat) :=
  if g.hslot.isSome then ((List.range Config.handlerSlots).find? fun k => ((s.core g.core).hslots.find? k).isNone).map fun k => (g.slot, some k)
  else (s.pickSlot g.core).map fun n => (n, none)

/-- A gang becomes resident again: a handler thread in a free handler slot with its record number unchanged (R328). Lines that lie in the register cache of another sub-core go to the backing. -/
def State.returnGang (s : State) (gk : Nat) : State :=
  let s := match s.gang? gk with
    | some g => if g.resid = Resid.switched then s.loadControl gk else s
    | none => s
  match s.gang? gk with
  | none => s
  | some g =>
    match s.slotFor g with
    | none => s
    | some (n, h) =>
      let to_ := match h with | some k => k % 12 | none => n / 24
      let s := if to_ = g.subCore then s else (allLines.filter g.holdsLine).foldl (fun (s : State) x => s.evictLine g.core (gk, x)) s
      let s := (s.takeBases g.core g.ctx).mapGang gk fun g =>
        { g with slot := n, hslot := h, resid := .running, marked := [], threads := g.threads.map Thread.returned }
      let s := match h with
        | some k => s.mapCore g.core fun c => { c with hslots := c.hslots.put k gk }
        | none => s
      s.mapGang gk Gang.settle

/-- A context that may be made resident (R323, R338). -/
def State.mayReturn (s : State) (ctx : Nat) : Bool := !(s.ctx ctx).stopped && !(s.ctx ctx).resetting

/-- A context returns to a core, with the whole of its crews and COHAB groups. -/
def State.returnCtx (s : State) (ctx core : Nat) : State :=
  let ks := s.moveSet ctx core
  let gs := s.gangsAt ctx ks .preempted ++ s.gangsAt ctx ks .switched
  if gs.isEmpty || !s.mayReturn ctx || !ks.all (s.canReturn ctx) then s
  else (gs.map (·.1)).foldl State.returnGang (s.loadEps ctx)

/-- PREEMPT_RESUME (R307, R308, R328, R143). A pre-empted context is resumed on its core. -/
def execPreemptResume (ctx core : Nat) (s : State) : Host.Outcome State Fault Refusal :=
  .next (if (s.gangsAt ctx [core] .preempted).isEmpty then s else s.returnCtx ctx core)

/-- SWITCHED_RESUME (R307, R30, R253, R328). A switched-out context is resumed; its register lines are fetched on demand. -/
def execSwitchedResume (ctx core : Nat) (s : State) : Host.Outcome State Fault Refusal :=
  .next (if (s.gangsAt ctx [core] .switched).isEmpty then s else s.returnCtx ctx core)

/-! ## Context switch (R28, R193, R307, R331, R334) -/

/-- A handle image (R193). -/
def Handle.bytes (h : Handle) : List Byte :=
  bytesOf 4 (h.st.code + h.sub % 256 * 256) ++ bytesOf 4 h.counter.toNat ++ bytesOf 4 h.dpend ++ bytesOf 4 h.spend

/-- The images of a crew's bound handles written to its crew record. -/
def State.storeHandles (s : State) (crew : Nat) (c : Crew) : State :=
  s.writeImage c.ctx (s.crewRecVa c + 0x840) ((List.range 64).flatMap fun h =>
    let x := s.handle c.homeCore h
    if x.owner = some crew then x.bytes else List.replicate 16 0)

/-- What a switch writes for a crew: its cached tile records and its handle images. -/
def State.storeCrew (s : State) (p : Nat × Crew) : State :=
  let s := ((s.gangsOf p.1).map (·.1)).foldl State.mergeTiles s
  match s.crew? p.1 with
  | none => s
  | some c =>
    let s := (c.tiles.filter fun t => t.2.cached).foldl (fun (s : State) t => s.evictTile p.1 t.1) s
    let c := (s.crew? p.1).getD c
    (s.writeImage c.ctx (s.crewRecVa c + 0x800) (bytesOf 8 (s.tileMask c))).storeHandles p.1 c

/-- An operation of a gang is executing or queued in a plane array (R199). -/
def State.inArray (s : State) (gk : Nat) : Bool :=
  s.cores.any fun k => k.2.arrays.any fun a => [a.2.exec, a.2.queued].any fun o => match o with | some o => o.gkey == gk | none => false

/-- The frozen-set table written at the present base (R311). -/
def State.storeSets (s : State) (ctx : Nat) : State :=
  let c := s.ctx ctx
  c.sets.foldl (fun (s : State) p => s.writeImage ctx (c.setEntry p.1) p.2.rec_.bytes) s

/-- A context has left a core's context slot: the slot's bases are dropped, written bases take effect for the context (R28), and once it holds no slot at all its endpoints lie in its image (R331). -/
def State.unbindCtx (s : State) (ctx core : Nat) : State :=
  let c := s.ctx ctx
  let s := (s.mapCore core fun k => { k with bases := k.bases.drop ctx }).mapCtx ctx fun c => { c with regBase := c.regNext, codeBase := c.codeNext }
  let s := if c.regNext = c.regBase then s else s.storeSets ctx
  s.leaveSlots ctx

/-- A pre-empted context leaves its context slot on a core. -/
def State.switchOut (s : State) (ctx core : Nat) : State :=
  let gs := s.gangs.filter fun p => p.2.ctx == ctx && p.2.core == core
  if gs.isEmpty || gs.any fun p => p.2.resid != .preempted || s.inArray p.1 || !p.2.queries.isEmpty || p.2.threads.any fun t => t.run == .blocked then s
  else
    let s := (s.crews.filter fun p => p.2.ctx == ctx && p.2.homeCore == core).foldl State.storeCrew s
    let s := (gs.map (·.1)).foldl State.flushGang s
    let s := gs.foldl (fun (s : State) p => s.mapGang p.1 fun g => { g with resid := .switched }) s
    s.unbindCtx ctx core

/-- CONTEXT_SWITCH_OUT (R307, R254, R193, R199, R28, R331, R334). A pre-empted context's dirty lines and control state are written to its image, and its context slot is free. -/
def execContextSwitchOut (ctx core : Nat) (s : State) : Host.Outcome State Fault Refusal :=
  .next (s.switchOut ctx core)

/-! ## Wake (R306, R329, R334) -/

/-- Some endpoint has a bound gang and a pending, unmasked vector. -/
def State.hasVector (s : State) (ctx : Nat) : Bool :=
  (List.range 4).any fun e =>
    let x := s.endpoint ctx e
    x.bound.isSome && x.pending.any fun p => !x.mask.toNat.testBit p.num

/-- A stage of a context is eligible on some die. -/
def State.hasStage (s : State) (ctx : Nat) : Bool :=
  (List.range Config.dies).any fun d => (s.works d).any fun w => w.l.ctx == ctx

end Sys2Proof.Machine
end

