-- ==== Sys2Proof/Machine/Handlers.lean ====
section
/-! DEFINITION. Fault delivery (R315 to R324, R329): owners, handler threads, owner queues, stopped contexts; arriving interrupt sends (R332). -/

namespace Sys2Proof.Machine

/-! ## Owners (R315 to R317, R319, R324) -/

/-- The owner of a record: 0 NONE, 1 CTX, 2 WORLD, 3 HOST, 4 MGMT. -/
def State.ownerOf (s : State) (ctx : Nat) (r : Rec) : Nat := (s.claimOf ctx (s.claimEntry ctx r)).owner

/-- The record comes from a core: a stop notice and a report do not. -/
def Rec.fromCore (r : Rec) : Bool := r.eng || r.lanes != 0

/-- The agent that owns a record: the context itself, the kernel of its world, the host, system management. -/
def State.ownerId (s : State) (ctx : Nat) (r : Rec) : Nat × Nat :=
  match s.ownerOf ctx r with
  | 1 => (1, ctx)
  | 2 => (2, s.ctxWorld ctx)
  | o => (o, 0)

/-- An earlier record from the same core with the same owner still waits, in whichever context's queue (R251, R319). -/
def State.waitsBehind (s : State) (ctx : Nat) (r : Rec) : Bool :=
  r.fromCore && s.ctxs.any fun p => (p.2.queue ++ p.2.heldRecs).any fun q =>
    q.fromCore && decide (q.ord < r.ord) && q.core == r.core && s.ownerId p.1 q == s.ownerId ctx r

/-- The frozen set of a context to which a record belongs, with its index. -/
def Context.setOf (c : Context) (sq : Nat) : Option (Nat × FSet) := List.find? (fun (p : Nat × FSet) => p.2.rec_.seq == sq) c.sets

/-- The frozen command to which a record belongs. -/
def State.cmdOf (s : State) (ctx sq : Nat) : Option Cmd :=
  s.cmds.find? fun m => m.st == .frozen && (match m.rec_ with | some r => r.seq == sq | none => false)
    && (match s.crew? m.crew with | some c => c.ctx == ctx | none => false)

/-- The record's object has an index, or needs none (R311, R312); a report of no frozen object, with CAP 0, has nothing to wait for (R172, R281). -/
def State.hasIndex (s : State) (ctx : Nat) (r : Rec) : Bool :=
  if r.lanes == 0 && r.cap == 0 then true
  else if r.eng then (s.cmdOf ctx r.seq).isSome else ((s.ctx ctx).setOf r.seq).isSome

/-- The context is resident on a core. -/
def State.residentOn (s : State) (ctx core : Nat) : Bool :=
  (s.contextsOn core).contains ctx && s.runsHere ctx core && s.mayReturn ctx

/-- The numbers of the handler slots of a core whose handler record a context's descheduled handler keeps (R328). Log entry 100. -/
def State.keptRecords (s : State) (ctx core : Nat) : List Nat :=
  s.gangs.filterMap fun p => if p.2.hslot.isSome && p.2.ctx == ctx && p.2.grec / Config.handlerSlots == core then some (p.2.grec % Config.handlerSlots) else none

/-- A handler slot of a core is free for a new handler of a context. -/
def State.hslotFree (s : State) (ctx core slot : Nat) : Bool :=
  ((s.core core).hslots.find? slot).isNone && !(s.keptRecords ctx core).contains slot

/-- The lowest handler slot of a core that is free for a context (R320). -/
def State.freeHslot (s : State) (ctx core : Nat) : Option Nat :=
  (List.range Config.handlerSlots).find? (s.hslotFree ctx core)

/-- The conditions of R318 for a handler thread, but for residency. -/
def State.canHandle (s : State) (ctx : Nat) (r : Rec) : Bool :=
  s.hasIndex ctx r && (s.freeHslot ctx r.core).isSome && !s.waitsBehind ctx r

/-- The segment of an entry PC is RESIDENT on a core. -/
def State.segReady (s : State) (core ctx : Nat) (pc : Word) : Bool :=
  match s.seg? core ctx (segOf pc.toNat) with
  | some x => x.st == .resident
  | none => false

/-- The owner queue of a claim entry; its descriptor is found through the tables of the record's context. -/
def State.ownerQueue (s : State) (ctx : Nat) (c : Claim) : Option Queue :=
  match s.queueAt ctx c.oq with
  | some q => if q.isz = 64 then some q else none
  | none => none

/-- A record could leave the queue now. -/
def State.deliverable (s : State) (ctx : Nat) (r : Rec) : Bool :=
  !s.waitsBehind ctx r &&
  match s.ownerOf ctx r with
  | 1 =>
    match s.handlerEntry ctx r.cls with
    | some pc => s.canHandle ctx r && s.residentOn ctx r.core && s.segReady r.core ctx pc
    | none => false
  | 2 => (match s.ownerQueue ctx (s.claimOf ctx (s.claimEntry ctx r)) with | some q => s.qHasRoom q.pa q.cap | none => false)
  | 3 => (match s.ownerQueue ctx (s.claimOf ctx (s.claimEntry ctx r)) with | some q => s.qHasRoom q.pa q.cap | none => false)
  | 4 => true
  | _ => false

/-- No earlier record of the queue could leave before a record (R319). -/
def State.firstInTurn (s : State) (ctx : Nat) (r : Rec) : Bool :=
  (s.ctx ctx).queue.all fun q => !(decide (q.seq < r.seq) && s.deliverable ctx q)

/-- A queued record by its SEQ. -/
def Context.queued (c : Context) (sq : Nat) : Option Rec := c.queue.find? fun r => r.seq == sq

/-- The object of a record moves to a state, with its handler gang. -/
def State.objectState (s : State) (ctx sq : Nat) (st : FState) (handler : Option Nat) : State :=
  let s := s.mapCtx ctx fun c => { c with
    sets := c.sets.map fun p => if p.2.rec_.seq = sq then (p.1, { p.2 with st := st, handler := handler }) else p
    unindexed := c.unindexed.map fun f => if f.rec_.seq = sq then { f with st := st, handler := handler } else f }
  match s.cmdOf ctx sq with
  | some m => s.mapCmd m.crew m.sq fun m => { m with fst_ := st, handler := handler }
  | none => s

/-- A record leaves the queue. -/
def State.leaveQueue (s : State) (ctx sq : Nat) : State :=
  s.setQueue ctx ((s.ctx ctx).queue.filter fun r => r.seq != sq)

/-! ## Handler threads (R320 to R322) -/

/-- The gang of a handler thread as it starts (R321). -/
def handlerGang (ctx core slot : Nat) (pc : Word) (r : Rec) (clock : Nat) : Gang :=
  let k : Tbl Word := ((List.range 16).map fun i => (i, r.word i)).filter fun p => p.2 != 0
  let t := Thread.start pc 0
  let g := Gang.make 0 0 ctx 1 (t :: List.replicate 31 t.toExited) [] k
  { g with grec := core * Config.handlerSlots + slot, core := core, hslot := some slot, readyAt := clock }

/-- A record becomes nested: in the queue and with its object (R320). -/
def State.makeNested (s : State) (ctx : Nat) (r : Rec) : State :=
  s.updateRec ctx { r with nested := true }

/-- The segment of a handler's entry PC is not RESIDENT: it is fetched for the record, and the record whose own fetch has ended FAULTED becomes a nested one (R320). -/
def State.fetchEntry (s : State) (ctx : Nat) (r : Rec) (seg : Nat) : State :=
  let noted := fun (s : State) =>
    match s.seg? r.core ctx seg with
    | some x => if x.st = .fetching then s.updateRec ctx { r with fetch := some x.order } else s
    | none => s
  match s.seg? r.core ctx seg with
  | some x =>
    match x.st with
    | .fetching => if r.fetch = some x.order then s else noted s
    | .faulted => if r.fetch = some x.order then s.makeNested ctx r else noted (s.requestSeg r.core ctx seg 1 false)
    | _ => noted (s.requestSeg r.core ctx seg 1 false)
  | none => noted (s.requestSeg r.core ctx seg 1 false)

/-- The state of a segment on a core. -/
def State.segState (s : State) (core ctx seg : Nat) : Option SegState := (s.seg? core ctx seg).map fun x => x.st

/-- A handler thread for a record of the queue, in a free slot of its core. -/
def State.spawnHandler (s : State) (ctx sq slot : Nat) : State :=
  match (s.ctx ctx).queued sq with
  | none => s
  | some r =>
    match s.handlerEntry ctx r.cls with
    | none => s
    | some pc =>
      if s.ownerOf ctx r ≠ 1 || !s.canHandle ctx r || !s.residentOn ctx r.core || Config.handlerSlots ≤ slot || !s.hslotFree ctx r.core slot then s
      else
        let seg := segOf pc.toNat
        match s.segState r.core ctx seg with
        | some .resident =>
          if !s.firstInTurn ctx r then s
          else
            let k := s.newKey
            let s := (k.2.leaveQueue ctx sq).objectState ctx sq .handled (some k.1)
            let s := s.takeBases r.core ctx
            let s := { s with gangs := s.gangs.put k.1 (handlerGang ctx r.core slot pc r s.clock) }
            (s.mapCore r.core fun c => { c with hslots := c.hslots.put slot k.1 }).trimLines r.core (slot % 12) none
        | _ => s.fetchEntry ctx r seg

/-- HANDLER_SPAWN (R317 to R321). A queued record owned by CTX starts a handler thread once its conditions hold; the segment of the entry PC is fetched first, and a fetch that faults makes the record a nested one. -/
def execHandlerSpawn (ctx sq slot : Nat) (s : State) : Host.Outcome State Fault Refusal :=
  .next (s.spawnHandler ctx sq slot)

/-- A handler slot is freed once its thread has exited and its accesses are performed; a frozen thread keeps it. -/
def State.freeHandler (s : State) (core k : Nat) : State :=
  match (s.core core).hslots.find? k with
  | none => s
  | some gk =>
    match s.gang? gk with
    | none => s.mapCore core fun c => { c with hslots := c.hslots.drop k }
    | some g =>
      if !g.live.isEmpty || g.pending.any fun d => !lostDest d then s
      else ((s.unattend gk).unbind g.ctx g.bindNum).dropHandler gk

/-- HANDLER_SLOT_FREE (R322, R324). A handler slot is freed. -/
def execHandlerSlotFree (core k : Nat) (s : State) : Host.Outcome State Fault Refusal :=
  .next (s.freeHandler core k)

/-! ## Delivery to an owner (R315, R318, R319, R323, R324) -/

/-- The record as an owner receives it: one that reaches the escalation owner is a nested record. -/
def State.asDelivered (s : State) (ctx : Nat) (r : Rec) : Rec :=
  { r with nested := r.nested || (s.claimEntry ctx r == 16 && r.cls != 0xFF) }

/-- A record pushed to a WORLD or HOST owner, with the signal. -/
def State.pushRecord (s : State) (ctx : Nat) (r : Rec) (c : Claim) : State :=
  match s.ownerQueue ctx c with
  | none => s
  | some q =>
    match s.pushWhole ctx none q (s.asDelivered ctx r).bytes with
    | none => s
    | some t =>
      ((t.leaveQueue ctx r.seq).objectState ctx r.seq .owned none).sendUli 0 ctx c.oep (word (c.ovec % 64 * 2 ^ 26 + r.seq % 2 ^ 26))

/-- A queued record goes to its owner. -/
def State.deliver (s : State) (ctx sq : Nat) : State :=
  match (s.ctx ctx).queued sq with
  | none => s
  | some r =>
    let entry := s.claimEntry ctx r
    let c := s.claimOf ctx entry
    if c.owner = 0 then s
    else if !s.deliverable ctx r || !s.firstInTurn ctx r then s
    else if c.owner = 2 ∨ c.owner = 3 then s.pushRecord ctx r c
    else if c.owner = 4 then
      ((s.mapTrust fun t => { t with mailbox := t.mailbox ++ [s.asDelivered ctx r] }).leaveQueue ctx sq).objectState ctx sq .owned none
    else s

/-- RECORD_DELIVER_OWNER (R315, R316, R318, R319, R324). A record is pushed to its WORLD, HOST or MGMT owner, and the owner is signalled; without an owner it waits, and HELD is 1. -/
def execRecordDeliverOwner (ctx sq : Nat) (s : State) : Host.Outcome State Fault Refusal :=
  .next (s.deliver ctx sq)

/-- The record that its source has held longest enters the queue when there is room (R323). -/
def State.queueHeld (s : State) (ctx : Nat) : State :=
  let c := s.ctx ctx
  match c.heldRecs with
  | [] => s
  | r :: rest =>
    if Config.faultQueue ≤ waitingRecs c.queue then s
    else (s.mapCtx ctx fun c => { c with heldRecs := rest }).setQueue ctx (c.queue ++ [r])

/-- HELD_RECORD_QUEUE (R318, R323). A record held by its source is queued. -/
def execHeldRecordQueue (ctx : Nat) (s : State) : Host.Outcome State Fault Refusal :=
  .next (s.queueHeld ctx)

/-- The escalation owner of a context is a master. -/
def State.isEscalation (s : State) (who : Owner) (ctx : Nat) : Bool :=
  match (s.claimOf ctx 16).owner, who with
  | 2, .thread => true
  | 3, .host => true
  | 4, .garnet => true
  | _, _ => false

/-- The cores on which a context has gangs that are not running. -/
def State.idleCores (s : State) (ctx : Nat) : List Nat :=
  distinct ((s.gangs.filter fun p => p.2.ctx == ctx && p.2.resid == .preempted).map fun p => p.2.core)

/-- RUN written for a stopped context. -/
def State.runContext (s : State) (who : Owner) (ctx : Nat) : State :=
  if !s.isEscalation who ctx then s.violate
  else if !(s.ctx ctx).stopped ∨ Config.faultQueue ≤ waitingRecs (s.ctx ctx).queue then s
  else
    let s := s.mapCtx ctx fun c => { c with stopped := false }
    (s.idleCores ctx).foldl (fun (s : State) k => s.returnCtx ctx k) s

/-- CONTEXT_RUN_CONTROL (R323). The escalation owner writes the RUN control of a stopped context: it runs again once fewer than 4,096 records wait. -/
def execContextRunControl (who : Owner) (ctx : Nat) (s : State) : Host.Outcome State Fault Refusal :=
  .next (s.runContext who ctx)

/-- A record of the queue could be handled but for residency (R329). -/
def State.hasWork (s : State) (ctx core : Nat) : Bool :=
  (s.ctx ctx).queue.any fun r => r.core == core && s.ownerOf ctx r == 1 && (s.handlerEntry ctx r.cls).isSome && s.canHandle ctx r

/-- CONTEXT_WAKE (R306, R329, R334, R338). A descheduled context with a deliverable interrupt, an eligible stage or a record to handle becomes resident. -/
def execContextWake (ctx core : Nat) (s : State) : Host.Outcome State Fault Refusal :=
  .next (if s.hasVector ctx || s.hasStage ctx || s.hasWork ctx core then s.returnCtx ctx core else s)

/-! ## Sends on their way (R216, R332) -/

/-- Two sends of one sender to one endpoint. -/
def Send.sameRoute (a b : Send) : Bool := a.pkg == b.pkg && a.sender == b.sender && a.agent == b.agent && a.ctx == b.ctx && a.ep == b.ep

/-- Send number `n` of those on their way arrives; sends of one sender to one endpoint arrive in order (R251). -/
def State.sendArrives (s : State) (n : Nat) : State :=
  match s.sends[n]? with
  | none => s
  | some x => if (s.sends.take n).any x.sameRoute then s else { s with sends := s.sends.eraseIdx n }.arrive x

/-- A refusal notice reaches the sender's context. -/
def State.refusalArrives (s : State) (ctx : Nat) : State :=
  if s.refusals.contains ctx then { s with refusals := s.refusals.erase ctx }.countDrop ctx else s

/-- ULI_SEND_ARRIVAL (R251, R330 to R334). A send is checked against the permission table and pended, coalesced or refused. -/
def execUliSendArrival (n : Nat) (s : State) : Host.Outcome State Fault Refusal :=
  .next (s.sendArrives n)

/-- REFUSAL_NOTICE (R216, R332). A refusal notice adds one to the sender's drop count. -/
def execRefusalNotice (ctx : Nat) (s : State) : Host.Outcome State Fault Refusal :=
  .next (s.refusalArrives ctx)

end Sys2Proof.Machine
end

