-- ==== Sys2Proof/Machine/FloatArith.lean ====
section
/-! DEFINITION. FP32 arithmetic, packed formats, conversions, quantization (R107 to R118): majors 0x10 to 0x19. -/

namespace Sys2Proof.Machine

/-! ## Shapes -/

/-- An instruction whose result is one vector register with flags, computed from its own lane's words (R26). -/
def fpu (nw : Bool) (d : Nat) (srcs : List Opnd) (ext : Nat) (f : Env → Nat → FRes) : Op where
  form := { srcs := srcs, dst := .v d, nw := nw, bad3 := nw && d != 0, ext := ext }
  body := perLane fun e l => fpOut (e.g.th l) (word (f e l).bits) (f e l).flags

/-- One source. -/
def fpu1 (nw : Bool) (d : Nat) (a : Opnd) (ext : Nat) (f : Nat → FRes) : Op := fpu nw d [a] ext fun e l => f (e.val l 0).toNat
/-- Two sources. -/
def fpu2 (nw : Bool) (d : Nat) (a b : Opnd) (ext : Nat) (f : Nat → Nat → FRes) : Op :=
  fpu nw d [a, b] ext fun e l => f (e.val l 0).toNat (e.val l 1).toNat
/-- Three sources. -/
def fpu3 (nw : Bool) (d : Nat) (a b c : Opnd) (ext : Nat) (f : Nat → Nat → Nat → FRes) : Op :=
  fpu nw d [a, b, c] ext fun e l => f (e.val l 0).toNat (e.val l 1).toNat (e.val l 2).toNat

/-- Two 16-bit results in one register, their flags combined (R113, R115). -/
def packed (lo hi : FRes) : FRes := ⟨lo.bits % 65536 + 65536 * (hi.bits % 65536), lo.flags ||| hi.flags⟩
/-- Element 0 and element 1 of a packed register (R67). -/
def half0 (x : Nat) : Nat := x % 65536
def half1 (x : Nat) : Nat := x / 65536 % 65536
/-- An element operation on both halves. -/
def packed2 (f : Nat → Nat → FRes) (x y : Nat) : FRes := packed (f (half0 x) (half0 y)) (f (half1 x) (half1 y))
def packed3 (f : Nat → Nat → Nat → FRes) (x y z : Nat) : FRes :=
  packed (f (half0 x) (half0 y) (half0 z)) (f (half1 x) (half1 y) (half1 z))
/-- The mode of the bound hints. -/
def Hints.rnd (h : Hints) : Rnd := rndMode h.x

/-! ## FP32 -/

/-- FADD (R107). -/
def opFadd (nw : Bool) (d : Nat) (a : Src) (b : Src) (h : Hints) : Op :=
  fpu2 nw d (.src a .f) (.src b .f) mRnd (fp32.add h.rnd)
/-- The meaning of FADD. -/
def execFadd (nw : Bool) (d : Nat) (a : Src) (b : Src) (s : State) : Host.Outcome State Fault Refusal := run (.fadd nw d a b) (opFadd nw d a b) s

/-- FSUB (R107). -/
def opFsub (nw : Bool) (d : Nat) (a : Src) (b : Src) (h : Hints) : Op :=
  fpu2 nw d (.src a .f) (.src b .f) mRnd (fp32.sub h.rnd)
/-- The meaning of FSUB. -/
def execFsub (nw : Bool) (d : Nat) (a : Src) (b : Src) (s : State) : Host.Outcome State Fault Refusal := run (.fsub nw d a b) (opFsub nw d a b) s

/-- FMUL (R107). -/
def opFmul (nw : Bool) (d : Nat) (a : Src) (b : Src) (h : Hints) : Op :=
  fpu2 nw d (.src a .f) (.src b .f) mRnd (fp32.mul h.rnd)
/-- The meaning of FMUL. -/
def execFmul (nw : Bool) (d : Nat) (a : Src) (b : Src) (s : State) : Host.Outcome State Fault Refusal := run (.fmul nw d a b) (opFmul nw d a b) s

/-- FMA (R107). -/
def opFma (nw : Bool) (d : Nat) (a : Src) (b : Src) (h : Hints) : Op :=
  fpu3 nw d (.src a .f) (.src b .f) (accOpnd h d .f) (mRnd + mSrc3) (fp32.fma h.rnd)
/-- The meaning of FMA. -/
def execFma (nw : Bool) (d : Nat) (a : Src) (b : Src) (s : State) : Host.Outcome State Fault Refusal := run (.fma nw d a b) (opFma nw d a b) s

/-- FMIN (R108). -/
def opFmin (nw : Bool) (d : Nat) (a : Src) (b : Src) (_ : Hints) : Op :=
  fpu2 nw d (.src a .f) (.src b .f) 0 (fp32.extreme false)
/-- The meaning of FMIN. -/
def execFmin (nw : Bool) (d : Nat) (a : Src) (b : Src) (s : State) : Host.Outcome State Fault Refusal := run (.fmin nw d a b) (opFmin nw d a b) s

/-- FMAX (R108). -/
def opFmax (nw : Bool) (d : Nat) (a : Src) (b : Src) (_ : Hints) : Op :=
  fpu2 nw d (.src a .f) (.src b .f) 0 (fp32.extreme true)
/-- The meaning of FMAX. -/
def execFmax (nw : Bool) (d : Nat) (a : Src) (b : Src) (s : State) : Host.Outcome State Fault Refusal := run (.fmax nw d a b) (opFmax nw d a b) s

/-- FABS (R108). -/
def opFabs (nw : Bool) (d : Nat) (a : Src) (_ : Hints) : Op :=
  fpu1 nw d (.src a .f) 0 fun x => ⟨x % 2 ^ 31, 0⟩
/-- The meaning of FABS. -/
def execFabs (nw : Bool) (d : Nat) (a : Src) (s : State) : Host.Outcome State Fault Refusal := run (.fabs nw d a) (opFabs nw d a) s

/-- FNEG (R108). -/
def opFneg (nw : Bool) (d : Nat) (a : Src) (_ : Hints) : Op :=
  fpu1 nw d (.src a .f) 0 fun x => ⟨Nat.xor x (2 ^ 31), 0⟩
/-- The meaning of FNEG. -/
def execFneg (nw : Bool) (d : Nat) (a : Src) (s : State) : Host.Outcome State Fault Refusal := run (.fneg nw d a) (opFneg nw d a) s

/-- FSEQ (R109). -/
def opFseq (nw : Bool) (d : Nat) (a : Src) (b : Src) (_ : Hints) : Op :=
  fpu2 nw d (.src a .f) (.src b .f) 0 fun x y => compareRes false (fp32.value x) (fp32.value y) ((fp32.value x).same (fp32.value y))
/-- The meaning of FSEQ. -/
def execFseq (nw : Bool) (d : Nat) (a : Src) (b : Src) (s : State) : Host.Outcome State Fault Refusal := run (.fseq nw d a b) (opFseq nw d a b) s

/-- FSLT (R109). -/
def opFslt (nw : Bool) (d : Nat) (a : Src) (b : Src) (_ : Hints) : Op :=
  fpu2 nw d (.src a .f) (.src b .f) 0 fun x y => compareRes true (fp32.value x) (fp32.value y) ((fp32.value x).less (fp32.value y))
/-- The meaning of FSLT. -/
def execFslt (nw : Bool) (d : Nat) (a : Src) (b : Src) (s : State) : Host.Outcome State Fault Refusal := run (.fslt nw d a b) (opFslt nw d a b) s

/-- FSLE (R109). -/
def opFsle (nw : Bool) (d : Nat) (a : Src) (b : Src) (_ : Hints) : Op :=
  fpu2 nw d (.src a .f) (.src b .f) 0 fun x y => compareRes true (fp32.value x) (fp32.value y) ((fp32.value x).less (fp32.value y) || (fp32.value x).same (fp32.value y))
/-- The meaning of FSLE. -/
def execFsle (nw : Bool) (d : Nat) (a : Src) (b : Src) (s : State) : Host.Outcome State Fault Refusal := run (.fsle nw d a b) (opFsle nw d a b) s

/-- FSUN (R109). -/
def opFsun (nw : Bool) (d : Nat) (a : Src) (b : Src) (_ : Hints) : Op :=
  fpu2 nw d (.src a .f) (.src b .f) 0 fun x y => ⟨if (fp32.value x).isNaN || (fp32.value y).isNaN then 1 else 0, snanFlag [fp32.value x, fp32.value y]⟩
/-- The meaning of FSUN. -/
def execFsun (nw : Bool) (d : Nat) (a : Src) (b : Src) (s : State) : Host.Outcome State Fault Refusal := run (.fsun nw d a b) (opFsun nw d a b) s

/-- RCP (R110). -/
def opRcp (nw : Bool) (d : Nat) (a : Src) (h : Hints) : Op :=
  fpu1 nw d (.src a .f) mRnd (fp32.recip h.rnd)
/-- The meaning of RCP. -/
def execRcp (nw : Bool) (d : Nat) (a : Src) (s : State) : Host.Outcome State Fault Refusal := run (.rcp nw d a) (opRcp nw d a) s

/-- RSQ (R111). -/
def opRsq (nw : Bool) (d : Nat) (a : Src) (_ : Hints) : Op :=
  fpu1 nw d (.src a .f) 0 fun x => rsqRes (word x)
/-- The meaning of RSQ. -/
def execRsq (nw : Bool) (d : Nat) (a : Src) (s : State) : Host.Outcome State Fault Refusal := run (.rsq nw d a) (opRsq nw d a) s

/-- SQRT (R110). -/
def opSqrt (nw : Bool) (d : Nat) (a : Src) (h : Hints) : Op :=
  fpu1 nw d (.src a .f) mRnd (fp32.sqrt h.rnd)
/-- The meaning of SQRT. -/
def execSqrt (nw : Bool) (d : Nat) (a : Src) (s : State) : Host.Outcome State Fault Refusal := run (.sqrt nw d a) (opSqrt nw d a) s

/-- EX2 (R111). -/
def opEx2 (nw : Bool) (d : Nat) (a : Src) (_ : Hints) : Op :=
  fpu1 nw d (.src a .f) 0 fun x => ex2Res (word x)
/-- The meaning of EX2. -/
def execEx2 (nw : Bool) (d : Nat) (a : Src) (s : State) : Host.Outcome State Fault Refusal := run (.ex2 nw d a) (opEx2 nw d a) s

/-- LG2 (R111). -/
def opLg2 (nw : Bool) (d : Nat) (a : Src) (_ : Hints) : Op :=
  fpu1 nw d (.src a .f) 0 fun x => lg2Res (word x)
/-- The meaning of LG2. -/
def execLg2 (nw : Bool) (d : Nat) (a : Src) (s : State) : Host.Outcome State Fault Refusal := run (.lg2 nw d a) (opLg2 nw d a) s

/-- TANH (R111). -/
def opTanh (nw : Bool) (d : Nat) (a : Src) (_ : Hints) : Op :=
  fpu1 nw d (.src a .f) 0 fun x => tanhRes (word x)
/-- The meaning of TANH. -/
def execTanh (nw : Bool) (d : Nat) (a : Src) (s : State) : Host.Outcome State Fault Refusal := run (.tanh nw d a) (opTanh nw d a) s

/-- FLOOR (R112). -/
def opFloor (nw : Bool) (d : Nat) (a : Src) (_ : Hints) : Op :=
  fpu1 nw d (.src a .f) 0 (integralRes .rdn false)
/-- The meaning of FLOOR. -/
def execFloor (nw : Bool) (d : Nat) (a : Src) (s : State) : Host.Outcome State Fault Refusal := run (.floor nw d a) (opFloor nw d a) s

/-- FRINT (R112). -/
def opFrint (nw : Bool) (d : Nat) (a : Src) (h : Hints) : Op :=
  fpu1 nw d (.src a .f) mRnd (integralRes h.rnd true)
/-- The meaning of FRINT. -/
def execFrint (nw : Bool) (d : Nat) (a : Src) (s : State) : Host.Outcome State Fault Refusal := run (.frint nw d a) (opFrint nw d a) s

/-! ## Packed BF16x2 and FP16x2 -/

/-- BADD2 (R113). -/
def opBadd2 (nw : Bool) (d : Nat) (a : Src) (b : Src) (h : Hints) : Op :=
  fpu2 nw d (.src a .p) (.src b .p) mRnd (packed2 (bf16.add h.rnd))
/-- The meaning of BADD2. -/
def execBadd2 (nw : Bool) (d : Nat) (a : Src) (b : Src) (s : State) : Host.Outcome State Fault Refusal := run (.badd2 nw d a b) (opBadd2 nw d a b) s

/-- BMUL2 (R113). -/
def opBmul2 (nw : Bool) (d : Nat) (a : Src) (b : Src) (h : Hints) : Op :=
  fpu2 nw d (.src a .p) (.src b .p) mRnd (packed2 (bf16.mul h.rnd))
/-- The meaning of BMUL2. -/
def execBmul2 (nw : Bool) (d : Nat) (a : Src) (b : Src) (s : State) : Host.Outcome State Fault Refusal := run (.bmul2 nw d a b) (opBmul2 nw d a b) s

/-- BFMA2 (R113). -/
def opBfma2 (nw : Bool) (d : Nat) (a : Src) (b : Src) (h : Hints) : Op :=
  fpu3 nw d (.src a .p) (.src b .p) (accOpnd h d .p) (mRnd + mSrc3) (packed3 (bf16.fma h.rnd))
/-- The meaning of BFMA2. -/
def execBfma2 (nw : Bool) (d : Nat) (a : Src) (b : Src) (s : State) : Host.Outcome State Fault Refusal := run (.bfma2 nw d a b) (opBfma2 nw d a b) s

/-- BMAX2 (R113). -/
def opBmax2 (nw : Bool) (d : Nat) (a : Src) (b : Src) (_ : Hints) : Op :=
  fpu2 nw d (.src a .p) (.src b .p) 0 (packed2 (bf16.extreme true))
/-- The meaning of BMAX2. -/
def execBmax2 (nw : Bool) (d : Nat) (a : Src) (b : Src) (s : State) : Host.Outcome State Fault Refusal := run (.bmax2 nw d a b) (opBmax2 nw d a b) s

/-- HADD2 (R113). -/
def opHadd2 (nw : Bool) (d : Nat) (a : Src) (b : Src) (h : Hints) : Op :=
  fpu2 nw d (.src a .p) (.src b .p) mRnd (packed2 (fp16.add h.rnd))
/-- The meaning of HADD2. -/
def execHadd2 (nw : Bool) (d : Nat) (a : Src) (b : Src) (s : State) : Host.Outcome State Fault Refusal := run (.hadd2 nw d a b) (opHadd2 nw d a b) s

/-- HMUL2 (R113). -/
def opHmul2 (nw : Bool) (d : Nat) (a : Src) (b : Src) (h : Hints) : Op :=
  fpu2 nw d (.src a .p) (.src b .p) mRnd (packed2 (fp16.mul h.rnd))
/-- The meaning of HMUL2. -/
def execHmul2 (nw : Bool) (d : Nat) (a : Src) (b : Src) (s : State) : Host.Outcome State Fault Refusal := run (.hmul2 nw d a b) (opHmul2 nw d a b) s

/-- HFMA2 (R113). -/
def opHfma2 (nw : Bool) (d : Nat) (a : Src) (b : Src) (h : Hints) : Op :=
  fpu3 nw d (.src a .p) (.src b .p) (accOpnd h d .p) (mRnd + mSrc3) (packed3 (fp16.fma h.rnd))
/-- The meaning of HFMA2. -/
def execHfma2 (nw : Bool) (d : Nat) (a : Src) (b : Src) (s : State) : Host.Outcome State Fault Refusal := run (.hfma2 nw d a b) (opHfma2 nw d a b) s

/-- HMAX2 (R113). -/
def opHmax2 (nw : Bool) (d : Nat) (a : Src) (b : Src) (_ : Hints) : Op :=
  fpu2 nw d (.src a .p) (.src b .p) 0 (packed2 (fp16.extreme true))
/-- The meaning of HMAX2. -/
def execHmax2 (nw : Bool) (d : Nat) (a : Src) (b : Src) (s : State) : Host.Outcome State Fault Refusal := run (.hmax2 nw d a b) (opHmax2 nw d a b) s

/-! ## Conversions -/

/-- F2I (R114). -/
def opF2i (nw : Bool) (d : Nat) (a : Src) (h : Hints) : Op :=
  fpu1 nw d (.src a .f) (mRnd + mSat) (toIntRes 32 h.rnd (extSat h.x))
/-- The meaning of F2I. -/
def execF2i (nw : Bool) (d : Nat) (a : Src) (s : State) : Host.Outcome State Fault Refusal := run (.f2i nw d a) (opF2i nw d a) s

/-- I2F (R114). -/
def opI2f (nw : Bool) (d : Nat) (a : Src) (h : Hints) : Op :=
  fpu1 nw d (.src a .s) mRnd fun x => ofIntRes h.rnd (sgn (word x))
/-- The meaning of I2F. -/
def execI2f (nw : Bool) (d : Nat) (a : Src) (s : State) : Host.Outcome State Fault Refusal := run (.i2f nw d a) (opI2f nw d a) s

/-- F2N (R115). -/
def opF2n (nw : Bool) (d : Nat) (a : Src) (b : Src) (h : Hints) : Op :=
  fpu2 nw d (.src a .f) (.src b .f) (mRnd + mSat) fun x y => packed (toIntRes 16 h.rnd (extSat h.x) x) (toIntRes 16 h.rnd (extSat h.x) y)
/-- The meaning of F2N. -/
def execF2n (nw : Bool) (d : Nat) (a : Src) (b : Src) (s : State) : Host.Outcome State Fault Refusal := run (.f2n nw d a b) (opF2n nw d a b) s

/-- N2F (R115). An IMMW in A is zero-extended, kind u (DESIGN CHOICE, log entry 117). -/
def opN2f (nw : Bool) (d : Nat) (a : Src) (b : Src) (_ : Hints) : Op :=
  fpu2 nw d (.src a .u) (.src b .u) 0 fun x y => ofIntRes .rne (BitVec.ofNat 16 (if y % 2 = 0 then half0 x else half1 x)).toInt
/-- The meaning of N2F. -/
def execN2f (nw : Bool) (d : Nat) (a : Src) (b : Src) (s : State) : Host.Outcome State Fault Refusal := run (.n2f nw d a b) (opN2f nw d a b) s

/-- F2BF2 (R116). -/
def opF2bf2 (nw : Bool) (d : Nat) (a : Src) (b : Src) (h : Hints) : Op :=
  fpu2 nw d (.src a .f) (.src b .f) mRnd fun x y => packed (bf16.ofVal h.rnd (fp32.value x)) (bf16.ofVal h.rnd (fp32.value y))
/-- The meaning of F2BF2. -/
def execF2bf2 (nw : Bool) (d : Nat) (a : Src) (b : Src) (s : State) : Host.Outcome State Fault Refusal := run (.f2bf2 nw d a b) (opF2bf2 nw d a b) s

/-- F2H2 (R116). -/
def opF2h2 (nw : Bool) (d : Nat) (a : Src) (b : Src) (h : Hints) : Op :=
  fpu2 nw d (.src a .f) (.src b .f) mRnd fun x y => packed (fp16.ofVal h.rnd (fp32.value x)) (fp16.ofVal h.rnd (fp32.value y))
/-- The meaning of F2H2. -/
def execF2h2 (nw : Bool) (d : Nat) (a : Src) (b : Src) (s : State) : Host.Outcome State Fault Refusal := run (.f2h2 nw d a b) (opF2h2 nw d a b) s

/-- BF2F (R116). -/
def opBf2f (nw : Bool) (d : Nat) (a : Src) (b : Src) (_ : Hints) : Op :=
  fpu2 nw d (.src a .p) (.src b .u) 0 fun x y => fp32.ofVal .rne (bf16.value (if y % 2 = 0 then half0 x else half1 x))
/-- The meaning of BF2F. -/
def execBf2f (nw : Bool) (d : Nat) (a : Src) (b : Src) (s : State) : Host.Outcome State Fault Refusal := run (.bf2f nw d a b) (opBf2f nw d a b) s

/-- H2F (R116). -/
def opH2f (nw : Bool) (d : Nat) (a : Src) (b : Src) (_ : Hints) : Op :=
  fpu2 nw d (.src a .p) (.src b .u) 0 fun x y => fp32.ofVal .rne (fp16.value (if y % 2 = 0 then half0 x else half1 x))
/-- The meaning of H2F. -/
def execH2f (nw : Bool) (d : Nat) (a : Src) (b : Src) (s : State) : Host.Outcome State Fault Refusal := run (.h2f nw d a b) (opH2f nw d a b) s

/-! ## Quantize and dequantize -/

/-- The quantized group of the lanes that execute (R117): lanes, elements, group. -/
def quantLanes (b : Nat) (e : Env) : QGroup := quantize 149 b (e.lanes.map fun l => (quantInput (e.val l 0).toNat).1)

/-- The flags of one lane of a quantized group (R117). -/
def quantFlags (q : QGroup) (i : Nat) (x : Nat) : Nat :=
  flagIf (quantInput x).2 flagNV + flagIf q.limited flagOF + flagIf (!(q.exact.getD i true)) flagNX

/-- QF8 and QF4: each lane receives zero point, scale and its own element (R117). -/
def quantOp (nw : Bool) (d : Nat) (a : Src) (b : Nat) : Op where
  form := { srcs := [.src a .f], dst := .v d, nw := nw, bad3 := nw && d != 0 }
  body := fun s e =>
    let q := quantLanes b e
    (s, e.lanes.zipIdx.map fun p =>
      (p.1, fpOut (e.g.th p.1) (word (q.zero * 2 ^ 24 + q.scale * 2 ^ 8 + q.qs.getD p.2 0)) (quantFlags q p.2 (e.val p.1 0).toNat)))

/-- DQ8 and DQ4 (R118). -/
def dequantOp (nw : Bool) (d : Nat) (a b : Src) (q4 : Bool) : Op where
  form := { srcs := [.src a .u, .src b .u], dst := .v d, nw := nw, bad3 := nw && d != 0 }
  body := perLane fun e l =>
    if metaBad q4 (e.val l 1) then .fault ⟨cFormat, 2, 0⟩
    else .done { ws := [word (dequant (e.val l 1) ((e.val l 0).toNat % (if q4 then 16 else 256)))] }

/-- QF8 (R117). -/
def opQf8 (nw : Bool) (d : Nat) (a : Src) (_ : Hints) : Op :=
  quantOp nw d a 8
/-- The meaning of QF8. -/
def execQf8 (nw : Bool) (d : Nat) (a : Src) (s : State) : Host.Outcome State Fault Refusal := run (.qf8 nw d a) (opQf8 nw d a) s

/-- QF4 (R117). -/
def opQf4 (nw : Bool) (d : Nat) (a : Src) (_ : Hints) : Op :=
  quantOp nw d a 4
/-- The meaning of QF4. -/
def execQf4 (nw : Bool) (d : Nat) (a : Src) (s : State) : Host.Outcome State Fault Refusal := run (.qf4 nw d a) (opQf4 nw d a) s

/-- DQ8 (R118). -/
def opDq8 (nw : Bool) (d : Nat) (a : Src) (b : Src) (_ : Hints) : Op :=
  dequantOp nw d a b false
/-- The meaning of DQ8. -/
def execDq8 (nw : Bool) (d : Nat) (a : Src) (b : Src) (s : State) : Host.Outcome State Fault Refusal := run (.dq8 nw d a b) (opDq8 nw d a b) s

/-- DQ4 (R118). -/
def opDq4 (nw : Bool) (d : Nat) (a : Src) (b : Src) (_ : Hints) : Op :=
  dequantOp nw d a b true
/-- The meaning of DQ4. -/
def execDq4 (nw : Bool) (d : Nat) (a : Src) (b : Src) (s : State) : Host.Outcome State Fault Refusal := run (.dq4 nw d a b) (opDq4 nw d a b) s

end Sys2Proof.Machine
end

