-- ==== Sys2Proof/Machine/Flow.lean ====
section
/-! DEFINITION. Ending threads and tasks, branches, calls, meetings, far transfers and code fetch (R125 to R137): majors 0x00 and 0x21 to 0x25. -/

namespace Sys2Proof.Machine

/-! ## Ending threads and tasks (R125 to R127) -/

/-- NOP (R125). -/
def opNop (_ : Hints) : Op :=
  { form := {}, body := perLane fun _ _ => .done {} }
/-- The meaning of NOP. -/
def execNop (s : State) : Host.Outcome State Fault Refusal := run .nop opNop s

/-- YIELD (R125). -/
def opYield (_ : Hints) : Op :=
  { form := { sCls := true }, body := perLane fun _ _ => .done {} }
/-- The meaning of YIELD. -/
def execYield (s : State) : Host.Outcome State Fault Refusal := run .yield opYield s

/-- EXIT (R126). -/
def opExit (_ : Hints) : Op :=
  { form := { sync := true }, body := perLane fun _ _ => .exit }
/-- The meaning of EXIT. -/
def execExit (s : State) : Host.Outcome State Fault Refusal := run .exit opExit s

/-- Every thread of a crew in RUN, HELD or BLOCKED exits; FROZEN threads stay (R127). -/
def Gang.endTask (g : Gang) : Gang :=
  { g with threads := g.threads.map fun t => if t.run = .frozen ∨ t.run = .exited then t else t.toExited }

/-- TASKEND of a task's gang: the waiting operations of the whole crew are withdrawn, and the crew ends. A handler thread ends only itself. -/
def State.endTask (s : State) (g : Gang) : State :=
  if g.hslot.isSome then s
  else
    let s := (s.gangsOf g.crew).foldl (fun s p => s.withdrawWaits p.1) s
    { s with gangs := s.gangs.map fun p => if p.2.crew == g.crew && p.2.hslot.isNone then (p.1, p.2.endTask) else p }

/-- TASKEND (R127). -/
def opTaskend (_ : Hints) : Op :=
  { form := { sync := true }
    body := fun s e => (s.endTask e.g, e.lanes.map fun l => (l, .exit)) }
/-- The meaning of TASKEND. -/
def execTaskend (s : State) : Host.Outcome State Fault Refusal := run .taskend opTaskend s

/-! ## Branches, calls, jumps (R55, R129, R130) -/

/-- A jump to an aligned code address: CODE_SEG 0x01 where it leaves the segment (R55). -/
def jumpTo (pc target : Word) (d : Done) : LaneOut :=
  if segOf target.toNat = segOf pc.toNat then .done { d with npc := some target }
  else .fault ⟨cCodeSeg, 1, dword target.toNat⟩

/-- The target of a displacement (R55). -/
def branchTarget (pc : Word) (disp : Int) : Word := pc + 4 + wordOfInt (4 * disp)

/-- A conditional branch (R129). -/
def branch (a : Src) (disp : Int) (takes : Word → Bool) : Op where
  form := { srcs := [.src a .u] }
  body := perLane fun e l =>
    let pc := (e.g.th l).pc
    if takes (e.val l 0) then jumpTo pc (branchTarget pc disp) {} else .done {}

/-- Where CALL writes its link: a v or a k register. -/
def linkDst : Src → Dst
  | .v n => .v n
  | .k n => .k n
  | _ => .none

/-- An indirect jump (R130): alignment first, then the segment. -/
def jumpIndirect (a : Src) : Op where
  form := { srcs := [.src a .u] }
  body := perLane fun e l =>
    let t := e.val l 0
    if t.toNat % 4 ≠ 0 then .fault ⟨cAlign, 2, dword t.toNat⟩ else jumpTo (e.g.th l).pc t {}

/-- BRZ (R129). -/
def opBrz (a : Src) (disp : Int) (_ : Hints) : Op :=
  branch a disp fun x => x == 0
/-- The meaning of BRZ. -/
def execBrz (a : Src) (disp : Int) (s : State) : Host.Outcome State Fault Refusal := run (.brz a disp) (opBrz a disp) s

/-- BRNZ (R129). -/
def opBrnz (a : Src) (disp : Int) (_ : Hints) : Op :=
  branch a disp fun x => x != 0
/-- The meaning of BRNZ. -/
def execBrnz (a : Src) (disp : Int) (s : State) : Host.Outcome State Fault Refusal := run (.brnz a disp) (opBrnz a disp) s

/-- CALL (R129). -/
def opCall (a : Src) (disp : Int) (_ : Hints) : Op :=
  { form := { dst := linkDst a, illegal := if linkDst a = .none then some 8 else none }
    body := perLane fun e l =>
      let pc := (e.g.th l).pc
      jumpTo pc (branchTarget pc disp) { ws := [pc + 4] } }
/-- The meaning of CALL. -/
def execCall (a : Src) (disp : Int) (s : State) : Host.Outcome State Fault Refusal := run (.call a disp) (opCall a disp) s

/-- JMPI (R130). -/
def opJmpi (a : Src) (_ : Hints) : Op :=
  jumpIndirect a
/-- The meaning of JMPI. -/
def execJmpi (a : Src) (s : State) : Host.Outcome State Fault Refusal := run (.jmpi a) (opJmpi a) s

/-- RET (R130). -/
def opRet (a : Src) (_ : Hints) : Op :=
  jumpIndirect a
/-- The meaning of RET. -/
def execRet (a : Src) (s : State) : Host.Outcome State Fault Refusal := run (.ret a) (opRet a) s

/-! ## Meetings (R131) -/

/-- MEET (R131). -/
def opMeet (a : Src) (h : Hints) : Op :=
  { form := { srcs := [.src a .u] }
    body := perLane fun e l =>
      let x := e.val l 0
      let pc := (e.g.th l).pc
      if a = .immw then
        let m := branchTarget pc (BitVec.ofNat 24 (h.imm.getD 0)).toInt
        .done { set := fun t => { t with mt := m } }
      else if x = mtNone then .done { set := fun t => { t with mt := mtNone } }
      else if x.toNat % 4 ≠ 0 then .fault ⟨cAlign, 2, dword x.toNat⟩
      else .done { set := fun t => { t with mt := x } } }
/-- The meaning of MEET. -/
def execMeet (a : Src) (s : State) : Host.Outcome State Fault Refusal := run (.meet a) (opMeet a) s

/-- RDMT (R131). -/
def opRdmt (nw : Bool) (d : Nat) (_ : Hints) : Op :=
  { form := { dst := .v d, nw := nw, bad3 := nw && d != 0 }
    body := perLane fun e l => .done { ws := [(e.g.th l).mt] } }
/-- The meaning of RDMT. -/
def execRdmt (nw : Bool) (d : Nat) (s : State) : Host.Outcome State Fault Refusal := run (.rdmt nw d) (opRdmt nw d) s

/-! ## Code segments and far transfers (R133, R136, R137) -/

/-- The segment that an operand of CFETCH or CQRY names. -/
def segArg (x : Word) : Nat := bitsAt x.toNat 0 17

/-- The crew has executed a CFETCH of a segment on a core (R134). -/
def State.noteFetch (s : State) (g : Gang) (seg : Nat) : State :=
  if g.hslot.isSome then s
  else s.mapCrew g.crew fun c => if c.fetched.contains (g.core, seg) then c else { c with fetched := (g.core, seg) :: c.fetched }

/-- The requests of an instruction's lanes, merged by segment. R133 merges lanes that name one segment without saying which REFRESH bit holds: the request refreshes where any of them asks for it (DESIGN CHOICE, log entry 135). -/
def fetchRequests (e : Env) : List (Nat × Bool) :=
  e.lanes.foldl (fun acc l =>
    let seg := segArg (e.val l 0)
    let refresh := (e.val l 1).toNat % 2 == 1
    if acc.any fun p => p.1 == seg then acc.map fun p => if p.1 == seg then (seg, p.2 || refresh) else p
    else acc ++ [(seg, refresh)]) []

/-- CFETCH (R133). -/
def opCfetch (a : Src) (b : Src) (_ : Hints) : Op :=
  { form := { srcs := [.src a .u, .src b .u] }
    body := fun s e =>
     ((fetchRequests e).foldl (fun s p => (s.noteFetch e.g p.1).requestSeg e.g.core e.g.ctx p.1 e.g.level p.2) s,
        e.lanes.map fun l => (l, .done {})) }
/-- The meaning of CFETCH. -/
def execCfetch (a : Src) (b : Src) (s : State) : Host.Outcome State Fault Refusal := run (.cfetch a b) (opCfetch a b) s

/-- CQRY (R136). -/
def opCqry (nw : Bool) (d : Nat) (a : Src) (_ : Hints) : Op :=
  { form := { srcs := [.src a .u], dst := .v d, nw := nw, bad3 := nw && d != 0 }
    body := fun s e => (s, e.lanes.map fun l => (l, .done { ws := [s.segStatus e.g.core e.g.ctx (segArg (e.val l 0))] })) }
/-- The meaning of CQRY. -/
def execCqry (nw : Bool) (d : Nat) (a : Src) (s : State) : Host.Outcome State Fault Refusal := run (.cqry nw d a) (opCqry nw d a) s

/-- A far transfer of a lane (R137): `link` says that PC + 4 is written. -/
def farJump (s : State) (e : Env) (l : Nat) (link : Bool) : LaneOut :=
  let t := e.val l 0
  let pc := (e.g.th l).pc
  if t.toNat % 4 ≠ 0 then .fault ⟨cAlign, 2, dword t.toNat⟩
  else
    match s.seg? e.g.core e.g.ctx (segOf t.toNat) with
    | none => .fault ⟨cCodeSeg, 3, dword t.toNat⟩
    | some x =>
      match x.st with
      | .resident => .done { ws := if link then [pc + 4] else [], npc := some t }
      | .fetching => .wait (.segment (segOf t.toNat))
      | .faulted => .fault ⟨cCodeSeg, 4, x.va⟩
      | .refused => .fault ⟨cCodeSeg, 3, dword t.toNat⟩

/-- JF (R137). -/
def opJf (a : Src) (_ : Hints) : Op :=
  { form := { sCls := true, srcs := [.src a .u] }
    body := inOrder fun s e l => (s, farJump s e l false) }
/-- The meaning of JF. -/
def execJf (a : Src) (s : State) : Host.Outcome State Fault Refusal := run (.jf a) (opJf a) s

/-- CALLF (R137). -/
def opCallf (nw : Bool) (d : Nat) (a : Src) (_ : Hints) : Op :=
  { form := { sCls := true, srcs := [.src a .u], dst := .v d, nw := nw, bad3 := nw && d != 0 }
    body := inOrder fun s e l => (s, farJump s e l true) }
/-- The meaning of CALLF. -/
def execCallf (nw : Bool) (d : Nat) (a : Src) (s : State) : Host.Outcome State Fault Refusal := run (.callf nw d a) (opCallf nw d a) s

end Sys2Proof.Machine
end

