-- ==== Sys2Proof/Machine/IntArith.lean ====
section
/-! DEFINITION. Integer arithmetic, logic, shifts, bit fields, compares, selects, moves, 64-bit addresses (R98 to R106): majors 0x01 to 0x0E. -/

namespace Sys2Proof.Machine

/-! ## Shapes -/

/-- An instruction whose result is one vector register computed from its own lane's words. -/
def alu (nw : Bool) (d : Nat) (srcs : List Opnd) (ext : Nat) (f : Env → Nat → Word) : Op where
  form := { srcs := srcs, dst := .v d, nw := nw, bad3 := nw && d != 0, ext := ext }
  body := perLane fun e l => .done { ws := [f e l] }

/-- One source. -/
def alu1 (nw : Bool) (d : Nat) (a : Opnd) (ext : Nat) (f : Word → Word) : Op := alu nw d [a] ext fun e l => f (e.val l 0)
/-- Two sources. -/
def alu2 (nw : Bool) (d : Nat) (a b : Opnd) (ext : Nat) (f : Word → Word → Word) : Op :=
  alu nw d [a, b] ext fun e l => f (e.val l 0) (e.val l 1)
/-- Three sources. -/
def alu3 (nw : Bool) (d : Nat) (a b c : Opnd) (ext : Nat) (f : Word → Word → Word → Word) : Op :=
  alu nw d [a, b, c] ext fun e l => f (e.val l 0) (e.val l 1) (e.val l 2)

/-- D of a pair must be even: ILLEGAL_OPERAND 0x05 (R97). -/
def oddD (d : Nat) : Option Nat := if d % 2 = 0 then none else some 5

/-- An instruction that writes a pair (R97). -/
def aluPair (nw : Bool) (d : Nat) (srcs : List Opnd) (ext : Nat) (f : Env → Nat → DWord) : Op where
  form := { srcs := srcs, dst := .v d, width := 2, nw := nw, bad3 := nw && d != 0, ext := ext, illegal := oddD d }
  body := perLane fun e l => .done { ws := [loOf (f e l), hiOf (f e l)] }

/-! ## Results -/

/-- A signed result wrapped, or clamped with SAT (R98, R99). -/
def satWord (sat : Bool) (x : Int) : Word := if sat then wordOfInt (clampInt x (-2147483648) 2147483647) else wordOfInt x
/-- Signed minimum and maximum. -/
def minS (x y : Word) : Word := if sgn x ≤ sgn y then x else y
def maxS (x y : Word) : Word := if sgn x ≤ sgn y then y else x
/-- Unsigned minimum and maximum. -/
def minU (x y : Word) : Word := if x.toNat ≤ y.toNat then x else y
def maxU (x y : Word) : Word := if x.toNat ≤ y.toNat then y else x
/-- A relation as 1 or 0. -/
def flag (b : Bool) : Word := if b then 1 else 0
/-- Shifts, whose whole count is used, and rotation (R101). -/
def shlW (x c : Word) : Word := if 32 ≤ c.toNat then 0 else x <<< c.toNat
def shrW (x c : Word) : Word := if 32 ≤ c.toNat then 0 else x >>> c.toNat
def sarW (x c : Word) : Word := x.sshiftRight (min c.toNat 31)
def rolW (x c : Word) : Word := x.rotateLeft (c.toNat % 32)
/-- Leading zeros, one bits, bits reversed (R102). -/
def clzW (x : Word) : Word := word (((List.range 32).find? fun i => x.getLsbD (31 - i)).getD 32)
def popcW (x : Word) : Word := word ((List.range 32).filter fun i => x.getLsbD i).length
def brevW (x : Word) : Word := word (maskOf ((List.range 32).filter fun i => x.getLsbD (31 - i)))
/-- Byte n of the eight bytes of A and C, and byte i of BYTEP's result (R102). -/
def byteOf (a c : Word) (n : Nat) : Nat := bitsAt (if n < 4 then a.toNat else c.toNat) (8 * (n % 4)) 8
def bytepByte (a b c : Word) (i : Nat) : Nat :=
  let n := bitsAt b.toNat (4 * i) 4
  if n < 8 then byteOf a c n else 0
def bytepW (a b c : Word) : Word :=
  word (bytepByte a b c 0 + 256 * bytepByte a b c 1 + 65536 * bytepByte a b c 2 + 16777216 * bytepByte a b c 3)
/-- Position and effective length of a bit field (R103). -/
def fieldPos (b : Word) : Nat := bitsAt b.toNat 0 5
def fieldLen (b : Word) : Nat := min (bitsAt b.toNat 8 6) (32 - fieldPos b)
/-- Bit-field extraction and insertion. -/
def bfeuW (a b : Word) : Word := word (bitsAt a.toNat (fieldPos b) (fieldLen b))
def bfeW (a b : Word) : Word := ((BitVec.ofNat (fieldLen b) (bitsAt a.toNat (fieldPos b) (fieldLen b))).signExtend 32)
def bfiW (a b c : Word) : Word := word (withBits c.toNat (fieldPos b) (fieldLen b) a.toNat)
/-- 64-bit operand extension. -/
def sext64 (x : Word) : DWord := x.signExtend 64

/-! ## Integer arithmetic -/

/-- ADD (R98). -/
def opAdd (nw : Bool) (d : Nat) (a : Src) (b : Src) (h : Hints) : Op :=
  alu2 nw d (.src a .s) (.src b .s) mSat fun x y => satWord (extSat h.x) (sgn x + sgn y)
/-- The meaning of ADD. -/
def execAdd (nw : Bool) (d : Nat) (a : Src) (b : Src) (s : State) : Host.Outcome State Fault Refusal := run (.add nw d a b) (opAdd nw d a b) s

/-- SUB (R98). -/
def opSub (nw : Bool) (d : Nat) (a : Src) (b : Src) (h : Hints) : Op :=
  alu2 nw d (.src a .s) (.src b .s) mSat fun x y => satWord (extSat h.x) (sgn x - sgn y)
/-- The meaning of SUB. -/
def execSub (nw : Bool) (d : Nat) (a : Src) (b : Src) (s : State) : Host.Outcome State Fault Refusal := run (.sub nw d a b) (opSub nw d a b) s

/-- MIN (R98). -/
def opMin (nw : Bool) (d : Nat) (a : Src) (b : Src) (_ : Hints) : Op :=
  alu2 nw d (.src a .s) (.src b .s) 0 minS
/-- The meaning of MIN. -/
def execMin (nw : Bool) (d : Nat) (a : Src) (b : Src) (s : State) : Host.Outcome State Fault Refusal := run (.min nw d a b) (opMin nw d a b) s

/-- MAX (R98). -/
def opMax (nw : Bool) (d : Nat) (a : Src) (b : Src) (_ : Hints) : Op :=
  alu2 nw d (.src a .s) (.src b .s) 0 maxS
/-- The meaning of MAX. -/
def execMax (nw : Bool) (d : Nat) (a : Src) (b : Src) (s : State) : Host.Outcome State Fault Refusal := run (.max nw d a b) (opMax nw d a b) s

/-- ADDI (R98). -/
def opAddi (nw : Bool) (d : Nat) (a : Src) (imm : Nat) (h : Hints) : Op :=
  alu1 nw d (.src a .s) mSat fun x => satWord (extSat h.x) (sgn x + sgn (imm8 .s imm))
/-- The meaning of ADDI. -/
def execAddi (nw : Bool) (d : Nat) (a : Src) (imm : Nat) (s : State) : Host.Outcome State Fault Refusal := run (.addi nw d a imm) (opAddi nw d a imm) s

/-- MINI (R98). -/
def opMini (nw : Bool) (d : Nat) (a : Src) (imm : Nat) (_ : Hints) : Op :=
  alu1 nw d (.src a .s) 0 fun x => minS x (imm8 .s imm)
/-- The meaning of MINI. -/
def execMini (nw : Bool) (d : Nat) (a : Src) (imm : Nat) (s : State) : Host.Outcome State Fault Refusal := run (.mini nw d a imm) (opMini nw d a imm) s

/-- MAXI (R98). -/
def opMaxi (nw : Bool) (d : Nat) (a : Src) (imm : Nat) (_ : Hints) : Op :=
  alu1 nw d (.src a .s) 0 fun x => maxS x (imm8 .s imm)
/-- The meaning of MAXI. -/
def execMaxi (nw : Bool) (d : Nat) (a : Src) (imm : Nat) (s : State) : Host.Outcome State Fault Refusal := run (.maxi nw d a imm) (opMaxi nw d a imm) s

/-- MINU (R98). -/
def opMinu (nw : Bool) (d : Nat) (a : Src) (b : Src) (_ : Hints) : Op :=
  alu2 nw d (.src a .u) (.src b .u) 0 minU
/-- The meaning of MINU. -/
def execMinu (nw : Bool) (d : Nat) (a : Src) (b : Src) (s : State) : Host.Outcome State Fault Refusal := run (.minu nw d a b) (opMinu nw d a b) s

/-- MAXU (R98). -/
def opMaxu (nw : Bool) (d : Nat) (a : Src) (b : Src) (_ : Hints) : Op :=
  alu2 nw d (.src a .u) (.src b .u) 0 maxU
/-- The meaning of MAXU. -/
def execMaxu (nw : Bool) (d : Nat) (a : Src) (b : Src) (s : State) : Host.Outcome State Fault Refusal := run (.maxu nw d a b) (opMaxu nw d a b) s

/-- ABS (R98). -/
def opAbs (nw : Bool) (d : Nat) (a : Src) (h : Hints) : Op :=
  alu1 nw d (.src a .s) mSat fun x => satWord (extSat h.x) (sgn x).natAbs
/-- The meaning of ABS. -/
def execAbs (nw : Bool) (d : Nat) (a : Src) (s : State) : Host.Outcome State Fault Refusal := run (.abs nw d a) (opAbs nw d a) s

/-- NEG (R98). -/
def opNeg (nw : Bool) (d : Nat) (a : Src) (h : Hints) : Op :=
  alu1 nw d (.src a .s) mSat fun x => satWord (extSat h.x) (-sgn x)
/-- The meaning of NEG. -/
def execNeg (nw : Bool) (d : Nat) (a : Src) (s : State) : Host.Outcome State Fault Refusal := run (.neg nw d a) (opNeg nw d a) s

/-- MUL (R99). -/
def opMul (nw : Bool) (d : Nat) (a : Src) (b : Src) (_ : Hints) : Op :=
  alu2 nw d (.src a .s) (.src b .s) 0 fun x y => x * y
/-- The meaning of MUL. -/
def execMul (nw : Bool) (d : Nat) (a : Src) (b : Src) (s : State) : Host.Outcome State Fault Refusal := run (.mul nw d a b) (opMul nw d a b) s

/-- MULH (R99). -/
def opMulh (nw : Bool) (d : Nat) (a : Src) (b : Src) (_ : Hints) : Op :=
  alu2 nw d (.src a .s) (.src b .s) 0 fun x y => wordOfInt (sgn x * sgn y / 4294967296)
/-- The meaning of MULH. -/
def execMulh (nw : Bool) (d : Nat) (a : Src) (b : Src) (s : State) : Host.Outcome State Fault Refusal := run (.mulh nw d a b) (opMulh nw d a b) s

/-- MULHU (R99). -/
def opMulhu (nw : Bool) (d : Nat) (a : Src) (b : Src) (_ : Hints) : Op :=
  alu2 nw d (.src a .u) (.src b .u) 0 fun x y => word (x.toNat * y.toNat / 4294967296)
/-- The meaning of MULHU. -/
def execMulhu (nw : Bool) (d : Nat) (a : Src) (b : Src) (s : State) : Host.Outcome State Fault Refusal := run (.mulhu nw d a b) (opMulhu nw d a b) s

/-- MAD (R99). -/
def opMad (nw : Bool) (d : Nat) (a : Src) (b : Src) (h : Hints) : Op :=
  alu3 nw d (.src a .s) (.src b .s) (accOpnd h d .s) (mSat + mSrc3) fun x y z => satWord (extSat h.x) (sgn z + sgn x * sgn y)
/-- The meaning of MAD. -/
def execMad (nw : Bool) (d : Nat) (a : Src) (b : Src) (s : State) : Host.Outcome State Fault Refusal := run (.mad nw d a b) (opMad nw d a b) s

/-! ## Logic, shifts, bit fields -/

/-- AND (R100). -/
def opAnd (nw : Bool) (d : Nat) (a : Src) (b : Src) (_ : Hints) : Op :=
  alu2 nw d (.src a .u) (.src b .u) 0 fun x y => x &&& y
/-- The meaning of AND. -/
def execAnd (nw : Bool) (d : Nat) (a : Src) (b : Src) (s : State) : Host.Outcome State Fault Refusal := run (.and nw d a b) (opAnd nw d a b) s

/-- OR (R100). -/
def opOr (nw : Bool) (d : Nat) (a : Src) (b : Src) (_ : Hints) : Op :=
  alu2 nw d (.src a .u) (.src b .u) 0 fun x y => x ||| y
/-- The meaning of OR. -/
def execOr (nw : Bool) (d : Nat) (a : Src) (b : Src) (s : State) : Host.Outcome State Fault Refusal := run (.or nw d a b) (opOr nw d a b) s

/-- XOR (R100). -/
def opXor (nw : Bool) (d : Nat) (a : Src) (b : Src) (_ : Hints) : Op :=
  alu2 nw d (.src a .u) (.src b .u) 0 fun x y => x ^^^ y
/-- The meaning of XOR. -/
def execXor (nw : Bool) (d : Nat) (a : Src) (b : Src) (s : State) : Host.Outcome State Fault Refusal := run (.xor nw d a b) (opXor nw d a b) s

/-- ANDN (R100). -/
def opAndn (nw : Bool) (d : Nat) (a : Src) (b : Src) (_ : Hints) : Op :=
  alu2 nw d (.src a .u) (.src b .u) 0 fun x y => x &&& ~~~y
/-- The meaning of ANDN. -/
def execAndn (nw : Bool) (d : Nat) (a : Src) (b : Src) (s : State) : Host.Outcome State Fault Refusal := run (.andn nw d a b) (opAndn nw d a b) s

/-- ANDI (R100). -/
def opAndi (nw : Bool) (d : Nat) (a : Src) (imm : Nat) (_ : Hints) : Op :=
  alu1 nw d (.src a .u) 0 fun x => x &&& (imm8 .u imm)
/-- The meaning of ANDI. -/
def execAndi (nw : Bool) (d : Nat) (a : Src) (imm : Nat) (s : State) : Host.Outcome State Fault Refusal := run (.andi nw d a imm) (opAndi nw d a imm) s

/-- ORI (R100). -/
def opOri (nw : Bool) (d : Nat) (a : Src) (imm : Nat) (_ : Hints) : Op :=
  alu1 nw d (.src a .u) 0 fun x => x ||| (imm8 .u imm)
/-- The meaning of ORI. -/
def execOri (nw : Bool) (d : Nat) (a : Src) (imm : Nat) (s : State) : Host.Outcome State Fault Refusal := run (.ori nw d a imm) (opOri nw d a imm) s

/-- XORI (R100). -/
def opXori (nw : Bool) (d : Nat) (a : Src) (imm : Nat) (_ : Hints) : Op :=
  alu1 nw d (.src a .u) 0 fun x => x ^^^ (imm8 .u imm)
/-- The meaning of XORI. -/
def execXori (nw : Bool) (d : Nat) (a : Src) (imm : Nat) (s : State) : Host.Outcome State Fault Refusal := run (.xori nw d a imm) (opXori nw d a imm) s

/-- SHL (R101). R101 marks no kind for A: an IMMW there is zero-extended (DESIGN CHOICE, log entry 134). -/
def opShl (nw : Bool) (d : Nat) (a : Src) (b : Src) (_ : Hints) : Op :=
  alu2 nw d (.src a .u) (.src b .u) 0 shlW
/-- The meaning of SHL. -/
def execShl (nw : Bool) (d : Nat) (a : Src) (b : Src) (s : State) : Host.Outcome State Fault Refusal := run (.shl nw d a b) (opShl nw d a b) s

/-- SHR (R101). -/
def opShr (nw : Bool) (d : Nat) (a : Src) (b : Src) (_ : Hints) : Op :=
  alu2 nw d (.src a .u) (.src b .u) 0 shrW
/-- The meaning of SHR. -/
def execShr (nw : Bool) (d : Nat) (a : Src) (b : Src) (s : State) : Host.Outcome State Fault Refusal := run (.shr nw d a b) (opShr nw d a b) s

/-- SAR (R101). -/
def opSar (nw : Bool) (d : Nat) (a : Src) (b : Src) (_ : Hints) : Op :=
  alu2 nw d (.src a .s) (.src b .u) 0 sarW
/-- The meaning of SAR. -/
def execSar (nw : Bool) (d : Nat) (a : Src) (b : Src) (s : State) : Host.Outcome State Fault Refusal := run (.sar nw d a b) (opSar nw d a b) s

/-- ROL (R101). An IMMW in A is zero-extended (DESIGN CHOICE, log entry 134). -/
def opRol (nw : Bool) (d : Nat) (a : Src) (b : Src) (_ : Hints) : Op :=
  alu2 nw d (.src a .u) (.src b .u) 0 rolW
/-- The meaning of ROL. -/
def execRol (nw : Bool) (d : Nat) (a : Src) (b : Src) (s : State) : Host.Outcome State Fault Refusal := run (.rol nw d a b) (opRol nw d a b) s

/-- SHLI (R101). An IMMW in A is zero-extended (DESIGN CHOICE, log entry 134). -/
def opShli (nw : Bool) (d : Nat) (a : Src) (imm : Nat) (_ : Hints) : Op :=
  alu1 nw d (.src a .u) 0 fun x => shlW x (imm8 .u imm)
/-- The meaning of SHLI. -/
def execShli (nw : Bool) (d : Nat) (a : Src) (imm : Nat) (s : State) : Host.Outcome State Fault Refusal := run (.shli nw d a imm) (opShli nw d a imm) s

/-- SHRI (R101). -/
def opShri (nw : Bool) (d : Nat) (a : Src) (imm : Nat) (_ : Hints) : Op :=
  alu1 nw d (.src a .u) 0 fun x => shrW x (imm8 .u imm)
/-- The meaning of SHRI. -/
def execShri (nw : Bool) (d : Nat) (a : Src) (imm : Nat) (s : State) : Host.Outcome State Fault Refusal := run (.shri nw d a imm) (opShri nw d a imm) s

/-- SARI (R101). -/
def opSari (nw : Bool) (d : Nat) (a : Src) (imm : Nat) (_ : Hints) : Op :=
  alu1 nw d (.src a .s) 0 fun x => sarW x (imm8 .u imm)
/-- The meaning of SARI. -/
def execSari (nw : Bool) (d : Nat) (a : Src) (imm : Nat) (s : State) : Host.Outcome State Fault Refusal := run (.sari nw d a imm) (opSari nw d a imm) s

/-- ROLI (R101). An IMMW in A is zero-extended (DESIGN CHOICE, log entry 134). -/
def opRoli (nw : Bool) (d : Nat) (a : Src) (imm : Nat) (_ : Hints) : Op :=
  alu1 nw d (.src a .u) 0 fun x => rolW x (imm8 .u imm)
/-- The meaning of ROLI. -/
def execRoli (nw : Bool) (d : Nat) (a : Src) (imm : Nat) (s : State) : Host.Outcome State Fault Refusal := run (.roli nw d a imm) (opRoli nw d a imm) s

/-- CLZ (R102). -/
def opClz (nw : Bool) (d : Nat) (a : Src) (_ : Hints) : Op :=
  alu1 nw d (.src a .u) 0 clzW
/-- The meaning of CLZ. -/
def execClz (nw : Bool) (d : Nat) (a : Src) (s : State) : Host.Outcome State Fault Refusal := run (.clz nw d a) (opClz nw d a) s

/-- POPC (R102). -/
def opPopc (nw : Bool) (d : Nat) (a : Src) (_ : Hints) : Op :=
  alu1 nw d (.src a .u) 0 popcW
/-- The meaning of POPC. -/
def execPopc (nw : Bool) (d : Nat) (a : Src) (s : State) : Host.Outcome State Fault Refusal := run (.popc nw d a) (opPopc nw d a) s

/-- BREV (R102). -/
def opBrev (nw : Bool) (d : Nat) (a : Src) (_ : Hints) : Op :=
  alu1 nw d (.src a .u) 0 brevW
/-- The meaning of BREV. -/
def execBrev (nw : Bool) (d : Nat) (a : Src) (s : State) : Host.Outcome State Fault Refusal := run (.brev nw d a) (opBrev nw d a) s

/-- BYTEP (R102). -/
def opBytep (nw : Bool) (d : Nat) (a : Src) (b : Src) (h : Hints) : Op :=
  alu3 nw d (.src a .u) (.src b .u) (accOpnd h d .u) mSrc3 bytepW
/-- The meaning of BYTEP. -/
def execBytep (nw : Bool) (d : Nat) (a : Src) (b : Src) (s : State) : Host.Outcome State Fault Refusal := run (.bytep nw d a b) (opBytep nw d a b) s

/-- BFE (R103). -/
def opBfe (nw : Bool) (d : Nat) (a : Src) (b : Src) (_ : Hints) : Op :=
  alu2 nw d (.src a .u) (.src b .u) 0 bfeW
/-- The meaning of BFE. -/
def execBfe (nw : Bool) (d : Nat) (a : Src) (b : Src) (s : State) : Host.Outcome State Fault Refusal := run (.bfe nw d a b) (opBfe nw d a b) s

/-- BFEU (R103). -/
def opBfeu (nw : Bool) (d : Nat) (a : Src) (b : Src) (_ : Hints) : Op :=
  alu2 nw d (.src a .u) (.src b .u) 0 bfeuW
/-- The meaning of BFEU. -/
def execBfeu (nw : Bool) (d : Nat) (a : Src) (b : Src) (s : State) : Host.Outcome State Fault Refusal := run (.bfeu nw d a b) (opBfeu nw d a b) s

/-- BFI (R103). -/
def opBfi (nw : Bool) (d : Nat) (a : Src) (b : Src) (h : Hints) : Op :=
  alu3 nw d (.src a .u) (.src b .u) (accOpnd h d .u) mSrc3 bfiW
/-- The meaning of BFI. -/
def execBfi (nw : Bool) (d : Nat) (a : Src) (b : Src) (s : State) : Host.Outcome State Fault Refusal := run (.bfi nw d a b) (opBfi nw d a b) s

/-! ## Compare, select, move -/

/-- SEQ (R104). -/
def opSeq (nw : Bool) (d : Nat) (a : Src) (b : Src) (_ : Hints) : Op :=
  alu2 nw d (.src a .s) (.src b .s) 0 fun x y => flag (x == y)
/-- The meaning of SEQ. -/
def execSeq (nw : Bool) (d : Nat) (a : Src) (b : Src) (s : State) : Host.Outcome State Fault Refusal := run (.seq nw d a b) (opSeq nw d a b) s

/-- SNE (R104). -/
def opSne (nw : Bool) (d : Nat) (a : Src) (b : Src) (_ : Hints) : Op :=
  alu2 nw d (.src a .s) (.src b .s) 0 fun x y => flag (x != y)
/-- The meaning of SNE. -/
def execSne (nw : Bool) (d : Nat) (a : Src) (b : Src) (s : State) : Host.Outcome State Fault Refusal := run (.sne nw d a b) (opSne nw d a b) s

/-- SLT (R104). -/
def opSlt (nw : Bool) (d : Nat) (a : Src) (b : Src) (_ : Hints) : Op :=
  alu2 nw d (.src a .s) (.src b .s) 0 fun x y => flag (decide (sgn x < sgn y))
/-- The meaning of SLT. -/
def execSlt (nw : Bool) (d : Nat) (a : Src) (b : Src) (s : State) : Host.Outcome State Fault Refusal := run (.slt nw d a b) (opSlt nw d a b) s

/-- SLE (R104). -/
def opSle (nw : Bool) (d : Nat) (a : Src) (b : Src) (_ : Hints) : Op :=
  alu2 nw d (.src a .s) (.src b .s) 0 fun x y => flag (decide (sgn x ≤ sgn y))
/-- The meaning of SLE. -/
def execSle (nw : Bool) (d : Nat) (a : Src) (b : Src) (s : State) : Host.Outcome State Fault Refusal := run (.sle nw d a b) (opSle nw d a b) s

/-- SLTU (R104). -/
def opSltu (nw : Bool) (d : Nat) (a : Src) (b : Src) (_ : Hints) : Op :=
  alu2 nw d (.src a .u) (.src b .u) 0 fun x y => flag (decide (x.toNat < y.toNat))
/-- The meaning of SLTU. -/
def execSltu (nw : Bool) (d : Nat) (a : Src) (b : Src) (s : State) : Host.Outcome State Fault Refusal := run (.sltu nw d a b) (opSltu nw d a b) s

/-- SLEU (R104). -/
def opSleu (nw : Bool) (d : Nat) (a : Src) (b : Src) (_ : Hints) : Op :=
  alu2 nw d (.src a .u) (.src b .u) 0 fun x y => flag (decide (x.toNat ≤ y.toNat))
/-- The meaning of SLEU. -/
def execSleu (nw : Bool) (d : Nat) (a : Src) (b : Src) (s : State) : Host.Outcome State Fault Refusal := run (.sleu nw d a b) (opSleu nw d a b) s

/-- SEL (R104). -/
def opSel (nw : Bool) (d : Nat) (a : Src) (b : Src) (h : Hints) : Op :=
  if extW64 h.x then
    aluPair nw d [.pair a, .pair b, accOpnd h d .u] (mW64 + mSrc3) fun e l => if e.val l 4 ≠ 0 then e.pair l 0 else e.pair l 2
  else alu3 nw d (.src a .u) (.src b .u) (accOpnd h d .u) (mW64 + mSrc3) fun x y z => if z ≠ 0 then x else y
/-- The meaning of SEL. -/
def execSel (nw : Bool) (d : Nat) (a : Src) (b : Src) (s : State) : Host.Outcome State Fault Refusal := run (.sel nw d a b) (opSel nw d a b) s

/-- MOV (R104). -/
def opMov (nw : Bool) (d : Nat) (a : Src) (h : Hints) : Op :=
  if extW64 h.x then aluPair nw d [.pair a] mW64 fun e l => e.pair l 0 else alu1 nw d (.src a .u) mW64 id
/-- The meaning of MOV. -/
def execMov (nw : Bool) (d : Nat) (a : Src) (s : State) : Host.Outcome State Fault Refusal := run (.mov nw d a) (opMov nw d a) s

/-! ## 64-bit addresses, extension -/

/-- ADD64 (R105). -/
def opAdd64 (nw : Bool) (d : Nat) (a : Src) (b : Src) (_ : Hints) : Op :=
  aluPair nw d [.pair a, .src b .s] 0 fun e l => e.pair l 0 + sext64 (e.val l 2)
/-- The meaning of ADD64. -/
def execAdd64 (nw : Bool) (d : Nat) (a : Src) (b : Src) (s : State) : Host.Outcome State Fault Refusal := run (.add64 nw d a b) (opAdd64 nw d a b) s

/-- SUB64 (R105). -/
def opSub64 (nw : Bool) (d : Nat) (a : Src) (b : Src) (_ : Hints) : Op :=
  aluPair nw d [.pair a, .src b .s] 0 fun e l => e.pair l 0 - sext64 (e.val l 2)
/-- The meaning of SUB64. -/
def execSub64 (nw : Bool) (d : Nat) (a : Src) (b : Src) (s : State) : Host.Outcome State Fault Refusal := run (.sub64 nw d a b) (opSub64 nw d a b) s

/-- MAD64 (R105). -/
def opMad64 (nw : Bool) (d : Nat) (a : Src) (b : Src) (h : Hints) : Op :=
  aluPair nw d [.src a .s, .src b .s, accPair h d] mSrc3 fun e l => e.pair l 2 + sext64 (e.val l 0) * sext64 (e.val l 1)
/-- The meaning of MAD64. -/
def execMad64 (nw : Bool) (d : Nat) (a : Src) (b : Src) (s : State) : Host.Outcome State Fault Refusal := run (.mad64 nw d a b) (opMad64 nw d a b) s

/-- SHL64 (R105). -/
def opShl64 (nw : Bool) (d : Nat) (a : Src) (b : Src) (_ : Hints) : Op :=
  aluPair nw d [.pair a, .src b .u] 0 fun e l => if 64 ≤ (e.val l 2).toNat then 0 else e.pair l 0 <<< (e.val l 2).toNat
/-- The meaning of SHL64. -/
def execShl64 (nw : Bool) (d : Nat) (a : Src) (b : Src) (s : State) : Host.Outcome State Fault Refusal := run (.shl64 nw d a b) (opShl64 nw d a b) s

/-- SEXT8 (R106). -/
def opSext8 (nw : Bool) (d : Nat) (a : Src) (_ : Hints) : Op :=
  alu1 nw d (.src a .u) 0 fun x => (x.extractLsb' 0 8).signExtend 32
/-- The meaning of SEXT8. -/
def execSext8 (nw : Bool) (d : Nat) (a : Src) (s : State) : Host.Outcome State Fault Refusal := run (.sext8 nw d a) (opSext8 nw d a) s

/-- SEXT16 (R106). -/
def opSext16 (nw : Bool) (d : Nat) (a : Src) (_ : Hints) : Op :=
  alu1 nw d (.src a .u) 0 fun x => (x.extractLsb' 0 16).signExtend 32
/-- The meaning of SEXT16. -/
def execSext16 (nw : Bool) (d : Nat) (a : Src) (s : State) : Host.Outcome State Fault Refusal := run (.sext16 nw d a) (opSext16 nw d a) s

/-- ZEXT8 (R106). -/
def opZext8 (nw : Bool) (d : Nat) (a : Src) (_ : Hints) : Op :=
  alu1 nw d (.src a .u) 0 fun x => (x.extractLsb' 0 8).setWidth 32
/-- The meaning of ZEXT8. -/
def execZext8 (nw : Bool) (d : Nat) (a : Src) (s : State) : Host.Outcome State Fault Refusal := run (.zext8 nw d a) (opZext8 nw d a) s

/-- ZEXT16 (R106). -/
def opZext16 (nw : Bool) (d : Nat) (a : Src) (_ : Hints) : Op :=
  alu1 nw d (.src a .u) 0 fun x => (x.extractLsb' 0 16).setWidth 32
/-- The meaning of ZEXT16. -/
def execZext16 (nw : Bool) (d : Nat) (a : Src) (s : State) : Host.Outcome State Fault Refusal := run (.zext16 nw d a) (opZext16 nw d a) s

end Sys2Proof.Machine
end

