-- ==== Sys2Proof/Machine/Invalidate.lean ====
section
/-! DEFINITION. Translation invalidation and query (R223 to R225): major 0x3A. -/

namespace Sys2Proof.Machine

/-! ## Translation invalidation (R223, R224) -/

/-- What an invalidation covers: a context, or none for every context of the tenancy, and 512 KiB pages from `first` on; `global` says that entries with G = 1 are dropped. -/
structure Sweep where
  ctx : Option Nat
  first : Nat
  count : Nat
  global : Bool
  deriving DecidableEq, Repr

/-- A held translation of pages from `page` on falls under an invalidation. -/
def Sweep.covers (w : Sweep) (mine : Nat → Bool) (ctx page span : Nat) (leaf : DWord) : Bool :=
  (match w.ctx with | some c => c == ctx | none => mine ctx)
    && decide (page < w.first + w.count) && decide (w.first < page + span) && (w.global || !leafG leaf)

/-- The dies of an invalidation's scope: the issuing die, or every die of the tenancy. -/
def State.sweepDies (s : State) (g : Gang) (scope : Nat) : List Nat :=
  if scope = 3 then [dieOf g.core]
  else (List.range Config.dies).filter fun d => (s.ten (s.ctx g.ctx).tenancy).dies.testBit d

/-- A context of the gang's tenancy. -/
def State.sameTenancy (s : State) (g : Gang) (ctx : Nat) : Bool := s.hasCtx ctx && (s.ctx ctx).tenancy == (s.ctx g.ctx).tenancy

/-- The TLBs and last-page registers of some dies lose what the invalidations cover. -/
def State.sweep (s : State) (g : Gang) (dies : List Nat) (ws : List Sweep) : State :=
  let mine := s.sameTenancy g
  let hit := fun (ctx page span : Nat) (leaf : DWord) => ws.any fun w => w.covers mine ctx page span leaf
  let keep := fun (t : TlbEntry) => !hit t.ctx t.page t.span t.leaf
  { s with
    cores := s.cores.map fun p => if dies.contains (dieOf p.1) then (p.1, { p.2 with tlb := p.2.tlb.filter keep }) else p
    dies := s.dies.map fun p => if dies.contains p.1 then (p.1, { p.2 with tlb := p.2.tlb.filter keep }) else p
    gangs := s.gangs.map fun p =>
      if dies.contains (dieOf p.2.core) then
        (p.1, { p.2 with threads := p.2.threads.map fun (t : Thread) =>
          match t.lastPage with
          | some x => if hit p.2.ctx x.page 1 x.leaf then { t with lastPage := none } else t
          | none => t })
      else p }

/-- Accesses that may hold a swept translation have been performed, and code copies that read the pages have ended (steps 4 and 6). -/
def State.sweepDone (s : State) (g : Gang) (dies : List Nat) (ws : List Sweep) : Bool :=
  let mine := s.sameTenancy g
  let of_ := fun (ctx : Nat) => ws.any fun w => match w.ctx with | some c => c == ctx | none => mine ctx
  (s.gangs.all fun p => !(of_ p.2.ctx && dies.contains (dieOf p.2.core)) || p.2.pending.all lostDest)
  && s.cores.all fun p => !dies.contains (dieOf p.1) || p.2.segs.all fun x =>
    !(x.st == .fetching || x.shadow) || !ws.any fun w => w.covers mine x.ctx ((s.segVa p.1 x.ctx x.seg).toNat / 2 ^ 19) 1 0

/-- The invalidation that a lane of INVL asks for, or its fault. -/
def invlLane (s : State) (e : Env) (other : Bool) (l : Nat) : Except Flt Sweep :=
  let va := e.pair l 0
  let n := (e.val l 2).toNat
  let ctx := if other then (e.val l 3).toNat else e.g.ctx
  if n = 0 ∨ 2 ^ 20 < n then .error ⟨cIllegalOperand, 0x13, 0⟩
  else if 2 ^ 55 ≤ va.toNat then .error ⟨cXlatePerm, 0x10, va⟩
  else if !s.sameTenancy e.g ctx then .error ⟨cPriv, 4, 0⟩
  else .ok ⟨some ctx, va.toNat / 2 ^ 19, n, true⟩

/-- The invalidation that a lane of INVLA asks for, or its fault. -/
def invlaLane (s : State) (e : Env) (l : Nat) : Except Flt Sweep :=
  let x := e.val l 0
  if x = 0xFFFFFFFF#32 then .ok ⟨none, 0, 2 ^ 36, true⟩
  else if s.sameTenancy e.g x.toNat then .ok ⟨some x.toNat, 0, 2 ^ 36, false⟩
  else .error ⟨cIllegalOperand, 0x13, 0⟩

/-- The invalidations of the lanes that do not fault. -/
def sweepsOf (f : Nat → Except Flt Sweep) (lanes : List Nat) : List Sweep :=
  lanes.filterMap fun l => match f l with | .ok w => some w | .error _ => none

/-- The scope of an invalidation: pkg where no HX.EXT is bound. -/
def sweepScope (h : Hints) : Nat := if h.ext.isSome then extScope h.x else 4

/-- An invalidation: the issue waits until it can complete, and the ranges of all lanes are swept as one. -/
def sweepOp (f : State → Env → Nat → Except Flt Sweep) (srcs : List Opnd) (ext : Nat) (h : Hints) : Op where
  form := { srcs := srcs, ext := ext, extBad := fun x => extScope x != 3 && extScope x != 4, level := 2 }
  ready := fun s e => s.sweepDone e.g (s.sweepDies e.g (sweepScope h)) (sweepsOf (f s e) e.lanes)
  body := fun s e =>
    (s.sweep e.g (s.sweepDies e.g (sweepScope h)) (sweepsOf (f s e) e.lanes),
      e.lanes.map fun l => (l, match f s e l with | .ok _ => .done {} | .error x => .fault x))

/-- INVL (R223). -/
def opInvl (a : Src) (b : Src) (h : Hints) : Op :=
  sweepOp (fun s e l => invlLane s e (extSrc3 h.x != 0) l) ([.pair a, .src b .u] ++ if extSrc3 h.x = 0 then [] else [.src h.src3 .u]) (mSrc3 ||| mScope) h
/-- The meaning of INVL. -/
def execInvl (a : Src) (b : Src) (s : State) : Host.Outcome State Fault Refusal := run (.invl a b) (opInvl a b) s

/-- INVLA (R224). -/
def opInvla (a : Src) (h : Hints) : Op :=
  sweepOp invlaLane [.src a .u] mScope h
/-- The meaning of INVLA. -/
def execInvla (a : Src) (s : State) : Host.Outcome State Fault Refusal := run (.invla a) (opInvla a) s

/-! ## Translation query (R225) -/

/-- A query's answer where no valid leaf is found: class, subcode, level. -/
def noLeaf (cls sub level : Nat) : DWord := dword (cls % 256 * 256 + sub % 256 * 65536 + level % 4 * 16777216)

/-- The walk of a query ends at an entry in transit. -/
def State.inTransit (s : State) (ctx : Nat) (va : DWord) : Bool :=
  if 2 ^ 55 ≤ va.toNat then false
  else match s.walk ctx va.toNat with
    | .remote _ _ x => leafMig x
    | .busy => true
    | _ => false

/-- The answer of a query. -/
def State.queryPage (s : State) (g : Gang) (va : DWord) : DWord :=
  if 2 ^ 55 ≤ va.toNat then noLeaf cXlatePerm 0x10 0
  else match s.walk g.ctx va.toNat with
    | .leaf _ _ _ x => if g.level = 2 then x else dword (x.toNat % 2 ^ 28)
    | .remote _ _ x =>
      let f := Config.remoteQuery x
      noLeaf (f.toNat % 256) (f.toNat / 256) 2
    | .denied n => noLeaf cXlatePerm n 0
    | .busy => 0
    | .absent level => noLeaf cXlateNr (level + 1) level
    | .bad level sub => noLeaf cXlateTable sub level

/-- A query result of a gang that an instruction of some lanes reads is still due (R225). -/
def Gang.queryHeld (g : Gang) (lanes : List Nat) (f : Form) : Bool :=
  g.queries.any fun q => lanes.contains q.1 && f.vRegs.contains q.2.1

/-- The results of a gang's queries whose pages are in transit no longer are written. -/
def State.answerQueries (s : State) (gk : Nat) : State :=
  match s.gang? gk with
  | none => s
  | some g =>
    let due := g.queries.filter fun q => !s.inTransit g.ctx (dword q.2.2.1)
    if due.isEmpty then s
    else
      (s.bringLines gk (due.map fun q => q.2.1)).mapGang gk fun g =>
        due.foldl (fun (g : Gang) q =>
          let x := s.queryPage g (dword q.2.2.1)
          g.writeV q.1 q.2.1 (if q.2.2.2 then hiOf x else loOf x)) g

/-- PGQRY (R225). A result that waits for a page in transit comes later; the instruction itself goes on. -/
def opPgqry (d : Nat) (a : Src) (_ : Hints) : Op :=
  { form := { lCls := true, srcs := [.pair a], dst := .v d, width := 2, illegal := if d % 2 = 0 then none else some 5 }
    body := fun s e =>
      let due := fun (l : Nat) => s.inTransit e.g.ctx (e.pair l 0)
      (s.mapGang e.gk fun g => { g with
          queries := (g.queries.filter fun q => !(e.lanes.contains q.1 && (q.2.1 == d || q.2.1 == d + 1)))
            ++ (e.lanes.filter due).flatMap fun l => [(l, d, (e.pair l 0).toNat, false), (l, d + 1, (e.pair l 0).toNat, true)] },
        e.lanes.map fun l =>
          (l, .done (if due l then { set := fun t => t.setPending [d, d + 1] } else { ws := pairWords (s.queryPage e.g (e.pair l 0)) }))) }
/-- The meaning of PGQRY. -/
def execPgqry (d : Nat) (a : Src) (s : State) : Host.Outcome State Fault Refusal := run (.pgqry d a) (opPgqry d a) s

end Sys2Proof.Machine
end

