-- ==== Sys2Proof/Machine/Lanes.lean ====
section
/-! DEFINITION. Uniform-register and cross-lane instructions (R119 to R124): majors 0x1A to 0x20. -/

namespace Sys2Proof.Machine

/-! ## Shapes -/

/-- An instruction that writes kD once for the gang, from the words of its first lane (R119). -/
def uni (nw : Bool) (d : Nat) (srcs : List Opnd) (f : Env → Nat → Word) : Op where
  form := { srcs := srcs, dst := .k d, nw := nw, bad3 := nw && d != 0 }
  body := oncePer fun s e l => (s, .done { ws := [f e l] })

/-- One source. -/
def uni1 (nw : Bool) (d : Nat) (a : Opnd) (f : Word → Word) : Op := uni nw d [a] fun e l => f (e.val l 0)
/-- Two sources. -/
def uni2 (nw : Bool) (d : Nat) (a b : Opnd) (f : Word → Word → Word) : Op := uni nw d [a, b] fun e l => f (e.val l 0) (e.val l 1)

/-- An instruction that writes kD from the values of all its lanes (R123, R124). -/
def gather (nw : Bool) (d : Nat) (a : Opnd) (f : Env → Word) : Op where
  form := { srcs := [a], dst := .k d, nw := nw, bad3 := nw && d != 0 }
  body := perLane fun e _ => .done { ws := [f e] }

/-- An instruction in which each lane's result depends on other lanes' words (R122, R123). -/
def cross (nw : Bool) (d : Nat) (srcs : List Opnd) (f : Env → Nat → Word) : Op where
  form := { srcs := srcs, dst := .v d, nw := nw, bad3 := nw && d != 0 }
  body := perLane fun e l => .done { ws := [f e l] }

/-! ## Uniform registers (R119) -/

/-- UADD (R119). -/
def opUadd (nw : Bool) (d : Nat) (a : Src) (b : Src) (_ : Hints) : Op :=
  uni2 nw d (.uni a .s) (.uni b .s) fun x y => x + y
/-- The meaning of UADD. -/
def execUadd (nw : Bool) (d : Nat) (a : Src) (b : Src) (s : State) : Host.Outcome State Fault Refusal := run (.uadd nw d a b) (opUadd nw d a b) s

/-- USUB (R119). -/
def opUsub (nw : Bool) (d : Nat) (a : Src) (b : Src) (_ : Hints) : Op :=
  uni2 nw d (.uni a .s) (.uni b .s) fun x y => x - y
/-- The meaning of USUB. -/
def execUsub (nw : Bool) (d : Nat) (a : Src) (b : Src) (s : State) : Host.Outcome State Fault Refusal := run (.usub nw d a b) (opUsub nw d a b) s

/-- UMUL (R119). -/
def opUmul (nw : Bool) (d : Nat) (a : Src) (b : Src) (_ : Hints) : Op :=
  uni2 nw d (.uni a .s) (.uni b .s) fun x y => x * y
/-- The meaning of UMUL. -/
def execUmul (nw : Bool) (d : Nat) (a : Src) (b : Src) (s : State) : Host.Outcome State Fault Refusal := run (.umul nw d a b) (opUmul nw d a b) s

/-- UMOV (R119). -/
def opUmov (nw : Bool) (d : Nat) (a : Src) (_ : Hints) : Op :=
  uni1 nw d (.uni a .u) id
/-- The meaning of UMOV. -/
def execUmov (nw : Bool) (d : Nat) (a : Src) (s : State) : Host.Outcome State Fault Refusal := run (.umov nw d a) (opUmov nw d a) s

/-- UAND (R119). -/
def opUand (nw : Bool) (d : Nat) (a : Src) (b : Src) (_ : Hints) : Op :=
  uni2 nw d (.uni a .u) (.uni b .u) fun x y => x &&& y
/-- The meaning of UAND. -/
def execUand (nw : Bool) (d : Nat) (a : Src) (b : Src) (s : State) : Host.Outcome State Fault Refusal := run (.uand nw d a b) (opUand nw d a b) s

/-- UOR (R119). -/
def opUor (nw : Bool) (d : Nat) (a : Src) (b : Src) (_ : Hints) : Op :=
  uni2 nw d (.uni a .u) (.uni b .u) fun x y => x ||| y
/-- The meaning of UOR. -/
def execUor (nw : Bool) (d : Nat) (a : Src) (b : Src) (s : State) : Host.Outcome State Fault Refusal := run (.uor nw d a b) (opUor nw d a b) s

/-- UXOR (R119). -/
def opUxor (nw : Bool) (d : Nat) (a : Src) (b : Src) (_ : Hints) : Op :=
  uni2 nw d (.uni a .u) (.uni b .u) fun x y => x ^^^ y
/-- The meaning of UXOR. -/
def execUxor (nw : Bool) (d : Nat) (a : Src) (b : Src) (s : State) : Host.Outcome State Fault Refusal := run (.uxor nw d a b) (opUxor nw d a b) s

/-- USHR (R119). -/
def opUshr (nw : Bool) (d : Nat) (a : Src) (b : Src) (_ : Hints) : Op :=
  uni2 nw d (.uni a .u) (.uni b .u) shrW
/-- The meaning of USHR. -/
def execUshr (nw : Bool) (d : Nat) (a : Src) (b : Src) (s : State) : Host.Outcome State Fault Refusal := run (.ushr nw d a b) (opUshr nw d a b) s

/-- USHL (R119). -/
def opUshl (nw : Bool) (d : Nat) (a : Src) (b : Src) (_ : Hints) : Op :=
  uni2 nw d (.uni a .u) (.uni b .u) shlW
/-- The meaning of USHL. -/
def execUshl (nw : Bool) (d : Nat) (a : Src) (b : Src) (s : State) : Host.Outcome State Fault Refusal := run (.ushl nw d a b) (opUshl nw d a b) s

/-- UADD64 (R119). -/
def opUadd64 (nw : Bool) (d : Nat) (a : Src) (b : Src) (_ : Hints) : Op :=
  { form := { srcs := [.upair a, .uni b .s], dst := .k d, nw := nw, bad3 := nw && d != 0, illegal := oddD d }
    body := oncePer fun s e l =>
      let x := e.pair l 0 + sext64 (e.val l 2)
     (s, .done { ws := [loOf x, hiOf x] }) }
/-- The meaning of UADD64. -/
def execUadd64 (nw : Bool) (d : Nat) (a : Src) (b : Src) (s : State) : Host.Outcome State Fault Refusal := run (.uadd64 nw d a b) (opUadd64 nw d a b) s

/-- USEQ (R119). -/
def opUseq (nw : Bool) (d : Nat) (a : Src) (b : Src) (_ : Hints) : Op :=
  uni2 nw d (.uni a .s) (.uni b .s) fun x y => flag (x == y)
/-- The meaning of USEQ. -/
def execUseq (nw : Bool) (d : Nat) (a : Src) (b : Src) (s : State) : Host.Outcome State Fault Refusal := run (.useq nw d a b) (opUseq nw d a b) s

/-- USLT (R119). -/
def opUslt (nw : Bool) (d : Nat) (a : Src) (b : Src) (_ : Hints) : Op :=
  uni2 nw d (.uni a .s) (.uni b .s) fun x y => flag (decide (sgn x < sgn y))
/-- The meaning of USLT. -/
def execUslt (nw : Bool) (d : Nat) (a : Src) (b : Src) (s : State) : Host.Outcome State Fault Refusal := run (.uslt nw d a b) (opUslt nw d a b) s

/-! ## RDLANE (R120) -/

/-- RDLANE: the value that lane L reads from A, whatever its run state; a latch there that holds none faults in every lane. R120 marks no kind for A: an IMMW there is zero-extended (DESIGN CHOICE, log entry 133). -/
def readLane (w : View) (a : Src) (l : Nat) : LaneOut :=
  match a with
  | .d n => match w.g.latch l n with
    | .empty => .fault ⟨cIllegalOperand, 2, 0⟩
    | .invalid => .fault ⟨cIllegalOperand, 3, 0⟩
    | .val x => .done { ws := [x] }
  | _ => .done { ws := [w.value .u l a] }

/-- RDLANE (R120). -/
def opRdlane (nw : Bool) (d : Nat) (a : Src) (b : Src) (h : Hints) : Op :=
  { form := { srcs := [.lane a, .uni b .u], dst := .k d, nw := nw, bad3 := nw && d != 0 }
    body := oncePer fun s e l => (s, readLane (s.viewOf e.g h.imm) a ((e.val l 1).toNat % 32)) }
/-- The meaning of RDLANE. -/
def execRdlane (nw : Bool) (d : Nat) (a : Src) (b : Src) (s : State) : Host.Outcome State Fault Refusal := run (.rdlane nw d a b) (opRdlane nw d a b) s

/-- UMIN (R119). -/
def opUmin (nw : Bool) (d : Nat) (a : Src) (b : Src) (_ : Hints) : Op :=
  uni2 nw d (.uni a .s) (.uni b .s) minS
/-- The meaning of UMIN. -/
def execUmin (nw : Bool) (d : Nat) (a : Src) (b : Src) (s : State) : Host.Outcome State Fault Refusal := run (.umin nw d a b) (opUmin nw d a b) s

/-- UMAX (R119). -/
def opUmax (nw : Bool) (d : Nat) (a : Src) (b : Src) (_ : Hints) : Op :=
  uni2 nw d (.uni a .s) (.uni b .s) maxS
/-- The meaning of UMAX. -/
def execUmax (nw : Bool) (d : Nat) (a : Src) (b : Src) (s : State) : Host.Outcome State Fault Refusal := run (.umax nw d a b) (opUmax nw d a b) s

/-- UADDI (R119). -/
def opUaddi (nw : Bool) (d : Nat) (a : Src) (imm : Nat) (_ : Hints) : Op :=
  uni1 nw d (.uni a .s) fun x => x + imm8 .s imm
/-- The meaning of UADDI. -/
def execUaddi (nw : Bool) (d : Nat) (a : Src) (imm : Nat) (s : State) : Host.Outcome State Fault Refusal := run (.uaddi nw d a imm) (opUaddi nw d a imm) s

/-! ## Shuffles (R122) -/

/-- The source lane of a shuffle: IDX, UP, DN, XOR. -/
def shflIdx (_ b : Nat) : Option Nat := some (b % 32)
def shflUp (l b : Nat) : Option Nat := if b ≤ l then some (l - b) else none
def shflDn (l b : Nat) : Option Nat := if l + b ≤ 31 then some (l + b) else none
def shflXor (l b : Nat) : Option Nat := some (Nat.xor l (b % 32))

/-- The lane whose A a lane receives: its own, where the source is no lane that executes. -/
def shflFrom (e : Env) (pick : Nat → Nat → Option Nat) (l b : Nat) : Nat :=
  match pick l b with
  | some m => if e.lanes.contains m then m else l
  | none => l

/-- A shuffle (R122, R97). -/
def shfl (nw : Bool) (d : Nat) (a b : Src) (h : Hints) (pick : Nat → Nat → Option Nat) : Op :=
  if extW64 h.x then
    aluPair nw d [.pair a, .src b .u] mW64 fun e l => e.pair (shflFrom e pick l (e.val l 2).toNat) 0
  else alu nw d [.src a .u, .src b .u] mW64 fun e l => e.val (shflFrom e pick l (e.val l 1).toNat) 0

/-- SHFL.IDX (R122). -/
def opShflIdx (nw : Bool) (d : Nat) (a : Src) (b : Src) (h : Hints) : Op :=
  shfl nw d a b h shflIdx
/-- The meaning of SHFL.IDX. -/
def execShflIdx (nw : Bool) (d : Nat) (a : Src) (b : Src) (s : State) : Host.Outcome State Fault Refusal := run (.shflIdx nw d a b) (opShflIdx nw d a b) s

/-- SHFL.UP (R122). -/
def opShflUp (nw : Bool) (d : Nat) (a : Src) (b : Src) (h : Hints) : Op :=
  shfl nw d a b h shflUp
/-- The meaning of SHFL.UP. -/
def execShflUp (nw : Bool) (d : Nat) (a : Src) (b : Src) (s : State) : Host.Outcome State Fault Refusal := run (.shflUp nw d a b) (opShflUp nw d a b) s

/-- SHFL.DN (R122). -/
def opShflDn (nw : Bool) (d : Nat) (a : Src) (b : Src) (h : Hints) : Op :=
  shfl nw d a b h shflDn
/-- The meaning of SHFL.DN. -/
def execShflDn (nw : Bool) (d : Nat) (a : Src) (b : Src) (s : State) : Host.Outcome State Fault Refusal := run (.shflDn nw d a b) (opShflDn nw d a b) s

/-- SHFL.XOR (R122). -/
def opShflXor (nw : Bool) (d : Nat) (a : Src) (b : Src) (h : Hints) : Op :=
  shfl nw d a b h shflXor
/-- The meaning of SHFL.XOR. -/
def execShflXor (nw : Bool) (d : Nat) (a : Src) (b : Src) (s : State) : Host.Outcome State Fault Refusal := run (.shflXor nw d a b) (opShflXor nw d a b) s

/-! ## Votes, ballot, match (R123), reductions (R124) -/

/-- VOTE.ALL (R123). -/
def opVoteAll (nw : Bool) (d : Nat) (a : Src) (_ : Hints) : Op :=
  cross nw d [.src a .u] fun e _ => flag (e.lanes.all fun m => e.val m 0 != 0)
/-- The meaning of VOTE.ALL. -/
def execVoteAll (nw : Bool) (d : Nat) (a : Src) (s : State) : Host.Outcome State Fault Refusal := run (.voteAll nw d a) (opVoteAll nw d a) s

/-- VOTE.ANY (R123). -/
def opVoteAny (nw : Bool) (d : Nat) (a : Src) (_ : Hints) : Op :=
  cross nw d [.src a .u] fun e _ => flag (e.lanes.any fun m => e.val m 0 != 0)
/-- The meaning of VOTE.ANY. -/
def execVoteAny (nw : Bool) (d : Nat) (a : Src) (s : State) : Host.Outcome State Fault Refusal := run (.voteAny nw d a) (opVoteAny nw d a) s

/-- BALLOT (R123). -/
def opBallot (nw : Bool) (d : Nat) (a : Src) (_ : Hints) : Op :=
  gather nw d (.src a .u) fun e => word (maskOf (e.lanes.filter fun m => e.val m 0 != 0))
/-- The meaning of BALLOT. -/
def execBallot (nw : Bool) (d : Nat) (a : Src) (s : State) : Host.Outcome State Fault Refusal := run (.ballot nw d a) (opBallot nw d a) s

/-- MATCH (R123). -/
def opMatchAny (nw : Bool) (d : Nat) (a : Src) (_ : Hints) : Op :=
  cross nw d [.src a .u] fun e l => word (maskOf (e.lanes.filter fun m => e.val m 0 == e.val l 0))
/-- The meaning of MATCH. -/
def execMatchAny (nw : Bool) (d : Nat) (a : Src) (s : State) : Host.Outcome State Fault Refusal := run (.matchAny nw d a) (opMatchAny nw d a) s

/-- RADD (R124). An IMMW in A is zero-extended, kind u (DESIGN CHOICE, log entry 116). -/
def opRadd (nw : Bool) (d : Nat) (a : Src) (_ : Hints) : Op :=
  gather nw d (.src a .u) fun e => e.lanes.foldl (fun x m => x + e.val m 0) 0
/-- The meaning of RADD. -/
def execRadd (nw : Bool) (d : Nat) (a : Src) (s : State) : Host.Outcome State Fault Refusal := run (.radd nw d a) (opRadd nw d a) s

/-- The fold of a choice between two values over the lanes. -/
def foldLanes (e : Env) (f : Word → Word → Word) : Word :=
  match e.lanes with
  | [] => 0
  | l :: rest => rest.foldl (fun x m => f x (e.val m 0)) (e.val l 0)

/-- RMIN (R124). -/
def opRmin (nw : Bool) (d : Nat) (a : Src) (_ : Hints) : Op :=
  gather nw d (.src a .s) fun e => foldLanes e minS
/-- The meaning of RMIN. -/
def execRmin (nw : Bool) (d : Nat) (a : Src) (s : State) : Host.Outcome State Fault Refusal := run (.rmin nw d a) (opRmin nw d a) s

/-- RMAX (R124). -/
def opRmax (nw : Bool) (d : Nat) (a : Src) (_ : Hints) : Op :=
  gather nw d (.src a .s) fun e => foldLanes e maxS
/-- The meaning of RMAX. -/
def execRmax (nw : Bool) (d : Nat) (a : Src) (s : State) : Host.Outcome State Fault Refusal := run (.rmax nw d a) (opRmax nw d a) s

/-- One level of the tree of R91: neighbours added, flags collected. -/
def treeLevel (mode : Rnd) : List Nat → List Nat × Nat
  | x :: y :: rest =>
    let r := fp32.add mode x y
    let t := treeLevel mode rest
    (r.bits :: t.1, r.flags ||| t.2)
  | xs => (xs, 0)

/-- `n` levels of the tree. -/
def treeSum (mode : Rnd) : Nat → List Nat → Nat → FRes
  | 0, xs, fl => ⟨xs.headD 0, fl⟩
  | n + 1, xs, fl =>
    let r := treeLevel mode xs
    treeSum mode n r.1 (fl ||| r.2)

/-- The tree sum of the 32 lanes, those that do not execute as +0.0 (R91). -/
def laneSum (mode : Rnd) (e : Env) : FRes :=
  treeSum mode 5 ((List.range 32).map fun l => if e.lanes.contains l then (e.val l 0).toNat else 0) 0

/-- RFADD (R124). -/
def opRfadd (nw : Bool) (d : Nat) (a : Src) (h : Hints) : Op :=
  { form := { srcs := [.src a .f], dst := .k d, nw := nw, bad3 := nw && d != 0, ext := mRnd }
    body := perLane fun e _ =>
      let r := laneSum h.rnd e
      if e.lanes.any fun m => (e.g.th m).traps r.flags then .fault (fpFault r.flags)
      else .done { ws := [word r.bits], set := fun t => t.raise_ r.flags } }
/-- The meaning of RFADD. -/
def execRfadd (nw : Bool) (d : Nat) (a : Src) (s : State) : Host.Outcome State Fault Refusal := run (.rfadd nw d a) (opRfadd nw d a) s

end Sys2Proof.Machine
end

