-- ==== Sys2Proof/Machine/Queues.lean ====
section
/-! DEFINITION. Queue instructions (R162 to R167): major 0x30. -/

namespace Sys2Proof.Machine

/-! ## Queue instructions (R163 to R167) -/

/-- The queue at which a lane stays to be admitted, with no reservation yet. -/
def State.staysAt (s : State) (e : Env) (l : Nat) : LaneOut → List Nat
  | .wait why [] => (s.queuePlace e.g.ctx (e.pair l 0)).toList ++ match why with
    | .queue pa => [pa]
    | .moduleCmd _ pa => [pa]
    | _ => []
  | _ => []

/-- The lanes of a queue instruction in ascending order; each is told at which queues a lower lane waits to be admitted (R165). -/
def queueLanes (f : List Nat → State → Env → Nat → State × LaneOut) : Body := fun s e =>
  let r := e.lanes.foldl (fun (acc : State × List (Nat × LaneOut) × List Nat) l =>
    let o := f acc.2.2 acc.1 e l
    (o.1, acc.2.1 ++ [(l, o.2)], acc.2.2 ++ o.1.staysAt e l o.2)) (s, [], [])
  (r.1, r.2.1)

/-- The reservation that a waiting lane holds, where it holds one. -/
def Env.reserved (e : Env) : Option Nat :=
  match e.extra with
  | lo :: hi :: _ => some (pairOf lo hi).toNat
  | _ => none

/-- A reservation as the words that a waiting lane keeps. -/
def keepNum (n : Nat) : List Word := [loOf (dword n), hiOf (dword n)]

/-- The thread index of a lane as a number. -/
def Env.tidOf (e : Env) (l : Nat) : Nat := 32 * e.g.index + l

/-- The crew of a gang keeps a reservation for its next pop of a queue (R301). -/
def State.heldPop (s : State) (g : Gang) (pa : Nat) : Option PopRes :=
  if g.hslot.isSome then none else (s.crewOf g).bind fun c => c.held.find? fun p => p.pa == pa

/-- A queue instruction takes ranges of memory as synchronisation accesses: the race that it meets. -/
def State.queueRace (s : State) (e : Env) (q : Queue) (writes : Bool) : Option Nat :=
  s.raceRange e.gk (s.home q.pa) 64 (covered q.pa (some q.leaf)) writes true

/-- The descriptor of a queue recorded as touched; the access passes through the caches (R265). -/
def State.noteQueue (s : State) (e : Env) (q : Queue) (writes : Bool) : State :=
  (s.recordRange e.gk e.iv (s.home q.pa) 64 (covered q.pa (some q.leaf)) writes true).cacheAccess e.g.core e.g.ctx q.pa (some q.leaf) 3 writes

/-- A module command of a lane: the lane waits for its response, and keeps what it has; while no slot of the aperture is free it waits at the queue. -/
def askModule (s : State) (e : Env) (l : Nat) (q : Queue) (subop : Nat) (opnd : DWord) (extra : List Word) : State × LaneOut :=
  let at_ := portOf q.pa
  match s.sendModCmd at_.1 { op := modQop, subop := subop, addr := at_.2, opnd := opnd, world := (s.die (dieOf e.g.core)).world, asker := .lane e.gk l } with
  | some r => (r.1, .wait (.moduleCmd r.2 (s.home q.pa)) extra)
  | none => (s, .wait (.queue (s.home q.pa)) extra)

/-- A lane waits its turn at a queue; at a module it watches the descriptor's line (R352). -/
def waitAt (s : State) (e : Env) (q : Queue) : State × LaneOut :=
  let at_ := portOf q.pa
  (if q.home = 2 then s.modCommand at_.1 { op := modWatch, subop := 0, addr := at_.2, world := (s.die (dieOf e.g.core)).world } 0 0 else s,
    .wait (.queue (s.home q.pa)))

/-- A lane that waits for a page of its queue: between two steps at a module it stands where it was, so that it goes on with the same step (R166). -/
def Env.waitFor (e : Env) (w : Wait) : LaneOut :=
  match e.why with
  | some (.moduleStep pa stage) => .wait (.moduleStep pa stage) e.extra
  | _ => .wait w e.extra

/-- What the search for a lane's queue comes to, with the checks that every queue instruction makes; `races` says whether the instruction accesses the descriptor now, and writes it. -/
def withQueue (s : State) (e : Env) (l : Nat) (races : Queue → Option Bool) (items : Option Nat) (f : State → Queue → State × LaneOut) : State × LaneOut :=
  let va := e.pair l 0
  match s.findQueue (e.who l) va with
  | (s, .flt x) => (s, .fault x)
  | (s, .wait w) => (s, e.waitFor w)
  | (s, .found q) =>
    if (match items with | some d => d % (q.isz / 4) != 0 | none => false) then (s, .fault ⟨cQueue, 3, va⟩)
    else match (races q).bind fun writes => s.queueRace e q writes with
      | some n => (s, .fault ⟨cRace, n, va⟩)
      | none => f s q

/-- The slot of an item found for a lane, its race and poison checked. -/
def withSlot (s : State) (e : Env) (l : Nat) (q : Queue) (n : Nat) (a : Access) (f : State → Nat → State × LaneOut) : State × LaneOut :=
  let va := q.base + dword (n % q.cap * q.isz)
  match s.slotLoc (e.who l) q n a with
  | (s, .flt x) => (s, .fault x)
  | (s, .wait w) => (s, e.waitFor w)
  | (s, .found pa leaf) =>
    match s.raceRange e.gk (s.home pa) q.isz (covered pa leaf) a.writes true with
    | some k => (s, .fault ⟨cRace, k, va⟩)
    | none =>
      if !a.writes && (s.poisoned (s.home pa) q.isz).isSome then (s, .fault ⟨cPoison, 1, va⟩)
      else f ((s.recordRange e.gk e.iv (s.home pa) q.isz (covered pa leaf) a.writes true).cacheAccess e.g.core e.g.ctx pa leaf 3 a.writes) pa

/-- The item that a push carries: ISZ bytes from vD onward. -/
def itemOf (s : State) (e : Env) (l d : Nat) (n : Nat) : List Byte :=
  match s.gang? e.gk with
  | some g => (List.range (n / 4)).flatMap fun i => bytesOf 4 (g.readV l (d + i)).toNat
  | none => []

/-- The commit that a lane's reservation needs. -/
def Env.commit (e : Env) (s : State) (q : Queue) (n : Nat) (push : Bool) : QCommit := ⟨s.home q.pa, n, push, e.g.ctx, e.g.crew?⟩

/-- A push that finds room: reservation, item, commit in its turn (R166). -/
def pushNow (s : State) (e : Env) (l : Nat) (q : Queue) (item : List Byte) : State × LaneOut :=
  let n := s.qTres q.pa
  withSlot s e l q n .write fun s slot =>
    let s := (s.reservePush q.pa slot item).noteQueue e q true
    if s.commitTurn q.pa n true then (s.commitLater (e.commit s q n true), .done {})
    else (s, .wait (.queue (s.home q.pa)) (keepNum n))

/-- A push whose lane has no reservation: it waits while a lane stands before it or the queue is full; a module is asked for the reservation. -/
def pushStart (waiting : List Nat) (s : State) (e : Env) (l : Nat) (q : Queue) (item : List Byte) : State × LaneOut :=
  let pa := s.home q.pa
  if waiting.contains pa || s.queueAhead pa true e.since e.gk l then waitAt s e q
  else if q.home = 2 then askModule s e l q qPushRes 0 []
  else if s.qHasRoom q.pa q.cap then pushNow s e l q item
  else waitAt s e q

/-- The item of a push to a module is written where the module has reserved its place, and the commit is asked for (R166, R352). -/
def pushItem (s : State) (e : Env) (l : Nat) (q : Queue) (item : List Byte) (n : Nat) : State × LaneOut :=
  withSlot s e l q n .write fun s slot =>
    let s := ((s.putBytes slot item).dropCopies slot).noteQueue e q true
    askModule s e l q qPushCmt (dword n) (keepNum n)

/-- A push of a lane whose task is not replayable, or is pinned. -/
def pushDirect (waiting : List Nat) (s : State) (e : Env) (l : Nat) (q : Queue) (item : List Byte) : State × LaneOut :=
  match e.why, e.reserved with
  | some (.moduleStep _ 2), _ => (s, .done {})
  | some (.moduleStep _ _), some n => pushItem s e l q item n
  | _, some n =>
    if q.home = 2 then askModule s e l q qPushCmt (dword n) e.extra
    else if s.commitTurn q.pa n true then (s.commitLater (e.commit s q n true), .done {})
    else (s, .wait (.queue (s.home q.pa)) e.extra)
  | _, none => pushStart waiting s e l q item

/-- A lane that completes has read registers beside its operands: they are no longer L-pending (R46). -/
def LaneOut.reading (regs : List Nat) : LaneOut → LaneOut
  | .done d => .done { d with set := fun t => (d.set t).clearPending regs }
  | o => o

/-- The registers of an item of n bytes from vD on. -/
def itemRegs (d n : Nat) : List Nat := (List.range (n / 4)).map fun i => d + i

/-- The task of a gang defers a push to a queue: it is unpinned, and its log takes the item (R167, R300). -/
def State.defersPush (s : State) (g : Gang) (q : Queue) : Bool :=
  s.unpinnedOf g && match s.crewOf g with
    | none => false
    | some c => s.logFits c (16 + q.isz)

/-- A push of a lane whose item is known: an unpinned task defers it, or is pinned where its log overflows. A push to a module is a release at pod scope, which a lost store stops (R165, R344). -/
def pushOf (lost : Bool) (waiting : List Nat) (s : State) (e : Env) (l : Nat) (q : Queue) (item : List Byte) : State × LaneOut :=
  if lost && q.home == 2 then (s.mapGang e.gk fun g => g.dropLost l, .fault ⟨cXlatePerm, 8, e.pair l 0⟩)
  else if s.defersPush e.g q then (s.defer e.g.crew (.push (e.tidOf l) (s.home q.pa) item), .done {})
  else match s.pin e.g with
    | .ok t => pushDirect waiting t e l q item
    | .error qpa => (s, .wait (.queue qpa) e.extra)

/-- QPUSH of one lane: the item's register lines are brought in, and its registers count as read (R46, R253). A deferred push accesses nothing yet. -/
def pushLane (lost : Nat → Bool) (d : Nat) (waiting : List Nat) (s : State) (e : Env) (l : Nat) : State × LaneOut :=
  withQueue s e l (fun q => if s.defersPush e.g q then none else some true) (some d) fun s q =>
    let s := s.bringLines e.gk (itemRegs d q.isz)
    let r := pushOf (lost l) waiting s e l q (itemOf s e l d q.isz)
    (r.1, r.2.reading (itemRegs d q.isz))

/-- The result of a pop: the item in vD onward, and what else is written. -/
def popDone (item : List Byte) (also : List (Nat × Word)) : LaneOut := .done { ws := wordsOf (item.length / 4) item, also := also }

/-- A pop's item is read and its HEAD commit made now, in its turn, or at retirement. -/
def popItem (s : State) (e : Env) (l : Nat) (q : Queue) (n : Nat) (also : List (Nat × Word)) (reserve : State → State) : State × LaneOut :=
  withSlot s e l q n .read fun s slot =>
    let item := readBytes s.mem (s.home slot) q.isz
    let s := (reserve s).noteQueue e q true
    if s.unpinnedOf e.g then
      (s.mapCrew e.g.crew fun c => { c with pops := c.pops ++ [⟨e.tidOf l, s.home q.pa, n⟩] }, popDone item also)
    else if q.home = 2 then askModule s e l q qPopCmt (dword n) (keepNum n ++ wordsOf (q.isz / 4) item)
    else if s.commitTurn q.pa n false then (s.commitLater (e.commit s q n false), popDone item also)
    else (s, .wait (.queue (s.home q.pa)) (keepNum n ++ wordsOf (q.isz / 4) item))

/-- A reservation kept for a task that is run again is used up. -/
def State.useHeld (s : State) (g : Gang) (p : PopRes) : State := s.mapCrew g.crew fun c => { c with held := c.held.erase p }

/-- The item that a waiting pop has read. -/
def Env.keptItem (e : Env) : List Byte := (e.extra.drop 2).flatMap fun w => bytesOf 4 w.toNat

/-- A pop whose lane has no reservation: `try_` answers at once where there is no item, else the lane waits while a lane stands before it or the queue is empty. A module is asked for the reservation; its answer tells `try_` that there is no item, so that it stands behind the lower lanes of its instruction alone. -/
def popStart (try_ : Bool) (hit miss : List (Nat × Word)) (waiting : List Nat) (s : State) (e : Env) (l : Nat) (q : Queue) : State × LaneOut :=
  let pa := s.home q.pa
  let behind := waiting.contains pa || if try_ then s.lowerAhead pa e.since e.gk l else s.queueAhead pa false e.since e.gk l
  if q.home = 2 then
    if behind then waitAt s e q else askModule s e l q qPopRes 0 []
  else if try_ && !s.qHasItem q.pa then (s.noteQueue e q true, .done { also := miss })
  else if !try_ && (behind || !s.qHasItem q.pa) then waitAt s e q
  else popItem s e l q (s.qHres q.pa) hit fun s => s.reservePop q.pa

/-- A pop of a lane. -/
def popLane (d : Nat) (try_ : Bool) (hit miss : List (Nat × Word)) (waiting : List Nat) (s : State) (e : Env) (l : Nat) : State × LaneOut :=
  withQueue s e l (fun _ => some true) (some d) fun s q =>
    match e.why, e.reserved with
    | some (.moduleStep _ 0), _ => (s.noteQueue e q true, .done { also := miss })
    | some (.moduleStep _ 1), some n => popItem s e l q n hit id
    | some (.moduleStep _ _), _ => (s, popDone e.keptItem hit)
    | _, some n =>
      if q.home = 2 then askModule s e l q qPopCmt (dword n) e.extra
      else if s.commitTurn q.pa n false then (s.commitLater (e.commit s q n false), popDone e.keptItem hit)
      else (s, .wait (.queue (s.home q.pa)) e.extra)
    | _, none =>
      match s.heldPop e.g (s.home q.pa) with
      | some p => popItem s e l q p.num hit fun s => s.useHeld e.g p
      | none => popStart try_ hit miss waiting s e l q

/-- The form of a queue instruction. -/
def queueForm (d : Nat) (a : Src) : Form := { sCls := true, rbCls := true, srcs := [.pair a], dst := .v d, width := 16, sync := true, mem := true }

/-- No query result is still due in the registers of the item of a lane (R225). -/
def itemsReady (d : Nat) (s : State) (e : Env) : Bool :=
  !e.lanes.any fun l => match s.queuePlace e.g.ctx (e.pair l 0) with
    | some pa => e.g.queries.any fun q => q.1 == l && (itemRegs d (s.queueOf pa 0).isz).contains q.2.1
    | none => false

/-- QPUSH (R164). -/
def opQpush (d : Nat) (a : Src) (_ : Hints) : Op :=
  { form := { queueForm d a with dst := .none, srcs := [.pair a, .reg d 1] }
    ready := fun s e => releaseAt 4 s e && itemsReady d s e
    body := fun s e => queueLanes (pushLane (storeLost s e) d) s e }
/-- The meaning of QPUSH. -/
def execQpush (d : Nat) (a : Src) (s : State) : Host.Outcome State Fault Refusal := run (.qpush d a) (opQpush d a) s

/-- QPOP (R164). -/
def opQpop (d : Nat) (a : Src) (_ : Hints) : Op :=
  { form := { queueForm d a with lCls := true }
    ready := releaseAt 4
    body := queueLanes (popLane d false [] []) }
/-- The meaning of QPOP. -/
def execQpop (d : Nat) (a : Src) (s : State) : Host.Outcome State Fault Refusal := run (.qpop d a) (opQpop d a) s

/-- The v register that a code names. -/
def vNumber : Src → Option Nat
  | .v n => some n
  | _ => none

/-- QTRYPOP (R164). -/
def opQtrypop (d : Nat) (a : Src) (b : Src) (_ : Hints) : Op :=
  { form := { queueForm d a with lCls := true, illegal := if (vNumber b).isNone then some 8 else none, also := (vNumber b).toList }
    ready := releaseAt 4
    body := queueLanes (popLane d true [((vNumber b).getD 0, 1)] [((vNumber b).getD 0, 0)]) }
/-- The meaning of QTRYPOP. -/
def execQtrypop (d : Nat) (a : Src) (b : Src) (s : State) : Host.Outcome State Fault Refusal := run (.qtrypop d a b) (opQtrypop d a b) s

/-- QLEN of one lane: TAIL − HRES; a module is asked after the lower lanes of the instruction have been answered (R165). -/
def lenLane (waiting : List Nat) (s : State) (e : Env) (l : Nat) : State × LaneOut :=
  withQueue s e l (fun _ => some false) none fun s q =>
    match e.why with
    | some (.moduleStep _ _) => (s.noteQueue e q false, .done { ws := [e.extra.getD 0 0] })
    | _ =>
      if q.home = 2 then
        if waiting.contains (s.home q.pa) || s.lowerAhead (s.home q.pa) e.since e.gk l then waitAt s e q else askModule s e l q qLenStep 0 []
      else (s.noteQueue e q false, .done { ws := [word (s.qTail q.pa - s.qHres q.pa)] })

/-- QLEN (R164). -/
def opQlen (d : Nat) (a : Src) (_ : Hints) : Op :=
  { form := { queueForm d a with lCls := true, width := 1 }
    body := queueLanes lenLane }
/-- The meaning of QLEN. -/
def execQlen (d : Nat) (a : Src) (s : State) : Host.Outcome State Fault Refusal := run (.qlen d a) (opQlen d a) s

end Sys2Proof.Machine
end

