-- ==== Sys2Proof/Machine/OpTable.lean ====
section
/-! DEFINITION. The operation of each instruction word: what its meaning runs, for the looks that the issue and a woken lane take at it. -/

namespace Sys2Proof.Machine

/-- The operation of an instruction word with its bound hints; a step of the device has none. -/
def opOf (i : Instr) (h : Hints) : Option Op :=
  match i with
  | .nop => some (opNop h)
  | .yield => some (opYield h)
  | .exit => some (opExit h)
  | .taskend => some (opTaskend h)
  | .add nw d a b => some (opAdd nw d a b h)
  | .sub nw d a b => some (opSub nw d a b h)
  | .min nw d a b => some (opMin nw d a b h)
  | .max nw d a b => some (opMax nw d a b h)
  | .addi nw d a imm => some (opAddi nw d a imm h)
  | .mini nw d a imm => some (opMini nw d a imm h)
  | .maxi nw d a imm => some (opMaxi nw d a imm h)
  | .minu nw d a b => some (opMinu nw d a b h)
  | .maxu nw d a b => some (opMaxu nw d a b h)
  | .abs nw d a => some (opAbs nw d a h)
  | .neg nw d a => some (opNeg nw d a h)
  | .mul nw d a b => some (opMul nw d a b h)
  | .mulh nw d a b => some (opMulh nw d a b h)
  | .mulhu nw d a b => some (opMulhu nw d a b h)
  | .mad nw d a b => some (opMad nw d a b h)
  | .and nw d a b => some (opAnd nw d a b h)
  | .or nw d a b => some (opOr nw d a b h)
  | .xor nw d a b => some (opXor nw d a b h)
  | .andn nw d a b => some (opAndn nw d a b h)
  | .andi nw d a imm => some (opAndi nw d a imm h)
  | .ori nw d a imm => some (opOri nw d a imm h)
  | .xori nw d a imm => some (opXori nw d a imm h)
  | .shl nw d a b => some (opShl nw d a b h)
  | .shr nw d a b => some (opShr nw d a b h)
  | .sar nw d a b => some (opSar nw d a b h)
  | .rol nw d a b => some (opRol nw d a b h)
  | .shli nw d a imm => some (opShli nw d a imm h)
  | .shri nw d a imm => some (opShri nw d a imm h)
  | .sari nw d a imm => some (opSari nw d a imm h)
  | .roli nw d a imm => some (opRoli nw d a imm h)
  | .clz nw d a => some (opClz nw d a h)
  | .popc nw d a => some (opPopc nw d a h)
  | .brev nw d a => some (opBrev nw d a h)
  | .bytep nw d a b => some (opBytep nw d a b h)
  | .bfe nw d a b => some (opBfe nw d a b h)
  | .bfeu nw d a b => some (opBfeu nw d a b h)
  | .bfi nw d a b => some (opBfi nw d a b h)
  | .seq nw d a b => some (opSeq nw d a b h)
  | .sne nw d a b => some (opSne nw d a b h)
  | .slt nw d a b => some (opSlt nw d a b h)
  | .sle nw d a b => some (opSle nw d a b h)
  | .sltu nw d a b => some (opSltu nw d a b h)
  | .sleu nw d a b => some (opSleu nw d a b h)
  | .sel nw d a b => some (opSel nw d a b h)
  | .mov nw d a => some (opMov nw d a h)
  | .add64 nw d a b => some (opAdd64 nw d a b h)
  | .sub64 nw d a b => some (opSub64 nw d a b h)
  | .mad64 nw d a b => some (opMad64 nw d a b h)
  | .shl64 nw d a b => some (opShl64 nw d a b h)
  | .sext8 nw d a => some (opSext8 nw d a h)
  | .sext16 nw d a => some (opSext16 nw d a h)
  | .zext8 nw d a => some (opZext8 nw d a h)
  | .zext16 nw d a => some (opZext16 nw d a h)
  | .fadd nw d a b => some (opFadd nw d a b h)
  | .fsub nw d a b => some (opFsub nw d a b h)
  | .fmul nw d a b => some (opFmul nw d a b h)
  | .fma nw d a b => some (opFma nw d a b h)
  | .fmin nw d a b => some (opFmin nw d a b h)
  | .fmax nw d a b => some (opFmax nw d a b h)
  | .fabs nw d a => some (opFabs nw d a h)
  | .fneg nw d a => some (opFneg nw d a h)
  | .fseq nw d a b => some (opFseq nw d a b h)
  | .fslt nw d a b => some (opFslt nw d a b h)
  | .fsle nw d a b => some (opFsle nw d a b h)
  | .fsun nw d a b => some (opFsun nw d a b h)
  | .rcp nw d a => some (opRcp nw d a h)
  | .rsq nw d a => some (opRsq nw d a h)
  | .sqrt nw d a => some (opSqrt nw d a h)
  | .ex2 nw d a => some (opEx2 nw d a h)
  | .lg2 nw d a => some (opLg2 nw d a h)
  | .tanh nw d a => some (opTanh nw d a h)
  | .floor nw d a => some (opFloor nw d a h)
  | .frint nw d a => some (opFrint nw d a h)
  | .badd2 nw d a b => some (opBadd2 nw d a b h)
  | .bmul2 nw d a b => some (opBmul2 nw d a b h)
  | .bfma2 nw d a b => some (opBfma2 nw d a b h)
  | .bmax2 nw d a b => some (opBmax2 nw d a b h)
  | .hadd2 nw d a b => some (opHadd2 nw d a b h)
  | .hmul2 nw d a b => some (opHmul2 nw d a b h)
  | .hfma2 nw d a b => some (opHfma2 nw d a b h)
  | .hmax2 nw d a b => some (opHmax2 nw d a b h)
  | .f2i nw d a => some (opF2i nw d a h)
  | .i2f nw d a => some (opI2f nw d a h)
  | .f2n nw d a b => some (opF2n nw d a b h)
  | .n2f nw d a b => some (opN2f nw d a b h)
  | .f2bf2 nw d a b => some (opF2bf2 nw d a b h)
  | .f2h2 nw d a b => some (opF2h2 nw d a b h)
  | .bf2f nw d a b => some (opBf2f nw d a b h)
  | .h2f nw d a b => some (opH2f nw d a b h)
  | .qf8 nw d a => some (opQf8 nw d a h)
  | .qf4 nw d a => some (opQf4 nw d a h)
  | .dq8 nw d a b => some (opDq8 nw d a b h)
  | .dq4 nw d a b => some (opDq4 nw d a b h)
  | .uadd nw d a b => some (opUadd nw d a b h)
  | .usub nw d a b => some (opUsub nw d a b h)
  | .umul nw d a b => some (opUmul nw d a b h)
  | .umov nw d a => some (opUmov nw d a h)
  | .uand nw d a b => some (opUand nw d a b h)
  | .uor nw d a b => some (opUor nw d a b h)
  | .uxor nw d a b => some (opUxor nw d a b h)
  | .ushr nw d a b => some (opUshr nw d a b h)
  | .ushl nw d a b => some (opUshl nw d a b h)
  | .uadd64 nw d a b => some (opUadd64 nw d a b h)
  | .useq nw d a b => some (opUseq nw d a b h)
  | .uslt nw d a b => some (opUslt nw d a b h)
  | .rdlane nw d a b => some (opRdlane nw d a b h)
  | .umin nw d a b => some (opUmin nw d a b h)
  | .umax nw d a b => some (opUmax nw d a b h)
  | .uaddi nw d a imm => some (opUaddi nw d a imm h)
  | .shflIdx nw d a b => some (opShflIdx nw d a b h)
  | .shflUp nw d a b => some (opShflUp nw d a b h)
  | .shflDn nw d a b => some (opShflDn nw d a b h)
  | .shflXor nw d a b => some (opShflXor nw d a b h)
  | .voteAll nw d a => some (opVoteAll nw d a h)
  | .voteAny nw d a => some (opVoteAny nw d a h)
  | .ballot nw d a => some (opBallot nw d a h)
  | .matchAny nw d a => some (opMatchAny nw d a h)
  | .radd nw d a => some (opRadd nw d a h)
  | .rmin nw d a => some (opRmin nw d a h)
  | .rmax nw d a => some (opRmax nw d a h)
  | .rfadd nw d a => some (opRfadd nw d a h)
  | .brz a disp => some (opBrz a disp h)
  | .brnz a disp => some (opBrnz a disp h)
  | .call a disp => some (opCall a disp h)
  | .jmpi a => some (opJmpi a h)
  | .ret a => some (opRet a h)
  | .meet a => some (opMeet a h)
  | .rdmt nw d => some (opRdmt nw d h)
  | .jf a => some (opJf a h)
  | .callf nw d a => some (opCallf nw d a h)
  | .cfetch a b => some (opCfetch a b h)
  | .cqry nw d a => some (opCqry nw d a h)
  | .ldB d a b => some (opLdB d a b h)
  | .ldH d a b => some (opLdH d a b h)
  | .ldW d a b => some (opLdW d a b h)
  | .ldD d a b => some (opLdD d a b h)
  | .ldBu d a b => some (opLdBu d a b h)
  | .ldHu d a b => some (opLdHu d a b h)
  | .ldQ d a b => some (opLdQ d a b h)
  | .ldF d a b => some (opLdF d a b h)
  | .stB d a b => some (opStB d a b h)
  | .stH d a b => some (opStH d a b h)
  | .stW d a b => some (opStW d a b h)
  | .stD d a b => some (opStD d a b h)
  | .stQ d a b => some (opStQ d a b h)
  | .ldxW d a b => some (opLdxW d a b h)
  | .ldxD d a b => some (opLdxD d a b h)
  | .ldxQ d a b => some (opLdxQ d a b h)
  | .stxW d a b => some (opStxW d a b h)
  | .stxD d a b => some (opStxD d a b h)
  | .stxQ d a b => some (opStxQ d a b h)
  | .amoAdd nw d a b => some (opAmoAdd nw d a b h)
  | .amoMin nw d a b => some (opAmoMin nw d a b h)
  | .amoMax nw d a b => some (opAmoMax nw d a b h)
  | .amoAnd nw d a b => some (opAmoAnd nw d a b h)
  | .amoOr nw d a b => some (opAmoOr nw d a b h)
  | .amoXor nw d a b => some (opAmoXor nw d a b h)
  | .amoXchg nw d a b => some (opAmoXchg nw d a b h)
  | .amoCas nw d a b => some (opAmoCas nw d a b h)
  | .amoFadd nw d a b => some (opAmoFadd nw d a b h)
  | .amoBfadd2 nw d a b => some (opAmoBfadd2 nw d a b h)
  | .amoMinu nw d a b => some (opAmoMinu nw d a b h)
  | .amoMaxu nw d a b => some (opAmoMaxu nw d a b h)
  | .amoxAdd nw d a b => some (opAmoxAdd nw d a b h)
  | .amoxCas nw d a b => some (opAmoxCas nw d a b h)
  | .amoxXchg nw d a b => some (opAmoxXchg nw d a b h)
  | .amoxFadd nw d a b => some (opAmoxFadd nw d a b h)
  | .fence => some (opFence h)
  | .fencex a b => some (opFencex a b h)
  | .bar => some (opBar h)
  | .gbar a => some (opGbar a h)
  | .qpush d a => some (opQpush d a h)
  | .qpop d a => some (opQpop d a h)
  | .qtrypop d a b => some (opQtrypop d a b h)
  | .qlen d a => some (opQlen d a h)
  | .xqCp nw d a => some (opXqCp nw d a h)
  | .xqGx nw d a => some (opXqGx nw d a h)
  | .xqNe nw d a => some (opXqNe nw d a h)
  | .xqCl nw d a => some (opXqCl nw d a h)
  | .waith a b => some (opWaith a b h)
  | .hset a b => some (opHset a b h)
  | .hqry nw d a b => some (opHqry nw d a b h)
  | .hbind nw d a b => some (opHbind nw d a b h)
  | .tlrSet a b => some (opTlrSet a b h)
  | .tlrInv a => some (opTlrInv a h)
  | .tlrRd nw d a b => some (opTlrRd nw d a b h)
  | .mma d a b => some (opMma d a b h)
  | .mmas a b => some (opMmas a b h)
  | .podid nw d => some (opPodid nw d h)
  | .podmap nw d a => some (opPodmap nw d a h)
  | .trap a => some (opTrap a h)
  | .svc d a b => some (opSvc d a b h)
  | .brk => some (opBrk h)
  | .assert a b => some (opAssert a b h)
  | .frd d a b => some (opFrd d a b h)
  | .fwr d a b => some (opFwr d a b h)
  | .fres nw d a b => some (opFres nw d a b h)
  | .fkill nw d a b => some (opFkill nw d a b h)
  | .uliSend a b => some (opUliSend a b h)
  | .uliWait d a b => some (opUliWait d a b h)
  | .uliMask nw d a b => some (opUliMask nw d a b h)
  | .uliBind nw d a => some (opUliBind nw d a h)
  | .launch nw d a b => some (opLaunch nw d a b h)
  | .spawn nw d a => some (opSpawn nw d a h)
  | .rdsr nw d a => some (opRdsr nw d a h)
  | .wrsr a b => some (opWrsr a b h)
  | .invl a b => some (opInvl a b h)
  | .invla a => some (opInvla a h)
  | .pgqry d a => some (opPgqry d a h)
  | .hxImm _ => none
  | .hxExt _ => none
  | .hxRegion _ => none
  | .hxSched _ _ => none
  | .reservedEncoding _ => none
  | .ageingForce _ _ => none
  | .blockedWake _ _ => none
  | .fullEmptyWaitSatisfied _ _ => none
  | .queueReexamine _ _ => none
  | .uliWaitTimeout _ => none
  | .segmentFetchLanded _ _ _ => none
  | .segmentFetchFaulted _ _ _ => none
  | .pathSegmentRequest _ => none
  | .segmentRequestRetry _ _ _ => none
  | .registerLineFill _ _ => none
  | .registerUncorrectable _ _ _ _ => none
  | .eccCorrection _ => none
  | .memoryUncorrectable _ _ => none
  | .heldRecordQueue _ => none
  | .handlerSpawn _ _ _ => none
  | .recordDeliverOwner _ _ => none
  | .handlerSlotFree _ _ => none
  | .pubStore _ => none
  | .ringAccept _ => none
  | .copy _ _ => none
  | .copy2d _ _ => none
  | .fillmc _ _ => none
  | .copymma _ _ => none
  | .fill _ _ => none
  | .copymmaFollowOn _ _ => none
  | .gather _ _ => none
  | .scatter _ _ => none
  | .scatteradd _ _ => none
  | .send _ _ => none
  | .rmaw _ _ => none
  | .contrib _ _ => none
  | .readsum _ _ => none
  | .readround _ _ => none
  | .relay _ _ => none
  | .subtransferComplete _ _ _ => none
  | .handleDestComplete _ _ => none
  | .handleSourceRelease _ _ => none
  | .tileRecordEvict _ _ => none
  | .arrayOperationStart _ _ => none
  | .arrayResultWrite _ _ => none
  | .launchStart _ _ => none
  | .launchRetire _ _ => none
  | .balancerDecision _ _ => none
  | .balancerPeriodic _ _ => none
  | .watchedQueueReexamine _ _ _ _ => none
  | .cacheBlockHandover _ => none
  | .taskStart _ => none
  | .taskRetire _ => none
  | .taskAbort _ _ => none
  | .slotPreemption _ => none
  | .preempt _ _ => none
  | .preemptResume _ _ => none
  | .contextSwitchOut _ _ => none
  | .switchedResume _ _ => none
  | .contextWake _ _ => none
  | .contextRunControl _ _ => none
  | .crewKill _ => none
  | .contextReset _ => none
  | .tenancyResetDrain _ => none
  | .tenancyResetCancel _ => none
  | .packageReset => none
  | .boot _ => none
  | .uliSendArrival _ => none
  | .refusalNotice _ => none
  | .replicationComplete _ _ => none
  | .collapseComplete _ _ => none
  | .pagePin _ _ _ _ => none
  | .pinExpire _ _ => none
  | .linkFail _ _ => none
  | .linkRestore _ _ => none
  | .fibrePairFail _ _ => none
  | .spareRetrained _ _ => none
  | .retrain _ _ => none
  | .portTrained _ _ => none
  | .portTrainingTimeout _ => none
  | .portLost _ _ => none
  | .moduleResponse _ _ => none
  | .moduleWaitRetry _ => none
  | .moduleNotice _ _ => none
  | .incastNotice _ => none
  | .incastRecovery _ => none
  | .headDownNotice _ => none
  | .lossNotice _ _ => none
  | .restoreNotice _ _ => none
  | .pairMessageArrival _ _ _ => none
  | .pairAckArrival _ _ => none
  | .pairResendTimeout _ => none
  | .relayRequest _ => none
  | .hostSendPageStore _ _ _ _ _ => none
  | .hostCxlAccess _ _ _ => none
  | .controlMessage _ _ _ _ => none
  | .fenceTimeout _ => none
  | .netPacketTransmit _ _ _ => none
  | .netPacketReceive _ => none
  | .netAckReceive _ _ _ => none
  | .netRtoExpire _ _ _ => none
  | .worldAssignGo _ _ _ _ => none
  | .keyGenerate _ _ => none
  | .scrubComplete _ _ => none
  | .entropyTestFail _ => none
  | .entropyHealthReset _ => none
  | .entropyRecovered _ => none
  | .frameOwnerWrite _ _ _ => none
  | .ownershipRequest _ => none
  | .ownershipGrantDecision _ => none
  | .ownershipRelease _ => none
  | .ownerLinkLoss => none
  | .bmcSilenceTimeout => none
  | .claimWrite _ _ _ _ _ _ _ => none
  | .handlerTableWrite _ _ _ _ => none
  | .vaultSettingsWrite _ _ _ => none
  | .extendMr _ _ _ => none
  | .capportFrd _ _ _ => none
  | .capportFwr _ _ _ _ => none
  | .capportFres _ _ _ _ => none
  | .capportFkill _ _ _ => none
  | .controlSpaceWrite _ _ => none
  | .getVersion => none
  | .getCapabilities => none
  | .negotiateAlgorithms _ _ => none
  | .getDigests => none
  | .getCertificate _ _ => none
  | .challenge _ => none
  | .getMeasurements _ => none
  | .keyExchange _ => none
  | .spdmFinish _ => none
  | .thermalThrottle _ => none
  | .thermalTrip _ => none
  | .powerGate _ => none
  | .accessPerformed _ _ => none
  | .frameZeroed _ => none
  | .remoteFormReturn _ _ => none
  | .powerController _ => none

end Sys2Proof.Machine
end

