-- ==== Sys2Proof/Machine/Wake.lean ====
section
/-! DEFINITION. Waits that end (R16, R152, R165, R219, R347 to R352), code segments and register lines that arrive (R133 to R135, R253, R409), forced paths (R20) and lost issue slots (R305). -/

namespace Sys2Proof.Machine

/-! ## Going on with a waiting instruction (R16, R144, R152, R165) -/

/-- Two lanes wait in the same instruction for the same thing since the same moment, with the same done so far. -/
def Thread.waitsWith (a b : Thread) : Bool :=
  a.pc == b.pc && a.run == .blocked && b.run == .blocked && match a.wait, b.wait with
    | some p, some q => p.insn == q.insn && p.hints == q.hints && p.extra == q.extra && p.why == q.why && p.since == q.since
    | _, _ => false

/-- What the lanes of one wait execute with: the operand words that each lane read at issue. -/
def wakeEnv (gk : Nat) (g : Gang) (lanes : List Nat) (p : Pend) : Env :=
  ⟨gk, g, lanes, p.hints.x, fun l => match (g.th l).wait with | some q => q.vals | none => [], some p.why, p.since, p.extra, some p.iv⟩

/-- The lanes of one wait look again: those whose condition holds complete their instruction, or fault; the others wait on as before. A lane that completes an instruction of class S, or freezes, reaches an event of R46, at which the gang gives up its issue slot (R304). -/
def Op.goOn (o : Op) (s : State) (gk : Nat) (g : Gang) (lanes : List Nat) (p : Pend) : State :=
  let e := wakeEnv gk g lanes p
  let r := o.body (s.bringLines gk (o.form.target ++ linesOf [] o.form.kTarget)) e
  match r.1.gang? gk with
  | none => r.1
  | some g1 =>
    let g1 := match firstDone r.2 with
      | some d => (o.form.kWrites d).foldl (fun g k => g.writeK k.1 k.2) g1
      | none => g1
    let z := o.form.settleLanes ⟨p.insn, p.hints, e.vals, p.since, some p.iv⟩ g1 r.2
    let g1 := if o.form.sync && r.2.any (fun x => x.2.completes) then z.1.endInterval else z.1
    let g1 := if r.2.any (fun x => x.2.completes) then { g1 with guard := false } else g1
    let g1 := if o.form.joint then g1.park ⟨p.insn, p.hints, e.vals, p.since, some p.iv⟩ r.2 else g1
    let s := (r.1.setGang gk g1).freezeAll gk z.2
    if (o.form.sCls && r.2.any fun x => x.2.completes) || !z.2.isEmpty then s.settleEvent gk else s.settleGang gk

/-- Lanes that wait for the segment of their own PC (R409): RUN once it is RESIDENT, CODE_SEG 0x04 where its fetch ended FAULTED. -/
def State.wakeOwn (s : State) (gk : Nat) (g : Gang) (lanes : List Nat) (seg : Nat) : State :=
  match s.seg? g.core g.ctx seg with
  | none => s
  | some x =>
    match x.st with
    | .resident => (s.setGang gk (g.mapLanes lanes fun t => { t with run := .run, wait := none })).settleGang gk
    | .faulted => (s.freezeAll gk (lanes.map fun l => (l, ⟨cCodeSeg, 4, x.va⟩))).settleEvent gk
    | _ => s

/-- The lanes of one wait look again. -/
def State.wakeGroup (s : State) (gk : Nat) (lanes : List Nat) : State :=
  match s.gang? gk with
  | none => s
  | some g =>
    match (g.th (lanes.headD 0)).wait with
    | none => s
    | some p =>
      match p.why with
      | .ownSegment seg => s.wakeOwn gk g lanes seg
      | .access => s
      | _ =>
        match opOf p.insn p.hints with
        | some o => o.goOn s gk g lanes p
        | none => s

/-- A lane waits at a granule for its full-empty bit. -/
def Pend.atGranule (p : Pend) : Bool := match p.why with | .fullEmpty _ _ => true | _ => false

/-- Waiting lanes look again, wait by wait in the order of their lowest lanes; lanes at a granule are satisfied one by one (R152). -/
def State.wakeLanes (gk : Nat) : Nat → State → List Nat → State
  | 0, s, _ => s
  | _, s, [] => s
  | fuel + 1, s, l :: rest =>
    match s.gang? gk with
    | none => s
    | some g =>
      let same := rest.filter fun m => (g.th l).waitsWith (g.th m) && !((g.th l).wait.any Pend.atGranule)
      State.wakeLanes gk fuel (s.wakeGroup gk (l :: same)) (rest.filter fun m => !same.contains m)

/-- The BLOCKED lanes of a gang whose wait satisfies a test. -/
def Gang.waiting (g : Gang) (p : Pend → Bool) : List Nat :=
  (List.range 32).filter fun l => (g.th l).run == .blocked && match (g.th l).wait with
    | some w => p w
    | none => false

/-- The waiting lanes of a gang that satisfy a test look again. -/
def State.wakeWhere (s : State) (gk : Nat) (p : Pend → Bool) (lanes : Nat → Bool) : State :=
  match s.gang? gk with
  | none => s
  | some g => State.wakeLanes gk 32 s ((g.waiting p).filter lanes)

/-- A lane waits for the response to a module command, and for nothing else. -/
def Pend.asksModule (p : Pend) : Bool := match p.why with | .moduleCmd _ _ => true | _ => false
/-- A lane waits at a queue. -/
def Pend.atQueue (p : Pend) : Bool := match p.why with | .queue _ => true | _ => false
/-- A lane waits in ULI.WAIT, and its timeout has expired. -/
def Pend.expired (p : Pend) (clock : Nat) : Bool := match p.why with | .interrupt _ u => u != 0 && decide (u ≤ clock) | _ => false

/-- BLOCKED_WAKE (R16). The waiting lanes of a gang in a mask look at what they wait for. A lane whose condition holds completes its instruction, or freezes where the awaited operation faults; the others wait on. -/
def execBlockedWake (g mask : Nat) (s : State) : Host.Outcome State Fault Refusal :=
  .next (s.wakeWhere g (fun p => !p.asksModule) mask.testBit)

/-- FULL_EMPTY_WAIT_SATISFIED (R152). A lane that waits at a granule finds its full-empty bit in the awaited state, and performs its access. -/
def execFullEmptyWaitSatisfied (g lane : Nat) (s : State) : Host.Outcome State Fault Refusal :=
  .next (s.wakeWhere g Pend.atGranule fun l => l == lane)

/-- The commits whose reservations are next in their queues are made: the ones before them may have been made by other agents (R166, R337). -/
def State.settleQueues (s : State) : State := (s.commits.map fun c => c.pa).foldl (fun s pa => s.settleCommits pa (s.commits.length + 1)) s

/-- QUEUE_REEXAMINE (R165, R166). Waiting commits are looked at again, and a lane that waits at a queue looks at it. -/
def execQueueReexamine (g lane : Nat) (s : State) : Host.Outcome State Fault Refusal :=
  .next (s.settleQueues.wakeWhere g Pend.atQueue fun l => l == lane)

/-- ULI_WAIT_TIMEOUT (R219). The lanes of a gang whose ULI.WAIT has reached its timeout complete; without a deliverable vector they receive zeros. -/
def execUliWaitTimeout (g : Nat) (s : State) : Host.Outcome State Fault Refusal :=
  .next (s.wakeWhere g (fun p => p.expired s.clock) fun _ => true)

/-! ## Responses of modules (R347 to R349, R352) -/

/-- A command is gone. -/
def State.dropModCmd (s : State) (tag : Nat) : State := { s with modCmds := s.modCmds.filter fun c => c.tag != tag }

/-- A command waits for its notice, or no longer. -/
def State.setModWait (s : State) (p : ModCmd → Bool) (w : Bool) : State :=
  { s with modCmds := s.modCmds.map fun c => if p c then { c with waiting := w } else c }

/-- The waiting operation of the lane that asked for a command. -/
def State.askerPend (s : State) (c : ModCmd) : Option (Nat × Nat × Pend) :=
  match c.asker with
  | .device => none
  | .lane gk l =>
    match s.gang? gk with
    | none => none
    | some g =>
      match (g.th l).wait with
      | some p => (match p.why with | .moduleCmd tag _ => if tag = c.tag ∧ (g.th l).run = .blocked then some (gk, l, p) else none | _ => none)
      | none => none

/-- The module's range check of a command (R350): QOP needs atomic permission. -/
def State.modAllowed (s : State) (c : ModCmd) : Bool :=
  match List.find? (fun (p : Nat × Port) => p.2.module == c.module && p.2.inService) s.ports with
  | some p => s.granted c.module p.2.head c.world c.addr 64 4
  | none => false

/-- The status with which a module answers a QOP command (R348, R350): 0 DONE, 1 WAIT, 3 RANGE. -/
def State.modStatus (s : State) (c : ModCmd) : Nat := if !s.modAllowed c then 3 else if s.qopReady c then 0 else 1

/-- The response line of a command's slot (R347). -/
def State.putResponse (s : State) (tag status : Nat) (value : DWord) : State :=
  s.mapPort (tagPort tag) fun p => { p with slots := p.slots.map fun x => if x.2.tag == tag then (x.1, { x.2 with status := some status, value := value }) else x }

/-- A waiting lane goes on to another wait of its instruction. -/
def State.setPend (s : State) (gk l : Nat) (p : Pend) : State := s.mapGang gk fun g => g.setTh l { g.th l with wait := some p }

/-- The words of the item that a lane's push carries. -/
def State.pushWords (s : State) (gk l pa : Nat) (i : Instr) : List Word :=
  match i, s.gang? gk with
  | .qpush d _, some g => (List.range ((s.queueOf pa 0).isz / 4)).map fun i => g.readV l (d + i)
  | _, _ => []

/-- The lines of a push's item. -/
def State.pushLines (s : State) (pa : Nat) (i : Instr) : List Nat :=
  match i with
  | .qpush d _ => (List.range ((s.queueOf pa 0).isz / 4)).map fun k => d + k
  | _ => []

/-- What a lane has once its module command is done (R352): a reservation with its item due, a step made, or the length of the queue. -/
def doneStep (c : ModCmd) (pa : Nat) (p : Pend) (value : DWord) (item : List Word) : Pend :=
  let n := [loOf value, hiOf value]
  if c.subop = qPushRes then { p with why := .moduleStep pa 1, extra := n ++ item }
  else if c.subop = qPopRes then { p with why := .moduleStep pa 1, extra := n }
  else if c.subop = qLenStep then { p with why := .moduleStep pa 2, extra := [loOf value] }
  else { p with why := .moduleStep pa 2 }

/-- A command's response reaches the lane that asked (R348, R349, R352). DONE: the step has been made at the module, and the lane goes on with it. WAIT: a QTRYPOP finds no item (R164), any other lane waits for the notice. RANGE freezes it. -/
def State.respond (s : State) (tag status : Nat) : State :=
  match s.modCmds.find? fun c => c.tag == tag with
  | none => s
  | some c =>
    match s.askerPend c with
    | none => s.dropModCmd tag
    | some (gk, l, p) =>
      if status ≠ s.modStatus c then s
      else if status = 0 then
        let r := s.qopStep c
        let s := ((r.1.dropModCmd tag).putResponse tag 0 r.2).bringLines gk (s.pushLines c.pa p.insn)
        s.setPend gk l (doneStep c c.pa p r.2 (s.pushWords gk l c.pa p.insn))
      else if status = 1 then
        match p.insn with
        | .qtrypop _ _ _ =>
          if c.subop = qPopRes then ((s.dropModCmd tag).putResponse tag 1 0).setPend gk l { p with why := .moduleStep c.pa 0 }
          else (s.putResponse tag 1 0).setModWait (fun x => x.tag == tag) true
        | _ => (s.putResponse tag 1 0).setModWait (fun x => x.tag == tag) true
      else
        ((((s.dropModCmd tag).putResponse tag status 0).freezeAll gk [(l, ⟨cXlatePerm, 0x0A, pairOf (p.vals.getD 0 0) (p.vals.getD 1 0)⟩)]).settleEvent gk)

/-- MODULE_RESPONSE (R348). A command of a lane is answered. -/
def execModuleResponse (tag status : Nat) (s : State) : Host.Outcome State Fault Refusal :=
  .next (s.respond tag status)

/-- MODULE_WAIT_RETRY (R348). A command answered WAIT is repeated. -/
def execModuleWaitRetry (tag : Nat) (s : State) : Host.Outcome State Fault Refusal :=
  .next (s.setModWait (fun c => c.tag == tag) false)

/-- The copies of a run of a module's lines in this package are invalidated (R248). -/
def State.backInvalidate (s : State) (module maddr n : Nat) : State :=
  ((List.range Config.ports).filter fun p => (s.port p).module == module).foldl
    (fun (s : State) p => (lineRun (portBase + p * moduleSpan + maddr) n).foldl State.dropCopies s) s

/-! ## Code segments (R132 to R135, R409) and register lines (R253) -/

/-- SEGMENT_FETCH_LANDED (R135). A copy of a segment has landed whole. -/
def execSegmentFetchLanded (core ctx seg : Nat) (s : State) : Host.Outcome State Fault Refusal :=
  .next (s.landSeg core ctx seg)

/-- SEGMENT_FETCH_FAULTED (R133). A copy of a segment meets a fault. -/
def execSegmentFetchFaulted (core ctx seg : Nat) (s : State) : Host.Outcome State Fault Refusal :=
  .next (s.failSeg core ctx seg)

/-- PATH_SEGMENT_REQUEST (R409). The segment of a path that is about to issue is not RESIDENT: it is requested, and the threads of the path wait. -/
def execPathSegmentRequest (g : Nat) (s : State) : Host.Outcome State Fault Refusal :=
  .next (s.requestPath g)

/-- SEGMENT_REQUEST_RETRY (R409). A request for a path that was REFUSED is repeated. -/
def execSegmentRequestRetry (core ctx seg : Nat) (s : State) : Host.Outcome State Fault Refusal :=
  .next (s.retrySeg core ctx seg)

/-- REGISTER_LINE_FILL (R253). A register line arrives from the image. -/
def execRegisterLineFill (g line : Nat) (s : State) : Host.Outcome State Fault Refusal :=
  .next (s.fillLine g line)

/-! ## Ageing and the loss of an issue slot (R20, R305) -/

/-- The path of a gang at a PC is forced (R20): its HELD threads are released, and it issues 64 instructions. -/
def Gang.force (g : Gang) (pc : Nat) : Gang :=
  let lanes := (List.range 32).filter fun l => g.inPath l && (g.th l).pc.toNat == pc
  let g := g.mapLanes lanes Thread.release
  { g with forced := some (maskOf lanes, Config.forcedRun), current := some pc, split := [] }

/-- AGEING_FORCE (R20). The counter of a path has reached AGEMAX, and no path is forced. -/
def execAgeingForce (g pc : Nat) (s : State) : Host.Outcome State Fault Refusal :=
  .next (match s.gang? g with
    | none => s
    | some x => if x.forcedRun.isEmpty && x.agedPath (s.ctx x.ctx).ageMax == some pc then s.setGang g (x.force pc) else s)

/-- Another resident gang of the sub-core has been ready since a clock, with at least the priority of a gang. -/
def State.contested (s : State) (gk : Nat) (g : Gang) (since : Nat) : Bool :=
  s.gangs.any fun p => p.1 != gk && p.2.core == g.core && p.2.subCore == g.subCore && p.2.issue.isNone && p.2.readied && p.2.ready
    && decide (p.2.readyAt ≤ since) && decide (s.slotPriority g ≤ s.slotPriority p.2)

/-- A gang loses its issue slot (R305): its threads in RUN or HELD return to their region entries, with their L-pending bits as they are. Log entry 96. -/
def State.slotPreempt (s : State) (gk : Nat) : State :=
  match s.gang? gk with
  | none => s
  | some g =>
    if g.issue.isNone || decide (s.clock < g.takenAt + Config.slotHold) || !s.contested gk g g.takenAt || g.guard then s
    else
      let back := fun (t : Thread) => if t.run = .run ∨ t.run = .held then { t.dropLatches with pc := t.rep, rcnt := 0, run := .run } else t.dropLatches
      ((s.setGang gk { g with threads := g.threads.map back, current := none, split := [] }).releaseSlot gk).mapGang gk fun g => { g with guard := true }

/-- SLOT_PREEMPTION (R305). A gang has held an issue slot for 65,536 clocks against a ready gang of equal or higher priority. -/
def execSlotPreemption (g : Nat) (s : State) : Host.Outcome State Fault Refusal :=
  .next (s.slotPreempt g)

end Sys2Proof.Machine
end

