-- ==== Sys2Proof/Machine/Pod.lean ====
section
/-! DEFINITION. Module ports and the pod (R339 to R346, R355 to R362, R408): port states, lost modules, the pair table and relays, messages of a pair. -/

namespace Sys2Proof.Machine

/-! ## The pod map (R357 to R360) -/

/-- A peer's entry as R359 gives it. -/
def State.podEntryFor (s : State) (a b : Nat) (e : PodEntry) : PodEntry :=
  if s.intact a b then { e with st := 0, relay := 0xFF }
  else match s.relayOf a b with
    | some c => { e with st := 1, relay := c }
    | none => { e with st := 2, relay := 0xFF }

/-- Every unacknowledged message of a pair leaves again (R360). -/
def State.resend (s : State) (peer : Nat) : State :=
  let x := s.pod.pairs.at_ PairState.reset peer
  let s := x.unacked.foldl (fun (s : State) m => (s.mapPod fun p => { p with wire := p.wire ++ [(peer, m.1, m.2)] }).carry peer) s
  if x.unacked.isEmpty then s else s.mapPod fun p => { p with pairs := p.pairs.put peer { x with since := s.clock } }

/-- STATE and RELAY of every entry are taken anew from the pair table; a pair whose route has changed resends. -/
def State.refreshPod (s : State) : State :=
  match s.pod.own with
  | none => s
  | some a =>
    let new := s.pod.entries.map fun (p : Nat × PodEntry) => (p.1, s.podEntryFor a p.1 p.2)
    let moved := (s.pod.entries.zip new).filter fun p => p.1 != p.2 && decide (p.2.2.st ≤ 1)
    moved.foldl (fun (s : State) p => s.resend p.2.1) (s.mapPod fun p => { p with entries := new })

/-- A package has lost a module, in the pair table. -/
def State.markLost (s : State) (pkg m : Nat) : State :=
  s.mapPod fun p => if p.severed.contains (pkg, m) then p else { p with severed := p.severed ++ [(pkg, m)] }

/-- The mark is cleared. -/
def State.clearLost (s : State) (pkg m : Nat) : State := s.mapPod fun p => { p with severed := p.severed.filter fun x => x != (pkg, m) }

/-- A message to every package of the pod map. -/
def State.tellPeers (s : State) (body : PairBody) : State := s.pod.entries.keys.foldl (fun (s : State) b => s.pairSend b body) s

/-! ## Port states (R340 to R346) -/

/-- The module assigned to a port, or the one that it reports. -/
def State.moduleAt (s : State) (p : Nat) : Nat := (s.pod.portModule.find? p).getD (s.port p).module

/-- A port that trains its links or serves requests. -/
def Port.alive (p : Port) : Bool := p.inService || p.st == .training

/-- LINK_FAIL (R340, R269). A link goes out of service: its granules are carried on the next link in service. -/
def execLinkFail (port link : Nat) (s : State) : Host.Outcome State Fault Refusal :=
  .next (if link < 20 ∧ (s.port port).alive then s.failLink port link else s)

/-- LINK_RESTORE (R340). A link returns to service. -/
def execLinkRestore (port link : Nat) (s : State) : Host.Outcome State Fault Refusal :=
  .next (if link < 20 ∧ (s.port port).alive then s.restoreLink port link else s)

/-- The spares that the ports of a base die hold. -/
def State.sparesHeld (s : State) (die : Nat) : List Nat := (List.range 3).flatMap fun i => (s.port (3 * die + i)).pairs.keys

/-- The lowest free spare of a base die (R341). -/
def State.freeSpare (s : State) (die : Nat) : Option Nat := [2 * die, 2 * die + 1].find? fun n => !(s.sparesHeld die).contains n

/-- A fibre pair of a port fails (R341, R342). -/
def State.pairFails (s : State) (port pair : Nat) : State :=
  let p := s.port port
  if 10 ≤ pair || !p.inService then s
  else
    let t := (s.failLink port (2 * pair)).failLink port (2 * pair + 1)
    match s.freeSpare (port / 3) with
    | some n => t.mapPort port fun p => { p with pairs := p.pairs.put n pair, st := if p.st = .degraded then .degraded else .repair }
    | none => t.mapPort port fun p => { p with st := .degraded }

/-- The links of a pair are in service. -/
def Port.pairUp (p : Port) (pair : Nat) : Bool := p.linkUp.getLsbD (2 * pair) && p.linkUp.getLsbD (2 * pair + 1)

/-- Both links of a pair are up on its spare; a port of which no moved pair is down is UP again. -/
def State.spareTrained (s : State) (port pair : Nat) : State :=
  let p := s.port port
  if !p.inService || !p.pairs.any fun x => x.2 == pair then s
  else ((s.restoreLink port (2 * pair)).restoreLink port (2 * pair + 1)).mapPort port fun q =>
    { q with st := if q.st = .repair ∧ q.pairs.all (fun x => q.pairUp x.2) then .up else q.st }

/-- FIBRE_PAIR_FAIL (R341, R342). A fibre pair fails: its links move to a free spare, or the port is DEGRADED. -/
def execFibrePairFail (port pair : Nat) (s : State) : Host.Outcome State Fault Refusal :=
  .next (s.pairFails port pair)

/-- SPARE_RETRAINED (R342). Both links of a failed pair are up on a spare. -/
def execSpareRetrained (port pair : Nat) (s : State) : Host.Outcome State Fault Refusal :=
  .next (s.spareTrained port pair)

/-- RETRAIN (R342, R343). RETRAIN written in state LOST starts training of the port and frees its spares. -/
def execRetrain (who : Owner) (port : Nat) (s : State) : Host.Outcome State Fault Refusal :=
  .next (s.ownerWrite who fun s => if (s.port port).st = .lost then s.mapPort port fun p => { p with st := .training, linkUp := 0, returning := [], pairs := [], limit := 1 } else s)

/-! ## A lost module (R344, R358) -/

/-- An address names memory of a module. -/
def onModule (m pa : Nat) : Bool := decide (apertureBase ≤ pa) && (pa - apertureBase) / moduleSpan == m

/-- The cached lines of a module that is lost: clean ones are dropped; a dirty one is a dirty line shared in its context (R281). -/
def State.dropModuleLines (s : State) (m : Nat) : State :=
  let dirty := s.cores.flatMap fun c => (c.2.cache.filter fun x => x.dirty && onModule m x.addr).map fun x => (x.addr, x.ctx)
  let s := { s with cores := s.cores.map fun (p : Nat × Core) => (p.1, { p.2 with cache := p.2.cache.filter fun x => !onModule m x.addr }) }
  dirty.foldl (fun (s : State) a => s.memoryError a.1 (.sharedIn a.2)) s

/-- The fault of a lane that waits at a queue of a lost module (R344): QUEUE 0x05 while it waits for its turn or for a notice, XLATE_PERM 0x08 while a step of its operation is outstanding. -/
def State.lostWait (s : State) (m : Nat) (p : Pend) : Option Flt :=
  let va := pairOf (p.vals.getD 0 0) (p.vals.getD 1 0)
  match p.why with
  | .queue pa => if onModule m pa then some ⟨cQueue, 5, va⟩ else none
  | .moduleCmd tag pa => if onModule m pa then some (if s.modCmds.any fun c => c.tag == tag && c.waiting then ⟨cQueue, 5, va⟩ else ⟨cXlatePerm, 8, va⟩) else none
  | .moduleStep pa 1 => if onModule m pa then some ⟨cXlatePerm, 8, va⟩ else none
  | _ => none

/-- The lanes of a gang that wait at a queue of a lost module, with their faults. -/
def State.lostLanes (s : State) (m : Nat) (g : Gang) : List (Nat × Flt) :=
  (List.range 32).filterMap fun l =>
    if (g.th l).run = .blocked then (g.th l).wait.bind fun p => (s.lostWait m p).map fun f => (l, f) else none

/-- The lanes that wait at queues of a lost module freeze, and its commands are gone. -/
def State.failModCmds (s : State) (m : Nat) : State :=
  let t := s.gangs.foldl (fun (t : State) p =>
    let lost := s.lostLanes m p.2
    if lost.isEmpty then t else (t.freezeAll p.1 lost).settleEvent p.1) s
  { t with modCmds := t.modCmds.filter fun c => c.module != m }

/-- Stores to a port whose acknowledgment is outstanding are lost: each is reported, and stays with its gang until a release meets it. -/
def State.loseStores (s : State) (port : Nat) : State :=
  let n := s.gangs.foldl (fun n p => n + (p.2.pending.filter fun d => destPort d == port).length) 0
  let lose := fun (d : Nat) => if destPort d == port then ofLane (laneOf d) (16 + port) else d
  let s := { s with gangs := s.gangs.map fun (p : Nat × Gang) =>
    (p.1, { p.2 with ivs := p.2.ivs.map fun (i : Iv) => { i with pend := i.pend.map lose }, owed := p.2.owed.map lose }) }
  (List.replicate n ()).foldl (fun (s : State) _ => s.report (16 + port) 1 0) (s.mapPort port fun p => { p with lostStores := p.lostStores + n })

/-- A port enters LOST: its module is lost to the package, the peers are told, and the pod map is updated. -/
def State.losePort (s : State) (port : Nat) : State :=
  let m := s.moduleAt port
  let s := s.mapPort port fun p => { p with st := .lost }
  let s := (((s.failModCmds m).loseStores port).dropModuleLines m).report (16 + port) 2 m
  match s.pod.own with
  | none => s
  | some a => ((s.markLost a m).refreshPod).tellPeers (.loss m)

/-- PORT_LOST (R342, R344, R358). A port whose links are all down, or whose head has failed, enters LOST. -/
def execPortLost (port : Nat) (headFailed : Bool) (s : State) : Host.Outcome State Fault Refusal :=
  .next (if (s.port port).inService && (headFailed || (s.port port).linkUp == 0) then s.losePort port else s)

/-- What a module reports of itself passes the checks of R346. -/
def State.identOk (s : State) (port : Nat) (i : ModuleIdent) : Bool :=
  s.pod.portModule.find? port == some i.number && decide (1 ≤ i.heads) && decide (i.heads ≤ 16) && decide (i.head < i.heads)
    && decide (i.capacity ≤ moduleSpan) && i.offers

/-- Training completes with at least one link up. -/
def State.trained (s : State) (port : Nat) (i : ModuleIdent) : State :=
  let p := s.port port
  if p.st ≠ .training ∨ p.linkUp = 0 then s
  else
    let s := s.mapPort port fun p => { p with module := i.number, heads := i.heads, head := i.head, capacity := i.capacity, cmdOff := i.cmdOff }
    if !s.identOk port i then s.losePort port
    else
      let s := s.mapPort port fun p => { p with st := .up }
      match s.pod.own with
      | none => s
      | some a =>
        if s.pod.hasLost a i.number then ((s.clearLost a i.number).refreshPod).tellPeers (.restore i.number) else s.refreshPod

/-- PORT_TRAINED (R342, R345, R346, R358). Training completes: the module's identity decides between UP and LOST. -/
def execPortTrained (port : Nat) (ident : ModuleIdent) (s : State) : Host.Outcome State Fault Refusal :=
  .next (s.trained port ident)

/-- PORT_TRAINING_TIMEOUT (R342). No link has come up: the port enters LOST. -/
def execPortTrainingTimeout (port : Nat) (s : State) : Host.Outcome State Fault Refusal :=
  .next (if (s.port port).st = .training ∧ (s.port port).linkUp = 0 then s.losePort port else s)

/-- INCAST_NOTICE (R355). An incast notice halves the injection limit of the port. -/
def execIncastNotice (port : Nat) (s : State) : Host.Outcome State Fault Refusal :=
  .next (s.mapPort port fun p => { p with limit := max (p.limit / 2) (1 / 64) })

/-- INCAST_RECOVERY (R355). 8 µs without a notice raise the injection limit by 1/32. -/
def execIncastRecovery (port : Nat) (s : State) : Host.Outcome State Fault Refusal :=
  .next (s.mapPort port fun p => { p with limit := min (p.limit + 1 / 32) 1 })

/-! ## Notices and messages of the pod (R358, R360, R362) -/

/-- The modules of a package, as the pod's lines and the pod map give them. -/
def State.modulesOf (s : State) (pkg : Nat) : List Nat :=
  distinct ((s.pod.lines.filterMap fun (l : Nat × List Nat) => if l.2.contains pkg then some l.1 else none)
    ++ (match s.pod.entries.find? pkg with | some e => if e.module < 0xFF then [e.module] else [] | none => []))

/-- A drop is counted for each interrupt send among messages (R216, R362). -/
def State.countSends (s : State) (ms : List (Nat × PairBody)) : State :=
  ms.foldl (fun (s : State) m => match m.2 with | .uliSend _ _ _ ctx => s.countDrop ctx | _ => s) s

/-- The oldest interval that holds an access of a lane sent over a relay loses one (R360). -/
def Iv.relayed (code : Nat) : List Iv → Option (List Iv)
  | [] => none
  | i :: rest =>
    match Iv.relayed code rest with
    | some r => some (i :: r)
    | none => if i.pend.contains code then some ({ i with pend := i.pend.erase code } :: rest) else none

/-- A relay package has acknowledged an access of a lane of a gang. -/
def Gang.relayed (g : Gang) (lane : Nat) : Gang :=
  let code := ofLane lane overRelay
  if g.owed.contains code then { g with owed := g.owed.erase code }
  else match Iv.relayed code g.ivs with
    | some l =>
      let h : Gang := { g with ivs := l }
      h.prune
    | none => g

/-- The reply to this package's oldest relay request of a pair has come: an access of a gang is acknowledged; an engine command counts its destination once none of its requests is unanswered (R366). -/
def State.answerAsked (s : State) (peer : Nat) : State :=
  match s.pod.asked.find? fun x => x.1 == peer with
  | none => s
  | some x =>
    let s := s.mapPod fun p => { p with asked := p.asked.erase x }
    match x.2 with
    | .gang gk l => s.mapGang gk fun g => g.relayed l
    | .command _ _ => s
    | .nobody => s

/-- A peer's head is reported down: its pairs are severed, messages for it dropped, and the state of the pair is discarded. -/
def State.headDown (s : State) (peer : Nat) : State :=
  let s := s.countSends (s.pod.pairs.at_ PairState.reset peer).unacked
  let s := (s.modulesOf peer).foldl (fun (s : State) m => s.markLost peer m) s
  let s := (s.pod.asked.filter fun x => x.1 == peer).foldl (fun (s : State) _ => s.answerAsked peer) s
  (s.mapPod fun p => { p with pairs := p.pairs.drop peer, told := p.told.filter fun x => x.2 != peer }).refreshPod

/-- A loss notice (R358). -/
def State.lossNotice (s : State) (m peer : Nat) : State := (s.markLost peer m).refreshPod
/-- A restore notice (R358). -/
def State.restoreNotice (s : State) (m peer : Nat) : State := (s.clearLost peer m).refreshPod

/-- HEAD_DOWN_NOTICE (R362). A module reports a peer's head down. -/
def execHeadDownNotice (peer : Nat) (s : State) : Host.Outcome State Fault Refusal :=
  .next (s.headDown peer)

/-- LOSS_NOTICE (R358, R359). A loss notice severs the sender's pairs over the module. -/
def execLossNotice (module peer : Nat) (s : State) : Host.Outcome State Fault Refusal :=
  .next (s.lossNotice module peer)

/-- RESTORE_NOTICE (R358, R359). A restore notice clears the mark. -/
def execRestoreNotice (module peer : Nat) (s : State) : Host.Outcome State Fault Refusal :=
  .next (s.restoreNotice module peer)

/-! ## Relayed requests (R361, R408) -/

/-- The relay table admits a request. -/
def State.relayAdmits (s : State) (r : RelayReq) : Bool :=
  s.pod.relay.any fun (p : Nat × RelayEntry) =>
    let e := p.2
    e.valid && e.src == r.src && e.world == r.world && e.module == r.module && decide (e.base ≤ r.addr) && decide (r.addr + r.len ≤ e.limit)

/-- The package admits a world (R383): it holds the pod key, and the owner has set the world's ADMIT bit. -/
def State.admits (s : State) (w : Nat) : Bool := w == 0 || (s.trust.podKeys.contains w && s.pod.admitMask.testBit w)

/-- The permission that a kind of request needs at the module: read, write, atomic, window (R350). -/
def relayPerm (kind : Nat) : Nat := 2 ^ (kind % 4)

/-- A number in the payload of a relayed request. -/
def relayNum (r : RelayReq) (o n : Nat) : Nat := natOfBytes ((r.bytes.drop o).take n)

/-- A relayed window command (R354, R361): operation, EFMT, NCON, COUNT, FIRST and NEL in the first 13 bytes, elements from byte 16 on. The answer is the module's status, with the values of a READSUM. -/
def State.relayWindow (s : State) (r : RelayReq) (pa : Nat) : State × List Byte :=
  if relayNum r 0 1 = 0x10 then
    let f := match relayNum r 1 1 with | 0 => 1 | 1 => 2 | _ => 3
    match s.winContrib pa (relayNum r 4 4) (relayNum r 2 2) (relayNum r 8 4) ((elementsOf f (r.bytes.drop 16)).map fun x => Acc.zero.addVal (elementVal f x)) with
    | (s, .done) => (s, [0])
    | (s, .wait) => (s, [1])
    | (s, .refused) => (s, [2])
  else
    match s.winRead pa (relayNum r 8 4) (relayNum r 12 1) with
    | (s, some l) => (s, 0 :: l.flatMap fun x => bytesOf 16 x.toNat)
    | (s, none) => (s, [1])

/-- A relayed request performed with this package's head: read, write, atomic (operation, width, operand, compare value), window command. -/
def State.relayPerform (s : State) (r : RelayReq) (pa : Nat) : State × List Byte :=
  match r.kind with
  | 0 => (s, readBytes s.mem pa r.len)
  | 1 => ((s.putBytes pa (r.bytes.take r.len)).backInvalidate r.module r.addr r.len, [])
  | 2 =>
    let w := relayNum r 1 1
    let old := readNum s.mem pa w
    ((s.putBytes pa (bytesOf w (amoResult (relayNum r 0 1) w (BitVec.ofNat 64 old) (dword (relayNum r 2 8)) (dword (relayNum r 10 8))).toNat)).backInvalidate r.module r.addr w, bytesOf w old)
  | _ => s.relayWindow r pa

/-- The bytes of a module that a relayed request needs permission for: those it names, or the whole extent of the window (R350). -/
def State.relayExtent (s : State) (r : RelayReq) (pa : Nat) : Nat :=
  if r.kind % 4 ≠ 3 then r.len
  else 64 + 64 * (if relayNum r 0 1 = 0x10 then relayNum r 4 4 else (s.winHead pa).count)

/-- A relayed request of a peer: refused, or performed; the reply goes back as a message of the pair. A window command of a confidential world goes to an admitted module alone (R356). -/
def State.relay (s : State) (r : RelayReq) : State :=
  let no := s.pairSend r.src (.relayReply false [])
  match s.headAt r.module with
  | none => no
  | some h =>
    let pa := apertureBase + r.module * moduleSpan + r.addr
    if !s.relayAdmits r || !s.admits r.world || !s.granted r.module h r.world r.addr (s.relayExtent r pa) (relayPerm r.kind) then no
    else if r.kind % 4 = 3 ∧ r.world ≠ 0 ∧ !s.pod.admitted.contains (r.module, r.world) then s.pairSend r.src (.relayReply true [2])
    else
      let x := s.relayPerform r pa
      x.1.pairSend r.src (.relayReply true x.2)

/-- RELAY_REQUEST (R349, R350, R361, R408). A relayed request is checked and performed on a module. -/
def execRelayRequest (r : RelayReq) (s : State) : Host.Outcome State Fault Refusal :=
  .next (s.relay r)

/-! ## Uses by other heads (R248, R350, R352, R354) -/

/-- The bytes of a module that a request needs permission for may be used by a head (R350); a window of a confidential world lies in an admitted module (R356). -/
def State.headMay (s : State) (head : Nat) (r : RelayReq) (pa : Nat) : Bool :=
  s.granted r.module head r.world r.addr (s.relayExtent r pa) (relayPerm r.kind) && (r.kind % 4 != 3 || r.world == 0 || s.pod.admitted.contains (r.module, r.world))

/-- Another head's read, write, atomic or window command, performed at its module where the module permits it. -/
def State.headUse (s : State) (r : RelayReq) : State :=
  let pa := apertureBase + r.module * moduleSpan + r.addr
  if s.headAt r.module = some r.src ∨ s.headMay r.src r pa = false then s else (s.relayPerform r pa).1

/-- MODULE_NOTICE (R248, R352, R354). A back-invalidation snoop of a line, after the use by another head that it tells of: the package's copies of the line go, and the commands that wait for it are repeated. -/
def execModuleNotice (module : Nat) (maddr : HeadUse) (s : State) : Host.Outcome State Fault Refusal :=
  let s := match maddr.use with
    | some r => s.headUse { r with module := module }
    | none => s
  .next ((s.backInvalidate module maddr.maddr 1).settleQueues.setModWait (fun c => c.module == module && c.addr / 64 == maddr.maddr / 64) false)

/-! ## Messages of a pair (R360) -/

/-- The receiver counts the messages of a pair from 0; what one brings. -/
def State.takeMessage (s : State) (peer : Nat) (body : PairBody) : State :=
  match body with
  | .loss m => s.lossNotice m peer
  | .restore m => s.restoreNotice m peer
  | .uliSend ctx ep operand sender => { s with sends := s.sends ++ [⟨peer, sender, 0, ctx, ep, operand⟩] }
  | .refusal ctx => { s with refusals := s.refusals ++ [ctx] }
  | .relay r => s.relay { r with src := peer }
  | .relayReply _ _ => s.answerAsked peer
  | .podKey w => s.mapTrust fun t => if t.podKeys.contains w then t else { t with podKeys := t.podKeys ++ [w] }

/-- The receiving side of a pair changed. -/
def State.mapPair (s : State) (peer : Nat) (f : PairState → PairState) : State :=
  s.mapPod fun p => { p with pairs := p.pairs.put peer (f (p.pairs.at_ PairState.reset peer)) }

/-- Messages that have come early are delivered once their numbers are next; `fuel` bounds their number. -/
def State.takeEarly (s : State) (peer : Nat) : Nat → State
  | 0 => s
  | fuel + 1 =>
    let x := s.pod.pairs.at_ PairState.reset peer
    match x.early.find? fun m => m.1 == x.nextIn with
    | none => s
    | some m =>
      let s := s.mapPair peer fun x => { x with nextIn := (x.nextIn + 1) % 2 ^ 32, early := x.early.filter fun e => e.1 != m.1 }
      (s.takeMessage peer m.2).takeEarly peer fuel

/-- A message arrives: the next one is delivered, an early one held, one already delivered discarded. -/
def State.messageArrives (s : State) (peer n : Nat) (body : PairBody) : State :=
  let x := s.pod.pairs.at_ PairState.reset peer
  let ahead := (n + 2 ^ 32 - x.nextIn) % 2 ^ 32
  if ahead = 0 then
    ((s.mapPair peer fun x => { x with nextIn := (x.nextIn + 1) % 2 ^ 32 }).takeMessage peer body).takeEarly peer 256
  else if ahead < 2 ^ 31 ∧ x.early.length < 256 ∧ x.early.all (fun m => m.1 != n) then s.mapPair peer fun x => { x with early := x.early ++ [(n, body)] }
  else s

/-- PAIR_MESSAGE_ARRIVAL (R251, R358, R360). A message of a pair arrives. -/
def execPairMessageArrival (peer sq : Nat) (body : PairBody) (s : State) : Host.Outcome State Fault Refusal :=
  .next (s.messageArrives peer sq body)

/-- PAIR_ACK_ARRIVAL (R360). Messages up to a number are acknowledged. -/
def execPairAckArrival (peer upTo : Nat) (s : State) : Host.Outcome State Fault Refusal :=
  .next (s.mapPair peer fun x => { x with unacked := x.unacked.filter fun m => decide (2 ^ 31 ≤ (upTo + 2 ^ 32 - m.1) % 2 ^ 32) })

/-- PAIR_RESEND_TIMEOUT (R360). Messages that have been unacknowledged for 50 µs leave again. -/
def execPairResendTimeout (peer : Nat) (s : State) : Host.Outcome State Fault Refusal :=
  .next (if (s.pod.pairs.at_ PairState.reset peer).since + 165000 ≤ s.clock then s.resend peer else s)

end Sys2Proof.Machine
end

