-- ==== Sys2Proof/Machine/Control.lean ====
section
/-! DEFINITION. Control space (R27, R28, R262, R315 to R317, R357, R369 to R371, R378, R382, R385, R390, R391): claim and handler tables, vault settings, frames, the registers without a row of their own, the host's links, the capability port. -/

namespace Sys2Proof.Machine

/-! ## Claim and handler tables, vault settings (R262, R315 to R317) -/

/-- A write of a claim entry. Each entry has one owner at a time: a write that names another owner than the present one is refused with CLAIM_BUSY, and so is CTX for the escalation entry, or a reserved owner. -/
def State.writeClaim (s : State) (ten entry owner ovec : Nat) (oq oep : DWord) : State :=
  if (s.tens.find? ten).isNone || 17 ≤ entry then s
  else
    let c := (s.ten ten).claims.at_ Claim.reset entry
    if 5 ≤ owner ∨ (entry = 16 ∧ owner = 1) ∨ (owner ≠ 0 ∧ c.owner ≠ 0 ∧ c.owner ≠ owner) then s.mapTrust fun t => { t with claimBusy := true }
    else
      let pushes := owner == 2 || owner == 3
      let d : Claim := ⟨owner, ovec % 64, if pushes then oq else 0, if pushes then oep else 0⟩
      (s.mapTen ten fun t => { t with claims := t.claims.put entry d }).mapTrust fun t => { t with claimBusy := false }

/-- CLAIM_WRITE (R315, R316). The owner of the control plane writes a claim entry. -/
def execClaimWrite (who : Owner) (ten entry owner ovec : Nat) (oq oep : DWord) (s : State) : Host.Outcome State Fault Refusal :=
  .next (s.ownerWrite who fun s => s.writeClaim ten entry owner ovec oq oep)

/-- The bits of a handler entry: EN and the entry PC. -/
def handlerBits (x : DWord) : DWord := dword (x.toNat % 2 ^ 33)

/-- HANDLER_TABLE_WRITE (R317). A write of a handler entry; an entry PC that is not a multiple of 4 is refused. -/
def execHandlerTableWrite (who : Owner) (ctx cls : Nat) (value : DWord) (s : State) : Host.Outcome State Fault Refusal :=
  .next (s.ownerWrite who fun s => if 16 ≤ cls ∨ value.toNat % 4 ≠ 0 then s else s.mapCtx ctx fun c => { c with handlers := c.handlers.set 0 cls (handlerBits value) })

/-- QBLK of a core is changed (R262), unless a block that changes its role is held by a window: the blocks are emptied of cache lines and read zero, and the boundary follows. -/
def State.setQblk (s : State) (core q : Nat) : State :=
  let old := (s.core core).qblk
  let lo := 128 - max old q
  let n := max old q - min old q
  if Config.cores ≤ core || 8 < q || !runFree (s.runsOn core) lo n then s
  else
    let s := s.mapCore core fun c => { c with qblk := q }
    let s := (s.mapCore core fun c => { c with boundary := s.boundaryOf core }).emptyBlocks core
    s.scrubRange (vaultPa core lo 0) (n * Config.blockBytes)

/-- VAULT_SETTINGS_WRITE (R262). QBLK of a core is written. -/
def execVaultSettingsWrite (who : Owner) (core q : Nat) (s : State) : Host.Outcome State Fault Refusal :=
  .next (s.ownerWrite who fun s => s.setQblk core q)

/-! ## Frames (R382, R383) -/

/-- Beryl destroys a local key when no die latches its world, no assignment waits for it and no frame is owned by it. -/
def State.dropKeys (s : State) : State :=
  let wanted := fun (w : Nat) => w == 0 || (List.range Config.dies).any (fun d => (s.die d).world == w)
    || s.trust.keyWaits.any (fun a => a.req == w) || s.trust.frames.any (fun f => f.2 == w) || s.trust.zeroing.any fun z => z.2 == w
  s.mapTrust fun t => { t with localKeys := t.localKeys.filter fun k => wanted k.1 }

/-- Frames of local HBM (R382). -/
def hbmFrames : Nat := 2 ^ 21

/-- FRAME_OWNER_WRITE (R382). A frame is given to a world; it is zeroed under the new key before it is accessed again. -/
def execFrameOwnerWrite (who : Owner) (frame world : Nat) (s : State) : Host.Outcome State Fault Refusal :=
  .next (s.ownerWrite who fun s => if hbmFrames ≤ frame ∨ 16 ≤ world then s else s.mapTrust fun t => { t with zeroing := (t.zeroing.filter fun z => z.1 != frame) ++ [(frame, world)] })

/-- A frame has been zeroed: it reads zero, no cache holds a line of it, and its new world owns it. -/
def State.frameZeroed (s : State) (frame : Nat) : State :=
  match s.trust.zeroing.find? fun z => z.1 == frame with
  | none => s
  | some z =>
    let a := frame * 2 ^ 19
    let keep := fun (x : Line) => !(decide (a ≤ x.addr) && decide (x.addr < a + 2 ^ 19))
    let s := s.scrubRange a (2 ^ 19)
    let s := { s with
      cores := s.cores.map fun (p : Nat × Core) => (p.1, { p.2 with cache := p.2.cache.filter keep })
      dies := s.dies.map fun (p : Nat × Die) => (p.1, { p.2 with home := p.2.home.filter keep }) }
    (s.mapTrust fun t => { t with frames := t.frames.set 0 frame z.2, zeroing := t.zeroing.filter fun z => z.1 != frame }).dropKeys

/-- FRAME_ZEROED (R382). The zeroing of a frame is complete. -/
def execFrameZeroed (frame : Nat) (s : State) : Host.Outcome State Fault Refusal :=
  .next (s.frameZeroed frame)

/-! ## Other registers of control space (R27, R28, R35, R271, R280, R290, R309, R330, R357, R369 to R374, R378, R383, R392, R408) -/

/-- A permission entry whose PKG agrees with its CLASS (R330). -/
def permOk (lo : DWord) : Bool :=
  let pkg := bitsAt lo.toNat 32 8
  match bitsAt lo.toNat 0 2 with
  | 0 => true
  | 1 => pkg == 0xFF
  | 2 => decide (pkg < Config.podPackages)
  | _ => pkg == 0xFE

/-- The bases of a context written: at once where no gang of it is bound, else at its next context switch (R28). -/
def State.setBases (s : State) (ctx : Nat) (reg code : DWord) : State :=
  let idle := !s.gangs.any fun p => p.2.ctx == ctx
  let align := fun (x : DWord) => dword (x.toNat / 2 ^ 16 * 2 ^ 16 % 2 ^ 55)
  s.mapCtx ctx fun c =>
    let c := { c with regNext := align reg, codeNext := align code }
    if idle then { c with regBase := c.regNext, codeBase := c.codeNext } else c

/-- The pod keys that this package has made are sent to the peers that admit their worlds, once to each (R383). -/
def State.sendKeys (s : State) : State :=
  let due := s.pod.keyPeers.filter fun p => s.pod.lowest.testBit p.1 && s.trust.podKeys.contains p.1 && !s.pod.told.contains p
  due.foldl (fun (s : State) p => (s.pairSend p.2 (.podKey p.1)).mapPod fun x => { x with told := x.told ++ [p] }) s

/-- ADMIT is written (R383): keys of worlds that are no longer admitted are destroyed; a key that has come before its bit is set is kept. Of a world newly admitted whose lowest-numbered admitting package this is, as the owner of the control plane knows, the pod key is asked of Beryl; `peers` are the packages that admit a world and whose Garnet holds an SPDM session with this one. -/
def State.setAdmit (s : State) (mask lowest : Nat) (peers : List (Nat × Nat)) : State :=
  let old := s.pod.admitMask
  let kept := fun (w : Nat) => mask.testBit w || !old.testBit w
  let new := (List.range 16).filter fun w => w != 0 && mask.testBit w && lowest.testBit w && !s.trust.podKeys.contains w && !s.trust.podWaits.contains w
  let s := (s.mapPod fun p => { p with admitMask := mask, lowest := lowest, keyPeers := peers, told := p.told.filter fun x => kept x.1 && peers.contains x }).mapTrust fun t =>
    { t with podKeys := t.podKeys.filter kept, podWaits := t.podWaits.filter (fun w => mask.testBit w && lowest.testBit w) ++ new }
  s.sendKeys

/-- A row of a range table that grants nothing. -/
def ModRange.empty (r : ModRange) : ModRange := { r with base := 0, limit := 0, perms := 0 }

/-- Row i of the ranges of a module for a head and a world (R350): 64 at most. Rows below it that were never written grant nothing. -/
def State.setRange (s : State) (r : ModRange) (i : Nat) : State :=
  let mine := fun (x : ModRange) => x.module == r.module && x.head == r.head && x.world == r.world
  let rows := s.modRanges.filter mine
  if 64 ≤ i then s
  else { s with modRanges := (s.modRanges.filter fun x => !mine x) ++ ((rows ++ List.replicate (i + 1 - rows.length) r.empty).set i r) }

/-- Bytes of control space that have no field of their own. Those of the first page, measurement registers among them, are never written (R388). -/
def State.setCtl (s : State) (off : Nat) (value : DWord) : State :=
  if off < 0x1000 then s
  else s.mapTrust fun t => { t with ctl := (List.range 8).foldl (fun (c : Tbl Byte) i => c.put (off + i) (BitVec.ofNat 8 (value.toNat / 256 ^ i))) t.ctl }

/-- A register of control space written by its owner. A tenancy takes any set of dies: R35 refuses none of them, neither dies that latch different worlds, nor dies of another tenancy, nor a set that leaves out a die on which its contexts are placed (DESIGN CHOICE, log entry 132). -/
def State.writeCtl (s : State) (w : CtlWrite) : State :=
  match w with
  | .context ctx ten =>
    if Config.contexts ≤ ctx || (s.tens.find? ten).isNone || s.gangs.any (fun p => p.2.ctx == ctx) || s.crews.any (fun p => p.2.ctx == ctx) then s
    else { s with ctxs := s.ctxs.put ctx (Context.fresh ten), launches := s.launches.filter fun l => l.ctx != ctx }
  | .pageRoot ctx pa => s.mapCtx ctx fun c => { c with ptroot := pa.toNat / 2 ^ 15 * 2 ^ 15 % 2 ^ 55 }
  | .queueBase ctx va => s.mapCtx ctx fun c => { c with fqBase := va }
  | .packageReset => s.resetPackage 0
  | .bases ctx reg code => s.setBases ctx reg code
  | .formatDesc ctx i dbase size mbase =>
    if 16 ≤ i then s
    else s.mapCtx ctx fun c => { c with fdesc := c.fdesc.put i ⟨dbase.toNat % 2 ^ 55 / 2 ^ 19 * 2 ^ 19, size.toNat / 2 ^ 19 * 2 ^ 19, mbase.toNat % 2 ^ 55 / 4 * 4⟩ }
  | .stream ctx i sprio swt =>
    if 64 ≤ i ∨ 8 ≤ sprio ∨ swt = 0 ∨ 256 ≤ swt then s else s.mapCtx ctx fun c => { c with streams := c.streams.put i { (c.streams.at_ ⟨0, 1, 0⟩ i) with sprio := sprio, swt := swt } }
  | .permission ctx i lo vmask =>
    if 256 ≤ i ∨ permOk lo = false then s else s.mapCtx ctx fun c => { c with perms := c.perms.put i ⟨lo, vmask, 0, 0⟩ }
  | .sendQueue ctx i entry => if 64 ≤ i then s else s.mapCtx ctx fun c => { c with sendQs := c.sendQs.put i entry }
  | .endpoint ctx i isOpen job pid addr =>
    if 4096 ≤ i then s else s.mapCtx ctx fun c => { c with netEps := c.netEps.put i ⟨isOpen, job % 2 ^ 24, pid % 2 ^ 12, addr⟩ }
  | .receiveSlot ctx i valid mask matchTag blen buf cword =>
    if 256 ≤ i then s else s.mapCtx ctx fun c => { c with recvs := c.recvs.put i ⟨valid, mask, matchTag, blen.toNat, dword (buf.toNat / 16 * 16), cword⟩ }
  | .identity ctx job pid => s.mapCtx ctx fun c => { c with job := job % 2 ^ 24, pid := pid % 2 ^ 12 }
  | .tenancy ten dieMask weight =>
    if dieMask = 0 ∨ 16 ≤ dieMask ∨ weight = 0 ∨ 256 ≤ weight then s
    else match s.tens.find? ten with
      | none => { s with tens := s.tens.put ten (Tenancy.fresh dieMask weight) }
      | some _ => s.mapTen ten fun t => { t with dies := dieMask, twt := weight, gone := false }
  | .hostRange ten i base limit => if 16 ≤ i ∨ 2 ^ 40 < limit then s else s.mapTen ten fun t => { t with hostRanges := t.hostRanges.put i (base, limit) }
  | .dataFence ten pa => s.mapTen ten fun t => { t with fence := some pa }
  | .noticeQueue ten pa => s.mapTen ten fun t => { t with noticeQ := some pa }
  | .replicaFrame ten frame => s.mapTen ten fun t => { t with replicas := t.replicas ++ [frame] }
  | .service die core queue => s.mapDie die fun d => { d with svcCore := core, svcQ := queue }
  | .portModule port module => if Config.ports ≤ port then s else s.mapPod fun p => { p with portModule := p.portModule.put port module }
  | .podPackage own => s.mapPod fun p => { p with own := some own }
  | .podEntry peer module port =>
    if Config.podPackages ≤ peer then s else ((s.clearLost peer 256).mapPod fun p => { p with entries := p.entries.put peer { PodEntry.none_ with module := module, port := port, st := 2 } }).refreshPod
  | .podLine module members => (s.mapPod fun p => { p with lines := p.lines.put module members }).refreshPod
  | .sever peer => (s.markLost peer 256).refreshPod
  | .admitted mask lowest peers => s.setAdmit (mask % 65536) lowest peers
  | .admitModule module world measured running keyed =>
    if measured && running && keyed then s.mapPod fun p => { p with admitted := p.admitted ++ [(module, world)] } else s
  | .relayEntry i valid src world module base limit =>
    if 1024 ≤ i then s else s.mapPod fun p => { p with relay := p.relay.put i ⟨valid, src, world, module, base / 64 * 64, limit / 64 * 64⟩ }
  | .moduleRange module head world i base limit perms => s.setRange ⟨module, head, world, base, limit, perms⟩ i
  | .power watts => if 1200 ≤ watts ∧ watts ≤ Config.powerLimit then { s with power := { s.power with limit := watts } } else s
  | .worldReq die req => if Config.dies ≤ die then s else s.mapDie die fun d => { d with req := req % 16 }
  | .read _ _ => s
  | .other offset value => s.setCtl offset value

/-- The tenancy among whose own registers a register is (R369). Log entry 110. -/
def State.tenRegister (s : State) : CtlWrite → Option Nat
  | .permission ctx _ _ _ => if s.hasCtx ctx then some (s.ctx ctx).tenancy else none
  | .hostRange ten _ _ _ => some ten
  | .dataFence ten _ => some ten
  | .noticeQueue ten _ => some ten
  | _ => none

/-- What a read of a master outside brings. -/
def State.hostGets (s : State) (bytes : List Byte) : State := { s with host := { s.host with loaded := bytes } }

/-- Bytes of control space as a master other than a thread reads them; every master may read (R391). -/
def State.readCtl (s : State) (off n : Nat) : State :=
  { s.hostGets ((List.range n).map fun i => s.ctlByte (off + i)) with free := s.free + 1 }

/-- An access of control space by a master (R391): a read; a write, which only the owner makes; a virtual function's write of its tenancy's own registers (R369). A refused read returns all ones (R385). In RECOVERY there is no virtual function (R387). Log entry 110. -/
def State.ctlWrite (s : State) (who : Owner) (w : CtlWrite) : State :=
  match w, who with
  | .read off n, .function ten trusted =>
    if s.inRecovery then s
    else if !s.hostTrusted ten trusted then (s.refuseHost ten).hostGets (List.replicate n 0xFF)
    else s.readCtl off n
  | .read off n, _ => s.readCtl off n
  | w, .function ten trusted => if s.tenRegister w = some ten then s.fromMaster (.function ten trusted) fun s => s.writeCtl w else s.ownerWrite (.function ten trusted) id
  | w, who => s.ownerWrite who fun s => s.writeCtl w

/-- CONTROL_SPACE_WRITE (R378, R391). A register of control space is read or written; a write of another master than the owner has no effect and counts in VIOL. -/
def execControlSpaceWrite (who : Owner) (w : CtlWrite) (s : State) : Host.Outcome State Fault Refusal :=
  .next (s.ctlWrite who w)

/-! ## The host's links (R369 to R371, R385) -/

/-- The data-fence word of a tenancy has reached a number, as its home agent lets it be read (R371, R382). -/
def State.fenceReached (s : State) (ten n : Nat) : Bool :=
  n == 0 || match (s.ten ten).fence with
    | some pa => s.tenReaches ten pa 8 .read && decide (n ≤ readNum s.mem (s.home pa) 8)
    | none => false

/-- A control message that came before another one waits, of the same master: writes of one master are performed in order (R391). -/
def State.waitsFirst (s : State) (n : Nat) (who : Owner) : Bool := s.host.waiting.any fun m => decide (m.num < n) && m.who == who

/-- Waiting control messages whose number the fence word has reached are acted on, in order. -/
def State.actWaiting (s : State) : State :=
  s.host.waiting.foldl (fun (s : State) m =>
    if s.host.waiting.contains m && s.fenceReached m.ten m.dfseq && !s.waitsFirst m.num m.who then
      { s with host := { s.host with waiting := s.host.waiting.filter fun x => x.num != m.num } }.ctlWrite m.who m.write
    else s) s

/-- A control message with its data fence. -/
def State.controlMessage (s : State) (ten dfseq : Nat) (who : Owner) (w : CtlWrite) : State :=
  if s.fenceReached ten dfseq && !s.waitsFirst s.host.nextMsg who then s.ctlWrite who w
  else { s with host := { s.host with waiting := s.host.waiting ++ [⟨s.host.nextMsg, ten, dfseq, who, w, s.clock⟩], nextMsg := s.host.nextMsg + 1 } }

/-- CONTROL_MESSAGE (R371). A control message is acted on once the data-fence word has reached its DFSEQ. -/
def execControlMessage (ten dfseq : Nat) (who : Owner) (w : CtlWrite) (s : State) : Host.Outcome State Fault Refusal :=
  .next (s.controlMessage ten dfseq who w)

/-- A message that has waited for 1 s is refused; those of its master that waited behind it go on. -/
def State.fenceTimeout (s : State) (n : Nat) : State :=
  match s.host.waiting.find? fun m => m.num == n with
  | none => s
  | some m =>
    if s.clock < m.since + 3300000000 then s
    else { s with host := { s.host with waiting := s.host.waiting.filter (fun x => x.num != n), timedOut := s.host.timedOut ++ [n] } }.actWaiting

/-- FENCE_TIMEOUT (R371). A control message that has waited for 1 s is refused. -/
def execFenceTimeout (n : Nat) (s : State) : Host.Outcome State Fault Refusal :=
  .next (s.fenceTimeout n)

/-- A store to send page `tag`: an interrupt send of the host. Log entry 109. -/
def State.hostSend (s : State) (ten tag : Nat) (ep : DWord) (operand : Word) (trusted : Bool) : State :=
  if (s.tens.find? ten).isNone || s.inRecovery then s
  else if !s.hostTrusted ten trusted then s.refuseHost ten
  else if 4096 ≤ tag ∨ epValid ep = false then { s with host := { s.host with discarded := s.host.discarded + 1 } }
  else if s.isSelf (epPkg ep) then { s with sends := s.sends ++ [⟨0xFE, tag, 0, epCtx ep, epIndex ep, operand⟩] }
  else if epPkg ep = 0xFE then (s.pushNotice ten (noticeRec operand (epCtx ep) (epValue 0xFE tag 0))).getD { s with host := { s.host with discarded := s.host.discarded + 1 } }
  else if s.reachesPeer (epPkg ep) then s.pairSend (epPkg ep) (.uliSend (epCtx ep) (epIndex ep) operand tag)
  else { s with host := { s.host with discarded := s.host.discarded + 1 } }

/-- HOST_SEND_PAGE_STORE (R369, R385). A host store to a send page sends an interrupt with the page's process tag. -/
def execHostSendPageStore (ten tag : Nat) (ep : DWord) (operand : Word) (trusted : Bool) (s : State) : Host.Outcome State Fault Refusal :=
  .next (s.hostSend ten tag ep operand trusted)

/-- A range is host-visible for a tenancy. -/
def State.hostVisible (s : State) (ten pa n : Nat) : Bool := (s.ten ten).hostRanges.any fun r => decide (r.2.1 ≤ pa) && decide (pa + n ≤ r.2.2)

/-- The frames of a range. -/
def framesOf (pa n : Nat) : List Nat := (List.range ((pa + n + 2 ^ 19 - 1) / 2 ^ 19 - pa / 2 ^ 19)).map fun i => pa / 2 ^ 19 + i

/-- The frames of a range belong to a world (R382). -/
def State.framesOwned (s : State) (world pa n : Nat) : Bool := (framesOf pa n).all fun f => s.trust.frames.at_ 0 f == world

/-- A frame of a range is being zeroed: an access waits (R382). -/
def State.framesBusy (s : State) (pa n : Nat) : Bool := (framesOf pa n).any fun f => s.trust.zeroing.any fun z => z.1 == f

/-- Kind of the report on a request to a frame of another world. -/
def errFrame : Nat := 8

/-- Bytes written by the host: coherent, so no vault cache keeps a copy of their lines (R260). -/
def State.hostPut (s : State) (pa : Nat) (bytes : List Byte) : State := (lineRun pa bytes.length).foldl State.dropCopies (s.putBytes pa bytes)

/-- A push of the host to a queue, reserved and committed with CXL atomics on its descriptor (R166): through the tables of the tenancy's lowest context that maps its items. -/
def State.hostPush (s : State) (ten pa : Nat) (item : List Byte) : State :=
  let q := s.queueOf pa 0
  if item.length ≠ q.isz || !s.tenReaches ten pa 64 .atomic then s
  else ((s.ctxsOf ten).findSome? fun c => s.pushWhole c none q item).getD s

/-- Bytes that an access of the host covers. -/
def hostSpan : HostAccess → Nat × Nat
  | .load pa len => (pa, len)
  | .store pa bytes => (pa, bytes.length)
  | .amo pa _ w _ _ => (pa, w)
  | .push pa _ => (pa, 64)

/-- A refused access of the host (R385); a refused load gets a poison completion and no bytes. -/
def State.refuseAccess (s : State) (ten : Nat) : HostAccess → State
  | .load _ _ => (s.refuseHost ten).hostGets []
  | _ => s.refuseHost ten

/-- A coherent access of the host: it waits while a frame is being zeroed, and a frame of another world than its tenancy's refuses it. The fence words that it may have raised are read. -/
def State.hostAccess (s : State) (ten : Nat) (a : HostAccess) (trusted : Bool) : State :=
  if !s.hostVisible ten (hostSpan a).1 (hostSpan a).2 then s
  else if !s.hostTrusted ten trusted then s.refuseAccess ten a
  else if s.framesBusy (hostSpan a).1 (hostSpan a).2 then s
  else if !s.framesOwned (s.tenWorld ten) (hostSpan a).1 (hostSpan a).2 then s.report 2 errFrame (hostSpan a).1
  else
    match a with
    | .load pa len => s.hostGets (readBytes s.mem pa len)
    | .store pa bytes => (s.hostPut pa bytes).actWaiting
    | .amo pa op w data cmp =>
      let x := readNum s.mem pa w
      ((s.hostPut pa (bytesOf w (amoResult op w (dword x) data cmp).toNat)).hostGets (bytesOf w x)).actWaiting
    | .push pa item => s.hostPush ten pa item

/-- HOST_CXL_ACCESS (R166, R249, R292, R370, R385). A coherent access of the host to a host-visible range. -/
def execHostCxlAccess (ten : Nat) (a : HostAccess) (trusted : Bool) (s : State) : Host.Outcome State Fault Refusal :=
  .next (s.hostAccess ten a trusted)

/-! ## The capability port (R209 to R214, R378) -/

/-- The contexts that a tenancy's port reaches. -/
def State.portReach (s : State) (ten ctx : Nat) : Bool := s.hasCtx ctx && (s.ctx ctx).tenancy == ten

/-- What the port reads back. -/
def State.portResult (s : State) (ws : List Word) : State := s.mapTrust fun t => { t with capResult := ws }

/-- The record of a frozen object, with its context. -/
def State.objRec (s : State) : Obj → Option (Nat × Rec)
  | .set ctx i => ((s.ctx ctx).sets.find? i).map fun x => (ctx, x.rec_)
  | .cmd crew sq => (s.cmd? crew sq).bind fun m => m.rec_.bind fun r => (s.crew? crew).map fun c => (c.ctx, r)

/-- A master acts for the owner of a frozen object's class: the host for HOST, Garnet and the management link for MGMT (R315, R378). Log entry 112. -/
def State.actsFor (s : State) (who : Owner) (o : Obj) : Bool :=
  match s.objRec o with
  | some (ctx, r) =>
    match s.ownerOf ctx r, who with
    | 3, .host => true
    | 4, .garnet => true
    | 4, .bmc => true
    | _, _ => false
  | none => false

/-- An operation of the port on the object of a capability; without one that the master acts for nothing is done, and nothing is read back. -/
def State.onPort (s : State) (ten : Demand) (cap : DWord) (bad : Bool) (f : Obj → State) : State :=
  s.fromMaster ten.who fun s =>
    match s.capability (s.portReach ten.num) cap with
    | .error _ => s.portResult []
    | .ok o => if bad || !s.actsFor ten.who o then s.portResult [] else f o

/-- CAPPORT_FRD (R209 to R212, R378). FRD through the capability port. -/
def execCapportFrd (ten : Demand) (cap : DWord) (sel : Word) (s : State) : Host.Outcome State Fault Refusal :=
  .next (s.onPort ten cap (selBad cap sel) fun o => let r := s.readFrozen o sel; r.1.portResult [r.2])

/-- CAPPORT_FWR (R209 to R212, R378). FWR through the capability port. -/
def execCapportFwr (ten : Demand) (cap : DWord) (sel value : Word) (s : State) : Host.Outcome State Fault Refusal :=
  .next (s.onPort ten cap (selBad cap sel || selFixed sel) fun o => match s.writeFrozen o sel value with | .ok t => t.portResult [value] | .error _ => s.portResult [])

/-- CAPPORT_FRES (R209, R213, R378). FRES through the capability port. -/
def execCapportFres (ten : Demand) (cap : DWord) (mask mode : Word) (s : State) : Host.Outcome State Fault Refusal :=
  .next (s.onPort ten cap (decide (3 ≤ mode.toNat) || (capKind cap && (mask != 0 || mode != 0))) fun o => let r := s.resumeFrozen o mask.toNat mode.toNat; r.1.portResult [loOf r.2, hiOf r.2])

/-- CAPPORT_FKILL (R209, R214, R378). FKILL through the capability port. -/
def execCapportFkill (ten : Demand) (cap : DWord) (mask : Word) (s : State) : Host.Outcome State Fault Refusal :=
  .next (s.onPort ten cap (capKind cap && mask != 0) fun o => let r := s.killFrozen o mask.toNat; r.1.portResult [loOf r.2, hiOf r.2])

end Sys2Proof.Machine
end

