-- ==== Sys2Proof/Machine/Migrate.lean ====
section
/-! DEFINITION. Read duplication and collapse (R282 to R285): replicas, collapses, pinned pages. -/

namespace Sys2Proof.Machine

/-- Bytes of a base page (R271). -/
def pageBytes : Nat := 2 ^ 19

/-- The vault caches hold no line of a range. -/
def State.dropRange (s : State) (a n : Nat) : State :=
  { s with cores := s.cores.map fun p => (p.1, { p.2 with cache := p.2.cache.filter fun x => decide (x.addr < a) || decide (a + n ≤ x.addr) }) }

/-- A range copied: bytes and poison; the granules of the copy hold no full-empty bit of their own and no tag, and no cache keeps a line of what lay there (R260). -/
def State.copyRange (s : State) (src dst n : Nat) : State :=
  let cells := sliceOf s.mem src n
  let bad := (s.poison.filter fun g => decide (src / 16 ≤ g) && decide (g < (src + n) / 16)).map fun g => g - src / 16 + dst / 16
  let s := (s.scrubRange dst n).dropRange dst n
  { s with mem := cells.foldl (fun m c => writeByte m (dst + c.1) c.2) s.mem, poison := s.poison ++ bad }

/-- The address under which memory holds a page of a module. -/
def modulePa (m a : Nat) : Nat := apertureBase + m * moduleSpan + a

/-- The replica's leaf: TIER 0, DUP 1, W 0, RC 0, PFN of the frame. -/
def replicaLeaf (x : DWord) (frame : Nat) : DWord :=
  dword (withBits (withBits (setBit64 (setBit64 (setBit64 (liveForm x) 11 true) 2 false) 10 false).toNat 28 36 frame) 13 2 0)

/-- A frame of a tenancy's replica pool that the home agents let the copy write (R381, R382), for a master that the module lets it read (R350). -/
def State.freeReplica (s : State) (ctx : Nat) (x : DWord) : Option Nat :=
  let ten := (s.ctx ctx).tenancy
  if (s.reachFrom none (s.ctxWorld ctx) (leafPfn x * pageBytes) pageBytes .read).isSome then none
  else (s.ten ten).replicas.find? fun f => s.tenReaches ten (f * pageBytes) pageBytes .write

/-- A read through a remote leaf is served (R283): the page is copied to a free frame of the tenancy's pool, or, where none is free, the leaf maps the master with DUP 1 and W 0. Writable leaves return to remote form first. -/
def State.replicate (s : State) (ctx va : Nat) : State :=
  match s.walk ctx va with
  | .remote page at_ x =>
    let (m, a) := s.masterOf (leafPfn x * pageBytes)
    let p := s.migPage m a
    let open_ := match p.st with
      | .master => true
      | .replicated => true
      | .writable => true
      | _ => false
    if !leafMig x || !open_ then s
    else
      let back := p.st = .writable
      let s := if back then p.leaves.foldl (fun (s : State) l => s.returnLeaf false l) s else s
      let p := { p with st := .replicated, readers := if p.readers.contains s.self then p.readers else p.readers ++ [s.self], reader := s.self, leaves := if back then [] else p.leaves }
      let r := setBit64 x 27 false
      match s.freeReplica ctx x with
      | some f =>
        let s := (s.copyRange (modulePa m a) (f * pageBytes) pageBytes).mapTen (s.ctx ctx).tenancy fun t => { t with replicas := t.replicas.erase f }
        let l : MigLeaf := ⟨ctx, page, at_, r, some f, false⟩
        (s.putLeaf l (replicaLeaf x f)).setPage (p.withLeaf l)
      | none =>
        let l : MigLeaf := ⟨ctx, page, at_, r, none, false⟩
        (s.putLeaf l (setBit64 (setBit64 (liveForm x) 11 true) 2 false)).setPage (p.withLeaf l)
  | _ => s

/-- REPLICATION_COMPLETE (R153, R282, R283). A package's replica of a page is made, and its leaf becomes valid with DUP 1. -/
def execReplicationComplete (ctx va : Nat) (s : State) : Host.Outcome State Fault Refusal :=
  .next (s.replicate ctx va)

/-- Collapses of a page within the 10 ms up to its last one. -/
def MigPage.recentCollapses (p : MigPage) : Nat :=
  match p.collapses with
  | [] => 0
  | last :: _ => (p.collapses.filter fun c => decide (last < c + 33000000)).length

/-- A collapse is complete (R283), unless it is the fourth within 10 ms, which pins the page (R284): the page is WRITABLE, the writer's leaf maps the master with W, the other leaves lose MIG. -/
def State.collapsed (s : State) (m a : Nat) : State :=
  let p := s.migPage m a
  match p.st with
  | .collapsing _ =>
    if 4 ≤ p.recentCollapses then s
    else
    let s := p.leaves.foldl (fun (s : State) l => if l.writes then s.putLeaf l (liveForm l.remote) else s.putLeaf l l.remote) s
    s.setPage { p with st := .writable, readers := [], leaves := p.leaves.filter fun l => l.writes }
  | _ => s

/-- COLLAPSE_COMPLETE (R283, R285). Every replica of a page is gone, and the writer's leaf maps the master. -/
def execCollapseComplete (module maddr : Nat) (s : State) : Host.Outcome State Fault Refusal :=
  .next (s.collapsed module maddr)

/-- A page is pinned at its fourth collapse within 10 ms (R284): its master moves to the module that the writing pair shares, where it does not lie there already, and the leaves map it with PIN 1. -/
def State.pinPage (s : State) (m a toModule toAddr : Nat) : State :=
  let p := s.migPage m a
  let busy := match p.st with | .collapsing _ => true | _ => false
  if !busy || p.recentCollapses < 4 then s
  else
    let home := (s.pod.shared p.writer p.reader).getD m
    let moves := home != m
    if moves && (toModule != home || toAddr % pageBytes != 0 || decide (moduleSpan < toAddr + pageBytes)) then s
    else
      let m2 := if moves then toModule else m
      let a2 := if moves then toAddr else a
      let s := if moves then s.copyRange (modulePa m a) (modulePa m2 a2) pageBytes else s
      let leaves := p.leaves.map fun (l : MigLeaf) => { l with remote := s.leafAt l.remote m2 a2, frame := none, writes := true }
      let s := leaves.foldl (fun (s : State) l => s.putLeaf l (setBit64 (liveForm l.remote) 12 true)) s
      let q := { p with module := m2, addr := a2, st := .pinned, readers := [], since := s.clock, leaves := leaves, movedTo := none }
      (if moves then s.setPage { p with st := .pinned, readers := [], leaves := [], movedTo := some (m2, a2) } else s).setPage q

/-- PAGE_PIN (R284). A fourth collapse within 10 ms pins the page. -/
def execPagePin (module maddr toModule toAddr : Nat) (s : State) : Host.Outcome State Fault Refusal :=
  .next (s.pinPage module maddr toModule toAddr)

/-- A page that the device pinned is WRITABLE again after 100 ms; a PIN bit of system software stays. -/
def State.unpinPage (s : State) (m a : Nat) : State :=
  let p := s.migPage m a
  if p.st ≠ .pinned || p.movedTo.isSome || s.clock < p.since + 330000000 then s
  else (p.leaves.foldl (fun (s : State) l => s.putLeaf l (liveForm l.remote)) s).setPage { p with st := .writable, collapses := [] }

/-- PIN_EXPIRE (R283, R284). A pinned page becomes WRITABLE 100 ms after it was pinned. -/
def execPinExpire (module maddr : Nat) (s : State) : Host.Outcome State Fault Refusal :=
  .next (s.unpinPage module maddr)

/-- Another package reads or writes a migratable page through its remote leaf (R283): this package's leaves return to remote form where a replicated page is written, or a writable one is read. -/
def State.peerAccess (s : State) (m : Nat) (u : PeerUse) : State :=
  let p := s.migPage m u.maddr
  if u.pkg = s.self then s
  else match p.st, u.writes with
  | .replicated, true =>
    let s := p.leaves.foldl (fun (s : State) l => s.returnLeaf true l) s
    s.setPage { p with st := .collapsing u.pkg, collapses := s.clock :: p.collapses, writer := u.pkg
                       readers := p.readers.filter (· != s.self), leaves := p.leaves.map fun (l : MigLeaf) => { l with frame := none, writes := false } }
  | .replicated, false => s.setPage { p with readers := if p.readers.contains u.pkg then p.readers else p.readers ++ [u.pkg], reader := u.pkg }
  | .writable, false =>
    let s := p.leaves.foldl (fun (s : State) l => s.returnLeaf false l) s
    s.setPage { p with st := .replicated, readers := [u.pkg], reader := u.pkg, leaves := [] }
  | .writable, true => s.setPage { p with writer := u.pkg }
  | .master, true => s.setPage { p with st := .writable, writer := u.pkg }
  | .master, false => s.setPage { p with st := .replicated, readers := [u.pkg], reader := u.pkg }
  | _, _ => s

/-- REMOTE_FORM_RETURN (R283). Another package reads or writes the page: where it collapses or replicates it, this package's leaves return to remote form. -/
def execRemoteFormReturn (module : Nat) (maddr : PeerUse) (s : State) : Host.Outcome State Fault Refusal :=
  .next (s.peerAccess module maddr)

end Sys2Proof.Machine
end

