-- ==== Sys2Proof/Machine/Perform.lean ====
section
/-! DEFINITION. The acknowledgment of an access that an instruction left outstanding (R144, R230, R233). -/

namespace Sys2Proof.Machine

/-- No acknowledgment of its own ends an access: a store to a port that was lost is never acknowledged (R344), one to a relay package by the reply (R360). -/
def awaitsOther (d : Nat) : Bool := lostDest d || d % 1024 == overRelay

/-- The intervals of a gang once the outstanding access `n`, counted through the list, is acknowledged. -/
def Iv.acknowledge : List Iv → Nat → List Iv
  | [], _ => []
  | i :: rest, n =>
    if n < i.pend.length then
      (if awaitsOther (i.pend.getD n 0) then i else { i with pend := i.pend.eraseIdx n }) :: rest
    else i :: Iv.acknowledge rest (n - i.pend.length)

/-- An outstanding access of a gang is acknowledged, those of its open intervals being counted first and those it owes after them (R233, R242). -/
def Gang.acknowledge (g : Gang) (n : Nat) : Gang :=
  let k := (g.ivs.flatMap (·.pend)).length
  let h : Gang := { g with ivs := Iv.acknowledge g.ivs n }
  if n < k then h.prune
  else if awaitsOther (g.owed.getD (n - k) 16) then g
  else { g with owed := g.owed.eraseIdx (n - k) }

/-- ACCESS_PERFORMED (R128, R144, R230, R233). The outstanding access `n` of a gang is acknowledged; what waits for it looks again at its next turn. -/
def execAccessPerformed (g n : Nat) (s : State) : Host.Outcome State Fault Refusal :=
  .next (s.mapGang g fun x => x.acknowledge n)

end Sys2Proof.Machine
end

