-- ==== Sys2Proof/Machine/Sha.lean ====
section
/-! DEFINITION. SHA-384, with which the measurement registers are extended (R388). -/

namespace Sys2Proof.Machine

/-- The greatest `r` below `lim + 2 ^ bits` with `r ^ e` at most `n`, found bit by bit from the top. -/
def rootBits (e n : Nat) : Nat → Nat → Nat
  | 0, r => r
  | bits + 1, r => rootBits e n bits (if (r + 2 ^ bits) ^ e ≤ n then r + 2 ^ bits else r)

/-- The first 64 bits of the fractional part of the `e`-th root of a number below 512. -/
def rootFraction (e p : Nat) : BitVec 64 := BitVec.ofNat 64 (rootBits e (p * 2 ^ (64 * e)) 69 0)

/-- The first `n` primes from `k` on; `fuel` bounds the numbers tried. -/
def primesFrom : Nat → Nat → Nat → List Nat
  | 0, _, _ => []
  | fuel + 1, n, k =>
    if n = 0 then []
    else if (List.range k).all fun d => d < 2 || k % d != 0 then k :: primesFrom fuel (n - 1) (k + 1)
    else primesFrom fuel n (k + 1)

/-- The first 80 primes. -/
def shaPrimes : List Nat := primesFrom 410 80 2

/-- The round constants of SHA-384: the fractions of the cube roots of the first 80 primes. -/
def shaK : List (BitVec 64) := shaPrimes.map (rootFraction 3)

/-- The initial hash value of SHA-384: the fractions of the square roots of the ninth to the sixteenth prime. -/
def shaIv : List (BitVec 64) := ((shaPrimes.drop 8).take 8).map (rootFraction 2)

/-- Rotation to the right. -/
def rotr (x : BitVec 64) (n : Nat) : BitVec 64 := x.rotateRight n

/-- A big-endian number of bytes. -/
def bigNat (b : List Byte) : Nat := b.foldl (fun n x => 256 * n + x.toNat) 0

/-- A number as `n` bytes, the most significant first. -/
def bigBytes (n x : Nat) : List Byte := (bytesOf n x).reverse

/-- The message schedule: 16 words of a block extended to 80. -/
def shaSchedule : Nat → List (BitVec 64) → List (BitVec 64)
  | 0, w => w
  | n + 1, w =>
    let at_ := fun (i : Nat) => w.getD (w.length - i) 0
    let s0 := rotr (at_ 15) 1 ^^^ rotr (at_ 15) 8 ^^^ (at_ 15 >>> 7)
    let s1 := rotr (at_ 2) 19 ^^^ rotr (at_ 2) 61 ^^^ (at_ 2 >>> 6)
    shaSchedule n (w ++ [at_ 16 + s0 + at_ 7 + s1])

/-- One round on the eight working variables. -/
def shaRound (h : List (BitVec 64)) (kw : BitVec 64) : List (BitVec 64) :=
  let v := fun (i : Nat) => h.getD i 0
  let s1 := rotr (v 4) 14 ^^^ rotr (v 4) 18 ^^^ rotr (v 4) 41
  let ch := (v 4 &&& v 5) ^^^ (~~~(v 4) &&& v 6)
  let t1 := v 7 + s1 + ch + kw
  let s0 := rotr (v 0) 28 ^^^ rotr (v 0) 34 ^^^ rotr (v 0) 39
  let maj := (v 0 &&& v 1) ^^^ (v 0 &&& v 2) ^^^ (v 1 &&& v 2)
  [t1 + s0 + maj, v 0, v 1, v 2, v 3 + t1, v 4, v 5, v 6]

/-- A block of 128 bytes compressed into the hash value. -/
def shaBlock (h : List (BitVec 64)) (b : List Byte) : List (BitVec 64) :=
  let w := (List.range 16).map fun i => BitVec.ofNat 64 (bigNat ((b.drop (8 * i)).take 8))
  let out := ((shaSchedule 64 w).zip shaK).foldl (fun h x => shaRound h (x.1 + x.2)) h
  (h.zip out).map fun x => x.1 + x.2

/-- A message padded to whole blocks. -/
def shaPad (m : List Byte) : List Byte :=
  m ++ [0x80#8] ++ List.replicate ((239 - m.length % 128) % 128) 0 ++ bigBytes 16 (8 * m.length)

/-- The blocks of a padded message, `fuel` at most. -/
def shaBlocks : Nat → List (BitVec 64) → List Byte → List (BitVec 64)
  | 0, h, _ => h
  | fuel + 1, h, m => if m.isEmpty then h else shaBlocks fuel (shaBlock h (m.take 128)) (m.drop 128)

/-- SHA-384 of a message. -/
def sha384 (m : List Byte) : BitVec 384 :=
  let p := shaPad m
  ((shaBlocks (p.length / 128) shaIv p).take 6).foldl (fun (n : BitVec 384) x => n <<< 64 ||| x.setWidth 384) 0

/-- The 48 bytes of a digest. -/
def digestBytes (d : BitVec 384) : List Byte := bigBytes 48 d.toNat

end Sys2Proof.Machine
end

