-- ==== Sys2Proof/Machine/Trust.lean ====
section
/-! DEFINITION. The root of trust (R379 to R392): measurement, ownership of the control plane, entropy and keys, world assignment and scrub, boot, SPDM, power. -/

namespace Sys2Proof.Machine

/-! ## Measurement (R388) -/

/-- A measurement register extended: MR ← SHA-384(MR ‖ x). -/
def Trust.extend (t : Trust) (i : Nat) (x : List Byte) : Trust := { t with mrs := t.mrs.put i (sha384 (digestBytes (t.mr i) ++ x)) }

/-- The state with a measurement register extended. -/
def State.extend (s : State) (i : Nat) (x : List Byte) : State := s.mapTrust fun t => t.extend i x

/-- EXTEND (R388). The owner writes a digest to EXTEND: MR10 to MR15. -/
def execExtendMr (who : Owner) (mr : Nat) (digest : BitVec 384) (s : State) : Host.Outcome State Fault Refusal :=
  .next (s.ownerWrite who fun s => if 10 ≤ mr ∧ mr ≤ 15 then s.extend mr (digestBytes digest) else s)

/-! ## Ownership (R390, R391) -/

/-- Ownership passes to a master: EPOCH counts, and MR7 is extended. -/
def State.changeOwner (s : State) (n : Nat) : State :=
  s.mapTrust fun t => { t with owner := n, epoch := t.epoch + 1 }.extend 7 (digestBytes (Config.ownerDigest (t.epoch + 1) n))

/-- The number of a master that may ask for ownership. -/
def masterCode : Owner → Option Nat
  | .host => some 1
  | .bmc => some 2
  | _ => none

/-- A request: pending while Garnet owns the plane, else BUSY. -/
def State.requestOwner (s : State) (who : Owner) : State :=
  match masterCode who with
  | none => s
  | some n =>
    if s.trust.owner = n then s
    else if s.trust.owner ≠ 0 ∨ s.trust.pending.isSome then s.mapTrust fun t => { t with last := 2 }
    else s.mapTrust fun t => { t with pending := some n }

/-- Garnet's decision on the pending request. -/
def State.decideOwner (s : State) (granted : Bool) : State :=
  match s.trust.pending with
  | none => s
  | some n =>
    let s := s.mapTrust fun t => { t with pending := none, last := if granted then 0 else 1 }
    if granted then s.changeOwner n else s

/-- Ownership returns to Garnet from a master that holds it. -/
def State.returnOwner (s : State) (n : Nat) : State := if s.trust.owner = n then s.changeOwner 0 else s

/-- OWNERSHIP_REQUEST (R390, R391). A master asks for the control plane. -/
def execOwnershipRequest (who : Owner) (s : State) : Host.Outcome State Fault Refusal :=
  .next (s.fromMaster who fun s => s.requestOwner who)

/-- OWNERSHIP_GRANT_DECISION (R391). Garnet grants or denies the pending request. -/
def execOwnershipGrantDecision (granted : Bool) (s : State) : Host.Outcome State Fault Refusal :=
  .next (s.decideOwner granted)

/-- OWNERSHIP_RELEASE (R391). The owner gives the control plane back to Garnet. -/
def execOwnershipRelease (who : Owner) (s : State) : Host.Outcome State Fault Refusal :=
  .next (s.fromMaster who fun s => match masterCode who with | some n => s.returnOwner n | none => s)

/-- OWNER_LINK_LOSS (R391). An owning host's link is lost, or its function is reset. -/
def execOwnerLinkLoss (s : State) : Host.Outcome State Fault Refusal :=
  .next (s.returnOwner 1)

/-- BMC_SILENCE_TIMEOUT (R391). The BMC that owns the plane has been silent for 1 s. -/
def execBmcSilenceTimeout (s : State) : Host.Outcome State Fault Refusal :=
  .next (s.returnOwner 2)

/-! ## Entropy and keys (R383, R386) -/

/-- The repetition count test fails: 6 identical samples in a row. -/
def repeats : Nat → Option Byte → List Byte → Bool
  | n, _, [] => decide (6 ≤ n)
  | n, last, b :: t => decide (6 ≤ n) || repeats (if last = some b then n + 1 else 1) (some b) t

/-- The adaptive proportion test fails: a value occurs 96 times within a window of 512 samples, which may begin where the value first occurs in it. -/
def skewed : List Byte → Bool
  | [] => false
  | b :: t => decide (96 ≤ ((b :: t).take 512).count b) || skewed t

/-- The health tests fail on samples that follow those drawn since the tests began (R386). -/
def unhealthy (drawn samples : List Byte) : Bool := repeats 0 none (drawn ++ samples) || skewed (drawn ++ samples)

/-- The samples that the tests still look at after some more: the window of the adaptive proportion test but for its newest. -/
def lastDrawn (drawn samples : List Byte) : List Byte := (drawn ++ samples).drop ((drawn ++ samples).length - 511)

/-- Beryl's 1 MHz timer (R386): microseconds, at a fixed rate whatever the arithmetic clock. -/
def State.micros (s : State) : Nat := s.timer / Config.timerParts

/-- Microseconds of 24 hours. -/
def dayMicros : Nat := 24 * 3600 * 1000000

/-- STATUS of the dies of an assignment, which ends. -/
def State.endAssignment (s : State) (a : Assignment) (status : Nat) : State :=
  let s := a.dies.foldl (fun (s : State) d => s.mapDie d fun x => { x with status := status }) s
  s.mapTrust fun t => { t with keyWaits := t.keyWaits.filter fun b => b != a }

/-- Every assignment that waits for a key ends with ENTROPY_FAIL. -/
def State.failKeys (s : State) : State := (s.trust.keyWaits.filter fun a => a.key).foldl (fun (s : State) a => s.endAssignment a 2) s

/-- A health test has failed: FAILED, or LOCKED at the third failure within 24 hours; FAILCNT counts, and MR9 is extended with the time. -/
def State.entropyFails (s : State) : State :=
  let s := s.mapTrust fun t =>
    let recent := t.failTimes.filter fun c => decide (s.micros < c + dayMicros)
    { t with entropy := if 2 ≤ recent.length then .locked else .failed, failTimes := t.failTimes ++ [s.micros], failCnt := t.failCnt + 1, drawn := [] }.extend 9 (bytesOf 8 s.micros)
  s.failKeys

/-- A key request waits for Beryl. -/
def State.keyWanted (s : State) (w : Nat) : Bool := s.trust.keyWaits.any fun a => a.key && a.req == w

/-- The pod key of a world is to be made here (R383). -/
def State.podKeyWanted (s : State) (w : Nat) : Bool := s.trust.podWaits.contains w

/-- A local key is issued, for every assignment that waits for it. -/
def State.issueLocal (s : State) (w : Nat) : State :=
  { s.mapTrust fun t => { t with
      localKeys := t.localKeys.put w (Config.keyBits s.free)
      keyWaits := t.keyWaits.map fun a => if a.req == w then { a with key := false } else a } with free := s.free + 1 }

/-- A pod key is issued, and goes to the peers that admit its world. A package that holds one takes part in the world under it; its bits are not in the state. -/
def State.issuePod (s : State) (w : Nat) : State :=
  (s.mapTrust fun t => { t with podKeys := t.podKeys ++ [w], podWaits := t.podWaits.filter (· != w) }).sendKeys

/-- Beryl draws 2,048 samples for a key of a world, the local one before the pod key: the key, or a failed test. A request for a pod key that meets a source that is not HEALTHY is made again once it is. -/
def State.makeKey (s : State) (w : Nat) (samples : List Byte) : State :=
  if s.trust.entropy ≠ .healthy || !(s.keyWanted w || s.podKeyWanted w) then s
  else if unhealthy s.trust.drawn samples then s.entropyFails
  else if samples.length ≠ 2048 then s
  else
    let t := s.mapTrust fun t => { t with drawn := lastDrawn t.drawn samples }
    if s.keyWanted w then t.issueLocal w else t.issuePod w

/-- KEY_GENERATE (R383, R386). Beryl draws entropy and makes a key. -/
def execKeyGenerate (world : Nat) (samples : List Byte) (s : State) : Host.Outcome State Fault Refusal :=
  .next (s.makeKey world samples)

/-- ENTROPY_TEST_FAIL (R386, R388). A health test fails during key generation or recovery. -/
def execEntropyTestFail (samples : List Byte) (s : State) : Host.Outcome State Fault Refusal :=
  .next (if unhealthy s.trust.drawn samples && (s.trust.entropy == .recovering || (s.trust.entropy == .healthy && (!s.trust.podWaits.isEmpty || s.trust.keyWaits.any fun a => a.key))) then s.entropyFails else s)

/-- ENTROPY_HEALTH_RESET (R386). A health reset moves a FAILED source to RECOVERING, and the tests begin from empty state. -/
def execEntropyHealthReset (who : Owner) (s : State) : Host.Outcome State Fault Refusal :=
  .next (s.ownerWrite who fun s => if s.trust.entropy = .failed then s.mapTrust fun t => { t with entropy := .recovering, drawn := [] } else s)

/-- ENTROPY_RECOVERED (R386). 1,024 consecutive samples pass: the source is HEALTHY. -/
def execEntropyRecovered (samples : List Byte) (s : State) : Host.Outcome State Fault Refusal :=
  .next (if s.trust.entropy = .recovering ∧ 1024 ≤ samples.length ∧ unhealthy s.trust.drawn samples = false then s.mapTrust fun t => { t with entropy := .healthy, drawn := lastDrawn t.drawn samples } else s)

/-! ## World assignment (R379, R380, R384) -/

/-- The tenancy of a die. -/
def State.tenancyOf (s : State) (die : Nat) : Option Tenancy := (List.find? (fun (p : Nat × Tenancy) => p.2.dies.testBit die) s.tens).map (·.2)

/-- The dies of a tenancy. -/
def Tenancy.dieList (t : Tenancy) : List Nat := (List.range Config.dies).filter fun d => t.dies.testBit d

/-- The dies that an assignment covers. -/
def State.assignSet (s : State) (die : Nat) (all : Bool) : List Nat :=
  match all, s.tenancyOf die with
  | true, some t => t.dieList
  | _, _ => [die]

/-- A crew, a handler thread or an engine command is placed on a die of a set. -/
def State.placedOn (s : State) (dies : List Nat) : Bool :=
  s.crews.any (fun p => p.2.cores.any fun k => dies.contains (dieOf k)) || s.gangs.any fun p => dies.contains (dieOf p.2.core)

/-- STATUS in the register of every die of a set. -/
def State.setStatus (s : State) (dies : List Nat) (n : Nat) : State := dies.foldl (fun (s : State) d => s.mapDie d fun x => { x with status := n }) s

/-- GO is written. -/
def State.assignWorld (s : State) (die req : Nat) (all : Bool) : State :=
  let dies := s.assignSet die all
  if Config.dies ≤ die ∨ 16 ≤ req ∨ dies.any (fun d => (s.die d).status == 1) then s
  else
    let s := s.mapDie die fun d => { d with req := req }
    let others := match s.tenancyOf die with | some t => t.dieList.filter fun d => d != die | none => []
    if s.placedOn dies then s.setStatus dies 4
    else if !all && others.any fun d => (s.die d).world != req then s.setStatus dies 5
    else if dies.all fun d => (s.die d).world == req then s.setStatus dies 0
    else
      let needs := req != 0 && (s.trust.localKeys.find? req).isNone
      if needs && s.trust.entropy != .healthy then s.setStatus dies 2
      else (s.setStatus dies 1).mapTrust fun t => { t with keyWaits := t.keyWaits ++ [⟨dies, req, needs⟩] }

/-- WORLD_ASSIGN_GO (R379, R380). GO starts a world assignment over a die or a tenancy. -/
def execWorldAssignGo (who : Owner) (die req : Nat) (all : Bool) (s : State) : Host.Outcome State Fault Refusal :=
  .next (s.ownerWrite who fun s => s.assignWorld die req all)

/-- The die of a unit: the sub-cores come first, then the engines of the cores. -/
def unitDie (u : Nat) : Nat := dieOf (if u < 1920 then u / 12 else u - 1920)

/-- A core after the scrub of its die. -/
def Core.scrubbed (c : Core) : Core :=
  { c with segs := [], cache := [], tlb := [], handles := [], arrays := [], hslots := [], boundary := 128 - c.qblk }

/-- A die is scrubbed (R384): the vaults, stores, TLBs, handles and arrays of its cores are zero, and no cache holds a line of its old world; a line that leaves a home cache ends the intervals of its tags (R266). -/
def State.scrubDie (s : State) (die : Nat) : State :=
  let old := (s.die die).world
  let s := (List.range Config.coresPerDie).foldl (fun (s : State) i =>
    let k := die * Config.coresPerDie + i
    (s.scrubRange (vaultPa k 0 0) 0x800000).mapCore k Core.scrubbed) s
  let keep := fun (x : Line) => x.world != old
  let s := (s.dies.flatMap fun d => (d.2.home.filter fun x => x.world == old).map (·.addr)).foldl (fun (s : State) a => s.endTagged a 128) s
  let s := { s with
    cores := s.cores.map fun (p : Nat × Core) => (p.1, { p.2 with cache := p.2.cache.filter keep })
    dies := s.dies.map fun (p : Nat × Die) => (p.1, { p.2 with home := p.2.home.filter keep })
    power := { s.power with gated := s.power.gated.filter fun u => unitDie u != die } }
  s.mapDie die fun d => { d with tlb := [] }

/-- Kind of the report on a structure that did not read back zero. -/
def errScrub : Nat := 7

/-- The scrubs of an assignment end: every die of the set latches the world at one moment, or all keep theirs with SCRUB_FAIL. -/
def State.scrubDone (s : State) (die : Nat) (failed : List Nat) : State :=
  match s.trust.keyWaits.find? fun a => a.dies.contains die && !a.key with
  | none => s
  | some a =>
    let moved := a.dies.filter fun d => (s.die d).world != a.req
    let old := moved.map fun d => (d, (s.die d).world)
    let s := moved.foldl State.scrubDie s
    if !failed.isEmpty then ((failed.foldl (fun (s : State) n => s.report (32 + die) errScrub n) s).endAssignment a 3).dropKeys
    else
      let s := moved.foldl (fun (s : State) d => s.mapDie d fun x => { x with world := a.req }) s
      let x := old.flatMap fun p => [BitVec.ofNat 8 p.1, BitVec.ofNat 8 p.2, BitVec.ofNat 8 a.req]
      ((s.extend 8 x).endAssignment a 0).dropKeys

/-- SCRUB_COMPLETE (R380, R383, R384, R388). The scrub of the dies of an assignment is complete, or a structure did not read back zero. -/
def execScrubComplete (die : Nat) (failed : List Nat) (s : State) : Host.Outcome State Fault Refusal :=
  .next (s.scrubDone die failed)

/-! ## Boot (R387) -/

/-- The first check of an image that fails: 0 RSA, 1 SLH-DSA, 2 security version. -/
def bootBad (i : BootImage) : Option Nat :=
  if !i.rsaOk then some 0 else if !i.slhOk then some 1 else if i.version < i.minimum then some 2 else none

/-- The images verified in order: those before the first that fails, and the check that it failed; an image that is missing fails the first. -/
def bootCheck : Nat → List BootImage → List BootImage × Option Nat
  | 0, _ => ([], none)
  | _ + 1, [] => ([], some 0)
  | n + 1, i :: rest =>
    match bootBad i with
    | some c => ([], some c)
    | none => let r := bootCheck n rest; (i :: r.1, r.2)

/-- Boot: the ROM, the verified images and the fuses are measured; the package runs and its ports train, or it stays in RECOVERY. -/
def State.bootUp (s : State) (images : List BootImage) : State :=
  if s.trust.boot ≠ .reset then s
  else
    let r := bootCheck 5 images
    let s := s.extend 0 (digestBytes Config.romDigest)
    let s := (r.1.mapIdx fun i x => (i + 1, x)).foldl (fun (s : State) p => s.extend p.1 (digestBytes p.2.digest)) s
    match r.2 with
    | some c => s.mapTrust fun t => { t with boot := .recovery r.1.length c }
    | none =>
      let s := (s.extend 6 (digestBytes (Config.fuseDigest (r.1.map fun i => i.version)))).mapTrust fun t => { t with boot := .running }
      (List.range Config.ports).foldl (fun (s : State) p => s.mapPort p fun x => if x.st = .down then { x with st := .training } else x) s

/-- BOOT (R342, R387, R388). The ROM verifies and loads the firmware images in order. -/
def execBoot (images : List BootImage) (s : State) : Host.Outcome State Fault Refusal :=
  .next (s.bootUp images)

/-! ## SPDM (R389) -/

/-- Measurement block n: MR(n − 1) for 1 to 16; FAILCNT and LOCKED for 17. -/
def Trust.measurement (t : Trust) (n : Nat) : Option (List Byte) :=
  if 1 ≤ n ∧ n ≤ 16 then some (digestBytes (t.mr (n - 1)))
  else if n = 17 then some [BitVec.ofNat 8 t.failCnt, if t.entropy = .locked then 1 else 0]
  else none

/-- The device key (R389). -/
def Trust.deviceKey (t : Trust) : BitVec 384 := Config.deviceKey ((List.range 7).map t.mr)

/-- A response whose contents the manual does not give; certificates and their digests go with the device key. -/
def State.answer (s : State) (request : Nat) (f : Trust → Trust) : State :=
  { s.mapTrust fun t => { f t with response := Config.spdmResponse request t.deviceKey s.free } with free := s.free + 1 }

/-- A response signed with the device key (R389): its contents, then the signature over them. -/
def State.answerSigned (s : State) (body : List Byte) (f : Trust → Trust) : State :=
  { s.mapTrust fun t => { f t with response := body ++ Config.signature t.deviceKey body s.free } with free := s.free + 1 }

/-- The contents of a signed response that the manual does not give. -/
def State.answerWith (s : State) (request : Nat) (f : Trust → Trust) : State :=
  s.answerSigned (Config.spdmResponse request s.trust.deviceKey s.free) f

/-- Numbers of the requests. -/
def rqVersion : Nat := 0
def rqCapabilities : Nat := 1
def rqAlgorithms : Nat := 2
def rqDigests : Nat := 3
def rqCertificate : Nat := 4
def rqChallenge : Nat := 5
def rqMeasurements : Nat := 6
def rqKeyExchange : Nat := 7
def rqFinish : Nat := 8

/-- SHA-384 and P-384 as NEGOTIATE_ALGORITHMS names them. -/
def alg384 : Nat := 384

/-- GET_VERSION (R389). The supported versions; a connection begins anew. -/
def execGetVersion (s : State) : Host.Outcome State Fault Refusal :=
  .next (s.answer rqVersion fun t => { t with spdmVersion := true, spdmAlgs := false, session := 0 })

/-- GET_CAPABILITIES (R389). The capabilities. -/
def execGetCapabilities (s : State) : Host.Outcome State Fault Refusal :=
  .next (s.answer rqCapabilities id)

/-- NEGOTIATE_ALGORITHMS (R389). The algorithms: SHA-384 and ECDSA P-384, where they are offered. -/
def execNegotiateAlgorithms (hashes sigs : List Nat) (s : State) : Host.Outcome State Fault Refusal :=
  .next (s.answer rqAlgorithms fun t => { t with spdmAlgs := t.spdmVersion && hashes.contains alg384 && sigs.contains alg384 })

/-- GET_DIGESTS (R389). The digests of the certificate chains. -/
def execGetDigests (s : State) : Host.Outcome State Fault Refusal :=
  .next (s.answer rqDigests id)

/-- GET_CERTIFICATE (R389). A part of the certificate chain, from an offset and of a length. -/
def execGetCertificate (off len : Nat) (s : State) : Host.Outcome State Fault Refusal :=
  .next (s.answer (rqCertificate + 16 * (off + 65536 * len)) id)

/-- CHALLENGE (R389). A signed answer to a nonce. -/
def execChallenge (nonce : BitVec 256) (s : State) : Host.Outcome State Fault Refusal :=
  .next (s.answerWith (rqChallenge + 16 * nonce.toNat) id)

/-- GET_MEASUREMENTS (R388, R389). A measurement block, signed. -/
def execGetMeasurements (index : Nat) (s : State) : Host.Outcome State Fault Refusal :=
  .next (match s.trust.measurement index with | some b => s.answerSigned b id | none => s.answer (rqMeasurements + 16 * index) id)

/-- KEY_EXCHANGE (R389). A session is opened with the requester's share. -/
def execKeyExchange (share : BitVec 768) (s : State) : Host.Outcome State Fault Refusal :=
  .next (s.answerWith (rqKeyExchange + 16 * share.toNat) fun t => if t.spdmAlgs then { t with session := 1 } else t)

/-- FINISH (R389). The session is established once the requester is verified. -/
def execSpdmFinish (verified : Bool) (s : State) : Host.Outcome State Fault Refusal :=
  .next (s.answer rqFinish fun t => if t.session = 1 then { t with session := if verified then 2 else 0 } else t)

/-! ## Power and cooling (R392) -/

/-- The power controller meets a measured power. Above the limit it throttles plane-array issue, then lowers the clock in steps of 100 MHz down to 1.2 GHz, then throttles vector issue; otherwise it takes the last of these steps back, where the temperature lets the clock rise. -/
def Power.hold (p : Power) (watts : Nat) : Power :=
  if p.limit < watts then
    if !p.throttlePlane then { p with throttlePlane := true }
    else if Config.clockFloor < p.mhz then { p with mhz := max (p.mhz - 100) Config.clockFloor }
    else { p with throttleVector := true }
  else if p.throttleVector then { p with throttleVector := false }
  else if p.mhz < Config.clockMHz then if p.celsius < 105 then { p with mhz := min (p.mhz + 100) Config.clockMHz } else p
  else { p with throttlePlane := false }

/-- POWER_CONTROLLER (R392). The power controller holds package power at the limit. -/
def execPowerController (watts : Nat) (s : State) : Host.Outcome State Fault Refusal :=
  .next ({ s with power := s.power.hold watts })

/-- THERMAL_THROTTLE (R392). At a junction temperature of 105 °C the package runs at 1.2 GHz. -/
def execThermalThrottle (celsius : Nat) (s : State) : Host.Outcome State Fault Refusal :=
  .next ({ s with power := { s.power with celsius := celsius, mhz := if 105 ≤ celsius then Config.clockFloor else s.power.mhz } })

/-- THERMAL_TRIP (R392, R335). At 115 °C Garnet orders a package reset and records the cause. -/
def execThermalTrip (celsius : Nat) (s : State) : Host.Outcome State Fault Refusal :=
  .next (if 115 ≤ celsius then s.resetPackage 2 else s)

/-- A unit is at work: the plane array of a sub-core executes, or a command of a core's engines is active. -/
def State.unitBusy (s : State) (u : Nat) : Bool :=
  if u < 1920 then ((s.core (u / 12)).arrays.find? (u % 12)).any fun a => a.exec.isSome
  else s.cmds.any fun m => m.st == .active && !m.finished && ((s.crew? m.crew).any fun c => c.homeCore == u - 1920)

/-- A unit that has been idle for 64 clocks is power-gated. -/
def State.gateUnit (s : State) (u : Nat) : State :=
  if 2080 ≤ u || s.power.gated.contains u || s.unitBusy u || decide (s.clock < s.power.used.at_ 0 u + 64) then s
  else { s with power := { s.power with gated := s.power.gated ++ [u] } }

/-- POWER_GATE (R392). A unit that has been idle for 64 clocks is power-gated. -/
def execPowerGate (unit : Nat) (s : State) : Host.Outcome State Fault Refusal :=
  .next (s.gateUnit unit)

end Sys2Proof.Machine
end

