-- ==== Sys2Proof/Machine/Dispatch.lean ====
section
/-! DEFINITION. The meaning of each instruction: one arm for each constructor of Instr. -/

namespace Sys2Proof.Machine

/-- The meaning of an instruction at a state. -/
def exec (i : Instr) (s : State) : Host.Outcome State Fault Refusal :=
  match i with
  | .nop => Sys2Proof.Machine.execNop s
  | .yield => Sys2Proof.Machine.execYield s
  | .exit => Sys2Proof.Machine.execExit s
  | .taskend => Sys2Proof.Machine.execTaskend s
  | .add nw d a b => Sys2Proof.Machine.execAdd nw d a b s
  | .sub nw d a b => Sys2Proof.Machine.execSub nw d a b s
  | .min nw d a b => Sys2Proof.Machine.execMin nw d a b s
  | .max nw d a b => Sys2Proof.Machine.execMax nw d a b s
  | .addi nw d a imm => Sys2Proof.Machine.execAddi nw d a imm s
  | .mini nw d a imm => Sys2Proof.Machine.execMini nw d a imm s
  | .maxi nw d a imm => Sys2Proof.Machine.execMaxi nw d a imm s
  | .minu nw d a b => Sys2Proof.Machine.execMinu nw d a b s
  | .maxu nw d a b => Sys2Proof.Machine.execMaxu nw d a b s
  | .abs nw d a => Sys2Proof.Machine.execAbs nw d a s
  | .neg nw d a => Sys2Proof.Machine.execNeg nw d a s
  | .mul nw d a b => Sys2Proof.Machine.execMul nw d a b s
  | .mulh nw d a b => Sys2Proof.Machine.execMulh nw d a b s
  | .mulhu nw d a b => Sys2Proof.Machine.execMulhu nw d a b s
  | .mad nw d a b => Sys2Proof.Machine.execMad nw d a b s
  | .and nw d a b => Sys2Proof.Machine.execAnd nw d a b s
  | .or nw d a b => Sys2Proof.Machine.execOr nw d a b s
  | .xor nw d a b => Sys2Proof.Machine.execXor nw d a b s
  | .andn nw d a b => Sys2Proof.Machine.execAndn nw d a b s
  | .andi nw d a imm => Sys2Proof.Machine.execAndi nw d a imm s
  | .ori nw d a imm => Sys2Proof.Machine.execOri nw d a imm s
  | .xori nw d a imm => Sys2Proof.Machine.execXori nw d a imm s
  | .shl nw d a b => Sys2Proof.Machine.execShl nw d a b s
  | .shr nw d a b => Sys2Proof.Machine.execShr nw d a b s
  | .sar nw d a b => Sys2Proof.Machine.execSar nw d a b s
  | .rol nw d a b => Sys2Proof.Machine.execRol nw d a b s
  | .shli nw d a imm => Sys2Proof.Machine.execShli nw d a imm s
  | .shri nw d a imm => Sys2Proof.Machine.execShri nw d a imm s
  | .sari nw d a imm => Sys2Proof.Machine.execSari nw d a imm s
  | .roli nw d a imm => Sys2Proof.Machine.execRoli nw d a imm s
  | .clz nw d a => Sys2Proof.Machine.execClz nw d a s
  | .popc nw d a => Sys2Proof.Machine.execPopc nw d a s
  | .brev nw d a => Sys2Proof.Machine.execBrev nw d a s
  | .bytep nw d a b => Sys2Proof.Machine.execBytep nw d a b s
  | .bfe nw d a b => Sys2Proof.Machine.execBfe nw d a b s
  | .bfeu nw d a b => Sys2Proof.Machine.execBfeu nw d a b s
  | .bfi nw d a b => Sys2Proof.Machine.execBfi nw d a b s
  | .seq nw d a b => Sys2Proof.Machine.execSeq nw d a b s
  | .sne nw d a b => Sys2Proof.Machine.execSne nw d a b s
  | .slt nw d a b => Sys2Proof.Machine.execSlt nw d a b s
  | .sle nw d a b => Sys2Proof.Machine.execSle nw d a b s
  | .sltu nw d a b => Sys2Proof.Machine.execSltu nw d a b s
  | .sleu nw d a b => Sys2Proof.Machine.execSleu nw d a b s
  | .sel nw d a b => Sys2Proof.Machine.execSel nw d a b s
  | .mov nw d a => Sys2Proof.Machine.execMov nw d a s
  | .add64 nw d a b => Sys2Proof.Machine.execAdd64 nw d a b s
  | .sub64 nw d a b => Sys2Proof.Machine.execSub64 nw d a b s
  | .mad64 nw d a b => Sys2Proof.Machine.execMad64 nw d a b s
  | .shl64 nw d a b => Sys2Proof.Machine.execShl64 nw d a b s
  | .sext8 nw d a => Sys2Proof.Machine.execSext8 nw d a s
  | .sext16 nw d a => Sys2Proof.Machine.execSext16 nw d a s
  | .zext8 nw d a => Sys2Proof.Machine.execZext8 nw d a s
  | .zext16 nw d a => Sys2Proof.Machine.execZext16 nw d a s
  | .fadd nw d a b => Sys2Proof.Machine.execFadd nw d a b s
  | .fsub nw d a b => Sys2Proof.Machine.execFsub nw d a b s
  | .fmul nw d a b => Sys2Proof.Machine.execFmul nw d a b s
  | .fma nw d a b => Sys2Proof.Machine.execFma nw d a b s
  | .fmin nw d a b => Sys2Proof.Machine.execFmin nw d a b s
  | .fmax nw d a b => Sys2Proof.Machine.execFmax nw d a b s
  | .fabs nw d a => Sys2Proof.Machine.execFabs nw d a s
  | .fneg nw d a => Sys2Proof.Machine.execFneg nw d a s
  | .fseq nw d a b => Sys2Proof.Machine.execFseq nw d a b s
  | .fslt nw d a b => Sys2Proof.Machine.execFslt nw d a b s
  | .fsle nw d a b => Sys2Proof.Machine.execFsle nw d a b s
  | .fsun nw d a b => Sys2Proof.Machine.execFsun nw d a b s
  | .rcp nw d a => Sys2Proof.Machine.execRcp nw d a s
  | .rsq nw d a => Sys2Proof.Machine.execRsq nw d a s
  | .sqrt nw d a => Sys2Proof.Machine.execSqrt nw d a s
  | .ex2 nw d a => Sys2Proof.Machine.execEx2 nw d a s
  | .lg2 nw d a => Sys2Proof.Machine.execLg2 nw d a s
  | .tanh nw d a => Sys2Proof.Machine.execTanh nw d a s
  | .floor nw d a => Sys2Proof.Machine.execFloor nw d a s
  | .frint nw d a => Sys2Proof.Machine.execFrint nw d a s
  | .badd2 nw d a b => Sys2Proof.Machine.execBadd2 nw d a b s
  | .bmul2 nw d a b => Sys2Proof.Machine.execBmul2 nw d a b s
  | .bfma2 nw d a b => Sys2Proof.Machine.execBfma2 nw d a b s
  | .bmax2 nw d a b => Sys2Proof.Machine.execBmax2 nw d a b s
  | .hadd2 nw d a b => Sys2Proof.Machine.execHadd2 nw d a b s
  | .hmul2 nw d a b => Sys2Proof.Machine.execHmul2 nw d a b s
  | .hfma2 nw d a b => Sys2Proof.Machine.execHfma2 nw d a b s
  | .hmax2 nw d a b => Sys2Proof.Machine.execHmax2 nw d a b s
  | .f2i nw d a => Sys2Proof.Machine.execF2i nw d a s
  | .i2f nw d a => Sys2Proof.Machine.execI2f nw d a s
  | .f2n nw d a b => Sys2Proof.Machine.execF2n nw d a b s
  | .n2f nw d a b => Sys2Proof.Machine.execN2f nw d a b s
  | .f2bf2 nw d a b => Sys2Proof.Machine.execF2bf2 nw d a b s
  | .f2h2 nw d a b => Sys2Proof.Machine.execF2h2 nw d a b s
  | .bf2f nw d a b => Sys2Proof.Machine.execBf2f nw d a b s
  | .h2f nw d a b => Sys2Proof.Machine.execH2f nw d a b s
  | .qf8 nw d a => Sys2Proof.Machine.execQf8 nw d a s
  | .qf4 nw d a => Sys2Proof.Machine.execQf4 nw d a s
  | .dq8 nw d a b => Sys2Proof.Machine.execDq8 nw d a b s
  | .dq4 nw d a b => Sys2Proof.Machine.execDq4 nw d a b s
  | .uadd nw d a b => Sys2Proof.Machine.execUadd nw d a b s
  | .usub nw d a b => Sys2Proof.Machine.execUsub nw d a b s
  | .umul nw d a b => Sys2Proof.Machine.execUmul nw d a b s
  | .umov nw d a => Sys2Proof.Machine.execUmov nw d a s
  | .uand nw d a b => Sys2Proof.Machine.execUand nw d a b s
  | .uor nw d a b => Sys2Proof.Machine.execUor nw d a b s
  | .uxor nw d a b => Sys2Proof.Machine.execUxor nw d a b s
  | .ushr nw d a b => Sys2Proof.Machine.execUshr nw d a b s
  | .ushl nw d a b => Sys2Proof.Machine.execUshl nw d a b s
  | .uadd64 nw d a b => Sys2Proof.Machine.execUadd64 nw d a b s
  | .useq nw d a b => Sys2Proof.Machine.execUseq nw d a b s
  | .uslt nw d a b => Sys2Proof.Machine.execUslt nw d a b s
  | .rdlane nw d a b => Sys2Proof.Machine.execRdlane nw d a b s
  | .umin nw d a b => Sys2Proof.Machine.execUmin nw d a b s
  | .umax nw d a b => Sys2Proof.Machine.execUmax nw d a b s
  | .uaddi nw d a imm => Sys2Proof.Machine.execUaddi nw d a imm s
  | .shflIdx nw d a b => Sys2Proof.Machine.execShflIdx nw d a b s
  | .shflUp nw d a b => Sys2Proof.Machine.execShflUp nw d a b s
  | .shflDn nw d a b => Sys2Proof.Machine.execShflDn nw d a b s
  | .shflXor nw d a b => Sys2Proof.Machine.execShflXor nw d a b s
  | .voteAll nw d a => Sys2Proof.Machine.execVoteAll nw d a s
  | .voteAny nw d a => Sys2Proof.Machine.execVoteAny nw d a s
  | .ballot nw d a => Sys2Proof.Machine.execBallot nw d a s
  | .matchAny nw d a => Sys2Proof.Machine.execMatchAny nw d a s
  | .radd nw d a => Sys2Proof.Machine.execRadd nw d a s
  | .rmin nw d a => Sys2Proof.Machine.execRmin nw d a s
  | .rmax nw d a => Sys2Proof.Machine.execRmax nw d a s
  | .rfadd nw d a => Sys2Proof.Machine.execRfadd nw d a s
  | .brz a disp => Sys2Proof.Machine.execBrz a disp s
  | .brnz a disp => Sys2Proof.Machine.execBrnz a disp s
  | .call a disp => Sys2Proof.Machine.execCall a disp s
  | .jmpi a => Sys2Proof.Machine.execJmpi a s
  | .ret a => Sys2Proof.Machine.execRet a s
  | .meet a => Sys2Proof.Machine.execMeet a s
  | .rdmt nw d => Sys2Proof.Machine.execRdmt nw d s
  | .jf a => Sys2Proof.Machine.execJf a s
  | .callf nw d a => Sys2Proof.Machine.execCallf nw d a s
  | .cfetch a b => Sys2Proof.Machine.execCfetch a b s
  | .cqry nw d a => Sys2Proof.Machine.execCqry nw d a s
  | .ldB d a b => Sys2Proof.Machine.execLdB d a b s
  | .ldH d a b => Sys2Proof.Machine.execLdH d a b s
  | .ldW d a b => Sys2Proof.Machine.execLdW d a b s
  | .ldD d a b => Sys2Proof.Machine.execLdD d a b s
  | .ldBu d a b => Sys2Proof.Machine.execLdBu d a b s
  | .ldHu d a b => Sys2Proof.Machine.execLdHu d a b s
  | .ldQ d a b => Sys2Proof.Machine.execLdQ d a b s
  | .ldF d a b => Sys2Proof.Machine.execLdF d a b s
  | .stB d a b => Sys2Proof.Machine.execStB d a b s
  | .stH d a b => Sys2Proof.Machine.execStH d a b s
  | .stW d a b => Sys2Proof.Machine.execStW d a b s
  | .stD d a b => Sys2Proof.Machine.execStD d a b s
  | .stQ d a b => Sys2Proof.Machine.execStQ d a b s
  | .ldxW d a b => Sys2Proof.Machine.execLdxW d a b s
  | .ldxD d a b => Sys2Proof.Machine.execLdxD d a b s
  | .ldxQ d a b => Sys2Proof.Machine.execLdxQ d a b s
  | .stxW d a b => Sys2Proof.Machine.execStxW d a b s
  | .stxD d a b => Sys2Proof.Machine.execStxD d a b s
  | .stxQ d a b => Sys2Proof.Machine.execStxQ d a b s
  | .amoAdd nw d a b => Sys2Proof.Machine.execAmoAdd nw d a b s
  | .amoMin nw d a b => Sys2Proof.Machine.execAmoMin nw d a b s
  | .amoMax nw d a b => Sys2Proof.Machine.execAmoMax nw d a b s
  | .amoAnd nw d a b => Sys2Proof.Machine.execAmoAnd nw d a b s
  | .amoOr nw d a b => Sys2Proof.Machine.execAmoOr nw d a b s
  | .amoXor nw d a b => Sys2Proof.Machine.execAmoXor nw d a b s
  | .amoXchg nw d a b => Sys2Proof.Machine.execAmoXchg nw d a b s
  | .amoCas nw d a b => Sys2Proof.Machine.execAmoCas nw d a b s
  | .amoFadd nw d a b => Sys2Proof.Machine.execAmoFadd nw d a b s
  | .amoBfadd2 nw d a b => Sys2Proof.Machine.execAmoBfadd2 nw d a b s
  | .amoMinu nw d a b => Sys2Proof.Machine.execAmoMinu nw d a b s
  | .amoMaxu nw d a b => Sys2Proof.Machine.execAmoMaxu nw d a b s
  | .amoxAdd nw d a b => Sys2Proof.Machine.execAmoxAdd nw d a b s
  | .amoxCas nw d a b => Sys2Proof.Machine.execAmoxCas nw d a b s
  | .amoxXchg nw d a b => Sys2Proof.Machine.execAmoxXchg nw d a b s
  | .amoxFadd nw d a b => Sys2Proof.Machine.execAmoxFadd nw d a b s
  | .fence => Sys2Proof.Machine.execFence s
  | .fencex a b => Sys2Proof.Machine.execFencex a b s
  | .bar => Sys2Proof.Machine.execBar s
  | .gbar a => Sys2Proof.Machine.execGbar a s
  | .qpush d a => Sys2Proof.Machine.execQpush d a s
  | .qpop d a => Sys2Proof.Machine.execQpop d a s
  | .qtrypop d a b => Sys2Proof.Machine.execQtrypop d a b s
  | .qlen d a => Sys2Proof.Machine.execQlen d a s
  | .xqCp nw d a => Sys2Proof.Machine.execXqCp nw d a s
  | .xqGx nw d a => Sys2Proof.Machine.execXqGx nw d a s
  | .xqNe nw d a => Sys2Proof.Machine.execXqNe nw d a s
  | .xqCl nw d a => Sys2Proof.Machine.execXqCl nw d a s
  | .waith a b => Sys2Proof.Machine.execWaith a b s
  | .hset a b => Sys2Proof.Machine.execHset a b s
  | .hqry nw d a b => Sys2Proof.Machine.execHqry nw d a b s
  | .hbind nw d a b => Sys2Proof.Machine.execHbind nw d a b s
  | .tlrSet a b => Sys2Proof.Machine.execTlrSet a b s
  | .tlrInv a => Sys2Proof.Machine.execTlrInv a s
  | .tlrRd nw d a b => Sys2Proof.Machine.execTlrRd nw d a b s
  | .mma d a b => Sys2Proof.Machine.execMma d a b s
  | .mmas a b => Sys2Proof.Machine.execMmas a b s
  | .podid nw d => Sys2Proof.Machine.execPodid nw d s
  | .podmap nw d a => Sys2Proof.Machine.execPodmap nw d a s
  | .trap a => Sys2Proof.Machine.execTrap a s
  | .svc d a b => Sys2Proof.Machine.execSvc d a b s
  | .brk => Sys2Proof.Machine.execBrk s
  | .assert a b => Sys2Proof.Machine.execAssert a b s
  | .frd d a b => Sys2Proof.Machine.execFrd d a b s
  | .fwr d a b => Sys2Proof.Machine.execFwr d a b s
  | .fres nw d a b => Sys2Proof.Machine.execFres nw d a b s
  | .fkill nw d a b => Sys2Proof.Machine.execFkill nw d a b s
  | .uliSend a b => Sys2Proof.Machine.execUliSend a b s
  | .uliWait d a b => Sys2Proof.Machine.execUliWait d a b s
  | .uliMask nw d a b => Sys2Proof.Machine.execUliMask nw d a b s
  | .uliBind nw d a => Sys2Proof.Machine.execUliBind nw d a s
  | .launch nw d a b => Sys2Proof.Machine.execLaunch nw d a b s
  | .spawn nw d a => Sys2Proof.Machine.execSpawn nw d a s
  | .rdsr nw d a => Sys2Proof.Machine.execRdsr nw d a s
  | .wrsr a b => Sys2Proof.Machine.execWrsr a b s
  | .invl a b => Sys2Proof.Machine.execInvl a b s
  | .invla a => Sys2Proof.Machine.execInvla a s
  | .pgqry d a => Sys2Proof.Machine.execPgqry d a s
  | .hxImm payload => Sys2Proof.Machine.execHxImm payload s
  | .hxExt payload => Sys2Proof.Machine.execHxExt payload s
  | .hxRegion payload => Sys2Proof.Machine.execHxRegion payload s
  | .hxSched pri reuse => Sys2Proof.Machine.execHxSched pri reuse s
  | .reservedEncoding w => Sys2Proof.Machine.execReservedEncoding w s
  | .ageingForce g pc => Sys2Proof.Machine.execAgeingForce g pc s
  | .blockedWake g mask => Sys2Proof.Machine.execBlockedWake g mask s
  | .fullEmptyWaitSatisfied g lane => Sys2Proof.Machine.execFullEmptyWaitSatisfied g lane s
  | .queueReexamine g lane => Sys2Proof.Machine.execQueueReexamine g lane s
  | .uliWaitTimeout g => Sys2Proof.Machine.execUliWaitTimeout g s
  | .segmentFetchLanded core ctx seg => Sys2Proof.Machine.execSegmentFetchLanded core ctx seg s
  | .segmentFetchFaulted core ctx seg => Sys2Proof.Machine.execSegmentFetchFaulted core ctx seg s
  | .pathSegmentRequest g => Sys2Proof.Machine.execPathSegmentRequest g s
  | .segmentRequestRetry core ctx seg => Sys2Proof.Machine.execSegmentRequestRetry core ctx seg s
  | .registerLineFill g line => Sys2Proof.Machine.execRegisterLineFill g line s
  | .registerUncorrectable g line part tags => Sys2Proof.Machine.execRegisterUncorrectable g line part tags s
  | .eccCorrection core => Sys2Proof.Machine.execEccCorrection core s
  | .memoryUncorrectable pa place => Sys2Proof.Machine.execMemoryUncorrectable pa place s
  | .heldRecordQueue ctx => Sys2Proof.Machine.execHeldRecordQueue ctx s
  | .handlerSpawn ctx sq slot => Sys2Proof.Machine.execHandlerSpawn ctx sq slot s
  | .recordDeliverOwner ctx sq => Sys2Proof.Machine.execRecordDeliverOwner ctx sq s
  | .handlerSlotFree core k => Sys2Proof.Machine.execHandlerSlotFree core k s
  | .pubStore crew => Sys2Proof.Machine.execPubStore crew s
  | .ringAccept crew => Sys2Proof.Machine.execRingAccept crew s
  | .copy crew sq => Sys2Proof.Machine.execCopy crew sq s
  | .copy2d crew sq => Sys2Proof.Machine.execCopy2d crew sq s
  | .fillmc crew sq => Sys2Proof.Machine.execFillmc crew sq s
  | .copymma crew sq => Sys2Proof.Machine.execCopymma crew sq s
  | .fill crew sq => Sys2Proof.Machine.execFill crew sq s
  | .copymmaFollowOn crew sq => Sys2Proof.Machine.execCopymmaFollowOn crew sq s
  | .gather crew sq => Sys2Proof.Machine.execGather crew sq s
  | .scatter crew sq => Sys2Proof.Machine.execScatter crew sq s
  | .scatteradd crew sq => Sys2Proof.Machine.execScatteradd crew sq s
  | .send crew sq => Sys2Proof.Machine.execSend crew sq s
  | .rmaw crew sq => Sys2Proof.Machine.execRmaw crew sq s
  | .contrib crew sq => Sys2Proof.Machine.execContrib crew sq s
  | .readsum crew sq => Sys2Proof.Machine.execReadsum crew sq s
  | .readround crew sq => Sys2Proof.Machine.execReadround crew sq s
  | .relay crew sq => Sys2Proof.Machine.execRelay crew sq s
  | .subtransferComplete crew sq n => Sys2Proof.Machine.execSubtransferComplete crew sq n s
  | .handleDestComplete crew sq => Sys2Proof.Machine.execHandleDestComplete crew sq s
  | .handleSourceRelease crew sq => Sys2Proof.Machine.execHandleSourceRelease crew sq s
  | .tileRecordEvict crew rec => Sys2Proof.Machine.execTileRecordEvict crew rec s
  | .arrayOperationStart core sub => Sys2Proof.Machine.execArrayOperationStart core sub s
  | .arrayResultWrite core sub => Sys2Proof.Machine.execArrayResultWrite core sub s
  | .launchStart ctx serial => Sys2Proof.Machine.execLaunchStart ctx serial s
  | .launchRetire ctx serial => Sys2Proof.Machine.execLaunchRetire ctx serial s
  | .balancerDecision die picks => Sys2Proof.Machine.execBalancerDecision die picks s
  | .balancerPeriodic die picks => Sys2Proof.Machine.execBalancerPeriodic die picks s
  | .watchedQueueReexamine die ctx serial stage => Sys2Proof.Machine.execWatchedQueueReexamine die ctx serial stage s
  | .cacheBlockHandover core => Sys2Proof.Machine.execCacheBlockHandover core s
  | .taskStart crew => Sys2Proof.Machine.execTaskStart crew s
  | .taskRetire crew => Sys2Proof.Machine.execTaskRetire crew s
  | .taskAbort crew error => Sys2Proof.Machine.execTaskAbort crew error s
  | .slotPreemption g => Sys2Proof.Machine.execSlotPreemption g s
  | .preempt ctx core => Sys2Proof.Machine.execPreempt ctx core s
  | .preemptResume ctx core => Sys2Proof.Machine.execPreemptResume ctx core s
  | .contextSwitchOut ctx core => Sys2Proof.Machine.execContextSwitchOut ctx core s
  | .switchedResume ctx core => Sys2Proof.Machine.execSwitchedResume ctx core s
  | .contextWake ctx core => Sys2Proof.Machine.execContextWake ctx core s
  | .contextRunControl who ctx => Sys2Proof.Machine.execContextRunControl who ctx s
  | .crewKill crew => Sys2Proof.Machine.execCrewKill crew s
  | .contextReset ctx => Sys2Proof.Machine.execContextReset ctx s
  | .tenancyResetDrain ten => Sys2Proof.Machine.execTenancyResetDrain ten s
  | .tenancyResetCancel ten => Sys2Proof.Machine.execTenancyResetCancel ten s
  | .packageReset => Sys2Proof.Machine.execPackageReset s
  | .boot images => Sys2Proof.Machine.execBoot images s
  | .uliSendArrival n => Sys2Proof.Machine.execUliSendArrival n s
  | .refusalNotice ctx => Sys2Proof.Machine.execRefusalNotice ctx s
  | .replicationComplete ctx va => Sys2Proof.Machine.execReplicationComplete ctx va s
  | .collapseComplete module maddr => Sys2Proof.Machine.execCollapseComplete module maddr s
  | .pagePin module maddr toModule toAddr => Sys2Proof.Machine.execPagePin module maddr toModule toAddr s
  | .pinExpire module maddr => Sys2Proof.Machine.execPinExpire module maddr s
  | .linkFail port link => Sys2Proof.Machine.execLinkFail port link s
  | .linkRestore port link => Sys2Proof.Machine.execLinkRestore port link s
  | .fibrePairFail port pair => Sys2Proof.Machine.execFibrePairFail port pair s
  | .spareRetrained port pair => Sys2Proof.Machine.execSpareRetrained port pair s
  | .retrain who port => Sys2Proof.Machine.execRetrain who port s
  | .portTrained port ident => Sys2Proof.Machine.execPortTrained port ident s
  | .portTrainingTimeout port => Sys2Proof.Machine.execPortTrainingTimeout port s
  | .portLost port headFailed => Sys2Proof.Machine.execPortLost port headFailed s
  | .moduleResponse tag status => Sys2Proof.Machine.execModuleResponse tag status s
  | .moduleWaitRetry tag => Sys2Proof.Machine.execModuleWaitRetry tag s
  | .moduleNotice module maddr => Sys2Proof.Machine.execModuleNotice module maddr s
  | .incastNotice port => Sys2Proof.Machine.execIncastNotice port s
  | .incastRecovery port => Sys2Proof.Machine.execIncastRecovery port s
  | .headDownNotice peer => Sys2Proof.Machine.execHeadDownNotice peer s
  | .lossNotice module peer => Sys2Proof.Machine.execLossNotice module peer s
  | .restoreNotice module peer => Sys2Proof.Machine.execRestoreNotice module peer s
  | .pairMessageArrival peer sq body => Sys2Proof.Machine.execPairMessageArrival peer sq body s
  | .pairAckArrival peer upTo => Sys2Proof.Machine.execPairAckArrival peer upTo s
  | .pairResendTimeout peer => Sys2Proof.Machine.execPairResendTimeout peer s
  | .relayRequest r => Sys2Proof.Machine.execRelayRequest r s
  | .hostSendPageStore ten tag ep operand trusted => Sys2Proof.Machine.execHostSendPageStore ten tag ep operand trusted s
  | .hostCxlAccess ten a trusted => Sys2Proof.Machine.execHostCxlAccess ten a trusted s
  | .controlMessage ten dfseq who w => Sys2Proof.Machine.execControlMessage ten dfseq who w s
  | .fenceTimeout n => Sys2Proof.Machine.execFenceTimeout n s
  | .netPacketTransmit crew sq k => Sys2Proof.Machine.execNetPacketTransmit crew sq k s
  | .netPacketReceive p => Sys2Proof.Machine.execNetPacketReceive p s
  | .netAckReceive crew sq ks => Sys2Proof.Machine.execNetAckReceive crew sq ks s
  | .netRtoExpire crew sq k => Sys2Proof.Machine.execNetRtoExpire crew sq k s
  | .worldAssignGo who die req all => Sys2Proof.Machine.execWorldAssignGo who die req all s
  | .keyGenerate world samples => Sys2Proof.Machine.execKeyGenerate world samples s
  | .scrubComplete die failed => Sys2Proof.Machine.execScrubComplete die failed s
  | .entropyTestFail samples => Sys2Proof.Machine.execEntropyTestFail samples s
  | .entropyHealthReset who => Sys2Proof.Machine.execEntropyHealthReset who s
  | .entropyRecovered samples => Sys2Proof.Machine.execEntropyRecovered samples s
  | .frameOwnerWrite who frame world => Sys2Proof.Machine.execFrameOwnerWrite who frame world s
  | .ownershipRequest who => Sys2Proof.Machine.execOwnershipRequest who s
  | .ownershipGrantDecision granted => Sys2Proof.Machine.execOwnershipGrantDecision granted s
  | .ownershipRelease who => Sys2Proof.Machine.execOwnershipRelease who s
  | .ownerLinkLoss => Sys2Proof.Machine.execOwnerLinkLoss s
  | .bmcSilenceTimeout => Sys2Proof.Machine.execBmcSilenceTimeout s
  | .claimWrite who ten entry owner ovec oq oep => Sys2Proof.Machine.execClaimWrite who ten entry owner ovec oq oep s
  | .handlerTableWrite who ctx cls value => Sys2Proof.Machine.execHandlerTableWrite who ctx cls value s
  | .vaultSettingsWrite who core q => Sys2Proof.Machine.execVaultSettingsWrite who core q s
  | .extendMr who mr digest => Sys2Proof.Machine.execExtendMr who mr digest s
  | .capportFrd ten cap sel => Sys2Proof.Machine.execCapportFrd ten cap sel s
  | .capportFwr ten cap sel value => Sys2Proof.Machine.execCapportFwr ten cap sel value s
  | .capportFres ten cap mask mode => Sys2Proof.Machine.execCapportFres ten cap mask mode s
  | .capportFkill ten cap mask => Sys2Proof.Machine.execCapportFkill ten cap mask s
  | .controlSpaceWrite who w => Sys2Proof.Machine.execControlSpaceWrite who w s
  | .getVersion => Sys2Proof.Machine.execGetVersion s
  | .getCapabilities => Sys2Proof.Machine.execGetCapabilities s
  | .negotiateAlgorithms hashes sigs => Sys2Proof.Machine.execNegotiateAlgorithms hashes sigs s
  | .getDigests => Sys2Proof.Machine.execGetDigests s
  | .getCertificate off len => Sys2Proof.Machine.execGetCertificate off len s
  | .challenge nonce => Sys2Proof.Machine.execChallenge nonce s
  | .getMeasurements index => Sys2Proof.Machine.execGetMeasurements index s
  | .keyExchange share => Sys2Proof.Machine.execKeyExchange share s
  | .spdmFinish verified => Sys2Proof.Machine.execSpdmFinish verified s
  | .thermalThrottle celsius => Sys2Proof.Machine.execThermalThrottle celsius s
  | .thermalTrip celsius => Sys2Proof.Machine.execThermalTrip celsius s
  | .powerGate unit => Sys2Proof.Machine.execPowerGate unit s
  | .accessPerformed g n => Sys2Proof.Machine.execAccessPerformed g n s
  | .frameZeroed frame => Sys2Proof.Machine.execFrameZeroed frame s
  | .remoteFormReturn module maddr => Sys2Proof.Machine.execRemoteFormReturn module maddr s
  | .powerController watts => Sys2Proof.Machine.execPowerController watts s

end Sys2Proof.Machine
end

