-- ==== Sys2Proof/Machine/Plan.lean ====
section
/-! DEFINITION. What a gang's turn comes to: a step of the device that has to come first, the word that it issues, or nothing. -/

namespace Sys2Proof.Machine

/-- What a turn of a gang comes to. -/
inductive Plan where
  | idle (s : State)
  | own (i : Instr) (s : State)
  | word (i : Instr) (s : State) (c : Choice)
  | illegal (sub : Nat) (s : State) (c : Choice)

/-- The subcode of a word that is no instruction for a path (R56, R57): 0x04 to 0x07 of the instruction it would be come before 0x09, and 0x06 before the 0x07 of HX.SCHED. -/
def illegalSub (e : Illegal) (h : Hints) : Nat :=
  match e with
  | .reserved _ => 2
  | .unused => 3
  | .nw i =>
    match opOf i h with
    | some o => min 9 ((o.form.illegalInsn h).getD 9)
    | none => 9
  | .sched _ _ => if h.sched.isSome then 6 else 7
  | .short => 2

/-- D of an MMA. -/
def mmaTarget : Instr → Option Nat
  | .mma d _ _ => some d
  | _ => none

/-- The issue of an instruction is held: a register line is still in the image (R253), the scoreboard (R197), or the instruction's own wait at issue. -/
def State.held (s : State) (gk : Nat) (g : Gang) (lanes : List Nat) (i : Instr) : Bool :=
  let h := (g.th (lanes.headD 0)).hints
  match opOf i h with
  | none => false
  | some o => g.lineHeld o.form || s.boardHeld gk g o.form (mmaTarget i) || g.queryHeld lanes o.form || !o.canIssue s gk g lanes h

/-- What a held issue does: an instruction that waits for pages asks for them. -/
def State.whileHeld (s : State) (gk : Nat) (g : Gang) (lanes : List Nat) (i : Instr) : State :=
  let h := (g.th (lanes.headD 0)).hints
  match opOf i h with
  | none => s
  | some o => if g.lineHeld o.form || s.boardHeld gk g o.form (mmaTarget i) || g.queryHeld lanes o.form then s else o.stall s (o.env s gk g lanes h)

/-- The turn of a gang that can issue. -/
def State.plan (s : State) (gk : Nat) : Plan :=
  match s.gang? gk with
  | none => .idle s
  | some g0 =>
    let g := g0.meet
    let s := s.setGang gk g
    match if g.forcedRun.isEmpty then g.agedPath (s.ctx g.ctx).ageMax else none with
    | some pc => .own (.ageingForce gk pc) s
    | none =>
      match g.choose with
      | none => .idle s
      | some c =>
        match c.lanes with
        | [] => .idle (s.setGang gk { g with split := [] })
        | _ =>
          match s.fetch g (c.pc g) with
          | none => .own (.pathSegmentRequest gk) s
          | some w =>
            let lost := g.damagedLanes c.lanes
            if !lost.isEmpty then
              .idle (((((s.freezeAll gk lost).mapGang gk (Gang.undamage (lost.map (·.1)))).mapGang gk Gang.settle).settleBarriers g.crew).releaseSlot gk)
            else
              let g := g.mapLanes c.lanes Thread.passMeeting
              let s := { s.setGang gk g with cur := some ⟨gk, maskOf c.lanes⟩ }
              match decodeNat w with
              | .ok i => if s.held gk g c.lanes i then .idle (s.whileHeld gk g c.lanes i).clearCur else .word i s c
              | .error (.reserved w) => .word (.reservedEncoding w) s c
              | .error e => .illegal (illegalSub e (g.th (c.lanes.headD 0)).hints) s c

/-- A unit is in use: it is awake (R392). -/
def State.useUnit (s : State) (u : Nat) : State :=
  { s with power := { s.power with gated := s.power.gated.filter (· != u), used := s.power.used.put u s.clock } }

/-- The units at work beside issue: the plane arrays that execute, and the engines of cores with an active command (R392). -/
def State.busyUnits (s : State) : List Nat :=
  (s.cores.flatMap fun (k : Nat × Core) => (k.2.arrays.filter fun a => a.2.exec.isSome).map fun a => 12 * k.1 + a.1)
    ++ (s.cmds.filter fun m => m.st == .active && !m.finished).filterMap fun m => (s.crew? m.crew).map fun c => 1920 + c.homeCore

/-- The state after an issue: what the issue of a choice leaves in its gang, from the gang as it stood before. -/
def State.afterIssue (s : State) (gk : Nat) (before : State) (c : Choice) : State :=
  match before.gang? gk with
  | none => s
  | some b => (s.mapGang gk fun g => g.afterIssue b (c.pc b) c).useUnit (12 * b.core + b.subCore)

/-! ## Readiness and issue slots (R304) -/

/-- The next instruction of a gang's selected path is held by the scoreboard or by a register-cache fill. -/
def State.stalled (s : State) (gk : Nat) (g : Gang) : Bool :=
  let m := g.meet
  match m.choose with
  | none => false
  | some c =>
    match s.fetch m (c.pc m) with
    | none => false
    | some w =>
      match decodeNat w with
      | .error _ => false
      | .ok i =>
        match opOf i (m.th (c.lanes.headD 0)).hints with
        | none => false
        | some o => m.lineHeld o.form || s.boardHeld gk m o.form (mmaTarget i) || m.queryHeld c.lanes o.form

/-- A gang is ready: resident, with a thread in RUN, and its next instruction not held. -/
def State.isReady (s : State) (gk : Nat) (g : Gang) : Bool := g.ready && (g.issue.isSome || !s.stalled gk g)

/-- A gang that has become ready since the last step counts its age from now; one that is no longer ready loses its age. -/
def State.noteReady (s : State) (gk : Nat) (g : Gang) : Gang :=
  let now := s.isReady gk g
  { g with readied := now, readyAt := if now && !g.readied then s.clock else g.readyAt }

/-- The gang that takes a free issue slot of a sub-core: the highest priority, then the oldest readiness. -/
def State.chooseGang (s : State) (core sub : Nat) : Option Nat :=
  let cands := s.gangs.filter fun p => p.2.core == core && p.2.subCore == sub && p.2.issue.isNone && p.2.readied
  (cands.foldl (fun best p =>
    match best with
    | none => some p
    | some b =>
      if s.slotPriority b.2 < s.slotPriority p.2 || (s.slotPriority b.2 == s.slotPriority p.2 && decide (p.2.readyAt < b.2.readyAt))
      then some p else some b) none).map (·.1)

/-- A free issue slot of a sub-core is given away. -/
def State.giveSlot (s : State) (core sub : Nat) : State :=
  let held := s.gangs.filterMap fun p => if p.2.core == core && p.2.subCore == sub then p.2.issue else none
  match lowestFree held 2 with
  | none => s
  | some slot =>
    match s.chooseGang core sub with
    | none => s
    | some g => s.mapGang g fun x => { x with issue := some slot, takenAt := s.clock }

/-- The device's own accesses pass through their home caches (R265). -/
def State.settlePassing (s : State) : State :=
  s.passing.foldl (fun (s : State) (p : Pass) => s.homeRun (s.ctxCore p.ctx) p.ctx p.pa p.len p.writes) { s with passing := [] }

/-- The end of a step: links take their granules back (R340), a context whose queue is full stops (R323), query results that are due are written (R225), writes of the device that waited are performed (R283, R382), its accesses pass through the home caches (R265), units at work are awake (R392), resets that nothing holds any more are complete (R337), the gangs' readiness is noted, and every free issue slot for which a ready gang waits is given to it. -/
def State.dealSlots (s : State) : State :=
  let s := s.settleLinks
  let s := s.ctxs.keys.foldl State.stopIfFull s
  let s := (s.gangs.filter fun p => !p.2.queries.isEmpty).foldl (fun (s : State) p => s.answerQueries p.1) s
  let s := if s.late.isEmpty then s else s.settleLate
  let s := if s.passing.isEmpty then s else s.settlePassing
  let s := s.busyUnits.foldl State.useUnit s
  let s := s.endResets
  let s : State := { s with gangs := s.gangs.map fun (p : Nat × Gang) => (p.1, s.noteReady p.1 p.2) }
  let subs := ((s.gangs.filter fun p => p.2.issue.isNone && p.2.readied).map fun p => (p.2.core, p.2.subCore)).eraseDups
  subs.foldl (fun (s : State) x => (s.giveSlot x.1 x.2).giveSlot x.1 x.2) s

/-- The gang that issues when nothing else is asked for: the first that holds an issue slot and has a thread in RUN. -/
def State.nextGang (s : State) : Option Nat :=
  (List.find? (fun (p : Nat × Gang) => p.2.issue.isSome && p.2.ready) s.gangs).map fun p => p.1

/-- The clock moves on by some clocks; so does the timer, at the rate of the arithmetic clock as it is (R386, R392). -/
def State.advance (s : State) (n : Nat) : State := { s with clock := s.clock + n, timer := s.timer + n * (Config.timerParts / s.power.mhz) }

/-- The clock moves on by the clocks that this step takes. -/
def State.tick (s : State) : State :=
  match s.pace with
  | n :: rest => { s with pace := rest }.advance n
  | [] => s.advance 1

end Sys2Proof.Machine
end

