-- ==== Sys2Proof/Machine/Step.lean ====
section
/-! DEFINITION. One step of the machine: a step of the device that the agenda names, or the issue of one instruction by a gang. -/

namespace Sys2Proof.Machine

/-- What an issue leaves in its gang, added to the meaning's own next state. -/
def afterward (o : Host.Outcome State Fault Refusal) (f : State → State) : Host.Outcome State Fault Refusal :=
  match o with
  | .next s => .next (f s)
  | .fault r => .fault r
  | .refused r => .refused r

/-- The turn of a gang. -/
def turn (gk : Nat) (s : State) : Host.Outcome State Fault Refusal :=
  match s.plan gk with
  | .idle t => .next t
  | .own i t => exec i t
  | .word i t c => afterward (exec i t) fun u => u.afterIssue gk t c
  | .illegal n t c => afterward (runIllegal n t) fun u => u.afterIssue gk t c

/-- What the machine does at a clock: the first entry of its agenda, or the turn of a gang that holds an issue slot. -/
def act (s : State) : Host.Outcome State Fault Refusal :=
  match s.agenda with
  | .event i :: rest => if i.isEvent then exec i { s with agenda := rest } else .next { s with agenda := rest }
  | .issue g :: rest => turn g { s with agenda := rest }
  | [] =>
    match s.nextGang with
    | some g => turn g s
    | none => .next s

/-- One step: the clock moves on, the machine acts, and free issue slots are given away (R304). -/
def step (s : State) : Host.Outcome State Fault Refusal := afterward (act s.tick) State.dealSlots

/-! ## A word placed for the next step -/

/-- The place from which the next step fetches: core, context and code address of the path that its gang issues. -/
def State.nextFetch (s : State) : Option (Nat × Nat × Nat) :=
  let gk := match s.agenda with
    | .issue g :: _ => some g
    | .event _ :: _ => none
    | [] => s.nextGang
  (gk.bind s.gang?).bind fun g =>
    let g := g.meet
    g.choose.map fun c => (g.core, g.ctx, c.pc g)

/-- A word stored in the resident copy of a segment. -/
def Seg.setWord (x : Seg) (pc w : Nat) : Seg := { x with image := writeNum x.image (pc % 0x8000) 4 w }

/-- The launch of one crew of one gang whose entry is code address 0. -/
def loneLaunch (ctx : Nat) : Launch :=
  { ctx := ctx, serial := 0, stream := 0, ov := false, level := 0, started := true, hold := false, csend := false, cop := 0, cep := 0,
    compl := 0, arg := 0, range := 1, taken := 1,
    stages := [⟨0, 1, 1, 1, false, 128, 96, 1, 0, 0, 0, 4, 0, 0, 0, []⟩],
    groups := [], stagings := [], nextTask := 1, busy := [(0, 0)], retired := [], reruns := [], gbar := [], watch := [], conts := [],
    records := [] }

/-- The task of that launch: the crew and its gang of 32 threads in RUN at code address 0, on core 0 with its issue slot. -/
def State.loneTask (s : State) (ctx : Nat) : State :=
  let ck := s.nextKey + 1
  let gk := s.nextKey + 2
  let l := loneLaunch ctx
  let t := l.stages.headD ⟨0, 1, 1, 1, false, 128, 96, 1, 0, 0, 0, 4, 0, 0, 0, []⟩
  let c := { placedCrew l 0 t ⟨0, 0, 0, [], none, [], none⟩ [0] [0] 0 0 with phase := .running }
  { s with
    nextKey := gk
    tens := if s.tens.keys.contains 0 then s.tens else s.tens.put 0 (Tenancy.fresh 0xFF 1)
    ctxs := s.ctxs.put ctx { Context.fresh 0 with epsInImage := false }
    launches := s.launches ++ [l]
    crews := s.crews.put ck c
    gangs := s.gangs.put gk { startGang ck c t l.arg 0 with issue := some 0 } }

/-- The state with a word stored where the next step fetches. Where no gang is about to fetch, a launch with one task comes first, whose code is the word. -/
def State.withFetchWord (s : State) (nbits w : Nat) : State :=
  match s.nextFetch with
  | some (core, ctx, pc) =>
    s.mapCore core fun c => { c with segs := c.segs.map fun x => if x.ctx == ctx && x.seg == segOf pc then x.setWord pc (w % 2 ^ nbits) else x }
  | none =>
    let ctx := (s.ctxs.keys.foldl max 0) + (if s.ctxs.isEmpty then 0 else 1)
    let s := s.loneTask ctx
    let code : Seg := ⟨ctx, 0, .resident, 0, [], 0, false, 0, 0, 0⟩
    { s.mapCore 0 fun c => { c with segs := c.segs ++ [code.setWord 0 (w % 2 ^ nbits)] } with agenda := .issue s.nextKey :: s.agenda }

end Sys2Proof.Machine
end

