-- ==== Sys2Proof/Safety.lean ====
section
/-! DEFINITION. What counts as a sound state and a sound run, and the terms in which statements speak: when an instruction issues and is accepted, what it leaves of its lanes, of its gang and of the rest of the machine. -/

namespace Sys2Proof.Machine

/-! ## Sound states -/

/-- Every gang has its 32 threads (R9). -/
def State.whole (s : State) : Bool := s.gangs.all fun (p : Nat × Gang) => p.2.threads.length == 32

/-- The gangs that continuations bring have their 32 threads. -/
def State.contsWhole (s : State) : Bool :=
  (s.launches.all fun l => l.conts.all fun k => k.gang.threads.length == 32) &&
    s.crews.all fun (p : Nat × Crew) => match p.2.cont with | some k => k.gang.threads.length == 32 | none => true

/-- The state between two steps: memory in its canonical form, 32 threads in every gang and in every continuation, gangs in the order of their keys, no path in the middle of an issue. -/
structure Sound (s : State) : Prop where
  mem : Memory.wf s.mem = true
  whole : s.whole = true
  conts : s.contsWhole = true
  order : s.gangs.rising = true
  idle : s.cur = none

/-- A run of n steps that neither faults nor is refused. -/
inductive Runs : Nat → State → State → Prop where
  | nil (s : State) : Runs 0 s s
  | cons {n : Nat} {s t u : State} (h : step s = .next t) (r : Runs n t u) : Runs (n + 1) s u

/-- An instruction or a step of the device answers a next state, and that state has a property. -/
def Yields (i : Instr) (s : State) (P : State → Prop) : Prop := ∃ t, exec i s = .next t ∧ P t

/-! ## An instruction that issues -/

/-- The lanes of mask m of gang gk are the issuing path: they are in RUN, the hints h are bound to the instruction, and it does not stand at the last word of its segment (R54, R55). -/
structure Issues (s : State) (gk : Nat) (g : Gang) (m : Nat) (h : Hints) : Prop where
  cur : s.cur = some ⟨gk, m⟩
  gang : s.gang? gk = some g
  order : s.gangs.rising = true
  whole : g.threads.length = 32
  some : lanesOf m ≠ []
  run : ∀ l ∈ lanesOf m, (g.th l).run = .run
  bound : (g.th ((lanesOf m).headD 0)).hints = h
  inside : ∀ l ∈ lanesOf m, (g.th l).pc.toNat % 0x8000 ≠ 0x7FFC

/-- The gang whose operands the instruction reads: hints bound, latches INVALID where an L-pending register is read (R45, R46). -/
abbrev Op.reader (o : Op) (g : Gang) (m : Nat) : Gang := o.form.prepare g (lanesOf m)

/-- The value of an operand code in a lane. -/
def Op.opnd (o : Op) (s : State) (g : Gang) (m : Nat) (h : Hints) (k : Kind) (l : Nat) (x : Src) : Word :=
  (s.viewOf (o.reader g m) h.imm).value k l x

/-- The pair of registers that an operand code names in a lane. -/
def Op.opnd2 (o : Op) (s : State) (g : Gang) (m : Nat) (h : Hints) (l : Nat) (x : Src) : DWord :=
  let w := (s.viewOf (o.reader g m) h.imm).pairVals l x
  pairOf (w.getD 0 0) (w.getD 1 0)

/-- The instruction issues and passes checks 1 to 3 of R57 in every lane, and nothing holds its issue back: a memory instruction finds no access of an interval that was forced to an end unperformed (R242) and room for a request of each lane among the 4,096 that its core can have outstanding (R1). -/
structure Accepts (o : Op) (s : State) (gk : Nat) (g : Gang) (m : Nat) (h : Hints) : Prop extends Issues s gk g m h where
  check : o.form.check g h = none
  operands : o.form.operandFaults h.imm (o.reader g m) (lanesOf m) = []
  memory : o.form.mem = true → s.memReady g (lanesOf m).length = true
  ready : o.ready s (o.env s gk g (lanesOf m) h) = true

/-- A well-formed instruction word that issues with its hints h and is accepted: o is its form and effect. -/
structure Ready (i : Instr) (o : Op) (s : State) (gk : Nat) (g : Gang) (m : Nat) (h : Hints) : Prop where
  wf : i.wf = true
  op : opOf i h = some o
  acc : Accepts o s gk g m h

/-! ## What an instruction leaves -/

/-- What becomes of a lane: the v registers it writes, its PC, FPSTATUS, meeting address and CLOCK latch, and whether it begins a region. -/
structure LaneEnd where
  v : Nat → Option Word
  pc : Word
  fps : Word
  mt : Word
  clockhi : Word
  region : Bool

/-- A lane that goes on at the next word with nothing written. -/
def LaneEnd.on (t : Thread) : LaneEnd := ⟨fun _ => none, t.pc + 4, t.fps, t.mt, t.clockhi, false⟩

/-- Words in the registers from d on; nothing with NW (R47). -/
def LaneEnd.writes (e : LaneEnd) (nw : Bool) (d : Nat) (ws : List Word) : LaneEnd :=
  { e with v := fun n => if nw = false ∧ d ≤ n ∧ n < d + ws.length then some (ws.getD (n - d) 0) else none }

/-- The thread of a lane that has completed an instruction: in RUN, no hints, and one more instruction counted in its region (R13), or a region begun. -/
structure LaneWent (a b : Thread) (e : LaneEnd) : Prop where
  run : b.run = .run
  pc : b.pc = e.pc
  fps : b.fps = e.fps
  mt : b.mt = e.mt
  clockhi : b.clockhi = e.clockhi
  hints : b.hints = Hints.none_
  rep : b.rep = if e.region then e.pc else a.rep
  rcnt : b.rcnt = if e.region then 0 else countUp a.rcnt

/-- A thread that no instruction has touched; a meeting or a barrier may have released it. -/
structure ThreadKept (a b : Thread) : Prop where
  pc : b.pc = a.pc
  rep : b.rep = a.rep
  rcnt : b.rcnt = a.rcnt
  fps : b.fps = a.fps
  clockhi : b.clockhi = a.clockhi

/-- A thread without its last-page register (R143). -/
def Thread.bare (t : Thread) : Thread := { t with lastPage := none }

/-- Two gangs with the same registers and, last-page registers apart, the same threads. -/
structure SameRegs (a b : Gang) : Prop where
  threads : b.threads.map Thread.bare = a.threads.map Thread.bare
  v : b.v = a.v
  k : b.k = a.k

/-- The registers and threads of every gang but one are kept. -/
def OthersKept (s t : State) (gk : Nat) : Prop :=
  ∀ k, k ≠ gk → ∀ x, s.gang? k = some x → ∃ y, t.gang? k = some y ∧ SameRegs x y

/-- The crews without their barrier counts (R159). -/
def State.crewsBare (s : State) : Tbl Crew := s.crews.map fun p => (p.1, { p.2 with bar := 0 })

/-- The launches without the barrier counts of their groups (R160). -/
def State.launchesBare (s : State) : List Launch := s.launches.map fun l => { l with gbar := [] }

/-- The machine outside the gangs: memory, full-empty bits, race tags and poison, crews and launches (the counts of their barriers apart), contexts, tenancies, cores, dies, ports, modules, pod, host, network, trust, power, and the clocks. -/
structure RestKept (s t : State) : Prop where
  mem : t.mem = s.mem
  fe : t.fe = s.fe
  tags : t.tags = s.tags
  poison : t.poison = s.poison
  ctxs : t.ctxs = s.ctxs
  tens : t.tens = s.tens
  cores : t.cores = s.cores
  dies : t.dies = s.dies
  ports : t.ports = s.ports
  modRanges : t.modRanges = s.modRanges
  modCmds : t.modCmds = s.modCmds
  pages : t.pages = s.pages
  pod : t.pod = s.pod
  host : t.host = s.host
  net : t.net = s.net
  trust : t.trust = s.trust
  power : t.power = s.power
  cmds : t.cmds = s.cmds
  commits : t.commits = s.commits
  sends : t.sends = s.sends
  errors : t.errors = s.errors
  crews : t.crewsBare = s.crewsBare
  launches : t.launchesBare = s.launchesBare
  refusals : t.refusals = s.refusals
  late : t.late = s.late
  passing : t.passing = s.passing
  records : t.records = s.records
  clock : t.clock = s.clock
  pace : t.pace = s.pace
  timer : t.timer = s.timer
  agenda : t.agenda = s.agenda

/-- What an instruction that completes in lanes m of gang gk leaves of the gang: each lane as `e` says, the k registers that `kw` names, every other register of the gang and every other lane as it was. -/
structure Passed (t : State) (gk : Nat) (g : Gang) (m : Nat) (e : Nat → LaneEnd) (kw : Nat → Option Word) : Prop where
  idle : t.cur = none
  self : ∃ g', t.gang? gk = some g' ∧ g'.threads.length = 32 ∧
    (∀ l ∈ lanesOf m, LaneWent (g.th l) (g'.th l) (e l)) ∧
    (∀ l, l < 32 → l ∉ lanesOf m → ThreadKept (g.th l) (g'.th l)) ∧
    (∀ l n, l < 32 → n < 128 → g'.readV l n = if l ∈ lanesOf m then ((e l).v n).getD (g.readV l n) else g.readV l n) ∧
    (∀ n, g'.readK n = (kw n).getD (g.readK n))

/-- What a register instruction leaves: its gang as `Passed` says, and the rest of the machine, every other gang's registers included, as it was. -/
structure Went (s t : State) (gk : Nat) (g : Gang) (m : Nat) (e : Nat → LaneEnd) (kw : Nat → Option Word) : Prop where
  self : Passed t gk g m e kw
  rest : RestKept s t
  others : OthersKept s t gk

/-- What an instruction leaves of its gang where some of its lanes fault: those freeze where they stand with nothing written, the others complete as `e` says, and every other lane is as it was (R43, R145). -/
def LanesFault (t : State) (gk : Nat) (g : Gang) (m : Nat) (faults : Nat → Bool) (e : Nat → LaneEnd) : Prop :=
  ∃ g', t.gang? gk = some g' ∧ g'.k = g.k ∧
    (∀ l ∈ lanesOf m, if faults l then (g'.th l).run = .frozen ∧ (g'.th l).pc = (g.th l).pc ∧ (g'.th l).rep = (g.th l).rep ∧ (g'.th l).fps = (g.th l).fps
      else LaneWent (g.th l) (g'.th l) (e l)) ∧
    (∀ l, l < 32 → l ∉ lanesOf m → ThreadKept (g.th l) (g'.th l)) ∧
    (∀ l n, l < 32 → n < 128 → g'.readV l n = if l ∈ lanesOf m ∧ faults l = false then ((e l).v n).getD (g.readV l n) else g.readV l n)

/-- No k register written. -/
def noK : Nat → Option Word := fun _ => none

/-- Words in the k registers from d on; nothing with NW. -/
def kWords (nw : Bool) (d : Nat) (ws : List Word) : Nat → Option Word :=
  fun n => if nw = false ∧ d ≤ n ∧ n < d + ws.length then some (ws.getD (n - d) 0) else none

/-! ## Lanes one after the other -/

/-- Lanes that act one after the other on the machine, from a first state to a last one. -/
def Chain (link : State → Nat → State → Prop) : State → List Nat → State → Prop
  | s, [], u => s = u
  | s, l :: ls, u => ∃ t, link s l t ∧ Chain link t ls u

/-- The state on which the body of an accepted instruction acts: L-pending bits cleared and hints bound. -/
abbrev Op.begun (o : Op) (s : State) (gk : Nat) (g : Gang) (m : Nat) : State := s.setGang gk (o.reader g m)

/-- What the body of an accepted instruction is given. -/
abbrev Op.given (o : Op) (s : State) (gk : Nat) (g : Gang) (m : Nat) (h : Hints) : Env := o.env s gk g (lanesOf m) h

/-- What an instruction that works on the machine leaves: its gang as `Passed` says, every other gang's registers as they were, and the machine outside the gangs as the state u has it. -/
structure WentOn (s u t : State) (gk : Nat) (g : Gang) (m : Nat) (e : Nat → LaneEnd) (kw : Nat → Option Word) : Prop where
  self : Passed t gk g m e kw
  rest : RestKept u t
  others : OthersKept s t gk

/-- The bytes of memory, full-empty bits, race tags and poison are kept. -/
structure MemKept (s t : State) : Prop where
  mem : t.mem = s.mem
  fe : t.fe = s.fe
  tags : t.tags = s.tags
  poison : t.poison = s.poison

/-- What an instruction after which its lanes wait leaves of its gang: the lanes BLOCKED where they stand, waiting for what `why` says, every register kept (R16). -/
structure Waits (t : State) (gk : Nat) (g : Gang) (m : Nat) (why : Nat → Wait) : Prop where
  idle : t.cur = none
  self : ∃ g', t.gang? gk = some g' ∧ g'.v = g.v ∧ g'.k = g.k ∧
    (∀ l ∈ lanesOf m, (g'.th l).run = .blocked ∧ (g'.th l).pc = (g.th l).pc ∧ (g'.th l).rep = (g.th l).rep ∧ ∃ p, (g'.th l).wait = some p ∧ p.why = why l) ∧
    (∀ l, l < 32 → l ∉ lanesOf m → ThreadKept (g.th l) (g'.th l))

/-- The record that a frozen set of some lanes of a gang leaves in its context (R310 to R313): index i, the next SEQ, the class, subcode and address of the fault, and where the lowest lane stands; its copies at FQBASE and in the frozen-set table (R314, R323). -/
structure Recorded (s t : State) (gk : Nat) (g : Gang) (lanes : List Nat) (f : Flt) (i : Nat) (r : Rec) : Prop where
  set : (t.ctx g.ctx).sets.find? i = some ⟨gk, maskOf lanes, r, .queued, none⟩
  queue : (t.ctx g.ctx).queue = (s.ctx g.ctx).queue ++ [r]
  next : (t.ctx g.ctx).nextSeq = (s.ctx g.ctx).nextSeq + 1
  seq : r.seq = (s.ctx g.ctx).nextSeq
  cls : r.cls = f.cls
  sub : r.sub = f.sub
  va : r.va = f.va
  mask : r.lanes = maskOf lanes
  pc : r.pc = (g.th (lanes.headD 0)).pc
  rep : r.rep = (g.th (lanes.headD 0)).rep
  rcnt : r.rcnt = (g.th (lanes.headD 0)).rcnt
  place : r.core = g.core ∧ r.level = g.level ∧ r.gang = g.index ∧ r.eng = false
  cap : r.cap = setCap ((s.ctx g.ctx).gens.at_ 0 i) g.ctx i
  table : t.mem = ((s.writeImage g.ctx ((s.ctx g.ctx).fqEntry (waitingRecs (s.ctx g.ctx).queue)) r.bytes).writeImage g.ctx ((s.ctx g.ctx).setEntry i) r.bytes).mem

/-- What a fault of every active lane leaves: the lanes FROZEN where they stand, every register kept, and, while an index is free and the fault queue has room, one frozen set with its record queued (R16, R310 to R313, R318). Where the record fills the queue, the end of the step stops the context (R323). -/
structure TakesFault (s t : State) (gk : Nat) (g : Gang) (m : Nat) (f : Flt) : Prop where
  idle : t.cur = none
  self : ∃ g', t.gang? gk = some g' ∧ g'.v = g.v ∧ g'.k = g.k ∧
    (∀ l ∈ lanesOf m, (g'.th l).run = .frozen ∧ (g'.th l).pc = (g.th l).pc ∧ (g'.th l).rep = (g.th l).rep ∧ (g'.th l).rcnt = (g.th l).rcnt ∧
      (g'.th l).fps = (g.th l).fps ∧ (g'.th l).hints = Hints.none_) ∧
    (∀ l, l < 32 → l ∉ lanesOf m → ThreadKept (g.th l) (g'.th l))
  record : s.hasCtx g.ctx = true → waitingRecs (s.ctx g.ctx).queue < Config.faultQueue → (s.ctx g.ctx).heldRecs = [] → f.cls ≠ 0xFF →
    ∀ i, lowestFree (s.ctx g.ctx).sets.keys 255 = some i → ∃ r, Recorded s t gk g (lanesOf m) f i r
  others : OthersKept s t gk

end Sys2Proof.Machine
end

