-- ==== Sys2Proof/Certificates/Slice0/Results.lean ====
section
/-! DEFINITION. The results of the register instructions in the words of the manual, as the statements of Obligations.lean read them: integer, uniform and cross-lane, floating point. -/

namespace Sys2Proof.Claims

open Sys2Proof.Machine

/-- What a lane reads: the value of an operand code by its kind, and the pair that a code names. -/
structure Reads1 where
  x : Kind → Src → Word
  p : Src → DWord

/-- What lane l of an instruction reads. -/
def readsOf (o : Op) (s : State) (g : Gang) (m : Nat) (h : Hints) (l : Nat) : Reads1 :=
  ⟨fun k a => o.opnd s g m h k l a, fun a => o.opnd2 s g m h l a⟩

/-- The third operand C (R95): SRC3 of a bound HX.EXT, or register D. -/
def thirdOf (h : Hints) (d : Nat) : Src := if extSrc3 h.x = 0 then .v d else h.src3

/-- The two words of a pair, the low one first (R23). -/
def pairWords (x : DWord) : List Word := [loOf x, hiOf x]

/-- 1 for a relation that holds, else 0 (R104). -/
def relation (b : Bool) : Word := if b then 1 else 0

/-- A result that SAT clamps to the signed range (R98, R99), exact where SAT is 0 modulo 2^32. -/
def saturated (h : Hints) (exact : Int) (wrapped : Word) : Word :=
  if extSat h.x then wordOfInt (clampInt exact (-2147483648) 2147483647) else wrapped

/-- The results of the integer instructions (R98 to R106): destination, NW, and the words for vD on. -/
def intResult (h : Hints) (r : Reads1) : Instr → Option (Nat × Bool × List Word)
  | .add nw d a b => some (d, nw, [saturated h (sgn (r.x .s a) + sgn (r.x .s b)) (r.x .s a + r.x .s b)])
  | .sub nw d a b => some (d, nw, [saturated h (sgn (r.x .s a) - sgn (r.x .s b)) (r.x .s a - r.x .s b)])
  | .min nw d a b => some (d, nw, [if sgn (r.x .s a) ≤ sgn (r.x .s b) then r.x .s a else r.x .s b])
  | .max nw d a b => some (d, nw, [if sgn (r.x .s a) ≤ sgn (r.x .s b) then r.x .s b else r.x .s a])
  | .addi nw d a imm => some (d, nw, [saturated h (sgn (r.x .s a) + sgn (imm8 .s imm)) (r.x .s a + imm8 .s imm)])
  | .mini nw d a imm => some (d, nw, [if sgn (r.x .s a) ≤ sgn (imm8 .s imm) then r.x .s a else imm8 .s imm])
  | .maxi nw d a imm => some (d, nw, [if sgn (r.x .s a) ≤ sgn (imm8 .s imm) then imm8 .s imm else r.x .s a])
  | .minu nw d a b => some (d, nw, [if (r.x .u a).toNat ≤ (r.x .u b).toNat then r.x .u a else r.x .u b])
  | .maxu nw d a b => some (d, nw, [if (r.x .u a).toNat ≤ (r.x .u b).toNat then r.x .u b else r.x .u a])
  | .abs nw d a => some (d, nw, [saturated h (sgn (r.x .s a)).natAbs (if sgn (r.x .s a) < 0 then -(r.x .s a) else r.x .s a)])
  | .neg nw d a => some (d, nw, [saturated h (-sgn (r.x .s a)) (-(r.x .s a))])
  | .mul nw d a b => some (d, nw, [r.x .s a * r.x .s b])
  | .mulh nw d a b => some (d, nw, [wordOfInt (sgn (r.x .s a) * sgn (r.x .s b) / 4294967296)])
  | .mulhu nw d a b => some (d, nw, [word ((r.x .u a).toNat * (r.x .u b).toNat / 4294967296)])
  | .mad nw d a b => some (d, nw, [saturated h (sgn (r.x .s (thirdOf h d)) + sgn (r.x .s a) * sgn (r.x .s b)) (r.x .s (thirdOf h d) + r.x .s a * r.x .s b)])
  | .and nw d a b => some (d, nw, [r.x .u a &&& r.x .u b])
  | .or nw d a b => some (d, nw, [r.x .u a ||| r.x .u b])
  | .xor nw d a b => some (d, nw, [r.x .u a ^^^ r.x .u b])
  | .andn nw d a b => some (d, nw, [r.x .u a &&& ~~~(r.x .u b)])
  | .andi nw d a imm => some (d, nw, [r.x .u a &&& word (imm % 256)])
  | .ori nw d a imm => some (d, nw, [r.x .u a ||| word (imm % 256)])
  | .xori nw d a imm => some (d, nw, [r.x .u a ^^^ word (imm % 256)])
  | .shl nw d a b => some (d, nw, [if 32 ≤ (r.x .u b).toNat then 0 else r.x .u a <<< (r.x .u b).toNat])
  | .shr nw d a b => some (d, nw, [if 32 ≤ (r.x .u b).toNat then 0 else r.x .u a >>> (r.x .u b).toNat])
  | .sar nw d a b => some (d, nw, [wordOfInt (sgn (r.x .s a) / 2 ^ min (r.x .u b).toNat 31)])
  | .rol nw d a b => some (d, nw, [(r.x .u a).rotateLeft ((r.x .u b).toNat % 32)])
  | .shli nw d a imm => some (d, nw, [if 32 ≤ imm % 256 then 0 else r.x .u a <<< (imm % 256)])
  | .shri nw d a imm => some (d, nw, [if 32 ≤ imm % 256 then 0 else r.x .u a >>> (imm % 256)])
  | .sari nw d a imm => some (d, nw, [wordOfInt (sgn (r.x .s a) / 2 ^ min (imm % 256) 31)])
  | .roli nw d a imm => some (d, nw, [(r.x .u a).rotateLeft (imm % 256 % 32)])
  | .clz nw d a => some (d, nw, [clzW (r.x .u a)])
  | .popc nw d a => some (d, nw, [popcW (r.x .u a)])
  | .brev nw d a => some (d, nw, [brevW (r.x .u a)])
  | .bytep nw d a b => some (d, nw, [bytepW (r.x .u a) (r.x .u b) (r.x .u (thirdOf h d))])
  | .bfe nw d a b => some (d, nw, [bfeW (r.x .u a) (r.x .u b)])
  | .bfeu nw d a b => some (d, nw, [bfeuW (r.x .u a) (r.x .u b)])
  | .bfi nw d a b => some (d, nw, [bfiW (r.x .u a) (r.x .u b) (r.x .u (thirdOf h d))])
  | .seq nw d a b => some (d, nw, [relation (decide (r.x .s a = r.x .s b))])
  | .sne nw d a b => some (d, nw, [relation (decide (r.x .s a ≠ r.x .s b))])
  | .slt nw d a b => some (d, nw, [relation (decide (sgn (r.x .s a) < sgn (r.x .s b)))])
  | .sle nw d a b => some (d, nw, [relation (decide (sgn (r.x .s a) ≤ sgn (r.x .s b)))])
  | .sltu nw d a b => some (d, nw, [relation (decide ((r.x .u a).toNat < (r.x .u b).toNat))])
  | .sleu nw d a b => some (d, nw, [relation (decide ((r.x .u a).toNat ≤ (r.x .u b).toNat))])
  | .sel nw d a b => some (d, nw,
      if extW64 h.x then pairWords (if r.x .u (thirdOf h d) ≠ 0 then r.p a else r.p b)
      else [if r.x .u (thirdOf h d) ≠ 0 then r.x .u a else r.x .u b])
  | .mov nw d a => some (d, nw, if extW64 h.x then pairWords (r.p a) else [r.x .u a])
  | .add64 nw d a b => some (d, nw, pairWords (r.p a + (r.x .s b).signExtend 64))
  | .sub64 nw d a b => some (d, nw, pairWords (r.p a - (r.x .s b).signExtend 64))
  | .mad64 nw d a b => some (d, nw, pairWords (r.p (thirdOf h d) + (r.x .s a).signExtend 64 * (r.x .s b).signExtend 64))
  | .shl64 nw d a b => some (d, nw, pairWords (if 64 ≤ (r.x .u b).toNat then 0 else r.p a <<< (r.x .u b).toNat))
  | .sext8 nw d a => some (d, nw, [((r.x .u a).setWidth 8).signExtend 32])
  | .sext16 nw d a => some (d, nw, [((r.x .u a).setWidth 16).signExtend 32])
  | .zext8 nw d a => some (d, nw, [r.x .u a &&& 0xFF])
  | .zext16 nw d a => some (d, nw, [r.x .u a &&& 0xFFFF])
  | _ => none

/-- Bit i of a byte permute (R102): the selector is the nibble of B for the byte; bytes 0 to 3 are those of A, 4 to 7 those of C. -/
def permutedBit (a b c : Word) (i : Nat) : Bool :=
  let n := b.toNat / 16 ^ (i / 8) % 16
  if n < 4 then a.getLsbD (8 * n + i % 8) else if n < 8 then c.getLsbD (8 * (n - 4) + i % 8) else false

/-- The place of a bit field and its effective length (R103). -/
def fieldAt (b : Word) : Nat := b.toNat % 32
def fieldWidth (b : Word) : Nat := min (b.toNat / 256 % 64) (32 - fieldAt b)

/-- The results of the floating-point instructions (R107 to R116): destination, NW, the pattern delivered and the flags raised. -/
def fpResult (h : Hints) (r : Reads1) : Instr → Option (Nat × Bool × FRes)
  | .fadd nw d a b => some (d, nw, fp32.add h.rnd (r.x .f a).toNat (r.x .f b).toNat)
  | .fsub nw d a b => some (d, nw, fp32.sub h.rnd (r.x .f a).toNat (r.x .f b).toNat)
  | .fmul nw d a b => some (d, nw, fp32.mul h.rnd (r.x .f a).toNat (r.x .f b).toNat)
  | .fma nw d a b => some (d, nw, fp32.fma h.rnd (r.x .f a).toNat (r.x .f b).toNat (r.x .f (thirdOf h d)).toNat)
  | .fmin nw d a b => some (d, nw, fp32.extreme false (r.x .f a).toNat (r.x .f b).toNat)
  | .fmax nw d a b => some (d, nw, fp32.extreme true (r.x .f a).toNat (r.x .f b).toNat)
  | .fabs nw d a => some (d, nw, ⟨(r.x .f a).toNat % 2147483648, 0⟩)
  | .fneg nw d a => some (d, nw, ⟨(r.x .f a ^^^ 0x80000000).toNat, 0⟩)
  | .fseq nw d a b => some (d, nw, compareRes false (fp32.value (r.x .f a).toNat) (fp32.value (r.x .f b).toNat) ((fp32.value (r.x .f a).toNat).same (fp32.value (r.x .f b).toNat)))
  | .fslt nw d a b => some (d, nw, compareRes true (fp32.value (r.x .f a).toNat) (fp32.value (r.x .f b).toNat) ((fp32.value (r.x .f a).toNat).less (fp32.value (r.x .f b).toNat)))
  | .fsle nw d a b => some (d, nw, compareRes true (fp32.value (r.x .f a).toNat) (fp32.value (r.x .f b).toNat) ((fp32.value (r.x .f a).toNat).less (fp32.value (r.x .f b).toNat) || (fp32.value (r.x .f a).toNat).same (fp32.value (r.x .f b).toNat)))
  | .fsun nw d a b => some (d, nw, ⟨if (fp32.value (r.x .f a).toNat).isNaN || (fp32.value (r.x .f b).toNat).isNaN then 1 else 0, snanFlag [fp32.value (r.x .f a).toNat, fp32.value (r.x .f b).toNat]⟩)
  | .rcp nw d a => some (d, nw, fp32.recip h.rnd (r.x .f a).toNat)
  | .rsq nw d a => some (d, nw, rsqRes (r.x .f a))
  | .sqrt nw d a => some (d, nw, fp32.sqrt h.rnd (r.x .f a).toNat)
  | .ex2 nw d a => some (d, nw, ex2Res (r.x .f a))
  | .lg2 nw d a => some (d, nw, lg2Res (r.x .f a))
  | .tanh nw d a => some (d, nw, tanhRes (r.x .f a))
  | .floor nw d a => some (d, nw, integralRes .rdn false (r.x .f a).toNat)
  | .frint nw d a => some (d, nw, integralRes h.rnd true (r.x .f a).toNat)
  | .badd2 nw d a b => some (d, nw, packed (bf16.add h.rnd (half0 (r.x .p a).toNat) (half0 (r.x .p b).toNat)) (bf16.add h.rnd (half1 (r.x .p a).toNat) (half1 (r.x .p b).toNat)))
  | .bmul2 nw d a b => some (d, nw, packed (bf16.mul h.rnd (half0 (r.x .p a).toNat) (half0 (r.x .p b).toNat)) (bf16.mul h.rnd (half1 (r.x .p a).toNat) (half1 (r.x .p b).toNat)))
  | .bfma2 nw d a b => some (d, nw, packed (bf16.fma h.rnd (half0 (r.x .p a).toNat) (half0 (r.x .p b).toNat) (half0 (r.x .p (thirdOf h d)).toNat)) (bf16.fma h.rnd (half1 (r.x .p a).toNat) (half1 (r.x .p b).toNat) (half1 (r.x .p (thirdOf h d)).toNat)))
  | .bmax2 nw d a b => some (d, nw, packed (bf16.extreme true (half0 (r.x .p a).toNat) (half0 (r.x .p b).toNat)) (bf16.extreme true (half1 (r.x .p a).toNat) (half1 (r.x .p b).toNat)))
  | .hadd2 nw d a b => some (d, nw, packed (fp16.add h.rnd (half0 (r.x .p a).toNat) (half0 (r.x .p b).toNat)) (fp16.add h.rnd (half1 (r.x .p a).toNat) (half1 (r.x .p b).toNat)))
  | .hmul2 nw d a b => some (d, nw, packed (fp16.mul h.rnd (half0 (r.x .p a).toNat) (half0 (r.x .p b).toNat)) (fp16.mul h.rnd (half1 (r.x .p a).toNat) (half1 (r.x .p b).toNat)))
  | .hfma2 nw d a b => some (d, nw, packed (fp16.fma h.rnd (half0 (r.x .p a).toNat) (half0 (r.x .p b).toNat) (half0 (r.x .p (thirdOf h d)).toNat)) (fp16.fma h.rnd (half1 (r.x .p a).toNat) (half1 (r.x .p b).toNat) (half1 (r.x .p (thirdOf h d)).toNat)))
  | .hmax2 nw d a b => some (d, nw, packed (fp16.extreme true (half0 (r.x .p a).toNat) (half0 (r.x .p b).toNat)) (fp16.extreme true (half1 (r.x .p a).toNat) (half1 (r.x .p b).toNat)))
  | .f2i nw d a => some (d, nw, toIntRes 32 h.rnd (extSat h.x) (r.x .f a).toNat)
  | .i2f nw d a => some (d, nw, ofIntRes h.rnd (sgn (r.x .s a)))
  | .f2n nw d a b => some (d, nw, packed (toIntRes 16 h.rnd (extSat h.x) (r.x .f a).toNat) (toIntRes 16 h.rnd (extSat h.x) (r.x .f b).toNat))
  | .n2f nw d a b => some (d, nw, ofIntRes .rne (BitVec.ofNat 16 (if (r.x .u b).toNat % 2 = 0 then half0 (r.x .u a).toNat else half1 (r.x .u a).toNat)).toInt)
  | .f2bf2 nw d a b => some (d, nw, packed (bf16.ofVal h.rnd (fp32.value (r.x .f a).toNat)) (bf16.ofVal h.rnd (fp32.value (r.x .f b).toNat)))
  | .f2h2 nw d a b => some (d, nw, packed (fp16.ofVal h.rnd (fp32.value (r.x .f a).toNat)) (fp16.ofVal h.rnd (fp32.value (r.x .f b).toNat)))
  | .bf2f nw d a b => some (d, nw, fp32.ofVal .rne (bf16.value (if (r.x .u b).toNat % 2 = 0 then half0 (r.x .p a).toNat else half1 (r.x .p a).toNat)))
  | .h2f nw d a b => some (d, nw, fp32.ofVal .rne (fp16.value (if (r.x .u b).toNat % 2 = 0 then half0 (r.x .p a).toNat else half1 (r.x .p a).toNat)))
  | _ => none

/-- What the lanes of an instruction read, and which lanes they are. -/
structure ReadsAll where
  lanes : List Nat
  lane : Nat → Reads1

/-- What all lanes of an instruction read. -/
def allReads (o : Op) (s : State) (g : Gang) (m : Nat) (h : Hints) : ReadsAll := ⟨lanesOf m, readsOf o s g m h⟩

/-- The lane whose A a shuffle delivers: its own where the lane named does not execute or does not exist (R122). -/
def fromLane (r : ReadsAll) (l : Nat) (src : Option Nat) : Nat :=
  match src with
  | some n => if r.lanes.contains n then n else l
  | none => l

/-- A shuffle: one word, or a pair with W64 (R122). -/
def shuffled (h : Hints) (r : ReadsAll) (l : Nat) (a : Src) (src : Option Nat) : List Word :=
  if extW64 h.x then pairWords ((r.lane (fromLane r l src)).p a) else [(r.lane (fromLane r l src)).x .u a]

/-- The results of the cross-lane instructions with a vector destination (R122, R123), for lane l. -/
def crossResult (h : Hints) (r : ReadsAll) (l : Nat) : Instr → Option (Nat × Bool × List Word)
  | .shflIdx nw d a b => some (d, nw, shuffled h r l a (some (((r.lane l).x .u b).toNat % 32)))
  | .shflUp nw d a b => some (d, nw, shuffled h r l a (if ((r.lane l).x .u b).toNat ≤ l then some (l - ((r.lane l).x .u b).toNat) else none))
  | .shflDn nw d a b => some (d, nw, shuffled h r l a (if l + ((r.lane l).x .u b).toNat ≤ 31 then some (l + ((r.lane l).x .u b).toNat) else none))
  | .shflXor nw d a b => some (d, nw, shuffled h r l a (some (l ^^^ (((r.lane l).x .u b).toNat % 32))))
  | .voteAll nw d a => some (d, nw, [relation (r.lanes.all fun n => (r.lane n).x .u a != 0)])
  | .voteAny nw d a => some (d, nw, [relation (r.lanes.any fun n => (r.lane n).x .u a != 0)])
  | .matchAny nw d a => some (d, nw, [word (maskOf (r.lanes.filter fun n => (r.lane n).x .u a == (r.lane l).x .u a))])
  | _ => none

/-- The least or greatest signed word of a list that is not empty. -/
def leastSigned : List Word → Word
  | [] => 0
  | x :: t => t.foldl (fun y z => if sgn y ≤ sgn z then y else z) x
def greatestSigned : List Word → Word
  | [] => 0
  | x :: t => t.foldl (fun y z => if sgn y ≤ sgn z then z else y) x

/-- The results of the instructions with a uniform destination (R119, R123, R124): every lane reads the same words, so those of the first lane stand for all. -/
def uniResult (r : ReadsAll) (u : Reads1) : Instr → Option (Nat × Bool × List Word)
  | .uadd nw d a b => some (d, nw, [u.x .s a + u.x .s b])
  | .usub nw d a b => some (d, nw, [u.x .s a - u.x .s b])
  | .umul nw d a b => some (d, nw, [u.x .s a * u.x .s b])
  | .umov nw d a => some (d, nw, [u.x .u a])
  | .uand nw d a b => some (d, nw, [u.x .u a &&& u.x .u b])
  | .uor nw d a b => some (d, nw, [u.x .u a ||| u.x .u b])
  | .uxor nw d a b => some (d, nw, [u.x .u a ^^^ u.x .u b])
  | .ushr nw d a b => some (d, nw, [if 32 ≤ (u.x .u b).toNat then 0 else u.x .u a >>> (u.x .u b).toNat])
  | .ushl nw d a b => some (d, nw, [if 32 ≤ (u.x .u b).toNat then 0 else u.x .u a <<< (u.x .u b).toNat])
  | .uadd64 nw d a b => some (d, nw, pairWords (u.p a + (u.x .s b).signExtend 64))
  | .useq nw d a b => some (d, nw, [relation (decide (u.x .s a = u.x .s b))])
  | .uslt nw d a b => some (d, nw, [relation (decide (sgn (u.x .s a) < sgn (u.x .s b)))])
  | .umin nw d a b => some (d, nw, [if sgn (u.x .s a) ≤ sgn (u.x .s b) then u.x .s a else u.x .s b])
  | .umax nw d a b => some (d, nw, [if sgn (u.x .s a) ≤ sgn (u.x .s b) then u.x .s b else u.x .s a])
  | .uaddi nw d a imm => some (d, nw, [u.x .s a + imm8 .s imm])
  | .ballot nw d a => some (d, nw, [word (maskOf (r.lanes.filter fun n => (r.lane n).x .u a != 0))])
  | .radd nw d a => some (d, nw, [(r.lanes.map fun n => (r.lane n).x .u a).foldl (· + ·) 0])
  | .rmin nw d a => some (d, nw, [leastSigned (r.lanes.map fun n => (r.lane n).x .s a)])
  | .rmax nw d a => some (d, nw, [greatestSigned (r.lanes.map fun n => (r.lane n).x .s a)])
  | _ => none

/-- RDLANE (R120): the value that lane B mod 32 reads from A, whatever its run state; none where it reads a latch that holds none. -/
def laneResult (o : Op) (s : State) (g : Gang) (m : Nat) (h : Hints) (l : Nat) : Instr → Option (Nat × Bool × List Word)
  | .rdlane nw d a b =>
    let n := (o.opnd s g m h .u l b).toNat % 32
    match a with
    | .d k => match (o.reader g m).latch n k with
      | .val x => some (d, nw, [x])
      | _ => none
    | _ => some (d, nw, [o.opnd s g m h .u n a])
  | _ => none

/-- RFADD (R91, R124): the balanced tree over the 32 lanes, a lane that does not execute as +0.0. -/
def laneTree (h : Hints) (r : ReadsAll) (a : Src) : FRes :=
  let x := fun (l : Nat) => if r.lanes.contains l then ((r.lane l).x .f a).toNat else 0
  let add := fun (p q : FRes) => let z := fp32.add h.rnd p.bits q.bits; (⟨z.bits, p.flags ||| q.flags ||| z.flags⟩ : FRes)
  let rec level : Nat → Nat → FRes
    | 0, l => ⟨x l, 0⟩
    | n + 1, l => add (level n (2 * l)) (level n (2 * l + 1))
  level 5 0

/-- The results of the quantizing instructions for lane l (R117, R118): destination, NW, the word delivered and the flags raised. A group is the lanes that execute. -/
def quantResult (r : ReadsAll) (l : Nat) : Instr → Option (Nat × Bool × FRes)
  | .qf8 nw d a => some (d, nw, groupWord 8 a)
  | .qf4 nw d a => some (d, nw, groupWord 4 a)
  | .dq8 nw d a b => if metaBad false ((r.lane l).x .u b) then none else some (d, nw, ⟨dequant ((r.lane l).x .u b) (((r.lane l).x .u a).toNat % 256), 0⟩)
  | .dq4 nw d a b => if metaBad true ((r.lane l).x .u b) then none else some (d, nw, ⟨dequant ((r.lane l).x .u b) (((r.lane l).x .u a).toNat % 16), 0⟩)
  | _ => none
where
  groupWord (bits : Nat) (a : Src) : FRes :=
    let q := quantize 149 bits (r.lanes.map fun n => (quantInput ((r.lane n).x .f a).toNat).1)
    let k := r.lanes.idxOf l
    ⟨q.zero * 16777216 + q.scale * 256 + q.qs.getD k 0,
      (if (quantInput ((r.lane l).x .f a).toNat).2 then flagNV else 0) + (if q.limited then flagOF else 0) + (if q.exact.getD k true then 0 else flagNX)⟩

/-! ## Operand faults (R43) -/

/-- What reading a latch leads to: 0x02 where it is EMPTY, 0x03 where it is INVALID. -/
def latchRead : Latch → Option Nat
  | .empty => some 2
  | .invalid => some 3
  | .val _ => none

/-- The subcode that an operand position takes in lane l (R43), from the latches of the active lanes: a reserved code, a latch that holds no value, IMMW without a bound HX.IMM, a position that needs a pair, a uniform position, a block of k registers (R169). -/
def positionSub (h : Hints) (latch : Nat → Nat → Latch) (lanes : List Nat) (l : Nat) : Opnd → Option Nat
  | .reg _ _ => none
  | .block (.k n) count => if n % count = 0 then none else some 0x0A
  | .block _ _ => some 0x0A
  | .src x _ => if codeBad x then some 1 else if x = .immw ∧ h.imm = none then some 4 else named x
  | .lane x => if codeBad x then some 1 else if x = .immw ∧ h.imm = none then some 4 else none
  | .uni x _ => if codeBad x then some 1 else if x = .immw ∧ h.imm = none then some 4 else match x with
    | .v _ => some 6
    | .lane => some 6
    | .tid => some 6
    | .d n => match latchRead (latch l n) with
      | some k => some k
      | none => if ∃ a ∈ lanes, ∃ b ∈ lanes, latchRead (latch a n) = none ∧ latchRead (latch b n) = none ∧ latch a n ≠ latch b n then some 7 else none
    | _ => none
  | .pair x => if codeBad x then some 1 else if x = .immw ∧ h.imm = none then some 4 else match x with
    | .v n => if n % 2 = 0 then none else some 5
    | .k n => if n % 2 = 0 then none else some 5
    | _ => some 5
  | .upair x => if codeBad x then some 1 else if x = .immw ∧ h.imm = none then some 4 else match x with
    | .k n => if n % 2 = 0 then none else some 5
    | .v n => if n % 2 = 0 then some 6 else some 5
    | _ => some 5
where
  codeBad (x : Src) : Bool := match x with | .rsv _ => true | _ => false
  named (x : Src) : Option Nat := match x with | .d n => latchRead (latch l n) | _ => none

/-- The subcode of lane l: the lowest of its positions' and of those of the instruction's own entry (R57). -/
def operandSub (o : Op) (g : Gang) (m : Nat) (h : Hints) (l : Nat) : Option Nat :=
  (o.form.illegal.toList ++ o.form.srcs.filterMap (positionSub h (fun l n => (o.reader g m).latch l n) (lanesOf m) l)).min?

/-! ## Flow, special registers, pod identity -/

/-- A lane that goes on at a target inside its code segment (R55); none where the target lies outside. -/
def jumped (t : Thread) (e : LaneEnd) (target : Word) : Option LaneEnd :=
  if target.toNat / 32768 = t.pc.toNat / 32768 then some { e with pc := target } else none

/-- The target of a displacement (R55). -/
def relative (t : Thread) (disp : Int) : Word := t.pc + 4 + BitVec.ofInt 32 (4 * disp)

/-- A far target whose segment is RESIDENT on the core (R137). -/
def farTarget (s : State) (g : Gang) (x : Word) : Bool :=
  x.toNat % 4 == 0 && match s.seg? g.core g.ctx (x.toNat / 32768) with
    | some y => y.st == .resident
    | none => false

/-- Where a lane of a flow instruction goes, and what it writes (R125, R129 to R131, R136, R137); none where it faults or waits, and for CALL. -/
def flowEnd (s : State) (g : Gang) (h : Hints) (r : Reads1) (l : Nat) : Instr → Option LaneEnd
  | .nop => some (.on (g.th l))
  | .yield => some (.on (g.th l))
  | .brz a disp => if r.x .u a = 0 then jumped (g.th l) (.on (g.th l)) (relative (g.th l) disp) else some (.on (g.th l))
  | .brnz a disp => if r.x .u a ≠ 0 then jumped (g.th l) (.on (g.th l)) (relative (g.th l) disp) else some (.on (g.th l))
  | .jmpi a => if (r.x .u a).toNat % 4 = 0 then jumped (g.th l) (.on (g.th l)) (r.x .u a) else none
  | .ret a => if (r.x .u a).toNat % 4 = 0 then jumped (g.th l) (.on (g.th l)) (r.x .u a) else none
  | .meet a =>
    if a = .immw then some { LaneEnd.on (g.th l) with mt := relative (g.th l) (BitVec.ofNat 24 (h.imm.getD 0)).toInt }
    else if r.x .u a = mtNone ∨ (r.x .u a).toNat % 4 = 0 then some { LaneEnd.on (g.th l) with mt := r.x .u a }
    else none
  | .rdmt nw d => some ((LaneEnd.on (g.th l)).writes nw d [(g.th l).mt])
  | .jf a => if farTarget s g (r.x .u a) then some { LaneEnd.on (g.th l) with pc := r.x .u a } else none
  | .callf nw d a => if farTarget s g (r.x .u a) then some { (LaneEnd.on (g.th l)).writes nw d [(g.th l).pc + 4] with pc := r.x .u a } else none
  | .cqry nw d a => some ((LaneEnd.on (g.th l)).writes nw d [segWord ((r.x .u a).toNat % 131072)])
  | .podid nw d => some ((LaneEnd.on (g.th l)).writes nw d [match s.pod.own with
      | none => 0xFFFF
      | some n => word (s.pod.portModule.length % 256 * 16777216 + (s.pod.entries.length + 1) % 256 * 65536 + n % 65536)])
  | .podmap nw d a => some ((LaneEnd.on (g.th l)).writes nw d [peerWord ((r.x .u a).toNat % 256)])
  | _ => none
where
  segWord (seg : Nat) : Word :=
    match s.seg? g.core g.ctx seg with
    | none => 0
    | some y => match y.st with
      | .fetching => 1
      | .resident => 2
      | .refused => 3
      | .faulted => word (4 + y.cls % 256 * 256 + y.sub % 256 * 65536)
  peerWord (peer : Nat) : Word :=
    let e := if s.pod.own = some peer then PodEntry.none_ else s.pod.entries.at_ PodEntry.none_ peer
    word (e.relay % 256 * 16777216 + e.port % 16 * 1048576 + e.st % 4 * 262144 + e.module % 256)

/-- The value of special register n for lane l of an instruction's lanes (R27). -/
def specialValue (s : State) (g : Gang) (lanes : List Nat) (l n : Nat) : Word :=
  let t := g.th l
  let c := if g.hslot.isSome then none else s.crew? g.crew
  let x := s.ctx g.ctx
  match n with
  | 0x00 => t.fps
  | 0x01 => t.mt
  | 0x02 => word l
  | 0x03 => word (32 * g.index + l)
  | 0x04 => word ((c.map (·.index)).getD 0)
  | 0x05 => word ((c.map (·.serial)).getD 0)
  | 0x06 => word (((c.map (·.serial)).getD 0) / 4294967296)
  | 0x07 => word g.index
  | 0x08 => word (g.core / 40 * 256 + g.core % 40)
  | 0x09 => word (g.issue.getD 0 * 16 + g.subCore)
  | 0x0A => word ((c.map (·.stage)).getD 0)
  | 0x0B => word g.level
  | 0x0C => word g.ctx
  | 0x0D => word (x.tenancy % 16 + (s.ten x.tenancy).dies % 16 * 16)
  | 0x0E => word (s.die (g.core / 40)).world
  | 0x0F => word s.clock
  | 0x10 => t.clockhi
  | 0x11 => t.rep
  | 0x12 => word x.ageMax
  | 0x13 => (c.map (·.k7)).getD 0xFFFFFFFF
  | 0x14 => (c.map (·.k4)).getD 0
  | 0x15 => word ((c.map (·.winSize)).getD 0)
  | 0x16 => word (maskOf lanes)
  | 0x17 => (s.pod.own.map word).getD 0xFFFFFFFF
  | 0x18 => loOf x.regBase
  | 0x19 => hiOf x.regBase
  | 0x1A => loOf x.codeBase
  | 0x1B => hiOf x.codeBase
  | _ => word x.prio

/-- What RDSR leaves of a lane (R221, R222): the register's value in vD, and the high half of the clock latched by a read of CLOCK. -/
def rdsrEnd (s : State) (g : Gang) (lanes : List Nat) (nw : Bool) (d n l : Nat) : LaneEnd :=
  { (LaneEnd.on (g.th l)).writes nw d [specialValue s g lanes l n] with
    clockhi := if n = 0x0F then word (s.clock / 4294967296) else (g.th l).clockhi }

end Sys2Proof.Claims
end

