-- ==== Sys2Proof/Certificates/Slice0/Effects.lean ====
section
/-! DEFINITION. What the instructions that act on memory do for one lane, in the words of the manual, as the statements of Obligations.lean read them: loads, stores, atomics, the decoding load, queue operations, launches, frozen objects. -/

namespace Sys2Proof.Claims

open Sys2Proof.Machine

/-- An access meets no race and no poison (R240, R281). -/
def clearFor (s : State) (gk pa : Nat) (leaf : Option DWord) (reads writes syn : Bool) : Prop :=
  s.raceSub gk (s.home pa / 16) (covered pa leaf) writes syn = none ∧ (reads = true → s.isPoisoned pa = false)

/-- The address of a memory operand (R138): pair A and B sign-extended. -/
def addressOf (o : Op) (s : State) (g : Gang) (m : Nat) (h : Hints) (a b : Src) (l : Nat) : DWord :=
  o.opnd2 s g m h l a + (o.opnd s g m h .s l b).signExtend 64

/-- The words of n registers from d on. -/
def regWords (g : Gang) (l d n : Nat) : List Word := (List.range n).map fun i => g.readV l (d + i)

/-! ## Loads (R146, R151) -/

/-- A load: destination, address operands, width in bytes, sign extension, vault. -/
structure LoadForm where
  d : Nat
  a : Src
  b : Src
  width : Nat
  signed : Bool
  vault : Bool

/-- The loads (R146, R151). -/
def loadForm : Instr → Option LoadForm
  | .ldB d a b => some ⟨d, a, b, 1, true, false⟩
  | .ldH d a b => some ⟨d, a, b, 2, true, false⟩
  | .ldW d a b => some ⟨d, a, b, 4, false, false⟩
  | .ldD d a b => some ⟨d, a, b, 8, false, false⟩
  | .ldBu d a b => some ⟨d, a, b, 1, false, false⟩
  | .ldHu d a b => some ⟨d, a, b, 2, false, false⟩
  | .ldQ d a b => some ⟨d, a, b, 16, false, false⟩
  | .ldxW d a b => some ⟨d, a, b, 4, false, true⟩
  | .ldxD d a b => some ⟨d, a, b, 8, false, true⟩
  | .ldxQ d a b => some ⟨d, a, b, 16, false, true⟩
  | _ => none

/-- What a load asks of the memory system: a synchronisation access where it is ordered or works on a full-empty bit. -/
def LoadForm.ask (f : LoadForm) (h : Hints) : Ask where
  width := f.width
  acc := .read
  raw := extRaw h.x
  fe := extFe h.x
  vault := f.vault
  syn := extOrder h.x != 0 || extFe h.x != 0

/-- The words that a load writes, from the bytes at its address, the first the least significant (R2, R146). -/
def LoadForm.words (f : LoadForm) (bytes : List Byte) : List Word :=
  if f.width = 1 then [if f.signed then (bytes.getD 0 0).signExtend 32 else (bytes.getD 0 0).setWidth 32]
  else if f.width = 2 then
    [if f.signed then (bytes.getD 1 0 ++ bytes.getD 0 0).signExtend 32 else (bytes.getD 1 0 ++ bytes.getD 0 0).setWidth 32]
  else (List.range (f.width / 4)).map fun i => bytes.getD (4 * i + 3) 0 ++ bytes.getD (4 * i + 2) 0 ++ bytes.getD (4 * i + 1) 0 ++ bytes.getD (4 * i) 0

/-- A load performed at its place: the access recorded, the caches as it leaves them, asked of a relay package where it lies behind one (R361), and with wait-full-clear its granule EMPTY (R152). -/
def loaded (s : State) (gk : Nat) (g : Gang) (h : Hints) (q : Ask) (pa : Nat) (leaf : Option DWord) : State :=
  let s := (s.bytesAt (s.viewFor g) pa q.width).1
  let s := s.recordAccess gk none (s.home pa / 16) (covered pa leaf) false q.syn none
  let s := (s.cacheAccess g.core g.ctx pa leaf (extCache h.x) false).askRelay g.core pa 0 [] q.width .nobody
  if q.fe = 2 then s.setFull pa false else s

/-- Lane l loads: its address is found, its granule is FULL where it waits for that, no race and no poison are met, and `b l` are the bytes there as its crew sees memory. -/
def LoadLink (gk : Nat) (g : Gang) (since : Nat) (h : Hints) (q : Ask) (ea : Nat → DWord) (b : Nat → List Byte) (s : State) (l : Nat) (t : State) : Prop :=
  ∃ s1 pa leaf, s.locate gk g l (ea l) q = (s1, .found pa leaf) ∧ (q.fe ≠ 0 → s1.feReady pa true since gk l = true) ∧
    clearFor s1 gk pa leaf true false q.syn ∧ b l = (s1.bytesAt (s1.viewFor g) pa q.width).2 ∧ t = loaded s1 gk g h q pa leaf

/-! ## Stores (R147, R151, R298, R299) -/

/-- A store: data registers, address operands, width in bytes, vault. -/
structure StoreForm where
  d : Nat
  a : Src
  b : Src
  width : Nat
  vault : Bool

/-- The stores (R147, R151). -/
def storeForm : Instr → Option StoreForm
  | .stB d a b => some ⟨d, a, b, 1, false⟩
  | .stH d a b => some ⟨d, a, b, 2, false⟩
  | .stW d a b => some ⟨d, a, b, 4, false⟩
  | .stD d a b => some ⟨d, a, b, 8, false⟩
  | .stQ d a b => some ⟨d, a, b, 16, false⟩
  | .stxW d a b => some ⟨d, a, b, 4, true⟩
  | .stxD d a b => some ⟨d, a, b, 8, true⟩
  | .stxQ d a b => some ⟨d, a, b, 16, true⟩
  | _ => none

/-- What a store asks of the memory system. -/
def StoreForm.ask (f : StoreForm) (h : Hints) : Ask where
  width := f.width
  acc := .write
  raw := extRaw h.x
  fe := extFe h.x
  vault := f.vault
  syn := extOrder h.x != 0 || extFe h.x != 0

/-- The bytes that a store writes: the low bytes of vD on. -/
def StoreForm.bytes (f : StoreForm) (g : Gang) (l : Nat) : List Byte := (List.range f.width).map fun i => (g.readV l (f.d + i / 4)).extractLsb' (8 * (i % 4)) 8

/-- The crew's task is pinned, where it has to be first (R299). -/
def pinned (first : Bool) (s : State) (g : Gang) (t : State) : Prop := if first then s.pin g = .ok t else t = s

/-- A further entry fits into the commit log of the gang's crew (R300). -/
def logTakes (s : State) (g : Gang) (entry : LogOp) : Bool :=
  match s.crewOf g with
  | some c => s.logFits c (logCost c.log entry)
  | none => false

/-- Lane l stores. A plain store of an unpinned task enters its commit log. Every other store is performed: after the task is pinned where the log is full or the store is a release or works on a full-empty bit, and with no race and its granule in the state it waits for. -/
def StoreLink (gk : Nat) (g : Gang) (e : Env) (q : Ask) (rel : Bool) (ea : Nat → DWord) (b : Nat → List Byte) (s : State) (l : Nat) (t : State) : Prop :=
  ∃ s1 pa leaf, s.locate gk g l (ea l) q = (s1, .found pa leaf) ∧
    let entry : LogOp := .store (s1.home pa) pa (gk, l) (b l)
    if s1.logsStore g pa q rel && logTakes s1 g entry then t = s1.logEntry g.crew entry
    else ∃ s2, pinned (rel || q.fe != 0 || s1.logsStore g pa q rel) s1 g s2 ∧
      (∀ x ∈ [s1, s2], clearFor x gk pa leaf false true q.syn ∧
        (q.fe = 1 → x.feReady pa true e.since gk l = true) ∧ (q.fe = 2 → x.feReady pa false e.since gk l = true)) ∧
      t = s2.performStore e l pa leaf q (b l) (!rel && (q.fe == 0 || q.fe == 3))

/-- The address under which memory holds the bytes that a store writes: its own in a core's vault, else the home of its location. -/
def storedAt (s : State) (pa : Nat) : Nat :=
  match regionOf pa with
  | .vault _ _ => pa
  | _ => s.home pa

/-- Bytes written at a physical address break no ring: no PUB in them comes to stand more than 64 entries ahead of a ring that is not broken yet (R172). -/
def breaksNoRing (s : State) (pa : Nat) (b : List Byte) : Prop :=
  ∀ p ∈ s.crews, p.2.broken = false → p.2.winPa 0x800 < pa + b.length → pa < p.2.winPa 0x800 + 4 → (s.putBytes pa b).ringFill p.2 ≤ 64

/-! ## Atomics (R154 to R156) -/

/-- An atomic: NW, register D, address operands, operation number (R348), vault. -/
structure AmoForm where
  nw : Bool
  d : Nat
  a : Src
  b : Src
  op : Nat
  vault : Bool

/-- The atomics (R155). -/
def amoForm : Instr → Option AmoForm
  | .amoAdd nw d a b => some ⟨nw, d, a, b, 0, false⟩
  | .amoMin nw d a b => some ⟨nw, d, a, b, 1, false⟩
  | .amoMax nw d a b => some ⟨nw, d, a, b, 2, false⟩
  | .amoAnd nw d a b => some ⟨nw, d, a, b, 3, false⟩
  | .amoOr nw d a b => some ⟨nw, d, a, b, 4, false⟩
  | .amoXor nw d a b => some ⟨nw, d, a, b, 5, false⟩
  | .amoXchg nw d a b => some ⟨nw, d, a, b, 6, false⟩
  | .amoCas nw d a b => some ⟨nw, d, a, b, 7, false⟩
  | .amoFadd nw d a b => some ⟨nw, d, a, b, 8, false⟩
  | .amoBfadd2 nw d a b => some ⟨nw, d, a, b, 9, false⟩
  | .amoMinu nw d a b => some ⟨nw, d, a, b, 10, false⟩
  | .amoMaxu nw d a b => some ⟨nw, d, a, b, 11, false⟩
  | .amoxAdd nw d a b => some ⟨nw, d, a, b, 0, true⟩
  | .amoxCas nw d a b => some ⟨nw, d, a, b, 7, true⟩
  | .amoxXchg nw d a b => some ⟨nw, d, a, b, 6, true⟩
  | .amoxFadd nw d a b => some ⟨nw, d, a, b, 8, true⟩
  | _ => none

/-- Bytes of the value that an atomic works on: 4, or 8 with W64. -/
def amoWidth (h : Hints) : Nat := if extW64 h.x then 8 else 4

/-- The data of an atomic: register D, or the pair. -/
def AmoForm.data (_ : AmoForm) (g : Gang) (h : Hints) (d l : Nat) : DWord :=
  if extW64 h.x then pairOf (g.readV l d) (g.readV l (d + 1)) else (g.readV l d).setWidth 64

/-- The compare value of CAS: SRC3, or the registers after the data (R155). -/
def AmoForm.cmp (f : AmoForm) (o : Op) (s : State) (g : Gang) (m : Nat) (h : Hints) (l : Nat) : DWord :=
  if f.op ≠ 7 then 0
  else if extSrc3 h.x = 0 then (if extW64 h.x then pairOf (g.readV l (f.d + 2)) (g.readV l (f.d + 3)) else (g.readV l (f.d + 1)).setWidth 64)
  else if extW64 h.x then o.opnd2 s g m h l h.src3 else (o.opnd s g m h .u l h.src3).setWidth 64

/-- The value that an atomic leaves, from the old value and the data of `w` bytes (R155). -/
def amoNew (op w : Nat) (old data cmp : Nat) : Nat :=
  match op with
  | 0 => (old + data) % 2 ^ (8 * w)
  | 1 => if (BitVec.ofNat (8 * w) old).toInt ≤ (BitVec.ofNat (8 * w) data).toInt then old else data
  | 2 => if (BitVec.ofNat (8 * w) old).toInt ≤ (BitVec.ofNat (8 * w) data).toInt then data else old
  | 3 => old &&& data
  | 4 => old ||| data
  | 5 => old ^^^ data
  | 6 => data
  | 7 => if old = cmp then data else old
  | 8 => (fp32.add .rne old data).bits
  | 9 => (bf16.add .rne (old % 65536) (data % 65536)).bits + (bf16.add .rne (old / 65536) (data / 65536)).bits * 65536
  | 10 => min old data
  | _ => max old data

/-- An atomic performed at its place: the old value read, the access recorded, the caches as it leaves them, the new value written, a PUB so written noted (R172), and the command that carries it to a module or a relay package. One with NW is posted, and stays unacknowledged unless it is a release. -/
def atomicDone (s : State) (gk l : Nat) (g : Gang) (e : Env) (f : AmoForm) (h : Hints) (pa : Nat) (leaf : Option DWord) (data cmp : DWord) : State :=
  let w := amoWidth h
  let r := s.bytesAt s.mem pa w
  let s := r.1
  let rel := decide (2 ≤ extOrder h.x)
  let s := s.recordAccess gk none (s.home pa / 16) (covered pa leaf) true true (if f.nw && !rel then some (ofLane l (s.destOf pa)) else none)
  let s := (s.cacheAccess g.core g.ctx pa leaf 0 true).putBytes pa (bytesOf w (amoNew f.op w (natOfBytes r.2) data.toNat cmp.toNat))
  (s.pubStored pa w (some (g.subId, gk))).amoCommand e l ⟨f.op, w, f.vault, f.nw, rel⟩ pa (natOfBytes r.2) data cmp

/-- The words of an old value, for register D. -/
def amoOld (f : AmoForm) (h : Hints) (old : Nat) : List Word :=
  if f.nw then [] else if extW64 h.x then [word (old % 4294967296), word (old / 4294967296)] else [word old]

/-- Lane l performs its atomic: with NW a plain one of an unpinned task enters its commit log; every other one is performed, its task pinned first where its result is wanted or the log is full, with no race and no poison. `old l` is the old value. -/
def AmoLink (gk : Nat) (g : Gang) (e : Env) (f : AmoForm) (h : Hints) (ea data cmp : Nat → DWord) (old : Nat → Nat) (s : State) (l : Nat) (t : State) : Prop :=
  ∃ s1 pa leaf, s.locate gk g l (ea l) { width := amoWidth h, acc := .atomic, vault := f.vault, syn := true } = (s1, .found pa leaf) ∧
    let logs := f.nw && s1.unpinnedOf g && !f.vault && s1.loggable pa
    let entry : LogOp := .atomic (s1.home pa) pa (gk, l) f.op (amoWidth h) (data l) (cmp l)
    if logs && logTakes s1 g entry then t = s1.logEntry g.crew entry
    else ∃ s2, pinned (!f.nw || logs) s1 g s2 ∧ (∀ x ∈ [s1, s2], clearFor x gk pa leaf true true true) ∧
      old l = natOfBytes (s2.bytesAt s2.mem pa (amoWidth h)).2 ∧ t = atomicDone s2 gk l g e f h pa leaf (data l) (cmp l)

/-! ## The decoding load (R78, R150) -/

/-- The words of a decoded element and the flags that it raises (R150), from the format, the group metadata word and the element's bytes as a number. -/
def elementOf (fmt : Nat) (w : Word) (x : Nat) : List Word × Nat :=
  match fmt with
  | 1 => ([word (fp32.ofVal .rne (fp32.value x)).bits, 0], (fp32.ofVal .rne (fp32.value x)).flags)
  | 2 => ([word (fp32.ofVal .rne (bf16.value x)).bits, 0], (fp32.ofVal .rne (bf16.value x)).flags)
  | 3 => ([word (fp32.ofVal .rne (fp16.value x)).bits, 0], (fp32.ofVal .rne (fp16.value x)).flags)
  | 4 => ([(BitVec.ofNat 8 x).signExtend 32, 0], 0)
  | _ => if fmtQ8 fmt then ([word (dequant w x), 0], 0) else ([word (dequant w (x % 16)), word (dequant w (x / 16))], 0)

/-- Lane l decodes one element: the page is a format page, a Q8 or Q4 page has a well-formed metadata word, no race and no poison are met, and no enabled exception is raised. -/
def DecodeLink (gk : Nat) (g : Gang) (e : Env) (h : Hints) (ea : Nat → DWord) (r : Nat → List Word × Nat) (s : State) (l : Nat) (t : State) : Prop :=
  ∃ s1 s2 pa leaf w, s.globalLoc gk g l (ea l) { width := 1, acc := .read, decode := true, syn := extOrder h.x != 0 } = (s1, .found pa (some leaf)) ∧
    (if fmtQ8 (leafFmt leaf) || fmtQ4 (leafFmt leaf) then
      ∃ va, (s1.ctx g.ctx).metaVa leaf (ea l) = .ok va ∧ metaWord s1 e l va = (s2, .ok w) ∧ metaBad (fmtQ4 (leafFmt leaf)) w = false
     else s2 = s1) ∧
    clearFor s2 gk pa (some leaf) true false (extOrder h.x != 0) ∧
    r l = elementOf (leafFmt leaf) w (natOfBytes (s2.bytesAt (s2.viewFor g) pa (fmtUnit (leafFmt leaf))).2) ∧ (g.th l).traps (r l).2 = false ∧
    t = (((s2.bytesAt (s2.viewFor g) pa (fmtUnit (leafFmt leaf))).1.recordAccess gk none (s2.home pa / 16) (covered pa (some leaf)) false (extOrder h.x != 0) none).cacheAccess
      g.core g.ctx pa (some leaf) (extCache h.x) false).askRelay g.core pa 0 [] (fmtUnit (leafFmt leaf)) .nobody

/-! ## Accesses that fault (R140, R145) -/

/-- The access of lane l faults with f l: its address is not found, or its place is found and, in the full-empty state that it waits for, meets a race, or else poison where it reads. `direct` tells which accesses are performed at once. -/
def FaultLink (gk : Nat) (g : Gang) (since : Nat) (q : Ask) (ea : Nat → DWord) (reads writes : Bool) (want : Option Bool) (direct : State → Nat → Bool)
    (f : Nat → Flt) (s : State) (l : Nat) (t : State) : Prop :=
  s.locate gk g l (ea l) q = (t, .flt (f l)) ∨
  ∃ pa leaf, s.locate gk g l (ea l) q = (t, .found pa leaf) ∧ direct t pa = true ∧ (∀ full, want = some full → t.feReady pa full since gk l = true) ∧
    ((∃ n, t.raceSub gk (t.home pa / 16) (covered pa leaf) writes q.syn = some n ∧ f l = ⟨cRace, n, ea l⟩) ∨
     (t.raceSub gk (t.home pa / 16) (covered pa leaf) writes q.syn = none ∧ reads = true ∧ t.isPoisoned pa = true ∧ f l = ⟨cPoison, 1, ea l⟩))

/-- A load that faults. -/
def LoadFault (gk : Nat) (g : Gang) (since : Nat) (q : Ask) (ea : Nat → DWord) (f : Nat → Flt) : State → Nat → State → Prop :=
  FaultLink gk g since q ea true false (if q.fe = 0 then none else some true) (fun _ _ => true) f

/-- A store that faults: one that enters a commit log meets no race yet (R300). -/
def StoreFault (gk : Nat) (g : Gang) (since : Nat) (q : Ask) (rel : Bool) (ea : Nat → DWord) (f : Nat → Flt) : State → Nat → State → Prop :=
  FaultLink gk g since q ea false true (if q.fe = 1 then some true else if q.fe = 2 then some false else none) (fun s pa => !s.logsStore g pa q rel) f

/-- An atomic that faults. -/
def AmoFault (gk : Nat) (g : Gang) (since : Nat) (f : AmoForm) (h : Hints) (ea : Nat → DWord) (r : Nat → Flt) : State → Nat → State → Prop :=
  FaultLink gk g since { width := amoWidth h, acc := .atomic, vault := f.vault, syn := true } ea true true none
    (fun s pa => !(f.nw && s.unpinnedOf g && !f.vault && s.loggable pa)) r

/-- An LD.F that faults at its address, or on a Q8 or Q4 page at its metadata word: outside the descriptor, unreadable, or malformed (R75, R78). -/
def DecodeFault (gk : Nat) (g : Gang) (e : Env) (h : Hints) (ea : Nat → DWord) (f : Nat → Flt) (s : State) (l : Nat) (t : State) : Prop :=
  let q : Ask := { width := 1, acc := .read, decode := true, syn := extOrder h.x != 0 }
  s.globalLoc gk g l (ea l) q = (t, .flt (f l)) ∨
  ∃ s1 pa leaf, s.globalLoc gk g l (ea l) q = (s1, .found pa (some leaf)) ∧ (fmtQ8 (leafFmt leaf) || fmtQ4 (leafFmt leaf)) = true ∧
    (((s1.ctx g.ctx).metaVa leaf (ea l) = .error (f l) ∧ t = s1) ∨
     (∃ va, (s1.ctx g.ctx).metaVa leaf (ea l) = .ok va ∧ metaWord s1 e l va = (t, .error (.fault (f l)))) ∨
     (∃ va w, (s1.ctx g.ctx).metaVa leaf (ea l) = .ok va ∧ metaWord s1 e l va = (t, .ok w) ∧ metaBad (fmtQ4 (leafFmt leaf)) w = true ∧ f l = ⟨cFormat, 2, ea l⟩))

/-- Lanes of which some fault and the others act. -/
def OrFault (faults : Nat → Bool) (fault link : State → Nat → State → Prop) (s : State) (l : Nat) (t : State) : Prop :=
  if faults l then fault s l t else link s l t

/-! ## Queue operations (R163 to R166) -/

/-- The queue that lane l names is found and its descriptor taken without a race: s1 is the state after its translation. -/
def queueAt (gk : Nat) (e : Env) (va : DWord) (writes : Bool) (s : State) (l : Nat) (s1 : State) (q : Queue) : Prop :=
  s.findQueue (e.who l) va = (s1, .found q) ∧ s1.raceRange gk (s1.home q.pa) 64 (covered q.pa (some q.leaf)) writes true = none

/-- The descriptor of a queue as an instruction leaves it: the access recorded and passed through the caches. -/
def noted (gk : Nat) (e : Env) (q : Queue) (writes : Bool) (s : State) : State :=
  (s.recordRange gk none (s.home q.pa) 64 (covered q.pa (some q.leaf)) writes true).cacheAccess e.g.core e.g.ctx q.pa (some q.leaf) 3 writes

/-- The slot of item n is found, without a race and, for a pop, without poison; the access to it is recorded and passes through the caches. -/
def slotAt (gk : Nat) (e : Env) (q : Queue) (n : Nat) (a : Access) (s : State) (l : Nat) (slot : Nat) (t : State) : Prop :=
  ∃ s1 leaf, s.slotLoc (e.who l) q n a = (s1, .found slot leaf) ∧ s1.raceRange gk (s1.home slot) q.isz (covered slot leaf) a.writes true = none ∧
    (a = .read → s1.poisoned (s1.home slot) q.isz = none) ∧
    t = (s1.recordRange gk none (s1.home slot) q.isz (covered slot leaf) a.writes true).cacheAccess e.g.core e.g.ctx slot leaf 3 a.writes

/-- The item that a push of lane l carries: ISZ bytes from vD on. -/
def itemBytes (s : State) (gk l d n : Nat) : List Byte :=
  match s.gang? gk with
  | some g => (List.range (n / 4)).flatMap fun i => bytesOf 4 (g.readV l (d + i)).toNat
  | none => []

/-- The item's registers lie in the register cache of the sub-core (R253). -/
def itemHeld (s : State) (gk d n : Nat) : Prop := ∀ x, s.gang? gk = some x → ∀ i, i < n / 4 → x.holdsLine (d + i) = true

/-- A push that lane l makes at once: with room and nobody before it, it is reserved, its item written at its slot, and committed in its turn, which has come. -/
def pushAt (gk : Nat) (e : Env) (q : Queue) (item : List Byte) (s : State) (l : Nat) (t : State) : Prop :=
  s.queueAhead (s.home q.pa) true e.since gk l = false ∧ s.qHasRoom q.pa q.cap = true ∧
    ∃ slot s2, slotAt gk e q (s.qTres q.pa) .write s l slot s2 ∧
      let s3 := noted gk e q true (s2.reservePush q.pa slot item)
      s3.commitTurn q.pa (s.qTres q.pa) true = true ∧ t = s3.commitLater ⟨s3.home q.pa, s.qTres q.pa, true, e.g.ctx, e.g.crew?⟩

/-- Lane l of QPUSH on a package-homed queue: an unpinned task defers the push while its log takes it, and accesses nothing yet; otherwise its task is pinned, and the push is made. -/
def PushLink (gk : Nat) (g : Gang) (e : Env) (d : Nat) (va : Nat → DWord) (s : State) (l : Nat) (t : State) : Prop :=
  ∃ s1 q, s.findQueue (e.who l) (va l) = (s1, .found q) ∧ q.home ≠ 2 ∧ d % (q.isz / 4) = 0 ∧ itemHeld s1 gk d q.isz ∧
    let item := itemBytes s1 gk l d q.isz
    let defers := s1.unpinnedOf g && (match s1.crewOf g with | some c => s1.logFits c (16 + q.isz) | none => false)
    (defers = false → s1.raceRange gk (s1.home q.pa) 64 (covered q.pa (some q.leaf)) true true = none) ∧
    if defers then t = s1.defer g.crew (.push (32 * g.index + l) (s1.home q.pa) item)
    else ∃ s2, pinned (s1.unpinnedOf g) s1 g s2 ∧ pushAt gk e q item s2 l t

/-- Lane l of QPOP or QTRYPOP takes an item from a package-homed queue: the one that its crew keeps reserved (R301), or one reserved with nobody before it; it is read from its slot, and committed in its turn, which has come, or at the retirement of an unpinned task. -/
def PopLink (gk : Nat) (g : Gang) (e : Env) (d : Nat) (try_ : Bool) (va : Nat → DWord) (item : Nat → List Byte) (s : State) (l : Nat) (t : State) : Prop :=
  ∃ s1 q, queueAt gk e (va l) true s l s1 q ∧ q.home ≠ 2 ∧ d % (q.isz / 4) = 0 ∧
    (s1.heldPop g (s1.home q.pa) = none → s1.qHasItem q.pa = true ∧ (try_ = false → s1.queueAhead (s1.home q.pa) false e.since gk l = false)) ∧
    let n := match s1.heldPop g (s1.home q.pa) with | some p => p.num | none => s1.qHres q.pa
    ∃ slot s2, slotAt gk e q n .read s1 l slot s2 ∧ item l = readBytes s2.mem (s2.home slot) q.isz ∧
      let taken := match s1.heldPop g (s1.home q.pa) with | some p => s2.useHeld g p | none => s2.reservePop q.pa
      let s3 := noted gk e q true taken
      if s3.unpinnedOf g then t = s3.mapCrew g.crew fun c => { c with pops := c.pops ++ [⟨32 * g.index + l, s3.home q.pa, n⟩] }
      else s3.commitTurn q.pa n false = true ∧ t = s3.commitLater ⟨s3.home q.pa, n, false, e.g.ctx, e.g.crew?⟩

/-- Lane l of QTRYPOP finds its queue without an item. -/
def MissLink (gk : Nat) (g : Gang) (e : Env) (d : Nat) (va : Nat → DWord) (s : State) (l : Nat) (t : State) : Prop :=
  ∃ s1 q, queueAt gk e (va l) true s l s1 q ∧ q.home ≠ 2 ∧ d % (q.isz / 4) = 0 ∧ s1.heldPop g (s1.home q.pa) = none ∧
    s1.qHasItem q.pa = false ∧ t = noted gk e q true s1

/-- Lane l of QLEN: TAIL − HRES of a package-homed queue. -/
def LenLink (gk : Nat) (e : Env) (va : Nat → DWord) (len : Nat → Word) (s : State) (l : Nat) (t : State) : Prop :=
  ∃ s1 q, queueAt gk e (va l) false s l s1 q ∧ q.home ≠ 2 ∧ len l = word (s1.qTail q.pa - s1.qHres q.pa) ∧ t = noted gk e q false s1

/-! ## Launches and continuations (R208, R220) -/

/-- A launch without the counts of its groups' barriers. -/
def withoutGbar (x : Launch) : Launch := { x with gbar := [] }

/-- Lane l launches: its record is read, and `r l` is its result: a reason with bit 31, or the serial of the launch made. -/
def LaunchLink (e : Env) (g : Gang) (h : Hints) (va : Nat → DWord) (stream : Nat → Nat) (r : Nat → Word) (s : State) (l : Nat) (t : State) : Prop :=
  (va l).toNat < 36028797018963968 ∧ (va l).toNat % 128 = 0 ∧ ∃ s1 head, s.readGranules e l (va l) 8 = (s1, .ok head) ∧
    match s1.headReason g.ctx (stream l) (natOfBytes head) with
    | some n => t = s1 ∧ r l = word (2147483648 + n)
    | none => ∃ s2 rest, s1.readGranules e l (va l + 128) ((headLen (natOfBytes head) - 128) / 16) = (s2, .ok rest) ∧
      let p := partsOf (countsOf (natOfBytes head)) rest
      match s2.restReason g.ctx (natOfBytes head) p with
      | some n => t = s2 ∧ r l = word (2147483648 + n)
      | none =>
        let n := (s2.ctx g.ctx).nextLaunch
        t = { s2 with launches := s2.launches ++ [newLaunch g.ctx n (stream l) g.level (extOv h.x) (natOfBytes head) p] }.mapCtx g.ctx (fun c => { c with nextLaunch := n + 1 }) ∧
          r l = word (n % 2147483648)

/-- Lane l spawns the continuation task of a PENDING record, whose pages are both there and whose launch still has it: `r l` is the low word of the task's serial. -/
def SpawnLink (e : Env) (g : Gang) (va : Nat → DWord) (r : Nat → Word) (s : State) (l : Nat) (t : State) : Prop :=
  ∃ s0 s1 pa leaf x n k, s.agentLoc (e.who l) (va l) 16 .write true = (s0, .found pa leaf) ∧
    (if (va l).toNat % 524288 + 18432 ≤ 524288 then s1 = s0
     else ∃ pb leafb, s0.agentLoc (e.who l) (va l + dword (524288 - (va l).toNat % 524288)) 16 .write true = (s1, .found pb leafb)) ∧
    s1.recordAt g.ctx (s1.home pa) = some (x, n) ∧
    (x = g.ctx ∨ s1.reaches g x = true) ∧ s1.recordState x n = some 1 ∧
    s1.launches.find? (fun y => y.ctx == x && y.records.contains n) = some k ∧ t = (s1.spawn x n k).1 ∧ r l = word k.nextTask

/-! ## Frozen objects (R209 to R214) -/

/-- Lane l reads a location of the object that its capability names. -/
def FrdLink (g : Gang) (cap : Nat → DWord) (sel : Nat → Word) (x : Nat → Word) (s : State) (l : Nat) (t : State) : Prop :=
  selBad (cap l) (sel l) = false ∧ ∃ o, s.capability (s.reaches g) (cap l) = .ok o ∧ s.readFrozen o (sel l) = (t, x l)

/-- Lane l writes a location of the object that its capability names. -/
def FwrLink (g : Gang) (cap : Nat → DWord) (sel x : Nat → Word) (s : State) (l : Nat) (t : State) : Prop :=
  selBad (cap l) (sel l) = false ∧ selFixed (sel l) = false ∧ ∃ o, s.capability (s.reaches g) (cap l) = .ok o ∧ s.writeFrozen o (sel l) (x l) = .ok t

/-- Lane l resumes lanes of the object that its capability names, or a command. -/
def FresLink (g : Gang) (cap : Nat → DWord) (mask mode : Nat → Nat) (y : Nat → DWord) (s : State) (l : Nat) (t : State) : Prop :=
  mode l < 3 ∧ (capKind (cap l) = true → mask l = 0 ∧ mode l = 0) ∧
    ∃ o, s.capability (s.reaches g) (cap l) = .ok o ∧ s.resumeFrozen o (mask l) (mode l) = (t, y l)

/-- Lane l kills lanes of the object that its capability names, or a command. -/
def FkillLink (g : Gang) (cap : Nat → DWord) (mask : Nat → Nat) (y : Nat → DWord) (s : State) (l : Nat) (t : State) : Prop :=
  (capKind (cap l) = true → mask l = 0) ∧ ∃ o, s.capability (s.reaches g) (cap l) = .ok o ∧ s.killFrozen o (mask l) = (t, y l)

/-- Lanes L of gang gk have become what `f` makes of them, but for the index that their lane state shows; its registers and its other lanes are as they were (R213, R214). -/
def LanesBecome (t : State) (gk : Nat) (g : Gang) (L : Nat) (f : Thread → Thread) : Prop :=
  ∃ g', t.gang? gk = some g' ∧ g'.v = g.v ∧ g'.k = g.k ∧
    ∀ l, l < 32 → if L.testBit l = true then ∃ x, g'.th l = { f (g.th l) with fset := x } else ThreadKept (g.th l) (g'.th l)

/-- What is left of frozen set i after lanes of a mask are resumed or killed, and the result y: with no lane of the set named, the set and its capability stand; else the old capability is revoked, and a new one is made for what is left, or the set is closed (R209, R213). -/
def SetLeft (s t : State) (ctx i : Nat) (f : FSet) (mask : Nat) (y : DWord) : Prop :=
  let gen := ((s.ctx ctx).gens.at_ 0 i + 1) % 65536
  if f.lanes &&& mask = 0 then y = f.rec_.cap ∧ (t.ctx ctx).gens.at_ 0 i = (s.ctx ctx).gens.at_ 0 i
  else (t.ctx ctx).gens.at_ 0 i = gen ∧
    if f.lanes - (f.lanes &&& mask) = 0 then y = 0 ∧ ((s.ctx ctx).unindexed = [] → (t.ctx ctx).sets.find? i = none)
    else y = setCap gen ctx i ∧ ∃ f', (t.ctx ctx).sets.find? i = some f' ∧ f'.lanes = f.lanes - (f.lanes &&& mask)

/-- The segments that lanes name, in the order of their lowest lanes, each with whether a lane asks for a refresh (R133). -/
def fetched (seg : Nat → Nat) (refresh : Nat → Bool) (lanes : List Nat) : List (Nat × Bool) :=
  ((lanes.map seg).eraseDups).map fun n => (n, lanes.any fun l => seg l == n && refresh l)

/-- Lane l reads half of an endpoint's mask, and writes it where its operand asks for that (R218). -/
def MaskLink (g : Gang) (x : Nat → Nat) (w r : Nat → Word) (s : State) (l : Nat) (t : State) : Prop :=
  x l < 1024 ∧ x l / 4 % 64 = 0 ∧
    let ep := s.endpoint g.ctx (x l % 4)
    let lo := if (x l).testBit 8 then 32 else 0
    r l = word (ep.mask.toNat / 2 ^ lo % 4294967296) ∧
      t = if (x l).testBit 9 then s.setEndpoint g.ctx (x l % 4) { ep with mask := dword (withBits ep.mask.toNat lo 32 (w l).toNat) } else s

end Sys2Proof.Claims
end

