-- ==== Sys2Proof/Certificates/Slice0/Steps.lean ====
section
/-! DEFINITION. The terms in which the statements about device steps speak: a waiting lane that looks again, the parts of a command, what a context's gangs become when they leave a core. -/

namespace Sys2Proof.Claims

open Sys2Proof.Machine

/-! ## Waiting lanes -/

/-- Lane l is the one waiting lane of gang gk; it waits with p. -/
structure LoneWait (s : State) (gk : Nat) (g : Gang) (l : Nat) (p : Pend) : Prop where
  gang : s.gang? gk = some g
  whole : g.threads.length = 32
  lane : l < 32
  blocked : (g.th l).run = .blocked
  wait : (g.th l).wait = some p
  lone : ∀ m, m < 32 → m ≠ l → (g.th m).run ≠ .blocked
  inside : (g.th l).pc.toNat % 0x8000 ≠ 0x7FFC

/-- What becomes of lane l of gang gk, which waits with p, when its instruction o looks again on the state s: it completes with its results, freezes with the fault that it meets, or waits on where it stands (R16). -/
def LooksAgain (i : Instr) (s : State) (gk : Nat) (g : Gang) (l : Nat) (p : Pend) : Prop :=
  ∀ (o : Op) (u : State) (out : LaneOut), opOf p.insn p.hints = some o →
    o.body (s.bringLines gk (o.form.target ++ linesOf [] o.form.kTarget)) (wakeEnv gk g [l] p) = (u, [(l, out)]) →
    (∃ g2, u.gang? gk = some g2 ∧ SameRegs g g2) →
    Yields i s fun t => ∃ g', t.gang? gk = some g' ∧
      (∀ d, out = .done d → (∀ x, (d.set x).pc = x.pc) →
        (g'.th l).run = .run ∧ (g'.th l).pc = d.npc.getD ((g.th l).pc + 4) ∧ ∀ n, n < 128 → g'.readV l n = (g.writeAll l (o.form.writes d)).readV l n) ∧
      (∀ f, out = .fault f → (g'.th l).run = .frozen ∧ (g'.th l).pc = (g.th l).pc ∧ g'.v = g.v) ∧
      (∀ w x, out = .wait w x → w ≠ .access → (g'.th l).run = .blocked ∧ (g'.th l).pc = (g.th l).pc ∧ g'.v = g.v)

/-- Lane l of gang gk stands BLOCKED where it stood, waiting for what `why` says. -/
def WaitsOn (t : State) (gk : Nat) (g : Gang) (l : Nat) (why : Wait) : Prop :=
  ∃ g' p, t.gang? gk = some g' ∧ (g'.th l).run = .blocked ∧ (g'.th l).pc = (g.th l).pc ∧ (g'.th l).wait = some p ∧ p.why = why

/-! ## Handler threads (R317 to R321) -/

/-- A placed task whose staging is complete starts now (R298): its context runs wherever its cores move, its cores differ and have room for their gangs, and it holds no item whose HEAD commit is due at its start. -/
structure StartReady (s : State) (crew : Nat) (c : Crew) (l : Launch) (st : Stage) : Prop where
  isCrew : s.crew? crew = some c
  launch : s.launch? c.ctx c.launch = some l
  stage : s.stageOfCrew c = some st
  phase : c.phase = .staging
  staged : s.staged crew c = true
  going : (s.ctx c.ctx).stopped = false
  runs : (s.moveSet c.ctx c.homeCore).all (s.runsHere c.ctx) = true
  cores : c.cores.Nodup ∧ c.cores ≠ []
  room : ∀ j, j < c.cores.length → (s.residents (c.cores.getD j 0)).length + shareOf st.gangs c.cores.length j ≤ Config.gangSlots
  item : c.popped = none ∨ c.unpinned = true

/-- A gang of a task as it starts (R37, R38): every thread in RUN at the entry PC, v0 the thread index, the first eight k registers set, every other register zero. -/
def StartGang (c : Crew) (l : Launch) (st : Stage) (i : Nat) (g : Gang) : Prop :=
  g.index = i ∧ g.threads.length = 32 ∧
    (∀ n, n < 32 → g.th n = Thread.start st.entry (word (st.fpen * 256)) ∧ g.readV n 0 = word (32 * i + n) ∧ ∀ m, 1 ≤ m → m < 128 → g.readV n m = 0) ∧
    (∀ n, n < 8 → g.readK n = [loOf l.arg, hiOf l.arg, c.k2, word c.index, c.k4, word c.winSize, word c.ring, c.k7].getD n 0) ∧ ∀ n, 8 ≤ n → g.readK n = 0

/-- A queued record owned by CTX whose handler can start now: enabled entry, free slot, resident context, the entry segment RESIDENT, no earlier record in its way (R317 to R320). -/
structure HandlerReady (s : State) (ctx sq slot : Nat) (r : Rec) (pc : Word) : Prop where
  queued : (s.ctx ctx).queued sq = some r
  entry : s.handlerEntry ctx r.cls = some pc
  owner : s.ownerOf ctx r = 1
  can : s.canHandle ctx r = true
  resident : s.residentOn ctx r.core = true
  range : slot < Config.handlerSlots
  free : s.hslotFree ctx r.core slot = true
  seg : s.segState r.core ctx (pc.toNat / 32768) = some .resident
  turn : s.firstInTurn ctx r = true

/-- The handler thread of a record (R321): thread 0 runs at the entry PC, the others have exited, and the first sixteen k registers hold the record. -/
structure HandlerStarted (t : State) (ctx slot : Nat) (r : Rec) (pc : Word) (gk : Nat) (g : Gang) : Prop where
  gang : t.gang? gk = some g
  inSlot : g.hslot = some slot
  place : g.core = r.core ∧ g.ctx = ctx ∧ g.level = 1
  first : (g.th 0).run = .run ∧ (g.th 0).pc = pc
  others : ∀ l, 1 ≤ l → l < 32 → (g.th l).run = .exited
  regs : ∀ i, i < 16 → g.readK i = r.word i
  held : (t.core r.core).hslots.find? slot = some gk

/-! ## Commands and their parts (R180, R181) -/

/-- Part n of a command performed: its source read, its destination written, the part counted. What it has read ahead, and what it has added to a window, stay with the command. -/
def PartLink (crew sq : Nat) (s : State) (n : Nat) (t : State) : Prop :=
  ∃ (c : Crew) (m : Cmd) (b : List Byte) (s1 u : State), s.crew? crew = some c ∧ s.cmd? crew sq = some m ∧
    (engineFor m).sourceOf s c m n = (s1, .ok b) ∧ (engineFor m).dest s1 c m n b = (u, .ok ()) ∧ u.crews = s.crews ∧
    (∃ k, u.cmd? crew sq = some k ∧ k = { m with buf := k.buf, added := k.added }) ∧ t = u.mapCmd crew sq fun m => { m with done := n :: m.done }

/-- An active command of a crew, not completed, that is no message of the network engine. -/
structure Going (s : State) (crew sq : Nat) (c : Crew) (m : Cmd) : Prop where
  owner : s.crew? crew = some c
  entry : s.cmd? crew sq = some m
  active : m.st = .active
  left : m.finished = false
  data : m.isMessage = false

/-- Bytes of a crew's window stand one after the other from a physical address on, in blocks of vault that are there. -/
def windowAt (s : State) (c : Crew) (va n pa : Nat) : Prop :=
  ∀ j, j < n → s.vaultByte c (va + j) = some (pa + j) ∧ ∃ core off, regionOf (pa + j) = .vault core off ∧ s.blockLive core (off / 0x10000) = true

/-- A command finds a run of bytes: in its crew's window, or inside 256 B of a page of tier 0 that is no device page; u is the state after the translation. -/
def runAt (s : State) (c : Crew) (w : Who) (vault : Bool) (a : Access) (va n : Nat) (u : State) (pa : Nat) : Prop :=
  if vault then u = s ∧ windowAt s c va n pa
  else chunks va n = [(va, n)] ∧ regionOf pa = .hbm ∧ ∃ leaf, s.engineLoc w va n a anyPage = (u, .ok (pa, leaf)) ∧ leafMt leaf ≠ 2

/-- No PUB of a ring lies in a run of bytes (R172). -/
def awayFromPub (s : State) (pa n : Nat) : Prop :=
  ∀ p ∈ s.crews, p.2.phase = .handover ∨ pa + n ≤ p.2.winPa 0x800 ∨ p.2.winPa 0x800 + 4 ≤ pa

/-- Part n of a command reads the bytes b on the way from s to u. -/
def Reads (m : Cmd) (s : State) (c : Crew) (n : Nat) (u : State) (b : List Byte) : Prop := (engineFor m).source s c m n = (u, .ok b)

/-- What part n of a command does with the bytes b is to write the bytes x at an address of its crew's window or of memory. -/
def Writes (m : Cmd) (s : State) (c : Crew) (n : Nat) (b : List Byte) (vault fs : Bool) (va : Nat) (x : List Byte) : Prop :=
  (engineFor m).dest s c m n b = s.writeRange c (m.who c) vault fs anyPage va x

/-! ## Residency (R307, R308) -/

/-- Gang gk is the one gang of its context on the cores that move with it, in a residency state. -/
structure LoneGang (s : State) (ctx core gk : Nat) (g : Gang) (r : Resid) : Prop where
  gang : s.gang? gk = some g
  whole : g.threads.length = 32
  place : g.ctx = ctx ∧ g.core = core ∧ g.resid = r
  moves : s.moveSet ctx core = [core]
  order : Tbl.rising s.gangs = true
  only : s.gangs.filter (fun p => p.2.ctx == ctx && p.2.core == core) = [(gk, g)]

/-- A run of a gang's image, which begins at offset o, in the state u: the record begins at pa in tier 0, the run lies in one page, and the leaf there lets the device write and has A and D set already. -/
def ImageRun (u : State) (g : Gang) (pa o n : Nat) : Prop :=
  (u.recVa g + dword o).toNat % 524288 + n ≤ 524288 ∧ pa + o + n ≤ 0x10000000000 ∧
    ∃ x at_, u.ownAccess g.ctx (u.recVa g + dword o) n .write = .leaf x at_ (pa + o) ∧ markLeaf x true = x ∧ dword (readNum u.mem (u.home at_) 8) = x

/-- The record of a gang is mapped from pa on, in every state through which its flush goes: where each of its dirty lines is written, and where the control state is. -/
structure Imaged (s : State) (g : Gang) (pa : Nat) : Prop where
  line : ∀ k, k < g.dirtyLines.length → ImageRun (s.storeLines g (g.dirtyLines.take k)) g pa (lineOff (g.dirtyLines.getD k 0)) 128
  control : ImageRun (s.storeLines g g.dirtyLines) g pa 0x4180 0x480

/-- Word j of lane state l of a record that begins at pa. -/
def laneAt (s : State) (pa l j : Nat) : Word := word (readNum s.mem (pa + 0x4200 + 32 * l + 4 * j) 4)

/-- The context may return, and the core has room for it. -/
structure RoomFor (s : State) (ctx core : Nat) (g : Gang) : Prop where
  may : s.mayReturn ctx = true
  can : s.canReturn ctx core = true
  slot : (s.slotFor g).isSome = true

/-! ## The control plane and the root of trust (R379 to R391) -/

/-- A request of a master reaches the device: every master's but that of a virtual function, which does outside RECOVERY (R387) and with the trusted indication that its tenancy asks for (R385). -/
def reachesDevice (s : State) (who : Owner) : Prop := ∀ ten trusted, who = .function ten trusted → s.inRecovery = false ∧ s.hostTrusted ten trusted = true

/-- The writes of the control plane by a master. -/
def ownerWriteBy (who : Owner) : Instr → Prop
  | .retrain w _ => w = who
  | .worldAssignGo w _ _ _ => w = who
  | .entropyHealthReset w => w = who
  | .frameOwnerWrite w _ _ => w = who
  | .claimWrite w _ _ _ _ _ _ => w = who
  | .handlerTableWrite w _ _ _ => w = who
  | .vaultSettingsWrite w _ _ => w = who
  | .extendMr w _ _ => w = who
  | .controlSpaceWrite w x => w = who ∧ (∀ off n, x ≠ .read off n) ∧ ∀ ten trusted, w ≠ .function ten trusted
  | .crewKill x => x.who = who
  | .contextReset x => x.who = who
  | .tenancyResetDrain x => x.who = who
  | .tenancyResetCancel x => x.who = who
  | _ => False

/-- The operations that a master makes at the capability port of a tenancy with a capability. -/
def capPortBy (who : Owner) (ten : Nat) (cap : DWord) : Instr → Prop
  | .capportFrd x c _ => x = ⟨who, ten⟩ ∧ c = cap
  | .capportFwr x c _ _ => x = ⟨who, ten⟩ ∧ c = cap
  | .capportFres x c _ _ => x = ⟨who, ten⟩ ∧ c = cap
  | .capportFkill x c _ => x = ⟨who, ten⟩ ∧ c = cap
  | _ => False

/-- The control plane has passed to a master: EPOCH counted, MR7 extended, nothing else changed but what becomes of the request. -/
structure OwnedBy (s t : State) (n : Nat) : Prop where
  owner : t.trust.owner = n
  epoch : t.trust.epoch = s.trust.epoch + 1
  mr7 : t.trust.mr 7 = sha384 (digestBytes (s.trust.mr 7) ++ digestBytes (Config.ownerDigest (s.trust.epoch + 1) n))
  mrs : ∀ k, k ≠ 7 → t.trust.mr k = s.trust.mr k
  rest : t = { s with trust := t.trust }

/-- The entropy source has failed (R386): LOCKED where two failures of the last 24 hours of Beryl's timer came before, the failure counted, MR9 extended with the time, the tests begun anew, every assignment that waits for a key ended with ENTROPY_FAIL. -/
structure SourceFails (s t : State) : Prop where
  entropy : t.trust.entropy = if 2 ≤ (s.trust.failTimes.filter fun c => decide (s.micros < c + 86400000000)).length then .locked else .failed
  count : t.trust.failCnt = s.trust.failCnt + 1
  mr9 : t.trust.mr 9 = sha384 (digestBytes (s.trust.mr 9) ++ bytesOf 8 s.micros)
  drawn : t.trust.drawn = []
  ended : ∀ a ∈ s.trust.keyWaits, a.key = true → ∀ d ∈ a.dies, (t.die d).status = 2
  none_ : ∀ a ∈ t.trust.keyWaits, a.key = false
  mem : MemKept s t

/-- The other dies of the tenancy of a die. -/
def otherDies (s : State) (die : Nat) : List Nat :=
  match s.tenancyOf die with
  | some t => t.dieList.filter fun d => d != die
  | none => []

/-- The device key, from MR0 to MR6 (R389). -/
def keyOf (s : State) : BitVec 384 := Config.deviceKey [s.trust.mr 0, s.trust.mr 1, s.trust.mr 2, s.trust.mr 3, s.trust.mr 4, s.trust.mr 5, s.trust.mr 6]

/-- An SPDM request answered: the state of the connection, and a response whose contents R389 leaves open, free but for the request and the device key. -/
def Answers (s : State) (i : Instr) (request : Nat) (tr : Trust) : Prop :=
  Yields i s fun t => t = { s with trust := { tr with response := Config.spdmResponse request (keyOf s) s.free }, free := s.free + 1 }

/-- An SPDM request answered with contents and a signature over them by the device key (R389). -/
def AnswersSigned (s : State) (i : Instr) (body : List Byte) (tr : Trust) : Prop :=
  Yields i s fun t => t = { s with trust := { tr with response := body ++ Config.signature (keyOf s) body s.free }, free := s.free + 1 }

/-! ## Resets and sends (R330, R332, R335) -/

/-- The package after a reset with a cause: no work, the root of trust and the power state as after power-on, local memory unlisted, what lies in the modules kept. -/
structure AfterReset (s t : State) (cause : Nat) : Prop where
  work : t.gangs = [] ∧ t.crews = [] ∧ t.launches = [] ∧ t.cmds = [] ∧ t.cur = none
  tables : t.ctxs = [] ∧ t.tens = [] ∧ t.ports = [] ∧ t.cores = [] ∧ t.dies = []
  trust : t.trust = State.reset.trust
  power : t.power = { State.reset.power with cause := cause }
  low : ∀ a, a < 9007199254740992 → readByte t.mem a = 0
  high : ∀ a, 9007199254740992 ≤ a → readByte t.mem a = readByte s.mem a
  modules : t.pages = s.pages ∧ t.modRanges = s.modRanges

/-- The permission table admits a send: the first entry that matches its sender holds its vector and its endpoint, and its rate is not used up in this window of 65,536 clocks. -/
def admitsSend (s : State) (x : Send) : Bool :=
  match List.find? (fun (p : Nat × Perm) => p.2.matches x) (s.ctx x.ctx).perms with
  | none => false
  | some (_, p) =>
    let rate := bitsAt p.lo.toNat 48 16
    p.vmask.toNat.testBit (x.operand.toNat / 67108864) && p.lo.toNat.testBit (8 + x.ep)
      && (rate == 0 || decide ((if p.window = s.clock / 65536 then p.accepted else 0) < rate))

/-! ## Ports and the pod (R342, R358, R359) -/

/-- A port is LOST: its loss is reported, and the package has marked its pairs over the module severed. -/
structure PortLost (s t : State) (port : Nat) : Prop where
  st : (t.port port).st = .lost
  report : ∃ e ∈ t.errors, e.unit_ = 16 + port ∧ e.kind = 2
  mark : ∀ a, s.pod.own = some a → (a, t.moduleAt port) ∈ t.pod.severed

/-- STATE and RELAY of every entry of the pod map are those of R359. -/
def EntriesFresh (s t : State) (a : Nat) : Prop :=
  ∀ b e, s.pod.entries.find? b = some e → t.pod.entries.find? b = some (t.podEntryFor a b e)

/-! ## Packets (R375, R376) -/

/-- The source bytes of packet k of a message. -/
def packetBytes (s : State) (c : Crew) (m : Cmd) (k : Nat) : State × Except Stop (List Byte) :=
  let n := mtuOf (s.sendQueue c m)
  s.msgBytes c m (k * n) (min n (m.msgLen - k * n))

/-- Packet k of a message has left with its bytes; it counts as sent once more, and as the last one sent. -/
structure PacketLeft (u t : State) (crew sq k : Nat) (c : Crew) (m : Cmd) (b : List Byte) (off : Nat) : Prop where
  rest : t = { u with net := t.net, cmds := t.cmds }
  sent : t.net.sent = u.net.sent ++ [(etherPort (u.sendQueue c m), ⟨(u.netEndpoint c m).job, (u.netEndpoint c m).pid, msgNumber crew sq, netMsgid m.img, m.msgLen, off,
    cmdOp m.img == 0x21, if cmdOp m.img = 0x21 then netRoff m.img else 0, b⟩)]
  counted : t.cmd? crew sq = some { m with pkts := m.pkts.map fun (x : PktState) =>
    if x.num = k then { x with sends := x.sends + 1, turn := u.net.sent.length + 1 } else x }

/-- A message received whole in one packet, in slot i of a context. -/
def wholeRx (p : Packet) (ctx i : Nat) : RxMsg := ⟨p.job, p.pid, p.msg, ctx, some i, [(0, p.bytes.length)], false, true⟩

/-! ## Turns and the end of a segment -/

/-- It is the turn of gang gk, and u is the state in which it acts: the clock has moved on, and the turn has left the agenda. -/
def Turning (s : State) (gk : Nat) (u : State) : Prop :=
  (∃ rest, s.agenda = .issue gk :: rest ∧ u = { s.tick with agenda := rest }) ∨ (s.agenda = [] ∧ s.tick.nextGang = some gk ∧ u = s.tick)

/-- As `Ready`, for a path that stands at the last word of its segment. -/
structure ReadyAtEnd (i : Instr) (o : Op) (s : State) (gk : Nat) (g : Gang) (m : Nat) (h : Hints) (pc : Word) : Prop where
  wf : i.wf = true
  op : opOf i h = some o
  cur : s.cur = some ⟨gk, m⟩
  gang : s.gang? gk = some g
  order : s.gangs.rising = true
  whole : g.threads.length = 32
  some : lanesOf m ≠ []
  range : m < 4294967296
  run : ∀ l ∈ lanesOf m, (g.th l).run = .run
  bound : (g.th ((lanesOf m).headD 0)).hints = h
  at_ : ∀ l ∈ lanesOf m, (g.th l).pc = pc
  edge : pc.toNat % 0x8000 = 0x7FFC
  check : o.form.check g h = none
  operands : o.form.operandFaults h.imm (o.reader g m) (lanesOf m) = []
  memory : o.form.mem = true → s.memReady g (lanesOf m).length = true
  ready : o.ready s (o.env s gk g (lanesOf m) h) = true

end Sys2Proof.Claims
end

