-- ==== Sys2Proof/Certificates/Slice0/Obligations.lean ====
section
/-! DEFINITION. The statements for the provers. `Ready` is the premise of the statements about one instruction: it issues, passes the checks of R57, and nothing holds it back. `Passed`, `Went` and `WentOn` (Safety.lean) say what becomes of its gang and of the rest of the machine, which is the frame. -/

open Sys2Proof Sys2Proof.Machine Sys2Proof.Claims

/-! ## Encoding, the step, reset -/

/-- Words written out from the encodings of R39 to R42 decode to the instructions that they stand for: of format R with and without NW, I, M (a load, and an atomic with NW), B and H, and a reserved encoding. -/
def Obligations.WordsDecode : Prop :=
  decode 0x00000000 = .ok .nop ∧
  decode 0x04140818 = .ok (.add false 5 (.v 2) (.v 6)) ∧
  decode 0x0614081A = .ok (.min true 5 (.v 2) (.v 6)) ∧
  decode 0x38042800 = .ok (.sext8 false 1 (.v 10)) ∧
  decode 0x94000C03 = .ok (.cqry false 0 (.v 3)) ∧
  decode 0x90002001 = .ok (.ret (.v 8)) ∧
  decode 0x8407FFFF = .ok (.brz (.v 1) (-1)) ∧
  decode 0x0A1409FC = .ok (.addi true 5 (.v 2) 127) ∧
  decode 0x98140A0C = .ok (.ldB 5 (.v 2) (.k 3)) ∧
  decode 0xAE140A0C = .ok (.amoAdd true 5 (.v 2) (.k 3)) ∧
  decode 0xFC000010 = .ok (.hxImm 16) ∧
  decode 0xFF000021 = .ok (.hxSched 2 1) ∧
  decode 0x3C000000 = .error (.reserved 0x3C000000)

/-- Decoding the word of a well-formed instruction gives it back, with every operand at every value that the encoding admits, and every instruction word of the table has exactly one word. A word that decodes is the word of its instruction, which is well-formed: no other word decodes to it (R40, R47, R58). -/
def Obligations.DecodeEncode : Prop :=
  (∀ (i : Instr) (w : Word), i.wf = true → encode i = [w] → decode w = .ok i) ∧
  (∀ (i : Instr) (w : Word) (rest : List Byte), i.wf = true → encode i = [w] → decodeBytes (bytesOfWord w ++ rest) = .ok (i, rest)) ∧
  (∀ (i j : Instr) (w : Word), i.wf = true → j.wf = true → encode i = [w] → encode j = [w] → i = j) ∧
  (∀ i : Instr, i.wf = true → i.isEvent = false → (∃ w, encode i = [w]) ∨ ∃ n, i = .reservedEncoding n) ∧
  (∀ (w : Word) (i : Instr), decode w = .ok i → i.wf = true ∧ encode i = [w])

/-- A step runs the decoded instruction: the gang whose turn it is fetches the four bytes at its path's PC from the resident segment, and where they decode to an instruction that nothing holds back, the step is exec of it, with the path's bookkeeping added; an instruction that is held back leaves its path where it stands, after asking for the pages that it waits for. A step of the device that the agenda names is exec of it. The agenda, the order of the gangs' turns, and what the end of every step deals and settles in one go are the model's choice (log entry 1). -/
def Obligations.StepRunsDecoded : Prop :=
  (∀ (s u v : State) (gk : Nat) (g : Gang) (c : Choice) (x : Seg) (i : Instr), Turning s gk u → u.gang? gk = some g →
    ((g.meet).forcedRun ≠ [] ∨ (g.meet).agedPath (u.ctx (g.meet).ctx).ageMax = none) → (g.meet).choose = some c → c.lanes ≠ [] →
    u.seg? (g.meet).core (g.meet).ctx (c.pc g.meet / 32768) = some x → x.st = .resident →
    decodeBytes (readBytes x.image (c.pc g.meet % 32768) 4) = .ok (i, []) → (g.meet).damagedLanes c.lanes = [] →
    v = { u.setGang gk ((g.meet).mapLanes c.lanes Thread.passMeeting) with cur := some ⟨gk, maskOf c.lanes⟩ } →
    (v.held gk ((g.meet).mapLanes c.lanes Thread.passMeeting) c.lanes i = false → ∀ t, exec i v = .next t → step s = .next (t.afterIssue gk v c).dealSlots) ∧
    (v.held gk ((g.meet).mapLanes c.lanes Thread.passMeeting) c.lanes i = true →
      step s = .next (v.whileHeld gk ((g.meet).mapLanes c.lanes Thread.passMeeting) c.lanes i).clearCur.dealSlots)) ∧
  (∀ (s : State) (i : Instr) (rest : List Turn), s.agenda = .event i :: rest → i.isEvent = true → ∀ t, exec i { s.tick with agenda := rest } = .next t → step s = .next t.dealSlots)

/-- What package reset leaves (R28, R262, R316, R339, R343, R386, R388, R391, R392): no work, the clock at 0, every port DOWN, no queue blocks, claims owned by MGMT, measurement registers zero, Garnet the owner, a healthy source, the power limit at 2.8 kW. -/
def Obligations.ResetValues : Prop :=
  let s := State.reset
  s.clock = 0 ∧ s.gangs = [] ∧ s.crews = [] ∧ s.launches = [] ∧ s.cmds = [] ∧
  (∀ p, (s.port p).st = .down) ∧ (∀ core, (s.core core).qblk = 0 ∧ (s.core core).boundary = 128 ∧ (s.core core).segs = []) ∧
  (∀ ten e, ((s.ten ten).claims.at_ Claim.reset e).owner = 4) ∧ (∀ i, s.trust.mr i = 0) ∧ s.trust.owner = 0 ∧ s.trust.epoch = 0 ∧ s.trust.viol = 0 ∧
  s.trust.entropy = .healthy ∧ s.trust.failCnt = 0 ∧ s.power.limit = 2800 ∧ s.power.mhz = 3300 ∧
  (∀ peer, (s.pod.pairs.at_ PairState.reset peer).nextOut = 0 ∧ (s.pod.pairs.at_ PairState.reset peer).nextIn = 0) ∧ s.pod.relay = [] ∧ ∀ w, w ≠ 0 → s.admits w = false

/-- The machine is sound right after reset. -/
def Obligations.ResetSound : Prop :=
  Sound State.reset

/-- Every step keeps the machine sound: memory in its canonical form, 32 threads in every gang (R9), gangs in the order of their keys, no path in the middle of an issue. -/
def Obligations.SoundKept : Prop :=
  ∀ (s t : State), Sound s → step s = .next t → Sound t

/-! ## Register instructions -/

/-- Every integer instruction completes with the results of R98 to R106, and changes nothing else. The bit operations that these results name, bit by bit (R102, R103): counting, reversal, byte permute, and the extraction and insertion of a field. SHL and ROL read IMMW as kind u in A, the model's choice (log entry 134). -/
def Obligations.IntegerResults : Prop :=
  (∀ (i : Instr) (o : Op) (s : State) (gk : Nat) (g : Gang) (m : Nat) (h : Hints) (d : Nat) (nw : Bool) (ws : Nat → List Word),
      Ready i o s gk g m h → (∀ l ∈ lanesOf m, intResult h (readsOf o s g m h l) i = some (d, nw, ws l)) →
      ∃ t, exec i s = .next t ∧ Went s t gk g m (fun l => (LaneEnd.on (g.th l)).writes nw d (ws l)) noK) ∧
  ((∀ x : Word, (clzW x).toNat = ((List.range 32).takeWhile fun i => !x.getLsbD (31 - i)).length) ∧
    (∀ x : Word, (popcW x).toNat = ((List.range 32).filter fun i => x.getLsbD i).length) ∧
    (∀ (x : Word) (i : Nat), i < 32 → (brevW x).getLsbD i = x.getLsbD (31 - i)) ∧
    (∀ (a b c : Word) (i : Nat), i < 32 → (bytepW a b c).getLsbD i = permutedBit a b c i) ∧
    (∀ (a b : Word) (i : Nat), i < 32 → (bfeuW a b).getLsbD i = (decide (i < fieldWidth b) && a.getLsbD (fieldAt b + i))) ∧
    (∀ (a b : Word) (i : Nat), i < 32 → (bfeW a b).getLsbD i = (decide (fieldWidth b ≠ 0) && a.getLsbD (fieldAt b + min i (fieldWidth b - 1)))) ∧
    (∀ (a b c : Word) (i : Nat), i < 32 → (bfiW a b c).getLsbD i =
      if fieldAt b ≤ i ∧ i < fieldAt b + fieldWidth b then a.getLsbD (i - fieldAt b) else c.getLsbD i))

/-- Extension (R106): SEXT8, SEXT16, ZEXT8 and ZEXT16 are 0x0E/0 to 0x0E/3, and extend their source of kind u. -/
def Obligations.Extensions : Prop :=
  ∀ (i : Instr) (nw : Bool) (d : Nat) (a : Src) (f : Word → Word) (mn : Nat),
    (i = .sext8 nw d a ∧ mn = 0 ∧ f = fun x => (x.setWidth 8).signExtend 32) ∨ (i = .sext16 nw d a ∧ mn = 1 ∧ f = fun x => (x.setWidth 16).signExtend 32) ∨
    (i = .zext8 nw d a ∧ mn = 2 ∧ f = fun x => (x.setWidth 8).setWidth 32) ∨ (i = .zext16 nw d a ∧ mn = 3 ∧ f = fun x => (x.setWidth 16).setWidth 32) →
    (i.wf = true → ∃ w, encode i = [w] ∧ w.toNat / 67108864 = 0x0E ∧ w.toNat % 4 = mn) ∧
    ∀ (o : Op) (s : State) (gk : Nat) (g : Gang) (m : Nat) (h : Hints), Ready i o s gk g m h →
      ∃ t, exec i s = .next t ∧ Went s t gk g m (fun l => (LaneEnd.on (g.th l)).writes nw d [f (o.opnd s g m h .u l a)]) noK

/-- Every floating-point instruction completes with the results and flags of R107 to R116 where no lane raises an enabled exception. QF8, QF4, DQ8 and DQ4 deliver the quantized group and the decoded elements of R117 and R118. Three points are the model's choice: N2F reads IMMW zero-extended in A (log entry 117), and which of the values that R111 admits RSQ, EX2, LG2 and TANH deliver (log entry 11). -/
def Obligations.FloatResults : Prop :=
  (∀ (i : Instr) (o : Op) (s : State) (gk : Nat) (g : Gang) (m : Nat) (h : Hints) (d : Nat) (nw : Bool) (r : Nat → FRes),
      Ready i o s gk g m h → (∀ l ∈ lanesOf m, fpResult h (readsOf o s g m h l) i = some (d, nw, r l)) →
      (∀ l ∈ lanesOf m, (r l).flags &&& bitsAt (g.th l).fps.toNat 8 5 = 0) →
      ∃ t, exec i s = .next t ∧ Went s t gk g m
        (fun l => { (LaneEnd.on (g.th l)).writes nw d [word (r l).bits] with fps := (g.th l).fps ||| word ((r l).flags % 64) }) noK) ∧
  (∀ (i : Instr) (o : Op) (s : State) (gk : Nat) (g : Gang) (m : Nat) (h : Hints) (d : Nat) (nw : Bool) (r : Nat → FRes),
      Ready i o s gk g m h → (∀ l ∈ lanesOf m, quantResult (allReads o s g m h) l i = some (d, nw, r l)) →
      (∀ l ∈ lanesOf m, (r l).flags &&& bitsAt (g.th l).fps.toNat 8 5 = 0) →
      ∃ t, exec i s = .next t ∧ Went s t gk g m
        (fun l => { (LaneEnd.on (g.th l)).writes nw d [word (r l).bits] with fps := (g.th l).fps ||| word ((r l).flags % 64) }) noK)

/-- Shuffles, votes and MATCH deliver the words of R122 and R123. The uniform instructions, BALLOT and the integer reductions write kD once for the gang (R119, R123, R124). RDLANE writes the value that the named lane reads (R120); RFADD writes the tree sum of the lanes with its flags, or, where a flag raised is enabled in any active lane, freezes every lane with class FP and those flags (R91, R124). RADD reads IMMW zero-extended in A (log entry 116), and RDLANE too (log entry 133): the model's choice. -/
def Obligations.LaneResults : Prop :=
  (∀ (i : Instr) (o : Op) (s : State) (gk : Nat) (g : Gang) (m : Nat) (h : Hints) (d : Nat) (nw : Bool) (ws : Nat → List Word),
      Ready i o s gk g m h → (∀ l ∈ lanesOf m, crossResult h (allReads o s g m h) l i = some (d, nw, ws l)) →
      ∃ t, exec i s = .next t ∧ Went s t gk g m (fun l => (LaneEnd.on (g.th l)).writes nw d (ws l)) noK) ∧
  (∀ (i : Instr) (o : Op) (s : State) (gk : Nat) (g : Gang) (m : Nat) (h : Hints) (d : Nat) (nw : Bool) (ws : List Word),
      Ready i o s gk g m h → uniResult (allReads o s g m h) (readsOf o s g m h ((lanesOf m).headD 0)) i = some (d, nw, ws) →
      ∃ t, exec i s = .next t ∧ Went s t gk g m (fun l => LaneEnd.on (g.th l)) (kWords nw d ws)) ∧
  (∀ (i : Instr) (o : Op) (s : State) (gk : Nat) (g : Gang) (m : Nat) (h : Hints) (d : Nat) (nw : Bool),
      Ready i o s gk g m h →
      (∀ ws, laneResult o s g m h ((lanesOf m).headD 0) i = some (d, nw, ws) →
        ∃ t, exec i s = .next t ∧ Went s t gk g m (fun l => LaneEnd.on (g.th l)) (kWords nw d ws)) ∧
      (∀ a, i = .rfadd nw d a →
        (∀ l ∈ lanesOf m, (laneTree h (allReads o s g m h) a).flags &&& bitsAt (g.th l).fps.toNat 8 5 = 0) →
        ∃ t, exec i s = .next t ∧ Went s t gk g m
          (fun l => { LaneEnd.on (g.th l) with fps := (g.th l).fps ||| word ((laneTree h (allReads o s g m h) a).flags % 64) })
          (kWords nw d [word (laneTree h (allReads o s g m h) a).bits])) ∧
      (∀ a, i = .rfadd nw d a →
        (∃ l ∈ lanesOf m, (laneTree h (allReads o s g m h) a).flags &&& bitsAt (g.th l).fps.toNat 8 5 ≠ 0) →
        ∃ t, exec i s = .next t ∧ TakesFault s t gk g m ⟨cFp, (laneTree h (allReads o s g m h) a).flags % 32, 0⟩))

/-- Result latches and the end of a segment (R45, R46, R47, R55). The result of an integer or a cross-lane instruction enters d1 of each active lane and the other latches move on, also where NW keeps it from the registers; NOP enters EMPTY. An instruction that reads an L-pending register finds every latch INVALID and clears the bit. YIELD, of class S, leaves every latch INVALID; loads, of classes S and L, do so too and make their registers L-pending; RDSR of CLOCK, of class L, enters INVALID and makes its register L-pending. An integer instruction at offset 0x7FFC takes effect, and its lanes then freeze where they stand with CODE_SEG 0x02 and the sequential address. That both halves of a pair that a load wrote become L-pending together is the model's reading (log entry 95). -/
def Obligations.LatchesAndSegmentEnd : Prop :=
  (∀ (i : Instr) (o : Op) (s : State) (gk : Nat) (g : Gang) (m : Nat) (h : Hints) (d : Nat) (nw : Bool) (w : Nat → Word) (ws : Nat → List Word),
    Ready i o s gk g m h →
    ((∀ l ∈ lanesOf m, intResult h (readsOf o s g m h l) i = some (d, nw, w l :: ws l)) ∨ (∀ l ∈ lanesOf m, crossResult h (allReads o s g m h) l i = some (d, nw, w l :: ws l))) →
    ∃ t g', exec i s = .next t ∧ t.gang? gk = some g' ∧ ∀ l ∈ lanesOf m,
      ((g.th l).hitsPending o.form.vRegs o.form.kRegs = false → (g'.th l).lat = (Latch.val (w l) :: (g.th l).lat).take 8) ∧
      ((g.th l).hitsPending o.form.vRegs o.form.kRegs = true → (g'.th l).lat = Latch.val (w l) :: List.replicate 7 .invalid ∧
        (∀ n, 1 ≤ n → n ≤ 8 → (o.reader g m).latch l n = .invalid) ∧ ∀ n ∈ o.form.vRegs, (g'.th l).lpv.getLsbD n = false)) ∧
  (∀ (i : Instr) (o : Op) (s : State) (gk : Nat) (g : Gang) (m : Nat) (h : Hints), Ready i o s gk g m h →
    (i = .nop → ∃ t g', exec i s = .next t ∧ t.gang? gk = some g' ∧ ∀ l ∈ lanesOf m, (g'.th l).lat = (Latch.empty :: (g.th l).lat).take 8) ∧
    (i = .yield → ∃ t g', exec i s = .next t ∧ t.gang? gk = some g' ∧ ∀ l ∈ lanesOf m, (g'.th l).lat = List.replicate 8 .invalid) ∧
    (∀ f b u, loadForm i = some f → Chain (LoadLink gk (o.reader g m) s.clock h (f.ask h) (addressOf o s g m h f.a f.b) b) (o.begun s gk g m) (lanesOf m) u →
      ∃ t g', exec i s = .next t ∧ t.gang? gk = some g' ∧ ∀ l ∈ lanesOf m, (g'.th l).lat = List.replicate 8 .invalid ∧
        ∀ n, f.d ≤ n → n < f.d + max (f.width / 4) 1 → n < 128 → (g'.th l).lpv.getLsbD n = true) ∧
    (∀ d, i = .rdsr false d .immw → h.imm = some 0x0F → d < 128 → ∃ t g', exec i s = .next t ∧ t.gang? gk = some g' ∧ ∀ l ∈ lanesOf m,
      (g'.th l).lat = (Latch.invalid :: (g.th l).lat).take 8 ∧ (g'.th l).lpv.getLsbD d = true)) ∧
  (∀ (i : Instr) (o : Op) (s : State) (gk : Nat) (g : Gang) (m : Nat) (h : Hints) (d : Nat) (nw : Bool) (pc : Word) (ws : Nat → List Word),
    ReadyAtEnd i o s gk g m h pc → (∀ l ∈ lanesOf m, intResult h (readsOf o s g m h l) i = some (d, nw, ws l)) →
    ∃ t g', exec i s = .next t ∧ t.gang? gk = some g' ∧
      (∀ l ∈ lanesOf m, (g'.th l).run = .frozen ∧ (g'.th l).pc = pc ∧ ∀ n, n < 128 →
        g'.readV l n = if nw = false ∧ d ≤ n ∧ n < d + (ws l).length then (ws l).getD (n - d) 0 else g.readV l n) ∧
      (s.hasCtx g.ctx = true → waitingRecs (s.ctx g.ctx).queue < Config.faultQueue → (s.ctx g.ctx).heldRecs = [] → lowestFree (s.ctx g.ctx).sets.keys 255 ≠ none →
        ∃ r ∈ (t.ctx g.ctx).queue, r.cls = cCodeSeg ∧ r.sub = 2 ∧ r.pc = pc ∧ r.va = dword (pc + 4).toNat ∧ r.lanes = m))

/-! ## Flow, special registers, hints -/

/-- The flow instructions, RDMT, CQRY, PODID and PODMAP go on as R125, R129 to R131, R136, R137 and R200 say. CALL writes PC + 4 to its v or k register and goes to its target inside the segment (R129). Three points are the model's choice: CALLF takes NW (log entry 27), what PODID counts (log entry 48), and that BRZ and BRNZ with IMMW read and consume the bound HX.IMM (log entry 29). -/
def Obligations.FlowResults : Prop :=
  (∀ (i : Instr) (o : Op) (s : State) (gk : Nat) (g : Gang) (m : Nat) (h : Hints) (e : Nat → LaneEnd),
      Ready i o s gk g m h → (∀ l ∈ lanesOf m, flowEnd s g h (readsOf o s g m h l) l i = some (e l)) →
      ∃ t, exec i s = .next t ∧ Went s t gk g m e noK) ∧
  (∀ (a : Src) (disp : Int) (o : Op) (s : State) (gk : Nat) (g : Gang) (m : Nat) (h : Hints) (e : Nat → LaneEnd),
      Ready (.call a disp) o s gk g m h →
      (∀ n, a = .v n → (∀ l ∈ lanesOf m, jumped (g.th l) ((LaneEnd.on (g.th l)).writes false n [(g.th l).pc + 4]) (relative (g.th l) disp) = some (e l)) →
        ∃ t, exec (.call a disp) s = .next t ∧ Went s t gk g m e noK) ∧
      (∀ n, a = .k n → (∀ l ∈ lanesOf m, jumped (g.th l) (LaneEnd.on (g.th l)) (relative (g.th l) disp) = some (e l)) →
        ∃ t, exec (.call a disp) s = .next t ∧ Went s t gk g m e (kWords false n [(g.th ((lanesOf m).headD 0)).pc + 4])))

/-- CQRY (R136): word 0x9400_0003 + D·2^18 + A·2^10; it sets vD in each active lane to the state of segment A[16:0] on the lane's core, with the class and the subcode of a FAULTED one, and is of none of the classes S, L and RB. -/
def Obligations.SegmentQuery : Prop :=
  ∀ (d : Nat) (a : Src), (Instr.wf (.cqry false d a) = true → encode (.cqry false d a) = [word (0x94000003 + d * 262144 + a.toCode * 1024)]) ∧
    ∀ (o : Op) (s : State) (gk : Nat) (g : Gang) (m : Nat) (h : Hints), Ready (.cqry false d a) o s gk g m h →
      o.form.sCls = false ∧ o.form.lCls = false ∧ o.form.rbCls = false ∧
      ∃ (t : State) (v : Nat → Word), exec (.cqry false d a) s = .next t ∧ Went s t gk g m (fun l => (LaneEnd.on (g.th l)).writes false d [v l]) noK ∧
        ∀ l ∈ lanesOf m, match s.seg? g.core g.ctx ((o.opnd s g m h .u l a).toNat % 131072) with
          | none => v l = 0
          | some x => (x.st = .fetching → v l = 1) ∧ (x.st = .resident → v l = 2) ∧ (x.st = .refused → v l = 3) ∧
            (x.st = .faulted → (v l).toNat = 4 + x.cls % 256 * 256 + x.sub % 256 * 65536)

/-- RDSR delivers a special register and WRSR writes one (R27, R221, R222). That RDSR of REGBASE and CODEBASE delivers the value in force, not the one written for the next context switch, is the model's choice (log entry 62), and so is what CREW, TASK, TASKHI and STAGE read in a handler thread (log entry 22). -/
def Obligations.SpecialRegisters : Prop :=
  ∀ (o : Op) (s : State) (gk : Nat) (g : Gang) (m : Nat) (h : Hints) (n : Nat), h.imm = some n →
    (∀ nw d, Ready (.rdsr nw d .immw) o s gk g m h →
      ∃ t, exec (.rdsr nw d .immw) s = .next t ∧ Went s t gk g m (fun l => rdsrEnd s g (lanesOf m) nw d n l) noK) ∧
    (∀ b, Ready (.wrsr .immw b) o s gk g m h → n = 0 →
      ∃ t, exec (.wrsr .immw b) s = .next t ∧
        Went s t gk g m (fun l => { LaneEnd.on (g.th l) with fps := o.opnd s g m h .u l b &&& 0x1F3F }) noK) ∧
    (∀ b w, Ready (.wrsr .immw b) o s gk g m h → n ≠ 0 → (∀ l ∈ lanesOf m, o.opnd s g m h .u l b = w) →
      ∃ t, exec (.wrsr .immw b) s = .next t ∧
        WentOn s (s.mapCtx g.ctx fun c =>
          if n = 0x12 then { c with ageMax := min (max w.toNat 64) 65535 }
          else if n = 0x18 then { c with regNext := pairOf (w &&& 0xFFFF0000) (hiOf c.regNext) }
          else if n = 0x19 then { c with regNext := pairOf (loOf c.regNext) (w &&& 0x7FFFFF) }
          else if n = 0x1A then { c with codeNext := pairOf (w &&& 0xFFFF0000) (hiOf c.codeNext) }
          else if n = 0x1B then { c with codeNext := pairOf (loOf c.codeNext) (w &&& 0x7FFFFF) }
          else { c with prio := w.toNat % 8 }) t gk g m (fun l => LaneEnd.on (g.th l)) noK)

/-- HX.IMM, HX.EXT, HX.SCHED and HX.REGION leave their payload with the next instruction, or begin a region, and go on (R50 to R53). That HX.REGION counts in its own region, so that RCNT is 1 after it, is the model's choice (log entry 61). -/
def Obligations.HintsIssue : Prop :=
  ∀ (i : Instr) (s : State) (gk : Nat) (g : Gang) (m : Nat) (h : Hints) (f : Thread → Thread),
    i.wf = true → Issues s gk g m h →
    ((∃ p, i = .hxImm p ∧ h.imm = none ∧ f = fun t => { t with pc := t.pc + 4, rcnt := countUp t.rcnt, hints := { t.hints with imm := some p } }) ∨
     (∃ p, i = .hxExt p ∧ h.ext = none ∧ f = fun t => { t with pc := t.pc + 4, rcnt := countUp t.rcnt, hints := { t.hints with ext := some p } }) ∨
     (∃ p r, i = .hxSched p r ∧ h.sched = none ∧ f = fun t => { t with pc := t.pc + 4, rcnt := countUp t.rcnt, hints := { t.hints with sched := some (p * 16 + r) } }) ∨
     (∃ p, i = .hxRegion p ∧ h = Hints.none_ ∧ f = fun t => { t with pc := t.pc + 4, rep := t.pc, rcnt := 1 })) →
    ∃ t, exec i s = .next t ∧ t.cur = none ∧ RestKept s t ∧ OthersKept s t gk ∧
      ∃ g', t.gang? gk = some g' ∧ g'.v = g.v ∧ g'.k = g.k ∧ (∀ l ∈ lanesOf m, g'.th l = f (g.th l)) ∧
        (∀ l, l < 32 → l ∉ lanesOf m → ThreadKept (g.th l) (g'.th l))

/-! ## Faults that an instruction takes -/

/-- A floating-point instruction that raises an enabled exception in every lane, with the same flags, freezes its lanes with class FP and those flags, and writes nothing; where only some lanes raise one, those freeze and the others complete (R26). Branches, calls, jumps and far transfers that leave their segment, are not aligned, or name a segment that is ABSENT, REFUSED or FAULTED freeze their lanes where they stand, and so does MEET of an address that is not aligned; a far transfer to a segment that is being fetched waits for it (R55, R129, R130, R131, R137). -/
def Obligations.FaultsInPlace : Prop :=
  (∀ (i : Instr) (o : Op) (s : State) (gk : Nat) (g : Gang) (m : Nat) (h : Hints) (d : Nat) (nw : Bool) (r : Nat → FRes) (n : Nat),
      Ready i o s gk g m h → (∀ l ∈ lanesOf m, fpResult h (readsOf o s g m h l) i = some (d, nw, r l)) →
      ((∀ l ∈ lanesOf m, (r l).flags = n ∧ n &&& bitsAt (g.th l).fps.toNat 8 5 ≠ 0) →
        ∃ t, exec i s = .next t ∧ TakesFault s t gk g m ⟨cFp, n % 32, 0⟩) ∧
      ∃ t, exec i s = .next t ∧ LanesFault t gk g m (fun l => (r l).flags &&& bitsAt (g.th l).fps.toNat 8 5 != 0)
        fun l => { (LaneEnd.on (g.th l)).writes nw d [word (r l).bits] with fps := (g.th l).fps ||| word ((r l).flags % 64) }) ∧
  (∀ (i : Instr) (o : Op) (s : State) (gk : Nat) (g : Gang) (m : Nat) (h : Hints) (x : Word),
      Ready i o s gk g m h →
      (∀ a disp, (i = .brz a disp ∧ (∀ l ∈ lanesOf m, o.opnd s g m h .u l a = 0)) ∨ (i = .brnz a disp ∧ (∀ l ∈ lanesOf m, o.opnd s g m h .u l a ≠ 0)) ∨ i = .call a disp →
        (∀ l ∈ lanesOf m, relative (g.th l) disp = x ∧ x.toNat / 32768 ≠ (g.th l).pc.toNat / 32768) →
        ∃ t, exec i s = .next t ∧ TakesFault s t gk g m ⟨cCodeSeg, 1, x.setWidth 64⟩) ∧
      (∀ a, i = .jmpi a ∨ i = .ret a → (∀ l ∈ lanesOf m, o.opnd s g m h .u l a = x) →
        (x.toNat % 4 ≠ 0 → ∃ t, exec i s = .next t ∧ TakesFault s t gk g m ⟨cAlign, 2, x.setWidth 64⟩) ∧
        (x.toNat % 4 = 0 → (∀ l ∈ lanesOf m, x.toNat / 32768 ≠ (g.th l).pc.toNat / 32768) →
          ∃ t, exec i s = .next t ∧ TakesFault s t gk g m ⟨cCodeSeg, 1, x.setWidth 64⟩)) ∧
      (∀ a, i = .meet a → a ≠ .immw → (∀ l ∈ lanesOf m, o.opnd s g m h .u l a = x) → x.toNat % 4 ≠ 0 → x ≠ mtNone →
        ∃ t, exec i s = .next t ∧ TakesFault s t gk g m ⟨cAlign, 2, x.setWidth 64⟩) ∧
      (∀ a nw d, i = .jf a ∨ i = .callf nw d a → (∀ l ∈ lanesOf m, o.opnd s g m h .u l a = x) →
        (x.toNat % 4 ≠ 0 → ∃ t, exec i s = .next t ∧ TakesFault s t gk g m ⟨cAlign, 2, x.setWidth 64⟩) ∧
        (x.toNat % 4 = 0 →
          (s.seg? g.core g.ctx (x.toNat / 32768) = none → ∃ t, exec i s = .next t ∧ TakesFault s t gk g m ⟨cCodeSeg, 3, x.setWidth 64⟩) ∧
          ∀ y, s.seg? g.core g.ctx (x.toNat / 32768) = some y →
            (y.st = .refused → ∃ t, exec i s = .next t ∧ TakesFault s t gk g m ⟨cCodeSeg, 3, x.setWidth 64⟩) ∧
            (y.st = .faulted → ∃ t, exec i s = .next t ∧ TakesFault s t gk g m ⟨cCodeSeg, 4, y.va⟩) ∧
            (y.st = .fetching → ∃ t, exec i s = .next t ∧ MemKept s t ∧ Waits t gk g m (fun _ => .segment (x.toNat / 32768))))))

/-- A second hint of a kind before its instruction, and HX.REGION after a hint, freeze the lanes with ILLEGAL_INSN (R50, R53). TRAP, BRK and a failing ASSERT freeze their lanes with class BRK (R204); an ASSERT that holds goes on. A word that is no instruction freezes its lanes with ILLEGAL_INSN: 0x01 for a reserved major, 0x02 for a reserved minor, and, at the step that fetches it, 0x03 for a field that is not used and not zero and 0x09 for an NW that R47 forbids where no lower subcode stands (R40, R47, R56, R57, R58). -/
def Obligations.IllegalWords : Prop :=
  (∀ (i : Instr) (s : State) (gk : Nat) (g : Gang) (m : Nat) (h : Hints) (n : Nat),
      Issues s gk g m h →
      ((∃ p, i = .hxImm p ∧ h.imm ≠ none ∧ n = 6) ∨ (∃ p, i = .hxExt p ∧ h.ext ≠ none ∧ n = 6) ∨ (∃ p r, i = .hxSched p r ∧ h.sched ≠ none ∧ n = 6) ∨
        (∃ p, i = .hxRegion p ∧ h ≠ Hints.none_ ∧ n = 8)) →
      ∃ t, exec i s = .next t ∧ TakesFault s t gk g m ⟨cIllegalInsn, n, 0⟩) ∧
  (∀ (i : Instr) (o : Op) (s : State) (gk : Nat) (g : Gang) (m : Nat) (h : Hints),
      Ready i o s gk g m h →
      (i = .brk → ∃ t, exec i s = .next t ∧ TakesFault s t gk g m ⟨cBrk, 1, 0⟩) ∧
      (∀ a, i = .trap a → ∃ t, exec i s = .next t ∧ TakesFault s t gk g m ⟨cBrk, 2, (o.opnd s g m h .u ((lanesOf m).headD 0) a).setWidth 64⟩) ∧
      (∀ a b, i = .assert a b → (∀ l ∈ lanesOf m, o.opnd s g m h .u l a = 0) →
        ∃ t, exec i s = .next t ∧ TakesFault s t gk g m ⟨cBrk, 3, (o.opnd s g m h .u ((lanesOf m).headD 0) b).setWidth 64⟩) ∧
      (∀ a b, i = .assert a b → (∀ l ∈ lanesOf m, o.opnd s g m h .u l a ≠ 0) →
        ∃ t, exec i s = .next t ∧ Went s t gk g m (fun l => LaneEnd.on (g.th l)) noK)) ∧
  (∀ (w : Nat) (s : State) (gk : Nat) (g : Gang) (m : Nat) (h : Hints), Issues s gk g m h →
      ∃ t, exec (.reservedEncoding w) s = .next t ∧
        TakesFault s t gk g m ⟨cIllegalInsn, if w / 67108864 % 64 = 0x0F ∨ (0x3B ≤ w / 67108864 % 64 ∧ w / 67108864 % 64 ≤ 0x3E) then 1 else 2, 0⟩) ∧
  decode 0x00040000 = .error .unused ∧ decode 0x02000000 = .error (.nw .nop) ∧
  (∀ (s u v : State) (gk : Nat) (g : Gang) (c : Choice) (x : Seg) (w : Word) (n : Nat), Turning s gk u → u.gang? gk = some g → u.gangs.rising = true → g.threads.length = 32 →
    ((g.meet).forcedRun ≠ [] ∨ (g.meet).agedPath (u.ctx (g.meet).ctx).ageMax = none) → (g.meet).choose = some c → c.lanes ≠ [] →
    u.seg? (g.meet).core (g.meet).ctx (c.pc g.meet / 32768) = some x → x.st = .resident → word (readNum x.image (c.pc g.meet % 32768) 4) = w → (g.meet).damagedLanes c.lanes = [] →
    v = { u.setGang gk ((g.meet).mapLanes c.lanes Thread.passMeeting) with cur := some ⟨gk, maskOf c.lanes⟩ } →
    (decode w = .error .unused ∧ n = 3) ∨ (n = 9 ∧ ∃ i o, decode w = .error (.nw i) ∧ opOf i ((g.meet).th (c.lanes.headD 0)).hints = some o ∧
      o.form.illegalInsn ((g.meet).th (c.lanes.headD 0)).hints = none) →
    ∃ t, step s = .next (t.afterIssue gk v c).dealSlots ∧ TakesFault v t gk ((g.meet).mapLanes c.lanes Thread.passMeeting) (maskOf c.lanes) ⟨cIllegalInsn, n, 0⟩)

/-- An instruction that fails its encoding or privilege checks freezes every active lane and has no other effect (R56, R57). One whose operands every lane reads with a subcode of R43 freezes them with ILLEGAL_OPERAND and the lowest of it; where only some lanes of an integer instruction do, those freeze and the others complete (R24, R43, R57). The privilege of an instruction (R57, R212 to R214, R205, R208, R221 to R224): the instructions of handler and kernel level freeze their lanes with PRIV 0x01 in a gang of a lower level, and SVC in one above user level. -/
def Obligations.ChecksComeFirst : Prop :=
  (∀ (i : Instr) (o : Op) (s : State) (gk : Nat) (g : Gang) (m : Nat) (h : Hints) (f : Flt),
      opOf i h = some o → Issues s gk g m h → o.form.check g h = some f →
      ∃ t, exec i s = .next t ∧ TakesFault s t gk g m f) ∧
  (∀ (i : Instr) (o : Op) (s : State) (gk : Nat) (g : Gang) (m : Nat) (h : Hints),
      i.wf = true → opOf i h = some o → Issues s gk g m h → o.form.illegalInsn h = none →
      (((∃ d a b, i = .frd d a b ∨ i = .fwr d a b) ∨ (∃ nw d a b, i = .fres nw d a b ∨ i = .fkill nw d a b) ∨ ∃ nw d a, i = .spawn nw d a) ∧ g.level < 1) ∨
      (((∃ a b, i = .invl a b) ∨ ∃ a, i = .invla a) ∧ g.level < 2) ∨ ((∃ d a b, i = .svc d a b) ∧ g.level ≠ 0) →
      ∃ t, exec i s = .next t ∧ TakesFault s t gk g m ⟨cPriv, 1, 0⟩) ∧
  (∀ (i : Instr) (o : Op) (s : State) (gk : Nat) (g : Gang) (m : Nat) (h : Hints),
      i.wf = true → opOf i h = some o → Issues s gk g m h → o.form.check g h = none →
      (∀ n, (∀ l ∈ lanesOf m, operandSub o g m h l = some n) → ∃ t, exec i s = .next t ∧ TakesFault s t gk g m ⟨cIllegalOperand, n, 0⟩) ∧
      (∀ (d : Nat) (nw : Bool) (ws : Nat → List Word), (∃ l ∈ lanesOf m, operandSub o g m h l = none) →
        (∀ l ∈ lanesOf m, operandSub o g m h l = none → intResult h (readsOf o s g m h l) i = some (d, nw, ws l)) →
        ∃ t, exec i s = .next t ∧ LanesFault t gk g m (fun l => (operandSub o g m h l).isSome) fun l => (LaneEnd.on (g.th l)).writes nw d (ws l)))

/-! ## Memory, ordering, queues -/

/-- Loads deliver the bytes at their addresses, lane after lane in ascending order (R138, R144, R146, R151, R152). LD.F delivers the decoded element and its flags, lane after lane (R78, R150); that its metadata word is read before its data, and raw whatever the format of its own page, is the model's choice (log entries 32, 115). What a performed load leaves, its translation apart, which may set the A bit of a leaf (R276): every byte of memory and every poison mark as it was, and its granule EMPTY with wait-full-clear (R152). -/
def Obligations.Loads : Prop :=
  (∀ (i : Instr) (o : Op) (s : State) (gk : Nat) (g : Gang) (m : Nat) (h : Hints) (f : LoadForm) (b : Nat → List Byte) (u : State),
      Ready i o s gk g m h → loadForm i = some f →
      Chain (LoadLink gk (o.reader g m) s.clock h (f.ask h) (addressOf o s g m h f.a f.b) b) (o.begun s gk g m) (lanesOf m) u →
      ∃ t, exec i s = .next t ∧ WentOn s u t gk g m (fun l => (LaneEnd.on (g.th l)).writes false f.d (f.words (b l))) noK) ∧
  (∀ (d : Nat) (a b : Src) (o : Op) (s : State) (gk : Nat) (g : Gang) (m : Nat) (h : Hints) (r : Nat → List Word × Nat) (u : State),
      Ready (.ldF d a b) o s gk g m h →
      Chain (DecodeLink gk (o.reader g m) (o.given s gk g m h) h (addressOf o s g m h a b) r) (o.begun s gk g m) (lanesOf m) u →
      ∃ t, exec (.ldF d a b) s = .next t ∧ WentOn s u t gk g m
        (fun l => { (LaneEnd.on (g.th l)).writes false d (r l).1 with fps := (g.th l).fps ||| word ((r l).2 % 64) }) noK) ∧
  (∀ (s : State) (gk : Nat) (g : Gang) (h : Hints) (q : Ask) (pa : Nat) (leaf : Option DWord),
      (∀ a, readByte (loaded s gk g h q pa leaf).mem a = readByte s.mem a) ∧ (loaded s gk g h q pa leaf).poison = s.poison ∧
      (∀ p, (loaded s gk g h q pa leaf).isFull p = if q.fe = 2 ∧ p / 16 = pa / 16 then false else s.isFull p))

/-- Stores are performed, or enter the commit log of an unpinned task, lane after lane (R147, R151, R298, R299). What a performed store leaves: its bytes from the address on, every other byte of memory as it was, poison gone from the granules that it overwrites whole, its granule FULL where it asks for that, and every other full-empty bit as it was (R147, R152, R281); a store that breaks a ring records that besides (R172, RingSteps). -/
def Obligations.Stores : Prop :=
  (∀ (i : Instr) (o : Op) (s : State) (gk : Nat) (g : Gang) (m : Nat) (h : Hints) (f : StoreForm) (u : State),
      Ready i o s gk g m h → storeForm i = some f →
      (isRelease h.x = true → lostLanesOf (o.begun s gk g m) (o.given s gk g m h) = []) →
      Chain (StoreLink gk (o.reader g m) (o.given s gk g m h) (f.ask h) (isRelease h.x) (addressOf o s g m h f.a f.b) (f.bytes g))
        (o.begun s gk g m) (lanesOf m) u →
      ∃ t, exec i s = .next t ∧ WentOn s u t gk g m (fun l => { LaneEnd.on (g.th l) with region := isRelease h.x }) noK) ∧
  (∀ (s : State) (e : Env) (l pa : Nat) (leaf : Option DWord) (q : Ask) (b : List Byte) (posted : Bool), s.loggable pa = true → breaksNoRing s pa b →
      (∀ a, readByte (s.performStore e l pa leaf q b posted).mem a =
        if storedAt s pa ≤ a ∧ a < storedAt s pa + b.length then b.getD (a - storedAt s pa) 0 else readByte s.mem a) ∧
      (∀ p, p ∈ (s.performStore e l pa leaf q b posted).poison ↔ p ∈ s.poison ∧ ¬ (storedAt s pa ≤ p * 16 ∧ p * 16 + 16 ≤ storedAt s pa + b.length)) ∧
      (∀ p, (s.performStore e l pa leaf q b posted).isFull p = if (q.fe = 2 ∨ q.fe = 3) ∧ p / 16 = pa / 16 then true else s.isFull p))

/-- Atomics read, compute and write as R155 says, lane after lane, and deliver the old value unless NW is set. What a performed atomic leaves: the new value at its address, every other byte of memory and every full-empty bit as it was (R155, R172 apart). -/
def Obligations.Atomics : Prop :=
  (∀ (i : Instr) (o : Op) (s : State) (gk : Nat) (g : Gang) (m : Nat) (h : Hints) (f : AmoForm) (old : Nat → Nat) (u : State),
      Ready i o s gk g m h → amoForm i = some f →
      (amoReleases h.x = true → lostLanesOf (o.begun s gk g m) (o.given s gk g m h) = []) →
      Chain (AmoLink gk (o.reader g m) (o.given s gk g m h) f h (addressOf o s g m h f.a f.b) (fun l => f.data g h f.d l) (fun l => f.cmp o s g m h l) old)
        (o.begun s gk g m) (lanesOf m) u →
      ∃ t, exec i s = .next t ∧
        WentOn s u t gk g m (fun l => { (LaneEnd.on (g.th l)).writes false f.d (amoOld f h (old l)) with region := true }) noK) ∧
  (∀ (s : State) (gk l : Nat) (g : Gang) (e : Env) (f : AmoForm) (h : Hints) (pa : Nat) (leaf : Option DWord) (data cmp : DWord), s.loggable pa = true →
      let old := natOfBytes (s.bytesAt s.mem pa (amoWidth h)).2
      let new := amoNew f.op (amoWidth h) old data.toNat cmp.toNat
      breaksNoRing s pa (bytesOf (amoWidth h) new) →
      (∀ a, readByte (atomicDone s gk l g e f h pa leaf data cmp).mem a =
        if storedAt s pa ≤ a ∧ a < storedAt s pa + amoWidth h then BitVec.ofNat 8 (new / 256 ^ (a - storedAt s pa)) else readByte s.mem a) ∧
      (atomicDone s gk l g e f h pa leaf data cmp).fe = s.fe)

/-- A global address past 2^55 is found before a misaligned one, and a misaligned one before any translation; a vault address is checked for its form, for the joined window and its rank, for alignment and for its window's bounds, in this order, and else lies in the window: nothing of the machine is changed (R31, R33, R138 to R140). The lanes of a load, a store, an atomic or LD.F whose address is not found, or whose data meet a race or poison, freeze where they stand with nothing written, while the other lanes complete (R140, R145); where all fault alike, one record with class, subcode and address is queued. The order of the checks within R140 is the model's reading (log entry 31). -/
def Obligations.AddressChecks : Prop :=
  (∀ (s : State) (gk : Nat) (g : Gang) (l : Nat) (ea : DWord) (q : Ask), q.vault = false → 1 ≤ q.width →
    (36028797018963968 ≤ ea.toNat → s.locate gk g l ea q = (s, .flt ⟨cXlatePerm, 0x10, ea⟩)) ∧
    (ea.toNat < 36028797018963968 → ea.toNat % q.width ≠ 0 → s.locate gk g l ea q = (s, .flt ⟨cAlign, 1, ea⟩))) ∧
  (∀ (s : State) (gk : Nat) (g : Gang) (l : Nat) (ea : DWord) (q : Ask), q.vault = true → 1 ≤ q.width →
    let x := ea.toNat
    (4294967296 ≤ x ∨ x / 268435456 % 8 ≠ 0 → s.locate gk g l ea q = (s, .flt ⟨cXlatePerm, 0x20, ea⟩)) ∧
    (x < 4294967296 → x / 268435456 % 8 = 0 → g.hslot = none → ∀ c, s.crewOf g = some c →
      (x < 2147483648 → (x % q.width ≠ 0 → s.locate gk g l ea q = (s, .flt ⟨cAlign, 1, ea⟩)) ∧
        (x % q.width = 0 → s.locate gk g l ea q = (s, if c.winSize < x + q.width then .flt ⟨cXlatePerm, 0x21, ea⟩ else .found (c.winPa x) none))) ∧
      (2147483648 ≤ x → (c.cluster = none → s.locate gk g l ea q = (s, .flt ⟨cXlatePerm, 0x22, ea⟩)) ∧
        (c.cluster ≠ none → let rank := x / 16777216 % 16
          (s.clusterSize c ≤ rank → s.locate gk g l ea q = (s, .flt ⟨cXlatePerm, 0x23, ea⟩)) ∧
          (rank < s.clusterSize c → (x % q.width ≠ 0 → s.locate gk g l ea q = (s, .flt ⟨cAlign, 1, ea⟩)) ∧
            ∀ k, x % q.width = 0 → s.clusterMember c rank = some k →
              s.locate gk g l ea q = (s, if k.winSize < x % 16777216 + q.width then .flt ⟨cXlatePerm, 0x21, ea⟩ else .found (k.winPa (x % 16777216)) none)))))) ∧
  (∀ (i : Instr) (o : Op) (s : State) (gk : Nat) (g : Gang) (m : Nat) (h : Hints) (faults : Nat → Bool) (f : Nat → Flt) (u : State),
      Ready i o s gk g m h →
      let alike := fun (t : State) => ∀ x, (∀ l ∈ lanesOf m, faults l = true ∧ f l = x) → TakesFault u t gk g m x
      (∀ a b, loadForm i = some a →
        Chain (OrFault faults (LoadFault gk (o.reader g m) s.clock (a.ask h) (addressOf o s g m h a.a a.b) f)
          (LoadLink gk (o.reader g m) s.clock h (a.ask h) (addressOf o s g m h a.a a.b) b)) (o.begun s gk g m) (lanesOf m) u →
        ∃ t, exec i s = .next t ∧ alike t ∧ LanesFault t gk g m faults fun l => (LaneEnd.on (g.th l)).writes false a.d (a.words (b l))) ∧
      (∀ a, storeForm i = some a → (isRelease h.x = true → lostLanesOf (o.begun s gk g m) (o.given s gk g m h) = []) →
        Chain (OrFault faults (StoreFault gk (o.reader g m) s.clock (a.ask h) (isRelease h.x) (addressOf o s g m h a.a a.b) f)
          (StoreLink gk (o.reader g m) (o.given s gk g m h) (a.ask h) (isRelease h.x) (addressOf o s g m h a.a a.b) (a.bytes g))) (o.begun s gk g m) (lanesOf m) u →
        ∃ t, exec i s = .next t ∧ alike t ∧ LanesFault t gk g m faults fun l => { LaneEnd.on (g.th l) with region := isRelease h.x }) ∧
      (∀ a old, amoForm i = some a → (amoReleases h.x = true → lostLanesOf (o.begun s gk g m) (o.given s gk g m h) = []) →
        Chain (OrFault faults (AmoFault gk (o.reader g m) s.clock a h (addressOf o s g m h a.a a.b) f)
          (AmoLink gk (o.reader g m) (o.given s gk g m h) a h (addressOf o s g m h a.a a.b) (fun l => a.data g h a.d l) (fun l => a.cmp o s g m h l) old)) (o.begun s gk g m) (lanesOf m) u →
        ∃ t, exec i s = .next t ∧ alike t ∧ LanesFault t gk g m faults fun l => { (LaneEnd.on (g.th l)).writes false a.d (amoOld a h (old l)) with region := true }) ∧
      (∀ d a b r, i = .ldF d a b →
        Chain (OrFault faults (DecodeFault gk (o.reader g m) (o.given s gk g m h) h (addressOf o s g m h a b) f)
          (DecodeLink gk (o.reader g m) (o.given s gk g m h) h (addressOf o s g m h a b) r)) (o.begun s gk g m) (lanesOf m) u →
        ∃ t, exec i s = .next t ∧ alike t ∧ LanesFault t gk g m faults fun l =>
          { (LaneEnd.on (g.th l)).writes false d (r l).1 with fps := (g.th l).fps ||| word ((r l).2 % 64) }))

/-- FENCE and FENCEX complete once what they order has been performed (R157, R158, R230); FENCEX with TL in its before mask gives its crew the tile records that the gang has set (R193). A fence, a barrier or another release whose instance holds another agent waits at its issue, with nothing changed, until the stores of its lanes have been acknowledged (R157, R159, R160, R165, R216, R228, R230). The model's choices: which accesses a release waits for, and that one whose instance holds no other agent waits for none (log entries 40 and 104); records that a FENCEX shows (log entry 105). -/
def Obligations.Fences : Prop :=
  (∀ (i : Instr) (o : Op) (s : State) (gk : Nat) (g : Gang) (m : Nat) (h : Hints), Ready i o s gk g m h →
      (i = .fence → extOrder h.x = 1 → ∃ t, exec i s = .next t ∧ WentOn s (o.begun s gk g m) t gk g m (fun l => LaneEnd.on (g.th l)) noK) ∧
      (i = .fence → extOrder h.x ≠ 1 → lostLanesOf (o.begun s gk g m) (o.given s gk g m h) = [] →
        ∃ t, exec i s = .next t ∧ (s.alone g gk (h.scopeOr 1) = false → ∀ d ∈ g.pending, lostDest d = true ∨ laneOf d ∉ lanesOf m) ∧
          WentOn s (o.begun s gk g m) t gk g m (fun l => LaneEnd.on (g.th l)) noK) ∧
      (∀ a b, i = .fencex a b → lostLanesOf (o.begun s gk g m) (o.given s gk g m h) = [] →
        let orders := (lanesOf m).any (fun l => (o.opnd s g m h .u l a).toNat.testBit 6) && (lanesOf m).any fun l => (o.opnd s g m h .u l b).toNat % 256 != 0
        ∃ t, exec i s = .next t ∧
          WentOn s (if orders then (o.begun s gk g m).mergeTiles gk else o.begun s gk g m) t gk g m (fun l => LaneEnd.on (g.th l)) noK)) ∧
  (∀ (i : Instr) (o : Op) (s : State) (gk : Nat) (g : Gang) (m : Nat) (h : Hints) (scope : Nat),
      opOf i h = some o → Issues s gk g m h → o.form.check g h = none → o.form.operandFaults h.imm (o.reader g m) (lanesOf m) = [] →
      (i = .bar ∧ scope = 1 ∨ (∃ a, i = .gbar a) ∧ scope = 2 ∨ i = .fence ∧ extOrder h.x ≠ 1 ∧ scope = h.scopeOr 1 ∨ ((∃ d a, i = .qpush d a) ∨ (∃ d a, i = .qpop d a) ∨ ∃ d a b, i = .qtrypop d a b) ∧ 3 ≤ scope ∧ scope ≤ 5 ∨
        (∃ a b, i = .uliSend a b) ∧ scope = 4) →
      s.alone g gk scope = false → (∃ d ∈ g.pending, lostDest d = false ∧ laneOf d ∈ lanesOf m) → exec i s = .next s.clearCur)

/-- BAR completes for the lanes that arrive last, with the next instance of the crew's barrier, and at once in a handler thread; other lanes wait (R159, R322). GBAR of one group: it completes for the lanes that arrive last at the group's barrier, once every member crew has started (R160); before that it holds its lanes; and lanes that name no group of their crew with BARRIER freeze. -/
def Obligations.Barriers : Prop :=
  (∀ (o : Op) (s : State) (gk : Nat) (g : Gang) (m : Nat) (h : Hints), Ready .bar o s gk g m h →
      (g.hslot ≠ none → ∃ t, exec .bar s = .next t ∧ WentOn s s t gk g m (fun l => LaneEnd.on (g.th l)) noK) ∧
      (g.hslot = none → ∀ c, s.crew? g.crew = some c →
        ((∀ p ∈ s.gangs, p.2.crew = g.crew → p.2.hslot = none → ∀ l, l < 32 → (p.1 = gk ∧ l ∈ lanesOf m) ∨ (p.2.th l).arrived c.bar = true) →
          ∃ t, exec .bar s = .next t ∧ WentOn s s t gk g m (fun l => LaneEnd.on (g.th l)) noK ∧ ∃ c', t.crew? g.crew = some c' ∧ c.bar < c'.bar) ∧
        ((∃ l, l < 32 ∧ l ∉ lanesOf m ∧ (g.th l).arrived c.bar = false) ∨ (∃ p ∈ s.gangs, p.1 ≠ gk ∧ p.2.crew = g.crew ∧ p.2.hslot = none ∧ ∃ l, l < 32 ∧ (p.2.th l).arrived c.bar = false) →
          ∃ t, exec .bar s = .next t ∧ Waits t gk g m (fun _ => .barrier c.bar) ∧ MemKept s t))) ∧
  (∀ (a : Src) (o : Op) (s : State) (gk : Nat) (g : Gang) (m : Nat) (h : Hints) (gid : Nat), Ready (.gbar a) o s gk g m h →
      (∀ l ∈ lanesOf m, (o.opnd s g m h .u l a).toNat % 256 = gid) →
      (s.mayGbar g gid = false → ∃ t, exec (.gbar a) s = .next t ∧ TakesFault s t gk g m ⟨cIllegalOperand, 9, 0⟩) ∧
      (s.mayGbar g gid = true → ∀ c x, s.crewOf g = some c → s.launch? c.ctx c.launch = some x →
        (s.groupStarted x gid = true →
          (∀ p ∈ s.groupGangs c.ctx c.launch gid, ∀ l, l < 32 → (p.1 = gk ∧ l ∈ lanesOf m) ∨ (p.2.th l).arrivedGroup gid (x.gbar.at_ 0 gid) = true) →
          ∃ t, exec (.gbar a) s = .next t ∧ WentOn s s t gk g m (fun l => LaneEnd.on (g.th l)) noK ∧
            ∃ y, t.launch? c.ctx c.launch = some y ∧ x.gbar.at_ 0 gid < y.gbar.at_ 0 gid) ∧
        (s.groupStarted x gid = false ∨
            (∃ p ∈ s.groupGangs c.ctx c.launch gid, ∃ l, l < 32 ∧ ¬ (p.1 = gk ∧ l ∈ lanesOf m) ∧ (p.2.th l).arrivedGroup gid (x.gbar.at_ 0 gid) = false) →
          ∃ t, exec (.gbar a) s = .next t ∧ Waits t gk g m (fun _ => .group gid (x.gbar.at_ 0 gid)) ∧ MemKept s t)))

/-- QPUSH, QPOP, QTRYPOP and QLEN on queues of the package complete lane after lane (R163 to R167). The steps of a queue (R166): a reserved push has its item at its slot and TRES one up, a reserved pop HRES one up, a commit in its turn TAIL or HEAD one up, and no other byte of memory is changed. -/
def Obligations.Queues : Prop :=
  (∀ (d : Nat) (a b : Src) (o : Op) (s : State) (gk : Nat) (g : Gang) (m : Nat) (h : Hints) (u : State) (item : Nat → List Byte) (len : Nat → Word) (n : Nat),
      (Ready (.qpush d a) o s gk g m h → Chain (PushLink gk (o.reader g m) (o.given s gk g m h) d (fun l => o.opnd2 s g m h l a)) (o.begun s gk g m) (lanesOf m) u →
        ∃ t, exec (.qpush d a) s = .next t ∧ WentOn s u t gk g m (fun l => { LaneEnd.on (g.th l) with region := true }) noK) ∧
      (Ready (.qpop d a) o s gk g m h → Chain (PopLink gk (o.reader g m) (o.given s gk g m h) d false (fun l => o.opnd2 s g m h l a) item) (o.begun s gk g m) (lanesOf m) u →
        ∃ t, exec (.qpop d a) s = .next t ∧
          WentOn s u t gk g m (fun l => { (LaneEnd.on (g.th l)).writes false d (wordsOf ((item l).length / 4) (item l)) with region := true }) noK) ∧
      (Ready (.qtrypop d a b) o s gk g m h → b = .v n →
        Chain (PopLink gk (o.reader g m) (o.given s gk g m h) d true (fun l => o.opnd2 s g m h l a) item) (o.begun s gk g m) (lanesOf m) u →
        ∃ t, exec (.qtrypop d a b) s = .next t ∧ WentOn s u t gk g m (fun l =>
          { LaneEnd.on (g.th l) with region := true, v := fun k => if k = n then some 1 else ((LaneEnd.on (g.th l)).writes false d (wordsOf ((item l).length / 4) (item l))).v k }) noK) ∧
      (Ready (.qtrypop d a b) o s gk g m h → b = .v n →
        Chain (MissLink gk (o.reader g m) (o.given s gk g m h) d (fun l => o.opnd2 s g m h l a)) (o.begun s gk g m) (lanesOf m) u →
        ∃ t, exec (.qtrypop d a b) s = .next t ∧
          WentOn s u t gk g m (fun l => { LaneEnd.on (g.th l) with region := true, v := fun k => if k = n then some 0 else none }) noK) ∧
      (Ready (.qlen d a) o s gk g m h → Chain (LenLink gk (o.given s gk g m h) (fun l => o.opnd2 s g m h l a) len) (o.begun s gk g m) (lanesOf m) u →
        ∃ t, exec (.qlen d a) s = .next t ∧ WentOn s u t gk g m (fun l => { (LaneEnd.on (g.th l)).writes false d [len l] with region := true }) noK)) ∧
  (∀ (s : State) (pa : Nat) (slot : Nat) (item : List Byte), regionOf slot = .hbm → regionOf pa = .hbm →
      (slot + item.length ≤ pa ∨ pa + 64 ≤ slot) →
      (∀ a, readByte (s.reservePush pa slot item).mem a =
        if slot ≤ a ∧ a < slot + item.length then item.getD (a - slot) 0
        else if pa + 8 ≤ a ∧ a < pa + 16 then BitVec.ofNat 8 ((s.qTres pa + 1) / 256 ^ (a - (pa + 8)))
        else readByte s.mem a) ∧
      (∀ a, readByte (s.reservePop pa).mem a =
        if pa + 24 ≤ a ∧ a < pa + 32 then BitVec.ofNat 8 ((s.qHres pa + 1) / 256 ^ (a - (pa + 24))) else readByte s.mem a) ∧
      (s.commits = [] → ∀ ctx crew a, readByte (s.commitLater ⟨pa, s.qTail pa, true, ctx, crew⟩).mem a =
        if pa ≤ a ∧ a < pa + 8 then BitVec.ofNat 8 ((s.qTail pa + 1) / 256 ^ (a - pa)) else readByte s.mem a) ∧
      (s.commits = [] → ∀ ctx crew a, readByte (s.commitLater ⟨pa, s.qHead pa, false, ctx, crew⟩).mem a =
        if pa + 16 ≤ a ∧ a < pa + 24 then BitVec.ofNat 8 ((s.qHead pa + 1) / 256 ^ (a - (pa + 16))) else readByte s.mem a))

/-! ## Engines, handles, tile records, the matrix instructions -/

/-- XQ publishes the eight registers as the entry at PUB of its crew's ring, counts PUB up and delivers the old PUB, for an entry of its engine that passes its checks while the ring has room (R169, R173, R174). A published entry stands in slot PUB mod 64 of the ring, and PUB is one up: no other byte of memory is changed (R169, R173). -/
def Obligations.Entries : Prop :=
  (∀ (i : Instr) (o : Op) (s : State) (gk : Nat) (g : Gang) (m : Nat) (h : Hints) (engine : Nat) (nw : Bool) (d n : Nat) (c : Crew) (x : BitVec 256) (r : State × Recs) (u : State),
      Ready i o s gk g m h →
      (i = .xqCp nw d (.k n) ∧ engine = 0 ∨ i = .xqGx nw d (.k n) ∧ engine = 1 ∨ i = .xqNe nw d (.k n) ∧ engine = 2 ∨ i = .xqCl nw d (.k n) ∧ engine = 3) →
      s.crewOf g = some c → x = imageOf ((List.range 8).map fun j => g.readK (n + j)) → engineOf (cmdOp x) = some engine →
      r = ((o.begun s gk g m).notePub g.crew none).readRecs g.crew gk x → r.1.checkEntry g.crew x r.2 = none → r.1.ringFill c < 64 →
      (if pinsTask x r.2 then r.1.pin (o.reader g m) = .ok u else u = r.1) →
      ∃ t, exec i s = .next t ∧
        WentOn s (u.publish g.crew (g.core * 12 + g.subCore) gk x r.2) t gk g m
          (fun l => { (LaneEnd.on (g.th l)).writes nw d [word (r.1.ringPub c)] with region := true }) noK) ∧
  (∀ (s : State) (crew sub gk : Nat) (x : BitVec 256) (r : Recs) (c : Crew), s.crew? crew = some c →
      let pub := s.ringPub c
      let slot := c.winPa (32 * (pub % 64))
      (slot + 32 ≤ c.winPa 0x800 ∨ c.winPa 0x800 + 4 ≤ slot) →
      ∀ a, readByte (s.publish crew sub gk x r).mem a =
        if slot ≤ a ∧ a < slot + 32 then BitVec.ofNat 8 (x.toNat / 256 ^ (a - slot))
        else if c.winPa 0x800 ≤ a ∧ a < c.winPa 0x800 + 4 then BitVec.ofNat 8 ((pub + 1) / 256 ^ (a - c.winPa 0x800))
        else readByte s.mem a)

/-- The handle instructions on a handle bound to the gang's crew (R187 to R189): WAITH goes on where its condition holds and else waits, HSET sets the state, HQRY delivers the state word or the counter. HBIND binds a free handle to the crew with its counter and state cleared, tells whether the crew holds it, and frees it again (R187); that it answers 0 for a handle that nobody holds is the model's choice (log entry 120). -/
def Obligations.Handles : Prop :=
  (∀ (o : Op) (s : State) (gk : Nat) (g : Gang) (m : Nat) (h : Hints) (a b : Src) (c : Crew) (n : Nat) (x : Word) (k : Handle),
      s.crewOf g = some c → o.opnd s g m h .u ((lanesOf m).headD 0) a = word n → o.opnd s g m h .u ((lanesOf m).headD 0) b = x → n < 64 →
      s.handle c.homeCore n = k → k.owner = some g.crew →
      (Ready (.waith a b) o s gk g m h → (x.getLsbD 31 = true ∨ x.toNat < 32) →
        let holds := if x.getLsbD 31 then x.toNat % 2147483648 ≤ k.counter.toNat else x = 0 ∨ x.getLsbD k.st.code = true
        (holds → ∃ t, exec (.waith a b) s = .next t ∧ WentOn s s t gk g m (fun l => LaneEnd.on (g.th l)) noK) ∧
        (¬ holds → ∃ t, exec (.waith a b) s = .next t ∧ Waits t gk g m (fun _ => .handle n) ∧ MemKept s t)) ∧
      (Ready (.hset a b) o s gk g m h → (x.toNat % 8 = 0 ∨ x.toNat % 8 = 2) → x.toNat < 16 → k.dpend = 0 → k.spend = 0 → s.handleFrozen g.crew n = false →
        ∃ t, exec (.hset a b) s = .next t ∧ WentOn s (s.mapHandle c.homeCore n fun y =>
          { y with st := if x.toNat % 8 = 0 then .free else .full, base := if x.toNat % 8 = 0 then .free else .full, sub := 0
                   counter := if x.getLsbD 3 then 0 else y.counter }) t gk g m (fun l => LaneEnd.on (g.th l)) noK) ∧
      (∀ nw d, Ready (.hqry nw d a b) o s gk g m h → (x = 0 ∨ x = 1) →
        ∃ t, exec (.hqry nw d a b) s = .next t ∧ Went s t gk g m (fun l => (LaneEnd.on (g.th l)).writes nw d
          [if x = 0 then word (k.st.code + k.sub % 256 * 256 + k.counter.toNat % 65536 * 65536) else k.counter]) noK)) ∧
  (∀ (o : Op) (s : State) (gk : Nat) (g : Gang) (m : Nat) (h : Hints) (a b : Src) (c : Crew) (n : Nat) (nw : Bool) (d : Nat) (x : Word),
      Ready (.hbind nw d a b) o s gk g m h → s.crewOf g = some c → o.opnd s g m h .u ((lanesOf m).headD 0) a = word n →
      o.opnd s g m h .u ((lanesOf m).headD 0) b = x → n < 64 →
      (x = 1 → (s.handle c.homeCore n).owner = none → ∃ t, exec (.hbind nw d a b) s = .next t ∧
        WentOn s (s.mapHandle c.homeCore n fun _ => { Handle.reset with owner := some g.crew }) t gk g m (fun l => (LaneEnd.on (g.th l)).writes nw d [1]) noK) ∧
      (∀ w, x = 1 → (s.handle c.homeCore n).owner = some w → ∃ t, exec (.hbind nw d a b) s = .next t ∧
        Went s t gk g m (fun l => (LaneEnd.on (g.th l)).writes nw d [if w = g.crew then 1 else 0]) noK) ∧
      (x = 0 → (s.handle c.homeCore n).owner = some g.crew → (s.handle c.homeCore n).st ≠ .filling → (s.handle c.homeCore n).st ≠ .draining →
        s.handleFrozen g.crew n = false → ∃ t, exec (.hbind nw d a b) s = .next t ∧
        WentOn s (s.mapHandle c.homeCore n fun _ => Handle.reset) t gk g m (fun l => (LaneEnd.on (g.th l)).writes nw d [1]) noK) ∧
      (x = 0 → (s.handle c.homeCore n).owner ≠ some g.crew → ∃ t, exec (.hbind nw d a b) s = .next t ∧
        Went s t gk g m (fun l => (LaneEnd.on (g.th l)).writes nw d [0]) noK))

/-- TLR.SET gives its gang a valid record that has passed the static checks, TLR.INV makes one record or all of them invalid, at once for every gang of the crew (the model's choice, log entry 126), and TLR.RD reads a word of a record as its gang sees it (R190 to R192). MMA and MMAS take the queued place of their sub-core's array when their records, blocks and metadata pass the checks of R194 and R195; they begin a region and write no register yet. -/
def Obligations.TilesAndMatrix : Prop :=
  (∀ (o : Op) (s : State) (gk : Nat) (g : Gang) (m : Nat) (h : Hints) (a b : Src) (c : Crew) (n : Nat),
      s.crew? g.crew = some c → o.opnd s g m h .u ((lanesOf m).headD 0) a = word n →
      (∀ k r, n < 64 → Ready (.tlrSet a (.k k)) o s gk g m h → r = imageOf ((List.range 8).map fun j => g.readK (k + j)) → tileBad r = none →
        ∃ t, exec (.tlrSet a (.k k)) s = .next t ∧ WentOn s ((o.begun s gk g m).setTile g.crew gk n r) t gk g m (fun l => LaneEnd.on (g.th l)) noK ∧
          ((c.tiles.find? n).isSome = true → RestKept s t) ∧
          ∃ g', t.gang? gk = some g' ∧ ∀ j, g'.tiles.find? j = if j = n then some ⟨r, true, true⟩ else g.tiles.find? j) ∧
      (n < 64 → Ready (.tlrInv a) o s gk g m h →
        ∃ t, exec (.tlrInv a) s = .next t ∧ WentOn s (s.dropTiles g.crew (some n)) t gk g m (fun l => LaneEnd.on (g.th l)) noK ∧
          (∃ c', t.crew? g.crew = some c' ∧ ∀ j, c'.tiles.find? j = if j = n then none else c.tiles.find? j) ∧
          ∀ p ∈ t.gangs, p.2.crew = g.crew → p.2.hslot = none → p.2.tiles.find? n = none) ∧
      (n = 4294967295 → Ready (.tlrInv a) o s gk g m h →
        ∃ t, exec (.tlrInv a) s = .next t ∧ WentOn s (s.dropTiles g.crew none) t gk g m (fun l => LaneEnd.on (g.th l)) noK ∧ (∃ c', t.crew? g.crew = some c' ∧ c'.tiles = []) ∧
          ∀ p ∈ t.gangs, p.2.crew = g.crew → p.2.hslot = none → p.2.tiles = []) ∧
      (∀ nw d w, n < 64 → w < 8 → Ready (.tlrRd nw d a b) o s gk g m h → o.opnd s g m h .u ((lanesOf m).headD 0) b = word w →
        ∃ t, exec (.tlrRd nw d a b) s = .next t ∧ WentOn s ((o.begun s gk g m).useTile g.crew gk n).1 t gk g m (fun l => (LaneEnd.on (g.th l)).writes nw d
          [let r := (o.begun s gk g m).tileSeen c g.crew gk n
           if w = 7 then (if r.valid then 1 else 0) else if r.valid then word (r.img.toNat / 2 ^ (32 * w) % 4294967296) else 0]) noK)) ∧
  (∀ (o : Op) (s : State) (gk : Nat) (g : Gang) (m : Nat) (h : Hints) (a b : Src) (c : Crew) (u : State) (p : ArrayOp),
      s.crewOf g = some c →
      let l := (lanesOf m).headD 0
      (∀ d, Ready (.mma d a b) o s gk g m h →
        (o.begun s gk g m).checkMma c (o.given s gk g m h) d (o.opnd s g m h .u l a) (o.opnd s g m h .u l b) = (u, .ok p) →
        ∃ t, exec (.mma d a b) s = .next t ∧ WentOn s (u.queueOp g.core g.subCore p) t gk g m (fun l => { LaneEnd.on (g.th l) with region := true }) noK ∧
          (t.arrayAt g.core g.subCore).queued = some p ∧ p.gkey = gk ∧ p.d = d ∧ p.stored = false) ∧
      (Ready (.mmas a b) o s gk g m h →
        (o.begun s gk g m).checkMmas c (o.given s gk g m h) (o.opnd s g m h .u l a) (o.opnd s g m h .u l b) (o.opnd s g m h .u l h.src3) = (u, .ok p) →
        ∃ t, exec (.mmas a b) s = .next t ∧ WentOn s (u.queueOp g.core g.subCore p) t gk g m (fun l => { LaneEnd.on (g.th l) with region := true }) noK ∧
          (t.arrayAt g.core g.subCore).queued = some p ∧ p.gkey = gk))

/-! ## Threads, launches, services, frozen objects, interrupts, translation -/

/-- EXIT ends its lanes; TASKEND ends every thread of the crew but the frozen ones (R126, R127). While no lane of the crew waits, whose operation TASKEND would withdraw, memory is as it was. -/
def Obligations.ThreadsEnd : Prop :=
  ∀ (i : Instr) (o : Op) (s : State) (gk : Nat) (g : Gang) (m : Nat) (h : Hints), Ready i o s gk g m h →
    (i = .exit ∨ (i = .taskend ∧ ∀ p ∈ s.gangs, p.2.crew = g.crew → ∀ x ∈ p.2.threads, x.run ≠ .blocked) →
      ∃ t, exec i s = .next t ∧ t.cur = none ∧ MemKept s t ∧ (g.hslot = none → RestKept s t) ∧
        ∃ g', t.gang? gk = some g' ∧ g'.v = g.v ∧ g'.k = g.k ∧ (∀ l ∈ lanesOf m, (g'.th l).run = .exited)) ∧
    (i = .exit → ∃ t, exec i s = .next t ∧ OthersKept s t gk ∧
      ∃ g', t.gang? gk = some g' ∧ ∀ l, l < 32 → l ∉ lanesOf m → ThreadKept (g.th l) (g'.th l)) ∧
    (i = .taskend → g.hslot = none → ∃ t, exec i s = .next t ∧
      ∀ k x, s.gang? k = some x → x.crew = g.crew → x.hslot = none → x.threads.length = 32 →
        ∃ y, t.gang? k = some y ∧ y.v = x.v ∧ y.k = x.k ∧ ∀ l, l < 32 → (y.th l).run = if (x.th l).run = .frozen then .frozen else .exited)

/-- CFETCH asks for each segment that its lanes name and goes on (R133, R134); the requests of lanes that name one segment merge, with a refresh where one of them asks for it (the model's choice, log entry 135). A request of an ABSENT, REFUSED or FAULTED segment takes a free slot, else the least recently fetched one that is not held, and the segment is FETCHING at the level of the gang; with every slot held it is REFUSED. A FETCHING or RESIDENT segment is copied again with REFRESH alone. -/
def Obligations.CodeFetch : Prop :=
  (∀ (a b : Src) (o : Op) (s : State) (gk : Nat) (g : Gang) (m : Nat) (h : Hints), Ready (.cfetch a b) o s gk g m h →
    ∃ t, exec (.cfetch a b) s = .next t ∧
      WentOn s ((fetched (fun l => (o.opnd s g m h .u l a).toNat % 131072) (fun l => (o.opnd s g m h .u l b).toNat % 2 == 1) (lanesOf m)).foldl
          (fun (x : State) p => (x.noteFetch g p.1).requestSeg g.core g.ctx p.1 g.level p.2) (o.begun s gk g m)) t gk g m
        (fun l => LaneEnd.on (g.th l)) noK) ∧
  (∀ (s : State) (core ctx seg level : Nat) (refresh : Bool) (x : Seg), s.seg? core ctx seg = some x →
    (x.st = .fetching ∨ x.st = .resident → refresh = false → s.requestSeg core ctx seg level refresh = s) ∧
    (x.st = .fetching ∨ x.st = .resident → refresh = true → (s.requestSeg core ctx seg level refresh).seg? core ctx seg =
      some { x with shadow := decide (x.st = .resident), level := level, order := (s.core core).fetches })) ∧
  (∀ (s : State) (core ctx seg level : Nat) (refresh : Bool), (∀ x, s.seg? core ctx seg = some x → x.st = .refused ∨ x.st = .faulted) →
    let others := (s.core core).segs.filter fun x => decide (x.st ≠ .refused) && !(x.ctx == ctx && x.seg == seg)
    let t := s.requestSeg core ctx seg level refresh
    (others.length < 32 ∨ (∃ x ∈ others, s.segHeld core x = false) →
      t.seg? core ctx seg = some ⟨ctx, seg, .fetching, level, [], (s.core core).fetches, false, 0, 0, 0⟩) ∧
    (32 ≤ others.length → (∃ x ∈ others, s.segHeld core x = false) → ∃ v ∈ others, s.segHeld core v = false ∧
      (∀ x ∈ others, s.segHeld core x = false → v.order ≤ x.order) ∧ t.seg? core v.ctx v.seg = none) ∧
    (32 ≤ others.length → (∀ x ∈ others, s.segHeld core x = true) → ∃ y, t.seg? core ctx seg = some y ∧ y.st = .refused))

/-- LAUNCH (R220, R286 to R290), lane after lane: a record that fails a check leaves no launch and delivers its reason with bit 31 set; one that passes takes the context's next serial, which is the result. The barriers of groups apart, the launches are then those of the last lane's state. The subcodes of the reasons are the model's reading where R220 leaves them open (log entry 63). -/
def Obligations.LaunchResults : Prop :=
  ∀ (nw : Bool) (d : Nat) (a b : Src) (o : Op) (s s1 u : State) (gk : Nat) (g : Gang) (m : Nat) (h : Hints) (r : Nat → Word),
    Ready (.launch nw d a b) o s gk g m h → (o.begun s gk g m).pin (o.reader g m) = .ok s1 → lostLanesOf s1 (o.given s gk g m h) = [] →
    Chain (LaunchLink (o.given s gk g m h) g h (fun l => o.opnd2 s g m h l a) (fun l => (o.opnd s g m h .u l b).toNat) r) s1 (lanesOf m) u →
    ∃ t, exec (.launch nw d a b) s = .next t ∧ t.launches.map withoutGbar = u.launches.map withoutGbar ∧
      WentOn s u t gk g m (fun l => { (LaneEnd.on (g.th l)).writes nw d [r l] with region := true }) noK

/-- SVC of one batch: its lanes exit once their request stands in the die's service queue with a record written for them; without a free record they wait (R205 to R207). SPAWN of PENDING records, lane after lane, makes their continuation tasks, delivers the low words of their serials and frees the records (R208). Which FREE record is taken, and the order of the checks of SPAWN, are the model's reading (log entry 58). -/
def Obligations.Services : Prop :=
  (∀ (d : Nat) (a b : Src) (o : Op) (s : State) (gk : Nat) (g : Gang) (m : Nat) (h : Hints) (c : Crew) (x : Word),
      Ready (.svc d a b) o s gk g m h → s.crewOf g = some c → s.unpinnedOf g = false → g.hslot = none → (∀ l ∈ lanesOf m, o.opnd s g m h .u l a = x) →
      (∀ r u, (o.begun s gk g m).freeRecord g.ctx = some r → (o.begun s gk g m).recordRace gk g.ctx r = none →
        ((o.begun s gk g m).writeRecord (o.given s gk g m h) c r d (lanesOf m)).pushService (dieOf g.core) g.ctx g.crew? (serviceRequest g.ctx r x.toNat (maskOf (lanesOf m))) = some u →
        ∃ t, exec (.svc d a b) s = .next t ∧ t.mem = u.mem ∧ t.cur = none ∧
          ∃ g', t.gang? gk = some g' ∧ g'.v = g.v ∧ g'.k = g.k ∧ ∀ l ∈ lanesOf m, (g'.th l).run = .exited) ∧
      ((o.begun s gk g m).freeRecord g.ctx = none →
        ∃ t, exec (.svc d a b) s = .next t ∧ Waits t gk g m (fun _ => .service ((lanesOf m).headD 0)) ∧ MemKept s t)) ∧
  (∀ (nw : Bool) (d : Nat) (a : Src) (o : Op) (s u : State) (gk : Nat) (g : Gang) (m : Nat) (h : Hints) (r : Nat → Word),
      Ready (.spawn nw d a) o s gk g m h →
      Chain (SpawnLink (o.given s gk g m h) (o.reader g m) (fun l => o.opnd2 s g m h l a) r) (o.begun s gk g m) (lanesOf m) u →
      ∃ t, exec (.spawn nw d a) s = .next t ∧ t.launches.map withoutGbar = u.launches.map withoutGbar ∧
        WentOn s u t gk g m (fun l => { (LaneEnd.on (g.th l)).writes nw d [r l] with region := true }) noK)

/-- FRD reads and FWR writes locations of the frozen objects that valid capabilities name, lane after lane; the objects are not lanes of the gang itself (R209 to R212). FRES resumes and FKILL kills lanes of the frozen objects that valid capabilities name, lane after lane, and delivers the capability of what stays frozen (R213, R214). What that does to a gang with a frozen set: FRD reads a v or k register or a lane state, FWR writes that one location; of the lanes named, a resumed one is in RUN with invalid latches, no pending loads and a new region, at its region entry, at its PC or after it, and a killed one has exited; the others are as they were. A command gives and takes the words of its entry, and is active again or gone (R184, R213, R214). -/
def Obligations.FrozenObjects : Prop :=
  (∀ (d : Nat) (a b : Src) (o : Op) (s u : State) (gk : Nat) (g : Gang) (m : Nat) (h : Hints) (x : Nat → Word),
      (∃ g2, u.gang? gk = some g2 ∧ SameRegs (o.reader g m) g2) →
      (Ready (.frd d a b) o s gk g m h →
        Chain (FrdLink (o.reader g m) (fun l => o.opnd2 s g m h l a) (fun l => o.opnd s g m h .u l b) x) (o.begun s gk g m) (lanesOf m) u →
        ∃ t, exec (.frd d a b) s = .next t ∧ RestKept u t ∧ OthersKept u t gk ∧ Passed t gk g m (fun l => (LaneEnd.on (g.th l)).writes false d [x l]) noK) ∧
      (Ready (.fwr d a b) o s gk g m h →
        Chain (FwrLink (o.reader g m) (fun l => o.opnd2 s g m h l a) (fun l => o.opnd s g m h .u l b) (fun l => g.readV l d)) (o.begun s gk g m) (lanesOf m) u →
        ∃ t, exec (.fwr d a b) s = .next t ∧ RestKept u t ∧ OthersKept u t gk ∧ Passed t gk g m (fun l => LaneEnd.on (g.th l)) noK)) ∧
  (∀ (nw : Bool) (d : Nat) (a b : Src) (o : Op) (s u : State) (gk : Nat) (g : Gang) (m : Nat) (h : Hints) (y : Nat → DWord),
      (∃ g2, u.gang? gk = some g2 ∧ SameRegs (o.reader g m) g2) →
      (Ready (.fres nw d a b) o s gk g m h →
        Chain (FresLink (o.reader g m) (fun l => o.opnd2 s g m h l a) (fun l => (o.opnd s g m h .u l b).toNat)
          (fun l => if extSrc3 h.x = 0 then 0 else (o.opnd s g m h .u l h.src3).toNat) y) (o.begun s gk g m) (lanesOf m) u →
        ∃ t, exec (.fres nw d a b) s = .next t ∧ RestKept u t ∧ OthersKept u t gk ∧
          Passed t gk g m (fun l => { (LaneEnd.on (g.th l)).writes nw d [loOf (y l), hiOf (y l)] with region := true }) noK) ∧
      (Ready (.fkill nw d a b) o s gk g m h →
        Chain (FkillLink (o.reader g m) (fun l => o.opnd2 s g m h l a) (fun l => (o.opnd s g m h .u l b).toNat) y) (o.begun s gk g m) (lanesOf m) u →
        ∃ t, exec (.fkill nw d a b) s = .next t ∧ RestKept u t ∧ OthersKept u t gk ∧
          Passed t gk g m (fun l => { (LaneEnd.on (g.th l)).writes nw d [loOf (y l), hiOf (y l)] with region := true }) noK)) ∧
  (∀ (s : State) (ctx i : Nat) (f : FSet) (g : Gang) (cap : DWord) (x : Word), (s.ctx ctx).sets.find? i = some f → s.gang? f.gkey = some g →
      g.resid ≠ .switched → g.threads.length = 32 → capKind cap = false → selBad cap x = false → (∀ n, selLine x = some n → g.holdsLine n = true) →
      let lane := selLane x
      let n := selIndex x
      s.readFrozen (.set ctx i) x = (s, if selSpace x = 0 then g.readV lane n else if selSpace x = 1 then g.readK n
        else [(g.th lane).pc, (g.th lane).mt, (g.th lane).rep, (g.th lane).rcnt, (g.th lane).fps, (g.th lane).stateWord, (g.th lane).clockhi].getD n 0) ∧
      (selFixed x = false → ∀ value : Word,
        (selSpace x ≠ 1 → f.lanes.testBit lane = false → s.writeFrozen (.set ctx i) x value = .error ⟨cIllegalOperand, 0x0D, 0⟩) ∧
        (selSpace x ≠ 1 → f.lanes.testBit lane = true → selSpace x = 2 → (n = 0 ∨ n = 2 ∨ (n = 1 ∧ value ≠ 0xFFFFFFFF)) → value.toNat % 4 ≠ 0 →
          s.writeFrozen (.set ctx i) x value = .error ⟨cAlign, 2, dword value.toNat⟩) ∧
        ((selSpace x = 1 ∨ f.lanes.testBit lane = true) → (selSpace x = 2 → 3 ≤ n ∨ value.toNat % 4 = 0 ∨ (n = 1 ∧ value = 0xFFFFFFFF)) →
          ∃ t g', s.writeFrozen (.set ctx i) x value = .ok t ∧ MemKept s t ∧ OthersKept s t f.gkey ∧ t.gang? f.gkey = some g' ∧
            (∀ l k, l < 32 → k < 128 → g'.readV l k = if selSpace x = 0 ∧ l = lane ∧ k = n then value else g.readV l k) ∧
            (∀ k, g'.readK k = if selSpace x = 1 ∧ k = n then value else g.readK k) ∧
            ∀ l j, l < 32 → j < 7 → (g'.th l).laneWord j = if selSpace x = 2 ∧ l = lane ∧ j = n then (if n = 4 then fpsWritten value else value) else (g.th l).laneWord j))) ∧
  (∀ (s : State) (ctx i mask mode : Nat) (f : FSet) (g : Gang), (s.ctx ctx).sets.find? i = some f → s.gang? f.gkey = some g → g.resid ≠ .switched → g.threads.length = 32 →
      (let r := s.resumeFrozen (.set ctx i) mask mode
       LanesBecome r.1 f.gkey g (f.lanes &&& mask) (fun t => t.resume mode) ∧ SetLeft s r.1 ctx i f mask r.2) ∧
      let r := s.killFrozen (.set ctx i) mask
      LanesBecome r.1 f.gkey g (f.lanes &&& mask) Thread.toExited ∧ SetLeft s r.1 ctx i f mask r.2) ∧
  (∀ (s : State) (crew sq : Nat) (c : Crew) (m : Cmd), s.crew? crew = some c → s.cmd? crew sq = some m →
      (∀ x : Word, selIndex x < 8 → s.readFrozen (.cmd crew sq) x = (s, word (m.img.toNat / 2 ^ (32 * selIndex x) % 4294967296)) ∧
        ∀ value, ∃ t m', s.writeFrozen (.cmd crew sq) x value = .ok t ∧ t = { s with cmds := t.cmds } ∧ t.cmd? crew sq = some m' ∧
          m' = { m with img := m'.img, changed := m'.changed } ∧ (m'.changed = true ↔ m.changed = true ∨ m'.img ≠ m.img) ∧
          ∀ j, j < 8 → m'.img.toNat / 2 ^ (32 * j) % 4294967296 = if j = selIndex x then value.toNat else m.img.toNat / 2 ^ (32 * j) % 4294967296) ∧
      (m.st = .frozen → c.phase ≠ .killed → let r := s.resumeFrozen (.cmd crew sq) 0 0
        r.2 = 0 ∧ ∃ k, r.1.cmd? crew sq = some k ∧ k.img = m.img ∧
          (m.changed = false → k.st = .active ∧ k.done = m.done) ∧ (m.changed = true → k.done = [] ∧ k.named = m.img ∧ (k.st = .active ∨ k.st = .frozen))) ∧
      (s.stagingOf crew sq = false → let r := s.killFrozen (.cmd crew sq) 0
        r.2 = 0 ∧ r.1.cmd? crew sq = none ∧ ∀ n, n < 64 → (cmdDh m.named = n ∨ cmdSh m.named = n) → (s.handle c.homeCore n).owner = some crew →
          (r.1.handle c.homeCore n).st = .fault ∧ (r.1.handle c.homeCore n).sub = 0xFF) ∧
      (s.stagingOf crew sq = true → ∃ c', (s.killFrozen (.cmd crew sq) 0).1.crew? crew = some c' ∧ c'.phase = .killed)) ∧
  (∀ (t : Thread) (mode : Nat),
      ((t.resume mode).run = .run ∧ (t.resume mode).rcnt = 0 ∧ (t.resume mode).hints = Hints.none_ ∧ (t.resume mode).lat = List.replicate 8 .invalid ∧
        (t.resume mode).lpv = 0 ∧ (t.resume mode).lpk = 0 ∧ (t.resume mode).fps = t.fps ∧ (t.resume mode).mt = t.mt) ∧
      (mode = 0 → (t.resume mode).pc = t.rep ∧ (t.resume mode).rep = t.rep) ∧ (mode = 1 → (t.resume mode).pc = t.pc ∧ (t.resume mode).rep = t.pc) ∧
      (mode = 2 → (t.resume mode).pc = t.pc + 4 ∧ (t.resume mode).rep = t.pc + 4) ∧
      (t.toExited.run = .exited ∧ t.toExited.pc = t.pc))

/-- ULI.SEND of a pinned task sends for each lane, and ULI.MASK reads and writes half a mask for each lane (R215, R216, R218). ULI.BIND binds and frees an endpoint for the gang, and ULI.WAIT delivers the pending vector of R333 or waits (R217, R219). The vector that a wait delivers is pending, not masked, and the first to have become pending of those (R333). -/
def Obligations.Interrupts : Prop :=
  (∀ (nw : Bool) (d : Nat) (a b : Src) (o : Op) (s u : State) (gk : Nat) (g : Gang) (m : Nat) (h : Hints) (r : Nat → Word),
      (Ready (.uliSend a b) o s gk g m h → s.unpinnedOf g = false →
        (∀ l ∈ lanesOf m, epValid (o.opnd2 s g m h l a) = true ∧ (storeLost (o.begun s gk g m) (o.given s gk g m h) l = false ∨ s.isSelf (epPkg (o.opnd2 s g m h l a)) = true)) →
        ∃ t, exec (.uliSend a b) s = .next t ∧
          WentOn s ((lanesOf m).foldl (fun s' l => s'.sendUli gk g.ctx (o.opnd2 s g m h l a) (o.opnd s g m h .u l b)) (o.begun s gk g m)) t gk g m
            (fun l => { LaneEnd.on (g.th l) with region := true }) noK) ∧
      (Ready (.uliMask nw d a b) o s gk g m h →
        Chain (MaskLink g (fun l => (o.opnd s g m h .u l a).toNat) (fun l => o.opnd s g m h .u l b) r) (o.begun s gk g m) (lanesOf m) u →
        ∃ t, exec (.uliMask nw d a b) s = .next t ∧ WentOn s u t gk g m (fun l => (LaneEnd.on (g.th l)).writes nw d [r l]) noK)) ∧
  (∀ (nw : Bool) (d : Nat) (a b : Src) (o : Op) (s : State) (gk : Nat) (g : Gang) (m : Nat) (h : Hints),
      let x := (o.opnd s g m h .u ((lanesOf m).headD 0) a).toNat
      let y := o.opnd s g m h .u ((lanesOf m).headD 0) b
      (Ready (.uliBind nw d a) o s gk g m h → x < 512 → x / 4 % 64 = 0 →
        let ep := (o.begun s gk g m).endpoint g.ctx (x % 4)
        let ok := ep.bound = some g.bindNum ∨ (x.testBit 8 = true ∧ ep.bound = none)
        (ok → ∃ t, exec (.uliBind nw d a) s = .next t ∧
          WentOn s ((o.begun s gk g m).setEndpoint g.ctx (x % 4) { ep with bound := if x.testBit 8 then some g.bindNum else none }) t gk g m
            (fun l => (LaneEnd.on (g.th l)).writes nw d [1]) noK) ∧
        (¬ ok → ∃ t, exec (.uliBind nw d a) s = .next t ∧ Went s t gk g m (fun l => (LaneEnd.on (g.th l)).writes nw d [0]) noK)) ∧
      (Ready (.uliWait d a b) o s gk g m h → x < 4 →
        let ep := (o.begun s gk g m).endpoint g.ctx x
        ep.bound = some g.bindNum →
        (∀ v, ep.deliverable = some v → ∃ t, exec (.uliWait d a b) s = .next t ∧
          WentOn s ((o.begun s gk g m).setEndpoint g.ctx x { ep with pending := ep.pending.filter fun w => w.num != v.num }) t gk g m
            (fun l => (LaneEnd.on (g.th l)).writes false d [word (v.num * 67108864 + v.payload), word v.count, loOf v.first, hiOf v.first]) noK) ∧
        (ep.deliverable = none → ∃ t, exec (.uliWait d a b) s = .next t ∧
          Waits t gk g m (fun _ => .interrupt x (if y = 0 then 0 else s.clock + y.toNat * 1024)) ∧ MemKept s t))) ∧
  (∀ (ep : Endpoint) (v : Vector_), ep.deliverable = some v →
      v ∈ ep.pending ∧ ep.mask.toNat.testBit v.num = false ∧ ∀ w ∈ ep.pending, ep.mask.toNat.testBit w.num = false → v.ord ≤ w.ord)

/-- INVL and INVLA sweep the translations of the ranges that their lanes name, once nothing that may use them is under way; PGQRY delivers what a walk finds, or goes on with its result due while the page is in transit (R223 to R225). After a sweep no TLB entry of a swept die that the invalidation covers is left, and every other entry is (R223, R224). -/
def Obligations.TranslationControl : Prop :=
  (∀ (i : Instr) (o : Op) (s : State) (gk : Nat) (g : Gang) (m : Nat) (h : Hints) (a b : Src) (w : Nat → Sweep), Ready i o s gk g m h →
      (i = .invl a b →
        (∀ l ∈ lanesOf m, let n := (o.opnd s g m h .u l b).toNat; let va := o.opnd2 s g m h l a
          let ctx := if extSrc3 h.x = 0 then g.ctx else (o.opnd s g m h .u l h.src3).toNat
          1 ≤ n ∧ n ≤ 1048576 ∧ va.toNat < 36028797018963968 ∧ s.sameTenancy g ctx = true ∧ w l = ⟨some ctx, va.toNat / 524288, n, true⟩) →
        ∃ t, exec i s = .next t ∧
          WentOn s ((o.begun s gk g m).sweep (o.reader g m) (s.sweepDies (o.reader g m) (if h.ext.isSome then extScope h.x else 4)) ((lanesOf m).map w)) t gk g m (fun l => LaneEnd.on (g.th l)) noK) ∧
      (i = .invla a →
        (∀ l ∈ lanesOf m, let x := o.opnd s g m h .u l a
          (x = 4294967295 ∧ w l = ⟨none, 0, 68719476736, true⟩) ∨ (x ≠ 4294967295 ∧ s.sameTenancy g x.toNat = true ∧ w l = ⟨some x.toNat, 0, 68719476736, false⟩)) →
        ∃ t, exec i s = .next t ∧
          WentOn s ((o.begun s gk g m).sweep (o.reader g m) (s.sweepDies (o.reader g m) (if h.ext.isSome then extScope h.x else 4)) ((lanesOf m).map w)) t gk g m (fun l => LaneEnd.on (g.th l)) noK) ∧
      (∀ d, i = .pgqry d a → (∀ l ∈ lanesOf m, s.inTransit g.ctx (o.opnd2 s g m h l a) = true) →
        ∃ t g', exec i s = .next t ∧ t.gang? gk = some g' ∧ (∀ l ∈ lanesOf m, (g'.th l).pc = (g.th l).pc + 4 ∧ (l, d, (o.opnd2 s g m h l a).toNat, false) ∈ g'.queries ∧ (l, d + 1, (o.opnd2 s g m h l a).toNat, true) ∈ g'.queries) ∧ RestKept s t) ∧
      (∀ d, i = .pgqry d a → (∀ l ∈ lanesOf m, s.inTransit g.ctx (o.opnd2 s g m h l a) = false) →
        ∃ t, exec i s = .next t ∧ Went s t gk g m (fun l => (LaneEnd.on (g.th l)).writes false d
          (let va := o.opnd2 s g m h l a
           let y : DWord := if 36028797018963968 ≤ va.toNat then dword (cXlatePerm * 256 + 0x10 * 65536)
             else match s.walk g.ctx va.toNat with
               | .leaf _ _ _ x => if g.level = 2 then x else dword (x.toNat % 268435456)
               | .remote _ _ x => noLeaf ((Config.remoteQuery x).toNat % 256) ((Config.remoteQuery x).toNat / 256) 2
               | .denied n => noLeaf cXlatePerm n 0
               | .busy => 0
               | .absent n => noLeaf cXlateNr (n + 1) n
               | .bad n k => noLeaf cXlateTable k n
           [loOf y, hiOf y])) noK)) ∧
  (∀ (s : State) (g : Gang) (dies : List Nat) (ws : List Sweep) (core : Nat) (e : TlbEntry),
      e ∈ ((s.sweep g dies ws).core core).tlb ↔ e ∈ (s.core core).tlb ∧
        ¬ (dieOf core ∈ dies ∧ ∃ w ∈ ws, w.covers (s.sameTenancy g) e.ctx e.page e.span e.leaf = true))

/-! ## Device steps: waits, code, errors, faults -/

/-- A waiting lane that a step of the device lets look again completes its instruction with its results, takes its fault, or waits on where it stands: at a condition, a granule, a queue, a timeout (R16, R152, R165, R219). A handle that has reached its awaited state lets WAITH complete (R189, R16); a lane that waits for the segment of its own PC runs once it is RESIDENT and freezes with CODE_SEG 0x04 once its fetch has FAULTED (R409). The response of a module (R348, R349, R352): DONE has made the step at the module, and its lane goes on with it; WAIT keeps the lane waiting, but for a QTRYPOP that finds no item; RANGE freezes it. A command answered WAIT is repeated after its retry or the notice of its line (R248, R348, R352). -/
def Obligations.WaitsEnd : Prop :=
  (∀ (s : State) (gk l : Nat) (g : Gang) (p : Pend), LoneWait s gk g l p →
      (∀ mask, mask.testBit l = true → p.asksModule = false → p.why ≠ .access → (∀ seg, p.why ≠ .ownSegment seg) → LooksAgain (.blockedWake gk mask) s gk g l p) ∧
      (p.atGranule = true → LooksAgain (.fullEmptyWaitSatisfied gk l) s gk g l p) ∧
      (p.atQueue = true → s.commits = [] → LooksAgain (.queueReexamine gk l) s gk g l p) ∧
      (p.expired s.clock = true → LooksAgain (.uliWaitTimeout gk) s gk g l p)) ∧
  (∀ (s : State) (tag gk l : Nat) (g : Gang) (p : Pend) (c : ModCmd), s.gang? gk = some g → g.threads.length = 32 → l < 32 →
      s.modCmds.find? (fun c => c.tag == tag) = some c → s.askerPend c = some (gk, l, p) →
      (s.modStatus c = 0 → Yields (.moduleResponse tag 0) s fun t => (∀ x ∈ t.modCmds, x.tag ≠ tag) ∧
        ((∀ d a, p.insn ≠ .qpush d a) → t.mem = (s.qopStep c).1.mem) ∧
        WaitsOn t gk g l (.moduleStep c.pa (if c.subop = qPushRes ∨ c.subop = qPopRes then 1 else 2))) ∧
      (s.modStatus c = 1 → ((∀ d a b, p.insn ≠ .qtrypop d a b) ∨ c.subop ≠ qPopRes) → Yields (.moduleResponse tag 1) s fun t => MemKept s t ∧ WaitsOn t gk g l p.why ∧
        t.modCmds = s.modCmds.map fun x => if x.tag = tag then { x with waiting := true } else x) ∧
      (s.modStatus c = 1 → (∃ d a b, p.insn = .qtrypop d a b) → c.subop = qPopRes → Yields (.moduleResponse tag 1) s fun t => MemKept s t ∧
        (∀ x ∈ t.modCmds, x.tag ≠ tag) ∧ WaitsOn t gk g l (.moduleStep c.pa 0)) ∧
      (s.modStatus c = 3 → Yields (.moduleResponse tag 3) s fun t => (∀ x ∈ t.modCmds, x.tag ≠ tag) ∧
        ∃ g', t.gang? gk = some g' ∧ (g'.th l).run = .frozen ∧ (g'.th l).pc = (g.th l).pc)) ∧
  ((∀ (s : State) (gk mask l n : Nat) (g : Gang) (p : Pend) (c : Crew) (a b : Src) (x : Word), LoneWait s gk g l p → mask.testBit l = true →
      p.insn = .waith a b → p.why = .handle n → p.vals = [word n, x] → n < 64 → s.crewOf g = some c → (s.handle c.homeCore n).owner = some g.crew →
      (x.getLsbD 31 = true ∨ x.toNat < 32) →
      let k := s.handle c.homeCore n
      Yields (.blockedWake gk mask) s fun t => ∃ g', t.gang? gk = some g' ∧
        if (if x.getLsbD 31 then x.toNat % 2147483648 ≤ k.counter.toNat else x = 0 ∨ x.getLsbD k.st.code = true) then
          (g'.th l).run = .run ∧ (g'.th l).pc = (g.th l).pc + 4
        else (g'.th l).run = .blocked ∧ (g'.th l).pc = (g.th l).pc) ∧
    (∀ (s : State) (gk mask l seg : Nat) (g : Gang) (p : Pend) (x : Seg), LoneWait s gk g l p → mask.testBit l = true → p.why = .ownSegment seg →
      s.seg? g.core g.ctx seg = some x →
      (x.st = .resident → Yields (.blockedWake gk mask) s fun t => ∃ g', t.gang? gk = some g' ∧ (g'.th l).run = .run ∧ (g'.th l).pc = (g.th l).pc) ∧
      (x.st = .faulted → Yields (.blockedWake gk mask) s fun t => ∃ g', t.gang? gk = some g' ∧ (g'.th l).run = .frozen ∧ (g'.th l).pc = (g.th l).pc)) ∧
    (∀ (s : State) (tag : Nat), Yields (.moduleWaitRetry tag) s fun t => MemKept s t ∧
      t.modCmds = s.modCmds.map fun c => if c.tag = tag then { c with waiting := false } else c) ∧
    (∀ (s : State) (module maddr : Nat), s.commits = [] → Yields (.moduleNotice module ⟨maddr, none⟩) s fun t => MemKept s t ∧
      t.modCmds = s.modCmds.map fun c => if c.module = module ∧ c.addr / 64 = maddr / 64 then { c with waiting := false } else c))

/-- The copy of a segment ends RESIDENT with the bytes of its code image, or FAULTED with the fault that it met; a path without its segment asks for it and waits where it stands; a refused request is repeated (R133, R135, R409). That every byte of a copy is as memory holds it when the copy lands is the model's choice (log entry 98: R135 lets granules be older). The clause on a repeated request is about a machine with exactly one gang. -/
def Obligations.CodeSegments : Prop :=
  (∀ (s u : State) (core ctx seg : Nat) (x : Seg), s.seg? core ctx seg = some x → (x.st = .fetching ∨ x.shadow = true) →
    (∀ pa, s.copySeg core x = (u, .bytes pa) → Yields (.segmentFetchLanded core ctx seg) s fun t => t.mem = u.mem ∧
      t.seg? core ctx seg = some { x with st := .resident, shadow := false, image := sliceOf u.mem pa Config.segBytes }) ∧
    (∀ f, s.copySeg core x = (u, .flt f) → Yields (.segmentFetchFaulted core ctx seg) s fun t => t.mem = u.mem ∧
      t.seg? core ctx seg = some { x with st := .faulted, shadow := false, image := [], cls := f.cls, sub := f.sub, va := f.va })) ∧
  (∀ (s : State) (gk : Nat) (g : Gang) (c : Choice), s.gang? gk = some g → g.threads.length = 32 → g.choose = some c → s.fetch g (c.pc g) = none →
    Yields (.pathSegmentRequest gk) s fun t => MemKept s t ∧
      t.cores = (s.requestSeg g.core g.ctx (c.pc g / 32768) g.level false).cores ∧
      ∃ g', t.gang? gk = some g' ∧ g'.v = g.v ∧ g'.k = g.k ∧ ∀ l ∈ c.lanes, l < 32 → (g'.th l).run = .blocked ∧ (g'.th l).pc = (g.th l).pc ∧
        ∃ p, (g'.th l).wait = some p ∧ p.why = .ownSegment (c.pc g / 32768)) ∧
  (∀ (s : State) (core ctx seg gk : Nat) (g : Gang) (x : Seg), s.seg? core ctx seg = some x → x.st = .refused → s.gangs = [(gk, g)] → g.core = core → g.ctx = ctx →
    (∃ th ∈ g.threads, th.waitsOwn seg = true) →
    Yields (.segmentRequestRetry core ctx seg) s fun t => t = s.requestSeg core ctx seg g.level false)

/-- A register line arrives from the image with its words; a line whose copy in the image still stands is fetched again after an error, and of one that does not the registers of the damaged part are lost; a corrected error is counted (R253, R255, R279). An uncorrectable error in memory is contained by where its line lies (R281): a clean copy is reported and nothing is lost, a line shared in a context is poisoned and the context stops, an error in a structure of the package resets it. What a lost register holds is free (log entry 18); how a structure error resets, and who receives the record of a shared line, are the model's readings (log entries 74 and 75). -/
def Obligations.ErrorsContained : Prop :=
  ((∀ (s : State) (gk n : Nat) (g : Gang), s.gang? gk = some g → g.backed.contains n = true →
      Yields (.registerLineFill gk n) s fun t => ∃ g', t.gang? gk = some g' ∧ g'.threads = g.threads ∧ g'.v = g.v ∧ g'.k = g.k ∧ g'.holdsLine n = true) ∧
    (∀ (s : State) (gk n : Nat) (g : Gang), s.gang? gk = some g → g.absent.contains n = true → g.backed.contains n = false → s.hasImage g = true → n < 131 →
      (s.cachedLines g.core g.subCore).length < Config.regCache →
      Yields (.registerLineFill gk n) s fun t => t.mem = (s.touchPage g.ctx (s.recVa g + dword (lineOff n)) 128 .read).mem ∧
        ∃ g', t.gang? gk = some g' ∧ g'.threads = g.threads ∧ g'.absent.contains n = false ∧
        (n < 128 → ∀ l, l < 32 → g'.readV l n = word (natOfBytes (((s.readImage g.ctx (s.recVa g + dword (lineOff n)) 128).drop (4 * l)).take 4))) ∧
        (128 ≤ n → ∀ i, i < 32 → g'.readK (32 * (n - 128) + i) = word (natOfBytes (((s.readImage g.ctx (s.recVa g + dword (lineOff n)) 128).drop (4 * i)).take 4)))) ∧
    (∀ (s : State) (gk n part : Nat) (g : Gang), s.gang? gk = some g → n < 131 → part < 8 → g.absent.contains n = false →
      (g.clean.contains n = true → Yields (.registerUncorrectable gk n part false) s fun t =>
        ∃ g', t.gang? gk = some g' ∧ g'.v = g.v ∧ g'.k = g.k ∧ g'.absent.contains n = true ∧ g'.damaged = g.damaged) ∧
      (g.clean.contains n = false → Yields (.registerUncorrectable gk n part false) s fun t =>
        ∃ g', t.gang? gk = some g' ∧ g'.threads = g.threads ∧ (∀ p ∈ damagedOf n part, p ∈ g'.damaged) ∧
          (∀ l k, l < 32 → k < 128 → (l, k) ∉ damagedOf n part → g'.readV l k = g.readV l k))) ∧
    (∀ (s : State) (core : Nat), Yields (.eccCorrection core) s fun t => MemKept s t ∧ (t.core core).corrected = (s.core core).corrected + 1)) ∧
  ((∀ (s : State) (pa : Nat), Yields (.memoryUncorrectable pa .cleanCopy) s fun t => MemKept s t ∧ t.gangs = s.gangs ∧ t.errors.length = s.errors.length + 1) ∧
    (∀ (s : State) (pa ctx : Nat), s.hasCtx ctx = true → Yields (.memoryUncorrectable pa (.sharedIn ctx)) s fun t => (t.ctx ctx).stopped = true ∧
      ∀ i, i < 8 → t.poison.contains (s.home pa / 128 * 8 + i) = true) ∧
    (∀ (s : State) (pa : Nat), Yields (.memoryUncorrectable pa .packageStructure) s fun t => t.gangs = [] ∧ t.crews = [] ∧ t.power.cause = 1))

/-- Fault delivery (R315 to R324): a held record enters the queue when there is room; a handler thread starts on its record; a record goes to its owner, or waits with HELD set where it has none; a handler slot is freed once its thread has exited. The RUN control of a stopped context (R323) is taken from the escalation owner alone; any other master's has no effect and counts in VIOL (R391, the model's reading: log entry 78). The place FQBASE + 64n of a waiting record is the model's reading (log entry 99), and so is the order in which a handler's segment is fetched (log entry 77). -/
def Obligations.FaultDelivery : Prop :=
  (∀ (s : State) (ctx : Nat) (r : Rec) (rest : List Rec), s.hasCtx ctx = true → (s.ctx ctx).heldRecs = r :: rest → r.cls ≠ 0xFF → waitingRecs (s.ctx ctx).queue < Config.faultQueue →
    Yields (.heldRecordQueue ctx) s fun t => (t.ctx ctx).queue = (s.ctx ctx).queue ++ [r] ∧ (t.ctx ctx).heldRecs = rest ∧ t.gangs = s.gangs ∧
      t.mem = (s.writeImage ctx ((s.ctx ctx).fqBase + dword (64 * waitingRecs (s.ctx ctx).queue)) r.bytes).mem) ∧
  (∀ (s : State) (ctx sq slot : Nat) (r : Rec) (pc : Word), HandlerReady s ctx sq slot r pc →
    Yields (.handlerSpawn ctx sq slot) s fun t => (t.ctx ctx).queued sq = none ∧ t.crews = s.crews ∧ t.launches = s.launches ∧ ∃ gk g, HandlerStarted t ctx slot r pc gk g) ∧
  (∀ (s u : State) (ctx sq : Nat) (r : Rec) (c : Claim) (q : Queue), s.hasCtx ctx = true → (s.ctx ctx).queued sq = some r → c = s.claimOf ctx (s.claimEntry ctx r) →
    (c.owner = 0 → Yields (.recordDeliverOwner ctx sq) s fun t => t = s ∧ t.claimHeld (s.ctx ctx).tenancy (s.claimEntry ctx r) = true) ∧
    (c.owner = 2 ∨ c.owner = 3 → s.deliverable ctx r = true → s.firstInTurn ctx r = true → s.ownerQueue ctx c = some q →
      s.pushWhole ctx none q (s.asDelivered ctx r).bytes = some u →
      Yields (.recordDeliverOwner ctx sq) s fun t =>
        t = ((u.leaveQueue ctx r.seq).objectState ctx r.seq .owned none).sendUli 0 ctx c.oep (word (c.ovec % 64 * 67108864 + r.seq % 67108864))) ∧
    (c.owner = 4 → s.deliverable ctx r = true → s.firstInTurn ctx r = true →
      Yields (.recordDeliverOwner ctx sq) s fun t => (t.ctx ctx).queued sq = none ∧ t.trust.mailbox = s.trust.mailbox ++ [s.asDelivered ctx r] ∧ t.gangs = s.gangs)) ∧
  (∀ (s : State) (core k gk : Nat) (g : Gang), (s.core core).hslots.find? k = some gk → s.gang? gk = some g → g.hslot = some k → g.core = core → g.live = [] → g.pending = [] → Tbl.rising (s.core core).hslots = true →
    Yields (.handlerSlotFree core k) s fun t => t.gang? gk = none ∧ (t.core core).hslots.find? k = none) ∧
  (∀ (s : State) (who : Owner) (ctx : Nat),
    (s.isEscalation who ctx = false → Yields (.contextRunControl who ctx) s fun t => t.trust.viol = (if s.trust.viol < 65535 then s.trust.viol + 1 else s.trust.viol) ∧ t.ctxs = s.ctxs ∧ t.gangs = s.gangs) ∧
    (s.isEscalation who ctx = true → s.hasCtx ctx = true → (s.ctx ctx).stopped = true → waitingRecs (s.ctx ctx).queue < Config.faultQueue →
      Yields (.contextRunControl who ctx) s fun t => (t.ctx ctx).stopped = false))

/-! ## Device steps: rings, commands, arrays, residency -/

/-- Rings and handles (R171, R172, R185, R186): a stored PUB is noted and breaks the ring where more than 64 entries stand; an entry that XQ published is taken up as a command, and TAKEN is stored; destinations and sources are counted in their handles. Who publishes an entry whose PUB no thread stored is the model's reading (log entry 106). -/
def Obligations.RingSteps : Prop :=
  (∀ (s : State) (crew : Nat) (c : Crew), s.crew? crew = some c →
    Yields (.pubStore crew) s fun t => (∃ c', t.crew? crew = some c' ∧ c'.pub = word (s.ringPub c) ∧ c'.broken = decide (64 < s.ringFill c)) ∧
      (64 < s.ringFill c → c.broken = false → s.hasCtx c.ctx = true → (s.ctx c.ctx).heldRecs = [] → waitingRecs (s.ctx c.ctx).queue < Config.faultQueue →
        ∃ r ∈ (t.ctx c.ctx).queue, r.cls = cEngine ∧ r.sub = 8 ∧ r.eng = true)) ∧
  (∀ (s : State) (crew : Nat) (c : Crew) (q : Xq), s.crew? crew = some c → c.broken = false → s.ringFill c ≠ 0 → s.ringFill c ≤ 64 →
    (s.heldCmds crew).length < Config.heldCommands → c.xq.find? (fun x => x.sq == c.taken.toNat && x.img == s.ringEntry c c.taken.toNat) = some q →
    Yields (.ringAccept crew) s fun t => (∃ m, t.cmds = s.cmds ++ [m] ∧ m.crew = crew ∧ m.sq = c.taken.toNat ∧ m.img = s.ringEntry c c.taken.toNat ∧
        m.st = .active ∧ m.finished = false ∧ m.done = [] ∧ m.level = c.level) ∧
      t.mem = writeBytes s.mem (c.winPa 0x804) (bytesOf 4 (c.taken + 1).toNat) ∧ ∃ c', t.crew? crew = some c' ∧ c'.taken = c.taken + 1) ∧
  (∀ (s : State) (crew sq n : Nat) (c : Crew) (m : Cmd) (k : Handle), s.crew? crew = some c → s.cmd? crew sq = some m → m.crew = crew → n < 64 → s.handle c.homeCore n = k →
    k.owner = some crew → m.isHeld = false → m.finished = true → m.st = .active → k.st ≠ .fault →
    (s.awaitsReply crew sq = true → Yields (.handleDestComplete crew sq) s fun t => t = s) ∧
    (m.counted = false → cmdDh m.named = n → s.roleFree m true = true → s.awaitsReply crew sq = false → Yields (.handleDestComplete crew sq) s fun t => MemKept s t ∧
      let h := t.handle c.homeCore n
      h.dpend = k.dpend - 1 ∧ h.spend = k.spend ∧ h.counter = (if cmdCnt m.named then k.counter + 1 else k.counter) ∧
      (cmdCnt m.named = false → k.base = .filling → k.dpend = 1 → h.st = if k.spend = 0 then .full else .draining)) ∧
    (m.released = false → cmdSh m.named = n → s.roleFree m false = true → Yields (.handleSourceRelease crew sq) s fun t => MemKept s t ∧
      let h := t.handle c.homeCore n
      h.spend = k.spend - 1 ∧ h.dpend = k.dpend ∧ h.counter = k.counter ∧ (k.base = .draining → k.spend = 1 → h.st = .free))) ∧
  (∀ (s : State) (crew n : Nat) (c : Crew) (x : TileRec), s.crew? crew = some c → c.tiles.find? n = some x → x.cached = true → n < 64 →
    let va := s.crewRecVa c
    Yields (.tileRecordEvict crew n) s fun t =>
      t.mem = ((s.writeImage c.ctx (va + dword (32 * n)) (bytesOf 32 x.img.toNat)).writeImage c.ctx (va + 0x800)
        (bytesOf 8 (s.tileMask c))).mem ∧ (Tbl.rising c.tiles = true → (s.tileMask c).testBit n = x.valid) ∧
      ∃ c', t.crew? crew = some c' ∧ c'.tiles.find? n = some { x with cached := false })

/-- The commands of the copy, gather and collective engines (R175 to R182, R363 to R366): one step performs the parts that are left in their order, and the command is complete; a part by itself is performed and counted, and the last one completes the command; a part that meets a fault freezes the command with it. What a part reads and writes: a run of bytes is read as it stands and written in its place; COPY and COPY2D move the stream of lines, FILL its value, GATHER rows to the window with zeros for padding, SCATTER rows from it, SCATTERADD sums of FP32, READSUM an RX128 for each element, and CONTRIB adds to a slot of its window (R181, R182, R363, R364). What completing and freezing leave of a command and its handles (R184, R185): a completed command has `finished` set; a frozen one keeps its fault, its handles show FAULT with the subcode, and its record is queued. How a command is cut into parts is the model's choice (log entries 50 and 51), as is its record (log entry 54). -/
def Obligations.Commands : Prop :=
  (∀ (s u : State) (crew sq : Nat) (c : Crew) (m : Cmd), Going s crew sq c m →
      (Chain (PartLink crew sq) s (((engineFor m).parts s c m).filter fun n => !m.done.contains n) u →
        let t := u.finishCmd crew sq
        (cmdOp m.img = 0x01 → exec (.copy crew sq) s = .next t) ∧ (cmdOp m.img = 0x02 → exec (.copy2d crew sq) s = .next t) ∧
        (cmdOp m.img = 0x03 → exec (.fillmc crew sq) s = .next t) ∧ (cmdOp m.img = 0x04 → exec (.copymma crew sq) s = .next t) ∧
        (cmdOp m.img = 0x07 → exec (.fill crew sq) s = .next t) ∧ (cmdOp m.img = 0x10 → exec (.gather crew sq) s = .next t) ∧
        (cmdOp m.img = 0x11 → exec (.scatter crew sq) s = .next t) ∧ (cmdOp m.img = 0x12 → exec (.scatteradd crew sq) s = .next t) ∧
        (cmdOp m.img = 0x30 → exec (.contrib crew sq) s = .next t) ∧ (cmdOp m.img = 0x31 → exec (.readsum crew sq) s = .next t) ∧
        (cmdOp m.img = 0x32 → exec (.readround crew sq) s = .next t) ∧ (cmdOp m.img = 0x33 → exec (.relay crew sq) s = .next t)) ∧
      (∀ n, n ∈ (engineFor m).parts s c m → m.done.contains n = false →
        (∀ k ∈ (engineFor m).parts s c m, m.done.contains k = true ∨ (engineFor m).rank n ≤ (engineFor m).rank k) →
        (PartLink crew sq s n u → Yields (.subtransferComplete crew sq n) s fun t =>
          t = if ∀ k ∈ (engineFor m).parts s c m, k = n ∨ m.done.contains k = true then u.finishCmd crew sq else u) ∧
        (∀ f, (engineFor m).sourceOf s c m n = (u, .error (.flt f)) → Yields (.subtransferComplete crew sq n) s fun t => t = u.freezeCmd crew sq f.cls f.sub f.va))) ∧
  (∀ (s u : State) (c : Crew) (w : Who) (vault fs : Bool) (va pa : Nat) (b : List Byte),
      (∀ n, runAt s c w vault .read va n u pa → u.poison = [] → ∃ t, s.readRange c w vault anyPage va n = (t, .ok (readBytes u.mem pa n)) ∧ t.mem = u.mem) ∧
      (runAt s c w vault .write va b.length u pa → awayFromPub s pa b.length → ∃ t, s.writeRange c w vault fs anyPage va b = (t, .ok ()) ∧
        ∀ a, readByte t.mem a = if pa ≤ a ∧ a < pa + b.length then b.getD (a - pa) 0 else readByte u.mem a)) ∧
  (∀ (s u : State) (c : Crew) (m : Cmd) (n : Nat) (b : List Byte), cmdTrec m.img = 0xFFFF →
      let k := plainBytes m n
      let line := 16 * n / m.lineShape.2.1
      (cmdOp m.img = 1 ∨ cmdOp m.img = 2 →
        (s.readRange c (m.who c) (cmdSv m.img) anyPage ((cmdSrc m.img).toNat + line * m.lineShape.2.2 + 16 * n % m.lineShape.2.1) k = (u, .ok b) → Reads m s c n u b) ∧
        Writes m u c n b (cmdDv m.img) (cmdFs m.img) ((cmdDst m.img).toNat + 16 * n) b) ∧
      (cmdOp m.img = 7 → (∃ x, Reads m s c n s x ∧ x.length = k ∧ ∀ i, i < k → x.getD i 0 = BitVec.ofNat 8 (m.img.toNat / 2 ^ 32 % 4294967296 / 256 ^ (i % 4))) ∧
        Writes m u c n b (cmdDv m.img) (cmdFs m.img) ((cmdDst m.img).toNat + 16 * n) b)) ∧
  (∀ (s s1 u v : State) (c : Crew) (m : Cmd) (p n : Nat) (ib b old : List Byte),
      let i := p / gatPieces m
      s.readRange c (m.who c) true anyPage (gatIdx m.img + i * gatIsz m.img) (gatIsz m.img) = (s1, .ok ib) → n = natOfBytes ib → n < 4294967296 →
      let row := (cmdSrc m.img).toNat + n * gatStride m.img
      row < 2 ^ 64 →
      let packed := gatRows m.img + i * gatRowb m.img
      let k := rowPiece m (gatTarget m n) (p % gatPieces m)
      (n = gatPad m.img → (cmdOp m.img = 0x10 → Reads m s c p s1 (bytesOf 4 n) ∧ Writes m u c p (bytesOf 4 n) true false (packed + k.1) (List.replicate k.2 0)) ∧
        (cmdOp m.img = 0x11 ∨ cmdOp m.img = 0x12 → (engineFor m).dest u c m p (bytesOf 4 n) = (u, .ok ()))) ∧
      (n ≠ gatPad m.img → n < gatNrows m.img →
        (cmdOp m.img = 0x10 → s1.readRange c (m.who c) false anyPage (row + k.1) k.2 = (u, .ok b) →
          Reads m s c p u (bytesOf 4 n ++ b) ∧ Writes m u c p (bytesOf 4 n ++ b) true false (packed + k.1) b) ∧
        (cmdOp m.img = 0x11 → s1.readRange c (m.who c) true anyPage (packed + k.1) k.2 = (u, .ok b) →
          Reads m s c p u (bytesOf 4 n ++ b) ∧ Writes m u c p (bytesOf 4 n ++ b) false false (row + k.1) b) ∧
        (cmdOp m.img = 0x12 → s1.readRange c (m.who c) true anyPage (packed + k.1) k.2 = (u, .ok b) → addWaits u c m row = false →
          u.readRange c (m.who c) false anyPage (row + k.1) k.2 = (v, .ok old) → Reads m s c p u (bytesOf 4 n ++ b) ∧
          (engineFor m).dest u c m p (bytesOf 4 n ++ b) = v.writeRange c (m.who c) false false anyPage (row + k.1) (addRows old b))) ∧
      (n ≠ gatPad m.img → gatNrows m.img ≤ n → cmdOp m.img = 0x10 ∨ cmdOp m.img = 0x11 ∨ cmdOp m.img = 0x12 →
        (engineFor m).source s c m p = (s1, .error (.flt ⟨cEngine, 0x23, dword row⟩)))) ∧
  (∀ (u : State) (c : Crew) (m : Cmd) (i : Nat) (b : List Byte), cmdOp m.img = 0x31 → cmdSv m.img = true → Writes m u c i b true false ((cmdSrc m.img).toNat + 16 * i) b) ∧
  (∀ (s : State) (h count ncon i : Nat) (weight : Int) (x : Acc), (∀ a, h ≤ a → a < h + 64 + 64 * count → s.home a = a) → s.winHead h = ⟨count, ncon, weight⟩ →
      i < count → ncon < 65536 → (s.winSlot (h + 64 + 64 * i)).ncnt < ncon →
      let old := s.winSlot (h + 64 + 64 * i)
      let sum := if old.ncnt = 0 then x else old.acc.add x
      (-(2 ^ 319) ≤ sum.val ∧ sum.val < 2 ^ 319) → ∃ t, s.winContrib h count ncon i [x] = (t, .done) ∧
        t.winSlot (h + 64 + 64 * i) = { old with acc := sum, ncnt := old.ncnt + 1 } ∧
        ∀ a, (a < h + 64 + 64 * i ∨ h + 128 + 64 * i ≤ a) → readByte t.mem a = readByte s.mem a) ∧
  (∀ (s : State) (crew sq : Nat) (c : Crew) (m : Cmd), s.crew? crew = some c → s.cmd? crew sq = some m → m.crew = crew → m.sq = sq →
      ((m.counted = false ∧ cmdDh m.named ≠ 0xFF) → ∃ k, (s.finishCmd crew sq).cmd? crew sq = some k ∧ k.finished = true ∧ k.counted = false ∧ k.img = m.img) ∧
      (∀ cls sub va, c.phase ≠ .killed → (∃ k, (s.freezeCmd crew sq cls sub va).cmd? crew sq = some k ∧ k.st = .frozen ∧ k.cls = cls ∧ k.fsub = sub ∧
          ∃ r, k.rec_ = some r ∧ r.cls = cls ∧ r.sub = sub ∧ r.va = va ∧ r.eng = true ∧ r.pc = word sq) ∧
        (∀ n, n < 64 → (cmdDh m.named = n ∨ cmdSh m.named = n) → (s.handle c.homeCore n).owner = some crew →
          ((s.freezeCmd crew sq cls sub va).handle c.homeCore n).st = .fault ∧ ((s.freezeCmd crew sq cls sub va).handle c.homeCore n).sub = sub)))

/-- The plane array (R179, R194 to R197): a queued operation starts once nothing executes, with its planes and accumulators as they stand, of MMAS those of its tile; MMA writes D of its active lanes with the elements of R83 to R86, and MMAS its tile; that an unordered write is seen as it stands at the start is the model's choice (log entry 53). A follow-on takes the queued place of its publisher's array. -/
def Obligations.ArrayOperations : Prop :=
  (∀ (s : State) (core sub : Nat) (o : ArrayOp) (c : Crew) (g : Gang), s.arrayAt core sub = ⟨none, some o⟩ → s.crew? o.crew = some c → s.gang? o.gkey = some g → o.stored = false → (∀ n, n < 32 → g.holdsLine (o.d + n) = true) →
    Yields (.arrayOperationStart core sub) s fun t => MemKept s t ∧ t.gangs = s.gangs ∧ ∃ x, t.arrayAt core sub = ⟨some x, none⟩ ∧
      x.planesA = s.blockPlanes c o.recA o.addrA ∧ x.planesB = s.blockPlanes c o.recB o.addrB ∧ x.d = o.d ∧ x.lanes = o.lanes ∧ x.gkey = o.gkey ∧
      ∀ i, i < 1024 → x.acc.getD i 0 = g.readV (i % 32) (o.d + i / 32)) ∧
  (∀ (s : State) (core sub pa : Nat) (o : ArrayOp) (c : Crew), s.crew? o.crew = some c → o.stored = true → windowAt s c o.addrC 4096 pa →
    (s.arrayAt core sub = ⟨none, some o⟩ → Yields (.arrayOperationStart core sub) s fun t => MemKept s t ∧ t.gangs = s.gangs ∧ ∃ x, t.arrayAt core sub = ⟨some x, none⟩ ∧
      x.planesA = s.blockPlanes c o.recA o.addrA ∧ x.planesB = s.blockPlanes c o.recB o.addrB ∧ x.addrC = o.addrC ∧
      ∀ i, i < 1024 → x.acc.getD i 0 = word (readNum s.mem (pa + 4 * i) 4)) ∧
    ((s.arrayAt core sub).exec = some o → o.cmd = none → Yields (.arrayResultWrite core sub) s fun t => (t.arrayAt core sub).exec = none ∧
      (∀ gk g, s.gang? gk = some g → ∃ g', t.gang? gk = some g' ∧ g'.v = g.v ∧ g'.k = g.k) ∧
      ∀ a, readByte t.mem a = if pa ≤ a ∧ a < pa + 4096 then
          BitVec.ofNat 8 ((mmaElement o (o.acc.getD ((a - pa) / 4) 0) ((a - pa) / 128) ((a - pa) / 4 % 32)).1.toNat / 256 ^ ((a - pa) % 4))
        else readByte s.mem a)) ∧
  (∀ (s : State) (core sub : Nat) (o : ArrayOp) (g : Gang), (s.arrayAt core sub).exec = some o → o.stored = false → s.gang? o.gkey = some g → g.threads.length = 32 → o.d + 32 ≤ 128 → (∀ n, n < 32 → g.holdsLine (o.d + n) = true) →
    Yields (.arrayResultWrite core sub) s fun t => MemKept s t ∧ (t.arrayAt core sub).exec = none ∧ ∃ g', t.gang? o.gkey = some g' ∧ g'.k = g.k ∧
      ∀ l n, l < 32 → n < 128 → g'.readV l n =
        if l ∈ lanesOf o.lanes ∧ o.d ≤ n ∧ n < o.d + 32 then (mmaElement o (o.acc.getD (32 * (n - o.d) + l) 0) (n - o.d) l).1 else g.readV l n) ∧
  (∀ (s : State) (crew sq : Nat) (c : Crew) (m : Cmd) (o : ArrayOp), s.crew? crew = some c → s.cmd? crew sq = some m → m.crew = crew → m.sq = sq → cmdOp m.img = 4 →
    m.finished = true → m.followed = false → m.st = .active → (s.arrayAt (m.sub / 12) (m.sub % 12)).queued = none →
    (∀ f, s.checkStored c (some m.trec) (some m.brec) (some m.crec) 0 0 0 = some f →
      Yields (.copymmaFollowOn crew sq) s fun t => t = s.freezeCmd crew sq f.cls f.sub f.va) ∧
    (s.checkStored c (some m.trec) (some m.brec) (some m.crec) 0 0 0 = none →
      s.makeOp c crew m.gkey [] 0 ⟨m.trec, 0, m.brec, 0, some m.crec⟩ (some sq) = .ok o →
      Yields (.copymmaFollowOn crew sq) s fun t => MemKept s t ∧ (t.arrayAt (m.sub / 12) (m.sub % 12)).queued = some o ∧
        ∃ k, t.cmd? crew sq = some k ∧ k.st = .following))

/-- Pre-emption and its end (R20, R29, R305, R307, R308): the threads of the gangs that leave return to their region entries; a gang that returns is resident where it stood. A switch flushes the gang (log entry 76 for its order) and takes up new bases: the flush writes the lines that differ from the image, and the lane states, to the gang record, and no other byte of memory. A gang that returns from a record that is mapped takes its lane states from there, a thread recorded as BLOCKED at its REP; without one, its values have stayed in the model (log entry 16). A thread that waits with a queue reservation is left out of the clause on threads that return to REP: what becomes of it is log entry 101. An aged path is forced; a gang that has held its issue slot for 65,536 clocks loses it; an access that is acknowledged is no longer pending. -/
def Obligations.Residency : Prop :=
  (∀ (s : State) (ctx core gk : Nat) (g : Gang), s.gang? gk = some g → g.ctx = ctx → g.resid = .running → (s.moveSet ctx core).contains g.core = true → g.threads.length = 32 →
    Yields (.preempt ctx core) s fun t => ∃ g', t.gang? gk = some g' ∧ g'.resid = .preempted ∧
      ((∀ l, l < 32 → (g.th l).run ≠ .blocked) → g'.v = g.v ∧ g'.k = g.k) ∧
      ∀ l, l < 32 → ((g.th l).run = .run ∨ (g.th l).run = .held ∨ ((g.th l).run = .blocked ∧ ∀ p, (g.th l).wait = some p → reserves p.insn = false ∨ p.extra = []) →
          (g'.th l).run = .run ∧ (g'.th l).pc = (g.th l).rep ∧ (g'.th l).rcnt = 0) ∧
        ((g.th l).run = .frozen ∨ (g.th l).run = .exited → (g'.th l).run = (g.th l).run ∧ (g'.th l).pc = (g.th l).pc)) ∧
  (∀ (s : State) (ctx core gk : Nat) (g : Gang), RoomFor s ctx core g →
    (LoneGang s ctx core gk g .preempted →
      Yields (.preemptResume ctx core) s fun t => ∃ g', t.gang? gk = some g' ∧ g'.resid = .running ∧ g'.v = g.v ∧ g'.k = g.k ∧
        ∀ l, l < 32 → (g'.th l).pc = (g.th l).pc ∧ (g'.th l).lpv = 0 ∧ (g'.th l).lpk = 0 ∧ (g'.th l).lastPage = none) ∧
    (LoneGang s ctx core gk g .switched → (s.loadEps ctx).hasImage g = false →
      (Yields (.switchedResume ctx core) s fun t => ∃ g', t.gang? gk = some g' ∧ g'.resid = .running ∧ (∀ n ∈ g.absent, n ∈ g'.absent) ∧
        ∀ l, l < 32 → (g'.th l).pc = (g.th l).pc) ∧
      (s.hasVector ctx = true ∨ s.hasStage ctx = true ∨ s.hasWork ctx core = true →
        Yields (.contextWake ctx core) s fun t => ∃ g', t.gang? gk = some g' ∧ g'.resid = .running))) ∧
  (∀ (s : State) (ctx core gk : Nat) (g : Gang), LoneGang s ctx core gk g .preempted → s.inArray gk = false → (∀ l, l < 32 → (g.th l).run ≠ .blocked) → g.queries = [] → s.hasCtx ctx = true →
    (∀ p ∈ s.gangs, p.2.ctx = ctx → p.1 = gk) → (∀ p ∈ s.crews, p.2.ctx = ctx → s.gangsOf p.1 ≠ []) →
    Yields (.contextSwitchOut ctx core) s fun t => (∃ g', t.gang? gk = some g' ∧ g'.resid = .switched ∧ (∀ n, n < 131 → g'.absent.contains n = true) ∧ g'.v = g.v ∧ g'.k = g.k) ∧
      (t.ctx ctx).regBase = (s.ctx ctx).regNext ∧ (t.ctx ctx).codeBase = (s.ctx ctx).codeNext ∧ (t.ctx ctx).epsInImage = true) ∧
  (∀ (s : State) (gk pa : Nat) (g : Gang), s.gang? gk = some g → g.threads.length = 32 → Imaged s g pa →
    (∀ n ∈ g.dirtyLines, ∀ i, i < 32 → readNum (s.flushGang gk).mem (pa + 128 * n + 4 * i) 4 = (if n < 128 then g.readV i n else g.readK (32 * (n - 128) + i)).toNat) ∧
      (∀ l j, l < 32 → j < 7 → laneAt (s.flushGang gk) pa l j = (g.th l).laneWord j) ∧
      (∀ n a, n < 131 → n ∉ g.dirtyLines → pa + 128 * n ≤ a → a < pa + 128 * n + 128 → readByte (s.flushGang gk).mem a = readByte s.mem a) ∧
      ∀ a, a < pa ∨ pa + 0x4600 ≤ a → readByte (s.flushGang gk).mem a = readByte s.mem a) ∧
  (∀ (s : State) (ctx core gk : Nat) (g : Gang), LoneGang s ctx core gk g .preempted → s.inArray gk = false → (∀ l, l < 32 → (g.th l).run ≠ .blocked) → g.queries = [] →
    (∀ p ∈ s.crews, p.2.ctx = ctx → p.2.homeCore ≠ core) → (s.ctx ctx).regNext = (s.ctx ctx).regBase → (∃ p ∈ s.gangs, p.2.ctx = ctx ∧ p.2.core ≠ core ∧ p.2.resid ≠ .switched) →
    Yields (.contextSwitchOut ctx core) s fun t => t.mem = (s.flushGang gk).mem) ∧
  (∀ (s : State) (ctx core gk pa : Nat) (g : Gang), RoomFor s ctx core g → LoneGang s ctx core gk g .switched → (s.loadEps ctx).hasImage g = true →
    (s.loadEps ctx).kernelPa ctx ((s.loadEps ctx).recVa g + dword 0x4180) 0x480 = some (pa + 0x4180) → ((s.loadEps ctx).recVa g + dword 0x4180).toNat % 524288 + 0x480 ≤ 524288 →
    Yields (.switchedResume ctx core) s fun t => ∃ g', t.gang? gk = some g' ∧ g'.resid = .running ∧ ∀ l, l < 32 →
      let w := laneAt (s.loadEps ctx) pa l
      (g'.th l).mt = w 1 ∧ (g'.th l).rep = w 2 ∧ (g'.th l).fps = fpsWritten (w 4) ∧
        (g'.th l).pc = (if (w 5).toNat % 8 = 2 then w 2 else w 0) ∧ (g'.th l).rcnt = (if (w 5).toNat % 8 = 2 then 0 else w 3)) ∧
  (∀ (s : State) (gk : Nat) (pc : Nat) (g : Gang), s.gang? gk = some g → g.threads.length = 32 →
    (g.forcedRun = [] → g.agedPath (s.ctx g.ctx).ageMax = some pc → Yields (.ageingForce gk pc) s fun t => RestKept s t ∧ ∃ g' m, t.gang? gk = some g' ∧
      g'.forced = some (m, 64) ∧ g'.current = some pc ∧ (∀ l, l < 32 → (m.testBit l = true ↔ ((g.th l).run = .run ∨ (g.th l).run = .held) ∧ (g.th l).pc.toNat = pc)) ∧
      ∀ l, l < 32 → m.testBit l = true → (g'.th l).run = .run) ∧
    (g.issue.isSome = true → g.takenAt + 65536 ≤ s.clock → s.contested gk g g.takenAt = true → g.guard = false →
      Yields (.slotPreemption gk) s fun t => MemKept s t ∧ ∃ g', t.gang? gk = some g' ∧ g'.v = g.v ∧ g'.k = g.k ∧ g'.guard = true ∧
        ∀ l, l < 32 → ((g.th l).run = .run ∨ (g.th l).run = .held → (g'.th l).run = .run ∧ (g'.th l).pc = (g.th l).rep ∧ (g'.th l).rcnt = 0) ∧
          ((g.th l).run = .blocked ∨ (g.th l).run = .frozen → (g'.th l).run = (g.th l).run ∧ (g'.th l).pc = (g.th l).pc)) ∧
    (∀ n d rest, g.pending = d :: rest → n = 0 → awaitsOther d = false → Yields (.accessPerformed gk n) s fun t => RestKept s t ∧ OthersKept s t gk ∧
      ∃ g', t.gang? gk = some g' ∧ g'.threads = g.threads ∧ g'.v = g.v ∧ g'.k = g.k ∧ g'.pending = rest))

/-! ## Device steps: launches, tasks, resets -/

/-- Launches (R290, R291): one starts when every earlier launch of its stream has retired, or at once with OV; one that has nothing left retires with its completion word, which is written through the first core of the tenancy at the level of the launch, waits where its page is in transit and is dropped where the store would fault (the model's choice, log entry 70). The balancer looks at the input queue that a stage watches (R292). The stage balancer (R293, R295, R296): a decision places the pick that comes next, here a new task with a range index: a crew of the launch on the chosen cores takes the lowest free crew index, the next serial and the next range index; a decision without a pick places nothing. -/
def Obligations.LaunchesAndPlacement : Prop :=
  (∀ (s : State) (ctx serial : Nat) (l : Launch), s.launch? ctx serial = some l →
      (l.ov = true ∨ (∀ k ∈ s.launches, k.ctx = l.ctx → k.stream = l.stream → l.serial ≤ k.serial) →
        Yields (.launchStart ctx serial) s fun t => t = { s with launches := t.launches } ∧ t.launch? ctx serial = some { l with started := true }) ∧
      (l.ov = false → (∃ k ∈ s.launches, k.ctx = l.ctx ∧ k.stream = l.stream ∧ k.serial < l.serial) → Yields (.launchStart ctx serial) s fun t => t = s) ∧
      (s.launchDone l = false → Yields (.launchRetire ctx serial) s fun t => t = s) ∧
      (s.launchDone l = true → l.csend = false →
        let at_ := s.agentLoc ⟨((s.tenancyCores (s.ctx l.ctx).tenancy).head?).getD 0, l.ctx, l.level, none, .nobody⟩ l.compl 8 .write false
        (l.compl = 0 → Yields (.launchRetire ctx serial) s fun t => t.launch? ctx serial = none ∧ t.mem = s.mem ∧ t.gangs = s.gangs) ∧
        (l.compl ≠ 0 → (∀ w, at_.2 = .wait w → Yields (.launchRetire ctx serial) s fun t => t = at_.1) ∧
          (∀ f, at_.2 = .flt f → Yields (.launchRetire ctx serial) s fun t => t.launch? ctx serial = none) ∧
          ∀ pa x, at_.2 = .found pa x → Yields (.launchRetire ctx serial) s fun t => t.launch? ctx serial = none ∧
            t.mem = (at_.1.putBytes pa (bytesOf 8 (9223372036854775808 + l.serial % 9223372036854775808))).mem)) ∧
      ∀ die stage, Yields (.watchedQueueReexamine die ctx serial stage) s fun t => t = { s with launches := t.launches } ∧
        t.launch? ctx serial = some (if (s.ten (s.ctx ctx).tenancy).dies.testBit die = true then { l with watch := l.watch.put stage s.clock } else l)) ∧
  (∀ (s : State) (die : Nat), let now := fun (t : State) => t = { s with dies := t.dies } ∧ (t.die die).decided = s.clock
      Yields (.balancerDecision die []) s now ∧ Yields (.balancerPeriodic die []) s now) ∧
  (∀ (s : State) (die : Nat) (p : Pick) (l : Launch) (st : Stage) (n : Nat), s.launch? p.ctx p.serial = some l → l.stages[p.stage]? = some st → p.cont = false →
      s.eligible die ⟨l, p.stage, false⟩ = true → (s.refill die ⟨l, p.stage, false⟩).isNext die ⟨l, p.stage, false⟩ = true → Work.group ⟨l, p.stage, false⟩ st = none →
      (s.refill die ⟨l, p.stage, false⟩).coresOk die l p.stage st p.cores = true → (∀ r ∈ l.reruns, r.stage ≠ p.stage) → l.freeIndex p.stage st = some n → st.inq = 0 →
      let placed := fun (t : State) => (t.die die).decided = s.clock ∧
        (∃ k c, t.crew? k = some c ∧ c.ctx = p.ctx ∧ c.launch = p.serial ∧ c.stage = p.stage ∧ c.index = n ∧ c.serial = l.nextTask ∧ c.k2 = word l.taken ∧
          c.cores = p.cores ∧ c.level = l.level ∧ c.portion = st.portion) ∧
        ∃ l', t.launch? p.ctx p.serial = some l' ∧ l'.nextTask = l.nextTask + 1 ∧ l'.taken = l.taken + 1 ∧ l'.busy = l.busy ++ [(p.stage, n)]
      Yields (.balancerDecision die [p]) s placed ∧ Yields (.balancerPeriodic die [p]) s placed)

/-- A task (R37, R38, R128, R208, R258, R296, R298, R301, R302): its handed-over blocks are emptied first; it starts with each of its gangs on the core that R296 gives it, its threads in RUN at the entry PC, its v0 and k registers set and every other register zero, a continuation with the registers and threads that it left with; it retires when all of it is over; one that is aborted waits to be run again with its pop reservations, and one that nothing outranks is not aborted for another's sake. A continuation starts with one gang on one core of its die (the model's reading, log entry 65). -/
def Obligations.TaskSteps : Prop :=
  (∀ (s : State) (core : Nat), Yields (.cacheBlockHandover core) s fun t => (∀ x ∈ (t.core core).cache, x.way < (t.core core).boundary) ∧
    ∀ crew c, s.crew? crew = some c → c.phase = .handover → c.cores = [core] → c.cluster = none → ∃ c', t.crew? crew = some c' ∧ c'.phase = .staging) ∧
  (∀ (s : State) (crew : Nat) (c : Crew) (l : Launch) (st : Stage), StartReady s crew c l st →
    Yields (.taskStart crew) s fun t => (∃ c', t.crew? crew = some c' ∧ c'.phase = .running) ∧
      (c.cont = none → ∀ i, i < st.gangs → ∃ gk g, t.gang? gk = some g ∧ g.crew = crew ∧ g.ctx = c.ctx ∧ g.level = c.level ∧
        g.core = c.cores.getD (coreIndex st.gangs c.cores.length i) 0 ∧ StartGang c l st i g) ∧
      (∀ k, c.cont = some k → ∃ gk g, t.gang? gk = some g ∧ g.crew = crew ∧ g.level = c.level ∧ g.core = c.homeCore ∧ g.index = k.gang.index ∧
        g.threads = k.gang.threads ∧ g.v = k.gang.v ∧ g.k = k.gang.k) ∧
      (st.gangs = 1 → ∀ slot, s.pickSlot c.homeCore = some slot → (s.cachedLines c.homeCore (slot / 24)).length + 131 ≤ Config.regCache → MemKept s t)) ∧
  (∀ (s u : State) (crew : Nat) (c : Crew), s.crew? crew = some c →
    (s.crewOver crew = false → Yields (.taskRetire crew) s fun t => t = s) ∧
    (s.crewOver crew = true → (c.phase = .killed ∨ (c.phase = .running ∧ s.commitTask crew = .ok u)) →
      Yields (.taskRetire crew) s fun t => t.crew? crew = none ∧ ∀ p ∈ t.gangs, p.2.crew = crew → p.2.hslot ≠ none)) ∧
  (∀ (s : State) (crew : Nat) (error : Bool) (c : Crew) (l : Launch), s.crew? crew = some c → s.launch? c.ctx c.launch = some l →
    (c.mayAbort = false ∨ (error = false ∧ s.outranked c = false) → Yields (.taskAbort crew error) s fun t => t = s) ∧
    (c.mayAbort = true → error = true ∨ s.outranked c = true → Yields (.taskAbort crew error) s fun t => t.crew? crew = none ∧
      ∃ l' w, t.launch? c.ctx c.launch = some l' ∧
        ((∀ p ∈ s.gangsOf crew, ∀ n, n < 32 → (p.2.th n).run ≠ .blocked) → w = []) ∧
        (c.cont = none → l'.reruns = l.reruns ++ [⟨c.stage, c.index, c.serial, c.k2, c.item, c.popped, c.pops ++ w ++ c.held⟩]) ∧
        ∀ k, c.cont = some k → l'.conts = l.conts ++ [{ k with held := c.pops ++ w ++ c.held }]))

/-- Kill and reset (R335, R336, R337, R386, R392): a killed crew's threads have exited; a reset context has no launches, records or frozen sets; a reset tenancy drops what is sent to it; a package reset, and the trip at 115 °C, leave the package as after power-on and what lies in the modules as it was. What a context reset leaves of the endpoints, what a package reset keeps, and which commands drain, are the model's readings (log entries 72 to 74). -/
def Obligations.Resets : Prop :=
  (∀ (s : State) (who : Owner) (crew gk : Nat) (c : Crew) (g : Gang), s.isOwner who = true → s.crew? crew = some c → c.phase ≠ .killed → s.gang? gk = some g → g.crew = crew → g.hslot = none → g.resid ≠ .switched →
    g.threads.length = 32 → Yields (.crewKill ⟨who, crew⟩) s fun t => (∃ c', t.crew? crew = some c' ∧ c'.phase = .killed) ∧
      ∃ g', t.gang? gk = some g' ∧ ∀ i, i < 32 → (g'.th i).run = .exited) ∧
  (∀ (s : State) (who : Owner) (ctx : Nat), s.isOwner who = true → s.hasCtx ctx = true → Yields (.contextReset ⟨who, ctx⟩) s fun t => (∀ l ∈ t.launches, l.ctx ≠ ctx) ∧
    (∀ crew c, t.crew? crew = some c → c.ctx = ctx → c.phase = .killed) ∧
    ((∀ p ∈ s.gangs, p.2.ctx ≠ ctx) → (∀ p ∈ s.crews, p.2.ctx ≠ ctx) →
      (t.ctx ctx).queue = [] ∧ (t.ctx ctx).heldRecs = [] ∧ (t.ctx ctx).sets = [] ∧
        ((∀ c ∈ s.commits, c.ctx ≠ ctx) → (∀ l ∈ s.launches, l.ctx = ctx → l.keptPops = []) → (t.ctx ctx).resetting = false))) ∧
  (∀ (s : State) (who : Owner) (ten : Nat) (x : Tenancy), s.isOwner who = true → s.tens.find? ten = some x →
    Yields (.tenancyResetDrain ⟨who, ten⟩) s (fun t => (t.ten ten).gone = true) ∧ Yields (.tenancyResetCancel ⟨who, ten⟩) s fun t => (t.ten ten).gone = true ∧ (t.ten ten).draining = false) ∧
  (∀ (s : State), Yields .packageReset s (fun t => AfterReset s t 0) ∧ (∀ who, s.isOwner who = true → Yields (.controlSpaceWrite who .packageReset) s fun t => AfterReset s t 0) ∧ ∀ celsius, 115 ≤ celsius → Yields (.thermalTrip celsius) s fun t => AfterReset s t 2)

/-! ## Device steps: interrupts, pages, ports, pod, network, host -/

/-- An interrupt send arrives (R330 to R332): a permitted one is pended, or coalesced into the pending vector, and counted; any other is refused, counted, and reported to its sender, whose drop count grows (R216). A host store to a send page sends with the page's tag (R369); without the trusted indication that its tenancy asks for it is refused (R385), and in RECOVERY it has no effect (R387: the model's reading, log entry 122). -/
def Obligations.SendsArrive : Prop :=
  (∀ (s : State) (n : Nat) (x : Send), s.sends[n]? = some x → (∀ m y, m < n → s.sends[m]? = some y → Send.sameRoute x y = false) →
    ((s.hasCtx x.ctx = false ∨ (s.ten (s.ctx x.ctx).tenancy).gone = true) → x.pkg = 0xFF →
      Yields (.uliSendArrival n) s fun t => t = { s with sends := s.sends.eraseIdx n, refusals := s.refusals ++ [x.sender] }) ∧
    (s.hasCtx x.ctx = true → (s.ten (s.ctx x.ctx).tenancy).gone = false → (s.ctx x.ctx).epsInImage = false → x.ep < (s.ctx x.ctx).eps.length →
      let e := (s.ctx x.ctx).eps.getD x.ep Endpoint.reset
      let v := x.operand.toNat / 67108864
      let pay := x.operand.toNat % 67108864
      (admitsSend s x = false → x.pkg = 0xFF → Yields (.uliSendArrival n) s fun t => MemKept s t ∧ t.sends = s.sends.eraseIdx n ∧ t.refusals = s.refusals ++ [x.sender] ∧
        (t.ctx x.ctx).eps.getD x.ep Endpoint.reset = { e with refused := if e.refused < 4294967295 then e.refused + 1 else e.refused }) ∧
      (admitsSend s x = true → Yields (.uliSendArrival n) s fun t => MemKept s t ∧ t.sends = s.sends.eraseIdx n ∧ t.refusals = s.refusals ∧
        let e' := (t.ctx x.ctx).eps.getD x.ep Endpoint.reset
        e'.mask = e.mask ∧ e'.refused = e.refused ∧
        ((∀ p ∈ e.pending, p.num ≠ v) → e'.pending = e.pending ++ [⟨v, pay, 1, epValue x.pkg x.sender 0, e.nextOrd⟩]) ∧
        ((∃ p ∈ e.pending, p.num = v) → e'.pending = e.pending.map fun p => if p.num = v then { p with payload := pay, count := min (p.count + 1) 65535 } else p)))) ∧
  (∀ (s : State) (ctx : Nat), s.hasCtx ctx = true → (s.ctx ctx).epsInImage = false →
    (ctx ∈ s.refusals → Yields (.refusalNotice ctx) s fun t => t = { s with refusals := s.refusals.erase ctx, ctxs := t.ctxs } ∧
      (t.ctx ctx).drops = if (s.ctx ctx).drops < 4294967295 then (s.ctx ctx).drops + 1 else (s.ctx ctx).drops) ∧
    (ctx ∉ s.refusals → Yields (.refusalNotice ctx) s fun t => t = s)) ∧
  (∀ (s : State) (ten tag : Nat) (ep : DWord) (operand : Word) (trusted : Bool) (x : Tenancy), s.tens.find? ten = some x →
    (s.inRecovery = true → Yields (.hostSendPageStore ten tag ep operand trusted) s fun t => t = s) ∧
    (s.inRecovery = false → s.hostTrusted ten trusted = false → Yields (.hostSendPageStore ten tag ep operand trusted) s fun t => (t.ten ten).refused = x.refused + 1 ∧ t.sends = s.sends ∧
      t.errors.length = s.errors.length + 1) ∧
    (s.inRecovery = false → s.hostTrusted ten trusted = true → tag < 4096 → epValid ep = true → s.isSelf (epPkg ep) = true → Yields (.hostSendPageStore ten tag ep operand trusted) s fun t =>
      t = { s with sends := s.sends ++ [⟨0xFE, tag, 0, epCtx ep, epIndex ep, operand⟩] }) ∧
    (s.inRecovery = false → s.hostTrusted ten trusted = true → (4096 ≤ tag ∨ epValid ep = false) → Yields (.hostSendPageStore ten tag ep operand trusted) s fun t =>
      t = { s with host := { s.host with discarded := s.host.discarded + 1 } }) ∧
    (s.inRecovery = false → s.hostTrusted ten trusted = true → tag < 4096 → epValid ep = true → s.isSelf (epPkg ep) = false → epPkg ep ≠ 0xFE →
      Yields (.hostSendPageStore ten tag ep operand trusted) s fun t => t = if s.reachesPeer (epPkg ep) = true
        then s.pairSend (epPkg ep) (.uliSend (epCtx ep) (epIndex ep) operand tag) else { s with host := { s.host with discarded := s.host.discarded + 1 } }))

/-- Read duplication (R282 to R285): a replica is a copy of its master's page, mapped read-only; a complete collapse leaves the page WRITABLE with the writer's leaf alone; the fourth collapse within 10 ms pins it, for 100 ms; another package's read or write takes this package's leaves back. That a peer is known by its package alone is the model's choice (log entry 83). -/
def Obligations.PageSteps : Prop :=
  (∀ (s : State) (ctx va page at_ m a : Nat) (x : DWord) (y : Tenancy), Memory.wf s.mem = true → s.walk ctx va = .remote page at_ x →
    s.masterOf (leafPfn x * 524288) = (m, a) → leafMig x = true → ((s.migPage m a).st = .master ∨ (s.migPage m a).st = .replicated) →
    s.tens.find? (s.ctx ctx).tenancy = some y →
    Yields (.replicationComplete ctx va) s fun t => (t.migPage m a).st = .replicated ∧ s.self ∈ (t.migPage m a).readers ∧ (t.migPage m a).reader = s.self ∧
      (∀ f, s.freeReplica ctx x = some f → (∀ i, i < 8 → (s.home at_ + i) / 524288 ≠ f) →
        (⟨ctx, page, at_, setBit64 x 27 false, some f, false⟩ : MigLeaf) ∈ (t.migPage m a).leaves ∧ (t.ten (s.ctx ctx).tenancy).replicas = y.replicas.erase f ∧
        readNum t.mem (s.home at_) 8 = (replicaLeaf x f).toNat ∧ ∀ o, o < 524288 → readByte t.mem (f * 524288 + o) = readByte s.mem (modulePa m a + o)) ∧
      (s.freeReplica ctx x = none → (⟨ctx, page, at_, setBit64 x 27 false, none, false⟩ : MigLeaf) ∈ (t.migPage m a).leaves ∧ (t.ten (s.ctx ctx).tenancy).replicas = y.replicas ∧
        readNum t.mem (s.home at_) 8 = (setBit64 (setBit64 (liveForm x) 11 true) 2 false).toNat)) ∧
  (∀ (s : State) (m a : Nat), let p := s.migPage m a
    ((∀ w, p.st ≠ .collapsing w) → Yields (.collapseComplete m a) s fun t => t = s) ∧
    (∀ w, p.st = .collapsing w → 4 ≤ p.recentCollapses → Yields (.collapseComplete m a) s fun t => t = s) ∧
    (∀ w, p.st = .collapsing w → p.recentCollapses < 4 → Yields (.collapseComplete m a) s fun t =>
      t.migPage m a = { p with st := .writable, readers := [], leaves := p.leaves.filter fun l => l.writes } ∧
      ∀ l, p.leaves = [l] → l.writes = true → readNum t.mem (s.home l.at_) 8 = (liveForm l.remote).toNat) ∧
    (((∀ w, p.st ≠ .collapsing w) ∨ p.recentCollapses < 4) → ∀ m2 a2, Yields (.pagePin m a m2 a2) s fun t => t = s) ∧
    (∀ w m2 a2, p.st = .collapsing w → 4 ≤ p.recentCollapses → (s.pod.shared p.writer p.reader).getD m = m → Yields (.pagePin m a m2 a2) s fun t =>
      (t.migPage m a).st = .pinned ∧ (t.migPage m a).since = s.clock ∧ (t.migPage m a).movedTo = none ∧ ∀ l ∈ (t.migPage m a).leaves, l.writes = true ∧ l.frame = none) ∧
    (p.st = .pinned → p.movedTo = none → p.since + 330000000 ≤ s.clock → Yields (.pinExpire m a) s fun t => (t.migPage m a).st = .writable ∧ (t.migPage m a).collapses = [] ∧
      ∀ l, p.leaves = [l] → readNum t.mem (s.home l.at_) 8 = (liveForm l.remote).toNat) ∧
    ((p.st ≠ .pinned ∨ s.clock < p.since + 330000000) → Yields (.pinExpire m a) s fun t => t = s) ∧
    (p.st = .replicated → ∀ pkg, pkg ≠ s.self → Yields (.remoteFormReturn m ⟨a, true, pkg⟩) s (fun t => (t.migPage m a).st = .collapsing pkg ∧ s.self ∉ (t.migPage m a).readers ∧
        (t.migPage m a).collapses = s.clock :: p.collapses ∧ ∀ l ∈ (t.migPage m a).leaves, l.frame = none ∧ l.writes = false) ∧
      Yields (.remoteFormReturn m ⟨a, false, pkg⟩) s fun t => MemKept s t ∧ (t.migPage m a).st = .replicated ∧ pkg ∈ (t.migPage m a).readers ∧ (t.migPage m a).leaves = p.leaves) ∧
    (p.st = .writable → ∀ pkg, pkg ≠ s.self → Yields (.remoteFormReturn m ⟨a, false, pkg⟩) s (fun t => (t.migPage m a).st = .replicated ∧ (t.migPage m a).leaves = []) ∧
      Yields (.remoteFormReturn m ⟨a, true, pkg⟩) s fun t => MemKept s t ∧ (t.migPage m a).st = .writable ∧ (t.migPage m a).leaves = p.leaves) ∧
    (p.st = .master → ∀ writes pkg, pkg ≠ s.self → Yields (.remoteFormReturn m ⟨a, writes, pkg⟩) s fun t => MemKept s t ∧ (t.migPage m a).st = if writes = true then .writable else .replicated) ∧
    (((∃ w, p.st = .collapsing w) ∨ p.st = .pinned) → ∀ writes pkg, Yields (.remoteFormReturn m ⟨a, writes, pkg⟩) s fun t => t = s) ∧
    (∀ writes, Yields (.remoteFormReturn m ⟨a, writes, s.self⟩) s fun t => t = s))

/-- Module ports (R340 to R346, R355, R358): links leave and return to service; a failed fibre pair moves to a spare, or the port is DEGRADED; the last moved pair back makes it UP; RETRAIN leads from LOST to TRAINING; training ends UP or LOST; the injection limit halves on an incast notice and recovers by 1/32. That RETRAIN is accepted in state LOST only, and that DEGRADED stays until the port is trained again, are the model's readings (log entries 80 and 81). -/
def Obligations.PortSteps : Prop :=
  ∀ (s : State) (port : Nat), let p := s.port port
    (∀ link, link < 20 →
      (p.alive = true →
        Yields (.linkFail port link) s (fun t => t = { s with ports := t.ports, gangs := t.gangs, modCmds := t.modCmds } ∧
          (∀ j, j < 20 → (t.port port).linkUp.getLsbD j = (p.linkUp.getLsbD j && j != link)) ∧
          ∀ k, (t.port port).substitute link = some k → t.gangs = (s.moveRequests port link k).gangs ∧ t.modCmds = (s.moveRequests port link k).modCmds) ∧
        Yields (.linkRestore port link) s fun t => t = { s with ports := t.ports } ∧ (∀ j, j < 20 → (t.port port).linkUp.getLsbD j = (p.linkUp.getLsbD j || j == link)) ∧
          (p.linkUp.getLsbD link = false → ∀ q k, q = { p with linkUp := (t.port port).linkUp, returning := link :: p.returning } → q.substitute link = some k →
            (link ∈ (t.port port).returning ↔ s.linkBusy port k = true))) ∧
      (p.alive = false → Yields (.linkFail port link) s (fun t => t = s) ∧ Yields (.linkRestore port link) s fun t => t = s)) ∧
    (∀ pair, pair < 10 → p.inService = true →
      (∀ n, s.freeSpare (port / 3) = some n → Yields (.fibrePairFail port pair) s fun t => t = { s with ports := t.ports, gangs := t.gangs, modCmds := t.modCmds } ∧
        (t.port port).st = (if p.st = .degraded then .degraded else .repair) ∧ (t.port port).pairs.find? n = some pair ∧
        ∀ j, j < 20 → (t.port port).linkUp.getLsbD j = (p.linkUp.getLsbD j && j / 2 != pair)) ∧
      (s.freeSpare (port / 3) = none → Yields (.fibrePairFail port pair) s fun t => t = { s with ports := t.ports, gangs := t.gangs, modCmds := t.modCmds } ∧ (t.port port).st = .degraded ∧
        ∀ j, j < 20 → (t.port port).linkUp.getLsbD j = (p.linkUp.getLsbD j && j / 2 != pair)) ∧
      ((∃ x ∈ p.pairs, x.2 = pair) → Yields (.spareRetrained port pair) s fun t => t = { s with ports := t.ports } ∧ (t.port port).pairs = p.pairs ∧
        (∀ j, j < 20 → (t.port port).linkUp.getLsbD j = (p.linkUp.getLsbD j || j / 2 == pair)) ∧
        (t.port port).st = if p.st = .repair ∧ (∀ x ∈ p.pairs, (t.port port).pairUp x.2 = true) then .up else p.st)) ∧
    (∀ who, s.isOwner who = true →
      (p.st = .lost → Yields (.retrain who port) s fun t => t = { s with ports := t.ports } ∧ t.port port = { p with st := .training, linkUp := 0, returning := [], pairs := [], limit := 1 }) ∧
      (p.st ≠ .lost → Yields (.retrain who port) s fun t => t = s)) ∧
    (∀ i, p.st = .training → p.linkUp ≠ 0 →
      (s.identOk port i = true → Yields (.portTrained port i) s fun t => MemKept s t ∧
        t.port port = { p with module := i.number, heads := i.heads, head := i.head, capacity := i.capacity, cmdOff := i.cmdOff, st := .up,
                               nextTag := (t.port port).nextTag, slots := (t.port port).slots }) ∧
      (s.identOk port i = false → Yields (.portTrained port i) s fun t => PortLost s t port)) ∧
    (p.st = .training → p.linkUp = 0 → Yields (.portTrainingTimeout port) s fun t => PortLost s t port) ∧
    (∀ headFailed, p.inService = true →
      (headFailed = true ∨ p.linkUp = 0 → Yields (.portLost port headFailed) s fun t => PortLost s t port) ∧
      (headFailed = false → p.linkUp ≠ 0 → Yields (.portLost port headFailed) s fun t => t = s)) ∧
    Yields (.incastNotice port) s (fun t => t = { s with ports := t.ports } ∧ t.port port = { p with limit := if p.limit / 2 < 1 / 64 then 1 / 64 else p.limit / 2 }) ∧
    Yields (.incastRecovery port) s fun t => t = { s with ports := t.ports } ∧ t.port port = { p with limit := if 1 < p.limit + 1 / 32 then 1 else p.limit + 1 / 32 }

/-- Notices of the pod (R358, R359, R362): a loss notice marks the sender's pairs over the module severed, a restore notice clears the mark, a peer's head that is down severs all of its pairs and ends the state of the pair; each time every entry of the pod map takes STATE and RELAY anew. Messages of a pair and relayed requests (R360, R361, R408): the next message is delivered and counted, an early one held, an old one discarded; acknowledged messages are forgotten, others leave again after 50 µs; a relayed request is performed where the relay table, ADMIT and the module's ranges admit it, and refused otherwise. The layout of the pair table and of the payloads, and the step in which a relayed access is performed, are the model's choices (log entries 79 and 108). -/
def Obligations.PodSteps : Prop :=
  (∀ (s : State) (a module peer : Nat), s.pod.own = some a →
      Yields (.lossNotice module peer) s (fun t => MemKept s t ∧ (peer, module) ∈ t.pod.severed ∧ (∀ x ∈ s.pod.severed, x ∈ t.pod.severed) ∧ EntriesFresh s t a) ∧
      Yields (.restoreNotice module peer) s (fun t => MemKept s t ∧ (∀ x, x ∈ t.pod.severed ↔ x ∈ s.pod.severed ∧ x ≠ (peer, module)) ∧ EntriesFresh s t a) ∧
      Yields (.headDownNotice peer) s fun t => (∀ m ∈ s.modulesOf peer, (peer, m) ∈ t.pod.severed) ∧ t.pod.pairs.find? peer = none ∧ EntriesFresh s t a) ∧
  ((∀ (s : State) (peer n : Nat) (body : PairBody) (x : PairState), s.pod.pairs.at_ PairState.reset peer = x →
      ((n + 4294967296 - x.nextIn) % 4294967296 = 0 → x.early = [] →
        (∀ ok bytes y, body = .relayReply ok bytes → s.pod.asked.find? (fun a => a.1 == peer) = some y → Yields (.pairMessageArrival peer n body) s fun t =>
          t = { s with pod := t.pod, gangs := t.gangs } ∧ t.pod.asked = s.pod.asked.erase y ∧ t.pod.pairs.at_ PairState.reset peer = { x with nextIn := (x.nextIn + 1) % 4294967296 } ∧
          ((∀ gk l, y.2 ≠ .gang gk l) → t.gangs = s.gangs) ∧ ∀ gk l g, y.2 = .gang gk l → s.gang? gk = some g → t.gang? gk = some (g.relayed l) ∧ OthersKept s t gk) ∧
        (∀ ctx ep operand sender, body = .uliSend ctx ep operand sender → Yields (.pairMessageArrival peer n body) s fun t =>
          t = { s with pod := t.pod, sends := s.sends ++ [⟨peer, sender, 0, ctx, ep, operand⟩] } ∧ t.pod.pairs.at_ PairState.reset peer = { x with nextIn := (x.nextIn + 1) % 4294967296 }) ∧
        (∀ ctx, body = .refusal ctx → Yields (.pairMessageArrival peer n body) s fun t => t = { s with pod := t.pod, refusals := s.refusals ++ [ctx] })) ∧
      (0 < (n + 4294967296 - x.nextIn) % 4294967296 → (n + 4294967296 - x.nextIn) % 4294967296 < 2147483648 → x.early.length < 256 → (∀ m ∈ x.early, m.1 ≠ n) →
        Yields (.pairMessageArrival peer n body) s fun t => t = { s with pod := t.pod } ∧ t.pod.pairs.at_ PairState.reset peer = { x with early := x.early ++ [(n, body)] }) ∧
      (2147483648 ≤ (n + 4294967296 - x.nextIn) % 4294967296 → Yields (.pairMessageArrival peer n body) s fun t => t = s) ∧
      (∀ upTo, Yields (.pairAckArrival peer upTo) s fun t => t = { s with pod := t.pod } ∧
        ∀ m, m ∈ (t.pod.pairs.at_ PairState.reset peer).unacked ↔ m ∈ x.unacked ∧ 2147483648 ≤ (upTo + 4294967296 - m.1) % 4294967296) ∧
      (x.since + 165000 ≤ s.clock → x.unacked ≠ [] → Yields (.pairResendTimeout peer) s fun t => t = { s with pod := t.pod, ports := t.ports } ∧
        t.pod.wire = s.pod.wire ++ x.unacked.map (fun m => (peer, m.1, m.2)) ∧ t.pod.pairs.at_ PairState.reset peer = { x with since := s.clock }) ∧
      (s.clock < x.since + 165000 → Yields (.pairResendTimeout peer) s fun t => t = s)) ∧
    (∀ (s : State) (r : RelayReq) (h : Nat),
      ((s.headAt r.module = none ∨ s.relayAdmits r = false ∨ s.admits r.world = false) → Yields (.relayRequest r) s fun t => t = s.pairSend r.src (.relayReply false [])) ∧
      (s.headAt r.module = some h → let pa := 9007199254740992 + r.module * 17592186044416 + r.addr
        let may := fun (perm : Nat) => s.granted r.module h r.world r.addr r.len perm
        (r.kind < 3 → may (2 ^ r.kind) = false → Yields (.relayRequest r) s fun t => t = s.pairSend r.src (.relayReply false [])) ∧
        (s.relayAdmits r = true → s.admits r.world = true →
          (r.kind = 0 → may 1 = true → Yields (.relayRequest r) s fun t => t = s.pairSend r.src (.relayReply true (readBytes s.mem pa r.len))) ∧
          (r.kind = 1 → may 2 = true → Yields (.relayRequest r) s fun t =>
            t = ((s.putBytes pa (r.bytes.take r.len)).backInvalidate r.module r.addr r.len).pairSend r.src (.relayReply true [])) ∧
          (r.kind = 3 → s.granted r.module h r.world r.addr (s.relayExtent r pa) 8 = true → r.world ≠ 0 → (r.module, r.world) ∉ s.pod.admitted →
            Yields (.relayRequest r) s fun t => t = s.pairSend r.src (.relayReply true [2]))))))

/-- The network engine (R375 to R377): a message is checked and its packets stand ready, or its command freezes; packets leave in their order with the source's bytes; acknowledged ones are done, and a packet is sent again after its timeout, 16 times at the most; a packet that matches a slot is placed in its buffer and the whole message counted in CWORD, one that matches no process or slot is counted. The moment at which a message gives up its source, the receiver's translation and its acknowledgments are the model's readings (log entry 52). -/
def Obligations.NetworkSteps : Prop :=
  (∀ (i : Instr) (s : State) (crew sq : Nat) (c : Crew) (m : Cmd), s.crew? crew = some c → s.cmd? crew sq = some m →
    ((i = .send crew sq ∧ cmdOp m.img = 0x20) ∨ (i = .rmaw crew sq ∧ cmdOp m.img = 0x21)) → m.st = .active → m.finished = false → m.pkts = [] →
    (s.refuseMsg c m = none → Yields i s fun t => t = { s with cmds := t.cmds } ∧
      t.cmd? crew sq = some { m with pkts := (List.range (packetsOf (s.sendQueue c m) m)).map fun k => ⟨k, 0, false, 0⟩ }) ∧
    (∀ n, s.refuseMsg c m = some n → Yields i s fun t => t = s.freezeCmd crew sq cEngine n 0)) ∧
  (∀ (s u : State) (crew sq k : Nat) (c : Crew) (m : Cmd) (b : List Byte), s.crew? crew = some c → s.cmd? crew sq = some m → m.st = .active → m.finished = false →
    (∃ p ∈ m.pkts, p.acked = false ∧ p.num = k) → isUud (s.sendQueue c m) = false → packetBytes s c m k = (u, .ok b) → u.cmds = s.cmds → u.net = s.net → u.ctxs = s.ctxs →
    (m.nextPacket k = true → Yields (.netPacketTransmit crew sq k) s fun t => PacketLeft u t crew sq k c m b (k * mtuOf (s.sendQueue c m))) ∧
    (∀ p, m.pkts.find? (fun p => p.num == k && !p.acked && p.sends != 0) = some p → p.sends ≤ 16 →
      Yields (.netRtoExpire crew sq k) s fun t => PacketLeft u t crew sq k c m b (k * mtuOf (s.sendQueue c m)))) ∧
  (∀ (s : State) (crew sq k : Nat) (c : Crew) (m : Cmd) (p : PktState), s.crew? crew = some c → s.cmd? crew sq = some m → m.crew = crew → m.sq = sq → m.st = .active → m.finished = false →
    (m.pkts.find? (fun p => p.num == k && !p.acked && p.sends != 0) = some p → 16 < p.sends → c.phase ≠ .killed →
      Yields (.netRtoExpire crew sq k) s fun t => ∃ m', t.cmd? crew sq = some m' ∧ m'.st = .frozen ∧ m'.cls = cEngine ∧ m'.fsub = 0x21) ∧
    (∀ ks, (∃ p ∈ m.pkts, p.acked = false ∧ (p.num ∉ ks ∨ p.turn = 0)) →
      let m' := { m with pkts := m.pkts.map fun (p : PktState) => if p.num ∈ ks ∧ p.turn ≠ 0 then { p with acked := true } else p }
      let cov := s.net.covered ++ (m.pkts.filter fun p => decide (p.num ∈ ks) && p.turn != 0 && !p.acked).map fun p => (64 * c.ctx + netSq m.img, p.turn)
      (∀ x ∈ s.cmds, ∀ p ∈ x.pkts, p.acked = true ∨ p.sends = 0 ∨ (x.crew = crew ∧ x.sq = sq ∧ p.num ∈ ks ∧ p.turn ≠ 0) ∨
        (cov.filter fun q => q.1 == s.queueKey x && decide (p.turn < q.2)).length < 3) →
      Yields (.netAckReceive crew sq ks) s fun t => t = { s with cmds := t.cmds, net := { s.net with covered := cov } } ∧ t.cmd? crew sq = some m') ∧
    (∀ ks u b m' p, s.cmds = [m] → (cmdOp m.img = 0x20 ∨ cmdOp m.img = 0x21) → isUud (s.sendQueue c m) = false →
      let v := s.notePackets m ks
      v.cmds = [m'] → m'.finished = false → m'.pkts.filter (v.showsLoss m') = [p] → m'.pkts.find? (fun q => q.num == p.num && !q.acked && q.sends != 0) = some p → p.sends ≤ 16 →
      packetBytes v c m' p.num = (u, .ok b) → u.cmds = v.cmds → u.net = v.net → u.ctxs = v.ctxs →
      Yields (.netAckReceive crew sq ks) s fun t => PacketLeft u t crew sq p.num c m' b (p.num * mtuOf (s.sendQueue c m))) ∧
    (∀ ks, m.pkts ≠ [] → (∀ p ∈ m.pkts, p.acked = true ∨ (p.num ∈ ks ∧ p.turn ≠ 0)) → m.counted = false → cmdDh m.named ≠ 0xFF →
      Yields (.netAckReceive crew sq ks) s fun t => ∃ m', t.cmd? crew sq = some m' ∧ m'.finished = true)) ∧
  (∀ (s : State) (p : Packet),
    let acked := fun (t : State) => { t with net := { t.net with acks := t.net.acks ++ [⟨p.job, p.pid, p.msg, p.off⟩] } }
    (s.jobCtx p.job p.pid = none →
      ((p.job, p.pid, p.msg) ∉ s.net.strays → Yields (.netPacketReceive p) s fun t =>
        t = acked { s with net := { s.net with noMatch := s.net.noMatch + 1, strays := s.net.strays ++ [(p.job, p.pid, p.msg)] } }) ∧
      ((p.job, p.pid, p.msg) ∈ s.net.strays → Yields (.netPacketReceive p) s fun t => t = acked s)) ∧
    (∀ ctx r, s.jobCtx p.job p.pid = some ctx → s.net.rx.find? (fun x => x.job == p.job && x.pid == p.pid && x.msg == p.msg) = some r → r.complete = true →
      Yields (.netPacketReceive p) s fun t => t = acked s) ∧
    (∀ ctx, s.jobCtx p.job p.pid = some ctx → s.net.rx.find? (fun x => x.job == p.job && x.pid == p.pid && x.msg == p.msg) = none →
      ((s.ctx ctx).matchSlot p.msgid = none → Yields (.netPacketReceive p) s fun t => MemKept s t ∧ (t.ctx ctx).noMatch = (s.ctx ctx).noMatch + 1 ∧
        t.net.acks = s.net.acks ++ [⟨p.job, p.pid, p.msg, p.off⟩]) ∧
      (∀ i slot u pa x u2 pa2 x2, (s.ctx ctx).matchSlot p.msgid = some i → (s.ctx ctx).recvs.find? i = some slot → p.rma = false → p.off = 0 → p.len = p.bytes.length →
        p.bytes.length ≤ slot.blen → chunks slot.buf.toNat p.bytes.length = [(slot.buf.toNat, p.bytes.length)] →
        s.engineLoc ⟨s.ctxCore ctx, ctx, 0, none, .nobody⟩ slot.buf.toNat p.bytes.length .write anyPage = (u, .ok (pa, x)) →
        ((u.placePiece ⟨s.ctxCore ctx, ctx, 0, none, .nobody⟩ pa x p.bytes).setRx (wholeRx p ctx i)).engineLoc
          ⟨s.ctxCore ctx, ctx, 0, none, .nobody⟩ slot.cword.toNat 8 .atomic anyPage = (u2, .ok (pa2, x2)) →
        Yields (.netPacketReceive p) s fun t => t = acked ((u2.putPiece ⟨s.ctxCore ctx, ctx, 0, none, .nobody⟩ pa2 x2 (bytesOf 8 ((u2.word64 pa2 + 1) % 18446744073709551616))).askAtomic
          (u2.die (s.ctxCore ctx / 40)).world pa2 0 8 1 0 true 0 .nobody)) ∧
      (∀ i slot u e, (s.ctx ctx).matchSlot p.msgid = some i → (s.ctx ctx).recvs.find? i = some slot → p.rma = false → p.off = 0 → p.bytes.length < p.len →
        p.bytes.length ≤ slot.blen → chunks slot.buf.toNat p.bytes.length = [(slot.buf.toNat, p.bytes.length)] →
        s.engineLoc ⟨s.ctxCore ctx, ctx, 0, none, .nobody⟩ slot.buf.toNat p.bytes.length .write anyPage = (u, .error (.flt e)) →
        Yields (.netPacketReceive p) s fun t => t.mem = u.mem ∧ (t.ctx ctx).placeFaults = (u.ctx ctx).placeFaults + 1)))

/-- The host's links (R166, R369 to R371, R385): an access of a host-visible range reads, writes, compares and swaps, or pushes; any other has no effect, and one without the trusted indication that its tenancy asks for is refused and counted. A control message acts once the data-fence word has reached its number and no earlier message of its master waits (R391), waits until then, and is refused after 1 s. The context through whose tables the host pushes is the model's reading (log entry 85). -/
def Obligations.HostLinks : Prop :=
  (∀ (s : State) (ten : Nat) (a : HostAccess) (trusted : Bool),
    (s.hostVisible ten (hostSpan a).1 (hostSpan a).2 = false → Yields (.hostCxlAccess ten a trusted) s fun t => t = s) ∧
    (s.hostVisible ten (hostSpan a).1 (hostSpan a).2 = true → s.hostTrusted ten trusted = false → ∀ x, s.tens.find? ten = some x →
      Yields (.hostCxlAccess ten a trusted) s fun t => MemKept s t ∧ (t.ten ten).refused = x.refused + 1 ∧ t.errors.length = s.errors.length + 1) ∧
    (s.hostVisible ten (hostSpan a).1 (hostSpan a).2 = true → s.hostTrusted ten trusted = true →
      (s.framesBusy (hostSpan a).1 (hostSpan a).2 = true → Yields (.hostCxlAccess ten a trusted) s fun t => t = s) ∧
      (s.framesBusy (hostSpan a).1 (hostSpan a).2 = false → s.framesOwned (s.tenWorld ten) (hostSpan a).1 (hostSpan a).2 = false →
        Yields (.hostCxlAccess ten a trusted) s fun t => MemKept s t ∧ t.host = s.host ∧ t.errors.length = s.errors.length + 1) ∧
      (s.framesBusy (hostSpan a).1 (hostSpan a).2 = false → s.framesOwned (s.tenWorld ten) (hostSpan a).1 (hostSpan a).2 = true →
        (∀ pa n, a = .load pa n → Yields (.hostCxlAccess ten a trusted) s fun t => t = { s with host := { s.host with loaded := readBytes s.mem pa n } }) ∧
        (∀ pa b, a = .store pa b → s.host.waiting = [] → Yields (.hostCxlAccess ten a trusted) s fun t => t = s.hostPut pa b ∧ t.mem = (s.putBytes pa b).mem ∧
          ∀ core, ∀ x ∈ (t.core core).cache, ∀ y ∈ lineRun pa b.length, x.addr ≠ lineAddr y) ∧
        (∀ pa b m, a = .store pa b → s.host.waiting = [m] → (s.hostPut pa b).fenceReached m.ten m.dfseq = true → Yields (.hostCxlAccess ten a trusted) s fun t =>
          t = State.ctlWrite { s.hostPut pa b with host := { s.host with waiting := [] } } m.who m.write) ∧
        (∀ pa op w data cmp, a = .amo pa op w data cmp → (w = 4 ∨ w = 8) → s.host.waiting = [] → Yields (.hostCxlAccess ten a trusted) s fun t =>
          t.host.loaded = bytesOf w (readNum s.mem pa w) ∧
          t.mem = (s.putBytes pa (bytesOf w (amoNew op w (readNum s.mem pa w) (data.toNat % 2 ^ (8 * w)) (cmp.toNat % 2 ^ (8 * w))))).mem) ∧
        (∀ pa item ctx u, a = .push pa item → s.ctxsOf ten = [ctx] → item.length = (s.queueOf pa 0).isz → s.tenReaches ten pa 64 .atomic = true → s.pushWhole ctx none (s.queueOf pa 0) item = some u →
          Yields (.hostCxlAccess ten a trusted) s fun t => t = u)))) ∧
  (∀ (s : State) (ten dfseq : Nat) (who : Owner) (w : CtlWrite),
    (s.fenceReached ten dfseq = true → s.waitsFirst s.host.nextMsg who = false → Yields (.controlMessage ten dfseq who w) s fun t => t = s.ctlWrite who w) ∧
    (s.fenceReached ten dfseq = false ∨ s.waitsFirst s.host.nextMsg who = true → Yields (.controlMessage ten dfseq who w) s fun t => t = { s with host := { s.host with
      waiting := s.host.waiting ++ [⟨s.host.nextMsg, ten, dfseq, who, w, s.clock⟩], nextMsg := s.host.nextMsg + 1 } })) ∧
  (∀ (s : State) (n : Nat) (m : CtlMsg), s.host.waiting.find? (fun m => m.num == n) = some m →
    (m.since + 3300000000 ≤ s.clock → (∀ x ∈ s.host.waiting, x.num ≠ n → s.fenceReached x.ten x.dfseq = false) → Yields (.fenceTimeout n) s fun t => t = { s with host := { s.host with
      waiting := s.host.waiting.filter (fun x => x.num != n), timedOut := s.host.timedOut ++ [n] } }) ∧
    (m.since + 3300000000 ≤ s.clock → ∀ x, s.host.waiting = [m, x] → x.num ≠ n → s.fenceReached x.ten x.dfseq = true → Yields (.fenceTimeout n) s fun t =>
      t = State.ctlWrite { s with host := { s.host with waiting := [], timedOut := s.host.timedOut ++ [n] } } x.who x.write) ∧
    (s.clock < m.since + 3300000000 → Yields (.fenceTimeout n) s fun t => t = s))

/-! ## Device steps: the control plane, the root of trust, power -/

/-- A write of a master that does not own the control plane has no effect and counts in VIOL (R391), whichever register it names; that of a virtual function has no effect in RECOVERY (R387: the model's reading, log entry 122), and is refused, counted and reported without the trusted indication that its tenancy asks for (R385). The control plane changes hands (R390, R391): a request waits for Garnet's decision while Garnet owns the plane and none is pending, and is BUSY otherwise; a grant, a release, a lost link and a silent BMC pass it on, each time with EPOCH counted and MR7 extended. What MR7 is extended with is free (log entry 20), and BUSY while a request is pending is the model's reading (log entry 90). -/
def Obligations.Ownership : Prop :=
  (∀ (s : State) (who : Owner) (i : Instr), s.isOwner who = false → ownerWriteBy who i →
      (reachesDevice s who → Yields i s fun t => t = { s with trust := { s.trust with viol := if s.trust.viol < 65535 then s.trust.viol + 1 else s.trust.viol } }) ∧
      (∀ ten trusted, who = .function ten trusted → s.inRecovery = true → Yields i s fun t => t = s) ∧
      (∀ ten trusted x, who = .function ten trusted → s.inRecovery = false → s.hostTrusted ten trusted = false → s.tens.find? ten = some x →
        Yields i s fun t => t.trust = s.trust ∧ (t.ten ten).refused = x.refused + 1 ∧ t.errors.length = s.errors.length + 1)) ∧
  ((∀ (s : State) (who : Owner) (n : Nat), masterCode who = some n →
      (s.trust.owner = 0 → s.trust.pending = none → Yields (.ownershipRequest who) s fun t => t = { s with trust := { s.trust with pending := some n } }) ∧
      (s.trust.owner ≠ n → (s.trust.owner ≠ 0 ∨ s.trust.pending ≠ none) → Yields (.ownershipRequest who) s fun t => t = { s with trust := { s.trust with last := 2 } }) ∧
      (s.trust.owner = n → Yields (.ownershipRelease who) s fun t => OwnedBy s t 0) ∧
      (s.trust.owner ≠ n → Yields (.ownershipRelease who) s fun t => t = s)) ∧
    (∀ (s : State) (n : Nat), s.trust.pending = some n →
      Yields (.ownershipGrantDecision true) s (fun t => OwnedBy s t n ∧ t.trust.pending = none ∧ t.trust.last = 0) ∧
      Yields (.ownershipGrantDecision false) s fun t => t = { s with trust := { s.trust with pending := none, last := 1 } }) ∧
    (∀ (s : State), (s.trust.owner = 1 → Yields .ownerLinkLoss s fun t => OwnedBy s t 0) ∧ (s.trust.owner ≠ 1 → Yields .ownerLinkLoss s fun t => t = s) ∧
      (s.trust.owner = 2 → Yields .bmcSilenceTimeout s fun t => OwnedBy s t 0) ∧ (s.trust.owner ≠ 2 → Yields .bmcSilenceTimeout s fun t => t = s)))

/-- Control space (R27, R28, R262, R271, R315 to R317, R330, R378, R392) written by its owner: a claim entry has one owner at a time, else CLAIM_BUSY; a handler entry needs an aligned PC; QBLK changes where no window holds the blocks, which then read zero; a context is created; its bases wait for a context switch while a gang of it is bound; a permission entry whose PKG disagrees with its CLASS, and a power limit out of range, are refused. CLAIM_BUSY tells of the last claim write, and a set of dies is refused to no tenancy: the model's choices (log entries 84 and 132). -/
def Obligations.ControlSpace : Prop :=
  ∀ (s : State) (who : Owner), s.isOwner who = true →
    (∀ ten entry owner ovec oq oep x, s.tens.find? ten = some x → entry < 17 →
      let c := x.claims.at_ Claim.reset entry
      ((owner < 5 ∧ ¬ (entry = 16 ∧ owner = 1) ∧ (owner = 0 ∨ c.owner = 0 ∨ c.owner = owner)) → Yields (.claimWrite who ten entry owner ovec oq oep) s fun t =>
        t.trust.claimBusy = false ∧ (t.ten ten).claims.at_ Claim.reset entry =
          ⟨owner, ovec % 64, if owner = 2 ∨ owner = 3 then oq else 0, if owner = 2 ∨ owner = 3 then oep else 0⟩) ∧
      ((5 ≤ owner ∨ (entry = 16 ∧ owner = 1) ∨ (owner ≠ 0 ∧ c.owner ≠ 0 ∧ c.owner ≠ owner)) → Yields (.claimWrite who ten entry owner ovec oq oep) s fun t =>
        t = { s with trust := { s.trust with claimBusy := true } })) ∧
    (∀ ctx cls value, s.hasCtx ctx = true →
      (cls < 16 → value.toNat % 4 = 0 → Yields (.handlerTableWrite who ctx cls value) s fun t => t = { s with ctxs := t.ctxs } ∧
        (t.ctx ctx).handlers.at_ 0 cls = dword (value.toNat % 8589934592)) ∧
      (16 ≤ cls ∨ value.toNat % 4 ≠ 0 → Yields (.handlerTableWrite who ctx cls value) s fun t => t = s)) ∧
    (∀ core q, let old := (s.core core).qblk
      (core < 160 → q ≤ 8 → runFree (s.runsOn core) (128 - max old q) (max old q - min old q) = true → Yields (.vaultSettingsWrite who core q) s fun t => (t.core core).qblk = q ∧
        ∀ o, o < (max old q - min old q) * 65536 → readByte t.mem (vaultPa core (128 - max old q) 0 + o) = 0) ∧
      (160 ≤ core ∨ 8 < q ∨ runFree (s.runsOn core) (128 - max old q) (max old q - min old q) = false → Yields (.vaultSettingsWrite who core q) s fun t => t = s)) ∧
    (∀ ctx ten x, ctx < Config.contexts → s.tens.find? ten = some x → (∀ p ∈ s.gangs, p.2.ctx ≠ ctx) → (∀ p ∈ s.crews, p.2.ctx ≠ ctx) →
      Yields (.controlSpaceWrite who (.context ctx ten)) s fun t => t = { s with ctxs := t.ctxs, launches := t.launches } ∧ t.ctxs.find? ctx = some (Context.fresh ten) ∧
        ∀ l ∈ t.launches, l.ctx ≠ ctx) ∧
    (∀ ctx c reg code, s.ctxs.find? ctx = some c → reg.toNat < 36028797018963968 → code.toNat < 36028797018963968 → reg.toNat % 65536 = 0 → code.toNat % 65536 = 0 →
      Yields (.controlSpaceWrite who (.bases ctx reg code)) s fun t => t = { s with ctxs := t.ctxs } ∧
        t.ctxs.find? ctx = some (if ∃ p ∈ s.gangs, p.2.ctx = ctx then { c with regNext := reg, codeNext := code }
          else { c with regNext := reg, codeNext := code, regBase := reg, codeBase := code })) ∧
    (∀ ctx c i lo vmask, s.ctxs.find? ctx = some c →
      (i < 256 → permOk lo = true → Yields (.controlSpaceWrite who (.permission ctx i lo vmask)) s fun t => t = { s with ctxs := t.ctxs } ∧
        (t.ctx ctx).perms.find? i = some ⟨lo, vmask, 0, 0⟩) ∧
      (permOk lo = false → Yields (.controlSpaceWrite who (.permission ctx i lo vmask)) s fun t => t = s)) ∧
    (∀ watts, Yields (.controlSpaceWrite who (.power watts)) s fun t => t = { s with power := { s.power with limit := if 1200 ≤ watts ∧ watts ≤ 2800 then watts else s.power.limit } })

/-- The capability port (R209 to R214, R378): an operation on the object that a capability names has the effect of its instruction, and its result is read back; without a good capability nothing happens and nothing is read back. For whom a master acts, and that a refused operation leaves nothing to be read back, are the model's readings (log entries 112 and 86). -/
def Obligations.CapabilityPort : Prop :=
  ∀ (s : State) (who : Owner) (ten : Nat) (cap : DWord),
    (∀ i vf trusted, who = .function vf trusted → s.inRecovery = true → capPortBy who ten cap i → Yields i s fun t => t = s) ∧
    (∀ f i, reachesDevice s who → s.capability (s.portReach ten) cap = .error f → capPortBy who ten cap i → Yields i s fun t => t = { s with trust := { s.trust with capResult := [] } }) ∧
    ∀ o, s.capability (s.portReach ten) cap = .ok o → reachesDevice s who →
      (∀ i, s.actsFor who o = false → capPortBy who ten cap i → Yields i s fun t => t = { s with trust := { s.trust with capResult := [] } }) ∧
      (s.actsFor who o = true →
        (∀ sel u x, selBad cap sel = false → s.readFrozen o sel = (u, x) →
          Yields (.capportFrd ⟨who, ten⟩ cap sel) s fun t => t = { u with trust := { u.trust with capResult := [x] } }) ∧
        (∀ sel value u, selBad cap sel = false → selFixed sel = false → s.writeFrozen o sel value = .ok u →
          Yields (.capportFwr ⟨who, ten⟩ cap sel value) s fun t => t = { u with trust := { u.trust with capResult := [value] } }) ∧
        (∀ mask mode u v, mode.toNat < 3 → (capKind cap = false ∨ (mask = 0 ∧ mode = 0)) → s.resumeFrozen o mask.toNat mode.toNat = (u, v) →
          Yields (.capportFres ⟨who, ten⟩ cap mask mode) s fun t => t = { u with trust := { u.trust with capResult := [loOf v, hiOf v] } }) ∧
        (∀ mask u v, (capKind cap = false ∨ mask = 0) → s.killFrozen o mask.toNat = (u, v) →
          Yields (.capportFkill ⟨who, ten⟩ cap mask) s fun t => t = { u with trust := { u.trust with capResult := [loOf v, hiOf v] } }))

/-- EXTEND changes one of MR10 to MR15 and no other register (R388). Boot (R387, R388, R342): the ROM, the images that verify and the fuses are measured; with all five the package runs and its DOWN ports train; an image that fails a check leaves it in RECOVERY with the image's number and the check. The digests of the ROM and of the fuses are free (log entry 19), and a missing image fails the first check (the model's reading, log entry 89). -/
def Obligations.Measurements : Prop :=
  (∀ (s : State) (who : Owner) (mr : Nat) (digest : BitVec 384), s.isOwner who = true →
      (10 ≤ mr → mr ≤ 15 → Yields (.extendMr who mr digest) s fun t => t = { s with trust := { s.trust with mrs := t.trust.mrs } } ∧
        t.trust.mr mr = sha384 (digestBytes (s.trust.mr mr) ++ digestBytes digest) ∧ ∀ n, n ≠ mr → t.trust.mr n = s.trust.mr n) ∧
      ((mr < 10 ∨ 15 < mr) → Yields (.extendMr who mr digest) s fun t => t = s)) ∧
  (∀ (s : State) (images : List BootImage), s.trust.boot = .reset →
      (∀ a b c d e, images = [a, b, c, d, e] → (∀ x ∈ images, bootBad x = none) → Yields (.boot images) s fun t => t.trust.boot = .running ∧
        t.trust.mr 0 = sha384 (digestBytes (s.trust.mr 0) ++ digestBytes Config.romDigest) ∧
        t.trust.mr 1 = sha384 (digestBytes (s.trust.mr 1) ++ digestBytes a.digest) ∧ t.trust.mr 2 = sha384 (digestBytes (s.trust.mr 2) ++ digestBytes b.digest) ∧
        t.trust.mr 3 = sha384 (digestBytes (s.trust.mr 3) ++ digestBytes c.digest) ∧ t.trust.mr 4 = sha384 (digestBytes (s.trust.mr 4) ++ digestBytes d.digest) ∧
        t.trust.mr 5 = sha384 (digestBytes (s.trust.mr 5) ++ digestBytes e.digest) ∧
        t.trust.mr 6 = sha384 (digestBytes (s.trust.mr 6) ++ digestBytes (Config.fuseDigest [a.version, b.version, c.version, d.version, e.version])) ∧
        ∀ p, p < Config.ports → (t.port p).st = if (s.port p).st = .down then .training else (s.port p).st) ∧
      (∀ n x c, n < 5 → images[n]? = some x → bootBad x = some c → (∀ m y, m < n → images[m]? = some y → bootBad y = none) →
        Yields (.boot images) s fun t => t.trust.boot = .recovery n c ∧ t.ports = s.ports))

/-- Keys and the entropy source (R383, R386): a local key is drawn for a world that waits for it, and a pod key for one that waits for that; samples that fail a health test fail the source, count, and extend MR9 with the time of Beryl's timer; a health reset leads from FAILED, and from nowhere else, to RECOVERING, with the tests begun anew, and 1,024 passing samples from there to HEALTHY. The tests fail on 6 identical samples in a row, and on 96 of one value among 512 in a row, of all the samples since they began. A drawn key is a free value (log entry 15); that a pod key is held or not, and how the windows of the tests lie, are the model's choices (log entries 68 and 87). -/
def Obligations.EntropyAndKeys : Prop :=
  (∀ (s : State) (w : Nat) (samples : List Byte), s.trust.entropy = .healthy →
    (unhealthy s.trust.drawn samples = false → samples.length = 2048 →
      (s.keyWanted w = true → Yields (.keyGenerate w samples) s fun t => t.trust.localKeys.find? w = some (Config.keyBits s.free) ∧
        t.free = s.free + 1 ∧ t.keyWanted w = false ∧ t.trust.entropy = .healthy ∧ MemKept s t ∧ t.gangs = s.gangs) ∧
      (s.keyWanted w = false → w ∈ s.trust.podWaits → Yields (.keyGenerate w samples) s fun t => w ∈ t.trust.podKeys ∧ w ∉ t.trust.podWaits ∧
        t.trust.entropy = .healthy ∧ MemKept s t ∧ t.gangs = s.gangs)) ∧
    (unhealthy s.trust.drawn samples = true → (s.keyWanted w = true ∨ w ∈ s.trust.podWaits) → Yields (.keyGenerate w samples) s fun t =>
      SourceFails s t ∧ t.trust.localKeys = s.trust.localKeys ∧ t.trust.podKeys = s.trust.podKeys)) ∧
  (∀ (s : State) (samples : List Byte), unhealthy s.trust.drawn samples = true →
    (s.trust.entropy = .recovering ∨ (s.trust.entropy = .healthy ∧ (s.trust.podWaits ≠ [] ∨ ∃ a ∈ s.trust.keyWaits, a.key = true))) →
    Yields (.entropyTestFail samples) s fun t => SourceFails s t) ∧
  (∀ (s : State) (who : Owner), s.isOwner who = true → Yields (.entropyHealthReset who) s fun t =>
    t = if s.trust.entropy = .failed then { s with trust := { s.trust with entropy := .recovering, drawn := [] } } else s) ∧
  (∀ (s : State) (samples : List Byte), Yields (.entropyRecovered samples) s fun t =>
    t = if s.trust.entropy = .recovering ∧ 1024 ≤ samples.length ∧ unhealthy s.trust.drawn samples = false then
      { s with trust := { s.trust with entropy := .healthy, drawn := (s.trust.drawn ++ samples).drop ((s.trust.drawn ++ samples).length - 511) } } else s) ∧
  (∀ drawn samples : List Byte, unhealthy drawn samples = true ↔
    (∃ i b, ((drawn ++ samples).drop i).take 6 = List.replicate 6 b) ∨ ∃ i b, 96 ≤ (((drawn ++ samples).drop i).take 512).count b)

/-- A world assignment over a die or over the dies of its tenancy (R379, R380, R384): BUSY with the scrub begun, or the STATUS of what refuses it; a scrub leaves no line of the old world in any cache; once it is complete every die of the set latches the world and its vaults read zero, or, where a structure does not read back zero, every die keeps the old one with SCRUB_FAIL. A frame given to a world is zeroed first (R382): when that is complete it reads zero, no cache holds a line of it, and the new world owns it. What MR8 is extended with is the model's reading (log entry 88). -/
def Obligations.WorldsAndFrames : Prop :=
  ((∀ (s : State) (who : Owner) (die req : Nat) (all : Bool), s.isOwner who = true → die < 4 → req < 16 →
      let set := if all = true ∧ (s.tenancyOf die).isSome = true then die :: otherDies s die else [die]
      ((∃ d ∈ set, (s.die d).status = 1) → Yields (.worldAssignGo who die req all) s fun t => t = s) ∧
      ((∀ d ∈ set, (s.die d).status ≠ 1) →
        let ends := fun (n : Nat) => Yields (.worldAssignGo who die req all) s fun t => MemKept s t ∧ t.trust = s.trust ∧ (t.die die).req = req ∧
          ∀ d ∈ set, (t.die d).status = n ∧ (t.die d).world = (s.die d).world
        let lacks := decide (req ≠ 0) && (s.trust.localKeys.find? req).isNone
        (s.placedOn set = true → ends 4) ∧
        (s.placedOn set = false → all = false → (∃ d ∈ otherDies s die, (s.die d).world ≠ req) → ends 5) ∧
        (s.placedOn set = false → (all = true ∨ ∀ d ∈ otherDies s die, (s.die d).world = req) →
          ((∀ d ∈ set, (s.die d).world = req) → ends 0) ∧
          ((∃ d ∈ set, (s.die d).world ≠ req) → lacks = true ∧ s.trust.entropy ≠ .healthy → ends 2) ∧
          ((∃ d ∈ set, (s.die d).world ≠ req) → lacks = false ∨ s.trust.entropy = .healthy → Yields (.worldAssignGo who die req all) s fun t => MemKept s t ∧ (t.die die).req = req ∧
            (∀ d ∈ set, (t.die d).status = 1 ∧ (t.die d).world = (s.die d).world) ∧
            ∃ a, t.trust.keyWaits = s.trust.keyWaits ++ [a] ∧ (∀ d, d ∈ a.dies ↔ d ∈ set) ∧ a.req = req ∧ a.key = lacks)))) ∧
    (∀ (s : State) (die : Nat) (failed : List Nat) (a : Assignment), s.trust.keyWaits.find? (fun a => a.dies.contains die && !a.key) = some a →
      Yields (.scrubComplete die failed) s fun t =>
        (∀ d ∈ a.dies, (s.die d).world ≠ a.req →
          (failed = [] → ∀ core o, core / 40 = d → o < 0x800000 → readByte t.mem (vaultPa core 0 0 + o) = 0) ∧
          (∀ e, (t.die e).home.all (fun x => x.world != (s.die d).world) = true) ∧ ∀ core, (t.core core).cache.all (fun x => x.world != (s.die d).world) = true) ∧
        (failed = [] → ∀ d ∈ a.dies, (t.die d).world = a.req ∧ (t.die d).status = 0) ∧ (failed ≠ [] → ∀ d ∈ a.dies, (t.die d).world = (s.die d).world ∧ (t.die d).status = 3))) ∧
  ((∀ (s : State) (who : Owner) (frame world : Nat), s.isOwner who = true →
      (frame < 2097152 → world < 16 → Yields (.frameOwnerWrite who frame world) s fun t => t = { s with trust := { s.trust with zeroing := t.trust.zeroing } } ∧
        (frame, world) ∈ t.trust.zeroing ∧ ∀ w, (frame, w) ∈ t.trust.zeroing → w = world) ∧
      (2097152 ≤ frame ∨ 16 ≤ world → Yields (.frameOwnerWrite who frame world) s fun t => t = s)) ∧
    (∀ (s : State) (frame world : Nat), s.trust.zeroing.find? (fun z => z.1 == frame) = some (frame, world) → Yields (.frameZeroed frame) s fun t =>
      (∀ o, o < 524288 → readByte t.mem (frame * 524288 + o) = 0) ∧ (∀ a, a / 524288 ≠ frame → readByte t.mem a = readByte s.mem a) ∧
      t.trust.frames.at_ 0 frame = world ∧ (∀ w, (frame, w) ∉ t.trust.zeroing) ∧ ∀ core, ∀ x ∈ (t.core core).cache, x.addr / 524288 ≠ frame) ∧
    (∀ (s : State) (frame : Nat), (∀ w, (frame, w) ∉ s.trust.zeroing) → Yields (.frameZeroed frame) s fun t => t = s))

/-- SPDM (R389): each request is answered; a connection begins with GET_VERSION, the algorithms are agreed where SHA-384 and P-384 are offered, KEY_EXCHANGE opens a session only after that, and FINISH establishes it where the requester is verified; a measurement block holds its register. Contents that R389 does not give are free. They are drawn from opaque functions of the request and the device key (log entry 14); which parts a response holds is the model's reading (log entry 93). -/
def Obligations.Attestation : Prop :=
  ∀ (s : State),
    Answers s .getVersion rqVersion { s.trust with spdmVersion := true, spdmAlgs := false, session := 0 } ∧
    Answers s .getCapabilities rqCapabilities s.trust ∧
    (∀ hashes sigs, Answers s (.negotiateAlgorithms hashes sigs) rqAlgorithms { s.trust with spdmAlgs := s.trust.spdmVersion && hashes.contains alg384 && sigs.contains alg384 }) ∧
    Answers s .getDigests rqDigests s.trust ∧
    (∀ off len, Answers s (.getCertificate off len) (rqCertificate + 16 * (off + 65536 * len)) s.trust) ∧
    (∀ nonce, AnswersSigned s (.challenge nonce) (Config.spdmResponse (rqChallenge + 16 * nonce.toNat) (keyOf s) s.free) s.trust) ∧
    (∀ share, AnswersSigned s (.keyExchange share) (Config.spdmResponse (rqKeyExchange + 16 * share.toNat) (keyOf s) s.free) (if s.trust.spdmAlgs = true then { s.trust with session := 1 } else s.trust)) ∧
    (∀ verified, Answers s (.spdmFinish verified) rqFinish (if s.trust.session = 1 then { s.trust with session := if verified = true then 2 else 0 } else s.trust)) ∧
    (∀ n, 1 ≤ n → n ≤ 16 → AnswersSigned s (.getMeasurements n) (digestBytes (s.trust.mr (n - 1))) s.trust) ∧
    AnswersSigned s (.getMeasurements 17) [BitVec.ofNat 8 s.trust.failCnt, if s.trust.entropy = .locked then 1 else 0] s.trust ∧
    ∀ n, n = 0 ∨ 17 < n → Answers s (.getMeasurements n) (rqMeasurements + 16 * n) s.trust

/-- Power and cooling (R392): at 105 °C the clock is 1.2 GHz; above the limit plane-array issue is throttled before vector issue, and the clock lowered in steps of 100 MHz down to 1.2 GHz; below it no step throttles further; an idle unit is gated; below 115 °C nothing trips. The order in which the steps are taken back, and the numbering of the gated units, are the model's (log entries 91, 92 and 131). -/
def Obligations.PowerHeld : Prop :=
  (∀ (s : State) (celsius : Nat), Yields (.thermalThrottle celsius) s fun t =>
    t = { s with power := { s.power with celsius := celsius, mhz := if 105 ≤ celsius then 1200 else s.power.mhz } }) ∧
  (∀ (s : State) (celsius : Nat), celsius < 115 → Yields (.thermalTrip celsius) s fun t => t = s) ∧
  (∀ (s : State) (unit : Nat),
    (unit < 2080 → unit ∉ s.power.gated → s.unitBusy unit = false → s.power.used.at_ 0 unit + 64 ≤ s.clock →
      Yields (.powerGate unit) s fun t => t = { s with power := { s.power with gated := s.power.gated ++ [unit] } }) ∧
    (2080 ≤ unit ∨ s.unitBusy unit = true ∨ s.clock < s.power.used.at_ 0 unit + 64 → Yields (.powerGate unit) s fun t => t = s)) ∧
  (∀ (s : State) (watts : Nat),
    (s.power.limit < watts →
      (s.power.throttlePlane = false → Yields (.powerController watts) s fun t => t = { s with power := { s.power with throttlePlane := true } }) ∧
      (s.power.throttlePlane = true → 1200 < s.power.mhz →
        Yields (.powerController watts) s fun t => t = { s with power := { s.power with mhz := if s.power.mhz < 1300 then 1200 else s.power.mhz - 100 } }) ∧
      (s.power.throttlePlane = true → s.power.mhz ≤ 1200 → Yields (.powerController watts) s fun t => t = { s with power := { s.power with throttleVector := true } })) ∧
    (watts ≤ s.power.limit → Yields (.powerController watts) s fun t => t = { s with power := t.power } ∧ t.power.limit = s.power.limit ∧
      (s.power.mhz ≤ t.power.mhz ∧ t.power.mhz ≤ s.power.mhz + 100) ∧
      (s.power.throttlePlane = false → t.power.throttlePlane = false) ∧ (s.power.throttleVector = false → t.power.throttleVector = false)))
end

