-- ==== Sys2Proof/Laws/Table.lean ====
section
/-! SUPPORT. Laws of tables in rising order: lookup after a write, after a removal and after a change, and that each keeps the rising form. -/

namespace Sys2Proof.Machine

variable {α : Type}

@[simp] theorem Tbl.find?_put_same (t : Tbl α) (n : Nat) (a : α) : (t.put n a).find? n = some a := by
  induction t with
  | nil => simp [Tbl.put, Tbl.find?]
  | cons p t ih =>
    obtain ⟨k, b⟩ := p
    simp only [Tbl.put]
    split
    · simp [Tbl.find?]
    · split
      · simp [Tbl.find?]
      · rename_i h1 h2
        simp [Tbl.find?, Ne.symm h2, ih]

theorem Tbl.put_put (t : Tbl α) (n : Nat) (a b : α) : (t.put n a).put n b = t.put n b := by
  induction t with
  | nil => simp [Tbl.put]
  | cons p t ih =>
    obtain ⟨k, c⟩ := p
    simp only [Tbl.put]
    split
    · simp [Tbl.put]
    · split
      · simp [Tbl.put]
      · rename_i h1 h2
        simp [Tbl.put, h1, h2, ih]

theorem Tbl.find?_put_other (t : Tbl α) {n m : Nat} (a : α) (h : n ≠ m) : (t.put n a).find? m = t.find? m := by
  induction t with
  | nil => simp [Tbl.put, Tbl.find?, h]
  | cons p t ih =>
    obtain ⟨k, b⟩ := p
    simp only [Tbl.put]
    split
    · simp [Tbl.find?, h]
    · split
      · rename_i h1 h2
        subst h2
        simp [Tbl.find?, h]
      · simp [Tbl.find?, ih]

theorem Tbl.find?_put (t : Tbl α) (n m : Nat) (a : α) : (t.put n a).find? m = if n = m then some a else t.find? m := by
  split
  · rename_i h; subst h; exact t.find?_put_same n a
  · rename_i h; exact t.find?_put_other a h

theorem Tbl.find?_drop (t : Tbl α) (n m : Nat) : (t.drop n).find? m = if n = m then none else t.find? m := by
  induction t with
  | nil => simp [Tbl.drop, Tbl.find?]
  | cons p t ih =>
    obtain ⟨k, b⟩ := p
    simp only [Tbl.drop, List.filter_cons, bne_iff_ne, ne_eq, Tbl.find?] at *
    by_cases hk : k = n
    · subst hk
      simp only [not_true_eq_false, ↓reduceIte, ih]
      split <;> simp_all
    · simp only [hk, not_false_eq_true, ↓reduceIte, Tbl.find?, ih]
      by_cases hm : k = m
      · subst hm; simp [Ne.symm hk]
      · simp [hm]

theorem Tbl.find?_adjust (t : Tbl α) (n m : Nat) (f : α → α) :
    (t.adjust n f).find? m = if n = m then (t.find? m).map f else t.find? m := by
  induction t with
  | nil => simp [Tbl.adjust, Tbl.find?]
  | cons p t ih =>
    obtain ⟨k, b⟩ := p
    simp only [Tbl.adjust, List.map_cons] at *
    by_cases hk : k = n
    · subst hk
      simp only [↓reduceIte, Tbl.find?, ih]
      by_cases hm : k = m <;> simp [hm]
    · simp only [hk, ↓reduceIte, Tbl.find?, ih]
      by_cases hm : k = m
      · subst hm; simp [Ne.symm hk]
      · simp [hm]

theorem Tbl.at_set [DecidableEq α] (d : α) (t : Tbl α) (n m : Nat) (a : α) :
    Tbl.at_ d (Tbl.set d t n a) m = if n = m then a else Tbl.at_ d t m := by
  simp only [Tbl.set, Tbl.at_]
  by_cases ha : a = d
  · subst ha
    rw [if_pos rfl, Tbl.find?_drop]
    by_cases h : n = m <;> simp [h]
  · rw [if_neg ha, Tbl.find?_put]
    by_cases h : n = m <;> simp [h]

@[simp] theorem Tbl.at_set_same [DecidableEq α] (d : α) (t : Tbl α) (n : Nat) (a : α) : Tbl.at_ d (Tbl.set d t n a) n = a := by
  simp [Tbl.at_set]

theorem Tbl.at_set_other [DecidableEq α] (d : α) (t : Tbl α) {n m : Nat} (a : α) (h : n ≠ m) :
    Tbl.at_ d (Tbl.set d t n a) m = Tbl.at_ d t m := by
  simp [Tbl.at_set, h]

/-! ## The rising form -/

/-- Every key of a table lies above a bound. -/
def Tbl.above (b : Nat) (t : Tbl α) : Prop := ∀ p ∈ t, b < p.1

theorem Tbl.rising_cons {k : Nat} {b : α} {t : Tbl α} : Tbl.rising ((k, b) :: t) = true ↔ Tbl.above k t ∧ Tbl.rising t = true := by
  induction t generalizing k b with
  | nil => simp [Tbl.rising, Tbl.above]
  | cons p t ih =>
    obtain ⟨m, c⟩ := p
    have e : Tbl.rising ((k, b) :: (m, c) :: t) = (decide (k < m) && Tbl.rising ((m, c) :: t)) := rfl
    rw [e, Bool.and_eq_true, decide_eq_true_eq, ih]
    constructor
    · rintro ⟨h1, h2, h3⟩
      refine ⟨?_, h2, h3⟩
      intro p hp
      rcases List.mem_cons.1 hp with rfl | hp
      · exact h1
      · exact Nat.lt_trans h1 (h2 p hp)
    · rintro ⟨h1, h2, h3⟩
      exact ⟨h1 _ (List.mem_cons_self ..), h2, h3⟩

theorem Tbl.mem_put {t : Tbl α} {n : Nat} {a : α} {p : Nat × α} (h : p ∈ t.put n a) : p = (n, a) ∨ p ∈ t := by
  induction t with
  | nil => simpa [Tbl.put] using h
  | cons q t ih =>
    obtain ⟨k, b⟩ := q
    simp only [Tbl.put] at h
    split at h
    · rcases List.mem_cons.1 h with h | h
      · exact .inl h
      · exact .inr h
    · split at h
      · rcases List.mem_cons.1 h with h | h
        · exact .inl h
        · exact .inr (List.mem_cons_of_mem _ h)
      · rcases List.mem_cons.1 h with h | h
        · exact .inr (h ▸ List.mem_cons_self ..)
        · exact (ih h).imp id (List.mem_cons_of_mem _)

theorem Tbl.rising_put {t : Tbl α} (h : t.rising = true) (n : Nat) (a : α) : (t.put n a).rising = true := by
  induction t with
  | nil => rfl
  | cons p t ih =>
    obtain ⟨k, b⟩ := p
    obtain ⟨h1, h2⟩ := Tbl.rising_cons.1 h
    simp only [Tbl.put]
    split
    · rename_i hn
      refine Tbl.rising_cons.2 ⟨?_, h⟩
      intro p hp
      rcases List.mem_cons.1 hp with rfl | hp
      · exact hn
      · exact Nat.lt_trans hn (h1 p hp)
    · split
      · rename_i hn hk
        subst hk
        exact Tbl.rising_cons.2 ⟨h1, h2⟩
      · rename_i hn hk
        refine Tbl.rising_cons.2 ⟨?_, ih h2⟩
        intro p hp
        rcases Tbl.mem_put hp with rfl | hp
        · simp only; omega
        · exact h1 p hp

theorem Tbl.rising_filter {t : Tbl α} (h : t.rising = true) (f : Nat × α → Bool) : Tbl.rising (t.filter f) = true := by
  induction t with
  | nil => rfl
  | cons p t ih =>
    obtain ⟨k, b⟩ := p
    obtain ⟨h1, h2⟩ := Tbl.rising_cons.1 h
    simp only [List.filter_cons]
    split
    · exact Tbl.rising_cons.2 ⟨fun p hp => h1 p (List.mem_filter.1 hp).1, ih h2⟩
    · exact ih h2

end Sys2Proof.Machine
end

