-- ==== Sys2Proof/Laws/Memory.lean ====
section
/-! SUPPORT. Laws of memory: a byte read after a write, and that every memory operation keeps the canonical form. -/

namespace Sys2Proof.Machine

variable {m : List Host.Cell}

theorem readByte_writeByte (m : List Host.Cell) (a x : Nat) (b : Byte) :
    readByte (writeByte m a b) x = if a = x then b else readByte m x := Tbl.at_set _ m a x b

@[simp] theorem readByte_writeByte_same (m : List Host.Cell) (a : Nat) (b : Byte) : readByte (writeByte m a b) a = b := by
  simp [readByte_writeByte]

theorem readByte_writeByte_other (m : List Host.Cell) {a x : Nat} (b : Byte) (h : a ≠ x) :
    readByte (writeByte m a b) x = readByte m x := by
  simp [readByte_writeByte, h]

theorem readByte_writeBytes_other (bs : List Byte) : ∀ (m : List Host.Cell) {a x : Nat}, x < a ∨ a + bs.length ≤ x →
    readByte (writeBytes m a bs) x = readByte m x := by
  induction bs with
  | nil => intros; rfl
  | cons b t ih =>
    intro m a x h
    simp only [List.length_cons] at h
    rw [writeBytes, ih _ (by omega), readByte_writeByte_other _ _ (by omega)]

theorem readByte_writeBytes_in (bs : List Byte) : ∀ (m : List Host.Cell) {a i : Nat} (h : i < bs.length),
    readByte (writeBytes m a bs) (a + i) = bs[i] := by
  induction bs with
  | nil => intro m a i h; simp at h
  | cons b t ih =>
    intro m a i h
    cases i with
    | zero => rw [writeBytes, readByte_writeBytes_other _ _ (by omega)]; simp
    | succ j =>
      have := ih (writeByte m a b) (a := a + 1) (i := j) (by simpa using h)
      rw [writeBytes, show a + (j + 1) = a + 1 + j by omega, this]
      rfl

/-! ## The canonical form -/

theorem Memory.wf_iff : Memory.wf m = true ↔ Tbl.rising m = true ∧ ∀ c ∈ m, c.2 ≠ unlisted := by
  simp [Memory.wf]

theorem Memory.wf_nil : Memory.wf [] = true := rfl

theorem Memory.wf_filter (h : Memory.wf m = true) (f : Host.Cell → Bool) : Memory.wf (m.filter f) = true := by
  rw [Memory.wf_iff] at *
  exact ⟨Tbl.rising_filter h.1 f, fun c hc => h.2 c (List.mem_filter.1 hc).1⟩

theorem Memory.wf_writeByte (h : Memory.wf m = true) (a : Nat) (b : Byte) : Memory.wf (writeByte m a b) = true := by
  unfold writeByte Tbl.set
  split
  · exact Memory.wf_filter h _
  · rename_i hb
    rw [Memory.wf_iff] at *
    refine ⟨Tbl.rising_put h.1 a b, fun c hc => ?_⟩
    rcases Tbl.mem_put hc with rfl | hc
    · exact hb
    · exact h.2 c hc

theorem Memory.wf_writeBytes (bs : List Byte) : ∀ {m : List Host.Cell}, Memory.wf m = true → ∀ a, Memory.wf (writeBytes m a bs) = true := by
  induction bs with
  | nil => intro m h a; exact h
  | cons b t ih => intro m h a; exact ih (Memory.wf_writeByte h a b) (a + 1)

theorem Memory.wf_eraseRange (h : Memory.wf m = true) (a n : Nat) : Memory.wf (eraseRange m a n) = true := Memory.wf_filter h _

theorem Memory.wf_writeCells (cs : List Host.Cell) (f : Host.Cell → Nat) (g : Host.Cell → Byte) : ∀ {m : List Host.Cell}, Memory.wf m = true →
    Memory.wf (cs.foldl (fun m c => writeByte m (f c) (g c)) m) = true := by
  induction cs with
  | nil => intro m h; exact h
  | cons c t ih => intro m h; exact ih (Memory.wf_writeByte h _ _)

end Sys2Proof.Machine
end

