-- ==== Sys2Proof/Laws/State.lean ====
section
/-! SUPPORT. Each update of the state against each field: what it changes and what it leaves. -/

namespace Sys2Proof.Machine

variable (s : State)

@[simp] theorem State.setGang_clock (k : Nat) (x : Gang) : (s.setGang k x).clock = s.clock := rfl
@[simp] theorem State.setGang_pace (k : Nat) (x : Gang) : (s.setGang k x).pace = s.pace := rfl
@[simp] theorem State.setGang_agenda (k : Nat) (x : Gang) : (s.setGang k x).agenda = s.agenda := rfl
@[simp] theorem State.setGang_free (k : Nat) (x : Gang) : (s.setGang k x).free = s.free := rfl
@[simp] theorem State.setGang_nextKey (k : Nat) (x : Gang) : (s.setGang k x).nextKey = s.nextKey := rfl
@[simp] theorem State.setGang_cur (k : Nat) (x : Gang) : (s.setGang k x).cur = s.cur := rfl
@[simp] theorem State.setGang_gangs (k : Nat) (x : Gang) : (s.setGang k x).gangs = s.gangs.put k x := rfl
@[simp] theorem State.setGang_crews (k : Nat) (x : Gang) : (s.setGang k x).crews = s.crews := rfl
@[simp] theorem State.setGang_ctxs (k : Nat) (x : Gang) : (s.setGang k x).ctxs = s.ctxs := rfl
@[simp] theorem State.setGang_tens (k : Nat) (x : Gang) : (s.setGang k x).tens = s.tens := rfl
@[simp] theorem State.setGang_launches (k : Nat) (x : Gang) : (s.setGang k x).launches = s.launches := rfl
@[simp] theorem State.setGang_mem (k : Nat) (x : Gang) : (s.setGang k x).mem = s.mem := rfl
@[simp] theorem State.setGang_fe (k : Nat) (x : Gang) : (s.setGang k x).fe = s.fe := rfl
@[simp] theorem State.setGang_tags (k : Nat) (x : Gang) : (s.setGang k x).tags = s.tags := rfl
@[simp] theorem State.setGang_poison (k : Nat) (x : Gang) : (s.setGang k x).poison = s.poison := rfl
@[simp] theorem State.setGang_ivClock (k : Nat) (x : Gang) : (s.setGang k x).ivClock = s.ivClock := rfl
@[simp] theorem State.setGang_cores (k : Nat) (x : Gang) : (s.setGang k x).cores = s.cores := rfl
@[simp] theorem State.setGang_dies (k : Nat) (x : Gang) : (s.setGang k x).dies = s.dies := rfl
@[simp] theorem State.setGang_cmds (k : Nat) (x : Gang) : (s.setGang k x).cmds = s.cmds := rfl
@[simp] theorem State.setGang_ports (k : Nat) (x : Gang) : (s.setGang k x).ports = s.ports := rfl
@[simp] theorem State.setGang_modCmds (k : Nat) (x : Gang) : (s.setGang k x).modCmds = s.modCmds := rfl
@[simp] theorem State.setGang_commits (k : Nat) (x : Gang) : (s.setGang k x).commits = s.commits := rfl
@[simp] theorem State.setGang_sends (k : Nat) (x : Gang) : (s.setGang k x).sends = s.sends := rfl
@[simp] theorem State.setGang_refusals (k : Nat) (x : Gang) : (s.setGang k x).refusals = s.refusals := rfl
@[simp] theorem State.setGang_modRanges (k : Nat) (x : Gang) : (s.setGang k x).modRanges = s.modRanges := rfl
@[simp] theorem State.setGang_pages (k : Nat) (x : Gang) : (s.setGang k x).pages = s.pages := rfl
@[simp] theorem State.setGang_pod (k : Nat) (x : Gang) : (s.setGang k x).pod = s.pod := rfl
@[simp] theorem State.setGang_host (k : Nat) (x : Gang) : (s.setGang k x).host = s.host := rfl
@[simp] theorem State.setGang_net (k : Nat) (x : Gang) : (s.setGang k x).net = s.net := rfl
@[simp] theorem State.setGang_trust (k : Nat) (x : Gang) : (s.setGang k x).trust = s.trust := rfl
@[simp] theorem State.setGang_power (k : Nat) (x : Gang) : (s.setGang k x).power = s.power := rfl
@[simp] theorem State.setGang_errors (k : Nat) (x : Gang) : (s.setGang k x).errors = s.errors := rfl
@[simp] theorem State.setGang_late (k : Nat) (x : Gang) : (s.setGang k x).late = s.late := rfl
@[simp] theorem State.setGang_passing (k : Nat) (x : Gang) : (s.setGang k x).passing = s.passing := rfl
@[simp] theorem State.setGang_records (k : Nat) (x : Gang) : (s.setGang k x).records = s.records := rfl
@[simp] theorem State.setGang_timer (k : Nat) (x : Gang) : (s.setGang k x).timer = s.timer := rfl

@[simp] theorem State.mapGang_clock (k : Nat) (f : Gang → Gang) : (s.mapGang k f).clock = s.clock := rfl
@[simp] theorem State.mapGang_pace (k : Nat) (f : Gang → Gang) : (s.mapGang k f).pace = s.pace := rfl
@[simp] theorem State.mapGang_agenda (k : Nat) (f : Gang → Gang) : (s.mapGang k f).agenda = s.agenda := rfl
@[simp] theorem State.mapGang_free (k : Nat) (f : Gang → Gang) : (s.mapGang k f).free = s.free := rfl
@[simp] theorem State.mapGang_nextKey (k : Nat) (f : Gang → Gang) : (s.mapGang k f).nextKey = s.nextKey := rfl
@[simp] theorem State.mapGang_cur (k : Nat) (f : Gang → Gang) : (s.mapGang k f).cur = s.cur := rfl
@[simp] theorem State.mapGang_gangs (k : Nat) (f : Gang → Gang) : (s.mapGang k f).gangs = s.gangs.adjust k f := rfl
@[simp] theorem State.mapGang_crews (k : Nat) (f : Gang → Gang) : (s.mapGang k f).crews = s.crews := rfl
@[simp] theorem State.mapGang_ctxs (k : Nat) (f : Gang → Gang) : (s.mapGang k f).ctxs = s.ctxs := rfl
@[simp] theorem State.mapGang_tens (k : Nat) (f : Gang → Gang) : (s.mapGang k f).tens = s.tens := rfl
@[simp] theorem State.mapGang_launches (k : Nat) (f : Gang → Gang) : (s.mapGang k f).launches = s.launches := rfl
@[simp] theorem State.mapGang_mem (k : Nat) (f : Gang → Gang) : (s.mapGang k f).mem = s.mem := rfl
@[simp] theorem State.mapGang_fe (k : Nat) (f : Gang → Gang) : (s.mapGang k f).fe = s.fe := rfl
@[simp] theorem State.mapGang_tags (k : Nat) (f : Gang → Gang) : (s.mapGang k f).tags = s.tags := rfl
@[simp] theorem State.mapGang_poison (k : Nat) (f : Gang → Gang) : (s.mapGang k f).poison = s.poison := rfl
@[simp] theorem State.mapGang_ivClock (k : Nat) (f : Gang → Gang) : (s.mapGang k f).ivClock = s.ivClock := rfl
@[simp] theorem State.mapGang_cores (k : Nat) (f : Gang → Gang) : (s.mapGang k f).cores = s.cores := rfl
@[simp] theorem State.mapGang_dies (k : Nat) (f : Gang → Gang) : (s.mapGang k f).dies = s.dies := rfl
@[simp] theorem State.mapGang_cmds (k : Nat) (f : Gang → Gang) : (s.mapGang k f).cmds = s.cmds := rfl
@[simp] theorem State.mapGang_ports (k : Nat) (f : Gang → Gang) : (s.mapGang k f).ports = s.ports := rfl
@[simp] theorem State.mapGang_modCmds (k : Nat) (f : Gang → Gang) : (s.mapGang k f).modCmds = s.modCmds := rfl
@[simp] theorem State.mapGang_commits (k : Nat) (f : Gang → Gang) : (s.mapGang k f).commits = s.commits := rfl
@[simp] theorem State.mapGang_sends (k : Nat) (f : Gang → Gang) : (s.mapGang k f).sends = s.sends := rfl
@[simp] theorem State.mapGang_refusals (k : Nat) (f : Gang → Gang) : (s.mapGang k f).refusals = s.refusals := rfl
@[simp] theorem State.mapGang_modRanges (k : Nat) (f : Gang → Gang) : (s.mapGang k f).modRanges = s.modRanges := rfl
@[simp] theorem State.mapGang_pages (k : Nat) (f : Gang → Gang) : (s.mapGang k f).pages = s.pages := rfl
@[simp] theorem State.mapGang_pod (k : Nat) (f : Gang → Gang) : (s.mapGang k f).pod = s.pod := rfl
@[simp] theorem State.mapGang_host (k : Nat) (f : Gang → Gang) : (s.mapGang k f).host = s.host := rfl
@[simp] theorem State.mapGang_net (k : Nat) (f : Gang → Gang) : (s.mapGang k f).net = s.net := rfl
@[simp] theorem State.mapGang_trust (k : Nat) (f : Gang → Gang) : (s.mapGang k f).trust = s.trust := rfl
@[simp] theorem State.mapGang_power (k : Nat) (f : Gang → Gang) : (s.mapGang k f).power = s.power := rfl
@[simp] theorem State.mapGang_errors (k : Nat) (f : Gang → Gang) : (s.mapGang k f).errors = s.errors := rfl
@[simp] theorem State.mapGang_late (k : Nat) (f : Gang → Gang) : (s.mapGang k f).late = s.late := rfl
@[simp] theorem State.mapGang_passing (k : Nat) (f : Gang → Gang) : (s.mapGang k f).passing = s.passing := rfl
@[simp] theorem State.mapGang_records (k : Nat) (f : Gang → Gang) : (s.mapGang k f).records = s.records := rfl
@[simp] theorem State.mapGang_timer (k : Nat) (f : Gang → Gang) : (s.mapGang k f).timer = s.timer := rfl

@[simp] theorem State.mapCrew_clock (k : Nat) (f : Crew → Crew) : (s.mapCrew k f).clock = s.clock := rfl
@[simp] theorem State.mapCrew_pace (k : Nat) (f : Crew → Crew) : (s.mapCrew k f).pace = s.pace := rfl
@[simp] theorem State.mapCrew_agenda (k : Nat) (f : Crew → Crew) : (s.mapCrew k f).agenda = s.agenda := rfl
@[simp] theorem State.mapCrew_free (k : Nat) (f : Crew → Crew) : (s.mapCrew k f).free = s.free := rfl
@[simp] theorem State.mapCrew_nextKey (k : Nat) (f : Crew → Crew) : (s.mapCrew k f).nextKey = s.nextKey := rfl
@[simp] theorem State.mapCrew_cur (k : Nat) (f : Crew → Crew) : (s.mapCrew k f).cur = s.cur := rfl
@[simp] theorem State.mapCrew_gangs (k : Nat) (f : Crew → Crew) : (s.mapCrew k f).gangs = s.gangs := rfl
@[simp] theorem State.mapCrew_crews (k : Nat) (f : Crew → Crew) : (s.mapCrew k f).crews = s.crews.adjust k f := rfl
@[simp] theorem State.mapCrew_ctxs (k : Nat) (f : Crew → Crew) : (s.mapCrew k f).ctxs = s.ctxs := rfl
@[simp] theorem State.mapCrew_tens (k : Nat) (f : Crew → Crew) : (s.mapCrew k f).tens = s.tens := rfl
@[simp] theorem State.mapCrew_launches (k : Nat) (f : Crew → Crew) : (s.mapCrew k f).launches = s.launches := rfl
@[simp] theorem State.mapCrew_mem (k : Nat) (f : Crew → Crew) : (s.mapCrew k f).mem = s.mem := rfl
@[simp] theorem State.mapCrew_fe (k : Nat) (f : Crew → Crew) : (s.mapCrew k f).fe = s.fe := rfl
@[simp] theorem State.mapCrew_tags (k : Nat) (f : Crew → Crew) : (s.mapCrew k f).tags = s.tags := rfl
@[simp] theorem State.mapCrew_poison (k : Nat) (f : Crew → Crew) : (s.mapCrew k f).poison = s.poison := rfl
@[simp] theorem State.mapCrew_ivClock (k : Nat) (f : Crew → Crew) : (s.mapCrew k f).ivClock = s.ivClock := rfl
@[simp] theorem State.mapCrew_cores (k : Nat) (f : Crew → Crew) : (s.mapCrew k f).cores = s.cores := rfl
@[simp] theorem State.mapCrew_dies (k : Nat) (f : Crew → Crew) : (s.mapCrew k f).dies = s.dies := rfl
@[simp] theorem State.mapCrew_cmds (k : Nat) (f : Crew → Crew) : (s.mapCrew k f).cmds = s.cmds := rfl
@[simp] theorem State.mapCrew_ports (k : Nat) (f : Crew → Crew) : (s.mapCrew k f).ports = s.ports := rfl
@[simp] theorem State.mapCrew_modCmds (k : Nat) (f : Crew → Crew) : (s.mapCrew k f).modCmds = s.modCmds := rfl
@[simp] theorem State.mapCrew_commits (k : Nat) (f : Crew → Crew) : (s.mapCrew k f).commits = s.commits := rfl
@[simp] theorem State.mapCrew_sends (k : Nat) (f : Crew → Crew) : (s.mapCrew k f).sends = s.sends := rfl
@[simp] theorem State.mapCrew_refusals (k : Nat) (f : Crew → Crew) : (s.mapCrew k f).refusals = s.refusals := rfl
@[simp] theorem State.mapCrew_modRanges (k : Nat) (f : Crew → Crew) : (s.mapCrew k f).modRanges = s.modRanges := rfl
@[simp] theorem State.mapCrew_pages (k : Nat) (f : Crew → Crew) : (s.mapCrew k f).pages = s.pages := rfl
@[simp] theorem State.mapCrew_pod (k : Nat) (f : Crew → Crew) : (s.mapCrew k f).pod = s.pod := rfl
@[simp] theorem State.mapCrew_host (k : Nat) (f : Crew → Crew) : (s.mapCrew k f).host = s.host := rfl
@[simp] theorem State.mapCrew_net (k : Nat) (f : Crew → Crew) : (s.mapCrew k f).net = s.net := rfl
@[simp] theorem State.mapCrew_trust (k : Nat) (f : Crew → Crew) : (s.mapCrew k f).trust = s.trust := rfl
@[simp] theorem State.mapCrew_power (k : Nat) (f : Crew → Crew) : (s.mapCrew k f).power = s.power := rfl
@[simp] theorem State.mapCrew_errors (k : Nat) (f : Crew → Crew) : (s.mapCrew k f).errors = s.errors := rfl
@[simp] theorem State.mapCrew_late (k : Nat) (f : Crew → Crew) : (s.mapCrew k f).late = s.late := rfl
@[simp] theorem State.mapCrew_passing (k : Nat) (f : Crew → Crew) : (s.mapCrew k f).passing = s.passing := rfl
@[simp] theorem State.mapCrew_records (k : Nat) (f : Crew → Crew) : (s.mapCrew k f).records = s.records := rfl
@[simp] theorem State.mapCrew_timer (k : Nat) (f : Crew → Crew) : (s.mapCrew k f).timer = s.timer := rfl

@[simp] theorem State.mapCtx_clock (k : Nat) (f : Context → Context) : (s.mapCtx k f).clock = s.clock := rfl
@[simp] theorem State.mapCtx_pace (k : Nat) (f : Context → Context) : (s.mapCtx k f).pace = s.pace := rfl
@[simp] theorem State.mapCtx_agenda (k : Nat) (f : Context → Context) : (s.mapCtx k f).agenda = s.agenda := rfl
@[simp] theorem State.mapCtx_free (k : Nat) (f : Context → Context) : (s.mapCtx k f).free = s.free := rfl
@[simp] theorem State.mapCtx_nextKey (k : Nat) (f : Context → Context) : (s.mapCtx k f).nextKey = s.nextKey := rfl
@[simp] theorem State.mapCtx_cur (k : Nat) (f : Context → Context) : (s.mapCtx k f).cur = s.cur := rfl
@[simp] theorem State.mapCtx_gangs (k : Nat) (f : Context → Context) : (s.mapCtx k f).gangs = s.gangs := rfl
@[simp] theorem State.mapCtx_crews (k : Nat) (f : Context → Context) : (s.mapCtx k f).crews = s.crews := rfl
@[simp] theorem State.mapCtx_ctxs (k : Nat) (f : Context → Context) : (s.mapCtx k f).ctxs = s.ctxs.adjust k f := rfl
@[simp] theorem State.mapCtx_tens (k : Nat) (f : Context → Context) : (s.mapCtx k f).tens = s.tens := rfl
@[simp] theorem State.mapCtx_launches (k : Nat) (f : Context → Context) : (s.mapCtx k f).launches = s.launches := rfl
@[simp] theorem State.mapCtx_mem (k : Nat) (f : Context → Context) : (s.mapCtx k f).mem = s.mem := rfl
@[simp] theorem State.mapCtx_fe (k : Nat) (f : Context → Context) : (s.mapCtx k f).fe = s.fe := rfl
@[simp] theorem State.mapCtx_tags (k : Nat) (f : Context → Context) : (s.mapCtx k f).tags = s.tags := rfl
@[simp] theorem State.mapCtx_poison (k : Nat) (f : Context → Context) : (s.mapCtx k f).poison = s.poison := rfl
@[simp] theorem State.mapCtx_ivClock (k : Nat) (f : Context → Context) : (s.mapCtx k f).ivClock = s.ivClock := rfl
@[simp] theorem State.mapCtx_cores (k : Nat) (f : Context → Context) : (s.mapCtx k f).cores = s.cores := rfl
@[simp] theorem State.mapCtx_dies (k : Nat) (f : Context → Context) : (s.mapCtx k f).dies = s.dies := rfl
@[simp] theorem State.mapCtx_cmds (k : Nat) (f : Context → Context) : (s.mapCtx k f).cmds = s.cmds := rfl
@[simp] theorem State.mapCtx_ports (k : Nat) (f : Context → Context) : (s.mapCtx k f).ports = s.ports := rfl
@[simp] theorem State.mapCtx_modCmds (k : Nat) (f : Context → Context) : (s.mapCtx k f).modCmds = s.modCmds := rfl
@[simp] theorem State.mapCtx_commits (k : Nat) (f : Context → Context) : (s.mapCtx k f).commits = s.commits := rfl
@[simp] theorem State.mapCtx_sends (k : Nat) (f : Context → Context) : (s.mapCtx k f).sends = s.sends := rfl
@[simp] theorem State.mapCtx_refusals (k : Nat) (f : Context → Context) : (s.mapCtx k f).refusals = s.refusals := rfl
@[simp] theorem State.mapCtx_modRanges (k : Nat) (f : Context → Context) : (s.mapCtx k f).modRanges = s.modRanges := rfl
@[simp] theorem State.mapCtx_pages (k : Nat) (f : Context → Context) : (s.mapCtx k f).pages = s.pages := rfl
@[simp] theorem State.mapCtx_pod (k : Nat) (f : Context → Context) : (s.mapCtx k f).pod = s.pod := rfl
@[simp] theorem State.mapCtx_host (k : Nat) (f : Context → Context) : (s.mapCtx k f).host = s.host := rfl
@[simp] theorem State.mapCtx_net (k : Nat) (f : Context → Context) : (s.mapCtx k f).net = s.net := rfl
@[simp] theorem State.mapCtx_trust (k : Nat) (f : Context → Context) : (s.mapCtx k f).trust = s.trust := rfl
@[simp] theorem State.mapCtx_power (k : Nat) (f : Context → Context) : (s.mapCtx k f).power = s.power := rfl
@[simp] theorem State.mapCtx_errors (k : Nat) (f : Context → Context) : (s.mapCtx k f).errors = s.errors := rfl
@[simp] theorem State.mapCtx_late (k : Nat) (f : Context → Context) : (s.mapCtx k f).late = s.late := rfl
@[simp] theorem State.mapCtx_passing (k : Nat) (f : Context → Context) : (s.mapCtx k f).passing = s.passing := rfl
@[simp] theorem State.mapCtx_records (k : Nat) (f : Context → Context) : (s.mapCtx k f).records = s.records := rfl
@[simp] theorem State.mapCtx_timer (k : Nat) (f : Context → Context) : (s.mapCtx k f).timer = s.timer := rfl

@[simp] theorem State.mapTen_clock (k : Nat) (f : Tenancy → Tenancy) : (s.mapTen k f).clock = s.clock := rfl
@[simp] theorem State.mapTen_pace (k : Nat) (f : Tenancy → Tenancy) : (s.mapTen k f).pace = s.pace := rfl
@[simp] theorem State.mapTen_agenda (k : Nat) (f : Tenancy → Tenancy) : (s.mapTen k f).agenda = s.agenda := rfl
@[simp] theorem State.mapTen_free (k : Nat) (f : Tenancy → Tenancy) : (s.mapTen k f).free = s.free := rfl
@[simp] theorem State.mapTen_nextKey (k : Nat) (f : Tenancy → Tenancy) : (s.mapTen k f).nextKey = s.nextKey := rfl
@[simp] theorem State.mapTen_cur (k : Nat) (f : Tenancy → Tenancy) : (s.mapTen k f).cur = s.cur := rfl
@[simp] theorem State.mapTen_gangs (k : Nat) (f : Tenancy → Tenancy) : (s.mapTen k f).gangs = s.gangs := rfl
@[simp] theorem State.mapTen_crews (k : Nat) (f : Tenancy → Tenancy) : (s.mapTen k f).crews = s.crews := rfl
@[simp] theorem State.mapTen_ctxs (k : Nat) (f : Tenancy → Tenancy) : (s.mapTen k f).ctxs = s.ctxs := rfl
@[simp] theorem State.mapTen_tens (k : Nat) (f : Tenancy → Tenancy) : (s.mapTen k f).tens = s.tens.adjust k f := rfl
@[simp] theorem State.mapTen_launches (k : Nat) (f : Tenancy → Tenancy) : (s.mapTen k f).launches = s.launches := rfl
@[simp] theorem State.mapTen_mem (k : Nat) (f : Tenancy → Tenancy) : (s.mapTen k f).mem = s.mem := rfl
@[simp] theorem State.mapTen_fe (k : Nat) (f : Tenancy → Tenancy) : (s.mapTen k f).fe = s.fe := rfl
@[simp] theorem State.mapTen_tags (k : Nat) (f : Tenancy → Tenancy) : (s.mapTen k f).tags = s.tags := rfl
@[simp] theorem State.mapTen_poison (k : Nat) (f : Tenancy → Tenancy) : (s.mapTen k f).poison = s.poison := rfl
@[simp] theorem State.mapTen_ivClock (k : Nat) (f : Tenancy → Tenancy) : (s.mapTen k f).ivClock = s.ivClock := rfl
@[simp] theorem State.mapTen_cores (k : Nat) (f : Tenancy → Tenancy) : (s.mapTen k f).cores = s.cores := rfl
@[simp] theorem State.mapTen_dies (k : Nat) (f : Tenancy → Tenancy) : (s.mapTen k f).dies = s.dies := rfl
@[simp] theorem State.mapTen_cmds (k : Nat) (f : Tenancy → Tenancy) : (s.mapTen k f).cmds = s.cmds := rfl
@[simp] theorem State.mapTen_ports (k : Nat) (f : Tenancy → Tenancy) : (s.mapTen k f).ports = s.ports := rfl
@[simp] theorem State.mapTen_modCmds (k : Nat) (f : Tenancy → Tenancy) : (s.mapTen k f).modCmds = s.modCmds := rfl
@[simp] theorem State.mapTen_commits (k : Nat) (f : Tenancy → Tenancy) : (s.mapTen k f).commits = s.commits := rfl
@[simp] theorem State.mapTen_sends (k : Nat) (f : Tenancy → Tenancy) : (s.mapTen k f).sends = s.sends := rfl
@[simp] theorem State.mapTen_refusals (k : Nat) (f : Tenancy → Tenancy) : (s.mapTen k f).refusals = s.refusals := rfl
@[simp] theorem State.mapTen_modRanges (k : Nat) (f : Tenancy → Tenancy) : (s.mapTen k f).modRanges = s.modRanges := rfl
@[simp] theorem State.mapTen_pages (k : Nat) (f : Tenancy → Tenancy) : (s.mapTen k f).pages = s.pages := rfl
@[simp] theorem State.mapTen_pod (k : Nat) (f : Tenancy → Tenancy) : (s.mapTen k f).pod = s.pod := rfl
@[simp] theorem State.mapTen_host (k : Nat) (f : Tenancy → Tenancy) : (s.mapTen k f).host = s.host := rfl
@[simp] theorem State.mapTen_net (k : Nat) (f : Tenancy → Tenancy) : (s.mapTen k f).net = s.net := rfl
@[simp] theorem State.mapTen_trust (k : Nat) (f : Tenancy → Tenancy) : (s.mapTen k f).trust = s.trust := rfl
@[simp] theorem State.mapTen_power (k : Nat) (f : Tenancy → Tenancy) : (s.mapTen k f).power = s.power := rfl
@[simp] theorem State.mapTen_errors (k : Nat) (f : Tenancy → Tenancy) : (s.mapTen k f).errors = s.errors := rfl
@[simp] theorem State.mapTen_late (k : Nat) (f : Tenancy → Tenancy) : (s.mapTen k f).late = s.late := rfl
@[simp] theorem State.mapTen_passing (k : Nat) (f : Tenancy → Tenancy) : (s.mapTen k f).passing = s.passing := rfl
@[simp] theorem State.mapTen_records (k : Nat) (f : Tenancy → Tenancy) : (s.mapTen k f).records = s.records := rfl
@[simp] theorem State.mapTen_timer (k : Nat) (f : Tenancy → Tenancy) : (s.mapTen k f).timer = s.timer := rfl

@[simp] theorem State.mapCore_clock (k : Nat) (f : Core → Core) : (s.mapCore k f).clock = s.clock := rfl
@[simp] theorem State.mapCore_pace (k : Nat) (f : Core → Core) : (s.mapCore k f).pace = s.pace := rfl
@[simp] theorem State.mapCore_agenda (k : Nat) (f : Core → Core) : (s.mapCore k f).agenda = s.agenda := rfl
@[simp] theorem State.mapCore_free (k : Nat) (f : Core → Core) : (s.mapCore k f).free = s.free := rfl
@[simp] theorem State.mapCore_nextKey (k : Nat) (f : Core → Core) : (s.mapCore k f).nextKey = s.nextKey := rfl
@[simp] theorem State.mapCore_cur (k : Nat) (f : Core → Core) : (s.mapCore k f).cur = s.cur := rfl
@[simp] theorem State.mapCore_gangs (k : Nat) (f : Core → Core) : (s.mapCore k f).gangs = s.gangs := rfl
@[simp] theorem State.mapCore_crews (k : Nat) (f : Core → Core) : (s.mapCore k f).crews = s.crews := rfl
@[simp] theorem State.mapCore_ctxs (k : Nat) (f : Core → Core) : (s.mapCore k f).ctxs = s.ctxs := rfl
@[simp] theorem State.mapCore_tens (k : Nat) (f : Core → Core) : (s.mapCore k f).tens = s.tens := rfl
@[simp] theorem State.mapCore_launches (k : Nat) (f : Core → Core) : (s.mapCore k f).launches = s.launches := rfl
@[simp] theorem State.mapCore_mem (k : Nat) (f : Core → Core) : (s.mapCore k f).mem = s.mem := rfl
@[simp] theorem State.mapCore_fe (k : Nat) (f : Core → Core) : (s.mapCore k f).fe = s.fe := rfl
@[simp] theorem State.mapCore_tags (k : Nat) (f : Core → Core) : (s.mapCore k f).tags = s.tags := rfl
@[simp] theorem State.mapCore_poison (k : Nat) (f : Core → Core) : (s.mapCore k f).poison = s.poison := rfl
@[simp] theorem State.mapCore_ivClock (k : Nat) (f : Core → Core) : (s.mapCore k f).ivClock = s.ivClock := rfl
@[simp] theorem State.mapCore_cores (k : Nat) (f : Core → Core) : (s.mapCore k f).cores = s.cores.set Core.reset k (f (s.core k)) := rfl
@[simp] theorem State.mapCore_dies (k : Nat) (f : Core → Core) : (s.mapCore k f).dies = s.dies := rfl
@[simp] theorem State.mapCore_cmds (k : Nat) (f : Core → Core) : (s.mapCore k f).cmds = s.cmds := rfl
@[simp] theorem State.mapCore_ports (k : Nat) (f : Core → Core) : (s.mapCore k f).ports = s.ports := rfl
@[simp] theorem State.mapCore_modCmds (k : Nat) (f : Core → Core) : (s.mapCore k f).modCmds = s.modCmds := rfl
@[simp] theorem State.mapCore_commits (k : Nat) (f : Core → Core) : (s.mapCore k f).commits = s.commits := rfl
@[simp] theorem State.mapCore_sends (k : Nat) (f : Core → Core) : (s.mapCore k f).sends = s.sends := rfl
@[simp] theorem State.mapCore_refusals (k : Nat) (f : Core → Core) : (s.mapCore k f).refusals = s.refusals := rfl
@[simp] theorem State.mapCore_modRanges (k : Nat) (f : Core → Core) : (s.mapCore k f).modRanges = s.modRanges := rfl
@[simp] theorem State.mapCore_pages (k : Nat) (f : Core → Core) : (s.mapCore k f).pages = s.pages := rfl
@[simp] theorem State.mapCore_pod (k : Nat) (f : Core → Core) : (s.mapCore k f).pod = s.pod := rfl
@[simp] theorem State.mapCore_host (k : Nat) (f : Core → Core) : (s.mapCore k f).host = s.host := rfl
@[simp] theorem State.mapCore_net (k : Nat) (f : Core → Core) : (s.mapCore k f).net = s.net := rfl
@[simp] theorem State.mapCore_trust (k : Nat) (f : Core → Core) : (s.mapCore k f).trust = s.trust := rfl
@[simp] theorem State.mapCore_power (k : Nat) (f : Core → Core) : (s.mapCore k f).power = s.power := rfl
@[simp] theorem State.mapCore_errors (k : Nat) (f : Core → Core) : (s.mapCore k f).errors = s.errors := rfl
@[simp] theorem State.mapCore_late (k : Nat) (f : Core → Core) : (s.mapCore k f).late = s.late := rfl
@[simp] theorem State.mapCore_passing (k : Nat) (f : Core → Core) : (s.mapCore k f).passing = s.passing := rfl
@[simp] theorem State.mapCore_records (k : Nat) (f : Core → Core) : (s.mapCore k f).records = s.records := rfl
@[simp] theorem State.mapCore_timer (k : Nat) (f : Core → Core) : (s.mapCore k f).timer = s.timer := rfl

@[simp] theorem State.mapDie_clock (k : Nat) (f : Die → Die) : (s.mapDie k f).clock = s.clock := rfl
@[simp] theorem State.mapDie_pace (k : Nat) (f : Die → Die) : (s.mapDie k f).pace = s.pace := rfl
@[simp] theorem State.mapDie_agenda (k : Nat) (f : Die → Die) : (s.mapDie k f).agenda = s.agenda := rfl
@[simp] theorem State.mapDie_free (k : Nat) (f : Die → Die) : (s.mapDie k f).free = s.free := rfl
@[simp] theorem State.mapDie_nextKey (k : Nat) (f : Die → Die) : (s.mapDie k f).nextKey = s.nextKey := rfl
@[simp] theorem State.mapDie_cur (k : Nat) (f : Die → Die) : (s.mapDie k f).cur = s.cur := rfl
@[simp] theorem State.mapDie_gangs (k : Nat) (f : Die → Die) : (s.mapDie k f).gangs = s.gangs := rfl
@[simp] theorem State.mapDie_crews (k : Nat) (f : Die → Die) : (s.mapDie k f).crews = s.crews := rfl
@[simp] theorem State.mapDie_ctxs (k : Nat) (f : Die → Die) : (s.mapDie k f).ctxs = s.ctxs := rfl
@[simp] theorem State.mapDie_tens (k : Nat) (f : Die → Die) : (s.mapDie k f).tens = s.tens := rfl
@[simp] theorem State.mapDie_launches (k : Nat) (f : Die → Die) : (s.mapDie k f).launches = s.launches := rfl
@[simp] theorem State.mapDie_mem (k : Nat) (f : Die → Die) : (s.mapDie k f).mem = s.mem := rfl
@[simp] theorem State.mapDie_fe (k : Nat) (f : Die → Die) : (s.mapDie k f).fe = s.fe := rfl
@[simp] theorem State.mapDie_tags (k : Nat) (f : Die → Die) : (s.mapDie k f).tags = s.tags := rfl
@[simp] theorem State.mapDie_poison (k : Nat) (f : Die → Die) : (s.mapDie k f).poison = s.poison := rfl
@[simp] theorem State.mapDie_ivClock (k : Nat) (f : Die → Die) : (s.mapDie k f).ivClock = s.ivClock := rfl
@[simp] theorem State.mapDie_cores (k : Nat) (f : Die → Die) : (s.mapDie k f).cores = s.cores := rfl
@[simp] theorem State.mapDie_dies (k : Nat) (f : Die → Die) : (s.mapDie k f).dies = s.dies.set Die.reset k (f (s.die k)) := rfl
@[simp] theorem State.mapDie_cmds (k : Nat) (f : Die → Die) : (s.mapDie k f).cmds = s.cmds := rfl
@[simp] theorem State.mapDie_ports (k : Nat) (f : Die → Die) : (s.mapDie k f).ports = s.ports := rfl
@[simp] theorem State.mapDie_modCmds (k : Nat) (f : Die → Die) : (s.mapDie k f).modCmds = s.modCmds := rfl
@[simp] theorem State.mapDie_commits (k : Nat) (f : Die → Die) : (s.mapDie k f).commits = s.commits := rfl
@[simp] theorem State.mapDie_sends (k : Nat) (f : Die → Die) : (s.mapDie k f).sends = s.sends := rfl
@[simp] theorem State.mapDie_refusals (k : Nat) (f : Die → Die) : (s.mapDie k f).refusals = s.refusals := rfl
@[simp] theorem State.mapDie_modRanges (k : Nat) (f : Die → Die) : (s.mapDie k f).modRanges = s.modRanges := rfl
@[simp] theorem State.mapDie_pages (k : Nat) (f : Die → Die) : (s.mapDie k f).pages = s.pages := rfl
@[simp] theorem State.mapDie_pod (k : Nat) (f : Die → Die) : (s.mapDie k f).pod = s.pod := rfl
@[simp] theorem State.mapDie_host (k : Nat) (f : Die → Die) : (s.mapDie k f).host = s.host := rfl
@[simp] theorem State.mapDie_net (k : Nat) (f : Die → Die) : (s.mapDie k f).net = s.net := rfl
@[simp] theorem State.mapDie_trust (k : Nat) (f : Die → Die) : (s.mapDie k f).trust = s.trust := rfl
@[simp] theorem State.mapDie_power (k : Nat) (f : Die → Die) : (s.mapDie k f).power = s.power := rfl
@[simp] theorem State.mapDie_errors (k : Nat) (f : Die → Die) : (s.mapDie k f).errors = s.errors := rfl
@[simp] theorem State.mapDie_late (k : Nat) (f : Die → Die) : (s.mapDie k f).late = s.late := rfl
@[simp] theorem State.mapDie_passing (k : Nat) (f : Die → Die) : (s.mapDie k f).passing = s.passing := rfl
@[simp] theorem State.mapDie_records (k : Nat) (f : Die → Die) : (s.mapDie k f).records = s.records := rfl
@[simp] theorem State.mapDie_timer (k : Nat) (f : Die → Die) : (s.mapDie k f).timer = s.timer := rfl

@[simp] theorem State.mapPort_clock (k : Nat) (f : Port → Port) : (s.mapPort k f).clock = s.clock := rfl
@[simp] theorem State.mapPort_pace (k : Nat) (f : Port → Port) : (s.mapPort k f).pace = s.pace := rfl
@[simp] theorem State.mapPort_agenda (k : Nat) (f : Port → Port) : (s.mapPort k f).agenda = s.agenda := rfl
@[simp] theorem State.mapPort_free (k : Nat) (f : Port → Port) : (s.mapPort k f).free = s.free := rfl
@[simp] theorem State.mapPort_nextKey (k : Nat) (f : Port → Port) : (s.mapPort k f).nextKey = s.nextKey := rfl
@[simp] theorem State.mapPort_cur (k : Nat) (f : Port → Port) : (s.mapPort k f).cur = s.cur := rfl
@[simp] theorem State.mapPort_gangs (k : Nat) (f : Port → Port) : (s.mapPort k f).gangs = s.gangs := rfl
@[simp] theorem State.mapPort_crews (k : Nat) (f : Port → Port) : (s.mapPort k f).crews = s.crews := rfl
@[simp] theorem State.mapPort_ctxs (k : Nat) (f : Port → Port) : (s.mapPort k f).ctxs = s.ctxs := rfl
@[simp] theorem State.mapPort_tens (k : Nat) (f : Port → Port) : (s.mapPort k f).tens = s.tens := rfl
@[simp] theorem State.mapPort_launches (k : Nat) (f : Port → Port) : (s.mapPort k f).launches = s.launches := rfl
@[simp] theorem State.mapPort_mem (k : Nat) (f : Port → Port) : (s.mapPort k f).mem = s.mem := rfl
@[simp] theorem State.mapPort_fe (k : Nat) (f : Port → Port) : (s.mapPort k f).fe = s.fe := rfl
@[simp] theorem State.mapPort_tags (k : Nat) (f : Port → Port) : (s.mapPort k f).tags = s.tags := rfl
@[simp] theorem State.mapPort_poison (k : Nat) (f : Port → Port) : (s.mapPort k f).poison = s.poison := rfl
@[simp] theorem State.mapPort_ivClock (k : Nat) (f : Port → Port) : (s.mapPort k f).ivClock = s.ivClock := rfl
@[simp] theorem State.mapPort_cores (k : Nat) (f : Port → Port) : (s.mapPort k f).cores = s.cores := rfl
@[simp] theorem State.mapPort_dies (k : Nat) (f : Port → Port) : (s.mapPort k f).dies = s.dies := rfl
@[simp] theorem State.mapPort_cmds (k : Nat) (f : Port → Port) : (s.mapPort k f).cmds = s.cmds := rfl
@[simp] theorem State.mapPort_ports (k : Nat) (f : Port → Port) : (s.mapPort k f).ports = s.ports.set Port.reset k (f (s.port k)) := rfl
@[simp] theorem State.mapPort_modCmds (k : Nat) (f : Port → Port) : (s.mapPort k f).modCmds = s.modCmds := rfl
@[simp] theorem State.mapPort_commits (k : Nat) (f : Port → Port) : (s.mapPort k f).commits = s.commits := rfl
@[simp] theorem State.mapPort_sends (k : Nat) (f : Port → Port) : (s.mapPort k f).sends = s.sends := rfl
@[simp] theorem State.mapPort_refusals (k : Nat) (f : Port → Port) : (s.mapPort k f).refusals = s.refusals := rfl
@[simp] theorem State.mapPort_modRanges (k : Nat) (f : Port → Port) : (s.mapPort k f).modRanges = s.modRanges := rfl
@[simp] theorem State.mapPort_pages (k : Nat) (f : Port → Port) : (s.mapPort k f).pages = s.pages := rfl
@[simp] theorem State.mapPort_pod (k : Nat) (f : Port → Port) : (s.mapPort k f).pod = s.pod := rfl
@[simp] theorem State.mapPort_host (k : Nat) (f : Port → Port) : (s.mapPort k f).host = s.host := rfl
@[simp] theorem State.mapPort_net (k : Nat) (f : Port → Port) : (s.mapPort k f).net = s.net := rfl
@[simp] theorem State.mapPort_trust (k : Nat) (f : Port → Port) : (s.mapPort k f).trust = s.trust := rfl
@[simp] theorem State.mapPort_power (k : Nat) (f : Port → Port) : (s.mapPort k f).power = s.power := rfl
@[simp] theorem State.mapPort_errors (k : Nat) (f : Port → Port) : (s.mapPort k f).errors = s.errors := rfl
@[simp] theorem State.mapPort_late (k : Nat) (f : Port → Port) : (s.mapPort k f).late = s.late := rfl
@[simp] theorem State.mapPort_passing (k : Nat) (f : Port → Port) : (s.mapPort k f).passing = s.passing := rfl
@[simp] theorem State.mapPort_records (k : Nat) (f : Port → Port) : (s.mapPort k f).records = s.records := rfl
@[simp] theorem State.mapPort_timer (k : Nat) (f : Port → Port) : (s.mapPort k f).timer = s.timer := rfl

@[simp] theorem State.mapTrust_clock (f : Trust → Trust) : (s.mapTrust f).clock = s.clock := rfl
@[simp] theorem State.mapTrust_pace (f : Trust → Trust) : (s.mapTrust f).pace = s.pace := rfl
@[simp] theorem State.mapTrust_agenda (f : Trust → Trust) : (s.mapTrust f).agenda = s.agenda := rfl
@[simp] theorem State.mapTrust_free (f : Trust → Trust) : (s.mapTrust f).free = s.free := rfl
@[simp] theorem State.mapTrust_nextKey (f : Trust → Trust) : (s.mapTrust f).nextKey = s.nextKey := rfl
@[simp] theorem State.mapTrust_cur (f : Trust → Trust) : (s.mapTrust f).cur = s.cur := rfl
@[simp] theorem State.mapTrust_gangs (f : Trust → Trust) : (s.mapTrust f).gangs = s.gangs := rfl
@[simp] theorem State.mapTrust_crews (f : Trust → Trust) : (s.mapTrust f).crews = s.crews := rfl
@[simp] theorem State.mapTrust_ctxs (f : Trust → Trust) : (s.mapTrust f).ctxs = s.ctxs := rfl
@[simp] theorem State.mapTrust_tens (f : Trust → Trust) : (s.mapTrust f).tens = s.tens := rfl
@[simp] theorem State.mapTrust_launches (f : Trust → Trust) : (s.mapTrust f).launches = s.launches := rfl
@[simp] theorem State.mapTrust_mem (f : Trust → Trust) : (s.mapTrust f).mem = s.mem := rfl
@[simp] theorem State.mapTrust_fe (f : Trust → Trust) : (s.mapTrust f).fe = s.fe := rfl
@[simp] theorem State.mapTrust_tags (f : Trust → Trust) : (s.mapTrust f).tags = s.tags := rfl
@[simp] theorem State.mapTrust_poison (f : Trust → Trust) : (s.mapTrust f).poison = s.poison := rfl
@[simp] theorem State.mapTrust_ivClock (f : Trust → Trust) : (s.mapTrust f).ivClock = s.ivClock := rfl
@[simp] theorem State.mapTrust_cores (f : Trust → Trust) : (s.mapTrust f).cores = s.cores := rfl
@[simp] theorem State.mapTrust_dies (f : Trust → Trust) : (s.mapTrust f).dies = s.dies := rfl
@[simp] theorem State.mapTrust_cmds (f : Trust → Trust) : (s.mapTrust f).cmds = s.cmds := rfl
@[simp] theorem State.mapTrust_ports (f : Trust → Trust) : (s.mapTrust f).ports = s.ports := rfl
@[simp] theorem State.mapTrust_modCmds (f : Trust → Trust) : (s.mapTrust f).modCmds = s.modCmds := rfl
@[simp] theorem State.mapTrust_commits (f : Trust → Trust) : (s.mapTrust f).commits = s.commits := rfl
@[simp] theorem State.mapTrust_sends (f : Trust → Trust) : (s.mapTrust f).sends = s.sends := rfl
@[simp] theorem State.mapTrust_refusals (f : Trust → Trust) : (s.mapTrust f).refusals = s.refusals := rfl
@[simp] theorem State.mapTrust_modRanges (f : Trust → Trust) : (s.mapTrust f).modRanges = s.modRanges := rfl
@[simp] theorem State.mapTrust_pages (f : Trust → Trust) : (s.mapTrust f).pages = s.pages := rfl
@[simp] theorem State.mapTrust_pod (f : Trust → Trust) : (s.mapTrust f).pod = s.pod := rfl
@[simp] theorem State.mapTrust_host (f : Trust → Trust) : (s.mapTrust f).host = s.host := rfl
@[simp] theorem State.mapTrust_net (f : Trust → Trust) : (s.mapTrust f).net = s.net := rfl
@[simp] theorem State.mapTrust_trust (f : Trust → Trust) : (s.mapTrust f).trust = f s.trust := rfl
@[simp] theorem State.mapTrust_power (f : Trust → Trust) : (s.mapTrust f).power = s.power := rfl
@[simp] theorem State.mapTrust_errors (f : Trust → Trust) : (s.mapTrust f).errors = s.errors := rfl
@[simp] theorem State.mapTrust_late (f : Trust → Trust) : (s.mapTrust f).late = s.late := rfl
@[simp] theorem State.mapTrust_passing (f : Trust → Trust) : (s.mapTrust f).passing = s.passing := rfl
@[simp] theorem State.mapTrust_records (f : Trust → Trust) : (s.mapTrust f).records = s.records := rfl
@[simp] theorem State.mapTrust_timer (f : Trust → Trust) : (s.mapTrust f).timer = s.timer := rfl

@[simp] theorem State.mapPod_clock (f : Pod → Pod) : (s.mapPod f).clock = s.clock := rfl
@[simp] theorem State.mapPod_pace (f : Pod → Pod) : (s.mapPod f).pace = s.pace := rfl
@[simp] theorem State.mapPod_agenda (f : Pod → Pod) : (s.mapPod f).agenda = s.agenda := rfl
@[simp] theorem State.mapPod_free (f : Pod → Pod) : (s.mapPod f).free = s.free := rfl
@[simp] theorem State.mapPod_nextKey (f : Pod → Pod) : (s.mapPod f).nextKey = s.nextKey := rfl
@[simp] theorem State.mapPod_cur (f : Pod → Pod) : (s.mapPod f).cur = s.cur := rfl
@[simp] theorem State.mapPod_gangs (f : Pod → Pod) : (s.mapPod f).gangs = s.gangs := rfl
@[simp] theorem State.mapPod_crews (f : Pod → Pod) : (s.mapPod f).crews = s.crews := rfl
@[simp] theorem State.mapPod_ctxs (f : Pod → Pod) : (s.mapPod f).ctxs = s.ctxs := rfl
@[simp] theorem State.mapPod_tens (f : Pod → Pod) : (s.mapPod f).tens = s.tens := rfl
@[simp] theorem State.mapPod_launches (f : Pod → Pod) : (s.mapPod f).launches = s.launches := rfl
@[simp] theorem State.mapPod_mem (f : Pod → Pod) : (s.mapPod f).mem = s.mem := rfl
@[simp] theorem State.mapPod_fe (f : Pod → Pod) : (s.mapPod f).fe = s.fe := rfl
@[simp] theorem State.mapPod_tags (f : Pod → Pod) : (s.mapPod f).tags = s.tags := rfl
@[simp] theorem State.mapPod_poison (f : Pod → Pod) : (s.mapPod f).poison = s.poison := rfl
@[simp] theorem State.mapPod_ivClock (f : Pod → Pod) : (s.mapPod f).ivClock = s.ivClock := rfl
@[simp] theorem State.mapPod_cores (f : Pod → Pod) : (s.mapPod f).cores = s.cores := rfl
@[simp] theorem State.mapPod_dies (f : Pod → Pod) : (s.mapPod f).dies = s.dies := rfl
@[simp] theorem State.mapPod_cmds (f : Pod → Pod) : (s.mapPod f).cmds = s.cmds := rfl
@[simp] theorem State.mapPod_ports (f : Pod → Pod) : (s.mapPod f).ports = s.ports := rfl
@[simp] theorem State.mapPod_modCmds (f : Pod → Pod) : (s.mapPod f).modCmds = s.modCmds := rfl
@[simp] theorem State.mapPod_commits (f : Pod → Pod) : (s.mapPod f).commits = s.commits := rfl
@[simp] theorem State.mapPod_sends (f : Pod → Pod) : (s.mapPod f).sends = s.sends := rfl
@[simp] theorem State.mapPod_refusals (f : Pod → Pod) : (s.mapPod f).refusals = s.refusals := rfl
@[simp] theorem State.mapPod_modRanges (f : Pod → Pod) : (s.mapPod f).modRanges = s.modRanges := rfl
@[simp] theorem State.mapPod_pages (f : Pod → Pod) : (s.mapPod f).pages = s.pages := rfl
@[simp] theorem State.mapPod_pod (f : Pod → Pod) : (s.mapPod f).pod = f s.pod := rfl
@[simp] theorem State.mapPod_host (f : Pod → Pod) : (s.mapPod f).host = s.host := rfl
@[simp] theorem State.mapPod_net (f : Pod → Pod) : (s.mapPod f).net = s.net := rfl
@[simp] theorem State.mapPod_trust (f : Pod → Pod) : (s.mapPod f).trust = s.trust := rfl
@[simp] theorem State.mapPod_power (f : Pod → Pod) : (s.mapPod f).power = s.power := rfl
@[simp] theorem State.mapPod_errors (f : Pod → Pod) : (s.mapPod f).errors = s.errors := rfl
@[simp] theorem State.mapPod_late (f : Pod → Pod) : (s.mapPod f).late = s.late := rfl
@[simp] theorem State.mapPod_passing (f : Pod → Pod) : (s.mapPod f).passing = s.passing := rfl
@[simp] theorem State.mapPod_records (f : Pod → Pod) : (s.mapPod f).records = s.records := rfl
@[simp] theorem State.mapPod_timer (f : Pod → Pod) : (s.mapPod f).timer = s.timer := rfl

@[simp] theorem State.report_clock (u k d : Nat) : (s.report u k d).clock = s.clock := rfl
@[simp] theorem State.report_pace (u k d : Nat) : (s.report u k d).pace = s.pace := rfl
@[simp] theorem State.report_agenda (u k d : Nat) : (s.report u k d).agenda = s.agenda := rfl
@[simp] theorem State.report_free (u k d : Nat) : (s.report u k d).free = s.free := rfl
@[simp] theorem State.report_nextKey (u k d : Nat) : (s.report u k d).nextKey = s.nextKey := rfl
@[simp] theorem State.report_cur (u k d : Nat) : (s.report u k d).cur = s.cur := rfl
@[simp] theorem State.report_gangs (u k d : Nat) : (s.report u k d).gangs = s.gangs := rfl
@[simp] theorem State.report_crews (u k d : Nat) : (s.report u k d).crews = s.crews := rfl
@[simp] theorem State.report_ctxs (u k d : Nat) : (s.report u k d).ctxs = s.ctxs := rfl
@[simp] theorem State.report_tens (u k d : Nat) : (s.report u k d).tens = s.tens := rfl
@[simp] theorem State.report_launches (u k d : Nat) : (s.report u k d).launches = s.launches := rfl
@[simp] theorem State.report_mem (u k d : Nat) : (s.report u k d).mem = s.mem := rfl
@[simp] theorem State.report_fe (u k d : Nat) : (s.report u k d).fe = s.fe := rfl
@[simp] theorem State.report_tags (u k d : Nat) : (s.report u k d).tags = s.tags := rfl
@[simp] theorem State.report_poison (u k d : Nat) : (s.report u k d).poison = s.poison := rfl
@[simp] theorem State.report_ivClock (u k d : Nat) : (s.report u k d).ivClock = s.ivClock := rfl
@[simp] theorem State.report_cores (u k d : Nat) : (s.report u k d).cores = s.cores := rfl
@[simp] theorem State.report_dies (u k d : Nat) : (s.report u k d).dies = s.dies := rfl
@[simp] theorem State.report_cmds (u k d : Nat) : (s.report u k d).cmds = s.cmds := rfl
@[simp] theorem State.report_ports (u k d : Nat) : (s.report u k d).ports = s.ports := rfl
@[simp] theorem State.report_modCmds (u k d : Nat) : (s.report u k d).modCmds = s.modCmds := rfl
@[simp] theorem State.report_commits (u k d : Nat) : (s.report u k d).commits = s.commits := rfl
@[simp] theorem State.report_sends (u k d : Nat) : (s.report u k d).sends = s.sends := rfl
@[simp] theorem State.report_refusals (u k d : Nat) : (s.report u k d).refusals = s.refusals := rfl
@[simp] theorem State.report_modRanges (u k d : Nat) : (s.report u k d).modRanges = s.modRanges := rfl
@[simp] theorem State.report_pages (u k d : Nat) : (s.report u k d).pages = s.pages := rfl
@[simp] theorem State.report_pod (u k d : Nat) : (s.report u k d).pod = s.pod := rfl
@[simp] theorem State.report_host (u k d : Nat) : (s.report u k d).host = s.host := rfl
@[simp] theorem State.report_net (u k d : Nat) : (s.report u k d).net = s.net := rfl
@[simp] theorem State.report_trust (u k d : Nat) : (s.report u k d).trust = s.trust := rfl
@[simp] theorem State.report_power (u k d : Nat) : (s.report u k d).power = s.power := rfl
@[simp] theorem State.report_errors (u k d : Nat) : (s.report u k d).errors = s.errors ++ [⟨u, k, d⟩] := rfl
@[simp] theorem State.report_late (u k d : Nat) : (s.report u k d).late = s.late := rfl
@[simp] theorem State.report_passing (u k d : Nat) : (s.report u k d).passing = s.passing := rfl
@[simp] theorem State.report_records (u k d : Nat) : (s.report u k d).records = s.records := rfl
@[simp] theorem State.report_timer (u k d : Nat) : (s.report u k d).timer = s.timer := rfl

@[simp] theorem State.store_clock (a : Nat) (b : List Byte) : (s.store a b).clock = s.clock := rfl
@[simp] theorem State.store_pace (a : Nat) (b : List Byte) : (s.store a b).pace = s.pace := rfl
@[simp] theorem State.store_agenda (a : Nat) (b : List Byte) : (s.store a b).agenda = s.agenda := rfl
@[simp] theorem State.store_free (a : Nat) (b : List Byte) : (s.store a b).free = s.free := rfl
@[simp] theorem State.store_nextKey (a : Nat) (b : List Byte) : (s.store a b).nextKey = s.nextKey := rfl
@[simp] theorem State.store_cur (a : Nat) (b : List Byte) : (s.store a b).cur = s.cur := rfl
@[simp] theorem State.store_gangs (a : Nat) (b : List Byte) : (s.store a b).gangs = s.gangs := rfl
@[simp] theorem State.store_crews (a : Nat) (b : List Byte) : (s.store a b).crews = s.crews := rfl
@[simp] theorem State.store_ctxs (a : Nat) (b : List Byte) : (s.store a b).ctxs = s.ctxs := rfl
@[simp] theorem State.store_tens (a : Nat) (b : List Byte) : (s.store a b).tens = s.tens := rfl
@[simp] theorem State.store_launches (a : Nat) (b : List Byte) : (s.store a b).launches = s.launches := rfl
@[simp] theorem State.store_mem (a : Nat) (b : List Byte) : (s.store a b).mem = writeBytes s.mem a b := rfl
@[simp] theorem State.store_fe (a : Nat) (b : List Byte) : (s.store a b).fe = s.fe := rfl
@[simp] theorem State.store_tags (a : Nat) (b : List Byte) : (s.store a b).tags = s.tags := rfl
@[simp] theorem State.store_poison (a : Nat) (b : List Byte) : (s.store a b).poison = s.poison := rfl
@[simp] theorem State.store_ivClock (a : Nat) (b : List Byte) : (s.store a b).ivClock = s.ivClock := rfl
@[simp] theorem State.store_cores (a : Nat) (b : List Byte) : (s.store a b).cores = s.cores := rfl
@[simp] theorem State.store_dies (a : Nat) (b : List Byte) : (s.store a b).dies = s.dies := rfl
@[simp] theorem State.store_cmds (a : Nat) (b : List Byte) : (s.store a b).cmds = s.cmds := rfl
@[simp] theorem State.store_ports (a : Nat) (b : List Byte) : (s.store a b).ports = s.ports := rfl
@[simp] theorem State.store_modCmds (a : Nat) (b : List Byte) : (s.store a b).modCmds = s.modCmds := rfl
@[simp] theorem State.store_commits (a : Nat) (b : List Byte) : (s.store a b).commits = s.commits := rfl
@[simp] theorem State.store_sends (a : Nat) (b : List Byte) : (s.store a b).sends = s.sends := rfl
@[simp] theorem State.store_refusals (a : Nat) (b : List Byte) : (s.store a b).refusals = s.refusals := rfl
@[simp] theorem State.store_modRanges (a : Nat) (b : List Byte) : (s.store a b).modRanges = s.modRanges := rfl
@[simp] theorem State.store_pages (a : Nat) (b : List Byte) : (s.store a b).pages = s.pages := rfl
@[simp] theorem State.store_pod (a : Nat) (b : List Byte) : (s.store a b).pod = s.pod := rfl
@[simp] theorem State.store_host (a : Nat) (b : List Byte) : (s.store a b).host = s.host := rfl
@[simp] theorem State.store_net (a : Nat) (b : List Byte) : (s.store a b).net = s.net := rfl
@[simp] theorem State.store_trust (a : Nat) (b : List Byte) : (s.store a b).trust = s.trust := rfl
@[simp] theorem State.store_power (a : Nat) (b : List Byte) : (s.store a b).power = s.power := rfl
@[simp] theorem State.store_errors (a : Nat) (b : List Byte) : (s.store a b).errors = s.errors := rfl
@[simp] theorem State.store_late (a : Nat) (b : List Byte) : (s.store a b).late = s.late := rfl
@[simp] theorem State.store_passing (a : Nat) (b : List Byte) : (s.store a b).passing = s.passing := rfl
@[simp] theorem State.store_records (a : Nat) (b : List Byte) : (s.store a b).records = s.records := rfl
@[simp] theorem State.store_timer (a : Nat) (b : List Byte) : (s.store a b).timer = s.timer := rfl

@[simp] theorem State.clearCur_clock  : (s.clearCur).clock = s.clock := rfl
@[simp] theorem State.clearCur_pace  : (s.clearCur).pace = s.pace := rfl
@[simp] theorem State.clearCur_agenda  : (s.clearCur).agenda = s.agenda := rfl
@[simp] theorem State.clearCur_free  : (s.clearCur).free = s.free := rfl
@[simp] theorem State.clearCur_nextKey  : (s.clearCur).nextKey = s.nextKey := rfl
@[simp] theorem State.clearCur_cur  : (s.clearCur).cur = none := rfl
@[simp] theorem State.clearCur_gangs  : (s.clearCur).gangs = s.gangs := rfl
@[simp] theorem State.clearCur_crews  : (s.clearCur).crews = s.crews := rfl
@[simp] theorem State.clearCur_ctxs  : (s.clearCur).ctxs = s.ctxs := rfl
@[simp] theorem State.clearCur_tens  : (s.clearCur).tens = s.tens := rfl
@[simp] theorem State.clearCur_launches  : (s.clearCur).launches = s.launches := rfl
@[simp] theorem State.clearCur_mem  : (s.clearCur).mem = s.mem := rfl
@[simp] theorem State.clearCur_fe  : (s.clearCur).fe = s.fe := rfl
@[simp] theorem State.clearCur_tags  : (s.clearCur).tags = s.tags := rfl
@[simp] theorem State.clearCur_poison  : (s.clearCur).poison = s.poison := rfl
@[simp] theorem State.clearCur_ivClock  : (s.clearCur).ivClock = s.ivClock := rfl
@[simp] theorem State.clearCur_cores  : (s.clearCur).cores = s.cores := rfl
@[simp] theorem State.clearCur_dies  : (s.clearCur).dies = s.dies := rfl
@[simp] theorem State.clearCur_cmds  : (s.clearCur).cmds = s.cmds := rfl
@[simp] theorem State.clearCur_ports  : (s.clearCur).ports = s.ports := rfl
@[simp] theorem State.clearCur_modCmds  : (s.clearCur).modCmds = s.modCmds := rfl
@[simp] theorem State.clearCur_commits  : (s.clearCur).commits = s.commits := rfl
@[simp] theorem State.clearCur_sends  : (s.clearCur).sends = s.sends := rfl
@[simp] theorem State.clearCur_refusals  : (s.clearCur).refusals = s.refusals := rfl
@[simp] theorem State.clearCur_modRanges  : (s.clearCur).modRanges = s.modRanges := rfl
@[simp] theorem State.clearCur_pages  : (s.clearCur).pages = s.pages := rfl
@[simp] theorem State.clearCur_pod  : (s.clearCur).pod = s.pod := rfl
@[simp] theorem State.clearCur_host  : (s.clearCur).host = s.host := rfl
@[simp] theorem State.clearCur_net  : (s.clearCur).net = s.net := rfl
@[simp] theorem State.clearCur_trust  : (s.clearCur).trust = s.trust := rfl
@[simp] theorem State.clearCur_power  : (s.clearCur).power = s.power := rfl
@[simp] theorem State.clearCur_errors  : (s.clearCur).errors = s.errors := rfl
@[simp] theorem State.clearCur_late  : (s.clearCur).late = s.late := rfl
@[simp] theorem State.clearCur_passing  : (s.clearCur).passing = s.passing := rfl
@[simp] theorem State.clearCur_records  : (s.clearCur).records = s.records := rfl
@[simp] theorem State.clearCur_timer  : (s.clearCur).timer = s.timer := rfl

@[simp] theorem State.mapLaunch_clock (c n : Nat) (f : Launch → Launch) : (s.mapLaunch c n f).clock = s.clock := rfl
@[simp] theorem State.mapLaunch_pace (c n : Nat) (f : Launch → Launch) : (s.mapLaunch c n f).pace = s.pace := rfl
@[simp] theorem State.mapLaunch_agenda (c n : Nat) (f : Launch → Launch) : (s.mapLaunch c n f).agenda = s.agenda := rfl
@[simp] theorem State.mapLaunch_free (c n : Nat) (f : Launch → Launch) : (s.mapLaunch c n f).free = s.free := rfl
@[simp] theorem State.mapLaunch_nextKey (c n : Nat) (f : Launch → Launch) : (s.mapLaunch c n f).nextKey = s.nextKey := rfl
@[simp] theorem State.mapLaunch_cur (c n : Nat) (f : Launch → Launch) : (s.mapLaunch c n f).cur = s.cur := rfl
@[simp] theorem State.mapLaunch_gangs (c n : Nat) (f : Launch → Launch) : (s.mapLaunch c n f).gangs = s.gangs := rfl
@[simp] theorem State.mapLaunch_crews (c n : Nat) (f : Launch → Launch) : (s.mapLaunch c n f).crews = s.crews := rfl
@[simp] theorem State.mapLaunch_ctxs (c n : Nat) (f : Launch → Launch) : (s.mapLaunch c n f).ctxs = s.ctxs := rfl
@[simp] theorem State.mapLaunch_tens (c n : Nat) (f : Launch → Launch) : (s.mapLaunch c n f).tens = s.tens := rfl
@[simp] theorem State.mapLaunch_launches (c n : Nat) (f : Launch → Launch) : (s.mapLaunch c n f).launches = s.launches.map fun l => if l.ctx == c && l.serial == n then f l else l := rfl
@[simp] theorem State.mapLaunch_mem (c n : Nat) (f : Launch → Launch) : (s.mapLaunch c n f).mem = s.mem := rfl
@[simp] theorem State.mapLaunch_fe (c n : Nat) (f : Launch → Launch) : (s.mapLaunch c n f).fe = s.fe := rfl
@[simp] theorem State.mapLaunch_tags (c n : Nat) (f : Launch → Launch) : (s.mapLaunch c n f).tags = s.tags := rfl
@[simp] theorem State.mapLaunch_poison (c n : Nat) (f : Launch → Launch) : (s.mapLaunch c n f).poison = s.poison := rfl
@[simp] theorem State.mapLaunch_ivClock (c n : Nat) (f : Launch → Launch) : (s.mapLaunch c n f).ivClock = s.ivClock := rfl
@[simp] theorem State.mapLaunch_cores (c n : Nat) (f : Launch → Launch) : (s.mapLaunch c n f).cores = s.cores := rfl
@[simp] theorem State.mapLaunch_dies (c n : Nat) (f : Launch → Launch) : (s.mapLaunch c n f).dies = s.dies := rfl
@[simp] theorem State.mapLaunch_cmds (c n : Nat) (f : Launch → Launch) : (s.mapLaunch c n f).cmds = s.cmds := rfl
@[simp] theorem State.mapLaunch_ports (c n : Nat) (f : Launch → Launch) : (s.mapLaunch c n f).ports = s.ports := rfl
@[simp] theorem State.mapLaunch_modCmds (c n : Nat) (f : Launch → Launch) : (s.mapLaunch c n f).modCmds = s.modCmds := rfl
@[simp] theorem State.mapLaunch_commits (c n : Nat) (f : Launch → Launch) : (s.mapLaunch c n f).commits = s.commits := rfl
@[simp] theorem State.mapLaunch_sends (c n : Nat) (f : Launch → Launch) : (s.mapLaunch c n f).sends = s.sends := rfl
@[simp] theorem State.mapLaunch_refusals (c n : Nat) (f : Launch → Launch) : (s.mapLaunch c n f).refusals = s.refusals := rfl
@[simp] theorem State.mapLaunch_modRanges (c n : Nat) (f : Launch → Launch) : (s.mapLaunch c n f).modRanges = s.modRanges := rfl
@[simp] theorem State.mapLaunch_pages (c n : Nat) (f : Launch → Launch) : (s.mapLaunch c n f).pages = s.pages := rfl
@[simp] theorem State.mapLaunch_pod (c n : Nat) (f : Launch → Launch) : (s.mapLaunch c n f).pod = s.pod := rfl
@[simp] theorem State.mapLaunch_host (c n : Nat) (f : Launch → Launch) : (s.mapLaunch c n f).host = s.host := rfl
@[simp] theorem State.mapLaunch_net (c n : Nat) (f : Launch → Launch) : (s.mapLaunch c n f).net = s.net := rfl
@[simp] theorem State.mapLaunch_trust (c n : Nat) (f : Launch → Launch) : (s.mapLaunch c n f).trust = s.trust := rfl
@[simp] theorem State.mapLaunch_power (c n : Nat) (f : Launch → Launch) : (s.mapLaunch c n f).power = s.power := rfl
@[simp] theorem State.mapLaunch_errors (c n : Nat) (f : Launch → Launch) : (s.mapLaunch c n f).errors = s.errors := rfl
@[simp] theorem State.mapLaunch_late (c n : Nat) (f : Launch → Launch) : (s.mapLaunch c n f).late = s.late := rfl
@[simp] theorem State.mapLaunch_passing (c n : Nat) (f : Launch → Launch) : (s.mapLaunch c n f).passing = s.passing := rfl
@[simp] theorem State.mapLaunch_records (c n : Nat) (f : Launch → Launch) : (s.mapLaunch c n f).records = s.records := rfl
@[simp] theorem State.mapLaunch_timer (c n : Nat) (f : Launch → Launch) : (s.mapLaunch c n f).timer = s.timer := rfl

@[simp] theorem State.mapCmd_clock (c q : Nat) (f : Cmd → Cmd) : (s.mapCmd c q f).clock = s.clock := rfl
@[simp] theorem State.mapCmd_pace (c q : Nat) (f : Cmd → Cmd) : (s.mapCmd c q f).pace = s.pace := rfl
@[simp] theorem State.mapCmd_agenda (c q : Nat) (f : Cmd → Cmd) : (s.mapCmd c q f).agenda = s.agenda := rfl
@[simp] theorem State.mapCmd_free (c q : Nat) (f : Cmd → Cmd) : (s.mapCmd c q f).free = s.free := rfl
@[simp] theorem State.mapCmd_nextKey (c q : Nat) (f : Cmd → Cmd) : (s.mapCmd c q f).nextKey = s.nextKey := rfl
@[simp] theorem State.mapCmd_cur (c q : Nat) (f : Cmd → Cmd) : (s.mapCmd c q f).cur = s.cur := rfl
@[simp] theorem State.mapCmd_gangs (c q : Nat) (f : Cmd → Cmd) : (s.mapCmd c q f).gangs = s.gangs := rfl
@[simp] theorem State.mapCmd_crews (c q : Nat) (f : Cmd → Cmd) : (s.mapCmd c q f).crews = s.crews := rfl
@[simp] theorem State.mapCmd_ctxs (c q : Nat) (f : Cmd → Cmd) : (s.mapCmd c q f).ctxs = s.ctxs := rfl
@[simp] theorem State.mapCmd_tens (c q : Nat) (f : Cmd → Cmd) : (s.mapCmd c q f).tens = s.tens := rfl
@[simp] theorem State.mapCmd_launches (c q : Nat) (f : Cmd → Cmd) : (s.mapCmd c q f).launches = s.launches := rfl
@[simp] theorem State.mapCmd_mem (c q : Nat) (f : Cmd → Cmd) : (s.mapCmd c q f).mem = s.mem := rfl
@[simp] theorem State.mapCmd_fe (c q : Nat) (f : Cmd → Cmd) : (s.mapCmd c q f).fe = s.fe := rfl
@[simp] theorem State.mapCmd_tags (c q : Nat) (f : Cmd → Cmd) : (s.mapCmd c q f).tags = s.tags := rfl
@[simp] theorem State.mapCmd_poison (c q : Nat) (f : Cmd → Cmd) : (s.mapCmd c q f).poison = s.poison := rfl
@[simp] theorem State.mapCmd_ivClock (c q : Nat) (f : Cmd → Cmd) : (s.mapCmd c q f).ivClock = s.ivClock := rfl
@[simp] theorem State.mapCmd_cores (c q : Nat) (f : Cmd → Cmd) : (s.mapCmd c q f).cores = s.cores := rfl
@[simp] theorem State.mapCmd_dies (c q : Nat) (f : Cmd → Cmd) : (s.mapCmd c q f).dies = s.dies := rfl
@[simp] theorem State.mapCmd_ports (c q : Nat) (f : Cmd → Cmd) : (s.mapCmd c q f).ports = s.ports := rfl
@[simp] theorem State.mapCmd_modCmds (c q : Nat) (f : Cmd → Cmd) : (s.mapCmd c q f).modCmds = s.modCmds := rfl
@[simp] theorem State.mapCmd_commits (c q : Nat) (f : Cmd → Cmd) : (s.mapCmd c q f).commits = s.commits := rfl
@[simp] theorem State.mapCmd_sends (c q : Nat) (f : Cmd → Cmd) : (s.mapCmd c q f).sends = s.sends := rfl
@[simp] theorem State.mapCmd_refusals (c q : Nat) (f : Cmd → Cmd) : (s.mapCmd c q f).refusals = s.refusals := rfl
@[simp] theorem State.mapCmd_modRanges (c q : Nat) (f : Cmd → Cmd) : (s.mapCmd c q f).modRanges = s.modRanges := rfl
@[simp] theorem State.mapCmd_pages (c q : Nat) (f : Cmd → Cmd) : (s.mapCmd c q f).pages = s.pages := rfl
@[simp] theorem State.mapCmd_pod (c q : Nat) (f : Cmd → Cmd) : (s.mapCmd c q f).pod = s.pod := rfl
@[simp] theorem State.mapCmd_host (c q : Nat) (f : Cmd → Cmd) : (s.mapCmd c q f).host = s.host := rfl
@[simp] theorem State.mapCmd_net (c q : Nat) (f : Cmd → Cmd) : (s.mapCmd c q f).net = s.net := rfl
@[simp] theorem State.mapCmd_trust (c q : Nat) (f : Cmd → Cmd) : (s.mapCmd c q f).trust = s.trust := rfl
@[simp] theorem State.mapCmd_power (c q : Nat) (f : Cmd → Cmd) : (s.mapCmd c q f).power = s.power := rfl
@[simp] theorem State.mapCmd_errors (c q : Nat) (f : Cmd → Cmd) : (s.mapCmd c q f).errors = s.errors := rfl
@[simp] theorem State.mapCmd_late (c q : Nat) (f : Cmd → Cmd) : (s.mapCmd c q f).late = s.late := rfl
@[simp] theorem State.mapCmd_passing (c q : Nat) (f : Cmd → Cmd) : (s.mapCmd c q f).passing = s.passing := rfl
@[simp] theorem State.mapCmd_records (c q : Nat) (f : Cmd → Cmd) : (s.mapCmd c q f).records = s.records := rfl
@[simp] theorem State.mapCmd_timer (c q : Nat) (f : Cmd → Cmd) : (s.mapCmd c q f).timer = s.timer := rfl

end Sys2Proof.Machine
end

