-- ==== Sys2Proof/Laws/Gang.lean ====
section
/-! SUPPORT. Laws of the gang: threads after a change, registers after a write, and what settling a gang leaves alone. -/

namespace Sys2Proof.Machine

variable (g : Gang)

/-! ## Threads -/

theorem Gang.th_setTh {l : Nat} (m : Nat) (t : Thread) (h : l < g.threads.length) : (g.setTh l t).th m = if l = m then t else g.th m := by
  unfold Gang.th Gang.setTh
  simp only [List.getD_eq_getElem?_getD, List.getElem?_set]
  split
  · simp [h]
  · rfl

theorem Gang.th_mapLanes (ls : List Nat) (f : Thread → Thread) (m : Nat) (h : m < g.threads.length) :
    (g.mapLanes ls f).th m = if m ∈ ls then f (g.th m) else g.th m := by
  unfold Gang.th Gang.mapLanes
  simp only [List.getD_eq_getElem?_getD, List.getElem?_mapIdx, List.getElem?_eq_getElem h, Option.map_some, Option.getD_some, List.contains_iff_mem]

@[simp] theorem Gang.setTh_len (l : Nat) (t : Thread) : (g.setTh l t).threads.length = g.threads.length := by simp [Gang.setTh]
@[simp] theorem Gang.mapLanes_len (ls : List Nat) (f : Thread → Thread) : (g.mapLanes ls f).threads.length = g.threads.length := by
  simp [Gang.mapLanes]
@[simp] theorem Gang.setTh_v (l : Nat) (t : Thread) : (g.setTh l t).v = g.v := rfl
@[simp] theorem Gang.setTh_k (l : Nat) (t : Thread) : (g.setTh l t).k = g.k := rfl
@[simp] theorem Gang.mapLanes_v (ls : List Nat) (f : Thread → Thread) : (g.mapLanes ls f).v = g.v := rfl
@[simp] theorem Gang.mapLanes_k (ls : List Nat) (f : Thread → Thread) : (g.mapLanes ls f).k = g.k := rfl
@[simp] theorem Gang.mapLanes_crew (ls : List Nat) (f : Thread → Thread) : (g.mapLanes ls f).crew = g.crew := rfl
@[simp] theorem Gang.mapLanes_ctx (ls : List Nat) (f : Thread → Thread) : (g.mapLanes ls f).ctx = g.ctx := rfl
@[simp] theorem Gang.mapLanes_hslot (ls : List Nat) (f : Thread → Thread) : (g.mapLanes ls f).hslot = g.hslot := rfl
@[simp] theorem Gang.mapLanes_level (ls : List Nat) (f : Thread → Thread) : (g.mapLanes ls f).level = g.level := rfl
@[simp] theorem Gang.mapLanes_index (ls : List Nat) (f : Thread → Thread) : (g.mapLanes ls f).index = g.index := rfl
@[simp] theorem Gang.writeV_threads (l n : Nat) (x : Word) : (g.writeV l n x).threads = g.threads := rfl
@[simp] theorem Gang.writeK_threads (n : Nat) (x : Word) : (g.writeK n x).threads = g.threads := rfl
@[simp] theorem Gang.writeV_k (l n : Nat) (x : Word) : (g.writeV l n x).k = g.k := rfl
@[simp] theorem Gang.writeK_v (n : Nat) (x : Word) : (g.writeK n x).v = g.v := rfl

theorem Gang.th_congr {g g' : Gang} (h : g.threads = g'.threads) (l : Nat) : g.th l = g'.th l := by simp [Gang.th, h]
theorem Gang.readV_congr {g g' : Gang} (h : g.v = g'.v) (l n : Nat) : g.readV l n = g'.readV l n := by simp [Gang.readV, h]
theorem Gang.readK_congr {g g' : Gang} (h : g.k = g'.k) (n : Nat) : g.readK n = g'.readK n := by simp [Gang.readK, h]

/-! ## Registers -/

theorem Gang.readV_writeV {l n m i : Nat} (x : Word) (h1 : n < 128) (h2 : i < 128) :
    (g.writeV l n x).readV m i = if l = m ∧ n = i then x else g.readV m i := by
  unfold Gang.readV Gang.writeV
  simp only [Tbl.at_set]
  by_cases h : l = m ∧ n = i
  · rw [if_pos h, if_pos (by omega)]
  · rw [if_neg h, if_neg (by omega)]

theorem Gang.readK_writeK (n i : Nat) (x : Word) : (g.writeK n x).readK i = if n = i then x else g.readK i := by
  unfold Gang.readK Gang.writeK
  simp only [Tbl.at_set]

/-- The last word written to a register. -/
def lastTo (n : Nat) : List (Nat × Word) → Option Word
  | [] => none
  | (i, x) :: t => match lastTo n t with
    | some y => some y
    | none => if i = n then some x else none

theorem Gang.readV_writeAll (l : Nat) : ∀ (ws : List (Nat × Word)) (g : Gang) (_ : ∀ p ∈ ws, p.1 < 128) (m i : Nat) (_ : i < 128),
    (g.writeAll l ws).readV m i = if l = m then (lastTo i ws).getD (g.readV m i) else g.readV m i := by
  intro ws
  induction ws with
  | nil => intro g _ m i _; simp [Gang.writeAll, lastTo]
  | cons p t ih =>
    intro g hw m i hi
    obtain ⟨n, x⟩ := p
    have hn : n < 128 := hw _ (List.mem_cons_self ..)
    have := ih (g.writeV l n x) (fun p hp => hw p (List.mem_cons_of_mem _ hp)) m i hi
    simp only [Gang.writeAll, List.foldl_cons] at this ⊢
    rw [this, g.readV_writeV x hn hi]
    by_cases hl : l = m
    · subst hl
      simp only [↓reduceIte, lastTo, true_and]
      cases lastTo i t with
      | some y => simp
      | none => by_cases e : n = i <;> simp [e]
    · simp [hl]

@[simp] theorem Gang.writeAll_threads (l : Nat) : ∀ (ws : List (Nat × Word)) (g : Gang), (g.writeAll l ws).threads = g.threads := by
  intro ws
  induction ws with
  | nil => intro g; rfl
  | cons p t ih => intro g; simpa [Gang.writeAll] using ih (g.writeV l p.1 p.2)

@[simp] theorem Gang.th_writeAll (l : Nat) (ws : List (Nat × Word)) (m : Nat) : (g.writeAll l ws).th m = g.th m :=
  Gang.th_congr (Gang.writeAll_threads l ws g) m

@[simp] theorem Gang.writeAll_k (l : Nat) : ∀ (ws : List (Nat × Word)) (g : Gang), (g.writeAll l ws).k = g.k := by
  intro ws
  induction ws with
  | nil => intro g; rfl
  | cons p t ih => intro g; simpa [Gang.writeAll] using ih (g.writeV l p.1 p.2)

theorem Gang.readK_writeKs : ∀ (ws : List (Nat × Word)) (g : Gang) (i : Nat),
    (ws.foldl (fun g p => g.writeK p.1 p.2) g).readK i = (lastTo i ws).getD (g.readK i) := by
  intro ws
  induction ws with
  | nil => intro g i; simp [lastTo]
  | cons p t ih =>
    intro g i
    rw [List.foldl_cons, ih, g.readK_writeK]
    simp only [lastTo]
    cases lastTo i t with
    | some y => simp
    | none => by_cases e : p.1 = i <;> simp [e]

theorem Gang.writeKs_rest : ∀ (ws : List (Nat × Word)) (g : Gang),
    (ws.foldl (fun g p => g.writeK p.1 p.2) g).threads = g.threads ∧ (ws.foldl (fun g p => g.writeK p.1 p.2) g).v = g.v := by
  intro ws
  induction ws with
  | nil => intro g; exact ⟨rfl, rfl⟩
  | cons p t ih => intro g; simpa using ih (g.writeK p.1 p.2)

/-! ## Lanes and masks -/

theorem mem_lanesOf {m l : Nat} : l ∈ lanesOf m ↔ l < 32 ∧ m.testBit l = true := by simp [lanesOf]
theorem lanesOf_nodup (m : Nat) : (lanesOf m).Nodup := List.Nodup.filter _ List.nodup_range

/-! ## Settling (R18, R144, R161) -/

@[simp] theorem Gang.prune_threads : g.prune.threads = g.threads := rfl
@[simp] theorem Gang.prune_v : g.prune.v = g.v := rfl
@[simp] theorem Gang.prune_k : g.prune.k = g.k := rfl
@[simp] theorem Gang.th_prune (l : Nat) : g.prune.th l = g.th l := rfl

@[simp] theorem Gang.settle_v : g.settle.v = g.v := rfl
@[simp] theorem Gang.settle_k : g.settle.k = g.k := rfl
@[simp] theorem Gang.settle_len : g.settle.threads.length = g.threads.length := by simp [Gang.settle]

/-- Settling looks at a thread's run state, PC, meeting address and what it waits for. -/
theorem Gang.settle_running {l : Nat} (h : l < g.threads.length) (hr : (g.th l).run = .run) : g.settle.th l = g.th l := by
  have h1 : g.unparks l = false := by simp [Gang.unparks, Thread.parked, hr]
  have h2 : (g.mapLanes ((List.range 32).filter g.unparks) fun t => { t with run := .run, wait := none }).th l = g.th l := by
    rw [g.th_mapLanes _ _ _ h, if_neg (by simp [h1])]
  unfold Gang.settle
  simp only [Gang.th_prune]
  rw [Gang.th_mapLanes _ _ _ _ (by simpa using h), h2]
  split
  · rename_i hm
    simp [h2, hr] at hm
  · rfl

/-- What settling leaves of a thread: all but its run state, its meeting address and what it waits for. -/
theorem Gang.settle_keeps {l : Nat} (h : l < g.threads.length) :
    (g.settle.th l).pc = (g.th l).pc ∧ (g.settle.th l).rep = (g.th l).rep ∧ (g.settle.th l).rcnt = (g.th l).rcnt ∧
    (g.settle.th l).fps = (g.th l).fps ∧ (g.settle.th l).clockhi = (g.th l).clockhi ∧ (g.settle.th l).lat = (g.th l).lat := by
  unfold Gang.settle
  simp only [Gang.th_prune]
  rw [Gang.th_mapLanes _ _ _ _ (by simpa using h), g.th_mapLanes _ _ _ h]
  split <;> split <;> simp [Thread.release] <;> split <;> simp

end Sys2Proof.Machine
end

