-- ==== Sys2Proof/Laws/Issue.lean ====
section
/-! SUPPORT. What the issue of an instruction does when every lane completes (R57, R45, R46): the one lemma that the completion of every register, memory and system instruction rests on. -/

namespace Sys2Proof.Machine

/-! ## The rest of the machine -/

theorem RestKept.refl (s : State) : RestKept s s := by constructor <;> rfl

theorem RestKept.trans {s t u : State} (a : RestKept s t) (b : RestKept t u) : RestKept s u where
  mem := b.mem.trans a.mem
  fe := b.fe.trans a.fe
  tags := b.tags.trans a.tags
  poison := b.poison.trans a.poison
  ctxs := b.ctxs.trans a.ctxs
  tens := b.tens.trans a.tens
  cores := b.cores.trans a.cores
  dies := b.dies.trans a.dies
  ports := b.ports.trans a.ports
  modRanges := b.modRanges.trans a.modRanges
  modCmds := b.modCmds.trans a.modCmds
  pages := b.pages.trans a.pages
  pod := b.pod.trans a.pod
  host := b.host.trans a.host
  net := b.net.trans a.net
  trust := b.trust.trans a.trust
  power := b.power.trans a.power
  cmds := b.cmds.trans a.cmds
  commits := b.commits.trans a.commits
  sends := b.sends.trans a.sends
  errors := b.errors.trans a.errors
  crews := b.crews.trans a.crews
  launches := b.launches.trans a.launches
  refusals := b.refusals.trans a.refusals
  late := b.late.trans a.late
  passing := b.passing.trans a.passing
  records := b.records.trans a.records
  clock := b.clock.trans a.clock
  pace := b.pace.trans a.pace
  timer := b.timer.trans a.timer
  agenda := b.agenda.trans a.agenda

theorem RestKept.setGang (s : State) (gk : Nat) (x : Gang) : RestKept s (s.setGang gk x) := by constructor <;> rfl
theorem RestKept.mapGang (s : State) (gk : Nat) (f : Gang → Gang) : RestKept s (s.mapGang gk f) := by constructor <;> rfl
theorem RestKept.clearCur (s : State) : RestKept s s.clearCur := by constructor <;> rfl

/-! ## Registers and threads of gangs -/

theorem SameRegs.refl (a : Gang) : SameRegs a a := ⟨rfl, rfl, rfl⟩
theorem SameRegs.trans {a b c : Gang} (x : SameRegs a b) (y : SameRegs b c) : SameRegs a c :=
  ⟨y.threads.trans x.threads, y.v.trans x.v, y.k.trans x.k⟩
theorem SameRegs.of_eq {a b : Gang} (h1 : b.threads = a.threads) (h2 : b.v = a.v) (h3 : b.k = a.k) : SameRegs a b := ⟨by rw [h1], h2, h3⟩

theorem SameRegs.len {a b : Gang} (x : SameRegs a b) : b.threads.length = a.threads.length := by
  simpa using congrArg List.length x.threads

/-- Lane by lane, the last-page register apart. -/
theorem SameRegs.th {a b : Gang} (x : SameRegs a b) (l : Nat) : (b.th l).bare = (a.th l).bare := by
  have h := congrArg (fun (ts : List Thread) => ts[l]?.getD (Thread.start 0 0).bare) x.threads
  simp only [List.getElem?_map] at h
  unfold Gang.th
  simp only [List.getD_eq_getElem?_getD]
  cases hb : b.threads[l]? <;> cases ha : a.threads[l]? <;> simp only [ha, hb, Option.map_some, Option.map_none, Option.getD_some, Option.getD_none] at h ⊢ <;> exact h

/-- What two threads share that differ in their last-page registers alone. -/
theorem Thread.of_bare {a b : Thread} (h : b.bare = a.bare) :
    b.pc = a.pc ∧ b.rep = a.rep ∧ b.rcnt = a.rcnt ∧ b.fps = a.fps ∧ b.mt = a.mt ∧ b.clockhi = a.clockhi ∧ b.hints = a.hints ∧ b.run = a.run := by
  cases a; cases b
  simp only [Thread.bare, Thread.mk.injEq] at h
  simp [h]

theorem SameRegs.pc {a b : Gang} (x : SameRegs a b) (l : Nat) : (b.th l).pc = (a.th l).pc := (Thread.of_bare (x.th l)).1

theorem OthersKept.refl (s : State) (gk : Nat) : OthersKept s s gk := fun _ _ x h => ⟨x, h, .refl x⟩
theorem OthersKept.trans {s t u : State} {gk : Nat} (a : OthersKept s t gk) (b : OthersKept t u gk) : OthersKept s u gk := fun k hk x hx => by
  obtain ⟨y, hy, h⟩ := a k hk x hx
  obtain ⟨z, hz, i⟩ := b k hk y hy
  exact ⟨z, hz, h.trans i⟩

@[simp] theorem State.gang?_setGang (s : State) (gk k : Nat) (x : Gang) :
    (s.setGang gk x).gang? k = if gk = k then some x else s.gang? k := by
  simp [State.gang?, Tbl.find?_put]

@[simp] theorem State.gang?_mapGang (s : State) (gk k : Nat) (f : Gang → Gang) :
    (s.mapGang gk f).gang? k = if gk = k then (s.gang? k).map f else s.gang? k := by
  simp [State.gang?, Tbl.find?_adjust]

theorem OthersKept.setGang (s : State) (gk : Nat) (x : Gang) : OthersKept s (s.setGang gk x) gk := fun k hk y hy =>
  ⟨y, by rw [State.gang?_setGang, if_neg (Ne.symm hk)]; exact hy, .refl y⟩

/-- A change of the gangs, crews and launches that keeps every gang's threads and registers. -/
structure SchedOnly (s t : State) : Prop where
  rest : RestKept s t
  self : ∀ k x, s.gang? k = some x → ∃ y, t.gang? k = some y ∧ y.threads = x.threads ∧ y.v = x.v ∧ y.k = x.k

theorem SchedOnly.others {s t : State} (a : SchedOnly s t) (gk : Nat) : OthersKept s t gk := fun k _ x hx => by
  obtain ⟨y, hy, h1, h2, h3⟩ := a.self k x hx
  exact ⟨y, hy, .of_eq h1 h2 h3⟩

theorem SchedOnly.refl (s : State) : SchedOnly s s := ⟨.refl s, fun _ x h => ⟨x, h, rfl, rfl, rfl⟩⟩

theorem SchedOnly.trans {s t u : State} (a : SchedOnly s t) (b : SchedOnly t u) : SchedOnly s u :=
  ⟨a.rest.trans b.rest, fun k x hx => by
    obtain ⟨y, hy, h1, h2, h3⟩ := a.self k x hx
    obtain ⟨z, hz, i1, i2, i3⟩ := b.self k y hy
    exact ⟨z, hz, i1.trans h1, i2.trans h2, i3.trans h3⟩⟩

/-- A change of one crew's barrier count shows nothing once the counts are left out. -/
theorem State.crewsBare_mapCrew (s : State) (k : Nat) (f : Crew → Crew) (hf : ∀ c, { f c with bar := 0 } = ({ c with bar := 0 } : Crew)) :
    (s.mapCrew k f).crewsBare = s.crewsBare := by
  simp only [State.crewsBare, State.mapCrew, Tbl.adjust, List.map_map]
  refine List.map_congr_left fun p _ => ?_
  simp only [Function.comp_apply]
  split <;> simp [hf]

/-- A change of one launch's barrier counts shows nothing once the counts are left out. -/
theorem State.launchesBare_mapLaunch (s : State) (a b : Nat) (f : Launch → Launch) (hf : ∀ l, { f l with gbar := [] } = ({ l with gbar := [] } : Launch)) :
    (s.mapLaunch a b f).launchesBare = s.launchesBare := by
  simp only [State.launchesBare, State.mapLaunch, List.map_map]
  refine List.map_congr_left fun l _ => ?_
  simp only [Function.comp_apply]
  split <;> simp [hf]

/-- What is left of a state of which only the barrier counts of a crew have changed. -/
theorem SchedOnly.crew (s : State) (k : Nat) (f : Crew → Crew) (hf : ∀ c, { f c with bar := 0 } = ({ c with bar := 0 } : Crew)) : SchedOnly s (s.mapCrew k f) :=
  ⟨by constructor <;> first | rfl | exact s.crewsBare_mapCrew k f hf, fun _ x h => ⟨x, h, rfl, rfl, rfl⟩⟩

/-- What is left of a state of which only the barrier counts of a launch have changed. -/
theorem SchedOnly.launch (s : State) (a b : Nat) (f : Launch → Launch) (hf : ∀ l, { f l with gbar := [] } = ({ l with gbar := [] } : Launch)) :
    SchedOnly s (s.mapLaunch a b f) :=
  ⟨by constructor <;> first | rfl | exact s.launchesBare_mapLaunch a b f hf, fun _ x h => ⟨x, h, rfl, rfl, rfl⟩⟩

theorem SchedOnly.gang (s : State) (k : Nat) (f : Gang → Gang) (h : ∀ x, (f x).threads = x.threads ∧ (f x).v = x.v ∧ (f x).k = x.k) :
    SchedOnly s (s.mapGang k f) := by
  refine ⟨.mapGang s k f, fun j x hx => ?_⟩
  rw [State.gang?_mapGang, hx]
  by_cases e : k = j
  · exact ⟨f x, by simp [e], h x⟩
  · exact ⟨x, by simp [e], rfl, rfl, rfl⟩

theorem SchedOnly.set {s : State} {k : Nat} {g x : Gang} (hg : s.gang? k = some g) (h : x.threads = g.threads ∧ x.v = g.v ∧ x.k = g.k) :
    SchedOnly s (s.setGang k x) := by
  refine ⟨.setGang s k x, fun j y hy => ?_⟩
  rw [State.gang?_setGang]
  by_cases e : k = j
  · subst e
    rw [hg] at hy
    cases hy
    exact ⟨x, by simp, h⟩
  · exact ⟨y, by simp [e, hy], rfl, rfl, rfl⟩

/-- Intervals of gangs that end change no thread and no register. -/
theorem SchedOnly.endIntervals (s : State) (p : Nat × Gang → Bool) :
    SchedOnly s { s with gangs := s.gangs.map fun x => if p x then (x.1, x.2.endInterval) else x } := by
  refine ⟨by constructor <;> rfl, fun k x hx => ?_⟩
  have key : ∀ (t : Tbl Gang), t.find? k = some x →
      ∃ y, Tbl.find? (t.map fun x => if p x then (x.1, x.2.endInterval) else x) k = some y ∧ y.threads = x.threads ∧ y.v = x.v ∧ y.k = x.k := by
    intro t
    induction t with
    | nil => intro h; cases h
    | cons q t ih =>
      obtain ⟨n, a⟩ := q
      intro h
      have e : (if p (n, a) then (n, a.endInterval) else (n, a)) = (n, if p (n, a) then a.endInterval else a) := by split <;> rfl
      simp only [List.map_cons, Tbl.find?] at h ⊢
      rw [e]
      simp only [Tbl.find?]
      by_cases hn : n = k
      · rw [if_pos hn] at h ⊢
        cases h
        refine ⟨_, rfl, ?_⟩
        split <;> exact ⟨rfl, rfl, rfl⟩
      · rw [if_neg hn] at h ⊢
        exact ih h
  exact key s.gangs hx

theorem State.passBar_only (s : State) (c i : Nat) : SchedOnly s (s.passBar c i) :=
  (SchedOnly.crew s c (fun c => { c with bar := i + 1 }) fun _ => rfl).trans
    (SchedOnly.endIntervals _ fun p => p.2.crew == c && p.2.hslot.isNone && p.2.pends.any fun w => w.why == .barrier i)

theorem State.passGroup_only (s : State) (a b c i : Nat) : SchedOnly s (s.passGroup a b c i) :=
  (SchedOnly.launch s a b (fun l => { l with gbar := l.gbar.put c (i + 1) }) fun _ => rfl).trans
    (SchedOnly.endIntervals _ fun p => ((s.groupGangs a b c).map (·.1)).contains p.1 && p.2.pends.any fun w => w.why == .group c i)

theorem State.settleBar_only (s : State) (c : Nat) : SchedOnly s (s.settleBar c) := by
  unfold State.settleBar
  split
  · exact .refl s
  · simp only; split
    · exact s.passBar_only _ _
    · exact .refl s

theorem State.settleGroup_only (s : State) (a b c : Nat) : SchedOnly s (s.settleGroup a b c) := by
  unfold State.settleGroup
  split
  · exact .refl s
  · simp only; split
    · exact s.passGroup_only _ _ _ _
    · exact .refl s

theorem State.settleGroups_only (a b : Nat) : ∀ (l : List Nat) (s : State), SchedOnly s (l.foldl (fun s g => s.settleGroup a b g) s) := by
  intro l
  induction l with
  | nil => intro s; exact .refl s
  | cons x t ih => intro s; exact (s.settleGroup_only a b x).trans (ih _)

/-- Barriers that complete change the accounts of crews and launches only (R159, R160). -/
theorem State.settleBarriers_only (s : State) (c : Nat) : SchedOnly s (s.settleBarriers c) := by
  unfold State.settleBarriers
  split
  · exact .refl s
  · exact (s.settleBar_only c).trans (State.settleGroups_only _ _ _ _)

/-- A slot given up changes no thread and no register (R304). -/
theorem State.releaseSlot_only (s : State) (gk : Nat) : SchedOnly s (s.releaseSlot gk) := by
  unfold State.releaseSlot
  split
  · exact .refl s
  · rename_i g hg
    split
    · exact .refl s
    · exact SchedOnly.set hg ⟨rfl, rfl, rfl⟩

theorem State.unattend_live {s : State} {gk : Nat} {g : Gang} (hg : s.gang? gk = some g) (h : g.live ≠ []) : s.unattend gk = s := by
  unfold State.unattend
  rw [hg]
  simp [h]

/-! ## Lanes that complete -/

variable {o : Op} {g : Gang} {m : Nat}

@[simp] theorem Form.prepare_v (f : Form) (g : Gang) (ls : List Nat) : (f.prepare g ls).v = g.v := rfl
@[simp] theorem Form.prepare_k (f : Form) (g : Gang) (ls : List Nat) : (f.prepare g ls).k = g.k := rfl
@[simp] theorem Form.prepare_len (f : Form) (g : Gang) (ls : List Nat) : (f.prepare g ls).threads.length = g.threads.length := by
  simp [Form.prepare]

theorem Thread.beforeRead_keeps (t : Thread) (vs ks : List Nat) :
    (t.beforeRead vs ks).pc = t.pc ∧ (t.beforeRead vs ks).rep = t.rep ∧ (t.beforeRead vs ks).rcnt = t.rcnt ∧ (t.beforeRead vs ks).fps = t.fps ∧
    (t.beforeRead vs ks).mt = t.mt ∧ (t.beforeRead vs ks).clockhi = t.clockhi ∧ (t.beforeRead vs ks).run = t.run := by
  unfold Thread.beforeRead Thread.clearPending
  split <;> simp

/-- What reading the operands leaves of a thread. -/
theorem Form.prepare_keeps (f : Form) (g : Gang) (ls : List Nat) {l : Nat} (h : l < g.threads.length) :
    ((f.prepare g ls).th l).pc = (g.th l).pc ∧ ((f.prepare g ls).th l).rep = (g.th l).rep ∧ ((f.prepare g ls).th l).rcnt = (g.th l).rcnt ∧
    ((f.prepare g ls).th l).fps = (g.th l).fps ∧ ((f.prepare g ls).th l).mt = (g.th l).mt ∧
    ((f.prepare g ls).th l).clockhi = (g.th l).clockhi ∧ ((f.prepare g ls).th l).run = (g.th l).run := by
  unfold Form.prepare
  rw [g.th_mapLanes _ _ _ h]
  split
  · exact (g.th l).beforeRead_keeps _ _
  · exact ⟨rfl, rfl, rfl, rfl, rfl, rfl, rfl⟩

theorem Thread.setPending_keeps (t : Thread) (vs : List Nat) :
    (t.setPending vs).fps = t.fps ∧ (t.setPending vs).mt = t.mt ∧ (t.setPending vs).clockhi = t.clockhi ∧ (t.setPending vs).hints = t.hints ∧
    (t.setPending vs).rep = t.rep := by
  unfold Thread.setPending
  repeat' split
  all_goals exact ⟨rfl, rfl, rfl, rfl, rfl⟩

/-- What completing an instruction makes of a thread, from what the instruction sets beside its results. -/
theorem Form.threadAfter_keeps (f : Form) (t : Thread) (d : Done) :
    (f.threadAfter t d).run = .run ∧ (f.threadAfter t d).pc = d.npc.getD ((d.set t).pc + 4) ∧ (f.threadAfter t d).fps = (d.set t).fps ∧
    (f.threadAfter t d).mt = (d.set t).mt ∧ (f.threadAfter t d).clockhi = (d.set t).clockhi ∧ (f.threadAfter t d).hints = (d.set t).hints ∧
    ((f.threadAfter t d).rep = if f.rbCls then d.npc.getD ((d.set t).pc + 4) else (d.set t).rep) ∧
    ((f.threadAfter t d).rcnt = if f.rbCls then 0 else countUp (d.set t).rcnt) := by
  obtain ⟨a1, a2, a3, a4, a5⟩ := (d.set t).setPending_keeps ((f.writes d).map (·.1))
  unfold Form.threadAfter
  simp only
  cases f.rbCls <;> cases f.lCls <;>
    first
      | exact ⟨rfl, rfl, a1, a2, a3, a4, a5, rfl⟩
      | exact ⟨rfl, rfl, a1, a2, a3, a4, rfl, rfl⟩
      | exact ⟨rfl, rfl, rfl, rfl, rfl, rfl, rfl, rfl⟩

theorem Form.prepare_hints (f : Form) (g : Gang) (ls : List Nat) {l : Nat} (h : l < g.threads.length) (hl : l ∈ ls) :
    ((f.prepare g ls).th l).hints = Hints.none_ := by
  unfold Form.prepare
  rw [g.th_mapLanes _ _ _ h, if_pos hl]

/-- A form that neither switches nor begins a region: where its lanes go on. -/
theorem Form.complete_eq (f : Form) (g : Gang) (l : Nat) (d : Done) (h : d.npc.isSome = true ∨ (g.th l).pc.toNat % 0x8000 ≠ 0x7FFC) :
    f.complete g l d = ((g.writeAll l (f.writes d)).setTh l (f.threadAfter (g.th l) d), none) := by
  have e : (g.writeAll l (f.writes d)).th l = g.th l := by simp
  unfold Form.complete
  simp only [e]
  rw [if_neg]
  simp only [passesEnd, Bool.and_eq_true, Option.isNone_iff_eq_none, beq_iff_eq, not_and]
  intro hn
  rcases h with h | h
  · simp [hn] at h
  · exact h

/-- The gang after some lanes have completed one after the other. -/
def Form.completeAll (f : Form) (g : Gang) (d : Nat → Done) (ls : List Nat) : Gang :=
  ls.foldl (fun g l => (g.writeAll l (f.writes (d l))).setTh l (f.threadAfter (g.th l) (d l))) g

theorem Form.settleLanes_done (f : Form) (hd : Held) (d : Nat → Done) : ∀ (ls : List Nat) (g : Gang) (_ : ls.Nodup)
    (_ : ∀ l ∈ ls, l < g.threads.length) (_ : ∀ l ∈ ls, (d l).npc.isSome = true ∨ (g.th l).pc.toNat % 0x8000 ≠ 0x7FFC),
    f.settleLanes hd g (ls.map fun l => (l, .done (d l))) = (f.completeAll g d ls, []) := by
  intro ls
  induction ls with
  | nil => intro g _ _ _; rfl
  | cons l t ih =>
    intro g hn hl he
    have e := f.complete_eq g l (d l) (he l (List.mem_cons_self ..))
    have hlen : ((g.writeAll l (f.writes (d l))).setTh l (f.threadAfter (g.th l) (d l))).threads.length = g.threads.length := by simp
    have := ih ((g.writeAll l (f.writes (d l))).setTh l (f.threadAfter (g.th l) (d l))) (List.nodup_cons.1 hn).2
      (fun x hx => by rw [hlen]; exact hl x (List.mem_cons_of_mem _ hx))
      (fun x hx => by
        have hne : l ≠ x := fun q => (List.nodup_cons.1 hn).1 (q ▸ hx)
        rw [Gang.th_setTh _ _ _ (by simpa using hl l (List.mem_cons_self ..)), if_neg hne, Gang.th_writeAll]
        exact he x (List.mem_cons_of_mem _ hx))
    unfold Form.settleLanes at this ⊢
    simp only [List.map_cons, List.foldl_cons, Form.settleLane, e]
    exact this

theorem Form.completeAll_facts (f : Form) (d : Nat → Done) : ∀ (ls : List Nat) (g : Gang) (_ : ls.Nodup) (_ : ∀ l ∈ ls, l < g.threads.length)
    (_ : ∀ l ∈ ls, ∀ p ∈ f.writes (d l), p.1 < 128),
    (f.completeAll g d ls).threads.length = g.threads.length ∧ (f.completeAll g d ls).k = g.k ∧
    (∀ l, (f.completeAll g d ls).th l = if l ∈ ls then f.threadAfter (g.th l) (d l) else g.th l) ∧
    ∀ l n, n < 128 → (f.completeAll g d ls).readV l n = if l ∈ ls then (lastTo n (f.writes (d l))).getD (g.readV l n) else g.readV l n := by
  intro ls
  induction ls with
  | nil => intro g _ _ _; simp [Form.completeAll]
  | cons x t ih =>
    intro g hn hl hw
    have hx := hl x (List.mem_cons_self ..)
    have hnx := (List.nodup_cons.1 hn).1
    obtain ⟨i1, i2, i3, i4⟩ := ih ((g.writeAll x (f.writes (d x))).setTh x (f.threadAfter (g.th x) (d x))) (List.nodup_cons.1 hn).2
      (fun y hy => by simpa using hl y (List.mem_cons_of_mem _ hy)) (fun y hy => hw y (List.mem_cons_of_mem _ hy))
    have e : f.completeAll g d (x :: t) = f.completeAll ((g.writeAll x (f.writes (d x))).setTh x (f.threadAfter (g.th x) (d x))) d t := rfl
    rw [e]
    refine ⟨by rw [i1]; simp, by rw [i2]; simp, fun l => ?_, fun l n hn' => ?_⟩
    · rw [i3, Gang.th_setTh _ _ _ (by simpa using hx), Gang.th_writeAll]
      by_cases hlx : x = l
      · subst hlx; simp [hnx]
      · simp [hlx, Ne.symm hlx]
    · rw [i4 l n hn']
      have : ((g.writeAll x (f.writes (d x))).setTh x (f.threadAfter (g.th x) (d x))).readV l n = (g.writeAll x (f.writes (d x))).readV l n :=
        Gang.readV_congr rfl l n
      rw [this, Gang.readV_writeAll _ _ _ (hw x (List.mem_cons_self ..)) _ _ hn']
      by_cases hlx : x = l
      · subst hlx; simp [hnx]
      · simp [hlx, Ne.symm hlx]

/-! ## An issue in which every lane completes -/

theorem firstDone_map (d : Nat → Done) (ls : List Nat) (h : ls ≠ []) :
    firstDone (ls.map fun l => (l, .done (d l))) = some (d (ls.headD 0)) := by
  cases ls with
  | nil => exact absurd rfl h
  | cons x t => rfl

theorem State.gang?_clearCur (s : State) (k : Nat) : s.clearCur.gang? k = s.gang? k := rfl

/-- What `Op.finish` leaves when every lane completes. -/
theorem Op.finish_done (o : Op) (s2 : State) (gk : Nat) (hd : Held) (m : Nat) (hit : Bool) (d : Nat → Done) (g2 : Gang)
    (hg : s2.gang? gk = some g2) (hlen : g2.threads.length = 32) (hne : lanesOf m ≠ [])
    (hw : ∀ l ∈ lanesOf m, ∀ p ∈ o.form.writes (d l), p.1 < 128)
    (he : ∀ l ∈ lanesOf m, (d l).npc.isSome = true ∨ (g2.th l).pc.toNat % 0x8000 ≠ 0x7FFC) :
    RestKept s2 (o.finish s2 gk hd ((lanesOf m).map fun l => (l, .done (d l))) hit) ∧
    OthersKept s2 (o.finish s2 gk hd ((lanesOf m).map fun l => (l, .done (d l))) hit) gk ∧
    ∃ g4, (o.finish s2 gk hd ((lanesOf m).map fun l => (l, .done (d l))) hit).gang? gk = some g4 ∧ g4.threads.length = 32 ∧
      (∀ l ∈ lanesOf m, g4.th l = o.form.threadAfter (g2.th l) (d l)) ∧
      (∀ l, l < 32 → l ∉ lanesOf m → ThreadKept (g2.th l) (g4.th l)) ∧
      (∀ l n, n < 128 → g4.readV l n = if l ∈ lanesOf m then (lastTo n (o.form.writes (d l))).getD (g2.readV l n) else g2.readV l n) ∧
      (∀ n, g4.readK n = (lastTo n (o.form.kWrites (d ((lanesOf m).headD 0)))).getD (g2.readK n)) := by
  have hall : (((lanesOf m).map fun l => (l, LaneOut.done (d l))).all fun p => p.2.isDone) = true := by simp [LaneOut.isDone]
  have hany : (((lanesOf m).map fun l => (l, LaneOut.done (d l))).any fun p => p.2.completes) = true := by
    obtain ⟨x, hx⟩ := List.exists_mem_of_ne_nil _ hne
    simp only [List.any_map, List.any_eq_true]
    exact ⟨x, hx, rfl⟩
  have hwait : (((lanesOf m).map fun l => (l, LaneOut.done (d l))).any fun p => p.2.waits) = false := by
    simp [LaneOut.waits]
  obtain ⟨k1, k2⟩ := Gang.writeKs_rest (o.form.kWrites (d ((lanesOf m).headD 0))) g2
  have k3 := Gang.readK_writeKs (o.form.kWrites (d ((lanesOf m).headD 0))) g2
  generalize hgk : (o.form.kWrites (d ((lanesOf m).headD 0))).foldl (fun g p => g.writeK p.1 p.2) g2 = gK at k1 k2 k3
  have hth : ∀ l, gK.th l = g2.th l := Gang.th_congr k1
  have hset := o.form.settleLanes_done hd d (lanesOf m) gK (lanesOf_nodup m)
    (fun l hl => by rw [k1, hlen]; exact (mem_lanesOf.1 hl).1) (fun l hl => by rw [hth]; exact he l hl)
  obtain ⟨c1, c2, c3, c4⟩ := o.form.completeAll_facts d (lanesOf m) gK (lanesOf_nodup m)
    (fun l hl => by rw [k1, hlen]; exact (mem_lanesOf.1 hl).1) hw
  generalize hgC : o.form.completeAll gK d (lanesOf m) = gC at hset c1 c2 c3 c4
  -- the gang after the interval and the guard
  obtain ⟨gD, hgD, d1, d2, d3⟩ : ∃ gD : Gang,
      (if (o.form.rbCls && ((lanesOf m).map fun l => (l, LaneOut.done (d l))).any fun p => p.2.completes) = true then
        { (if (o.form.sync && ((lanesOf m).map fun l => (l, LaneOut.done (d l))).any fun p => p.2.completes) = true then gC.endInterval else gC) with guard := false }
       else (if (o.form.sync && ((lanesOf m).map fun l => (l, LaneOut.done (d l))).any fun p => p.2.completes) = true then gC.endInterval else gC)) = gD ∧
      gD.threads = gC.threads ∧ gD.v = gC.v ∧ gD.k = gC.k := by
    refine ⟨_, rfl, ?_, ?_, ?_⟩ <;> (split <;> split <;> rfl)
  have lenD : gD.threads.length = 32 := by rw [d1, c1, k1, hlen]
  have thD : ∀ l ∈ lanesOf m, gD.th l = o.form.threadAfter (g2.th l) (d l) := fun l hl => by
    rw [Gang.th_congr d1, c3, if_pos hl, hth]
  have runD : ∀ l ∈ lanesOf m, (gD.th l).run = .run := fun l hl => by
    rw [thD l hl]; unfold Form.threadAfter; simp only; split <;> rfl
  have otherD : ∀ l, l ∉ lanesOf m → gD.th l = g2.th l := fun l hl => by
    rw [Gang.th_congr d1, c3, if_neg hl, hth]
  have settled : ∀ (x : Gang), x.threads = gD.settle.threads ∧ x.v = gD.settle.v ∧ x.k = gD.settle.k →
      x.threads.length = 32 ∧ (∀ l ∈ lanesOf m, x.th l = o.form.threadAfter (g2.th l) (d l)) ∧
      (∀ l, l < 32 → l ∉ lanesOf m → ThreadKept (g2.th l) (x.th l)) ∧
      (∀ l n, n < 128 → x.readV l n = if l ∈ lanesOf m then (lastTo n (o.form.writes (d l))).getD (g2.readV l n) else g2.readV l n) ∧
      (∀ n, x.readK n = (lastTo n (o.form.kWrites (d ((lanesOf m).headD 0)))).getD (g2.readK n)) := by
    rintro x ⟨x1, x2, x3⟩
    refine ⟨by rw [x1]; simpa using lenD, fun l hl => ?_, fun l h32 hl => ?_, fun l n hn => ?_, fun n => ?_⟩
    · rw [Gang.th_congr x1, gD.settle_running (by rw [lenD]; exact (mem_lanesOf.1 hl).1) (runD l hl), thD l hl]
    · obtain ⟨q1, q2, q3, q4, q5, _⟩ := gD.settle_keeps (l := l) (by rw [lenD]; exact h32)
      rw [otherD l hl] at q1 q2 q3 q4 q5
      exact ⟨by rw [Gang.th_congr x1]; exact q1, by rw [Gang.th_congr x1]; exact q2, by rw [Gang.th_congr x1]; exact q3,
        by rw [Gang.th_congr x1]; exact q4, by rw [Gang.th_congr x1]; exact q5⟩
    · rw [Gang.readV_congr x2, Gang.readV_congr gD.settle_v, Gang.readV_congr d2, c4 l n hn, Gang.readV_congr k2]
    · rw [Gang.readK_congr x3, Gang.readK_congr gD.settle_k, Gang.readK_congr d3, Gang.readK_congr c2, k3]
  unfold Op.finish
  simp only [hwait, Bool.and_false, Bool.false_eq_true, ↓reduceIte, hg, firstDone_map d _ hne, hgk, hset, hgD]
  split
  · exact ⟨.setGang _ _ _, .setGang _ _ _, gD.settle, by simp, settled _ ⟨rfl, rfl, rfl⟩⟩
  · have e1 : (s2.setGang gk gD).freezeAll gk [] = s2.setGang gk gD := rfl
    rw [e1]
    have hs : ((s2.setGang gk gD).mapGang gk Gang.settle).gang? gk = some gD.settle := by simp
    have hlive : gD.settle.live ≠ [] := by
      obtain ⟨l, hl⟩ := List.exists_mem_of_ne_nil _ hne
      have h32 := (mem_lanesOf.1 hl).1
      have : l ∈ gD.settle.live := by
        simp only [Gang.live, List.mem_filter, List.mem_range]
        refine ⟨h32, ?_⟩
        rw [gD.settle_running (by rw [lenD]; exact h32) (runD l hl), runD l hl]; rfl
      intro h; rw [h] at this; cases this
    rw [State.unattend_live hs hlive]
    have sched : SchedOnly ((s2.setGang gk gD).mapGang gk Gang.settle) (if ((((lanesOf m).map fun l => (l, LaneOut.done (d l))).all fun p => p.2.completes) &&
        ([] : List (Nat × Flt)).isEmpty && !hit && !o.form.sCls && (((s2.setGang gk gD).mapGang gk Gang.settle).settleBarriers gD.crew).stillRuns gk) = true
        then ((s2.setGang gk gD).mapGang gk Gang.settle).settleBarriers gD.crew
        else (((s2.setGang gk gD).mapGang gk Gang.settle).settleBarriers gD.crew).releaseSlot gk) := by
      refine (State.settleBarriers_only _ gD.crew).trans ?_
      split
      · exact .refl _
      · exact State.releaseSlot_only _ gk
    obtain ⟨y, hy, same⟩ := sched.self gk _ hs
    refine ⟨((RestKept.setGang s2 gk gD).trans (.mapGang _ gk Gang.settle)).trans sched.rest, ?_, y, hy, settled y same⟩
    refine ((OthersKept.setGang s2 gk gD).trans ?_).trans (sched.others gk)
    exact fun k hk x hx => ⟨x, by rw [State.gang?_mapGang, if_neg (Ne.symm hk)]; exact hx, .refl x⟩

theorem mergeOuts_nil (ls : List Nat) (f : Nat → LaneOut) (h : ls.Nodup) : mergeOuts ls [] (ls.map fun l => (l, f l)) = ls.map fun l => (l, f l) := by
  have key : ∀ (xs : List Nat), (∀ l ∈ xs, l ∈ ls) → xs.filterMap (fun l => (ls.map fun l => (l, f l)).find? fun p => p.1 == l) = xs.map fun l => (l, f l) := by
    intro xs
    induction xs with
    | nil => intro _; rfl
    | cons x t ih =>
      intro hx
      have hf : (ls.map fun l => (l, f l)).find? (fun p => p.1 == x) = some (x, f x) := by
        have hm := hx x (List.mem_cons_self ..)
        clear ih hx h
        induction ls with
        | nil => cases hm
        | cons y r ihr =>
          rw [List.map_cons, List.find?_cons]
          by_cases e : y = x
          · subst e; simp
          · have : (y == x) = false := by simp [e]
            simp only [this]
            exact ihr ((List.mem_cons.1 hm).resolve_left (Ne.symm e))
      rw [List.filterMap_cons, hf]
      simp only [List.map_cons]
      rw [ih fun l hl => hx l (List.mem_cons_of_mem _ hl)]
  unfold mergeOuts
  simp only [List.find?_nil]
  exact key ls fun l hl => hl

variable {s : State} {gk : Nat} {h : Hints}

/-- The lanes that an accepted instruction executes for. -/
theorem Accepts.lanes (A : Accepts o s gk g m h) : (o.env s gk g (lanesOf m) h).lanes = lanesOf m := by
  have : o.form.operandFaults h.imm (o.form.prepare g (lanesOf m)) (lanesOf m) = [] := A.operands
  simp [Op.env, this]

theorem Accepts.lanes_ne (A : Accepts o s gk g m h) : (o.env s gk g (lanesOf m) h).lanes.isEmpty = false := by
  rw [A.lanes]
  simpa using A.some

/-- What the meaning of a word comes to, once accepted: its body, and the end of the instruction. -/
theorem run_accepted {i : Instr} {op : Hints → Op} (A : Accepts (op h) s gk g m h) {f : Nat → LaneOut} {s2 : State}
    (hb : (op h).body (s.setGang gk ((op h).reader g m)) ((op h).env s gk g (lanesOf m) h) = (s2, (lanesOf m).map fun l => (l, f l))) :
    run i op s = .next ((op h).finish s2 gk ⟨i, h, ((op h).env s gk g (lanesOf m) h).vals, s.clock, none⟩ ((lanesOf m).map fun l => (l, f l))
      ((lanesOf m).any fun l => (g.th l).hitsPending (op h).form.vRegs (op h).form.kRegs)).clearCur := by
  unfold run
  have hc : (op h).canIssue s gk g (lanesOf m) h = true := by
    have hm := A.memory
    simp only [Op.canIssue, A.ready, A.lanes, Bool.and_true]
    cases h' : (op h).form.mem <;> simp_all
  have ho : (op h).form.operandFaults h.imm ((op h).env s gk g (lanesOf m) h).g (lanesOf m) = [] := A.operands
  simp only [A.cur, A.gang, A.bound]
  unfold Op.issue
  simp only [A.check, hc, A.lanes_ne, ho, Bool.not_true, Bool.false_eq_true, ↓reduceIte]
  have e : ((op h).env s gk g (lanesOf m) h).g = (op h).reader g m := rfl
  rw [e, hb, mergeOuts_nil _ _ (lanesOf_nodup m)]

/-- The end of a lane that completes: what its thread becomes, from the thread and registers before the instruction. -/
def Form.endOf (f : Form) (t u : Thread) (d : Done) : LaneEnd where
  v := fun n => lastTo n (f.writes d)
  pc := d.npc.getD (t.pc + 4)
  fps := (d.set u).fps
  mt := (d.set u).mt
  clockhi := (d.set u).clockhi
  region := f.rbCls

/-- A change of a thread that an instruction makes beside its results: FPSTATUS, the meeting address, the CLOCK latch. -/
structure SetsOnly (f : Thread → Thread) : Prop where
  pc : ∀ t, (f t).pc = t.pc
  rep : ∀ t, (f t).rep = t.rep
  rcnt : ∀ t, (f t).rcnt = t.rcnt
  hints : ∀ t, (f t).hints = t.hints
  bare : ∀ t u : Thread, t.bare = u.bare →
    (f t).fps = (f u).fps ∧ (f t).mt = (f u).mt ∧ (f t).clockhi = (f u).clockhi

theorem SetsOnly.none_ : SetsOnly id := ⟨fun _ => rfl, fun _ => rfl, fun _ => rfl, fun _ => rfl, fun _ _ h =>
  have e := Thread.of_bare h
  ⟨e.2.2.2.1, e.2.2.2.2.1, e.2.2.2.2.2.1⟩⟩

/-- THE COMPLETION OF AN INSTRUCTION. An accepted instruction whose body completes every lane answers a next state, in which each lane is as its results say. -/
theorem run_done {i : Instr} {op : Hints → Op} (A : Accepts (op h) s gk g m h) {d : Nat → Done} {s2 : State} {g2 : Gang}
    (hb : (op h).body (s.setGang gk ((op h).reader g m)) ((op h).env s gk g (lanesOf m) h) = (s2, (lanesOf m).map fun l => (l, .done (d l))))
    (hg : s2.gang? gk = some g2) (hr : SameRegs ((op h).reader g m) g2) (hs : ∀ l, SetsOnly (d l).set)
    (hw : ∀ l ∈ lanesOf m, ∀ p ∈ (op h).form.writes (d l), p.1 < 128) :
    ∃ t, run i op s = .next t ∧ RestKept s2 t ∧ OthersKept s2 t gk ∧
      Passed t gk g m (fun l => (op h).form.endOf (g.th l) (((op h).reader g m).th l) (d l))
        (fun n => lastTo n ((op h).form.kWrites (d ((lanesOf m).headD 0)))) := by
  have len2 : g2.threads.length = 32 := by rw [hr.len]; simpa using A.whole
  have hpc : ∀ l, l < 32 → (g2.th l).pc = (g.th l).pc := fun l hl => by
    rw [hr.pc]; exact ((op h).form.prepare_keeps g (lanesOf m) (by rw [A.whole]; exact hl)).1
  obtain ⟨a1, a1', g4, a2, a3, a4, a5, a6, a7⟩ := (op h).finish_done s2 gk ⟨i, h, ((op h).env s gk g (lanesOf m) h).vals, s.clock, none⟩ m
    ((lanesOf m).any fun l => (g.th l).hitsPending (op h).form.vRegs (op h).form.kRegs) d g2 hg len2 A.some hw
    (fun l hl => .inr (by rw [hpc l (mem_lanesOf.1 hl).1]; exact A.inside l hl))
  refine ⟨_, run_accepted A hb, a1.trans (.clearCur _), a1', rfl, g4, a2, a3, ?_, ?_, ?_, ?_⟩
  · intro l hl
    have h32 := (mem_lanesOf.1 hl).1
    obtain ⟨p1, p2, p3, p4, p5, p6, p7⟩ := (op h).form.prepare_keeps g (lanesOf m) (l := l) (by rw [A.whole]; exact h32)
    have p8 := (op h).form.prepare_hints g (lanesOf m) (l := l) (by rw [A.whole]; exact h32) hl
    obtain ⟨b1, b2, b3⟩ := (hs l).bare _ _ (hr.th l)
    obtain ⟨_, r2, r3, _, _, _, r7, _⟩ := Thread.of_bare (hr.th l)
    have hrep : (g2.th l).rep = (g.th l).rep := r2.trans p2
    have hrc : (g2.th l).rcnt = (g.th l).rcnt := r3.trans p3
    have hh : (g2.th l).hints = Hints.none_ := r7.trans p8
    rw [a4 l hl]
    obtain ⟨f1, f2, f3, f4, f5, f6, f7, f8⟩ := (op h).form.threadAfter_keeps (g2.th l) (d l)
    rw [(hs l).pc, hpc l h32] at f2 f7
    rw [(hs l).rep, hrep] at f7
    rw [(hs l).rcnt, hrc] at f8
    exact ⟨f1, f2, f3.trans b1, f4.trans b2, f5.trans b3, f6.trans (((hs l).hints _).trans hh), f7, f8⟩
  · intro l h32 hl
    obtain ⟨q1, q2, q3, q4, q5⟩ := a5 l h32 hl
    obtain ⟨p1, p2, p3, p4, _, p6, _⟩ := (op h).form.prepare_keeps g (lanesOf m) (l := l) (by rw [A.whole]; exact h32)
    obtain ⟨r1, r2, r3, r4, _, r6, _⟩ := Thread.of_bare (hr.th l)
    exact ⟨q1.trans (r1.trans p1), q2.trans (r2.trans p2), q3.trans (r3.trans p3), q4.trans (r4.trans p4), q5.trans (r6.trans p6)⟩
  · intro l n _ hn; rw [a6 l n hn, Gang.readV_congr hr.v]; rfl
  · intro n; rw [a7, Gang.readK_congr hr.k]; rfl

end Sys2Proof.Machine
end

