-- ==== Sys2Proof/Laws/Register.lean ====
section
/-! SUPPORT. Completion of register instructions: where an accepted instruction computes its results lane by lane, what it leaves is what its results say. -/

namespace Sys2Proof.Machine

variable {s : State} {gk : Nat} {g : Gang} {m : Nat} {h : Hints}

theorem lastTo_append (n : Nat) (a b : List (Nat × Word)) : lastTo n (a ++ b) = (match lastTo n b with | some y => some y | none => lastTo n a) := by
  induction a with
  | nil => rw [List.nil_append]; cases lastTo n b <;> rfl
  | cons p t ih =>
    obtain ⟨i, x⟩ := p
    simp only [List.cons_append, lastTo, ih]
    cases lastTo n b <;> rfl

theorem lastTo_range (d n : Nat) (f : Nat → Word) (k : Nat) :
    lastTo n ((List.range k).map fun i => (d + i, f i)) = if d ≤ n ∧ n < d + k then some (f (n - d)) else none := by
  induction k with
  | zero =>
    rw [if_neg (by omega)]
    rfl
  | succ k ih =>
    rw [List.range_succ, List.map_append, lastTo_append, ih]
    simp only [List.map_cons, List.map_nil, lastTo]
    by_cases e : d + k = n
    · subst e
      have h1 : d ≤ d + k ∧ d + k < d + (k + 1) := by omega
      simp [h1]
    · simp only [e, ↓reduceIte]
      by_cases h1 : d ≤ n ∧ n < d + k
      · rw [if_pos h1, if_pos (by omega)]
      · rw [if_neg h1, if_neg (by omega)]

/-- The v registers that a form writes, from the words of its destination. -/
theorem Form.lastTo_writes (f : Form) (d : Done) (n : Nat) (ha : d.also = []) :
    lastTo n (f.writes d) = match f.dst with
      | .v r => if f.nw = false ∧ r ≤ n ∧ n < r + d.ws.length then some (d.ws.getD (n - r) 0) else none
      | _ => none := by
  unfold Form.writes
  rw [ha, List.append_nil]
  cases f.dst with
  | v r =>
    simp only
    cases f.nw with
    | true => simp [lastTo]
    | false => simp [lastTo_range]
  | k r => rfl
  | none => rfl

theorem Form.lastTo_kWrites (f : Form) (d : Done) (n : Nat) :
    lastTo n (f.kWrites d) = match f.dst with
      | .k r => kWords f.nw r d.ws n
      | _ => none := by
  unfold Form.kWrites
  cases f.dst with
  | k r =>
    simp only [kWords]
    cases f.nw with
    | true => simp [lastTo]
    | false => simp [lastTo_range]
  | v r => rfl
  | none => rfl

/-- An accepted instruction that completes every lane on its own state leaves what the lanes' results say. -/
theorem run_went {i : Instr} {op : Hints → Op} (A : Accepts (op h) s gk g m h) {d : Nat → Done}
    (hb : (op h).body (s.setGang gk ((op h).reader g m)) ((op h).env s gk g (lanesOf m) h) =
      (s.setGang gk ((op h).reader g m), (lanesOf m).map fun l => (l, .done (d l))))
    (hs : ∀ l, SetsOnly (d l).set) (hw : ∀ l ∈ lanesOf m, ∀ p ∈ (op h).form.writes (d l), p.1 < 128) :
    ∃ t, run i op s = .next t ∧
      Went s t gk g m (fun l => (op h).form.endOf (g.th l) (((op h).reader g m).th l) (d l))
        (fun n => lastTo n ((op h).form.kWrites (d ((lanesOf m).headD 0)))) := by
  obtain ⟨t, h1, h2, h3, h4⟩ := run_done (i := i) A hb (by simp) (.refl _) hs hw
  exact ⟨t, h1, h4, (RestKept.setGang s gk _).trans h2, (OthersKept.setGang s gk _).trans h3⟩

/-- Two descriptions of lanes that agree on the 128 registers describe the same outcome. -/
theorem Passed.congr {t : State} {e e' : Nat → LaneEnd} {kw kw' : Nat → Option Word} (w : Passed t gk g m e kw)
    (he : ∀ l ∈ lanesOf m, (∀ n, n < 128 → (e' l).v n = (e l).v n) ∧ (e' l).pc = (e l).pc ∧ (e' l).fps = (e l).fps ∧ (e' l).mt = (e l).mt ∧
      (e' l).clockhi = (e l).clockhi ∧ (e' l).region = (e l).region) (hk : ∀ n, kw' n = kw n) : Passed t gk g m e' kw' := by
  obtain ⟨w1, g', w2, w3, w4, w5, w6, w7⟩ := w
  refine ⟨w1, g', w2, w3, fun l hl => ?_, w5, fun l n hl hn => ?_, fun n => by rw [hk, w7]⟩
  · obtain ⟨a1, a2, a3, a4, a5, a6⟩ := he l hl
    obtain ⟨b1, b2, b3, b4, b5, b6, b7, b8⟩ := w4 l hl
    exact ⟨b1, b2.trans a2.symm, b3.trans a3.symm, b4.trans a4.symm, b5.trans a5.symm, b6, by rw [a6, a2]; exact b7, by rw [a6]; exact b8⟩
  · rw [w6 l n hl hn]
    split
    · rename_i hm; rw [(he l hm).1 n hn]
    · rfl

theorem Went.congr {t : State} {e e' : Nat → LaneEnd} {kw kw' : Nat → Option Word} (w : Went s t gk g m e kw)
    (he : ∀ l ∈ lanesOf m, (∀ n, n < 128 → (e' l).v n = (e l).v n) ∧ (e' l).pc = (e l).pc ∧ (e' l).fps = (e l).fps ∧ (e' l).mt = (e l).mt ∧
      (e' l).clockhi = (e l).clockhi ∧ (e' l).region = (e l).region) (hk : ∀ n, kw' n = kw n) : Went s t gk g m e' kw' :=
  ⟨w.self.congr he hk, w.rest, w.others⟩

/-- The bodies that take each lane by itself. -/
theorem perLane_eq {o : Op} {f : Env → Nat → LaneOut} (A : Accepts o s gk g m h) (hb : o.body = perLane f) {d : Nat → LaneOut}
    (hd : ∀ l ∈ lanesOf m, f (o.env s gk g (lanesOf m) h) l = d l) :
    o.body (s.setGang gk (o.reader g m)) (o.env s gk g (lanesOf m) h) = (s.setGang gk (o.reader g m), (lanesOf m).map fun l => (l, d l)) := by
  rw [hb]
  simp only [perLane, A.lanes, Prod.mk.injEq, true_and]
  exact List.map_congr_left fun l hl => by rw [hd l hl]

/-- A register instruction with a vector destination. -/
theorem run_vec {i : Instr} {op : Hints → Op} {f : Env → Nat → LaneOut} {nw : Bool} {r k : Nat} {ws : Nat → List Word} {set : Nat → Thread → Thread}
    (A : Accepts (op h) s gk g m h) (hb : (op h).body = perLane f) (hf : (op h).form.dst = .v r) (hn : (op h).form.nw = nw)
    (hrb : (op h).form.rbCls = false) (hk : r + k ≤ 128) (hs : ∀ l, SetsOnly (set l))
    (hd : ∀ l ∈ lanesOf m, f ((op h).env s gk g (lanesOf m) h) l = .done { ws := ws l, set := set l } ∧ (ws l).length = k) :
    ∃ t, run i op s = .next t ∧ Went s t gk g m (fun l => { (LaneEnd.on (g.th l)).writes nw r (ws l) with
      fps := (set l (((op h).reader g m).th l)).fps, mt := (set l (((op h).reader g m).th l)).mt
      clockhi := (set l (((op h).reader g m).th l)).clockhi }) noK := by
  obtain ⟨t, h1, h2⟩ := run_went (i := i) A (d := fun l => { ws := ws l, set := set l }) (perLane_eq A hb fun l hl => (hd l hl).1) hs (by
    intro l hl p hp
    simp only [Form.writes, hf, List.append_nil] at hp
    split at hp
    · cases hp
    · simp only [List.mem_map, List.mem_range] at hp
      obtain ⟨j, hj, rfl⟩ := hp
      rw [(hd l hl).2] at hj
      simp only; omega)
  refine ⟨t, h1, h2.congr (fun l _ => ⟨fun n _ => ?_, rfl, rfl, rfl, rfl, hrb.symm⟩) (fun n => ?_)⟩
  · simp only [Form.endOf, LaneEnd.writes]
    rw [Form.lastTo_writes _ _ _ rfl, hf, hn]
  · simp only [Form.lastTo_kWrites, hf, noK]

/-- A register instruction with a uniform destination. -/
theorem run_uni {i : Instr} {op : Hints → Op} {nw : Bool} {r : Nat} {ws : List Word} {set : Nat → Thread → Thread}
    (A : Accepts (op h) s gk g m h)
    (hb : (op h).body (s.setGang gk ((op h).reader g m)) ((op h).env s gk g (lanesOf m) h) =
      (s.setGang gk ((op h).reader g m), (lanesOf m).map fun l => (l, .done { ws := ws, set := set l })))
    (hf : (op h).form.dst = .k r) (hn : (op h).form.nw = nw) (hrb : (op h).form.rbCls = false) (hs : ∀ l, SetsOnly (set l)) :
    ∃ t, run i op s = .next t ∧ Went s t gk g m (fun l => { LaneEnd.on (g.th l) with
      fps := (set l (((op h).reader g m).th l)).fps, mt := (set l (((op h).reader g m).th l)).mt
      clockhi := (set l (((op h).reader g m).th l)).clockhi }) (kWords nw r ws) := by
  obtain ⟨t, h1, h2⟩ := run_went (i := i) A (d := fun l => { ws := ws, set := set l }) hb hs (by
    intro l _ p hp
    simp [Form.writes, hf] at hp)
  refine ⟨t, h1, h2.congr (fun l _ => ⟨fun n _ => ?_, rfl, rfl, rfl, rfl, hrb.symm⟩) (fun n => ?_)⟩
  · simp only [Form.endOf, LaneEnd.on]
    rw [Form.lastTo_writes _ _ _ rfl, hf]
  · simp only [Form.lastTo_kWrites, hf, hn]

/-- A thread's registers beside its PC, read with the operands. -/
theorem Accepts.reader_th {o : Op} (A : Accepts o s gk g m h) {l : Nat} (hl : l ∈ lanesOf m) :
    ((o.reader g m).th l).pc = (g.th l).pc ∧ ((o.reader g m).th l).fps = (g.th l).fps ∧ ((o.reader g m).th l).mt = (g.th l).mt ∧
    ((o.reader g m).th l).clockhi = (g.th l).clockhi := by
  obtain ⟨p1, _, _, p4, p5, p6, _⟩ := o.form.prepare_keeps g (lanesOf m) (l := l) (by rw [A.whole]; exact (mem_lanesOf.1 hl).1)
  exact ⟨p1, p4, p5, p6⟩

/-- A register instruction whose words go to vD and that touches nothing else of its threads. -/
theorem run_words {i : Instr} {op : Hints → Op} {f : Env → Nat → LaneOut} {nw : Bool} {r k : Nat} {ws : Nat → List Word}
    (A : Accepts (op h) s gk g m h) (hb : (op h).body = perLane f) (hf : (op h).form.dst = .v r) (hn : (op h).form.nw = nw)
    (hrb : (op h).form.rbCls = false) (hk : r + k ≤ 128)
    (hd : ∀ l ∈ lanesOf m, f ((op h).env s gk g (lanesOf m) h) l = .done { ws := ws l } ∧ (ws l).length = k) :
    ∃ t, run i op s = .next t ∧ Went s t gk g m (fun l => (LaneEnd.on (g.th l)).writes nw r (ws l)) noK := by
  obtain ⟨t, h1, h2⟩ := run_vec (i := i) (set := fun _ => id) A hb hf hn hrb hk (fun _ => SetsOnly.none_) hd
  refine ⟨t, h1, h2.congr (fun l hl => ?_) fun _ => rfl⟩
  obtain ⟨_, p2, p3, p4⟩ := A.reader_th hl
  exact ⟨fun _ _ => rfl, rfl, p2.symm, p3.symm, p4.symm, rfl⟩

end Sys2Proof.Machine
end

