-- ==== Sys2Proof/Laws/Access.lean ====
section
/-! SUPPORT. What the parts of an access leave of the gangs: translation, recording, caches and the bytes change no register, and of a thread its last-page register alone. -/

namespace Sys2Proof.Machine

/-- Every gang keeps its registers and, last-page registers apart, its threads. -/
def RegsKept (s t : State) : Prop := ∀ k x, s.gang? k = some x → ∃ y, t.gang? k = some y ∧ SameRegs x y

theorem RegsKept.refl (s : State) : RegsKept s s := fun _ x h => ⟨x, h, .refl x⟩

theorem RegsKept.trans {s t u : State} (a : RegsKept s t) (b : RegsKept t u) : RegsKept s u := fun k x hx => by
  obtain ⟨y, hy, h⟩ := a k x hx
  obtain ⟨z, hz, i⟩ := b k y hy
  exact ⟨z, hz, h.trans i⟩

theorem RegsKept.of_gangs {s t : State} (h : t.gangs = s.gangs) : RegsKept s t := fun k x hx => ⟨x, by
  simpa [State.gang?, h] using hx, .refl x⟩

theorem RegsKept.others {s t : State} (a : RegsKept s t) (gk : Nat) : OthersKept s t gk := fun k _ x hx => a k x hx

/-- A change of every gang. -/
theorem Tbl.find?_map {α β : Type} (t : Tbl α) (f : α → β) (k : Nat) : Tbl.find? (t.map fun p => (p.1, f p.2)) k = (t.find? k).map f := by
  induction t with
  | nil => rfl
  | cons p t ih =>
    obtain ⟨n, a⟩ := p
    simp only [List.map_cons, Tbl.find?]
    split
    · rfl
    · exact ih

theorem RegsKept.mapAll (s : State) (f : Nat → Gang → Gang) (h : ∀ k x, SameRegs x (f k x)) :
    RegsKept s { s with gangs := s.gangs.map fun p => (p.1, f p.1 p.2) } := by
  intro k x hx
  have : ∀ (t : Tbl Gang), Tbl.find? (t.map fun p => (p.1, f p.1 p.2)) k = (t.find? k).map (f k) := by
    intro t
    induction t with
    | nil => rfl
    | cons p t ih =>
      obtain ⟨n, a⟩ := p
      simp only [List.map_cons, Tbl.find?]
      split
      · rename_i e; subst e; rfl
      · exact ih
  refine ⟨f k x, ?_, h k x⟩
  simp only [State.gang?] at *
  rw [this, hx]
  rfl

theorem RegsKept.mapGang (s : State) (k : Nat) (f : Gang → Gang) (h : ∀ x, SameRegs x (f x)) : RegsKept s (s.mapGang k f) := by
  intro j x hx
  rw [State.gang?_mapGang, hx]
  by_cases e : k = j
  · exact ⟨f x, by simp [e], h x⟩
  · exact ⟨x, by simp [e], .refl x⟩

theorem RegsKept.foldl {α : Type} (f : State → α → State) (h : ∀ s a, RegsKept s (f s a)) : ∀ (l : List α) (s : State), RegsKept s (l.foldl f s) := by
  intro l
  induction l with
  | nil => intro s; exact .refl s
  | cons a t ih => intro s; exact (h s a).trans (ih _)

/-- A gang in which threads lose or take a last-page register. -/
theorem SameRegs.lastPage (g : Gang) (f : Thread → Thread) (h : ∀ t, (f t).bare = t.bare) : SameRegs g { g with threads := g.threads.map f } :=
  ⟨by simp only [List.map_map]; exact List.map_congr_left fun t _ => h t, rfl, rfl⟩

theorem SameRegs.setTh (g : Gang) (l : Nat) (t : Thread) (h : t.bare = (g.th l).bare) : SameRegs g (g.setTh l t) := by
  refine ⟨?_, rfl, rfl⟩
  unfold Gang.setTh
  simp only [List.map_set, h]
  by_cases hl : l < g.threads.length
  · have : (g.th l).bare = (g.threads.map Thread.bare)[l]'(by simpa using hl) := by
      simp [Gang.th, List.getD_eq_getElem?_getD, hl]
    rw [this, List.set_getElem_self]
  · rw [List.set_eq_of_length_le (by simpa using hl)]

/-! ## Translation -/

theorem Thread.dropPage_bare (page : Nat) (t : Thread) : (t.dropPage page).bare = t.bare := by
  unfold Thread.dropPage
  split
  · split <;> rfl
  · rfl

theorem Gang.dropPage_same (ctx page : Nat) (g : Gang) : SameRegs g (g.dropPage ctx page) := by
  unfold Gang.dropPage
  split
  · exact SameRegs.lastPage g _ (Thread.dropPage_bare page)
  · exact .refl g

theorem State.sweepPage_regs (s : State) (ctx page : Nat) : RegsKept s (s.sweepPage ctx page) :=
  (RegsKept.mapAll s (fun _ => Gang.dropPage ctx page) fun _ x => x.dropPage_same ctx page).trans (.of_gangs rfl)

theorem State.setPage_gangs (s : State) (p : MigPage) : (s.setPage p).gangs = s.gangs := rfl
theorem State.fillTlbs_gangs (s : State) (c : Nat) (e : TlbEntry) : (s.fillTlbs c e).gangs = s.gangs := rfl

theorem State.setPage_regs (s : State) (p : MigPage) : RegsKept s (s.setPage p) := .of_gangs (s.setPage_gangs p)

theorem State.foldl_gangs {α : Type} (f : State → α → State) (h : ∀ s a, (f s a).gangs = s.gangs) : ∀ (l : List α) (s : State), (l.foldl f s).gangs = s.gangs := by
  intro l
  induction l with
  | nil => intro s; rfl
  | cons a t ih => intro s; rw [List.foldl_cons, ih, h]

theorem State.storeOver_gangs (s : State) (pa : Nat) (b : List Byte) : (s.storeOver pa b).gangs = s.gangs := by
  unfold State.storeOver
  rw [State.foldl_gangs State.dropCopies fun _ _ => rfl, State.store_gangs]

theorem State.storeLeaf_gangs (s : State) (at_ : Nat) (y : DWord) : (s.storeLeaf at_ y).gangs = s.gangs := by
  unfold State.storeLeaf
  split
  · rfl
  · exact s.storeOver_gangs _ _

theorem State.countRefusal_gangs (s : State) (pa n : Nat) : (s.countRefusal pa n).gangs = s.gangs := by
  unfold State.countRefusal
  split
  · split <;> rfl
  · rfl

theorem State.passHome_gangs (s : State) (ctx : Nat) (x : DWord) (pa n : Nat) (w : Bool) : (s.passHome ctx x pa n w).gangs = s.gangs := by
  unfold State.passHome
  split <;> rfl

theorem State.touchPage_gangs (s : State) (ctx : Nat) (va : DWord) (n : Nat) (a : Access) : (s.touchPage ctx va n a).gangs = s.gangs := by
  unfold State.touchPage
  split
  · exact (State.passHome_gangs _ _ _ _ _ _).trans (s.storeLeaf_gangs _ _)
  · exact s.countRefusal_gangs _ _
  · rfl

theorem State.putLeaf_regs (s : State) (l : MigLeaf) (x : DWord) : RegsKept s (s.putLeaf l x) :=
  (RegsKept.of_gangs (s.storeOver_gangs _ _)).trans (State.sweepPage_regs _ _ _)

theorem State.returnLeaf_regs (s : State) (b : Bool) (l : MigLeaf) : RegsKept s (s.returnLeaf b l) := by
  unfold State.returnLeaf
  simp only
  split
  · exact (s.putLeaf_regs _ _).trans (.of_gangs rfl)
  · exact s.putLeaf_regs _ _

theorem State.beginCollapse_regs (s : State) (a b c : Nat) (r : DWord) (p : MigPage) : RegsKept s (s.beginCollapse a b c r p) := by
  unfold State.beginCollapse
  dsimp only
  refine RegsKept.trans (RegsKept.trans ?_ (State.putLeaf_regs _ _ _)) (State.setPage_regs _ _)
  exact RegsKept.foldl _ (fun s k => s.returnLeaf_regs true k) p.leaves s

theorem State.writeDup_regs (s : State) (ctx page at_ : Nat) (x : DWord) : RegsKept s (s.writeDup ctx page at_ x) := by
  unfold State.writeDup
  dsimp only
  split
  · exact s.beginCollapse_regs _ _ _ _ _
  · split
    · exact s.beginCollapse_regs _ _ _ _ _
    · exact .refl s

theorem State.useLeaf_regs (s : State) (core ctx page first span at_ : Nat) (x : DWord) (a : Access) :
    RegsKept s (s.useLeaf core ctx page first span at_ x a).1 := by
  unfold State.useLeaf
  split
  · exact s.writeDup_regs _ _ _ _
  · split
    · exact .refl s
    · exact .of_gangs ((State.fillTlbs_gangs _ _ _).trans (s.storeLeaf_gangs _ _))

theorem State.useMaster_regs (s : State) (core ctx page at_ : Nat) (x : DWord) (a : Access) (p : MigPage) :
    RegsKept s (s.useMaster core ctx page at_ x a p).1 := by
  unfold State.useMaster
  split
  · exact .refl s
  · exact (State.setPage_regs _ _).trans (State.useLeaf_regs _ _ _ _ _ _ _ _ _)
  · split
    · exact State.useLeaf_regs _ _ _ _ _ _ _ _ _
    · split
      · split
        · exact State.beginCollapse_regs _ _ _ _ _ _
        · exact (State.setPage_regs _ _).trans (State.useLeaf_regs _ _ _ _ _ _ _ _ _)
      · exact .of_gangs (State.storeOver_gangs _ _ _)

theorem State.useRemote_regs (s : State) (core ctx page at_ : Nat) (x : DWord) (a : Access) :
    RegsKept s (s.useRemote core ctx page at_ x a).1 := by
  unfold State.useRemote
  dsimp only
  split
  · split <;> exact .refl s
  · exact State.useMaster_regs _ _ _ _ _ _ _ _

theorem State.lookPage_regs (s : State) (core ctx page : Nat) (a : Access) : RegsKept s (s.lookPage core ctx page a).1 := by
  unfold State.lookPage
  simp only
  split
  · exact .refl s
  · split
    · exact State.useLeaf_regs _ _ _ _ _ _ _ _ _
    · exact State.useRemote_regs _ _ _ _ _ _ _
    all_goals exact .refl s

theorem State.translatePage_regs (s : State) (core ctx page : Nat) (a : Access) : RegsKept s (s.translatePage core ctx page a).1 := by
  have h := s.lookPage_regs core ctx page a
  unfold State.translatePage
  split
  · rename_i t x e
    rw [e] at h
    split <;> exact h
  · exact h

theorem State.translateLane_regs (s : State) (gk : Nat) (g : Gang) (l page : Nat) (a : Access) :
    RegsKept s (s.translateLane gk g l page a).1 := by
  have h := s.translatePage_regs g.core g.ctx page a
  unfold State.translateLane
  simp only
  split
  · exact .refl s
  · split
    · rename_i t x e
      rw [e] at h
      exact h.trans (RegsKept.mapGang _ _ _ fun x => SameRegs.setTh x l _ rfl)
    · exact h

theorem State.globalLoc_regs (s : State) (gk : Nat) (g : Gang) (l : Nat) (ea : DWord) (q : Ask) : RegsKept s (s.globalLoc gk g l ea q).1 := by
  have h := s.translateLane_regs gk g l (ea.toNat / 2 ^ 19) q.acc
  unfold State.globalLoc
  split
  · exact .refl s
  · split
    · exact .refl s
    · generalize s.translateLane gk g l (ea.toNat / 2 ^ 19) q.acc = r at h
      obtain ⟨t, x⟩ := r
      simp only at h ⊢
      cases x with
      | wait => exact h
      | flt c n => exact h
      | ok x =>
        simp only
        repeat' split
        all_goals first
          | exact h
          | exact h.trans (.of_gangs (State.countRefusal_gangs _ _ _))

theorem State.locate_regs (s : State) (gk : Nat) (g : Gang) (l : Nat) (ea : DWord) (q : Ask) : RegsKept s (s.locate gk g l ea q).1 := by
  unfold State.locate
  split
  · exact .refl s
  · exact s.globalLoc_regs _ _ _ _ _

/-! ## Recording and caches -/

theorem Gang.closeIvs_same (p : Iv → Bool) (g : Gang) : SameRegs g (g.closeIvs p) := .of_eq rfl rfl rfl

theorem State.turnStamps_regs (s : State) : RegsKept s s.turnStamps := by
  unfold State.turnStamps
  split
  · exact .refl s
  · exact (RegsKept.mapAll s (fun _ => Gang.closeIntervals) fun _ x => x.closeIvs_same _).trans (.of_gangs rfl)

theorem State.freshEpoch_regs (s : State) (gk : Nat) (g : Gang) : RegsKept s (s.freshEpoch gk g) :=
  (RegsKept.mapGang s gk _ fun x => x.closeIvs_same _).trans (.of_gangs rfl)

theorem State.openIv_regs (s : State) (gk : Nat) : RegsKept s (s.openIv gk) := by
  unfold State.openIv
  split
  · exact .refl s
  · rename_i g _
    split
    · exact .refl s
    · exact (s.turnStamps_regs.trans (State.freshEpoch_regs _ gk g)).trans
        ((RegsKept.mapGang _ gk (fun g => { g with ivNum := g.ivNum + 1, ivs := ⟨g.ivNum + 1, (s.turnStamps.freshEpoch gk g).nextStamp, [], false⟩ :: g.ivs })
          fun _ => .of_eq rfl rfl rfl).trans (.of_gangs rfl))

/-- An access entered in its interval changes no register. -/
theorem State.access_regs (s : State) (gk : Nat) (iv p : Option Nat) : RegsKept s (s.access gk iv p) :=
  RegsKept.trans (by split <;> first | exact .refl s | exact s.openIv_regs gk) (RegsKept.mapGang _ gk _ fun _ => .of_eq rfl rfl rfl)

theorem State.closeUpTo_regs (s : State) (n : Nat) : RegsKept s (s.closeUpTo n) :=
  RegsKept.mapAll s (fun _ => Gang.closeIvs fun i => decide (i.stamp ≤ n)) fun _ x => x.closeIvs_same _

theorem State.closeNamed_regs (s : State) (a e : Nat) : RegsKept s (s.closeNamed a e) := by
  have h := RegsKept.mapAll s (fun _ x => if x.agent = a then x.closeIvs fun i => epochOf i.num == e else x)
    (fun _ x => by split; exact x.closeIvs_same _; exact .refl x)
  have e1 : s.closeNamed a e = { s with gangs := s.gangs.map fun p => (p.1, (fun _ (x : Gang) => if x.agent = a then x.closeIvs fun i => epochOf i.num == e else x) p.1 p.2) } := by
    unfold State.closeNamed
    congr 1
    apply List.map_congr_left
    intro p _
    by_cases hp : p.2.agent = a <;> simp [hp]
  rw [e1]
  exact h

theorem State.recordAccess_regs (s : State) (gk : Nat) (iv : Option Nat) (granule : Nat) (c w y : Bool) (p : Option Nat) :
    RegsKept s (s.recordAccess gk iv granule c w y p) := by
  unfold State.recordAccess
  split
  · exact s.access_regs gk iv p
  · refine RegsKept.trans (t := (match s.raceLook gk (s.tagOf granule) w y with | .force stamp => s.closeUpTo stamp | _ => s).access gk iv p) ?_ (.of_gangs rfl)
    refine RegsKept.trans ?_ (State.access_regs _ gk iv p)
    split
    · exact s.closeUpTo_regs _
    · exact .refl s

theorem State.endTagged_regs (s : State) (a n : Nat) : RegsKept s (s.endTagged a n) := by
  unfold State.endTagged
  refine RegsKept.trans (RegsKept.foldl _ (fun s t => ?_) _ s) (.of_gangs rfl)
  split
  · exact s.closeUpTo_regs _
  · exact .refl s
  · exact s.closeNamed_regs _ _

theorem State.homeFill_regs (s : State) (core ctx pa : Nat) (w : Bool) : RegsKept s (s.homeFill core ctx pa w) := by
  unfold State.homeFill
  simp only
  split
  · split
    · exact .of_gangs rfl
    · exact .refl s
  · refine RegsKept.trans ?_ (.of_gangs rfl)
    split
    · exact s.endTagged_regs _ _
    · exact .refl s

theorem State.homeRun_regs (s : State) (core ctx pa n : Nat) (w : Bool) : RegsKept s (s.homeRun core ctx pa n w) :=
  RegsKept.foldl _ (fun s a => s.homeFill_regs core ctx a w) _ s

theorem State.replaceLine_regs (s : State) (core : Nat) (y : Line) : RegsKept s (s.replaceLine core y) := by
  unfold State.replaceLine
  refine RegsKept.trans (t := if (y.dirty && regionOf y.addr == .hbm) = true then s.homeFill core y.ctx y.addr true else s) ?_ (.of_gangs rfl)
  split
  · exact s.homeFill_regs _ _ _ _
  · exact .refl s

theorem State.cacheFill_regs (s : State) (core ctx pa mode : Nat) : RegsKept s (s.cacheFill core ctx pa mode) := by
  unfold State.cacheFill
  simp only
  split
  · exact .of_gangs rfl
  · split
    · exact .of_gangs rfl
    · split
      · exact .refl s
      · exact ((RegsKept.of_gangs rfl).trans (State.replaceLine_regs { s with free := s.free + 1 } core _)).trans (.of_gangs rfl)

theorem State.cacheAccess_regs (s : State) (core ctx pa : Nat) (leaf : Option DWord) (mode : Nat) (w : Bool) :
    RegsKept s (s.cacheAccess core ctx pa leaf mode w) := by
  unfold State.cacheAccess
  split
  · exact .refl s
  · rename_i x
    have h1 : RegsKept s (if (regionOf pa == .hbm && leafMt x != 2) = true then s.homeFill core ctx pa w else s) := by
      split
      · exact s.homeFill_regs _ _ _ _
      · exact .refl s
    have h2 (t : State) : RegsKept t (if (cacheable x pa && !w && mode != 3) = true then t.cacheFill core ctx pa mode else t) := by
      split
      · exact t.cacheFill_regs _ _ _ _
      · exact .refl t
    have h3 (t : State) : RegsKept t (if w = true then t.cacheWrite core ctx pa mode else t) := by
      split
      · exact .of_gangs rfl
      · exact .refl t
    exact (h1.trans (h2 _)).trans (h3 _)

/-! ## Images, fault queues and messages -/

theorem State.writeImage_gangs (s : State) (ctx : Nat) (va : DWord) (b : List Byte) : (s.writeImage ctx va b).gangs = s.gangs := by
  have h (s : State) (va : DWord) (b : List Byte) : (s.writePage ctx va b).gangs = s.gangs := by
    unfold State.writePage
    repeat' split
    all_goals first
      | rfl
      | (simp only [State.passHome_gangs, State.storeOver_gangs, State.storeLeaf_gangs])
      | exact State.countRefusal_gangs _ _ _
  exact (h _ _ _).trans (h _ _ _)

theorem State.queueRec_gangs (s : State) (ctx : Nat) (r : Rec) : (s.queueRec ctx r).1.gangs = s.gangs := by
  unfold State.queueRec
  simp only
  split
  · rfl
  · split
    · rfl
    · exact State.writeImage_gangs _ _ _ _

theorem State.notePub_gangs (s : State) (crew : Nat) (b : Option (Nat × Nat)) : (s.notePub crew b).gangs = s.gangs := by
  unfold State.notePub
  cases s.crew? crew with
  | none => rfl
  | some c =>
    dsimp only
    generalize ringRec _ _ _ _ _ _ _ = r
    generalize (_ && !_ : Bool) = b
    generalize hm : State.mapCrew s crew _ = t
    have ht : t.gangs = s.gangs := by subst hm; exact s.mapCrew_gangs _ _
    clear hm
    cases b
    · exact ht
    · exact (State.queueRec_gangs _ _ _).trans ht

theorem State.pubStored_gangs (s : State) (pa n : Nat) (b : Option (Nat × Nat)) : (s.pubStored pa n b).gangs = s.gangs := by
  unfold State.pubStored
  repeat' split
  all_goals first
    | rfl
    | exact s.notePub_gangs _ _

theorem State.writeSlot_gangs (s : State) (p slot : Nat) (r : ModReq) (st : Option Nat) (v : DWord) : (s.writeSlot p slot r st v).1.gangs = s.gangs := by
  unfold State.writeSlot
  simp only [State.mapPort_gangs]

theorem State.modCommand_gangs (s : State) (p : Nat) (r : ModReq) (st : Nat) (v : DWord) : (s.modCommand p r st v).gangs = s.gangs := by
  unfold State.modCommand
  split
  · exact State.writeSlot_gangs _ _ _ _ _ _
  · rfl

theorem State.carry_gangs (s : State) (peer : Nat) : (s.carry peer).gangs = s.gangs := by
  unfold State.carry
  dsimp only
  split
  · rfl
  · split
    · exact State.modCommand_gangs _ _ _ _ _
    · rfl

theorem State.pairSend_gangs (s : State) (peer : Nat) (b : PairBody) : (s.pairSend peer b).gangs = s.gangs := by
  unfold State.pairSend
  rw [State.carry_gangs]
  rfl

theorem State.relayAccess_gangs (s : State) (world pa kind : Nat) (b : List Byte) (n : Nat) (w : RelayWait) : (s.relayAccess world pa kind b n w).gangs = s.gangs := by
  unfold State.relayAccess
  repeat' split
  all_goals first
    | rfl
    | exact (State.pairSend_gangs _ _ _ : (State.pairSend _ _ _).gangs = _)

theorem State.askRelay_gangs (s : State) (core pa kind : Nat) (b : List Byte) (n : Nat) (w : RelayWait) : (s.askRelay core pa kind b n w).gangs = s.gangs :=
  s.relayAccess_gangs _ _ _ _ _ _

theorem State.askAtomic_gangs (s : State) (world pa op w : Nat) (data cmp : DWord) (posted : Bool) (v : DWord) (who : RelayWait) :
    (s.askAtomic world pa op w data cmp posted v who).gangs = s.gangs := by
  unfold State.askAtomic
  split
  · exact State.modCommand_gangs _ _ _ _ _
  · exact s.relayAccess_gangs _ _ _ _ _ _

theorem State.putBytes_gangs (s : State) (pa : Nat) (b : List Byte) : (s.putBytes pa b).gangs = s.gangs := by
  unfold State.putBytes
  split
  · rfl
  · split <;> rfl
  · rfl

theorem State.bytesAt_gangs (s : State) (m : List Host.Cell) (pa n : Nat) : (s.bytesAt m pa n).1.gangs = s.gangs := by
  unfold State.bytesAt
  split <;> rfl

theorem State.setFull_gangs (s : State) (pa : Nat) (b : Bool) : (s.setFull pa b).gangs = s.gangs := rfl

end Sys2Proof.Machine
end

