-- ==== Sys2Proof/Laws/Chain.lean ====
section
/-! SUPPORT. Completion of instructions whose lanes act on the machine one after the other, or once for the gang. -/

namespace Sys2Proof.Machine

variable {s : State} {gk : Nat} {g : Gang} {m : Nat} {h : Hints}

/-- The outcome of lanes in order, from a chain of their steps. -/
theorem inOrder_chain {f : State → Env → Nat → State × LaneOut} {e : Env} {link : State → Nat → State → Prop} {d : Nat → Done}
    (hl : ∀ s l t, link s l t → f s e l = (t, .done (d l))) {u : State} (c : Chain link s e.lanes u) :
    inOrder f s e = (u, e.lanes.map fun l => (l, .done (d l))) := by
  have key : ∀ (ls : List Nat) (s : State) (acc : List (Nat × LaneOut)), Chain link s ls u →
      ls.foldl (fun (acc : State × List (Nat × LaneOut)) l => let r := f acc.1 e l; (r.1, acc.2 ++ [(l, r.2)])) (s, acc) =
        (u, acc ++ ls.map fun l => (l, .done (d l))) := by
    intro ls
    induction ls with
    | nil => rintro s acc rfl; simp
    | cons l ls ih =>
      rintro s acc ⟨t, h1, h2⟩
      rw [List.foldl_cons, hl s l t h1]
      simp only
      rw [ih t _ h2]
      simp
  unfold inOrder
  rw [key _ _ _ c]
  rfl

theorem Chain.regs {link : State → Nat → State → Prop} (hl : ∀ s l t, link s l t → RegsKept s t) :
    ∀ {ls : List Nat} {s u : State}, Chain link s ls u → RegsKept s u := by
  intro ls
  induction ls with
  | nil => rintro s u rfl; exact .refl s
  | cons l ls ih =>
    rintro s u ⟨t, h1, h2⟩
    exact (hl s l t h1).trans (ih h2)

/-- The begun gang's registers carried to a later state. -/
theorem RegsKept.self {o : Op} {u : State} (r : RegsKept (o.begun s gk g m) u) : ∃ g2, u.gang? gk = some g2 ∧ SameRegs (o.reader g m) g2 :=
  r gk (o.reader g m) (by simp [Op.begun])

theorem RegsKept.fromBegun {o : Op} {u : State} (r : RegsKept (o.begun s gk g m) u) : OthersKept s u gk := fun k hk x hx =>
  r k x (by rw [State.gang?_setGang, if_neg (Ne.symm hk)]; exact hx)

theorem OthersKept.trans' {s t u : State} {gk : Nat} (a : OthersKept s t gk) (b : OthersKept t u gk) : OthersKept s u gk := a.trans b

/-- An accepted instruction whose body completes every lane on a state that keeps the registers. -/
theorem run_on {i : Instr} {op : Hints → Op} {d : Nat → Done} {u : State}
    (A : Accepts (op h) s gk g m h)
    (hb : (op h).body ((op h).begun s gk g m) ((op h).given s gk g m h) = (u, (lanesOf m).map fun l => (l, .done (d l))))
    (hr : RegsKept ((op h).begun s gk g m) u) (hs : ∀ l, SetsOnly (d l).set)
    (hw : ∀ l ∈ lanesOf m, ∀ p ∈ (op h).form.writes (d l), p.1 < 128) :
    ∃ t, run i op s = .next t ∧ WentOn s u t gk g m (fun l => (op h).form.endOf (g.th l) (((op h).reader g m).th l) (d l))
      (fun n => lastTo n ((op h).form.kWrites (d ((lanesOf m).headD 0)))) := by
  obtain ⟨g2, h1, h2⟩ := hr.self
  obtain ⟨t, a, b, c, p⟩ := run_done (i := i) A hb h1 h2 hs hw
  exact ⟨t, a, p, b, hr.fromBegun.trans c⟩

/-- An accepted instruction whose lanes act one after the other. -/
theorem run_chain {i : Instr} {op : Hints → Op} {f : State → Env → Nat → State × LaneOut} {link : State → Nat → State → Prop} {d : Nat → Done} {s1 u : State}
    (A : Accepts (op h) s gk g m h)
    (hb : (op h).body ((op h).begun s gk g m) ((op h).given s gk g m h) = inOrder f s1 ((op h).given s gk g m h))
    (h1 : RegsKept ((op h).begun s gk g m) s1)
    (hl : ∀ s' l t, link s' l t → f s' ((op h).given s gk g m h) l = (t, .done (d l)) ∧ RegsKept s' t)
    (c : Chain link s1 (lanesOf m) u) (hs : ∀ l, SetsOnly (d l).set)
    (hw : ∀ l ∈ lanesOf m, ∀ p ∈ (op h).form.writes (d l), p.1 < 128) :
    ∃ t, run i op s = .next t ∧ WentOn s u t gk g m (fun l => (op h).form.endOf (g.th l) (((op h).reader g m).th l) (d l))
      (fun n => lastTo n ((op h).form.kWrites (d ((lanesOf m).headD 0)))) := by
  have e : ((op h).given s gk g m h).lanes = lanesOf m := A.lanes
  have k := inOrder_chain (s := s1) (fun s l t x => (hl s l t x).1) (by rw [e]; exact c)
  rw [e] at k
  exact run_on (i := i) A (hb.trans k) (h1.trans (Chain.regs (fun s l t x => (hl s l t x).2) c)) hs hw

/-- Two descriptions of lanes that agree describe the same outcome. -/
theorem WentOn.congr {u t : State} {e e' : Nat → LaneEnd} {kw kw' : Nat → Option Word} (w : WentOn s u t gk g m e kw)
    (he : ∀ l ∈ lanesOf m, (∀ n, n < 128 → (e' l).v n = (e l).v n) ∧ (e' l).pc = (e l).pc ∧ (e' l).fps = (e l).fps ∧ (e' l).mt = (e l).mt ∧
      (e' l).clockhi = (e l).clockhi ∧ (e' l).region = (e l).region) (hk : ∀ n, kw' n = kw n) : WentOn s u t gk g m e' kw' :=
  ⟨w.self.congr he hk, w.rest, w.others⟩

/-- What `run_on` and `run_chain` say of lanes that complete with words for register D and no change of their threads. -/
theorem endOf_words {op : Hints → Op} (A : Accepts (op h) s gk g m h) {l : Nat} (hl : l ∈ lanesOf m) {d : Done} (ha : d.also = []) (hn : d.npc = none)
    (hs : d.set = id) {nw : Bool} {r : Nat} (hf : (op h).form.dst = .v r ∧ (op h).form.nw = nw ∨ (op h).form.dst = .none ∧ nw = true) :
    let e := (op h).form.endOf (g.th l) (((op h).reader g m).th l) d
    let e' := { (LaneEnd.on (g.th l)).writes nw r d.ws with region := (op h).form.rbCls }
    (∀ n, n < 128 → e'.v n = e.v n) ∧ e'.pc = e.pc ∧ e'.fps = e.fps ∧ e'.mt = e.mt ∧ e'.clockhi = e.clockhi ∧ e'.region = e.region := by
  obtain ⟨_, p2, p3, p4⟩ := A.reader_th hl
  refine ⟨fun n _ => ?_, ?_, ?_, ?_, ?_, rfl⟩
  · simp only [Form.endOf, LaneEnd.writes]
    rw [Form.lastTo_writes _ _ _ ha]
    rcases hf with ⟨e1, e2⟩ | ⟨e1, e2⟩
    · rw [e1, e2]
    · rw [e1, e2]; simp
  · simp [Form.endOf, LaneEnd.writes, LaneEnd.on, hn]
  · simp [Form.endOf, LaneEnd.writes, LaneEnd.on, hs, p2]
  · simp [Form.endOf, LaneEnd.writes, LaneEnd.on, hs, p3]
  · simp [Form.endOf, LaneEnd.writes, LaneEnd.on, hs, p4]

/-- The operand words that begin with a pair and a source. -/
theorem Op.given_vals {o : Op} (l : Nat) : (o.given s gk g m h).vals l = o.form.srcs.flatMap fun p => (s.viewOf (o.reader g m) h.imm).vals l p := rfl

theorem View.pairVals_eq (w : View) (l : Nat) (x : Src) : w.pairVals l x = [(w.pairVals l x).getD 0 0, (w.pairVals l x).getD 1 0] := by
  cases x <;> rfl

/-- The words of a position that names a pair and of one that names a source, before others. -/
theorem Op.given_addr {o : Op} {a b : Src} {rest : List Opnd} (hs : o.form.srcs = [.pair a, .src b .s] ++ rest) (l : Nat) :
    (o.given s gk g m h).ea l = o.opnd2 s g m h l a + (o.opnd s g m h .s l b).signExtend 64 ∧
    ((o.given s gk g m h).vals l).drop 3 = rest.flatMap fun p => (s.viewOf (o.reader g m) h.imm).vals l p := by
  have e : (o.given s gk g m h).vals l = (s.viewOf (o.reader g m) h.imm).pairVals l a ++ ((s.viewOf (o.reader g m) h.imm).value .s l b ::
      rest.flatMap fun p => (s.viewOf (o.reader g m) h.imm).vals l p) := by
    rw [Op.given_vals, hs]; simp [View.vals]
  rw [View.pairVals_eq] at e
  refine ⟨?_, ?_⟩
  · simp only [Env.ea, Env.pair, Env.val, e, Op.opnd2, Op.opnd]
    rfl
  · rw [e]; rfl

end Sys2Proof.Machine
end

