-- ==== Sys2Proof/Laws/Encode.lean ====
section
/-! SUPPORT. Lemmas of the encoder and the decoder (R39 to R42, R58, R59): operand codes, fields, displacements, and the round trip of each row shape of the opcode map. -/

namespace Sys2Proof

theorem Src.toCode_lt {a : Src} (h : a.wf = true) : a.toCode < 256 := by
  cases a <;> simp [Src.wf, Src.toCode] at * <;> omega

theorem Src.ofCode_toCode {a : Src} (h : a.wf = true) : Src.ofCode a.toCode = a := by
  cases a with
  | v n => simp only [Src.wf, decide_eq_true_eq] at h; simp [Src.toCode, Src.ofCode, h]
  | k n =>
    simp only [Src.wf, decide_eq_true_eq] at h
    have h1 : 128 + n < 224 := by omega
    simp [Src.toCode, Src.ofCode, h1]
  | d n =>
    simp only [Src.wf, Bool.and_eq_true, decide_eq_true_eq] at h
    have h1 : ¬ 223 + n < 128 := by omega
    have h2 : ¬ 223 + n < 224 := by omega
    have h3 : 223 + n < 232 := by omega
    rw [Src.toCode, Src.ofCode, if_neg h1, if_neg h2, if_pos h3]
    exact congrArg Src.d (by omega)
  | rsv c =>
    simp only [Src.wf, Bool.or_eq_true, Bool.and_eq_true, decide_eq_true_eq, beq_iff_eq] at h
    have h1 : ¬ c < 128 := by omega
    have h2 : ¬ c < 224 := by omega
    have h3 : ¬ c < 232 := by omega
    have h4 : c ≠ 232 ∧ c ≠ 233 ∧ c ≠ 234 ∧ c ≠ 235 ∧ c ≠ 236 ∧ c ≠ 237 ∧ c ≠ 254 := by omega
    simp [Src.toCode, Src.ofCode, h1, h2, h3, h4]
  | _ => rfl

/-- The fields that a word of format R, I or M can hold. -/
structure Fields.Fit (f : Fields) : Prop where
  maj : f.maj < 64
  nw : f.nw < 2
  d : f.d < 128
  a : f.a < 256
  b : f.b < 256
  mn : f.mn < 4

theorem Fields.word_lt {f : Fields} (h : f.Fit) : f.word < 4294967296 := by
  obtain ⟨h1, h2, h3, h4, h5, h6⟩ := h
  simp only [Fields.word]; omega

theorem fieldsOf_word {f : Fields} (h : f.Fit) : fieldsOf f.word = f := by
  obtain ⟨h1, h2, h3, h4, h5, h6⟩ := h
  cases f
  simp only [Fields.word, fieldsOf, Fields.mk.injEq] at *
  refine ⟨?_, ?_, ?_, ?_, ?_, ?_⟩ <;> omega

theorem Fields.word_fieldsOf {w : Nat} (h : w < 4294967296) : (fieldsOf w).word = w := by
  simp only [Fields.word, fieldsOf]; omega

theorem dispOf_dispCode {x : Int} (h : -131072 ≤ x ∧ x < 131072) : dispOf (dispCode x) = x := by
  unfold dispOf
  split <;> simp only [dispCode] at * <;> omega

theorem dispCode_lt (x : Int) : dispCode x < 262144 := by
  simp only [dispCode]; omega

/-- The row of the opcode map for a major and a minor. -/
def rowAt (maj mn : Nat) : Option Row :=
  match majors.getD maj .reserved with
  | .minors r0 r1 r2 r3 => some ((Major.minors r0 r1 r2 r3).row mn)
  | _ => none

theorem Major.decode_row {m : Major} {w : Nat} {r : Row} {mn : Nat} (hn : w % 4 = mn)
    (hr : (match m with | .minors r0 r1 r2 r3 => some ((Major.minors r0 r1 r2 r3).row mn) | _ => none) = some r) :
    m.decode w = r.decode w (fieldsOf w) := by
  cases m <;> simp only [reduceCtorEq, Option.some.injEq] at hr
  simp only [Major.decode, hn, hr]

theorem decodeNat_word {f : Fields} {r : Row} (h : f.Fit) (hr : rowAt f.maj f.mn = some r) :
    f.word < 4294967296 ∧ decodeNat f.word = r.decode f.word f := by
  refine ⟨f.word_lt h, ?_⟩
  have hn : f.word % 4 = f.mn := by
    obtain ⟨h1, h2, h3, h4, h5, h6⟩ := h
    simp only [Fields.word]; omega
  have hd := Major.decode_row (m := majors.getD f.maj .reserved) hn hr
  simp only [decodeNat, fieldsOf_word h] at hd ⊢
  exact hd

theorem bit_lt (b : Bool) : bit b < 2 := by cases b <;> decide
theorem bit_eq (b : Bool) : (bit b == 1) = b := by cases b <;> rfl

/-! ## The round trip of each row shape -/

variable {maj mn : Nat} {nw : Bool} {d : Nat} {a b : Src} {imm : Nat}

/-- A word decodes to an instruction. -/
def Reads (w : Nat) (i : Instr) : Prop := w < 4294967296 ∧ decodeNat w = .ok i

theorem reads_nDAB {g : Bool → Nat → Src → Src → Instr} (hr : rowAt maj mn = some (.nDAB g)) (h1 : maj < 64) (h2 : mn < 4)
    (hd : d < 128) (ha : a.wf = true) (hb : b.wf = true) :
    Reads (Fields.word ⟨maj, bit nw, d, a.toCode, b.toCode, mn⟩) (g nw d a b) := by
  have h := decodeNat_word (f := ⟨maj, bit nw, d, a.toCode, b.toCode, mn⟩) ⟨h1, bit_lt nw, hd, Src.toCode_lt ha, Src.toCode_lt hb, h2⟩ hr
  exact ⟨h.1, h.2.trans (by simp [Row.decode, bit_eq, Src.ofCode_toCode ha, Src.ofCode_toCode hb])⟩

theorem reads_nDAI {g : Bool → Nat → Src → Nat → Instr} (hr : rowAt maj mn = some (.nDAI g)) (h1 : maj < 64) (h2 : mn < 4)
    (hd : d < 128) (ha : a.wf = true) (hb : imm < 256) :
    Reads (Fields.word ⟨maj, bit nw, d, a.toCode, imm, mn⟩) (g nw d a imm) := by
  have h := decodeNat_word (f := ⟨maj, bit nw, d, a.toCode, imm, mn⟩) ⟨h1, bit_lt nw, hd, Src.toCode_lt ha, hb, h2⟩ hr
  exact ⟨h.1, h.2.trans (by simp [Row.decode, bit_eq, Src.ofCode_toCode ha])⟩

theorem reads_nDA {g : Bool → Nat → Src → Instr} (hr : rowAt maj mn = some (.nDA g)) (h1 : maj < 64) (h2 : mn < 4)
    (hd : d < 128) (ha : a.wf = true) :
    Reads (Fields.word ⟨maj, bit nw, d, a.toCode, 0, mn⟩) (g nw d a) := by
  have h := decodeNat_word (f := ⟨maj, bit nw, d, a.toCode, 0, mn⟩) ⟨h1, bit_lt nw, hd, Src.toCode_lt ha, by simp, h2⟩ hr
  exact ⟨h.1, h.2.trans (by simp [Row.decode, guardRow, bit_eq, Src.ofCode_toCode ha])⟩

theorem reads_nD {g : Bool → Nat → Instr} (hr : rowAt maj mn = some (.nD g)) (h1 : maj < 64) (h2 : mn < 4) (hd : d < 128) :
    Reads (Fields.word ⟨maj, bit nw, d, 0, 0, mn⟩) (g nw d) := by
  have h := decodeNat_word (f := ⟨maj, bit nw, d, 0, 0, mn⟩) ⟨h1, bit_lt nw, hd, by simp, by simp, h2⟩ hr
  exact ⟨h.1, h.2.trans (by simp [Row.decode, guardRow, bit_eq])⟩

theorem reads_dAB {g : Nat → Src → Src → Instr} (hr : rowAt maj mn = some (.dAB g)) (h1 : maj < 64) (h2 : mn < 4)
    (hd : d < 128) (ha : a.wf = true) (hb : b.wf = true) :
    Reads (Fields.word ⟨maj, 0, d, a.toCode, b.toCode, mn⟩) (g d a b) := by
  have h := decodeNat_word (f := ⟨maj, 0, d, a.toCode, b.toCode, mn⟩) ⟨h1, by simp, hd, Src.toCode_lt ha, Src.toCode_lt hb, h2⟩ hr
  exact ⟨h.1, h.2.trans (by simp [Row.decode, guardRow, Src.ofCode_toCode ha, Src.ofCode_toCode hb])⟩

theorem reads_dA {g : Nat → Src → Instr} (hr : rowAt maj mn = some (.dA g)) (h1 : maj < 64) (h2 : mn < 4)
    (hd : d < 128) (ha : a.wf = true) : Reads (Fields.word ⟨maj, 0, d, a.toCode, 0, mn⟩) (g d a) := by
  have h := decodeNat_word (f := ⟨maj, 0, d, a.toCode, 0, mn⟩) ⟨h1, by simp, hd, Src.toCode_lt ha, by simp, h2⟩ hr
  exact ⟨h.1, h.2.trans (by simp [Row.decode, guardRow, Src.ofCode_toCode ha])⟩

theorem reads_aB {g : Src → Src → Instr} (hr : rowAt maj mn = some (.aB g)) (h1 : maj < 64) (h2 : mn < 4)
    (ha : a.wf = true) (hb : b.wf = true) : Reads (Fields.word ⟨maj, 0, 0, a.toCode, b.toCode, mn⟩) (g a b) := by
  have h := decodeNat_word (f := ⟨maj, 0, 0, a.toCode, b.toCode, mn⟩) ⟨h1, by simp, by simp, Src.toCode_lt ha, Src.toCode_lt hb, h2⟩ hr
  exact ⟨h.1, h.2.trans (by simp [Row.decode, guardRow, Src.ofCode_toCode ha, Src.ofCode_toCode hb])⟩

theorem reads_aOnly {g : Src → Instr} (hr : rowAt maj mn = some (.aOnly g)) (h1 : maj < 64) (h2 : mn < 4) (ha : a.wf = true) :
    Reads (Fields.word ⟨maj, 0, 0, a.toCode, 0, mn⟩) (g a) := by
  have h := decodeNat_word (f := ⟨maj, 0, 0, a.toCode, 0, mn⟩) ⟨h1, by simp, by simp, Src.toCode_lt ha, by simp, h2⟩ hr
  exact ⟨h.1, h.2.trans (by simp [Row.decode, guardRow, Src.ofCode_toCode ha])⟩

theorem reads_bare {i : Instr} (hr : rowAt maj mn = some (.bare i)) (h1 : maj < 64) (h2 : mn < 4) :
    Reads (Fields.word ⟨maj, 0, 0, 0, 0, mn⟩) i := by
  have h := decodeNat_word (f := ⟨maj, 0, 0, 0, 0, mn⟩) ⟨h1, by simp, by simp, by simp, by simp, h2⟩ hr
  exact ⟨h.1, h.2.trans (by simp [Row.decode, guardRow])⟩

theorem reads_branch {g : Src → Int → Instr} {disp : Int} (hr : majors.getD maj .reserved = .branch g) (h1 : maj < 64)
    (ha : a.wf = true) (hd : -131072 ≤ disp ∧ disp < 131072) : Reads (branchWord maj a.toCode (dispCode disp)) (g a disp) := by
  have hl := Src.toCode_lt ha
  have hc := dispCode_lt disp
  refine ⟨by simp only [branchWord]; omega, ?_⟩
  have e1 : (fieldsOf (branchWord maj a.toCode (dispCode disp))).maj = maj := by simp only [branchWord, fieldsOf]; omega
  have e2 : branchWord maj a.toCode (dispCode disp) / 262144 % 256 = a.toCode := by simp only [branchWord]; omega
  have e3 : branchWord maj a.toCode (dispCode disp) % 262144 = dispCode disp := by simp only [branchWord]; omega
  rw [decodeNat, e1, hr, Major.decode, e2, e3, Src.ofCode_toCode ha, dispOf_dispCode hd]

theorem reads_hint {kind payload : Nat} {i : Instr} (hk : kind < 4) (hp : payload < 16777216) (h : decodeHint kind payload = .ok i) :
    Reads (hintWord kind payload) i := by
  refine ⟨by simp only [hintWord]; omega, ?_⟩
  have e1 : (fieldsOf (hintWord kind payload)).maj = 63 := by simp only [hintWord, fieldsOf]; omega
  have e2 : hintWord kind payload / 16777216 % 4 = kind := by simp only [hintWord]; omega
  have e3 : hintWord kind payload % 16777216 = payload := by simp only [hintWord]; omega
  have e4 : majors.getD 63 .reserved = .hints := rfl
  rw [decodeNat, e1, e4, Major.decode, e2, e3, h]

end Sys2Proof
end

