-- ==== Sys2Proof/Laws/Pin.lean ====
section
/-! SUPPORT. What the work of queues, sends and pinning leaves of the gangs: no register is changed. -/

namespace Sys2Proof.Machine

theorem State.setWord64_gangs (s : State) (pa x : Nat) : (s.setWord64 pa x).gangs = s.gangs := s.storeOver_gangs _ _
theorem State.dropCopies_gangs (s : State) (pa : Nat) : (s.dropCopies pa).gangs = s.gangs := rfl

theorem State.queueCommand_gangs (s : State) (w pa sub n : Nat) : (s.queueCommand w pa sub n).gangs = s.gangs := by
  unfold State.queueCommand
  split
  · exact State.modCommand_gangs _ _ _ _ _
  · rfl

theorem State.makeCommit_gangs (s : State) (c : QCommit) : (s.makeCommit c).gangs = s.gangs := by
  unfold State.makeCommit
  split
  · rfl
  · dsimp only
    split <;> rw [State.setWord64_gangs, State.queueCommand_gangs]

theorem State.settleCommits_gangs (pa : Nat) : ∀ (fuel : Nat) (s : State), (s.settleCommits pa fuel).gangs = s.gangs := by
  intro fuel
  induction fuel with
  | zero => intro s; rfl
  | succ n ih =>
    intro s
    unfold State.settleCommits
    split
    · rfl
    · rw [ih, State.makeCommit_gangs]

theorem State.commitLater_gangs (s : State) (c : QCommit) : (s.commitLater c).gangs = s.gangs := State.settleCommits_gangs _ _ _

theorem State.reservePush_gangs (s : State) (pa slot : Nat) (item : List Byte) : (s.reservePush pa slot item).gangs = s.gangs := by
  unfold State.reservePush
  simp only [State.setWord64_gangs, State.dropCopies_gangs, State.putBytes_gangs]

theorem State.pushWhole_gangs {s t : State} {ctx : Nat} {crew : Option Nat} {q : Queue} {item : List Byte} (h : s.pushWhole ctx crew q item = some t) : t.gangs = s.gangs := by
  unfold State.pushWhole at h
  split at h
  · cases h
  · simp only at h
    split at h
    · cases h
    · cases h
      rw [State.commitLater_gangs, State.reservePush_gangs, State.queueCommand_gangs, State.touchPage_gangs]

theorem State.pushService_gangs {s t : State} {die ctx : Nat} {crew : Option Nat} {r : List Byte} (h : s.pushService die ctx crew r = some t) :
    t.gangs = s.gangs := by
  unfold State.pushService at h
  split at h
  · cases h
  · exact (State.pushWhole_gangs h).trans (State.touchPage_gangs _ _ _ _ _)

theorem State.countDrop_gangs (s : State) (ctx : Nat) : (s.countDrop ctx).gangs = s.gangs := by
  unfold State.countDrop
  simp only
  split
  · exact s.writeImage_gangs _ _ _
  · rfl

theorem State.pushNotice_gangs {s t : State} {ten : Nat} {r : List Byte} (h : s.pushNotice ten r = some t) : t.gangs = s.gangs := by
  unfold State.pushNotice at h
  split at h
  · cases h
  · simp only at h
    split at h
    · cases h
    · have e := Option.some.inj h
      rw [← e, apply_ite State.gangs, State.mapTen_gangs, ite_self]
      exact (State.commitLater_gangs _ _).trans (State.reservePush_gangs _ _ _ _)

theorem State.notifyHost_gangs (s : State) (ctx tag : Nat) (w : Word) : (s.notifyHost ctx tag w).gangs = s.gangs := by
  unfold State.notifyHost
  cases h : s.pushNotice (s.ctx ctx).tenancy (noticeRec w tag (epValue 0xFF ctx 0)) with
  | none => exact s.countDrop_gangs ctx
  | some t => exact State.pushNotice_gangs h

theorem State.sendUli_gangs (s : State) (agent ctx : Nat) (ep : DWord) (w : Word) : (s.sendUli agent ctx ep w).gangs = s.gangs := by
  unfold State.sendUli
  simp only
  repeat' split
  · rfl
  · exact s.countDrop_gangs _
  · exact s.notifyHost_gangs _ _ _
  · exact s.pairSend_gangs _ _
  · exact s.countDrop_gangs _

theorem if_regs {s t u : State} (c : Prop) [Decidable c] (a : RegsKept s t) (b : RegsKept s u) : RegsKept s (if c then t else u) := by
  split
  · exact a
  · exact b

theorem State.endForCommit_regs (s : State) (crew pa n : Nat) : RegsKept s (s.endForCommit crew pa n) := by
  unfold State.endForCommit
  refine RegsKept.foldl _ (fun s p => ?_) _ s
  simp only
  split
  · exact .refl s
  · exact fun k x hx => s.closeUpTo_regs p.2.stamp k x hx
  · refine if_regs _ (.refl s) ?_
    exact fun k x hx => s.closeNamed_regs p.2.agent p.2.epoch k x hx

theorem State.sendLog_gangs (s : State) (world : Nat) (e : LogOp) : (s.sendLog world e).gangs = s.gangs := by
  unfold State.sendLog
  split
  · exact s.relayAccess_gangs _ _ _ _ _ _
  · exact s.askAtomic_gangs _ _ _ _ _ _ _ _ _

theorem State.oweLog_regs (s : State) (e : LogOp) : RegsKept s (s.oweLog e) := by
  unfold State.oweLog
  split
  · exact .refl s
  · exact RegsKept.mapGang s _ _ fun _ => .of_eq rfl rfl rfl

theorem State.performLog_regs (s : State) (crew : Nat) (c : Crew) (e : LogOp) : RegsKept s (s.performLog crew c e) := by
  unfold State.performLog
  dsimp only
  split
  · exact .of_gangs (s.countRefusal_gangs _ _)
  · have h1 : RegsKept s ((s.endForCommit crew e.range.1 e.range.2).dropCopies e.range.1) := (s.endForCommit_regs crew _ _).trans (.of_gangs rfl)
    generalize (s.endForCommit crew e.range.1 e.range.2).dropCopies e.range.1 = u at h1
    have h2 : RegsKept u (if (regionOf e.range.1 == .hbm) = true then u.homeRun c.homeCore c.ctx e.range.1 e.range.2 true else u) := by
      split
      · exact u.homeRun_regs _ _ _ _ _
      · exact .refl u
    generalize (if (regionOf e.range.1 == .hbm) = true then u.homeRun c.homeCore c.ctx e.range.1 e.range.2 true else u) = v at h2 ⊢
    refine (h1.trans h2).trans (RegsKept.trans ?_ (State.oweLog_regs _ e))
    exact .of_gangs (by rw [State.sendLog_gangs])

theorem State.commitLog_regs (s : State) (crew : Nat) : RegsKept s (s.commitLog crew) := by
  unfold State.commitLog
  split
  · exact .refl s
  · exact (RegsKept.foldl _ (fun s e => s.performLog_regs crew _ e) _ s).trans (.of_gangs rfl)

theorem State.commitPops_regs (s : State) (crew ctx : Nat) (ps : List PopRes) : RegsKept s (s.commitPops crew ctx ps) :=
  RegsKept.foldl _ (fun s p => by
    refine (s.endForCommit_regs crew p.pa 64).trans ?_
    generalize s.endForCommit crew p.pa 64 = t
    exact .of_gangs (t.commitLater_gangs _)) ps s

theorem State.endForPush_regs (s : State) (crew ctx : Nat) (q : Queue) : RegsKept s (s.endForPush crew ctx q) := by
  have h := s.endForCommit_regs crew (s.home q.pa) 64
  unfold State.endForPush
  generalize s.endForCommit crew (s.home q.pa) 64 = t at h
  dsimp only
  split
  · exact h.trans (t.endForCommit_regs _ _ _)
  · exact h

theorem State.commitPush_regs {s t : State} {crew ctx : Nat} {p : Nat × List Byte} (h : s.commitPush crew ctx p = some t) : RegsKept s t := by
  unfold State.commitPush at h
  exact (s.endForPush_regs crew ctx _).trans (.of_gangs (State.pushWhole_gangs h))

theorem State.commitPushes_regs (crew ctx : Nat) : ∀ (ps : List (Nat × List Byte)) (s t : State), s.commitPushes crew ctx ps = .ok t → RegsKept s t := by
  intro ps
  induction ps with
  | nil => intro s t h; rw [← Except.ok.inj h]; exact .refl s
  | cons p ps ih =>
    intro s t h
    unfold State.commitPushes at h
    split at h
    · rename_i x hx
      exact (State.commitPush_regs hx).trans (ih _ _ h)
    · cases h

theorem State.endForService_regs (s : State) (crew die ctx : Nat) : RegsKept s (s.endForService crew die ctx) := by
  unfold State.endForService
  split
  · exact s.endForPush_regs _ _ _
  · exact .refl s

theorem State.commitService_regs {s t : State} {crew ctx die : Nat} {r : List Byte} (h : s.commitService crew ctx die r = some t) : RegsKept s t := by
  unfold State.commitService at h
  exact (s.endForService_regs crew die ctx).trans (.of_gangs (State.pushService_gangs h))

theorem State.commitServices_regs (crew ctx : Nat) : ∀ (ds : List Deferred) (s t : State), s.commitServices crew ctx ds = .ok t → RegsKept s t := by
  intro ds
  induction ds with
  | nil => intro s t h; rw [← Except.ok.inj h]; exact .refl s
  | cons d ds ih =>
    intro s t h
    cases d with
    | push a b c => exact ih _ _ h
    | send a b c => exact ih _ _ h
    | service die r =>
      unfold State.commitServices at h
      split at h
      · rename_i x hx
        exact (State.commitService_regs hx).trans (ih _ _ h)
      · cases h

theorem State.commitSends_regs (s : State) (ctx : Nat) (ds : List Deferred) : RegsKept s (s.commitSends ctx ds) := by
  unfold State.commitSends
  refine RegsKept.foldl _ (fun s d => ?_) _ s
  cases d with
  | push a b c => exact .refl s
  | send a b c => exact .of_gangs (s.sendUli_gangs _ _ _ _)
  | service a b => exact .refl s

theorem State.commitSteps_regs {s t : State} {crew : Nat} {c : Crew} (h : s.commitSteps crew c = .ok t) : RegsKept s t := by
  unfold State.commitSteps at h
  dsimp only at h
  split at h
  · cases h
  · rename_i s1 h1
    split at h
    · cases h
    · rename_i s2 h2
      cases h
      exact ((s.commitLog_regs crew).trans (State.commitPops_regs _ _ _ _)).trans ((State.commitPushes_regs _ _ _ _ _ h1).trans
        ((State.commitServices_regs _ _ _ _ _ h2).trans ((s2.commitSends_regs _ _).trans (.of_gangs rfl))))

theorem State.commitTask_regs {s t : State} {crew : Nat} (h : s.commitTask crew = .ok t) : RegsKept s t := by
  unfold State.commitTask at h
  split at h
  · cases h; exact .refl s
  · split at h
    · cases h
    · rename_i x hx
      split at h
      · cases h
      · cases h
        exact State.commitSteps_regs hx

/-- Pinning a task changes no register. -/
theorem State.pin_regs {s t : State} {g : Gang} (h : s.pin g = .ok t) : RegsKept s t := by
  unfold State.pin at h
  split at h
  · cases h; exact .refl s
  · split at h
    · cases h
    · rename_i x hx
      cases h
      exact (State.commitTask_regs hx).trans (.of_gangs rfl)

end Sys2Proof.Machine
end

