-- ==== Sys2Proof/Laws/Fault.lean ====
section
/-! SUPPORT. What taking a fault leaves: frozen lanes where they stand, one frozen set, one record, one entry of the frozen-set table (R16, R310 to R313, R318, R323). -/

namespace Sys2Proof.Machine

/-- A frozen thread that stands where a thread stood. -/
structure FrozenAt (a b : Thread) : Prop where
  run : b.run = .frozen
  pc : b.pc = a.pc
  rep : b.rep = a.rep
  rcnt : b.rcnt = a.rcnt
  fps : b.fps = a.fps
  hints : b.hints = Hints.none_

/-- Gang gk has the registers of g, and its lanes `ls` are frozen where g's stand. -/
def StaysFrozen (t : State) (gk : Nat) (g : Gang) (ls : List Nat) : Prop :=
  ∃ g', t.gang? gk = some g' ∧ g'.threads.length = 32 ∧ g'.v = g.v ∧ g'.k = g.k ∧ ∀ l ∈ ls, l < 32 ∧ FrozenAt (g.th l) (g'.th l)

theorem StaysFrozen.sched {s t : State} {gk : Nat} {g : Gang} {ls : List Nat} (h : StaysFrozen s gk g ls) (o : SchedOnly s t) : StaysFrozen t gk g ls := by
  obtain ⟨g', a, b, c, d, e⟩ := h
  obtain ⟨y, hy, y1, y2, y3⟩ := o.self gk g' a
  exact ⟨y, hy, by rw [y1]; exact b, by rw [y2]; exact c, by rw [y3]; exact d, fun l hl => ⟨(e l hl).1, by rw [Gang.th_congr y1]; exact (e l hl).2⟩⟩

theorem StaysFrozen.of_gangs {s t : State} {gk : Nat} {g : Gang} {ls : List Nat} (h : StaysFrozen s gk g ls) (o : t.gangs = s.gangs) : StaysFrozen t gk g ls := by
  unfold StaysFrozen State.gang? at *
  rw [o]; exact h

theorem StaysFrozen.mapGang {s : State} {gk : Nat} {g : Gang} {ls : List Nat} (h : StaysFrozen s gk g ls) (k : Nat) (f : Gang → Gang)
    (hl : ∀ x, (f x).threads.length = x.threads.length) (hv : ∀ x, (f x).v = x.v) (hk : ∀ x, (f x).k = x.k)
    (hf : ∀ x : Gang, x.threads.length = 32 → ∀ l, l < 32 → ∀ a, FrozenAt a (x.th l) → FrozenAt a ((f x).th l)) : StaysFrozen (s.mapGang k f) gk g ls := by
  obtain ⟨g', a, b, c, d, e⟩ := h
  by_cases e1 : k = gk
  · subst e1
    exact ⟨f g', by simp [a], by rw [hl]; exact b, by rw [hv]; exact c, by rw [hk]; exact d, fun l hl => ⟨(e l hl).1, hf g' b l (e l hl).1 _ (e l hl).2⟩⟩
  · exact ⟨g', by rw [State.gang?_mapGang, if_neg e1]; exact a, b, c, d, e⟩

theorem StaysFrozen.queueRec {s : State} {gk : Nat} {g : Gang} {ls : List Nat} (h : StaysFrozen s gk g ls) (ctx : Nat) (r : Rec) :
    StaysFrozen (s.queueRec ctx r).1 gk g ls := h.of_gangs (State.queueRec_gangs _ _ _)

theorem Gang.settle_frozen (g : Gang) {l : Nat} (h : l < g.threads.length) (hr : (g.th l).run = .frozen) : g.settle.th l = g.th l := by
  have h1 : g.unparks l = false := by simp [Gang.unparks, Thread.parked, hr]
  have h2 : (g.mapLanes ((List.range 32).filter g.unparks) fun t => { t with run := .run, wait := none }).th l = g.th l := by
    rw [g.th_mapLanes _ _ _ h, if_neg (by simp [h1])]
  unfold Gang.settle
  simp only [Gang.th_prune]
  rw [Gang.th_mapLanes _ _ _ _ (by simpa using h), h2]
  split
  · rename_i hm
    simp [h2, hr] at hm
  · rfl

theorem StaysFrozen.settle {s : State} {gk : Nat} {g : Gang} {ls : List Nat} (h : StaysFrozen s gk g ls) (k : Nat) : StaysFrozen (s.mapGang k Gang.settle) gk g ls := by
  refine h.mapGang k _ (fun x => by simp) (fun _ => rfl) (fun _ => rfl) ?_
  intro x hx l hl a ha
  rw [x.settle_frozen (by omega) ha.run]; exact ha

/-! ## One frozen set -/

theorem groupFaults_same (f : Flt) : ∀ (ls : List Nat), ls ≠ [] → groupFaults (ls.map fun l => (l, f)) = [(ls, f)] := by
  intro ls
  cases ls with
  | nil => intro h; exact absurd rfl h
  | cons l t =>
    intro _
    have h : ∀ (t : List Nat) (p : List Nat × Flt), p ∈ groupFaults (t.map fun l => (l, f)) → p.2 = f := by
      intro t
      induction t with
      | nil => intro p hp; cases hp
      | cons x r ih =>
        intro p hp
        rw [List.map_cons, groupFaults] at hp
        rcases List.mem_cons.1 hp with e | e
        · rw [e]
        · exact ih p (List.mem_filter.1 e).1
    rw [List.map_cons, groupFaults]
    have e1 : ((t.map fun l => (l, f)).filter fun p => p.2.cls == f.cls && p.2.sub == f.sub) = t.map fun l => (l, f) := by
      rw [List.filter_eq_self]
      intro p hp
      obtain ⟨x, _, rfl⟩ := List.mem_map.1 hp
      simp
    have e2 : ((groupFaults (t.map fun l => (l, f))).filter fun p => !(p.2.cls == f.cls && p.2.sub == f.sub)) = [] := by
      rw [List.filter_eq_nil_iff]
      intro p hp
      rw [h t p hp]
      simp
    rw [e1, e2, List.map_map]
    have : (t.map ((fun x => x.1) ∘ fun l => (l, f))) = t := by simp [Function.comp_def]
    rw [this]

theorem State.freezeAll_same (s : State) (gk : Nat) (ls : List Nat) (f : Flt) (h : ls ≠ []) :
    s.freezeAll gk (ls.map fun l => (l, f)) = s.freeze gk ls f := by
  unfold State.freezeAll
  rw [groupFaults_same f ls h]
  rfl

theorem Gang.freezeLanes_th (g : Gang) (ls : List Nat) (n : Nat) {l : Nat} (h : l < g.threads.length) :
    (g.freezeLanes ls n).th l = if l ∈ ls then { (g.th l).dropLatches with run := .frozen, wait := none, fset := n } else g.th l := by
  unfold Gang.freezeLanes
  rw [g.th_mapLanes _ _ _ h]

theorem Gang.freezeLanes_stays {s : State} {gk : Nat} {g : Gang} {ls : List Nat} (n : Nat) (hl : g.threads.length = 32) (h32 : ∀ l ∈ ls, l < 32) :
    StaysFrozen (s.setGang gk (g.freezeLanes ls n).closeIntervals) gk g ls := by
  refine ⟨(g.freezeLanes ls n).closeIntervals, by rw [State.gang?_setGang, if_pos rfl], ?_, rfl, rfl, fun l hm => ⟨h32 l hm, ?_⟩⟩
  · simp [Gang.closeIntervals, Gang.closeIvs, Gang.freezeLanes, hl]
  · have : (g.freezeLanes ls n).closeIntervals.th l = (g.freezeLanes ls n).th l := rfl
    rw [this, g.freezeLanes_th ls n (by have := h32 l hm; omega), if_pos hm]
    exact ⟨rfl, rfl, rfl, rfl, rfl, rfl⟩

/-- Frozen lanes stay where they stand. -/
theorem State.freeze_stays (s : State) (gk : Nat) (g : Gang) (ls : List Nat) (f : Flt) (hg : s.gang? gk = some g) (hl : g.threads.length = 32)
    (h32 : ∀ l ∈ ls, l < 32) : StaysFrozen (s.freeze gk ls f) gk g ls := by
  unfold State.freeze
  rw [hg]
  simp only
  split
  · exact ((StaysFrozen.queueRec (Gang.freezeLanes_stays _ hl h32) _ _).of_gangs rfl).of_gangs (State.writeImage_gangs _ _ _ _)
  · exact (StaysFrozen.queueRec (Gang.freezeLanes_stays _ hl h32) _ _).of_gangs rfl

/-- Nothing of the gangs moves but the frozen lanes. -/
theorem State.freeze_gangs (s : State) (gk : Nat) (g : Gang) (ls : List Nat) (f : Flt) (hg : s.gang? gk = some g) :
    ∃ n, (s.freeze gk ls f).gangs = s.gangs.put gk (g.freezeLanes ls n).closeIntervals := by
  unfold State.freeze
  rw [hg]
  simp only
  split
  · rename_i i _
    refine ⟨i, ?_⟩
    rw [State.writeImage_gangs, State.mapCtx_gangs, State.queueRec_gangs]
    rfl
  · refine ⟨0xFF, ?_⟩
    rw [State.mapCtx_gangs, State.queueRec_gangs]
    rfl

/-! ## The record (R311, R313) -/

/-- What the device's own accesses to a context's structures look at. -/
structure SameMap (s t : State) (ctx : Nat) : Prop where
  mem : t.mem = s.mem
  poison : t.poison = s.poison
  ports : t.ports = s.ports
  ranges : t.modRanges = s.modRanges
  trust : t.trust = s.trust
  dies : t.dies = s.dies
  tens : t.tens = s.tens
  pod : t.pod = s.pod
  free : t.free = s.free
  root : (t.ctx ctx).ptroot = (s.ctx ctx).ptroot
  ten : (t.ctx ctx).tenancy = (s.ctx ctx).tenancy

theorem SameMap.world {s t : State} {ctx : Nat} (h : SameMap s t ctx) : t.ctxWorld ctx = s.ctxWorld ctx := by
  unfold State.ctxWorld State.tenWorld State.ten State.die
  rw [h.ten, h.tens, h.dies]

theorem SameMap.home {s t : State} {ctx : Nat} (h : SameMap s t ctx) (a : Nat) : t.home a = s.home a := by
  unfold State.home State.port; rw [h.ports]

/-- The checks of an access of the device itself are the same. -/
theorem SameMap.reachFrom {s t : State} {ctx : Nat} (h : SameMap s t ctx) (w pa n : Nat) (a : Access) : t.reachFrom none w pa n a = s.reachFrom none w pa n a := by
  have e1 : ∀ p, t.port p = s.port p := fun p => by unfold State.port; rw [h.ports]
  have e2 : ∀ d, t.die d = s.die d := fun d => by unfold State.die; rw [h.dies]
  have e3 : ∀ m, t.headAt m = s.headAt m := fun m => by unfold State.headAt; simp only [e1]
  have e4 : ∀ m, t.routeTo m = s.routeTo m := fun m => by unfold State.routeTo State.intact; simp only [h.pod, e3]
  have e5 : ∀ m, t.headFor m = s.headFor m := fun m => by unfold State.headFor; simp only [h.pod, e3, e4]
  have e6 : ∀ m k w a n q, t.granted m k w a n q = s.granted m k w a n q := fun _ _ _ _ _ _ => by unfold State.granted; rw [h.ranges]
  have e7 : ∀ m, t.inPodMap m = s.inPodMap m := fun m => by unfold State.inPodMap; rw [h.pod]
  have e8 : ∀ w c o, t.dieCheck none w c o = s.dieCheck none w c o := fun _ _ _ => by
    unfold State.dieCheck; simp only [e2, Option.isSome_none, Bool.false_and]
  unfold State.reachFrom
  simp only [e1, e4, e5, e6, e7, e8, h.trust, h.free]

theorem SameMap.walkFrom {s t : State} {ctx : Nat} (h : SameMap s t ctx) (w va : Nat) : ∀ (fuel level node : Nat),
    t.walkFrom w va fuel level node = s.walkFrom w va fuel level node := by
  intro fuel
  induction fuel with
  | zero => intro _ _; rfl
  | succ n ih =>
    intro level node
    have e1 : t.nodeCheck node = s.nodeCheck node := by unfold State.nodeCheck State.port; rw [h.ports]
    have e2 : ∀ a, t.readEntry a = s.readEntry a := fun a => by unfold State.readEntry; rw [h.mem, h.poison, h.home]
    have e3 : ∀ a, t.zeroes a = s.zeroes a := fun a => by unfold State.zeroes; rw [h.trust]
    unfold State.walkFrom
    simp only [e1, e2, e3, h.reachFrom, ih]

theorem SameMap.ownAccess {s t : State} {ctx : Nat} (h : SameMap s t ctx) (va : DWord) (n : Nat) (a : Access) : t.ownAccess ctx va n a = s.ownAccess ctx va n a := by
  have e1 : ∀ x, t.frameBusy x = s.frameBusy x := fun x => by unfold State.frameBusy; rw [h.trust]
  have e2 : ∀ at_ x w, t.markCheck ctx at_ x w = s.markCheck ctx at_ x w := fun _ _ _ => by unfold State.markCheck; rw [h.world, h.reachFrom]
  unfold State.ownAccess State.walk
  simp only [h.root, h.world, h.walkFrom, h.reachFrom, e1, e2]

/-- What a write of bytes leaves of all that such accesses look at, memory apart. -/
theorem State.storeOver_rest (s : State) (pa : Nat) (b : List Byte) : ∃ c m, s.storeOver pa b = { s with cores := c, mem := m } ∧ m = (s.store (s.home pa) b).mem := by
  have key : ∀ (l : List Nat) (s : State), ∃ c, l.foldl State.dropCopies s = { s with cores := c } := by
    intro l
    induction l with
    | nil => intro s; exact ⟨_, rfl⟩
    | cons a t ih => intro s; obtain ⟨c, e⟩ := ih (s.dropCopies a); exact ⟨c, e⟩
  obtain ⟨c, e⟩ := key (lineRun pa b.length) (s.store (s.home pa) b)
  exact ⟨c, _, e, rfl⟩

theorem SameMap.storeOver {s t : State} {ctx : Nat} (h : SameMap s t ctx) (pa : Nat) (b : List Byte) : SameMap (s.storeOver pa b) (t.storeOver pa b) ctx := by
  obtain ⟨c1, m1, a1, a2⟩ := s.storeOver_rest pa b
  obtain ⟨c2, m2, b1, b2⟩ := t.storeOver_rest pa b
  rw [a1, b1]
  have h1 : m2 = m1 := by rw [a2, b2, h.home]; unfold State.store; rw [h.mem]
  obtain ⟨_, h2, h3, h4, h5, h6, h7, h8, h9, h10, h11⟩ := h
  exact ⟨h1, h2, h3, h4, h5, h6, h7, h8, h9, h10, h11⟩

theorem SameMap.storeLeaf {s t : State} {ctx : Nat} (h : SameMap s t ctx) (at_ : Nat) (y : DWord) : SameMap (s.storeLeaf at_ y) (t.storeLeaf at_ y) ctx := by
  unfold State.storeLeaf
  rw [h.mem, h.home]
  split
  · exact h
  · exact h.storeOver _ _

theorem SameMap.passHome {s t : State} {ctx : Nat} (h : SameMap s t ctx) (c : Nat) (x : DWord) (pa n : Nat) (w : Bool) :
    SameMap (s.passHome c x pa n w) (t.passHome c x pa n w) ctx := by
  obtain ⟨h1, h2, h3, h4, h5, h6, h7, h8, h9, h10, h11⟩ := h
  unfold State.passHome
  split <;> exact ⟨h1, h2, h3, h4, h5, h6, h7, h8, h9, h10, h11⟩

theorem SameMap.countRefusal {s t : State} {ctx : Nat} (h : SameMap s t ctx) (pa sub : Nat) : SameMap (s.countRefusal pa sub) (t.countRefusal pa sub) ctx := by
  have e : ∀ d, t.die d = s.die d := fun d => by unfold State.die; rw [h.dies]
  obtain ⟨h1, h2, h3, h4, h5, h6, h7, h8, h9, h10, h11⟩ := h
  unfold State.countRefusal
  split
  · split
    · exact ⟨h1, h2, h3, h4, h5, by show Tbl.set _ _ _ _ = Tbl.set _ _ _ _; rw [h6, e], h7, h8, h9, h10, h11⟩
    · exact ⟨h1, h2, h3, h4, h5, h6, h7, h8, h9, h10, h11⟩
  · exact ⟨h1, h2, h3, h4, h5, h6, h7, h8, h9, h10, h11⟩

theorem SameMap.late {s t : State} {ctx : Nat} (h : SameMap s t ctx) (x y : List LateWrite) : SameMap { s with late := x } { t with late := y } ctx := by
  obtain ⟨h1, h2, h3, h4, h5, h6, h7, h8, h9, h10, h11⟩ := h
  exact ⟨h1, h2, h3, h4, h5, h6, h7, h8, h9, h10, h11⟩

theorem SameMap.writePage {s t : State} {ctx : Nat} (h : SameMap s t ctx) (va : DWord) (b : List Byte) : SameMap (s.writePage ctx va b) (t.writePage ctx va b) ctx := by
  unfold State.writePage
  rw [h.ownAccess]
  split
  · exact h
  · split
    · exact ((h.storeLeaf _ _).storeOver _ _).passHome _ _ _ _ _
    · exact h.countRefusal _ _
    · exact h.late _ _
    · exact h.late _ _
    · exact h

theorem SameMap.writeImage {s t : State} {ctx : Nat} (h : SameMap s t ctx) (va : DWord) (b : List Byte) : SameMap (s.writeImage ctx va b) (t.writeImage ctx va b) ctx :=
  (h.writePage _ _).writePage _ _

theorem State.storeLeaf_ctxs (s : State) (at_ : Nat) (y : DWord) : (s.storeLeaf at_ y).ctxs = s.ctxs := by
  unfold State.storeLeaf
  split
  · rfl
  · obtain ⟨c, m, e, _⟩ := s.storeOver_rest (at_) (bytesOf 8 y.toNat)
    rw [e]

theorem State.passHome_ctxs (s : State) (c : Nat) (x : DWord) (pa n : Nat) (w : Bool) : (s.passHome c x pa n w).ctxs = s.ctxs := by
  unfold State.passHome
  split <;> rfl

theorem State.countRefusal_ctxs (s : State) (pa sub : Nat) : (s.countRefusal pa sub).ctxs = s.ctxs := by
  unfold State.countRefusal
  split
  · split <;> rfl
  · rfl

theorem State.writePage_ctxs (s : State) (ctx : Nat) (va : DWord) (b : List Byte) : (s.writePage ctx va b).ctxs = s.ctxs := by
  unfold State.writePage
  split
  · rfl
  · split
    · rename_i x at_ pa _
      have h := s.storeLeaf_ctxs at_ (markLeaf x true)
      generalize s.storeLeaf at_ (markLeaf x true) = t at h
      obtain ⟨c, m, e, _⟩ := t.storeOver_rest pa b
      rw [State.passHome_ctxs, e]
      exact h
    · exact s.countRefusal_ctxs _ _
    · rfl
    · rfl
    · rfl

theorem State.writeImage_ctxs (s : State) (ctx : Nat) (va : DWord) (b : List Byte) : (s.writeImage ctx va b).ctxs = s.ctxs :=
  (State.writePage_ctxs _ _ _ _).trans (State.writePage_ctxs _ _ _ _)

theorem State.ctx_mapCtx (s : State) (c : Nat) (f : Context → Context) (h : s.hasCtx c = true) : (s.mapCtx c f).ctx c = f (s.ctx c) := by
  unfold State.ctx State.mapCtx Tbl.at_
  simp only [Tbl.find?_adjust]
  unfold State.hasCtx at h
  cases hx : s.ctxs.find? c with
  | none => rw [hx] at h; cases h
  | some x => simp

theorem State.hasCtx_mapCtx (s : State) (c : Nat) (f : Context → Context) : (s.mapCtx c f).hasCtx c = s.hasCtx c := by
  unfold State.hasCtx State.mapCtx
  simp only [Tbl.find?_adjust]
  split <;> cases s.ctxs.find? c <;> rfl

/-- A change of a context that keeps its page-table root and its tenancy. -/
theorem SameMap.mapCtx {s t : State} {ctx : Nat} (h : SameMap s t ctx) {c : Nat} {f : Context → Context}
    (hf : ∀ x, (f x).ptroot = x.ptroot ∧ (f x).tenancy = x.tenancy) : SameMap s (t.mapCtx c f) ctx := by
  have e : ((t.mapCtx c f).ctx ctx).ptroot = (t.ctx ctx).ptroot ∧ ((t.mapCtx c f).ctx ctx).tenancy = (t.ctx ctx).tenancy := by
    unfold State.ctx State.mapCtx Tbl.at_
    simp only [Tbl.find?_adjust]
    split
    · cases t.ctxs.find? ctx with
      | none => exact ⟨rfl, rfl⟩
      | some x => exact hf x
    · exact ⟨rfl, rfl⟩
  obtain ⟨h1, h2, h3, h4, h5, h6, h7, h8, h9, h10, h11⟩ := h
  exact ⟨h1, h2, h3, h4, h5, h6, h7, h8, h9, e.1.trans h10, e.2.trans h11⟩

/-- A record that finds room in the queue. -/
theorem State.queueRec_room (s : State) (c : Nat) (r : Rec) (hq : waitingRecs (s.ctx c).queue < Config.faultQueue) (hh : (s.ctx c).heldRecs = [])
    (hr : r.cls ≠ 0xFF) :
    s.queueRec c r = ((({ s with records := s.records + 1 }.mapCtx c fun x => { x with nextSeq := x.nextSeq + 1 }).mapCtx c fun x => { x with queue := x.queue ++ [{ r with seq := (s.ctx c).nextSeq, ord := s.records }] }).writeImage c
      ((s.ctx c).fqEntry (waitingRecs (s.ctx c).queue)) ({ r with seq := (s.ctx c).nextSeq, ord := s.records } : Rec).bytes, { r with seq := (s.ctx c).nextSeq, ord := s.records }) := by
  unfold State.queueRec
  simp only
  rw [if_neg (by simp [hh]; omega), if_neg hr]

/-- The record and the frozen set of a fault, where an index is free and the queue has room. -/
theorem State.freeze_record (s s0 : State) (gk : Nat) (g g0 : Gang) (ls : List Nat) (f : Flt) (hg : s.gang? gk = some g) (hc : s.hasCtx g.ctx = true)
    (hq : waitingRecs (s.ctx g.ctx).queue < Config.faultQueue) (hh : (s.ctx g.ctx).heldRecs = []) (hcls : f.cls ≠ 0xFF) {i : Nat} (hi : lowestFree (s.ctx g.ctx).sets.keys 255 = some i)
    (e1 : s0.ctxs = s.ctxs) (e2 : SameMap s0 s g.ctx) (e3 : g0.ctx = g.ctx) (e4 : g0.core = g.core) (e5 : g0.level = g.level) (e6 : g0.index = g.index)
    (e7 : (g0.th (ls.headD 0)).pc = (g.th (ls.headD 0)).pc) (e8 : (g0.th (ls.headD 0)).rep = (g.th (ls.headD 0)).rep)
    (e9 : (g0.th (ls.headD 0)).rcnt = (g.th (ls.headD 0)).rcnt) :
    ∃ r, Recorded s0 (s.freeze gk ls f) gk g0 ls f i r := by
  have hctx : s0.ctx g.ctx = s.ctx g.ctx := by unfold State.ctx; rw [e1]
  unfold State.freeze
  rw [hg]
  simp only [hi]
  have hx : ∀ x, (s.setGang gk x).ctx g.ctx = s.ctx g.ctx := fun _ => rfl
  have hr : ∀ x, (s.setGang gk x).records = s.records := fun _ => rfl
  rw [State.queueRec_room _ _ _ (by rw [hx]; exact hq) (by rw [hx]; exact hh) hcls]
  simp only [hx, hr]
  refine ⟨{ s.gangRec gk g ls f with cap := setCap ((s.ctx g.ctx).gens.at_ 0 i) g.ctx i, seq := (s.ctx g.ctx).nextSeq, ord := s.records }, ?_⟩
  have t1 : ∀ (t : State) va b, (t.writeImage g.ctx va b).ctx g.ctx = t.ctx g.ctx := fun t va b => by
    unfold State.ctx; rw [State.writeImage_ctxs]
  have t2 : ∀ (t : State) va b, (t.writeImage g.ctx va b).hasCtx g.ctx = t.hasCtx g.ctx := fun t va b => by
    unfold State.hasCtx; rw [State.writeImage_ctxs]
  have c1 : ({ s.setGang gk (g.freezeLanes ls i).closeIntervals with records := s.records + 1 } : State).hasCtx g.ctx = true := hc
  have c2 : ({ s.setGang gk (g.freezeLanes ls i).closeIntervals with records := s.records + 1 }.mapCtx g.ctx fun x => { x with nextSeq := x.nextSeq + 1 }).hasCtx g.ctx = true := by
    rw [State.hasCtx_mapCtx]; exact c1
  constructor
  case set =>
    rw [e3, t1, State.ctx_mapCtx _ _ _ (by rw [t2, State.hasCtx_mapCtx]; exact c2)]
    simp only [Tbl.find?_put_same]
  case queue =>
    rw [e3, t1, State.ctx_mapCtx _ _ _ (by rw [t2, State.hasCtx_mapCtx]; exact c2), t1, State.ctx_mapCtx _ _ _ c2, State.ctx_mapCtx _ _ _ c1, hctx]
    rfl
  case next =>
    rw [e3, t1, State.ctx_mapCtx _ _ _ (by rw [t2, State.hasCtx_mapCtx]; exact c2), t1, State.ctx_mapCtx _ _ _ c2, State.ctx_mapCtx _ _ _ c1, hctx]
    rfl
  case seq => rw [e3, hctx]
  case cls => rfl
  case sub => rfl
  case va => rfl
  case mask => rfl
  case pc => exact e7.symm
  case rep => exact e8.symm
  case rcnt => exact e9.symm
  case place => exact ⟨e4.symm, e5.symm, e6.symm, rfl⟩
  case cap => rw [e3, hctx]
  case table =>
    rw [e3, hctx]
    refine (SameMap.writeImage (s := s0.writeImage g.ctx _ _) ?_ _ _).mem
    refine SameMap.mapCtx (SameMap.writeImage ?_ _ _) ?_
    rotate_left
    · exact fun _ => ⟨rfl, rfl⟩
    refine SameMap.mapCtx ?_ ?_
    rotate_left
    · exact fun _ => ⟨rfl, rfl⟩
    refine SameMap.mapCtx ?_ ?_
    rotate_left
    · exact fun _ => ⟨rfl, rfl⟩
    obtain ⟨m1, m2, m3, m4, m5, m6, m7, m8, m9, m10, m11⟩ := e2
    exact ⟨m1, m2, m3, m4, m5, m6, m7, m8, m9, m10, m11⟩

/-! ## Taking the fault (R16, R57) -/

/-- After the lanes have frozen, meetings and barriers settle and the slot is given up: what that leaves. -/
theorem takes_fault {s u : State} {gk : Nat} {g g1 : Gang} {m : Nat} {f : Flt} (hg : s.gang? gk = some g) (hl : g.threads.length = 32)
    (hne : lanesOf m ≠ []) (h1 : g1.threads.length = 32) (hv : g1.v = g.v) (hk : g1.k = g.k)
    (hth : ∀ l, l < 32 → ThreadKept (g.th l) (g1.th l)) (same : g1.ctx = g.ctx ∧ g1.core = g.core ∧ g1.level = g.level ∧ g1.index = g.index)
    (hs : SchedOnly ((((s.setGang gk g1).freeze gk (lanesOf m) f)).mapGang gk Gang.settle) u) : TakesFault s u.clearCur gk g m f := by
  have hg1 : (s.setGang gk g1).gang? gk = some g1 := by rw [State.gang?_setGang, if_pos rfl]
  have h32 : ∀ l ∈ lanesOf m, l < 32 := fun l h => (mem_lanesOf.1 h).1
  have st := (((s.setGang gk g1).freeze_stays gk g1 (lanesOf m) f hg1 h1 h32).settle gk).sched hs
  have hc : ∀ c, (s.setGang gk g1).ctx c = s.ctx c := fun _ => rfl
  obtain ⟨g', a, b, c, d, e⟩ := st
  refine ⟨rfl, ⟨g', a, c.trans hv, d.trans hk, fun l h => ?_, fun l hl2 hn => ?_⟩, fun hx hq hh hcls i hi => ?_, fun k hk2 x hx => ?_⟩
  · obtain ⟨q1, q2, q3, q4, q5, q6⟩ := (e l h).2
    obtain ⟨p1, p2, p3, p4, _⟩ := hth l (h32 l h)
    exact ⟨q1, q2.trans p1, q3.trans p2, q4.trans p3, q5.trans p4, q6⟩
  · obtain ⟨n, hn2⟩ := (s.setGang gk g1).freeze_gangs gk g1 (lanesOf m) f hg1
    have ha : ((s.setGang gk g1).freeze gk (lanesOf m) f).gang? gk = some (g1.freezeLanes (lanesOf m) n).closeIntervals := by
      unfold State.gang?; rw [hn2]; simp
    have hb : (((s.setGang gk g1).freeze gk (lanesOf m) f).mapGang gk Gang.settle).gang? gk = some (g1.freezeLanes (lanesOf m) n).closeIntervals.settle := by
      rw [State.gang?_mapGang, if_pos rfl, ha]; rfl
    obtain ⟨y, hy, y1, _, _⟩ := hs.self gk _ hb
    have hyg : y = g' := by rw [a] at hy; exact (Option.some.inj hy).symm
    subst hyg
    have hlen : (g1.freezeLanes (lanesOf m) n).closeIntervals.threads.length = 32 := by simp [Gang.closeIntervals, Gang.closeIvs, Gang.freezeLanes, h1]
    obtain ⟨z1, z2, z3, z4, z5, _⟩ := (g1.freezeLanes (lanesOf m) n).closeIntervals.settle_keeps (l := l) (by omega)
    have zt : (g1.freezeLanes (lanesOf m) n).closeIntervals.th l = g1.th l := by
      have : (g1.freezeLanes (lanesOf m) n).closeIntervals.th l = (g1.freezeLanes (lanesOf m) n).th l := rfl
      rw [this, g1.freezeLanes_th _ _ (by omega), if_neg hn]
    obtain ⟨p1, p2, p3, p4, p5⟩ := hth l hl2
    rw [zt] at z1 z2 z3 z4 z5
    exact ⟨by rw [Gang.th_congr y1, z1, p1], by rw [Gang.th_congr y1, z2, p2], by rw [Gang.th_congr y1, z3, p3], by rw [Gang.th_congr y1, z4, p4],
      by rw [Gang.th_congr y1, z5, p5]⟩
  · have head : (lanesOf m).headD 0 < 32 := by
      obtain ⟨x, xs, hx2⟩ := List.exists_cons_of_ne_nil hne
      rw [hx2]; exact h32 x (by rw [hx2]; exact List.mem_cons_self ..)
    obtain ⟨p1, p2, p3, _, _⟩ := hth _ head
    obtain ⟨r, hr⟩ := (s.setGang gk g1).freeze_record s gk g1 g (lanesOf m) f hg1 (by rw [same.1]; exact hx) (by rw [hc, same.1]; exact hq) (by rw [hc, same.1]; exact hh) hcls (i := i)
      (by rw [hc, same.1]; exact hi) rfl (by constructor <;> rfl) same.1.symm same.2.1.symm same.2.2.1.symm same.2.2.2.symm p1.symm p2.symm p3.symm
    have rest : RestKept ((s.setGang gk g1).freeze gk (lanesOf m) f) u.clearCur := ((RestKept.mapGang _ gk Gang.settle).trans hs.rest).trans (.clearCur _)
    have hcx : ∀ c, u.clearCur.ctx c = ((s.setGang gk g1).freeze gk (lanesOf m) f).ctx c := fun c => by unfold State.ctx; rw [rest.ctxs]
    obtain ⟨q1, q2, q3, q4, q5, q6, q7, q8, q9, q10, q11, q12, q13, q14⟩ := hr
    exact ⟨r, by rw [hcx]; exact q1, by rw [hcx]; exact q2, by rw [hcx]; exact q3, q4, q5, q6, q7, q8, q9, q10, q11, q12, q13, by rw [rest.mem]; exact q14⟩
  · obtain ⟨n, hn2⟩ := (s.setGang gk g1).freeze_gangs gk g1 (lanesOf m) f hg1
    have ha : (((s.setGang gk g1).freeze gk (lanesOf m) f).mapGang gk Gang.settle).gang? k = some x := by
      rw [State.gang?_mapGang, if_neg (Ne.symm hk2)]
      unfold State.gang?; rw [hn2, Tbl.find?_put_other _ _ (Ne.symm hk2)]
      show (s.gangs.put gk g1).find? k = some x
      rw [Tbl.find?_put_other _ _ (Ne.symm hk2)]; exact hx
    obtain ⟨y, hy, y1, y2, y3⟩ := hs.self k _ ha
    exact ⟨y, hy, .of_eq y1 y2 y3⟩

/-- An instruction that fails its checks freezes its lanes and does nothing else (R57). -/
theorem rejectAll_takes {s : State} {gk : Nat} {g : Gang} {m : Nat} (f : Flt) (hg : s.gang? gk = some g) (hl : g.threads.length = 32) (hne : lanesOf m ≠ []) :
    TakesFault s (s.rejectAll gk g (lanesOf m) f).clearCur gk g m f := by
  unfold State.rejectAll
  simp only
  rw [State.freezeAll_same _ _ _ _ hne]
  refine takes_fault hg hl hne ?_ ?_ ?_ ?_ ?_ ((State.settleBarriers_only _ _).trans (State.releaseSlot_only _ _))
  · simpa using hl
  · rfl
  · rfl
  · intro l h
    rw [g.th_mapLanes _ _ _ (by omega)]
    split <;> exact ⟨rfl, rfl, rfl, rfl, rfl⟩
  · exact ⟨rfl, rfl, rfl, rfl⟩

/-- A word that is no instruction (R56). -/
theorem runIllegal_takes {s : State} {gk : Nat} {g : Gang} {m : Nat} {h : Hints} (I : Issues s gk g m h) (sub : Nat) :
    ∃ t, runIllegal sub s = .next t ∧ TakesFault s t gk g m ⟨cIllegalInsn, sub, 0⟩ := by
  unfold runIllegal
  simp only [I.cur, I.gang]
  exact ⟨_, rfl, rejectAll_takes _ I.gang I.whole I.some⟩

/-- An instruction whose checks fail for every lane (R57). -/
theorem run_rejected {s : State} {gk : Nat} {g : Gang} {m : Nat} {h : Hints} {i : Instr} {op : Hints → Op} {f : Flt} (I : Issues s gk g m h)
    (hc : (op h).form.check g h = some f) : ∃ t, run i op s = .next t ∧ TakesFault s t gk g m f := by
  unfold run
  simp only [I.cur, I.gang, I.bound]
  unfold Op.issue
  simp only [hc]
  exact ⟨_, rfl, rejectAll_takes _ I.gang I.whole I.some⟩

theorem Form.settleLanes_faults (o : Form) (hd : Held) (f : Flt) (ls : List Nat) (g : Gang) :
    o.settleLanes hd g (ls.map fun l => (l, LaneOut.fault f)) = (g, ls.map fun l => (l, f)) := by
  have key : ∀ (ls : List Nat) (g : Gang) (fs : List (Nat × Flt)),
      (ls.map fun l => (l, LaneOut.fault f)).foldl (fun (acc : Gang × List (Nat × Flt)) x =>
        let r := o.settleLane hd acc.1 x.1 x.2
        (r.1, match r.2 with | some x2 => acc.2 ++ [(x.1, x2)] | none => acc.2)) (g, fs) = (g, fs ++ ls.map fun l => (l, f)) := by
    intro ls
    induction ls with
    | nil => intro g fs; simp
    | cons x t ih => intro g fs; exact (ih g (fs ++ [(x, f)])).trans (by simp)
  exact (key ls g []).trans (by simp)

/-- An accepted instruction whose body faults in every lane with one fault, and does nothing else. -/
theorem run_fault {s : State} {gk : Nat} {g : Gang} {m : Nat} {h : Hints} {i : Instr} {op : Hints → Op} {f : Flt} (A : Accepts (op h) s gk g m h)
    (hb : (op h).body (s.setGang gk ((op h).reader g m)) ((op h).env s gk g (lanesOf m) h) =
      (s.setGang gk ((op h).reader g m), (lanesOf m).map fun l => (l, .fault f))) :
    ∃ t, run i op s = .next t ∧ TakesFault s t gk g m f := by
  refine ⟨_, run_accepted A hb, ?_⟩
  have hall : (((lanesOf m).map fun l => (l, LaneOut.fault f)).all fun p => p.2.isDone) = false := by
    obtain ⟨x, xs, hx⟩ := List.exists_cons_of_ne_nil A.some
    rw [hx]; simp [LaneOut.isDone]
  have hany : (((lanesOf m).map fun l => (l, LaneOut.fault f)).any fun p => p.2.completes) = false := by simp [LaneOut.completes]
  have hwait : (((lanesOf m).map fun l => (l, LaneOut.fault f)).any fun p => p.2.waits) = false := by simp [LaneOut.waits]
  have hfirst : firstDone ((lanesOf m).map fun l => (l, LaneOut.fault f)) = none := by
    generalize lanesOf m = ls
    induction ls with
    | nil => rfl
    | cons x t ih => rw [List.map_cons, firstDone]; exact ih; intro d; simp
  have hgk : (s.setGang gk ((op h).reader g m)).gang? gk = some ((op h).reader g m) := by rw [State.gang?_setGang, if_pos rfl]
  unfold Op.finish
  simp only [hwait, Bool.and_false, Bool.false_eq_true, ↓reduceIte, hgk, hfirst, hall, hany, Bool.false_and]
  rw [Form.settleLanes_faults]
  simp only
  rw [State.freezeAll_same _ _ _ _ A.some]
  have hss : ((s.setGang gk ((op h).reader g m)).setGang gk ((op h).reader g m)) = s.setGang gk ((op h).reader g m) := by
    unfold State.setGang
    rw [Tbl.put_put]
  rw [hss]
  have len1 : ((op h).reader g m).threads.length = 32 := by simpa using A.whole
  have st := ((s.setGang gk ((op h).reader g m)).freeze_stays gk ((op h).reader g m) (lanesOf m) f hgk len1 fun l hl => (mem_lanesOf.1 hl).1).settle gk
  have hun : ((((s.setGang gk ((op h).reader g m)).freeze gk (lanesOf m) f).mapGang gk Gang.settle).unattend gk) =
      (((s.setGang gk ((op h).reader g m)).freeze gk (lanesOf m) f).mapGang gk Gang.settle) := by
    obtain ⟨g', a, b, _, _, e⟩ := st
    refine State.unattend_live a ?_
    obtain ⟨x, hx⟩ := List.exists_mem_of_ne_nil _ A.some
    intro hn
    have : x ∈ g'.live := by
      simp only [Gang.live, List.mem_filter, List.mem_range]
      exact ⟨(e x hx).1, by rw [(e x hx).2.run]; rfl⟩
    rw [hn] at this; cases this
  rw [hun]
  refine takes_fault A.gang A.whole A.some len1 rfl rfl (fun l hl => ?_) ⟨rfl, rfl, rfl, rfl⟩ ((State.settleBarriers_only _ ((op h).reader g m).crew).trans ?_)
  · obtain ⟨p1, p2, p3, p4, _, p6, _⟩ := (op h).form.prepare_keeps g (lanesOf m) (l := l) (by rw [A.whole]; exact hl)
    exact ⟨p1, p2, p3, p4, p6⟩
  · split
    · exact .refl _
    · exact State.releaseSlot_only _ _

end Sys2Proof.Machine
end

