-- ==== Sys2Proof/Laws/PerInstr.lean ====
section
/-! SUPPORT. The per-instruction family Encoding: a well-formed instruction's word fits 32 bits and decodes to that instruction (R39 to R42, R58, R59). -/

namespace Sys2Proof.Laws.Encoding

/-- Of a well-formed instruction that has a word: the word lies in 32 bits and the decoder reads the instruction from it. -/
def Statement (i : Instr) : Prop := i.wf = true → ∀ n, encodeNat i = some n → Reads n i

/-- What a statement asks of an instruction whose word is known. -/
theorem of_word {i : Instr} {w : Nat} (he : encodeNat i = some w) (h : i.wf = true → Reads w i) : Statement i := fun hw n hn => by
  rw [he] at hn
  cases hn
  exact h hw

/-- A step of the device has no word. -/
theorem of_none {i : Instr} (he : encodeNat i = none) : Statement i := fun _ n hn => by
  rw [he] at hn
  cases hn

theorem wf2 {d : Nat} {a : Src} (h : (decide (d < 128) && a.wf) = true) : d < 128 ∧ a.wf = true := by
  simpa using h
theorem wf3 {d : Nat} {a b : Src} (h : (decide (d < 128) && a.wf && b.wf) = true) : d < 128 ∧ a.wf = true ∧ b.wf = true := by
  simpa [and_assoc] using h
theorem wfI {d imm : Nat} {a : Src} (h : (decide (d < 128) && a.wf && decide (imm < 256)) = true) :
    d < 128 ∧ a.wf = true ∧ imm < 256 := by
  simpa [and_assoc] using h
theorem wfAB {a b : Src} (h : (a.wf && b.wf) = true) : a.wf = true ∧ b.wf = true := by
  simpa using h
theorem wfB {a : Src} {x : Int} (h : (a.wf && decide (-131072 ≤ x) && decide (x < 131072)) = true) :
    a.wf = true ∧ -131072 ≤ x ∧ x < 131072 := by
  simpa [and_assoc] using h
theorem wfS {p r : Nat} (h : (decide (p < 4) && decide (r < 16)) = true) : p < 4 ∧ r < 16 := by
  simpa using h

theorem reads_sched {p r : Nat} (h : p < 4 ∧ r < 16) : Reads (hintWord 3 (p * 16 + r)) (.hxSched p r) :=
  reads_hint (by omega) (by omega) (by
    have h1 : p * 16 + r < 64 := by omega
    have h2 : (p * 16 + r) / 16 = p := by omega
    have h3 : (p * 16 + r) % 16 = r := by omega
    simp [decodeHint, h1, h2, h3])

theorem nop : Statement (.nop) := of_word rfl fun _ => reads_bare rfl (by decide) (by decide)
theorem yield : Statement (.yield) := of_word rfl fun _ => reads_bare rfl (by decide) (by decide)
theorem exit : Statement (.exit) := of_word rfl fun _ => reads_bare rfl (by decide) (by decide)
theorem taskend : Statement (.taskend) := of_word rfl fun _ => reads_bare rfl (by decide) (by decide)
theorem add {nw : Bool} {d : Nat} {a : Src} {b : Src} : Statement (.add nw d a b) := of_word rfl fun h => reads_nDAB rfl (by decide) (by decide) (wf3 h).1 (wf3 h).2.1 (wf3 h).2.2
theorem sub {nw : Bool} {d : Nat} {a : Src} {b : Src} : Statement (.sub nw d a b) := of_word rfl fun h => reads_nDAB rfl (by decide) (by decide) (wf3 h).1 (wf3 h).2.1 (wf3 h).2.2
theorem min {nw : Bool} {d : Nat} {a : Src} {b : Src} : Statement (.min nw d a b) := of_word rfl fun h => reads_nDAB rfl (by decide) (by decide) (wf3 h).1 (wf3 h).2.1 (wf3 h).2.2
theorem max {nw : Bool} {d : Nat} {a : Src} {b : Src} : Statement (.max nw d a b) := of_word rfl fun h => reads_nDAB rfl (by decide) (by decide) (wf3 h).1 (wf3 h).2.1 (wf3 h).2.2
theorem addi {nw : Bool} {d : Nat} {a : Src} {imm : Nat} : Statement (.addi nw d a imm) := of_word rfl fun h => reads_nDAI rfl (by decide) (by decide) (wfI h).1 (wfI h).2.1 (wfI h).2.2
theorem mini {nw : Bool} {d : Nat} {a : Src} {imm : Nat} : Statement (.mini nw d a imm) := of_word rfl fun h => reads_nDAI rfl (by decide) (by decide) (wfI h).1 (wfI h).2.1 (wfI h).2.2
theorem maxi {nw : Bool} {d : Nat} {a : Src} {imm : Nat} : Statement (.maxi nw d a imm) := of_word rfl fun h => reads_nDAI rfl (by decide) (by decide) (wfI h).1 (wfI h).2.1 (wfI h).2.2
theorem minu {nw : Bool} {d : Nat} {a : Src} {b : Src} : Statement (.minu nw d a b) := of_word rfl fun h => reads_nDAB rfl (by decide) (by decide) (wf3 h).1 (wf3 h).2.1 (wf3 h).2.2
theorem maxu {nw : Bool} {d : Nat} {a : Src} {b : Src} : Statement (.maxu nw d a b) := of_word rfl fun h => reads_nDAB rfl (by decide) (by decide) (wf3 h).1 (wf3 h).2.1 (wf3 h).2.2
theorem abs {nw : Bool} {d : Nat} {a : Src} : Statement (.abs nw d a) := of_word rfl fun h => reads_nDA rfl (by decide) (by decide) (wf2 h).1 (wf2 h).2
theorem neg {nw : Bool} {d : Nat} {a : Src} : Statement (.neg nw d a) := of_word rfl fun h => reads_nDA rfl (by decide) (by decide) (wf2 h).1 (wf2 h).2
theorem mul {nw : Bool} {d : Nat} {a : Src} {b : Src} : Statement (.mul nw d a b) := of_word rfl fun h => reads_nDAB rfl (by decide) (by decide) (wf3 h).1 (wf3 h).2.1 (wf3 h).2.2
theorem mulh {nw : Bool} {d : Nat} {a : Src} {b : Src} : Statement (.mulh nw d a b) := of_word rfl fun h => reads_nDAB rfl (by decide) (by decide) (wf3 h).1 (wf3 h).2.1 (wf3 h).2.2
theorem mulhu {nw : Bool} {d : Nat} {a : Src} {b : Src} : Statement (.mulhu nw d a b) := of_word rfl fun h => reads_nDAB rfl (by decide) (by decide) (wf3 h).1 (wf3 h).2.1 (wf3 h).2.2
theorem mad {nw : Bool} {d : Nat} {a : Src} {b : Src} : Statement (.mad nw d a b) := of_word rfl fun h => reads_nDAB rfl (by decide) (by decide) (wf3 h).1 (wf3 h).2.1 (wf3 h).2.2
theorem and {nw : Bool} {d : Nat} {a : Src} {b : Src} : Statement (.and nw d a b) := of_word rfl fun h => reads_nDAB rfl (by decide) (by decide) (wf3 h).1 (wf3 h).2.1 (wf3 h).2.2
theorem or {nw : Bool} {d : Nat} {a : Src} {b : Src} : Statement (.or nw d a b) := of_word rfl fun h => reads_nDAB rfl (by decide) (by decide) (wf3 h).1 (wf3 h).2.1 (wf3 h).2.2
theorem xor {nw : Bool} {d : Nat} {a : Src} {b : Src} : Statement (.xor nw d a b) := of_word rfl fun h => reads_nDAB rfl (by decide) (by decide) (wf3 h).1 (wf3 h).2.1 (wf3 h).2.2
theorem andn {nw : Bool} {d : Nat} {a : Src} {b : Src} : Statement (.andn nw d a b) := of_word rfl fun h => reads_nDAB rfl (by decide) (by decide) (wf3 h).1 (wf3 h).2.1 (wf3 h).2.2
theorem andi {nw : Bool} {d : Nat} {a : Src} {imm : Nat} : Statement (.andi nw d a imm) := of_word rfl fun h => reads_nDAI rfl (by decide) (by decide) (wfI h).1 (wfI h).2.1 (wfI h).2.2
theorem ori {nw : Bool} {d : Nat} {a : Src} {imm : Nat} : Statement (.ori nw d a imm) := of_word rfl fun h => reads_nDAI rfl (by decide) (by decide) (wfI h).1 (wfI h).2.1 (wfI h).2.2
theorem xori {nw : Bool} {d : Nat} {a : Src} {imm : Nat} : Statement (.xori nw d a imm) := of_word rfl fun h => reads_nDAI rfl (by decide) (by decide) (wfI h).1 (wfI h).2.1 (wfI h).2.2
theorem shl {nw : Bool} {d : Nat} {a : Src} {b : Src} : Statement (.shl nw d a b) := of_word rfl fun h => reads_nDAB rfl (by decide) (by decide) (wf3 h).1 (wf3 h).2.1 (wf3 h).2.2
theorem shr {nw : Bool} {d : Nat} {a : Src} {b : Src} : Statement (.shr nw d a b) := of_word rfl fun h => reads_nDAB rfl (by decide) (by decide) (wf3 h).1 (wf3 h).2.1 (wf3 h).2.2
theorem sar {nw : Bool} {d : Nat} {a : Src} {b : Src} : Statement (.sar nw d a b) := of_word rfl fun h => reads_nDAB rfl (by decide) (by decide) (wf3 h).1 (wf3 h).2.1 (wf3 h).2.2
theorem rol {nw : Bool} {d : Nat} {a : Src} {b : Src} : Statement (.rol nw d a b) := of_word rfl fun h => reads_nDAB rfl (by decide) (by decide) (wf3 h).1 (wf3 h).2.1 (wf3 h).2.2
theorem shli {nw : Bool} {d : Nat} {a : Src} {imm : Nat} : Statement (.shli nw d a imm) := of_word rfl fun h => reads_nDAI rfl (by decide) (by decide) (wfI h).1 (wfI h).2.1 (wfI h).2.2
theorem shri {nw : Bool} {d : Nat} {a : Src} {imm : Nat} : Statement (.shri nw d a imm) := of_word rfl fun h => reads_nDAI rfl (by decide) (by decide) (wfI h).1 (wfI h).2.1 (wfI h).2.2
theorem sari {nw : Bool} {d : Nat} {a : Src} {imm : Nat} : Statement (.sari nw d a imm) := of_word rfl fun h => reads_nDAI rfl (by decide) (by decide) (wfI h).1 (wfI h).2.1 (wfI h).2.2
theorem roli {nw : Bool} {d : Nat} {a : Src} {imm : Nat} : Statement (.roli nw d a imm) := of_word rfl fun h => reads_nDAI rfl (by decide) (by decide) (wfI h).1 (wfI h).2.1 (wfI h).2.2
theorem clz {nw : Bool} {d : Nat} {a : Src} : Statement (.clz nw d a) := of_word rfl fun h => reads_nDA rfl (by decide) (by decide) (wf2 h).1 (wf2 h).2
theorem popc {nw : Bool} {d : Nat} {a : Src} : Statement (.popc nw d a) := of_word rfl fun h => reads_nDA rfl (by decide) (by decide) (wf2 h).1 (wf2 h).2
theorem brev {nw : Bool} {d : Nat} {a : Src} : Statement (.brev nw d a) := of_word rfl fun h => reads_nDA rfl (by decide) (by decide) (wf2 h).1 (wf2 h).2
theorem bytep {nw : Bool} {d : Nat} {a : Src} {b : Src} : Statement (.bytep nw d a b) := of_word rfl fun h => reads_nDAB rfl (by decide) (by decide) (wf3 h).1 (wf3 h).2.1 (wf3 h).2.2
theorem bfe {nw : Bool} {d : Nat} {a : Src} {b : Src} : Statement (.bfe nw d a b) := of_word rfl fun h => reads_nDAB rfl (by decide) (by decide) (wf3 h).1 (wf3 h).2.1 (wf3 h).2.2
theorem bfeu {nw : Bool} {d : Nat} {a : Src} {b : Src} : Statement (.bfeu nw d a b) := of_word rfl fun h => reads_nDAB rfl (by decide) (by decide) (wf3 h).1 (wf3 h).2.1 (wf3 h).2.2
theorem bfi {nw : Bool} {d : Nat} {a : Src} {b : Src} : Statement (.bfi nw d a b) := of_word rfl fun h => reads_nDAB rfl (by decide) (by decide) (wf3 h).1 (wf3 h).2.1 (wf3 h).2.2
theorem seq {nw : Bool} {d : Nat} {a : Src} {b : Src} : Statement (.seq nw d a b) := of_word rfl fun h => reads_nDAB rfl (by decide) (by decide) (wf3 h).1 (wf3 h).2.1 (wf3 h).2.2
theorem sne {nw : Bool} {d : Nat} {a : Src} {b : Src} : Statement (.sne nw d a b) := of_word rfl fun h => reads_nDAB rfl (by decide) (by decide) (wf3 h).1 (wf3 h).2.1 (wf3 h).2.2
theorem slt {nw : Bool} {d : Nat} {a : Src} {b : Src} : Statement (.slt nw d a b) := of_word rfl fun h => reads_nDAB rfl (by decide) (by decide) (wf3 h).1 (wf3 h).2.1 (wf3 h).2.2
theorem sle {nw : Bool} {d : Nat} {a : Src} {b : Src} : Statement (.sle nw d a b) := of_word rfl fun h => reads_nDAB rfl (by decide) (by decide) (wf3 h).1 (wf3 h).2.1 (wf3 h).2.2
theorem sltu {nw : Bool} {d : Nat} {a : Src} {b : Src} : Statement (.sltu nw d a b) := of_word rfl fun h => reads_nDAB rfl (by decide) (by decide) (wf3 h).1 (wf3 h).2.1 (wf3 h).2.2
theorem sleu {nw : Bool} {d : Nat} {a : Src} {b : Src} : Statement (.sleu nw d a b) := of_word rfl fun h => reads_nDAB rfl (by decide) (by decide) (wf3 h).1 (wf3 h).2.1 (wf3 h).2.2
theorem sel {nw : Bool} {d : Nat} {a : Src} {b : Src} : Statement (.sel nw d a b) := of_word rfl fun h => reads_nDAB rfl (by decide) (by decide) (wf3 h).1 (wf3 h).2.1 (wf3 h).2.2
theorem mov {nw : Bool} {d : Nat} {a : Src} : Statement (.mov nw d a) := of_word rfl fun h => reads_nDA rfl (by decide) (by decide) (wf2 h).1 (wf2 h).2
theorem add64 {nw : Bool} {d : Nat} {a : Src} {b : Src} : Statement (.add64 nw d a b) := of_word rfl fun h => reads_nDAB rfl (by decide) (by decide) (wf3 h).1 (wf3 h).2.1 (wf3 h).2.2
theorem sub64 {nw : Bool} {d : Nat} {a : Src} {b : Src} : Statement (.sub64 nw d a b) := of_word rfl fun h => reads_nDAB rfl (by decide) (by decide) (wf3 h).1 (wf3 h).2.1 (wf3 h).2.2
theorem mad64 {nw : Bool} {d : Nat} {a : Src} {b : Src} : Statement (.mad64 nw d a b) := of_word rfl fun h => reads_nDAB rfl (by decide) (by decide) (wf3 h).1 (wf3 h).2.1 (wf3 h).2.2
theorem shl64 {nw : Bool} {d : Nat} {a : Src} {b : Src} : Statement (.shl64 nw d a b) := of_word rfl fun h => reads_nDAB rfl (by decide) (by decide) (wf3 h).1 (wf3 h).2.1 (wf3 h).2.2
theorem sext8 {nw : Bool} {d : Nat} {a : Src} : Statement (.sext8 nw d a) := of_word rfl fun h => reads_nDA rfl (by decide) (by decide) (wf2 h).1 (wf2 h).2
theorem sext16 {nw : Bool} {d : Nat} {a : Src} : Statement (.sext16 nw d a) := of_word rfl fun h => reads_nDA rfl (by decide) (by decide) (wf2 h).1 (wf2 h).2
theorem zext8 {nw : Bool} {d : Nat} {a : Src} : Statement (.zext8 nw d a) := of_word rfl fun h => reads_nDA rfl (by decide) (by decide) (wf2 h).1 (wf2 h).2
theorem zext16 {nw : Bool} {d : Nat} {a : Src} : Statement (.zext16 nw d a) := of_word rfl fun h => reads_nDA rfl (by decide) (by decide) (wf2 h).1 (wf2 h).2
theorem fadd {nw : Bool} {d : Nat} {a : Src} {b : Src} : Statement (.fadd nw d a b) := of_word rfl fun h => reads_nDAB rfl (by decide) (by decide) (wf3 h).1 (wf3 h).2.1 (wf3 h).2.2
theorem fsub {nw : Bool} {d : Nat} {a : Src} {b : Src} : Statement (.fsub nw d a b) := of_word rfl fun h => reads_nDAB rfl (by decide) (by decide) (wf3 h).1 (wf3 h).2.1 (wf3 h).2.2
theorem fmul {nw : Bool} {d : Nat} {a : Src} {b : Src} : Statement (.fmul nw d a b) := of_word rfl fun h => reads_nDAB rfl (by decide) (by decide) (wf3 h).1 (wf3 h).2.1 (wf3 h).2.2
theorem fma {nw : Bool} {d : Nat} {a : Src} {b : Src} : Statement (.fma nw d a b) := of_word rfl fun h => reads_nDAB rfl (by decide) (by decide) (wf3 h).1 (wf3 h).2.1 (wf3 h).2.2
theorem fmin {nw : Bool} {d : Nat} {a : Src} {b : Src} : Statement (.fmin nw d a b) := of_word rfl fun h => reads_nDAB rfl (by decide) (by decide) (wf3 h).1 (wf3 h).2.1 (wf3 h).2.2
theorem fmax {nw : Bool} {d : Nat} {a : Src} {b : Src} : Statement (.fmax nw d a b) := of_word rfl fun h => reads_nDAB rfl (by decide) (by decide) (wf3 h).1 (wf3 h).2.1 (wf3 h).2.2
theorem fabs {nw : Bool} {d : Nat} {a : Src} : Statement (.fabs nw d a) := of_word rfl fun h => reads_nDA rfl (by decide) (by decide) (wf2 h).1 (wf2 h).2
theorem fneg {nw : Bool} {d : Nat} {a : Src} : Statement (.fneg nw d a) := of_word rfl fun h => reads_nDA rfl (by decide) (by decide) (wf2 h).1 (wf2 h).2
theorem fseq {nw : Bool} {d : Nat} {a : Src} {b : Src} : Statement (.fseq nw d a b) := of_word rfl fun h => reads_nDAB rfl (by decide) (by decide) (wf3 h).1 (wf3 h).2.1 (wf3 h).2.2
theorem fslt {nw : Bool} {d : Nat} {a : Src} {b : Src} : Statement (.fslt nw d a b) := of_word rfl fun h => reads_nDAB rfl (by decide) (by decide) (wf3 h).1 (wf3 h).2.1 (wf3 h).2.2
theorem fsle {nw : Bool} {d : Nat} {a : Src} {b : Src} : Statement (.fsle nw d a b) := of_word rfl fun h => reads_nDAB rfl (by decide) (by decide) (wf3 h).1 (wf3 h).2.1 (wf3 h).2.2
theorem fsun {nw : Bool} {d : Nat} {a : Src} {b : Src} : Statement (.fsun nw d a b) := of_word rfl fun h => reads_nDAB rfl (by decide) (by decide) (wf3 h).1 (wf3 h).2.1 (wf3 h).2.2
theorem rcp {nw : Bool} {d : Nat} {a : Src} : Statement (.rcp nw d a) := of_word rfl fun h => reads_nDA rfl (by decide) (by decide) (wf2 h).1 (wf2 h).2
theorem rsq {nw : Bool} {d : Nat} {a : Src} : Statement (.rsq nw d a) := of_word rfl fun h => reads_nDA rfl (by decide) (by decide) (wf2 h).1 (wf2 h).2
theorem sqrt {nw : Bool} {d : Nat} {a : Src} : Statement (.sqrt nw d a) := of_word rfl fun h => reads_nDA rfl (by decide) (by decide) (wf2 h).1 (wf2 h).2
theorem ex2 {nw : Bool} {d : Nat} {a : Src} : Statement (.ex2 nw d a) := of_word rfl fun h => reads_nDA rfl (by decide) (by decide) (wf2 h).1 (wf2 h).2
theorem lg2 {nw : Bool} {d : Nat} {a : Src} : Statement (.lg2 nw d a) := of_word rfl fun h => reads_nDA rfl (by decide) (by decide) (wf2 h).1 (wf2 h).2
theorem tanh {nw : Bool} {d : Nat} {a : Src} : Statement (.tanh nw d a) := of_word rfl fun h => reads_nDA rfl (by decide) (by decide) (wf2 h).1 (wf2 h).2
theorem floor {nw : Bool} {d : Nat} {a : Src} : Statement (.floor nw d a) := of_word rfl fun h => reads_nDA rfl (by decide) (by decide) (wf2 h).1 (wf2 h).2
theorem frint {nw : Bool} {d : Nat} {a : Src} : Statement (.frint nw d a) := of_word rfl fun h => reads_nDA rfl (by decide) (by decide) (wf2 h).1 (wf2 h).2
theorem badd2 {nw : Bool} {d : Nat} {a : Src} {b : Src} : Statement (.badd2 nw d a b) := of_word rfl fun h => reads_nDAB rfl (by decide) (by decide) (wf3 h).1 (wf3 h).2.1 (wf3 h).2.2
theorem bmul2 {nw : Bool} {d : Nat} {a : Src} {b : Src} : Statement (.bmul2 nw d a b) := of_word rfl fun h => reads_nDAB rfl (by decide) (by decide) (wf3 h).1 (wf3 h).2.1 (wf3 h).2.2
theorem bfma2 {nw : Bool} {d : Nat} {a : Src} {b : Src} : Statement (.bfma2 nw d a b) := of_word rfl fun h => reads_nDAB rfl (by decide) (by decide) (wf3 h).1 (wf3 h).2.1 (wf3 h).2.2
theorem bmax2 {nw : Bool} {d : Nat} {a : Src} {b : Src} : Statement (.bmax2 nw d a b) := of_word rfl fun h => reads_nDAB rfl (by decide) (by decide) (wf3 h).1 (wf3 h).2.1 (wf3 h).2.2
theorem hadd2 {nw : Bool} {d : Nat} {a : Src} {b : Src} : Statement (.hadd2 nw d a b) := of_word rfl fun h => reads_nDAB rfl (by decide) (by decide) (wf3 h).1 (wf3 h).2.1 (wf3 h).2.2
theorem hmul2 {nw : Bool} {d : Nat} {a : Src} {b : Src} : Statement (.hmul2 nw d a b) := of_word rfl fun h => reads_nDAB rfl (by decide) (by decide) (wf3 h).1 (wf3 h).2.1 (wf3 h).2.2
theorem hfma2 {nw : Bool} {d : Nat} {a : Src} {b : Src} : Statement (.hfma2 nw d a b) := of_word rfl fun h => reads_nDAB rfl (by decide) (by decide) (wf3 h).1 (wf3 h).2.1 (wf3 h).2.2
theorem hmax2 {nw : Bool} {d : Nat} {a : Src} {b : Src} : Statement (.hmax2 nw d a b) := of_word rfl fun h => reads_nDAB rfl (by decide) (by decide) (wf3 h).1 (wf3 h).2.1 (wf3 h).2.2
theorem f2i {nw : Bool} {d : Nat} {a : Src} : Statement (.f2i nw d a) := of_word rfl fun h => reads_nDA rfl (by decide) (by decide) (wf2 h).1 (wf2 h).2
theorem i2f {nw : Bool} {d : Nat} {a : Src} : Statement (.i2f nw d a) := of_word rfl fun h => reads_nDA rfl (by decide) (by decide) (wf2 h).1 (wf2 h).2
theorem f2n {nw : Bool} {d : Nat} {a : Src} {b : Src} : Statement (.f2n nw d a b) := of_word rfl fun h => reads_nDAB rfl (by decide) (by decide) (wf3 h).1 (wf3 h).2.1 (wf3 h).2.2
theorem n2f {nw : Bool} {d : Nat} {a : Src} {b : Src} : Statement (.n2f nw d a b) := of_word rfl fun h => reads_nDAB rfl (by decide) (by decide) (wf3 h).1 (wf3 h).2.1 (wf3 h).2.2
theorem f2bf2 {nw : Bool} {d : Nat} {a : Src} {b : Src} : Statement (.f2bf2 nw d a b) := of_word rfl fun h => reads_nDAB rfl (by decide) (by decide) (wf3 h).1 (wf3 h).2.1 (wf3 h).2.2
theorem f2h2 {nw : Bool} {d : Nat} {a : Src} {b : Src} : Statement (.f2h2 nw d a b) := of_word rfl fun h => reads_nDAB rfl (by decide) (by decide) (wf3 h).1 (wf3 h).2.1 (wf3 h).2.2
theorem bf2f {nw : Bool} {d : Nat} {a : Src} {b : Src} : Statement (.bf2f nw d a b) := of_word rfl fun h => reads_nDAB rfl (by decide) (by decide) (wf3 h).1 (wf3 h).2.1 (wf3 h).2.2
theorem h2f {nw : Bool} {d : Nat} {a : Src} {b : Src} : Statement (.h2f nw d a b) := of_word rfl fun h => reads_nDAB rfl (by decide) (by decide) (wf3 h).1 (wf3 h).2.1 (wf3 h).2.2
theorem qf8 {nw : Bool} {d : Nat} {a : Src} : Statement (.qf8 nw d a) := of_word rfl fun h => reads_nDA rfl (by decide) (by decide) (wf2 h).1 (wf2 h).2
theorem qf4 {nw : Bool} {d : Nat} {a : Src} : Statement (.qf4 nw d a) := of_word rfl fun h => reads_nDA rfl (by decide) (by decide) (wf2 h).1 (wf2 h).2
theorem dq8 {nw : Bool} {d : Nat} {a : Src} {b : Src} : Statement (.dq8 nw d a b) := of_word rfl fun h => reads_nDAB rfl (by decide) (by decide) (wf3 h).1 (wf3 h).2.1 (wf3 h).2.2
theorem dq4 {nw : Bool} {d : Nat} {a : Src} {b : Src} : Statement (.dq4 nw d a b) := of_word rfl fun h => reads_nDAB rfl (by decide) (by decide) (wf3 h).1 (wf3 h).2.1 (wf3 h).2.2
theorem uadd {nw : Bool} {d : Nat} {a : Src} {b : Src} : Statement (.uadd nw d a b) := of_word rfl fun h => reads_nDAB rfl (by decide) (by decide) (wf3 h).1 (wf3 h).2.1 (wf3 h).2.2
theorem usub {nw : Bool} {d : Nat} {a : Src} {b : Src} : Statement (.usub nw d a b) := of_word rfl fun h => reads_nDAB rfl (by decide) (by decide) (wf3 h).1 (wf3 h).2.1 (wf3 h).2.2
theorem umul {nw : Bool} {d : Nat} {a : Src} {b : Src} : Statement (.umul nw d a b) := of_word rfl fun h => reads_nDAB rfl (by decide) (by decide) (wf3 h).1 (wf3 h).2.1 (wf3 h).2.2
theorem umov {nw : Bool} {d : Nat} {a : Src} : Statement (.umov nw d a) := of_word rfl fun h => reads_nDA rfl (by decide) (by decide) (wf2 h).1 (wf2 h).2
theorem uand {nw : Bool} {d : Nat} {a : Src} {b : Src} : Statement (.uand nw d a b) := of_word rfl fun h => reads_nDAB rfl (by decide) (by decide) (wf3 h).1 (wf3 h).2.1 (wf3 h).2.2
theorem uor {nw : Bool} {d : Nat} {a : Src} {b : Src} : Statement (.uor nw d a b) := of_word rfl fun h => reads_nDAB rfl (by decide) (by decide) (wf3 h).1 (wf3 h).2.1 (wf3 h).2.2
theorem uxor {nw : Bool} {d : Nat} {a : Src} {b : Src} : Statement (.uxor nw d a b) := of_word rfl fun h => reads_nDAB rfl (by decide) (by decide) (wf3 h).1 (wf3 h).2.1 (wf3 h).2.2
theorem ushr {nw : Bool} {d : Nat} {a : Src} {b : Src} : Statement (.ushr nw d a b) := of_word rfl fun h => reads_nDAB rfl (by decide) (by decide) (wf3 h).1 (wf3 h).2.1 (wf3 h).2.2
theorem ushl {nw : Bool} {d : Nat} {a : Src} {b : Src} : Statement (.ushl nw d a b) := of_word rfl fun h => reads_nDAB rfl (by decide) (by decide) (wf3 h).1 (wf3 h).2.1 (wf3 h).2.2
theorem uadd64 {nw : Bool} {d : Nat} {a : Src} {b : Src} : Statement (.uadd64 nw d a b) := of_word rfl fun h => reads_nDAB rfl (by decide) (by decide) (wf3 h).1 (wf3 h).2.1 (wf3 h).2.2
theorem useq {nw : Bool} {d : Nat} {a : Src} {b : Src} : Statement (.useq nw d a b) := of_word rfl fun h => reads_nDAB rfl (by decide) (by decide) (wf3 h).1 (wf3 h).2.1 (wf3 h).2.2
theorem uslt {nw : Bool} {d : Nat} {a : Src} {b : Src} : Statement (.uslt nw d a b) := of_word rfl fun h => reads_nDAB rfl (by decide) (by decide) (wf3 h).1 (wf3 h).2.1 (wf3 h).2.2
theorem rdlane {nw : Bool} {d : Nat} {a : Src} {b : Src} : Statement (.rdlane nw d a b) := of_word rfl fun h => reads_nDAB rfl (by decide) (by decide) (wf3 h).1 (wf3 h).2.1 (wf3 h).2.2
theorem umin {nw : Bool} {d : Nat} {a : Src} {b : Src} : Statement (.umin nw d a b) := of_word rfl fun h => reads_nDAB rfl (by decide) (by decide) (wf3 h).1 (wf3 h).2.1 (wf3 h).2.2
theorem umax {nw : Bool} {d : Nat} {a : Src} {b : Src} : Statement (.umax nw d a b) := of_word rfl fun h => reads_nDAB rfl (by decide) (by decide) (wf3 h).1 (wf3 h).2.1 (wf3 h).2.2
theorem uaddi {nw : Bool} {d : Nat} {a : Src} {imm : Nat} : Statement (.uaddi nw d a imm) := of_word rfl fun h => reads_nDAI rfl (by decide) (by decide) (wfI h).1 (wfI h).2.1 (wfI h).2.2
theorem shflIdx {nw : Bool} {d : Nat} {a : Src} {b : Src} : Statement (.shflIdx nw d a b) := of_word rfl fun h => reads_nDAB rfl (by decide) (by decide) (wf3 h).1 (wf3 h).2.1 (wf3 h).2.2
theorem shflUp {nw : Bool} {d : Nat} {a : Src} {b : Src} : Statement (.shflUp nw d a b) := of_word rfl fun h => reads_nDAB rfl (by decide) (by decide) (wf3 h).1 (wf3 h).2.1 (wf3 h).2.2
theorem shflDn {nw : Bool} {d : Nat} {a : Src} {b : Src} : Statement (.shflDn nw d a b) := of_word rfl fun h => reads_nDAB rfl (by decide) (by decide) (wf3 h).1 (wf3 h).2.1 (wf3 h).2.2
theorem shflXor {nw : Bool} {d : Nat} {a : Src} {b : Src} : Statement (.shflXor nw d a b) := of_word rfl fun h => reads_nDAB rfl (by decide) (by decide) (wf3 h).1 (wf3 h).2.1 (wf3 h).2.2
theorem voteAll {nw : Bool} {d : Nat} {a : Src} : Statement (.voteAll nw d a) := of_word rfl fun h => reads_nDA rfl (by decide) (by decide) (wf2 h).1 (wf2 h).2
theorem voteAny {nw : Bool} {d : Nat} {a : Src} : Statement (.voteAny nw d a) := of_word rfl fun h => reads_nDA rfl (by decide) (by decide) (wf2 h).1 (wf2 h).2
theorem ballot {nw : Bool} {d : Nat} {a : Src} : Statement (.ballot nw d a) := of_word rfl fun h => reads_nDA rfl (by decide) (by decide) (wf2 h).1 (wf2 h).2
theorem matchAny {nw : Bool} {d : Nat} {a : Src} : Statement (.matchAny nw d a) := of_word rfl fun h => reads_nDA rfl (by decide) (by decide) (wf2 h).1 (wf2 h).2
theorem radd {nw : Bool} {d : Nat} {a : Src} : Statement (.radd nw d a) := of_word rfl fun h => reads_nDA rfl (by decide) (by decide) (wf2 h).1 (wf2 h).2
theorem rmin {nw : Bool} {d : Nat} {a : Src} : Statement (.rmin nw d a) := of_word rfl fun h => reads_nDA rfl (by decide) (by decide) (wf2 h).1 (wf2 h).2
theorem rmax {nw : Bool} {d : Nat} {a : Src} : Statement (.rmax nw d a) := of_word rfl fun h => reads_nDA rfl (by decide) (by decide) (wf2 h).1 (wf2 h).2
theorem rfadd {nw : Bool} {d : Nat} {a : Src} : Statement (.rfadd nw d a) := of_word rfl fun h => reads_nDA rfl (by decide) (by decide) (wf2 h).1 (wf2 h).2
theorem brz {a : Src} {disp : Int} : Statement (.brz a disp) := of_word rfl fun h => reads_branch rfl (by decide) (wfB h).1 (wfB h).2
theorem brnz {a : Src} {disp : Int} : Statement (.brnz a disp) := of_word rfl fun h => reads_branch rfl (by decide) (wfB h).1 (wfB h).2
theorem call {a : Src} {disp : Int} : Statement (.call a disp) := of_word rfl fun h => reads_branch rfl (by decide) (wfB h).1 (wfB h).2
theorem jmpi {a : Src} : Statement (.jmpi a) := of_word rfl fun h => reads_aOnly rfl (by decide) (by decide) h
theorem ret {a : Src} : Statement (.ret a) := of_word rfl fun h => reads_aOnly rfl (by decide) (by decide) h
theorem meet {a : Src} : Statement (.meet a) := of_word rfl fun h => reads_aOnly rfl (by decide) (by decide) h
theorem rdmt {nw : Bool} {d : Nat} : Statement (.rdmt nw d) := of_word rfl fun h => reads_nD rfl (by decide) (by decide) (of_decide_eq_true h)
theorem jf {a : Src} : Statement (.jf a) := of_word rfl fun h => reads_aOnly rfl (by decide) (by decide) h
theorem callf {nw : Bool} {d : Nat} {a : Src} : Statement (.callf nw d a) := of_word rfl fun h => reads_nDA rfl (by decide) (by decide) (wf2 h).1 (wf2 h).2
theorem cfetch {a : Src} {b : Src} : Statement (.cfetch a b) := of_word rfl fun h => reads_aB rfl (by decide) (by decide) (wfAB h).1 (wfAB h).2
theorem cqry {nw : Bool} {d : Nat} {a : Src} : Statement (.cqry nw d a) := of_word rfl fun h => reads_nDA rfl (by decide) (by decide) (wf2 h).1 (wf2 h).2
theorem ldB {d : Nat} {a : Src} {b : Src} : Statement (.ldB d a b) := of_word rfl fun h => reads_dAB rfl (by decide) (by decide) (wf3 h).1 (wf3 h).2.1 (wf3 h).2.2
theorem ldH {d : Nat} {a : Src} {b : Src} : Statement (.ldH d a b) := of_word rfl fun h => reads_dAB rfl (by decide) (by decide) (wf3 h).1 (wf3 h).2.1 (wf3 h).2.2
theorem ldW {d : Nat} {a : Src} {b : Src} : Statement (.ldW d a b) := of_word rfl fun h => reads_dAB rfl (by decide) (by decide) (wf3 h).1 (wf3 h).2.1 (wf3 h).2.2
theorem ldD {d : Nat} {a : Src} {b : Src} : Statement (.ldD d a b) := of_word rfl fun h => reads_dAB rfl (by decide) (by decide) (wf3 h).1 (wf3 h).2.1 (wf3 h).2.2
theorem ldBu {d : Nat} {a : Src} {b : Src} : Statement (.ldBu d a b) := of_word rfl fun h => reads_dAB rfl (by decide) (by decide) (wf3 h).1 (wf3 h).2.1 (wf3 h).2.2
theorem ldHu {d : Nat} {a : Src} {b : Src} : Statement (.ldHu d a b) := of_word rfl fun h => reads_dAB rfl (by decide) (by decide) (wf3 h).1 (wf3 h).2.1 (wf3 h).2.2
theorem ldQ {d : Nat} {a : Src} {b : Src} : Statement (.ldQ d a b) := of_word rfl fun h => reads_dAB rfl (by decide) (by decide) (wf3 h).1 (wf3 h).2.1 (wf3 h).2.2
theorem ldF {d : Nat} {a : Src} {b : Src} : Statement (.ldF d a b) := of_word rfl fun h => reads_dAB rfl (by decide) (by decide) (wf3 h).1 (wf3 h).2.1 (wf3 h).2.2
theorem stB {d : Nat} {a : Src} {b : Src} : Statement (.stB d a b) := of_word rfl fun h => reads_dAB rfl (by decide) (by decide) (wf3 h).1 (wf3 h).2.1 (wf3 h).2.2
theorem stH {d : Nat} {a : Src} {b : Src} : Statement (.stH d a b) := of_word rfl fun h => reads_dAB rfl (by decide) (by decide) (wf3 h).1 (wf3 h).2.1 (wf3 h).2.2
theorem stW {d : Nat} {a : Src} {b : Src} : Statement (.stW d a b) := of_word rfl fun h => reads_dAB rfl (by decide) (by decide) (wf3 h).1 (wf3 h).2.1 (wf3 h).2.2
theorem stD {d : Nat} {a : Src} {b : Src} : Statement (.stD d a b) := of_word rfl fun h => reads_dAB rfl (by decide) (by decide) (wf3 h).1 (wf3 h).2.1 (wf3 h).2.2
theorem stQ {d : Nat} {a : Src} {b : Src} : Statement (.stQ d a b) := of_word rfl fun h => reads_dAB rfl (by decide) (by decide) (wf3 h).1 (wf3 h).2.1 (wf3 h).2.2
theorem ldxW {d : Nat} {a : Src} {b : Src} : Statement (.ldxW d a b) := of_word rfl fun h => reads_dAB rfl (by decide) (by decide) (wf3 h).1 (wf3 h).2.1 (wf3 h).2.2
theorem ldxD {d : Nat} {a : Src} {b : Src} : Statement (.ldxD d a b) := of_word rfl fun h => reads_dAB rfl (by decide) (by decide) (wf3 h).1 (wf3 h).2.1 (wf3 h).2.2
theorem ldxQ {d : Nat} {a : Src} {b : Src} : Statement (.ldxQ d a b) := of_word rfl fun h => reads_dAB rfl (by decide) (by decide) (wf3 h).1 (wf3 h).2.1 (wf3 h).2.2
theorem stxW {d : Nat} {a : Src} {b : Src} : Statement (.stxW d a b) := of_word rfl fun h => reads_dAB rfl (by decide) (by decide) (wf3 h).1 (wf3 h).2.1 (wf3 h).2.2
theorem stxD {d : Nat} {a : Src} {b : Src} : Statement (.stxD d a b) := of_word rfl fun h => reads_dAB rfl (by decide) (by decide) (wf3 h).1 (wf3 h).2.1 (wf3 h).2.2
theorem stxQ {d : Nat} {a : Src} {b : Src} : Statement (.stxQ d a b) := of_word rfl fun h => reads_dAB rfl (by decide) (by decide) (wf3 h).1 (wf3 h).2.1 (wf3 h).2.2
theorem amoAdd {nw : Bool} {d : Nat} {a : Src} {b : Src} : Statement (.amoAdd nw d a b) := of_word rfl fun h => reads_nDAB rfl (by decide) (by decide) (wf3 h).1 (wf3 h).2.1 (wf3 h).2.2
theorem amoMin {nw : Bool} {d : Nat} {a : Src} {b : Src} : Statement (.amoMin nw d a b) := of_word rfl fun h => reads_nDAB rfl (by decide) (by decide) (wf3 h).1 (wf3 h).2.1 (wf3 h).2.2
theorem amoMax {nw : Bool} {d : Nat} {a : Src} {b : Src} : Statement (.amoMax nw d a b) := of_word rfl fun h => reads_nDAB rfl (by decide) (by decide) (wf3 h).1 (wf3 h).2.1 (wf3 h).2.2
theorem amoAnd {nw : Bool} {d : Nat} {a : Src} {b : Src} : Statement (.amoAnd nw d a b) := of_word rfl fun h => reads_nDAB rfl (by decide) (by decide) (wf3 h).1 (wf3 h).2.1 (wf3 h).2.2
theorem amoOr {nw : Bool} {d : Nat} {a : Src} {b : Src} : Statement (.amoOr nw d a b) := of_word rfl fun h => reads_nDAB rfl (by decide) (by decide) (wf3 h).1 (wf3 h).2.1 (wf3 h).2.2
theorem amoXor {nw : Bool} {d : Nat} {a : Src} {b : Src} : Statement (.amoXor nw d a b) := of_word rfl fun h => reads_nDAB rfl (by decide) (by decide) (wf3 h).1 (wf3 h).2.1 (wf3 h).2.2
theorem amoXchg {nw : Bool} {d : Nat} {a : Src} {b : Src} : Statement (.amoXchg nw d a b) := of_word rfl fun h => reads_nDAB rfl (by decide) (by decide) (wf3 h).1 (wf3 h).2.1 (wf3 h).2.2
theorem amoCas {nw : Bool} {d : Nat} {a : Src} {b : Src} : Statement (.amoCas nw d a b) := of_word rfl fun h => reads_nDAB rfl (by decide) (by decide) (wf3 h).1 (wf3 h).2.1 (wf3 h).2.2
theorem amoFadd {nw : Bool} {d : Nat} {a : Src} {b : Src} : Statement (.amoFadd nw d a b) := of_word rfl fun h => reads_nDAB rfl (by decide) (by decide) (wf3 h).1 (wf3 h).2.1 (wf3 h).2.2
theorem amoBfadd2 {nw : Bool} {d : Nat} {a : Src} {b : Src} : Statement (.amoBfadd2 nw d a b) := of_word rfl fun h => reads_nDAB rfl (by decide) (by decide) (wf3 h).1 (wf3 h).2.1 (wf3 h).2.2
theorem amoMinu {nw : Bool} {d : Nat} {a : Src} {b : Src} : Statement (.amoMinu nw d a b) := of_word rfl fun h => reads_nDAB rfl (by decide) (by decide) (wf3 h).1 (wf3 h).2.1 (wf3 h).2.2
theorem amoMaxu {nw : Bool} {d : Nat} {a : Src} {b : Src} : Statement (.amoMaxu nw d a b) := of_word rfl fun h => reads_nDAB rfl (by decide) (by decide) (wf3 h).1 (wf3 h).2.1 (wf3 h).2.2
theorem amoxAdd {nw : Bool} {d : Nat} {a : Src} {b : Src} : Statement (.amoxAdd nw d a b) := of_word rfl fun h => reads_nDAB rfl (by decide) (by decide) (wf3 h).1 (wf3 h).2.1 (wf3 h).2.2
theorem amoxCas {nw : Bool} {d : Nat} {a : Src} {b : Src} : Statement (.amoxCas nw d a b) := of_word rfl fun h => reads_nDAB rfl (by decide) (by decide) (wf3 h).1 (wf3 h).2.1 (wf3 h).2.2
theorem amoxXchg {nw : Bool} {d : Nat} {a : Src} {b : Src} : Statement (.amoxXchg nw d a b) := of_word rfl fun h => reads_nDAB rfl (by decide) (by decide) (wf3 h).1 (wf3 h).2.1 (wf3 h).2.2
theorem amoxFadd {nw : Bool} {d : Nat} {a : Src} {b : Src} : Statement (.amoxFadd nw d a b) := of_word rfl fun h => reads_nDAB rfl (by decide) (by decide) (wf3 h).1 (wf3 h).2.1 (wf3 h).2.2
theorem fence : Statement (.fence) := of_word rfl fun _ => reads_bare rfl (by decide) (by decide)
theorem fencex {a : Src} {b : Src} : Statement (.fencex a b) := of_word rfl fun h => reads_aB rfl (by decide) (by decide) (wfAB h).1 (wfAB h).2
theorem bar : Statement (.bar) := of_word rfl fun _ => reads_bare rfl (by decide) (by decide)
theorem gbar {a : Src} : Statement (.gbar a) := of_word rfl fun h => reads_aOnly rfl (by decide) (by decide) h
theorem qpush {d : Nat} {a : Src} : Statement (.qpush d a) := of_word rfl fun h => reads_dA rfl (by decide) (by decide) (wf2 h).1 (wf2 h).2
theorem qpop {d : Nat} {a : Src} : Statement (.qpop d a) := of_word rfl fun h => reads_dA rfl (by decide) (by decide) (wf2 h).1 (wf2 h).2
theorem qtrypop {d : Nat} {a : Src} {b : Src} : Statement (.qtrypop d a b) := of_word rfl fun h => reads_dAB rfl (by decide) (by decide) (wf3 h).1 (wf3 h).2.1 (wf3 h).2.2
theorem qlen {d : Nat} {a : Src} : Statement (.qlen d a) := of_word rfl fun h => reads_dA rfl (by decide) (by decide) (wf2 h).1 (wf2 h).2
theorem xqCp {nw : Bool} {d : Nat} {a : Src} : Statement (.xqCp nw d a) := of_word rfl fun h => reads_nDA rfl (by decide) (by decide) (wf2 h).1 (wf2 h).2
theorem xqGx {nw : Bool} {d : Nat} {a : Src} : Statement (.xqGx nw d a) := of_word rfl fun h => reads_nDA rfl (by decide) (by decide) (wf2 h).1 (wf2 h).2
theorem xqNe {nw : Bool} {d : Nat} {a : Src} : Statement (.xqNe nw d a) := of_word rfl fun h => reads_nDA rfl (by decide) (by decide) (wf2 h).1 (wf2 h).2
theorem xqCl {nw : Bool} {d : Nat} {a : Src} : Statement (.xqCl nw d a) := of_word rfl fun h => reads_nDA rfl (by decide) (by decide) (wf2 h).1 (wf2 h).2
theorem waith {a : Src} {b : Src} : Statement (.waith a b) := of_word rfl fun h => reads_aB rfl (by decide) (by decide) (wfAB h).1 (wfAB h).2
theorem hset {a : Src} {b : Src} : Statement (.hset a b) := of_word rfl fun h => reads_aB rfl (by decide) (by decide) (wfAB h).1 (wfAB h).2
theorem hqry {nw : Bool} {d : Nat} {a : Src} {b : Src} : Statement (.hqry nw d a b) := of_word rfl fun h => reads_nDAB rfl (by decide) (by decide) (wf3 h).1 (wf3 h).2.1 (wf3 h).2.2
theorem hbind {nw : Bool} {d : Nat} {a : Src} {b : Src} : Statement (.hbind nw d a b) := of_word rfl fun h => reads_nDAB rfl (by decide) (by decide) (wf3 h).1 (wf3 h).2.1 (wf3 h).2.2
theorem tlrSet {a : Src} {b : Src} : Statement (.tlrSet a b) := of_word rfl fun h => reads_aB rfl (by decide) (by decide) (wfAB h).1 (wfAB h).2
theorem tlrInv {a : Src} : Statement (.tlrInv a) := of_word rfl fun h => reads_aOnly rfl (by decide) (by decide) h
theorem tlrRd {nw : Bool} {d : Nat} {a : Src} {b : Src} : Statement (.tlrRd nw d a b) := of_word rfl fun h => reads_nDAB rfl (by decide) (by decide) (wf3 h).1 (wf3 h).2.1 (wf3 h).2.2
theorem mma {d : Nat} {a : Src} {b : Src} : Statement (.mma d a b) := of_word rfl fun h => reads_dAB rfl (by decide) (by decide) (wf3 h).1 (wf3 h).2.1 (wf3 h).2.2
theorem mmas {a : Src} {b : Src} : Statement (.mmas a b) := of_word rfl fun h => reads_aB rfl (by decide) (by decide) (wfAB h).1 (wfAB h).2
theorem podid {nw : Bool} {d : Nat} : Statement (.podid nw d) := of_word rfl fun h => reads_nD rfl (by decide) (by decide) (of_decide_eq_true h)
theorem podmap {nw : Bool} {d : Nat} {a : Src} : Statement (.podmap nw d a) := of_word rfl fun h => reads_nDA rfl (by decide) (by decide) (wf2 h).1 (wf2 h).2
theorem trap {a : Src} : Statement (.trap a) := of_word rfl fun h => reads_aOnly rfl (by decide) (by decide) h
theorem svc {d : Nat} {a : Src} {b : Src} : Statement (.svc d a b) := of_word rfl fun h => reads_dAB rfl (by decide) (by decide) (wf3 h).1 (wf3 h).2.1 (wf3 h).2.2
theorem brk : Statement (.brk) := of_word rfl fun _ => reads_bare rfl (by decide) (by decide)
theorem assert {a : Src} {b : Src} : Statement (.assert a b) := of_word rfl fun h => reads_aB rfl (by decide) (by decide) (wfAB h).1 (wfAB h).2
theorem frd {d : Nat} {a : Src} {b : Src} : Statement (.frd d a b) := of_word rfl fun h => reads_dAB rfl (by decide) (by decide) (wf3 h).1 (wf3 h).2.1 (wf3 h).2.2
theorem fwr {d : Nat} {a : Src} {b : Src} : Statement (.fwr d a b) := of_word rfl fun h => reads_dAB rfl (by decide) (by decide) (wf3 h).1 (wf3 h).2.1 (wf3 h).2.2
theorem fres {nw : Bool} {d : Nat} {a : Src} {b : Src} : Statement (.fres nw d a b) := of_word rfl fun h => reads_nDAB rfl (by decide) (by decide) (wf3 h).1 (wf3 h).2.1 (wf3 h).2.2
theorem fkill {nw : Bool} {d : Nat} {a : Src} {b : Src} : Statement (.fkill nw d a b) := of_word rfl fun h => reads_nDAB rfl (by decide) (by decide) (wf3 h).1 (wf3 h).2.1 (wf3 h).2.2
theorem uliSend {a : Src} {b : Src} : Statement (.uliSend a b) := of_word rfl fun h => reads_aB rfl (by decide) (by decide) (wfAB h).1 (wfAB h).2
theorem uliWait {d : Nat} {a : Src} {b : Src} : Statement (.uliWait d a b) := of_word rfl fun h => reads_dAB rfl (by decide) (by decide) (wf3 h).1 (wf3 h).2.1 (wf3 h).2.2
theorem uliMask {nw : Bool} {d : Nat} {a : Src} {b : Src} : Statement (.uliMask nw d a b) := of_word rfl fun h => reads_nDAB rfl (by decide) (by decide) (wf3 h).1 (wf3 h).2.1 (wf3 h).2.2
theorem uliBind {nw : Bool} {d : Nat} {a : Src} : Statement (.uliBind nw d a) := of_word rfl fun h => reads_nDA rfl (by decide) (by decide) (wf2 h).1 (wf2 h).2
theorem launch {nw : Bool} {d : Nat} {a : Src} {b : Src} : Statement (.launch nw d a b) := of_word rfl fun h => reads_nDAB rfl (by decide) (by decide) (wf3 h).1 (wf3 h).2.1 (wf3 h).2.2
theorem spawn {nw : Bool} {d : Nat} {a : Src} : Statement (.spawn nw d a) := of_word rfl fun h => reads_nDA rfl (by decide) (by decide) (wf2 h).1 (wf2 h).2
theorem rdsr {nw : Bool} {d : Nat} {a : Src} : Statement (.rdsr nw d a) := of_word rfl fun h => reads_nDA rfl (by decide) (by decide) (wf2 h).1 (wf2 h).2
theorem wrsr {a : Src} {b : Src} : Statement (.wrsr a b) := of_word rfl fun h => reads_aB rfl (by decide) (by decide) (wfAB h).1 (wfAB h).2
theorem invl {a : Src} {b : Src} : Statement (.invl a b) := of_word rfl fun h => reads_aB rfl (by decide) (by decide) (wfAB h).1 (wfAB h).2
theorem invla {a : Src} : Statement (.invla a) := of_word rfl fun h => reads_aOnly rfl (by decide) (by decide) h
theorem pgqry {d : Nat} {a : Src} : Statement (.pgqry d a) := of_word rfl fun h => reads_dA rfl (by decide) (by decide) (wf2 h).1 (wf2 h).2
theorem hxImm {payload : Nat} : Statement (.hxImm payload) := of_word rfl fun h => reads_hint (by decide) (of_decide_eq_true h) rfl
theorem hxExt {payload : Nat} : Statement (.hxExt payload) := of_word rfl fun h => reads_hint (by decide) (of_decide_eq_true h) rfl
theorem hxRegion {payload : Nat} : Statement (.hxRegion payload) := of_word rfl fun h => reads_hint (by decide) (of_decide_eq_true h) rfl
theorem hxSched {pri : Nat} {reuse : Nat} : Statement (.hxSched pri reuse) := of_word rfl fun h => reads_sched (wfS h)
theorem reservedEncoding {x0} : Statement (.reservedEncoding x0) := of_none rfl
theorem ageingForce {x0} {x1} : Statement (.ageingForce x0 x1) := of_none rfl
theorem blockedWake {x0} {x1} : Statement (.blockedWake x0 x1) := of_none rfl
theorem fullEmptyWaitSatisfied {x0} {x1} : Statement (.fullEmptyWaitSatisfied x0 x1) := of_none rfl
theorem queueReexamine {x0} {x1} : Statement (.queueReexamine x0 x1) := of_none rfl
theorem uliWaitTimeout {x0} : Statement (.uliWaitTimeout x0) := of_none rfl
theorem segmentFetchLanded {x0} {x1} {x2} : Statement (.segmentFetchLanded x0 x1 x2) := of_none rfl
theorem segmentFetchFaulted {x0} {x1} {x2} : Statement (.segmentFetchFaulted x0 x1 x2) := of_none rfl
theorem pathSegmentRequest {x0} : Statement (.pathSegmentRequest x0) := of_none rfl
theorem segmentRequestRetry {x0} {x1} {x2} : Statement (.segmentRequestRetry x0 x1 x2) := of_none rfl
theorem registerLineFill {x0} {x1} : Statement (.registerLineFill x0 x1) := of_none rfl
theorem registerUncorrectable {x0} {x1} {x2} {x3} : Statement (.registerUncorrectable x0 x1 x2 x3) := of_none rfl
theorem eccCorrection {x0} : Statement (.eccCorrection x0) := of_none rfl
theorem memoryUncorrectable {x0} {x1} : Statement (.memoryUncorrectable x0 x1) := of_none rfl
theorem heldRecordQueue {x0} : Statement (.heldRecordQueue x0) := of_none rfl
theorem handlerSpawn {x0} {x1} {x2} : Statement (.handlerSpawn x0 x1 x2) := of_none rfl
theorem recordDeliverOwner {x0} {x1} : Statement (.recordDeliverOwner x0 x1) := of_none rfl
theorem handlerSlotFree {x0} {x1} : Statement (.handlerSlotFree x0 x1) := of_none rfl
theorem pubStore {x0} : Statement (.pubStore x0) := of_none rfl
theorem ringAccept {x0} : Statement (.ringAccept x0) := of_none rfl
theorem copy {x0} {x1} : Statement (.copy x0 x1) := of_none rfl
theorem copy2d {x0} {x1} : Statement (.copy2d x0 x1) := of_none rfl
theorem fillmc {x0} {x1} : Statement (.fillmc x0 x1) := of_none rfl
theorem copymma {x0} {x1} : Statement (.copymma x0 x1) := of_none rfl
theorem fill {x0} {x1} : Statement (.fill x0 x1) := of_none rfl
theorem copymmaFollowOn {x0} {x1} : Statement (.copymmaFollowOn x0 x1) := of_none rfl
theorem gather {x0} {x1} : Statement (.gather x0 x1) := of_none rfl
theorem scatter {x0} {x1} : Statement (.scatter x0 x1) := of_none rfl
theorem scatteradd {x0} {x1} : Statement (.scatteradd x0 x1) := of_none rfl
theorem send {x0} {x1} : Statement (.send x0 x1) := of_none rfl
theorem rmaw {x0} {x1} : Statement (.rmaw x0 x1) := of_none rfl
theorem contrib {x0} {x1} : Statement (.contrib x0 x1) := of_none rfl
theorem readsum {x0} {x1} : Statement (.readsum x0 x1) := of_none rfl
theorem readround {x0} {x1} : Statement (.readround x0 x1) := of_none rfl
theorem relay {x0} {x1} : Statement (.relay x0 x1) := of_none rfl
theorem subtransferComplete {x0} {x1} {x2} : Statement (.subtransferComplete x0 x1 x2) := of_none rfl
theorem handleDestComplete {x0} {x1} : Statement (.handleDestComplete x0 x1) := of_none rfl
theorem handleSourceRelease {x0} {x1} : Statement (.handleSourceRelease x0 x1) := of_none rfl
theorem tileRecordEvict {x0} {x1} : Statement (.tileRecordEvict x0 x1) := of_none rfl
theorem arrayOperationStart {x0} {x1} : Statement (.arrayOperationStart x0 x1) := of_none rfl
theorem arrayResultWrite {x0} {x1} : Statement (.arrayResultWrite x0 x1) := of_none rfl
theorem launchStart {x0} {x1} : Statement (.launchStart x0 x1) := of_none rfl
theorem launchRetire {x0} {x1} : Statement (.launchRetire x0 x1) := of_none rfl
theorem balancerDecision {x0} {x1} : Statement (.balancerDecision x0 x1) := of_none rfl
theorem balancerPeriodic {x0} {x1} : Statement (.balancerPeriodic x0 x1) := of_none rfl
theorem watchedQueueReexamine {x0} {x1} {x2} {x3} : Statement (.watchedQueueReexamine x0 x1 x2 x3) := of_none rfl
theorem cacheBlockHandover {x0} : Statement (.cacheBlockHandover x0) := of_none rfl
theorem taskStart {x0} : Statement (.taskStart x0) := of_none rfl
theorem taskRetire {x0} : Statement (.taskRetire x0) := of_none rfl
theorem taskAbort {x0} {x1} : Statement (.taskAbort x0 x1) := of_none rfl
theorem slotPreemption {x0} : Statement (.slotPreemption x0) := of_none rfl
theorem preempt {x0} {x1} : Statement (.preempt x0 x1) := of_none rfl
theorem preemptResume {x0} {x1} : Statement (.preemptResume x0 x1) := of_none rfl
theorem contextSwitchOut {x0} {x1} : Statement (.contextSwitchOut x0 x1) := of_none rfl
theorem switchedResume {x0} {x1} : Statement (.switchedResume x0 x1) := of_none rfl
theorem contextWake {x0} {x1} : Statement (.contextWake x0 x1) := of_none rfl
theorem contextRunControl {x0} {x1} : Statement (.contextRunControl x0 x1) := of_none rfl
theorem crewKill {x0} : Statement (.crewKill x0) := of_none rfl
theorem contextReset {x0} : Statement (.contextReset x0) := of_none rfl
theorem tenancyResetDrain {x0} : Statement (.tenancyResetDrain x0) := of_none rfl
theorem tenancyResetCancel {x0} : Statement (.tenancyResetCancel x0) := of_none rfl
theorem packageReset : Statement (.packageReset) := of_none rfl
theorem boot {x0} : Statement (.boot x0) := of_none rfl
theorem uliSendArrival {x0} : Statement (.uliSendArrival x0) := of_none rfl
theorem refusalNotice {x0} : Statement (.refusalNotice x0) := of_none rfl
theorem replicationComplete {x0} {x1} : Statement (.replicationComplete x0 x1) := of_none rfl
theorem collapseComplete {x0} {x1} : Statement (.collapseComplete x0 x1) := of_none rfl
theorem pagePin {x0} {x1} {x2} {x3} : Statement (.pagePin x0 x1 x2 x3) := of_none rfl
theorem pinExpire {x0} {x1} : Statement (.pinExpire x0 x1) := of_none rfl
theorem linkFail {x0} {x1} : Statement (.linkFail x0 x1) := of_none rfl
theorem linkRestore {x0} {x1} : Statement (.linkRestore x0 x1) := of_none rfl
theorem fibrePairFail {x0} {x1} : Statement (.fibrePairFail x0 x1) := of_none rfl
theorem spareRetrained {x0} {x1} : Statement (.spareRetrained x0 x1) := of_none rfl
theorem retrain {x0} {x1} : Statement (.retrain x0 x1) := of_none rfl
theorem portTrained {x0} {x1} : Statement (.portTrained x0 x1) := of_none rfl
theorem portTrainingTimeout {x0} : Statement (.portTrainingTimeout x0) := of_none rfl
theorem portLost {x0} {x1} : Statement (.portLost x0 x1) := of_none rfl
theorem moduleResponse {x0} {x1} : Statement (.moduleResponse x0 x1) := of_none rfl
theorem moduleWaitRetry {x0} : Statement (.moduleWaitRetry x0) := of_none rfl
theorem moduleNotice {x0} {x1} : Statement (.moduleNotice x0 x1) := of_none rfl
theorem incastNotice {x0} : Statement (.incastNotice x0) := of_none rfl
theorem incastRecovery {x0} : Statement (.incastRecovery x0) := of_none rfl
theorem headDownNotice {x0} : Statement (.headDownNotice x0) := of_none rfl
theorem lossNotice {x0} {x1} : Statement (.lossNotice x0 x1) := of_none rfl
theorem restoreNotice {x0} {x1} : Statement (.restoreNotice x0 x1) := of_none rfl
theorem pairMessageArrival {x0} {x1} {x2} : Statement (.pairMessageArrival x0 x1 x2) := of_none rfl
theorem pairAckArrival {x0} {x1} : Statement (.pairAckArrival x0 x1) := of_none rfl
theorem pairResendTimeout {x0} : Statement (.pairResendTimeout x0) := of_none rfl
theorem relayRequest {x0} : Statement (.relayRequest x0) := of_none rfl
theorem hostSendPageStore {x0} {x1} {x2} {x3} {x4} : Statement (.hostSendPageStore x0 x1 x2 x3 x4) := of_none rfl
theorem hostCxlAccess {x0} {x1} {x2} : Statement (.hostCxlAccess x0 x1 x2) := of_none rfl
theorem controlMessage {x0} {x1} {x2} {x3} : Statement (.controlMessage x0 x1 x2 x3) := of_none rfl
theorem fenceTimeout {x0} : Statement (.fenceTimeout x0) := of_none rfl
theorem netPacketTransmit {x0} {x1} {x2} : Statement (.netPacketTransmit x0 x1 x2) := of_none rfl
theorem netPacketReceive {x0} : Statement (.netPacketReceive x0) := of_none rfl
theorem netAckReceive {x0} {x1} {x2} : Statement (.netAckReceive x0 x1 x2) := of_none rfl
theorem netRtoExpire {x0} {x1} {x2} : Statement (.netRtoExpire x0 x1 x2) := of_none rfl
theorem worldAssignGo {x0} {x1} {x2} {x3} : Statement (.worldAssignGo x0 x1 x2 x3) := of_none rfl
theorem keyGenerate {x0} {x1} : Statement (.keyGenerate x0 x1) := of_none rfl
theorem scrubComplete {x0} {x1} : Statement (.scrubComplete x0 x1) := of_none rfl
theorem entropyTestFail {x0} : Statement (.entropyTestFail x0) := of_none rfl
theorem entropyHealthReset {x0} : Statement (.entropyHealthReset x0) := of_none rfl
theorem entropyRecovered {x0} : Statement (.entropyRecovered x0) := of_none rfl
theorem frameOwnerWrite {x0} {x1} {x2} : Statement (.frameOwnerWrite x0 x1 x2) := of_none rfl
theorem ownershipRequest {x0} : Statement (.ownershipRequest x0) := of_none rfl
theorem ownershipGrantDecision {x0} : Statement (.ownershipGrantDecision x0) := of_none rfl
theorem ownershipRelease {x0} : Statement (.ownershipRelease x0) := of_none rfl
theorem ownerLinkLoss : Statement (.ownerLinkLoss) := of_none rfl
theorem bmcSilenceTimeout : Statement (.bmcSilenceTimeout) := of_none rfl
theorem claimWrite {x0} {x1} {x2} {x3} {x4} {x5} {x6} : Statement (.claimWrite x0 x1 x2 x3 x4 x5 x6) := of_none rfl
theorem handlerTableWrite {x0} {x1} {x2} {x3} : Statement (.handlerTableWrite x0 x1 x2 x3) := of_none rfl
theorem vaultSettingsWrite {x0} {x1} {x2} : Statement (.vaultSettingsWrite x0 x1 x2) := of_none rfl
theorem extendMr {x0} {x1} {x2} : Statement (.extendMr x0 x1 x2) := of_none rfl
theorem capportFrd {x0} {x1} {x2} : Statement (.capportFrd x0 x1 x2) := of_none rfl
theorem capportFwr {x0} {x1} {x2} {x3} : Statement (.capportFwr x0 x1 x2 x3) := of_none rfl
theorem capportFres {x0} {x1} {x2} {x3} : Statement (.capportFres x0 x1 x2 x3) := of_none rfl
theorem capportFkill {x0} {x1} {x2} : Statement (.capportFkill x0 x1 x2) := of_none rfl
theorem controlSpaceWrite {x0} {x1} : Statement (.controlSpaceWrite x0 x1) := of_none rfl
theorem getVersion : Statement (.getVersion) := of_none rfl
theorem getCapabilities : Statement (.getCapabilities) := of_none rfl
theorem negotiateAlgorithms {x0} {x1} : Statement (.negotiateAlgorithms x0 x1) := of_none rfl
theorem getDigests : Statement (.getDigests) := of_none rfl
theorem getCertificate {x0} {x1} : Statement (.getCertificate x0 x1) := of_none rfl
theorem challenge {x0} : Statement (.challenge x0) := of_none rfl
theorem getMeasurements {x0} : Statement (.getMeasurements x0) := of_none rfl
theorem keyExchange {x0} : Statement (.keyExchange x0) := of_none rfl
theorem spdmFinish {x0} : Statement (.spdmFinish x0) := of_none rfl
theorem thermalThrottle {x0} : Statement (.thermalThrottle x0) := of_none rfl
theorem thermalTrip {x0} : Statement (.thermalTrip x0) := of_none rfl
theorem powerGate {x0} : Statement (.powerGate x0) := of_none rfl
theorem accessPerformed {x0} {x1} : Statement (.accessPerformed x0 x1) := of_none rfl
theorem frameZeroed {x0} : Statement (.frameZeroed x0) := of_none rfl
theorem remoteFormReturn {x0} {x1} : Statement (.remoteFormReturn x0 x1) := of_none rfl
theorem powerController {x0} : Statement (.powerController x0) := of_none rfl

end Sys2Proof.Laws.Encoding
end

