-- ==== Sys2Proof/Tests/Slice0.lean ====
section
/-! SUPPORT. Tests of the decoder on words written out from the opcode map (R39 to R42, R58), of the checks of WellFormed, and of single steps against hand calculation from the manual. -/

namespace Sys2Proof.Tests

open Sys2Proof.Machine

/-! ## Decoding: one word of each major, its fields placed by hand: NW bit 25, D [24:18], A [17:10], B [9:2]. -/

theorem test_decode_majors_00_to_05 :
    decode 0x00000000 = .ok (.nop) ∧
    decode 0x06140A0C = .ok (.add true 5 (.v 2) (.k 3)) ∧
    decode 0x0A1409FC = .ok (.addi true 5 (.v 2) 127) ∧
    decode 0x0E140A0C = .ok (.minu true 5 (.v 2) (.k 3)) ∧
    decode 0x12140A0C = .ok (.mul true 5 (.v 2) (.k 3)) ∧
    decode 0x16140A0C = .ok (.and true 5 (.v 2) (.k 3)) := by
  decide

theorem test_decode_majors_06_to_0b :
    decode 0x1A1409FC = .ok (.andi true 5 (.v 2) 127) ∧
    decode 0x1E140A0C = .ok (.shl true 5 (.v 2) (.k 3)) ∧
    decode 0x221409FC = .ok (.shli true 5 (.v 2) 127) ∧
    decode 0x26140800 = .ok (.clz true 5 (.v 2)) ∧
    decode 0x2A140A0C = .ok (.bfe true 5 (.v 2) (.k 3)) ∧
    decode 0x2E140A0C = .ok (.seq true 5 (.v 2) (.k 3)) := by
  decide

theorem test_decode_majors_0c_to_12 :
    decode 0x32140A0C = .ok (.sltu true 5 (.v 2) (.k 3)) ∧
    decode 0x36140A0C = .ok (.add64 true 5 (.v 2) (.k 3)) ∧
    decode 0x3A140800 = .ok (.sext8 true 5 (.v 2)) ∧
    decode 0x42140A0C = .ok (.fadd true 5 (.v 2) (.k 3)) ∧
    decode 0x46140A0C = .ok (.fmin true 5 (.v 2) (.k 3)) ∧
    decode 0x4A140A0C = .ok (.fseq true 5 (.v 2) (.k 3)) := by
  decide

theorem test_decode_majors_13_to_18 :
    decode 0x4E140800 = .ok (.rcp true 5 (.v 2)) ∧
    decode 0x52140800 = .ok (.lg2 true 5 (.v 2)) ∧
    decode 0x56140A0C = .ok (.badd2 true 5 (.v 2) (.k 3)) ∧
    decode 0x5A140A0C = .ok (.hadd2 true 5 (.v 2) (.k 3)) ∧
    decode 0x5E140800 = .ok (.f2i true 5 (.v 2)) ∧
    decode 0x62140A0C = .ok (.f2bf2 true 5 (.v 2) (.k 3)) := by
  decide

theorem test_decode_majors_19_to_1e :
    decode 0x66140800 = .ok (.qf8 true 5 (.v 2)) ∧
    decode 0x6A140A0C = .ok (.uadd true 5 (.v 2) (.k 3)) ∧
    decode 0x6E140A0C = .ok (.uand true 5 (.v 2) (.k 3)) ∧
    decode 0x72140A0C = .ok (.ushl true 5 (.v 2) (.k 3)) ∧
    decode 0x76140A0C = .ok (.rdlane true 5 (.v 2) (.k 3)) ∧
    decode 0x7A140A0C = .ok (.shflIdx true 5 (.v 2) (.k 3)) := by
  decide

theorem test_decode_majors_1f_to_24 :
    decode 0x7E140800 = .ok (.voteAll true 5 (.v 2)) ∧
    decode 0x82140800 = .ok (.radd true 5 (.v 2)) ∧
    decode 0x840BFFFD = .ok (.brz (.v 2) (-3)) ∧
    decode 0x880BFFFD = .ok (.brnz (.v 2) (-3)) ∧
    decode 0x8C0BFFFD = .ok (.call (.v 2) (-3)) ∧
    decode 0x90000800 = .ok (.jmpi (.v 2)) := by
  decide

theorem test_decode_majors_25_to_2a :
    decode 0x94000800 = .ok (.jf (.v 2)) ∧
    decode 0x98140A0C = .ok (.ldB 5 (.v 2) (.k 3)) ∧
    decode 0x9C140A0C = .ok (.ldBu 5 (.v 2) (.k 3)) ∧
    decode 0xA0140A0C = .ok (.stB 5 (.v 2) (.k 3)) ∧
    decode 0xA4140A0C = .ok (.stQ 5 (.v 2) (.k 3)) ∧
    decode 0xA8140A0C = .ok (.stxW 5 (.v 2) (.k 3)) := by
  decide

theorem test_decode_majors_2b_to_30 :
    decode 0xAE140A0C = .ok (.amoAdd true 5 (.v 2) (.k 3)) ∧
    decode 0xB2140A0C = .ok (.amoOr true 5 (.v 2) (.k 3)) ∧
    decode 0xB6140A0C = .ok (.amoFadd true 5 (.v 2) (.k 3)) ∧
    decode 0xBA140A0C = .ok (.amoxAdd true 5 (.v 2) (.k 3)) ∧
    decode 0xBC000000 = .ok (.fence) ∧
    decode 0xC0140800 = .ok (.qpush 5 (.v 2)) := by
  decide

theorem test_decode_majors_31_to_36 :
    decode 0xC6140800 = .ok (.xqCp true 5 (.v 2)) ∧
    decode 0xC8000A0C = .ok (.waith (.v 2) (.k 3)) ∧
    decode 0xCC000A0C = .ok (.tlrSet (.v 2) (.k 3)) ∧
    decode 0xD0140A0C = .ok (.mma 5 (.v 2) (.k 3)) ∧
    decode 0xD6140000 = .ok (.podid true 5) ∧
    decode 0xD8000800 = .ok (.trap (.v 2)) := by
  decide

theorem test_decode_majors_37_to_3f :
    decode 0xDC140A0C = .ok (.frd 5 (.v 2) (.k 3)) ∧
    decode 0xE0000A0C = .ok (.uliSend (.v 2) (.k 3)) ∧
    decode 0xE6140A0C = .ok (.launch true 5 (.v 2) (.k 3)) ∧
    decode 0xE8000A0C = .ok (.invl (.v 2) (.k 3)) ∧
    decode 0xFC123456 = .ok (.hxImm 1193046) ∧
    decode 0xFD123456 = .ok (.hxExt 1193046) := by
  decide

theorem test_decode_majors_3f_to_3f :
    decode 0xFE123456 = .ok (.hxRegion 1193046) ∧
    decode 0xFF000025 = .ok (.hxSched 2 5) := by
  decide

theorem test_decode_reserved :
    decode 0x3C000000 = .error (.reserved 0x3C000000) ∧ decode 0x03FFFFFF = .error (.unused) := by
  decide

/-- Words of which each field is at its upper end (R39, R42). -/
theorem test_decode_field_ends :
    decode 0x05FF7F7C = .ok (.add false 127 (.k 95) (.k 95)) ∧ decode 0x8405FFFF = .ok (.brz (.v 1) 131071) ∧
    decode 0x84060000 = .ok (.brz (.v 1) (-131072)) ∧ decode 0xFCFFFFFF = .ok (.hxImm 16777215) := by
  decide

/-! ## WellFormed: an ill-formed term for each of its checks -/

theorem test_wf_refuses :
    Src.wf (.v 128) = false ∧ Src.wf (.k 96) = false ∧ Src.wf (.d 0) = false ∧ Src.wf (.d 9) = false ∧ Src.wf (.rsv 0xED) = false ∧
    Src.wf (.rsv 0xFE) = false ∧ Src.wf (.rsv 0x100) = false ∧
    Instr.wf (.add false 128 .zero .zero) = false ∧ Instr.wf (.add false 0 (.v 128) .zero) = false ∧ Instr.wf (.add false 0 .zero (.k 96)) = false ∧
    Instr.wf (.addi false 0 .zero 256) = false ∧ Instr.wf (.brz .zero 131072) = false ∧ Instr.wf (.brz .zero (-131073)) = false ∧
    Instr.wf (.hxImm 16777216) = false ∧ Instr.wf (.hxSched 4 0) = false ∧ Instr.wf (.hxSched 0 16) = false ∧
    Instr.wf (.reservedEncoding 4294967296) = false ∧ Instr.wf (.blockedWake 1 4294967296) = false ∧ Instr.wf (.queueReexamine 1 32) = false := by
  decide

/-! ## Single steps -/

/-- The state in which a lone task is about to run a word. -/
def about (w : Nat) : State := State.reset.withFetchWord 32 w

/-- The gang of the lone task after one step. -/
def after (w : Nat) : Option Gang :=
  match step (about w) with
  | .next t => t.gang? 2
  | _ => none

/-- Register n of a lane after one step. -/
def vAfter (w l n : Nat) : Option Word := (after w).map fun g => g.readV l n

/-- Class and subcode of the record that one step leaves in the context's fault queue. -/
def faultAfter (w : Nat) : Option (Nat × Nat) :=
  match step (about w) with
  | .next t => ((t.ctx 0).queue.head?).map fun r => (r.cls, r.sub)
  | _ => none

set_option maxRecDepth 100000 in
/-- ADDI v5, ONES, 1 (R98): the sum wraps. -/
theorem test_addi_wraps : vAfter 0x0817B404 31 5 = some 0 := by decide
set_option maxRecDepth 100000 in
/-- ADD v5, LANE, LANE (R98). -/
theorem test_add_lane : vAfter 0x0417A7A4 31 5 = some 62 := by decide
set_option maxRecDepth 100000 in
/-- MULHU v5, ONES, ONES (R99): the high word of (2^32 - 1)^2. -/
theorem test_mulhu_ones : vAfter 0x1017B7B6 0 5 = some 0xFFFFFFFE := by decide
set_option maxRecDepth 100000 in
/-- EXIT (R126) ends the lanes. -/
theorem test_exit_ends : (after 0x00000002).map (fun g => (g.th 31).run) = some .exited := by decide
set_option maxRecDepth 100000 in
/-- A reserved major (R56): ILLEGAL_INSN 0x01. -/
theorem test_reserved_major_faults : faultAfter 0x3C000000 = some (0, 1) := by decide
set_option maxRecDepth 100000 in
/-- After a word that completes, the PC is 4 (R125). -/
theorem test_nop_advances : (after 0).map (fun g => (g.th 7).pc) = some 4 := by decide

end Sys2Proof.Tests
end

