-- ==== Sys2Proof/Tests/Witness.lean ====
section
/-! SUPPORT. Witnesses for the hypotheses of the statements about register instructions, flow, hints, faults and the step: for each, a concrete state and operands that meet all of them together. -/

namespace Sys2Proof.Tests

open Sys2Proof.Machine Sys2Proof.Claims

/-! ## The states -/

/-- A lone task whose gang, key 2 of crew 1, executes lane 0. -/
def base : State := { (State.reset.loneTask 0) with cur := some ⟨2, 1⟩ }

/-- A gang of no interest. -/
def noGang : Gang := handlerGang 0 0 0 0 ⟨0, 0, 0, 0, 0, 0, 0, 0, 0, 0, false, false, 0, 0, 0, 0, 0, 0, 0, 0, none, 0⟩ 0

/-- Gang 2 of a state. -/
def g2 (s : State) : Gang := (s.gang? 2).getD noGang

/-- The operation of an instruction with hints. -/
def opI (i : Instr) (h : Hints) : Op := (opOf i h).getD (opNop Hints.none_)

/-- A change of thread 0 of gang 2. -/
def State.with0 (s : State) (f : Thread → Thread) : State := s.mapGang 2 fun g => g.setTh 0 (f (g.th 0))

/-- The lone task with hints bound to the next instruction of lane 0. -/
def hinted (h : Hints) : State := State.with0 base fun t => { t with hints := h }

/-- The lone task with words in the first k registers. -/
def withK (ws : List Word) : State := base.mapGang 2 fun g => { g with k := (List.range ws.length).zip ws }

/-- The lone task at another level. -/
def atLevel (n : Nat) : State := base.mapGang 2 fun g => { g with level := n }

def imm (n : Nat) : Hints := ⟨some n, none, none⟩

/-- What `Issues` says, as far as it can be evaluated. -/
def issuesB (s : State) (m : Nat) (h : Hints) : Bool :=
  decide (s.cur = some ⟨2, m⟩) && (s.gang? 2).isSome && s.gangs.rising && decide ((g2 s).threads.length = 32) && decide (lanesOf m ≠ []) &&
    (lanesOf m).all (fun l => decide (((g2 s).th l).run = .run)) && decide (((g2 s).th ((lanesOf m).headD 0)).hints = h) &&
    (lanesOf m).all fun l => decide (((g2 s).th l).pc.toNat % 0x8000 ≠ 0x7FFC)

/-- What `Ready` says of gang 2, as far as it can be evaluated. -/
def readyB (i : Instr) (s : State) (m : Nat) (h : Hints) : Bool :=
  i.wf && (opOf i h).isSome && issuesB s m h && decide ((opI i h).form.check (g2 s) h = none) &&
    decide ((opI i h).form.operandFaults h.imm ((opI i h).reader (g2 s) m) (lanesOf m) = []) && (!(opI i h).form.mem || s.memReady (g2 s) (lanesOf m).length) &&
    (opI i h).ready s ((opI i h).env s 2 (g2 s) (lanesOf m) h)

theorem gang_of {s : State} (h : (s.gang? 2).isSome = true) : s.gang? 2 = some (g2 s) := by
  unfold g2
  cases hg : s.gang? 2 with
  | none => simp [hg] at h
  | some g => rfl

theorem issues_of {s : State} {m : Nat} {h : Hints} (b : issuesB s m h = true) : Issues s 2 (g2 s) m h := by
  simp only [issuesB, Bool.and_eq_true, decide_eq_true_eq, List.all_eq_true] at b
  obtain ⟨⟨⟨⟨⟨⟨⟨h1, h2⟩, h3⟩, h4⟩, h5⟩, h6⟩, h7⟩, h8⟩ := b
  exact ⟨h1, gang_of h2, h3, h4, h5, h6, h7, h8⟩

theorem ready_of {i : Instr} {s : State} {m : Nat} {h : Hints} (b : readyB i s m h = true) : Ready i (opI i h) s 2 (g2 s) m h := by
  simp only [readyB, Bool.and_eq_true, decide_eq_true_eq] at b
  obtain ⟨⟨⟨⟨⟨⟨h1, h2⟩, h3⟩, h4⟩, h5⟩, hm⟩, h6⟩ := b
  have ho : opOf i h = some (opI i h) := by
    unfold opI
    cases hg : opOf i h with
    | none => simp [hg] at h2
    | some g => rfl
  exact ⟨h1, ho, ⟨issues_of h3, h4, h5, fun hf => by simpa [hf] using hm, h6⟩⟩

theorem pair_of {α β : Type} {x : α × β} {b : β} (h : x.2 = b) : x = (x.1, b) := by
  cases x; cases h; rfl

set_option maxRecDepth 100000

/-! ## Encoding, steps, soundness -/

/-- DecodeEncode. -/
theorem wit_DecodeEncode : ∃ (i : Instr) (w : Word), i.wf = true ∧ encode i = [w] ∧ i.isEvent = false ∧ decode w = .ok i :=
  ⟨.bfi true 127 (.k 95) (.d 8), 0x2BFF7F9E#32, by decide⟩

/-- StepRunsDecoded, for an instruction and for a step of the device. -/
theorem wit_StepRunsDecoded : ∃ (s u : State) (g : Gang) (c : Choice) (x : Seg) (i : Instr), Turning s 2 u ∧ u.gang? 2 = some g ∧
    (g.meet).agedPath (u.ctx (g.meet).ctx).ageMax = none ∧ (g.meet).choose = some c ∧ c.lanes ≠ [] ∧
    u.seg? (g.meet).core (g.meet).ctx (c.pc g.meet / 32768) = some x ∧ x.st = .resident ∧
    decodeBytes (readBytes x.image (c.pc g.meet % 32768) 4) = .ok (i, []) ∧ (g.meet).damagedLanes c.lanes = [] ∧
    State.held { u.setGang 2 ((g.meet).mapLanes c.lanes Thread.passMeeting) with cur := some ⟨2, maskOf c.lanes⟩ } 2 ((g.meet).mapLanes c.lanes Thread.passMeeting) c.lanes i = false := by
  let s := State.reset.withFetchWord 32 0x0417A7A4
  let u : State := { s.tick with agenda := [] }
  refine ⟨s, u, g2 u, ((g2 u).meet.choose).getD ⟨[], []⟩, (u.seg? 0 0 0).getD ⟨0, 0, .faulted, 0, [], 0, false, 0, 0, 0⟩, .add false 5 .lane .lane,
    Or.inl ⟨[], by decide, rfl⟩, ?_⟩
  decide

theorem wit_StepRunsDecoded_event : ∃ (s : State) (i : Instr) (rest : List Turn), s.agenda = .event i :: rest ∧ i.isEvent = true :=
  ⟨{ base with agenda := [.event (.eccCorrection 0)] }, .eccCorrection 0, [], by decide⟩

/-- SoundKept. -/
theorem wit_SoundKept : ∃ s t : State, Sound s ∧ step s = .next t :=
  ⟨State.reset, State.reset.tick, by constructor <;> decide, rfl⟩

/-! ## Register instructions -/

/-- IntegerResults, Extensions. -/
theorem wit_IntegerResults : ∃ (i : Instr) (o : Op) (s : State) (g : Gang) (h : Hints) (d : Nat) (nw : Bool) (ws : Nat → List Word),
    Ready i o s 2 g 1 h ∧ ∀ l ∈ lanesOf 1, intResult h (readsOf o s g 1 h l) i = some (d, nw, ws l) :=
  ⟨.addi false 127 .ones 1, _, base, _, Hints.none_, 127, false, fun _ => [0], ready_of (by decide), by decide⟩

theorem wit_Extensions : ∃ (i : Instr) (o : Op) (s : State) (g : Gang) (h : Hints), i = .zext16 true 0 .ones ∧ Ready i o s 2 g 1 h :=
  ⟨_, _, base, _, Hints.none_, rfl, ready_of (by decide)⟩

/-- FloatResults: a sum, and a quantized group. -/
theorem wit_FloatResults : ∃ (i : Instr) (o : Op) (s : State) (g : Gang) (h : Hints) (d : Nat) (nw : Bool) (r : Nat → FRes),
    Ready i o s 2 g 1 h ∧ (∀ l ∈ lanesOf 1, fpResult h (readsOf o s g 1 h l) i = some (d, nw, r l)) ∧
    (∀ l ∈ lanesOf 1, (r l).flags &&& bitsAt (g.th l).fps.toNat 8 5 = 0) :=
  ⟨.fneg false 5 .zero, _, base, _, Hints.none_, 5, false, fun _ => ⟨0x80000000, 0⟩, ready_of (by decide), by decide, by decide⟩

theorem wit_FloatResults_quant : ∃ (i : Instr) (o : Op) (s : State) (g : Gang) (h : Hints) (d : Nat) (nw : Bool) (r : Nat → FRes),
    Ready i o s 2 g 1 h ∧ (∀ l ∈ lanesOf 1, quantResult (allReads o s g 1 h) l i = some (d, nw, r l)) ∧
    (∀ l ∈ lanesOf 1, (r l).flags &&& bitsAt (g.th l).fps.toNat 8 5 = 0) :=
  ⟨.dq8 false 5 .zero .zero, _, base, _, Hints.none_, 5, false, fun _ => ⟨0, 0⟩, ready_of (by decide), by decide, by decide⟩

/-- LaneResults: a vote, a uniform sum, RDLANE, RFADD. -/
theorem wit_LaneResults_cross : ∃ (i : Instr) (o : Op) (s : State) (g : Gang) (h : Hints) (d : Nat) (nw : Bool) (ws : Nat → List Word),
    Ready i o s 2 g 1 h ∧ ∀ l ∈ lanesOf 1, crossResult h (allReads o s g 1 h) l i = some (d, nw, ws l) :=
  ⟨.voteAny false 5 .ones, _, base, _, Hints.none_, 5, false, fun _ => [1], ready_of (by decide), by decide⟩

theorem wit_LaneResults_uniform : ∃ (i : Instr) (o : Op) (s : State) (g : Gang) (h : Hints) (d : Nat) (nw : Bool) (ws : List Word),
    Ready i o s 2 g 1 h ∧ uniResult (allReads o s g 1 h) (readsOf o s g 1 h ((lanesOf 1).headD 0)) i = some (d, nw, ws) :=
  ⟨.uadd false 95 .ones .ones, _, base, _, Hints.none_, 95, false, [0xFFFFFFFE], ready_of (by decide), by decide⟩

theorem wit_LaneResults_rdlane : ∃ (i : Instr) (o : Op) (s : State) (g : Gang) (h : Hints) (d : Nat) (nw : Bool) (ws : List Word),
    Ready i o s 2 g 1 h ∧ laneResult o s g 1 h ((lanesOf 1).headD 0) i = some (d, nw, ws) :=
  ⟨.rdlane false 5 .lane .ones, _, base, _, Hints.none_, 5, false, [31], ready_of (by decide), by decide⟩

theorem wit_LaneResults_rfadd_fault : ∃ (i : Instr) (o : Op) (s : State) (g : Gang) (h : Hints), i = .rfadd false 5 (.k 0) ∧ Ready i o s 2 g 1 h ∧
    (∃ l ∈ lanesOf 1, (laneTree h (allReads o s g 1 h) (.k 0)).flags &&& bitsAt (g.th l).fps.toNat 8 5 ≠ 0) :=
  ⟨_, _, State.with0 (withK [0x7FA00000]) fun t => { t with fps := 0x1F00 }, _, Hints.none_, rfl, ready_of (by decide), by decide⟩

theorem wit_LaneResults_rfadd : ∃ (i : Instr) (o : Op) (s : State) (g : Gang) (h : Hints), i = .rfadd false 5 .zero ∧ Ready i o s 2 g 1 h ∧
    (∀ l ∈ lanesOf 1, (laneTree h (allReads o s g 1 h) .zero).flags &&& bitsAt (g.th l).fps.toNat 8 5 = 0) :=
  ⟨_, _, base, _, Hints.none_, rfl, ready_of (by decide), by decide⟩

/-- LatchesAndSegmentEnd. -/
theorem wit_Latches : ∃ (i : Instr) (o : Op) (s : State) (g : Gang) (h : Hints) (d : Nat) (nw : Bool) (w : Nat → Word) (ws : Nat → List Word),
    Ready i o s 2 g 1 h ∧ (∀ l ∈ lanesOf 1, intResult h (readsOf o s g 1 h l) i = some (d, nw, w l :: ws l)) ∧
    (∀ l ∈ lanesOf 1, (g.th l).hitsPending o.form.vRegs o.form.kRegs = false) :=
  ⟨.add true 0 .lane .lane, _, base, _, Hints.none_, 0, true, fun _ => 0, fun _ => [], ready_of (by decide), by decide, by decide⟩

theorem wit_Latches_cross : ∃ (i : Instr) (o : Op) (s : State) (g : Gang) (h : Hints) (d : Nat) (nw : Bool) (w : Nat → Word) (ws : Nat → List Word),
    Ready i o s 2 g 1 h ∧ (∀ l ∈ lanesOf 1, crossResult h (allReads o s g 1 h) l i = some (d, nw, w l :: ws l)) ∧
    (∀ l ∈ lanesOf 1, (g.th l).hitsPending o.form.vRegs o.form.kRegs = true) :=
  ⟨.voteAny true 0 (.v 127), _, State.with0 base fun t => { t with lpv := 1 <<< 127 }, _, Hints.none_, 0, true, fun _ => 0, fun _ => [], ready_of (by decide), by decide, by decide⟩

theorem wit_Latches_classes : ∃ (o1 o2 : Op) (s : State) (g : Gang), Ready .nop o1 s 2 g 1 Hints.none_ ∧ Ready .yield o2 s 2 g 1 Hints.none_ :=
  ⟨_, _, base, _, ready_of (by decide), ready_of (by decide)⟩

theorem wit_Latches_clock : ∃ (o : Op) (s : State) (g : Gang), Ready (.rdsr false 127 .immw) o s 2 g 1 (imm 15) :=
  ⟨_, hinted (imm 15), _, ready_of (by decide)⟩

/-- The lone task at the last word of its segment. -/
def atEnd : State := State.with0 base fun t => { t with pc := 0x7FFC }

theorem wit_SegmentEnd : ∃ (i : Instr) (o : Op) (s : State) (g : Gang) (h : Hints) (d : Nat) (nw : Bool) (pc : Word) (ws : Nat → List Word),
    ReadyAtEnd i o s 2 g 1 h pc ∧ (∀ l ∈ lanesOf 1, intResult h (readsOf o s g 1 h l) i = some (d, nw, ws l)) ∧
    s.hasCtx g.ctx = true ∧ waitingRecs (s.ctx g.ctx).queue < Config.faultQueue ∧ (s.ctx g.ctx).heldRecs = [] ∧ lowestFree (s.ctx g.ctx).sets.keys 255 ≠ none :=
  ⟨.add false 5 .lane .lane, opI (.add false 5 .lane .lane) Hints.none_, atEnd, g2 atEnd, Hints.none_, 5, false, 0x7FFC, fun _ => [0],
    by constructor <;> first | rfl | decide,
    by decide, by decide⟩

/-! ## Flow, special registers, hints -/

/-- FlowResults: a branch taken to the last word of the segment, CALL with a v and with a k register. -/
theorem wit_FlowResults : ∃ (i : Instr) (o : Op) (s : State) (g : Gang) (h : Hints) (e : Nat → LaneEnd),
    Ready i o s 2 g 1 h ∧ ∀ l ∈ lanesOf 1, flowEnd s g h (readsOf o s g 1 h l) l i = some (e l) :=
  ⟨.nop, _, base, _, Hints.none_, fun l => LaneEnd.on ((g2 base).th l), ready_of (by decide), fun _ _ => rfl⟩

theorem wit_FlowResults_call : ∃ (n : Nat) (disp : Int) (o : Op) (s : State) (g : Gang) (h : Hints),
    Ready (.call (.v n) disp) o s 2 g 1 h ∧ ∀ l ∈ lanesOf 1, (relative (g.th l) disp).toNat / 32768 = (g.th l).pc.toNat / 32768 :=
  ⟨127, 8190, _, base, _, Hints.none_, ready_of (by decide), by decide⟩

theorem wit_FlowResults_callk : ∃ (n : Nat) (disp : Int) (o : Op) (s : State) (g : Gang) (h : Hints),
    Ready (.call (.k n) disp) o s 2 g 1 h ∧ ∀ l ∈ lanesOf 1, (relative (g.th l) disp).toNat / 32768 = (g.th l).pc.toNat / 32768 :=
  ⟨95, -1, _, base, _, Hints.none_, ready_of (by decide), by decide⟩

/-- SegmentQuery. -/
theorem wit_SegmentQuery : ∃ (d : Nat) (a : Src) (o : Op) (s : State) (g : Gang) (h : Hints), Ready (.cqry false d a) o s 2 g 1 h :=
  ⟨127, .lane, _, base, _, Hints.none_, ready_of (by decide)⟩

/-- SpecialRegisters: a read of the last register, writes of FPSTATUS and of PRIO. -/
theorem wit_SpecialRegisters : ∃ (o : Op) (s : State) (g : Gang) (h : Hints), h.imm = some 0x1C ∧ Ready (.rdsr false 5 .immw) o s 2 g 1 h :=
  ⟨_, hinted (imm 0x1C), _, imm 0x1C, rfl, ready_of (by decide)⟩

theorem wit_SpecialRegisters_fps : ∃ (o : Op) (s : State) (g : Gang) (h : Hints), h.imm = some 0 ∧ Ready (.wrsr .immw .zero) o s 2 g 1 h :=
  ⟨_, hinted (imm 0), _, imm 0, rfl, ready_of (by decide)⟩

theorem wit_SpecialRegisters_wrsr : ∃ (o : Op) (s : State) (g : Gang) (h : Hints) (w : Word), h.imm = some 0x1C ∧ Ready (.wrsr .immw .ones) o s 2 g 1 h ∧
    ∀ l ∈ lanesOf 1, o.opnd s g 1 h .u l .ones = w :=
  ⟨_, (hinted (imm 0x1C)).mapGang 2 fun g => { g with level := 2 }, _, imm 0x1C, 0xFFFFFFFF, rfl, ready_of (by decide), by decide⟩

/-- HintsIssue. -/
theorem wit_HintsIssue : ∃ (s : State) (g : Gang), Issues s 2 g 1 Hints.none_ ∧ Instr.wf (.hxImm 16777215) = true ∧ Instr.wf (.hxExt 0) = true ∧
    Instr.wf (.hxSched 3 15) = true ∧ Instr.wf (.hxRegion 16777215) = true :=
  ⟨base, _, issues_of (by decide), by decide⟩

/-! ## Faults -/

/-- The lone task at the first word of segment 1. -/
def atPc : State := State.with0 base fun t => { t with pc := 0x8000 }

/-- FaultsInPlace: an enabled invalid operation; JMPI to a misaligned and to a foreign target; JF to an absent segment. -/
theorem wit_FaultsInPlace_fp : ∃ (i : Instr) (o : Op) (s : State) (g : Gang) (h : Hints) (d : Nat) (nw : Bool) (r : Nat → FRes) (n : Nat),
    Ready i o s 2 g 1 h ∧ (∀ l ∈ lanesOf 1, fpResult h (readsOf o s g 1 h l) i = some (d, nw, r l)) ∧
    (∀ l ∈ lanesOf 1, (r l).flags = n ∧ n &&& bitsAt (g.th l).fps.toNat 8 5 ≠ 0) :=
  ⟨.fslt false 5 .ones .zero, _, State.with0 base fun t => { t with fps := 0x1F00 }, _, Hints.none_, 5, false, fun _ => ⟨0, flagNV⟩, flagNV, ready_of (by decide), by decide, by decide⟩

theorem wit_FaultsInPlace_align : ∃ (a : Src) (o : Op) (s : State) (g : Gang) (h : Hints) (x : Word), Ready (.jmpi a) o s 2 g 1 h ∧
    (∀ l ∈ lanesOf 1, o.opnd s g 1 h .u l a = x) ∧ x.toNat % 4 ≠ 0 :=
  ⟨.ones, _, base, _, Hints.none_, 0xFFFFFFFF, ready_of (by decide), by decide, by decide⟩

theorem wit_FaultsInPlace_segment : ∃ (a : Src) (o : Op) (s : State) (g : Gang) (h : Hints) (x : Word), Ready (.ret a) o s 2 g 1 h ∧
    (∀ l ∈ lanesOf 1, o.opnd s g 1 h .u l a = x) ∧ x.toNat % 4 = 0 ∧ ∀ l ∈ lanesOf 1, x.toNat / 32768 ≠ (g.th l).pc.toNat / 32768 :=
  ⟨.k 0, _, withK [0x8000], _, Hints.none_, 0x8000, ready_of (by decide), by decide, by decide, by decide⟩

theorem wit_FaultsInPlace_far : ∃ (a : Src) (o : Op) (s : State) (g : Gang) (h : Hints) (x : Word), Ready (.jf a) o s 2 g 1 h ∧
    (∀ l ∈ lanesOf 1, o.opnd s g 1 h .u l a = x) ∧ x.toNat % 4 = 0 ∧ s.seg? g.core g.ctx (x.toNat / 32768) = none :=
  ⟨.k 0, _, withK [0x8000], _, Hints.none_, 0x8000, ready_of (by decide), by decide, by decide, by decide⟩

theorem wit_FaultsInPlace_branch : ∃ (i : Instr) (o : Op) (s : State) (g : Gang) (h : Hints) (a : Src) (x : Word), i = .brz a (-2) ∧ Ready i o s 2 g 1 h ∧
    (∀ l ∈ lanesOf 1, o.opnd s g 1 h .u l a = 0) ∧ ∀ l ∈ lanesOf 1, relative (g.th l) (-2) = x ∧ x.toNat / 32768 ≠ (g.th l).pc.toNat / 32768 :=
  ⟨_, _, atPc, _, Hints.none_, .zero, 0x7FFC, rfl, ready_of (by decide), by decide⟩

theorem wit_FaultsInPlace_branchNot : ∃ (i : Instr) (o : Op) (s : State) (g : Gang) (h : Hints) (a : Src) (x : Word), i = .brnz a (-2) ∧ Ready i o s 2 g 1 h ∧
    (∀ l ∈ lanesOf 1, o.opnd s g 1 h .u l a ≠ 0) ∧ ∀ l ∈ lanesOf 1, relative (g.th l) (-2) = x ∧ x.toNat / 32768 ≠ (g.th l).pc.toNat / 32768 :=
  ⟨_, _, atPc, _, Hints.none_, .ones, 0x7FFC, rfl, ready_of (by decide), by decide⟩

theorem wit_FaultsInPlace_call : ∃ (i : Instr) (o : Op) (s : State) (g : Gang) (h : Hints) (x : Word), i = .call (.v 5) (-2) ∧ Ready i o s 2 g 1 h ∧
    ∀ l ∈ lanesOf 1, relative (g.th l) (-2) = x ∧ x.toNat / 32768 ≠ (g.th l).pc.toNat / 32768 :=
  ⟨_, _, atPc, _, Hints.none_, 0x7FFC, rfl, ready_of (by decide), by decide⟩

theorem wit_FaultsInPlace_meet : ∃ (o1 o2 o3 : Op) (s : State) (g : Gang) (h : Hints) (x : Word), Ready (.meet (.k 0)) o1 s 2 g 1 h ∧ Ready (.jf (.k 0)) o2 s 2 g 1 h ∧
    Ready (.callf true 0 (.k 0)) o3 s 2 g 1 h ∧ (∀ l ∈ lanesOf 1, o1.opnd s g 1 h .u l (.k 0) = x ∧ o2.opnd s g 1 h .u l (.k 0) = x ∧ o3.opnd s g 1 h .u l (.k 0) = x) ∧
    x.toNat % 4 ≠ 0 ∧ x ≠ mtNone :=
  ⟨_, _, _, withK [0xFFFFFFFA], _, Hints.none_, 0xFFFFFFFA, ready_of (by decide), ready_of (by decide), ready_of (by decide), by decide, by decide, by decide⟩

/-- A segment of the lone task's core in a state. -/
def withSeg (st : SegState) (s : State) : State := s.mapCore 0 fun c => { c with segs := c.segs ++ [⟨0, 1, st, 0, [], 0, false, 0, 0, 0⟩] }

theorem wit_FaultsInPlace_state (st : SegState) : ∃ (o : Op) (s : State) (g : Gang) (h : Hints) (x : Word) (y : Seg), Ready (.jf (.k 0)) o s 2 g 1 h ∧
    (∀ l ∈ lanesOf 1, o.opnd s g 1 h .u l (.k 0) = x) ∧ x.toNat % 4 = 0 ∧ s.seg? g.core g.ctx (x.toNat / 32768) = some y ∧ y.st = st := by
  refine ⟨_, withSeg st (withK [0xFFFC]), _, Hints.none_, 0xFFFC, ⟨0, 1, st, 0, [], 0, false, 0, 0, 0⟩, ready_of ?_, ?_, by decide, ?_, rfl⟩ <;> cases st <;> decide

/-- IllegalWords: second hints, traps, assertions. -/
theorem wit_IllegalWords_hint : ∃ (s : State) (g : Gang) (h : Hints), Issues s 2 g 1 h ∧ h.imm ≠ none ∧ h.ext ≠ none ∧ h.sched ≠ none ∧ h ≠ Hints.none_ :=
  ⟨hinted ⟨some 0, some 0, some 0⟩, _, ⟨some 0, some 0, some 0⟩, issues_of (by decide), by decide⟩

theorem wit_IllegalWords_traps : ∃ (o1 o2 : Op) (s : State) (g : Gang) (h : Hints), Ready .brk o1 s 2 g 1 h ∧ Ready (.trap .lane) o2 s 2 g 1 h :=
  ⟨_, _, base, _, Hints.none_, ready_of (by decide), ready_of (by decide)⟩

theorem wit_IllegalWords_assert : ∃ (o1 o2 : Op) (s : State) (g : Gang) (h : Hints), Ready (.assert .zero .lane) o1 s 2 g 1 h ∧
    (∀ l ∈ lanesOf 1, o1.opnd s g 1 h .u l .zero = 0) ∧ Ready (.assert .ones .lane) o2 s 2 g 1 h ∧ ∀ l ∈ lanesOf 1, o2.opnd s g 1 h .u l .ones ≠ 0 :=
  ⟨_, _, base, _, Hints.none_, ready_of (by decide), by decide, ready_of (by decide), by decide⟩

theorem wit_IllegalWords_reserved : ∃ (s : State) (g : Gang), Issues s 2 g 1 Hints.none_ := ⟨base, _, issues_of (by decide)⟩

/-- A gang that fetches a word. -/
def fetching (w : Nat) : State := { (State.reset.withFetchWord 32 w).tick with agenda := [] }

/-- What the step clause of IllegalWords asks of the word that a gang fetches, as far as it can be evaluated. -/
def fetchesB (w : Nat) : Bool :=
  let u := fetching w
  let g := (g2 u).meet
  decide ((State.reset.withFetchWord 32 w).agenda = [.issue 2]) && (u.gang? 2).isSome && u.gangs.rising && decide ((g2 u).threads.length = 32) &&
    decide (g.agedPath (u.ctx g.ctx).ageMax = none) && (match g.choose, u.seg? g.core g.ctx ((g.choose.getD ⟨[], []⟩).pc g / 32768) with
      | some c, some x => !c.lanes.isEmpty && decide (x.st = .resident) && decide (readNum x.image (c.pc g % 32768) 4 = w) && (g.damagedLanes c.lanes).isEmpty
      | _, _ => false)

theorem wit_IllegalWords_unused : ∃ w, fetchesB w = true ∧ decode (word w) = .error .unused := ⟨0x00040000, by decide⟩

theorem wit_IllegalWords_nw : ∃ w i o, fetchesB w = true ∧ decode (word w) = .error (.nw i) ∧ opOf i Hints.none_ = some o ∧ o.form.illegalInsn Hints.none_ = none :=
  ⟨0x02000000, .nop, opI .nop Hints.none_, by decide, by decide, rfl, by decide⟩

/-- ChecksComeFirst: an unused hint, and the levels. -/
theorem wit_ChecksComeFirst : ∃ (i : Instr) (o : Op) (s : State) (g : Gang) (h : Hints) (f : Flt), opOf i h = some o ∧ Issues s 2 g 1 h ∧ o.form.check g h = some f :=
  ⟨.exit, opI .exit (imm 0), hinted (imm 0), g2 (hinted (imm 0)), imm 0, ⟨cIllegalInsn, 5, 0⟩, rfl, issues_of (by decide), by decide⟩

theorem wit_ChecksComeFirst_level : ∃ (s : State) (g : Gang) (o1 o2 : Op), Issues s 2 g 1 Hints.none_ ∧ g.level < 1 ∧
    opOf (.frd 0 (.k 0) .zero) Hints.none_ = some o1 ∧ o1.form.illegalInsn Hints.none_ = none ∧
    opOf (.invla .zero) Hints.none_ = some o2 ∧ o2.form.illegalInsn Hints.none_ = none :=
  ⟨base, _, opI (.frd 0 (.k 0) .zero) Hints.none_, opI (.invla .zero) Hints.none_, issues_of (by decide), by decide, rfl, by decide, rfl, by decide⟩

theorem wit_ChecksComeFirst_svc : ∃ (s : State) (g : Gang) (o : Op), Issues s 2 g 1 Hints.none_ ∧ g.level ≠ 0 ∧
    opOf (.svc 0 .zero .zero) Hints.none_ = some o ∧ o.form.illegalInsn Hints.none_ = none :=
  ⟨atLevel 1, _, opI (.svc 0 .zero .zero) Hints.none_, issues_of (by decide), by decide, rfl, by decide⟩

theorem wit_ChecksComeFirst_operand : ∃ (i : Instr) (o : Op) (s : State) (g : Gang) (h : Hints) (n : Nat), i.wf = true ∧ opOf i h = some o ∧ Issues s 2 g 1 h ∧
    o.form.check g h = none ∧ ∀ l ∈ lanesOf 1, operandSub o g 1 h l = some n :=
  ⟨.add false 5 (.d 8) .immw, opI (.add false 5 (.d 8) .immw) Hints.none_, base, _, Hints.none_, 2, by decide, rfl, issues_of (by decide), by decide, by decide⟩

/-- Two lanes, of which lane 0 reads an INVALID latch. -/
def twoLanes : State := (State.with0 base fun t => { t with lat := List.replicate 8 .invalid }).mapGang 2 fun g => g.setTh 31 { g.th 31 with lat := List.replicate 8 (.val 7) }

theorem wit_ChecksComeFirst_lanes : ∃ (i : Instr) (o : Op) (s : State) (g : Gang) (h : Hints) (d : Nat) (nw : Bool) (ws : Nat → List Word), i.wf = true ∧ opOf i h = some o ∧
    Issues s 2 g 2147483649 h ∧ o.form.check g h = none ∧ (∃ l ∈ lanesOf 2147483649, operandSub o g 2147483649 h l = none) ∧
    (∃ l ∈ lanesOf 2147483649, operandSub o g 2147483649 h l = some 3) ∧
    ∀ l ∈ lanesOf 2147483649, operandSub o g 2147483649 h l = none → intResult h (readsOf o s g 2147483649 h l) i = some (d, nw, ws l) :=
  ⟨.add false 5 (.d 8) (.d 8), opI (.add false 5 (.d 8) (.d 8)) Hints.none_, { twoLanes with cur := some ⟨2, 2147483649⟩ }, _, Hints.none_, 5, false, fun _ => [14], by decide, rfl,
    issues_of (by decide), by decide, by decide, by decide, by decide⟩

end Sys2Proof.Tests
end

