-- ==== Sys2Proof/Tests/WitnessMemory.lean ====
section
/-! SUPPORT. Witnesses for the hypotheses of the statements about loads, stores, atomics, fences and barriers. -/

namespace Sys2Proof.Tests

open Sys2Proof.Machine Sys2Proof.Claims

set_option maxRecDepth 100000

/-! ## The states -/

/-- The leaf of the 2 GiB page that maps virtual addresses from 0 to themselves: V, R, W, A, D and L set. -/
def idLeaf : DWord := 0x1C7

/-- The lone task with page tables: a level-0 node at 0x8000, a level-1 node at 0x10000, one leaf. -/
def paged : State :=
  (base.mapCtx 0 fun c => { c with ptroot := 0x8000, regBase := 0x10000000, regNext := 0x10000000 }).store 0x8000 (bytesOf 8 0x10001) |>.store 0x10000 (bytesOf 8 idLeaf.toNat)

/-- The same with words in the first k registers. -/
def pagedK (ws : List Word) : State := paged.mapGang 2 fun g => { g with k := (List.range ws.length).zip ws }

/-- The leaf that the walk finds for the page of 0x100000, which lies in frame 2. -/
def pageLeaf : DWord := 0x200001C7

/-- A queue of two items of 8 bytes at 0x200000 with its descriptor at 0x100000, as TAIL, TRES, HEAD, HRES and the operands k0:k1 say. -/
def queued (tail tres head hres : Nat) : State :=
  (((pagedK [0x100000, 0]).store 0x100000 (bytesOf 8 tail ++ bytesOf 8 tres ++ bytesOf 8 head ++ bytesOf 8 hres ++ bytesOf 8 0x200000)).store 0x100028 (bytesOf 4 0x801))

/-- A crew of no interest. -/
def aCrew : Crew := placedCrew (loneLaunch 0) 0 ⟨0, 1, 1, 1, false, 128, 96, 1, 0, 0, 0, 4, 0, 0, 0, []⟩ ⟨0, 0, 0, [], none, [], none⟩ [0] [0] 0 0

theorem both_of {P : State → Prop} {s : State} (h : P s) : ∀ x ∈ [s, s], P x := by
  intro x hx
  simp only [List.mem_cons, List.not_mem_nil, or_false, or_self] at hx
  exact hx ▸ h

/-! ## Loads, stores, atomics -/

/-- Loads. -/
theorem wit_Loads : ∃ (i : Instr) (o : Op) (s : State) (g : Gang) (h : Hints) (f : LoadForm) (b : Nat → List Byte) (u : State),
    Ready i o s 2 g 1 h ∧ loadForm i = some f ∧
    Chain (LoadLink 2 (o.reader g 1) s.clock h (f.ask h) (addressOf o s g 1 h f.a f.b) b) (o.begun s 2 g 1) (lanesOf 1) u :=
  ⟨.ldW 5 (.k 0) .zero, _, pagedK [0x100000, 0], _, Hints.none_, _, fun _ => [0, 0, 0, 0], _, ready_of (by decide), rfl,
    ⟨_, ⟨_, 0x100000, some pageLeaf, pair_of (by decide), by decide, ⟨by decide, by decide⟩, by decide, rfl⟩, rfl⟩⟩

theorem wit_Loads_vault : ∃ (i : Instr) (o : Op) (s : State) (g : Gang) (h : Hints) (f : LoadForm) (b : Nat → List Byte) (u : State),
    Ready i o s 2 g 1 h ∧ loadForm i = some f ∧
    Chain (LoadLink 2 (o.reader g 1) s.clock h (f.ask h) (addressOf o s g 1 h f.a f.b) b) (o.begun s 2 g 1) (lanesOf 1) u :=
  ⟨.ldxQ 124 (.k 0) .zero, _, withK [0xFFF0, 0], _, Hints.none_, _, fun _ => List.replicate 16 0, _, ready_of (by decide), rfl,
    ⟨_, ⟨_, 0x1000000FFF0, none, pair_of (by decide), by decide, ⟨by decide, by decide⟩, by decide, rfl⟩, rfl⟩⟩

/-- The lone task with a format page: the leaf of page 2 says FP32 elements. -/
def formatted : State := (pagedK [0x100000, 0]).mapCore 0 fun c => { c with tlb := [⟨0, 2, 1, 0x200080C7⟩] }

/-- Loads: the decoding load. -/
theorem wit_Loads_decode : ∃ (d : Nat) (a b : Src) (o : Op) (s : State) (g : Gang) (h : Hints) (r : Nat → List Word × Nat) (u : State),
    Ready (.ldF d a b) o s 2 g 1 h ∧ Chain (DecodeLink 2 (o.reader g 1) (o.given s 2 g 1 h) h (addressOf o s g 1 h a b) r) (o.begun s 2 g 1) (lanesOf 1) u :=
  ⟨126, .k 0, .zero, _, formatted, _, Hints.none_, fun _ => ([0, 0], 0), _, ready_of (by decide),
    ⟨_, ⟨_, _, 0x100000, 0x200080C7, 0, pair_of (by decide), by rw [if_neg (by decide)], ⟨by decide, by decide⟩, by decide, by decide, rfl⟩, rfl⟩⟩

/-- A store that is performed at once. -/
theorem store_of {s s1 : State} {g : Gang} {e : Env} {q : Ask} {ea : Nat → DWord} {b : Nat → List Byte} {l pa : Nat} {leaf : Option DWord}
    (h : s.locate 2 g l (ea l) q = (s1, .found pa leaf)) (hn : (s1.logsStore g pa q false && logTakes s1 g (.store (s1.home pa) pa (2, l) (b l))) = false)
    (hp : (false || q.fe != 0 || s1.logsStore g pa q false) = false) (hc : clearFor s1 2 pa leaf false true q.syn) (h1 : q.fe ≠ 1) (h2 : q.fe ≠ 2) :
    StoreLink 2 g e q false ea b s l (s1.performStore e l pa leaf q (b l) (!false && (q.fe == 0 || q.fe == 3))) := by
  refine ⟨s1, pa, leaf, h, ?_⟩
  simp only [hn, Bool.false_eq_true, if_false]
  refine ⟨s1, ?_, both_of ⟨hc, fun k => absurd k h1, fun k => absurd k h2⟩, rfl⟩
  simp only [hp, pinned, Bool.false_eq_true, if_false]

/-- A store that enters the commit log. -/
theorem store_logged {s s1 : State} {g : Gang} {e : Env} {q : Ask} {ea : Nat → DWord} {b : Nat → List Byte} {l pa : Nat} {leaf : Option DWord}
    (h : s.locate 2 g l (ea l) q = (s1, .found pa leaf)) (hn : (s1.logsStore g pa q false && logTakes s1 g (.store (s1.home pa) pa (2, l) (b l))) = true) :
    StoreLink 2 g e q false ea b s l (s1.logEntry g.crew (.store (s1.home pa) pa (2, l) (b l))) := by
  refine ⟨s1, pa, leaf, h, ?_⟩
  simp only [hn, if_true]

/-- Stores. -/
theorem wit_Stores : ∃ (i : Instr) (o : Op) (s : State) (g : Gang) (h : Hints) (f : StoreForm) (u : State),
    Ready i o s 2 g 1 h ∧ storeForm i = some f ∧ isRelease h.x = false ∧
    Chain (StoreLink 2 (o.reader g 1) (o.given s 2 g 1 h) (f.ask h) false (addressOf o s g 1 h f.a f.b) (f.bytes g)) (o.begun s 2 g 1) (lanesOf 1) u :=
  ⟨.stW 5 (.k 0) .zero, _, pagedK [0x100000, 0], _, Hints.none_, _, _, ready_of (by decide), rfl, by decide,
    ⟨_, store_of (pa := 0x100000) (leaf := some pageLeaf) (pair_of (by decide)) (by decide) (by decide) ⟨by decide, by decide⟩ (by decide) (by decide), rfl⟩⟩

/-- The lone task, replayable and not pinned, with a commit log. -/
def replayable : State :=
  ((pagedK [0x100000, 0]).mapCrew 1 fun c => { c with repl := true, logBlock := some (1, 1) }).mapLaunch 0 0 fun l => { l with stages := l.stages.map fun t => { t with repl := true, log4k := 1 } }

theorem wit_Stores_logged : ∃ (i : Instr) (o : Op) (s : State) (g : Gang) (h : Hints) (f : StoreForm) (u : State),
    Ready i o s 2 g 1 h ∧ storeForm i = some f ∧ isRelease h.x = false ∧
    Chain (StoreLink 2 (o.reader g 1) (o.given s 2 g 1 h) (f.ask h) false (addressOf o s g 1 h f.a f.b) (f.bytes g)) (o.begun s 2 g 1) (lanesOf 1) u :=
  ⟨.stW 5 (.k 0) .zero, _, replayable, _, Hints.none_, _, _, ready_of (by decide), rfl, by decide,
    ⟨_, store_logged (pa := 0x100000) (leaf := some pageLeaf) (pair_of (by decide)) (by decide), rfl⟩⟩

/-- Stores, Atomics: what a performed one leaves, in memory and at the last byte of the vault range's first window. -/
theorem wit_Stores_loggable : base.loggable 0x100000 = true ∧ base.loggable 0x1000000FFFF = true ∧ breaksNoRing base 0x100000 [0, 0, 0, 0] ∧ breaksNoRing base 0x10000000800 [64, 0, 0, 0] := by
  refine ⟨by decide, by decide, ?_, ?_⟩ <;> intro p hp _ <;> rw [show base.crews = [(1, (base.crew? 1).getD aCrew)] from by decide, List.mem_singleton] at hp <;> subst hp <;> decide

/-- An atomic of a pinned task whose result is wanted. -/
theorem amo_of {s s1 : State} {g : Gang} {e : Env} {f : AmoForm} {h : Hints} {ea data cmp : Nat → DWord} {old : Nat → Nat} {l pa : Nat} {leaf : Option DWord}
    (h1 : s.locate 2 g l (ea l) { width := amoWidth h, acc := .atomic, vault := f.vault, syn := true } = (s1, .found pa leaf)) (hn : f.nw = false)
    (hp : s1.unpinnedOf g = false) (hc : clearFor s1 2 pa leaf true true true) (ho : old l = natOfBytes (s1.bytesAt s1.mem pa (amoWidth h)).2) :
    AmoLink 2 g e f h ea data cmp old s l (atomicDone s1 2 l g e f h pa leaf (data l) (cmp l)) := by
  refine ⟨s1, pa, leaf, h1, ?_⟩
  simp only [hn, Bool.false_and, Bool.false_eq_true, if_false]
  refine ⟨s1, ?_, both_of hc, ho, rfl⟩
  simp only [pinned, State.pin, hp, Bool.not_false, Bool.true_or, if_true]

/-- Atomics. -/
theorem wit_Atomics : ∃ (i : Instr) (o : Op) (s : State) (g : Gang) (h : Hints) (f : AmoForm) (old : Nat → Nat) (u : State),
    Ready i o s 2 g 1 h ∧ amoForm i = some f ∧ amoReleases h.x = false ∧
    Chain (AmoLink 2 (o.reader g 1) (o.given s 2 g 1 h) f h (addressOf o s g 1 h f.a f.b) (fun l => f.data g h f.d l) (fun l => f.cmp o s g 1 h l) old) (o.begun s 2 g 1) (lanesOf 1) u :=
  ⟨.amoAdd false 127 (.k 0) .zero, _, pagedK [0x100000, 0], _, Hints.none_, _, fun _ => 0, _, ready_of (by decide), rfl, by decide,
    ⟨_, amo_of (pa := 0x100000) (leaf := some pageLeaf) (pair_of (by decide)) (by decide) (by decide) ⟨by decide, by decide⟩ (by decide), rfl⟩⟩

/-- AddressChecks: the first address past the limit, and a misaligned one. -/
theorem wit_AddressChecks : ∃ (ea : DWord) (q : Ask), q.vault = false ∧ 1 ≤ q.width ∧ 36028797018963968 ≤ ea.toNat :=
  ⟨0x80000000000000, { width := 4, acc := .read }, by decide⟩

theorem wit_AddressChecks_align : ∃ (ea : DWord) (q : Ask), q.vault = false ∧ 1 ≤ q.width ∧ ea.toNat < 36028797018963968 ∧ ea.toNat % q.width ≠ 0 :=
  ⟨0x7FFFFFFFFFFFFF, { width := 2, acc := .write }, by decide⟩

/-- AddressChecks: vault addresses in front of each check: over 2^32, past the window, in a joined window without a cluster. -/
theorem wit_AddressChecks_vault : (0xFFFFFFFFFFFFFFFF#64).toNat / 268435456 % 8 ≠ 0 ∧ (g2 base).hslot = none ∧
    ∃ c, base.crewOf (g2 base) = some c ∧ c.cluster = none ∧ c.winSize < 0x10000 + 4 ∧ ¬ c.winSize < 0xFFFC + 4 :=
  ⟨by decide, by decide, (base.crew? 1).getD aCrew, by decide⟩

/-- The lone task's crew in a cluster of its stage. -/
def clustered : State := (base.mapCrew 1 fun c => { c with cluster := some 0 }).mapLaunch 0 0 fun l => { l with groups := [⟨false, false, true, [(0, 0)]⟩] }

theorem wit_AddressChecks_joined : ∃ c k, clustered.crewOf (g2 clustered) = some c ∧ c.cluster ≠ none ∧ 0 < clustered.clusterSize c ∧ clustered.clusterMember c 0 = some k ∧
    clustered.clusterSize c ≤ 15 :=
  ⟨(clustered.crew? 1).getD aCrew, (clustered.crew? 1).getD aCrew, by decide⟩

/-- AddressChecks: the one lane faults at a misaligned address, and a load of two lanes of which lane 31 does. -/
theorem wit_AddressChecks_store : ∃ (i : Instr) (o : Op) (s : State) (g : Gang) (h : Hints) (a : StoreForm) (f : Nat → Flt) (u : State),
    Ready i o s 2 g 1 h ∧ storeForm i = some a ∧ isRelease h.x = false ∧
    Chain (OrFault (fun _ => true) (StoreFault 2 (o.reader g 1) s.clock (a.ask h) (isRelease h.x) (addressOf o s g 1 h a.a a.b) f)
      (StoreLink 2 (o.reader g 1) (o.given s 2 g 1 h) (a.ask h) (isRelease h.x) (addressOf o s g 1 h a.a a.b) (a.bytes g))) (o.begun s 2 g 1) (lanesOf 1) u ∧
    ∀ l ∈ lanesOf 1, f l = ⟨cAlign, 1, 0xFFFF⟩ :=
  ⟨.stD 4 (.k 0) .zero, _, pagedK [0xFFFF, 0], _, Hints.none_, _, fun _ => ⟨cAlign, 1, 0xFFFF⟩, _, ready_of (by decide), rfl, by decide,
    ⟨_, by rw [OrFault, if_pos rfl]; exact Or.inl (pair_of (by decide)), rfl⟩, fun _ _ => rfl⟩

theorem wit_AddressChecks_atomic : ∃ (i : Instr) (o : Op) (s : State) (g : Gang) (h : Hints) (a : AmoForm) (f : Nat → Flt) (old : Nat → Nat) (u : State),
    Ready i o s 2 g 1 h ∧ amoForm i = some a ∧ amoReleases h.x = false ∧
    Chain (OrFault (fun _ => true) (AmoFault 2 (o.reader g 1) s.clock a h (addressOf o s g 1 h a.a a.b) f)
      (AmoLink 2 (o.reader g 1) (o.given s 2 g 1 h) a h (addressOf o s g 1 h a.a a.b) (fun l => a.data g h a.d l) (fun l => a.cmp o s g 1 h l) old)) (o.begun s 2 g 1) (lanesOf 1) u :=
  ⟨.amoxAdd false 5 (.k 0) .zero, _, withK [0x10000000, 0], _, Hints.none_, _, fun _ => ⟨cXlatePerm, 0x20, 0x10000000⟩, fun _ => 0, _, ready_of (by decide), rfl, by decide,
    ⟨_, by rw [OrFault, if_pos rfl]; exact Or.inl (pair_of (by decide)), rfl⟩⟩

theorem wit_AddressChecks_decode : ∃ (d : Nat) (a b : Src) (o : Op) (s : State) (g : Gang) (h : Hints) (f : Nat → Flt) (r : Nat → List Word × Nat) (u : State),
    Ready (.ldF d a b) o s 2 g 1 h ∧
    Chain (OrFault (fun _ => true) (DecodeFault 2 (o.reader g 1) (o.given s 2 g 1 h) h (addressOf o s g 1 h a b) f)
      (DecodeLink 2 (o.reader g 1) (o.given s 2 g 1 h) h (addressOf o s g 1 h a b) r)) (o.begun s 2 g 1) (lanesOf 1) u :=
  ⟨4, .k 0, .zero, _, withK [0xFFFFFFFF, 0xFFFFFFFF], _, Hints.none_, fun _ => ⟨cXlatePerm, 0x10, 0xFFFFFFFFFFFFFFFF⟩, fun _ => ([], 0), _, ready_of (by decide),
    ⟨_, by rw [OrFault, if_pos rfl]; exact Or.inl (pair_of (by decide)), rfl⟩⟩

/-- Lanes 0 and 31, whose operands differ by their lane numbers. -/
def lanesApart : State := { (pagedK [0x100000, 0]) with cur := some ⟨2, 2147483649⟩ }

theorem wit_AddressChecks_load : ∃ (i : Instr) (o : Op) (s : State) (g : Gang) (h : Hints) (a : LoadForm) (faults : Nat → Bool) (f : Nat → Flt) (b : Nat → List Byte) (u : State),
    Ready i o s 2 g 2147483649 h ∧ loadForm i = some a ∧ faults 0 = false ∧ faults 31 = true ∧
    Chain (OrFault faults (LoadFault 2 (o.reader g 2147483649) s.clock (a.ask h) (addressOf o s g 2147483649 h a.a a.b) f)
      (LoadLink 2 (o.reader g 2147483649) s.clock h (a.ask h) (addressOf o s g 2147483649 h a.a a.b) b)) (o.begun s 2 g 2147483649) (lanesOf 2147483649) u :=
  ⟨.ldW 5 (.k 0) .lane, _, lanesApart, _, Hints.none_, _, fun l => decide (l = 31), fun _ => ⟨cAlign, 1, 0x10001F⟩, fun _ => [0, 0, 0, 0], _, ready_of (by decide), rfl, by decide, by decide,
    ⟨_, by rw [OrFault, if_neg (by decide)]; exact ⟨_, 0x100000, some pageLeaf, pair_of (by decide), by decide, ⟨by decide, by decide⟩, by decide, rfl⟩,
     ⟨_, by rw [OrFault, if_pos (by decide)]; exact Or.inl (pair_of (by decide)), rfl⟩⟩⟩

/-! ## Fences and barriers -/

/-- HX.EXT with ORDER acq (1), rel (2). -/
def order (n : Nat) : Hints := ⟨none, some n, none⟩

theorem wit_Fences_acq : ∃ (o : Op) (s : State) (g : Gang) (h : Hints), Ready .fence o s 2 g 1 h ∧ extOrder h.x = 1 :=
  ⟨_, hinted (order 1), _, order 1, ready_of (by decide), by decide⟩

theorem wit_Fences_rel : ∃ (o : Op) (s : State) (g : Gang) (h : Hints), Ready .fence o s 2 g 1 h ∧ extOrder h.x ≠ 1 ∧
    lostLanesOf (o.begun s 2 g 1) (o.given s 2 g 1 h) = [] :=
  ⟨_, hinted (order 2), _, order 2, ready_of (by decide), by decide, by decide⟩

theorem wit_Fences_fencex : ∃ (o : Op) (s : State) (g : Gang) (h : Hints), Ready (.fencex .ones .ones) o s 2 g 1 h ∧
    lostLanesOf (o.begun s 2 g 1) (o.given s 2 g 1 h) = [] :=
  ⟨_, base, _, Hints.none_, ready_of (by decide), by decide⟩

/-- A store to a path of the package that is not acknowledged. -/
def storing : State := base.mapGang 2 fun g => { g with ivs := [⟨0, 0, [12], false⟩] }

/-- The same beside another gang of the crew. -/
def storingBeside : State := { storing with gangs := storing.gangs.put 3 { g2 base with index := 1, slot := 1, issue := none } }

theorem wit_Fences_held : ∃ (o : Op) (s : State) (g : Gang), opOf .bar Hints.none_ = some o ∧ Issues s 2 g 1 Hints.none_ ∧ o.form.check g Hints.none_ = none ∧
    o.form.operandFaults none (o.reader g 1) (lanesOf 1) = [] ∧ s.alone g 2 1 = false ∧ ∃ d ∈ g.pending, lostDest d = false ∧ laneOf d ∈ lanesOf 1 :=
  ⟨opI .bar Hints.none_, storingBeside, _, rfl, issues_of (by decide), by decide, by decide, by decide, 12, by decide, by decide, by decide⟩

theorem wit_Fences_held_queue : ∃ (o : Op) (s : State) (g : Gang), opOf (.qpush 0 (.k 0)) Hints.none_ = some o ∧ Issues s 2 g 1 Hints.none_ ∧ o.form.check g Hints.none_ = none ∧
    o.form.operandFaults none (o.reader g 1) (lanesOf 1) = [] ∧ s.alone g 2 5 = false ∧ ∃ d ∈ g.pending, lostDest d = false ∧ laneOf d ∈ lanesOf 1 :=
  ⟨opI (.qpush 0 (.k 0)) Hints.none_, storing, _, rfl, issues_of (by decide), by decide, by decide, by decide, 12, by decide, by decide, by decide⟩

/-- Barriers: in a handler thread, complete, and waiting. -/
theorem wit_Barriers_handler : ∃ (o : Op) (s : State) (g : Gang), Ready .bar o s 2 g 1 Hints.none_ ∧ g.hslot ≠ none :=
  ⟨_, base.mapGang 2 fun g => { g with hslot := some 63 }, _, ready_of (by decide), by decide⟩

theorem wit_Barriers_last : ∃ (o : Op) (s : State) (g : Gang) (c : Crew), Ready .bar o s 2 g 4294967295 Hints.none_ ∧ g.hslot = none ∧ s.crew? g.crew = some c ∧
    ∀ p ∈ s.gangs, p.2.crew = g.crew → p.2.hslot = none → ∀ l, l < 32 → (p.1 = 2 ∧ l ∈ lanesOf 4294967295) ∨ (p.2.th l).arrived c.bar = true :=
  ⟨_, { base with cur := some ⟨2, 4294967295⟩ }, _, (base.crew? 1).getD aCrew,
    ready_of (by decide), by decide, by decide, by decide⟩

theorem wit_Barriers_wait : ∃ (o : Op) (s : State) (g : Gang) (c : Crew), Ready .bar o s 2 g 1 Hints.none_ ∧ g.hslot = none ∧ s.crew? g.crew = some c ∧
    ∃ l, l < 32 ∧ l ∉ lanesOf 1 ∧ (g.th l).arrived c.bar = false :=
  ⟨_, base, _, (base.crew? 1).getD aCrew,
    ready_of (by decide), by decide, by decide, 31, by decide, by decide, by decide⟩

/-- The lone task in a group with a barrier of its own. -/
def grouped : State :=
  { ((base.mapCrew 1 fun c => { c with groups := [255] }).mapLaunch 0 0 fun l => { l with groups := List.replicate 255 ⟨false, false, false, []⟩ ++ [⟨true, false, true, [(0, 0)]⟩] }) with
    cur := some ⟨2, 4294967295⟩ }

theorem wit_Barriers_group_wait : ∃ (o : Op) (s : State) (g : Gang) (c : Crew) (x : Launch), Ready (.gbar .ones) o s 2 g 1 Hints.none_ ∧
    (∀ l ∈ lanesOf 1, (o.opnd s g 1 Hints.none_ .u l .ones).toNat % 256 = 255) ∧ s.mayGbar g 255 = true ∧ s.crewOf g = some c ∧ s.launch? c.ctx c.launch = some x ∧
    ∃ p ∈ s.groupGangs c.ctx c.launch 255, ∃ l, l < 32 ∧ ¬ (p.1 = 2 ∧ l ∈ lanesOf 1) ∧ (p.2.th l).arrivedGroup 255 (x.gbar.at_ 0 255) = false :=
  ⟨_, { grouped with cur := some ⟨2, 1⟩ }, _, (grouped.crew? 1).getD aCrew, (grouped.launch? 0 0).getD (loneLaunch 0), ready_of (by decide), by decide, by decide, by decide, by decide,
    (2, g2 grouped), by decide, 31, by decide, by decide, by decide⟩

theorem wit_Barriers_group_none : ∃ (o : Op) (s : State) (g : Gang), Ready (.gbar .ones) o s 2 g 1 Hints.none_ ∧
    (∀ l ∈ lanesOf 1, (o.opnd s g 1 Hints.none_ .u l .ones).toNat % 256 = 255) ∧ s.mayGbar g 255 = false :=
  ⟨_, base, _, ready_of (by decide), by decide, by decide⟩

end Sys2Proof.Tests
end

