-- ==== Sys2Proof/Tests/WitnessEngines.lean ====
section
/-! SUPPORT. Witnesses for the hypotheses of the statements about the barrier of a group, queues, rings, handles, tile records and the plane array. -/

namespace Sys2Proof.Tests

open Sys2Proof.Machine Sys2Proof.Claims

set_option maxRecDepth 100000

/-- Barriers: the last arrival at the barrier of a group. -/
theorem wit_Barriers_group : ∃ (o : Op) (s : State) (g : Gang) (c : Crew) (x : Launch), Ready (.gbar .ones) o s 2 g 4294967295 Hints.none_ ∧
    (∀ l ∈ lanesOf 4294967295, (o.opnd s g 4294967295 Hints.none_ .u l .ones).toNat % 256 = 255) ∧ s.mayGbar g 255 = true ∧
    s.crewOf g = some c ∧ s.launch? c.ctx c.launch = some x ∧
    ∀ p ∈ s.groupGangs c.ctx c.launch 255, ∀ l, l < 32 → (p.1 = 2 ∧ l ∈ lanesOf 4294967295) ∨ (p.2.th l).arrivedGroup 255 (x.gbar.at_ 0 255) = true :=
  ⟨opI (.gbar .ones) Hints.none_, grouped, g2 grouped, (grouped.crew? 1).getD aCrew, (grouped.launch? 0 0).getD (loneLaunch 0), by and_intros <;> first | exact ready_of (by decide) | decide⟩

/-! ## Queues -/

/-- The queue of `queued`. -/
def theQueue : Queue := ⟨0x100000, pageLeaf, 0x200000, 8, 2, 1⟩

theorem held_of {s : State} {d n : Nat} (h : ((List.range (n / 4)).all fun i => (g2 s).holdsLine (d + i)) = true) (hs : (s.gang? 2).isSome = true) : itemHeld s 2 d n := by
  intro x hx i hi
  rw [gang_of hs] at hx
  cases hx
  exact List.all_eq_true.mp h i (List.mem_range.mpr hi)

/-- A push of a pinned task that is made at once. -/
theorem push_of {s s1 t : State} {g : Gang} {e : Env} {d l : Nat} {va : Nat → DWord} {q : Queue} (h : queueAt 2 e (va l) true s l s1 q) (hh : q.home ≠ 2) (hd : d % (q.isz / 4) = 0)
    (hi : itemHeld s1 2 d q.isz) (hu : s1.unpinnedOf g = false) (hp : pushAt 2 e q (itemBytes s1 2 l d q.isz) s1 l t) : PushLink 2 g e d va s l t := by
  refine ⟨s1, q, h.1, hh, hd, hi, ?_⟩
  simp only [hu, Bool.false_and, Bool.false_eq_true, if_false]
  exact ⟨fun _ => h.2, s1, by simp only [pinned, Bool.false_eq_true, if_false], hp⟩

/-- A push that an unpinned task defers. -/
theorem defer_of {s s1 : State} {g : Gang} {e : Env} {d l : Nat} {va : Nat → DWord} {q : Queue} (h : s.findQueue (e.who l) (va l) = (s1, .found q)) (hh : q.home ≠ 2) (hd : d % (q.isz / 4) = 0)
    (hi : itemHeld s1 2 d q.isz)
    (hu : (s1.unpinnedOf g && (match s1.crewOf g with | some c => s1.logFits c (16 + q.isz) | none => false)) = true) :
    PushLink 2 g e d va s l (s1.defer g.crew (.push (32 * g.index + l) (s1.home q.pa) (itemBytes s1 2 l d q.isz))) := by
  refine ⟨s1, q, h, hh, hd, hi, ?_⟩
  exact ⟨fun x => absurd (hu.symm.trans x) (by decide), cast (if_pos hu).symm rfl⟩

theorem wit_Queues_push : ∃ (d : Nat) (a : Src) (o : Op) (s : State) (g : Gang) (h : Hints) (u : State), Ready (.qpush d a) o s 2 g 1 h ∧
    Chain (PushLink 2 (o.reader g 1) (o.given s 2 g 1 h) d (fun l => o.opnd2 s g 1 h l a)) (o.begun s 2 g 1) (lanesOf 1) u :=
  ⟨126, .k 0, _, queued 1 1 0 0, _, Hints.none_, _, ready_of (by decide),
    ⟨_, push_of (q := theQueue) ⟨pair_of (by decide), by decide⟩ (by decide) (by decide) (held_of (by decide) (by decide)) (by decide)
      ⟨by decide, by decide, 0x200008, _, ⟨_, _, pair_of (b := Loc.found 0x200008 (some 0x400001C7)) (by decide), by decide, by decide, rfl⟩, by decide, rfl⟩, rfl⟩⟩

/-- `queued` with a task that is not pinned and has a commit log. -/
def queuedLog : State :=
  ((queued 1 1 0 0).mapCrew 1 fun c => { c with repl := true, logBlock := some (1, 1) }).mapLaunch 0 0 fun l => { l with stages := l.stages.map fun t => { t with repl := true, log4k := 1 } }

theorem wit_Queues_defer : ∃ (d : Nat) (a : Src) (o : Op) (s : State) (g : Gang) (h : Hints) (u : State), Ready (.qpush d a) o s 2 g 1 h ∧
    Chain (PushLink 2 (o.reader g 1) (o.given s 2 g 1 h) d (fun l => o.opnd2 s g 1 h l a)) (o.begun s 2 g 1) (lanesOf 1) u :=
  ⟨126, .k 0, _, queuedLog, _, Hints.none_, _, ready_of (by decide),
    ⟨_, defer_of (q := theQueue) (pair_of (by decide)) (by decide) (by decide) (held_of (by decide) (by decide)) (by decide), rfl⟩⟩

/-- A pop of a pinned task that reserves its item at once. -/
theorem pop_of {s s1 s2 : State} {g : Gang} {e : Env} {d l slot : Nat} {try_ : Bool} {va : Nat → DWord} {item : Nat → List Byte} {q : Queue}
    (h : queueAt 2 e (va l) true s l s1 q) (hh : q.home ≠ 2) (hd : d % (q.isz / 4) = 0) (hn : s1.heldPop g (s1.home q.pa) = none)
    (hq : s1.qHasItem q.pa = true ∧ (try_ = false → s1.queueAhead (s1.home q.pa) false e.since 2 l = false)) (hs : slotAt 2 e q (s1.qHres q.pa) .read s1 l slot s2)
    (hb : item l = readBytes s2.mem (s2.home slot) q.isz) (hu : (noted 2 e q true (s2.reservePop q.pa)).unpinnedOf g = false)
    (ht : (noted 2 e q true (s2.reservePop q.pa)).commitTurn q.pa (s1.qHres q.pa) false = true) :
    PopLink 2 g e d try_ va item s l ((noted 2 e q true (s2.reservePop q.pa)).commitLater ⟨(noted 2 e q true (s2.reservePop q.pa)).home q.pa, s1.qHres q.pa, false, e.g.ctx, e.g.crew?⟩) := by
  refine ⟨s1, q, h, hh, hd, fun _ => hq, ?_⟩
  simp only [hn]
  refine ⟨slot, s2, hs, hb, ?_⟩
  simp only [hu, Bool.false_eq_true, if_false]
  exact ⟨ht, trivial⟩

theorem wit_Queues_pop : ∃ (d : Nat) (a : Src) (o : Op) (s : State) (g : Gang) (h : Hints) (item : Nat → List Byte) (u : State), Ready (.qpop d a) o s 2 g 1 h ∧
    Chain (PopLink 2 (o.reader g 1) (o.given s 2 g 1 h) d false (fun l => o.opnd2 s g 1 h l a) item) (o.begun s 2 g 1) (lanesOf 1) u :=
  ⟨0, .k 0, _, queued 3 3 1 1, _, Hints.none_, fun _ => List.replicate 8 0, _, ready_of (by decide),
    ⟨_, pop_of (q := theQueue) (slot := 0x200008) ⟨pair_of (by decide), by decide⟩ (by decide) (by decide) (by decide) (by decide)
      ⟨_, _, pair_of (b := Loc.found 0x200008 (some 0x400001C7)) (by decide), by decide, by decide, rfl⟩ (by decide) (by decide) (by decide), rfl⟩⟩

theorem wit_Queues_trypop : ∃ (d : Nat) (a : Src) (o : Op) (s : State) (g : Gang) (h : Hints) (item : Nat → List Byte) (u : State), Ready (.qtrypop d a (.v 2)) o s 2 g 1 h ∧
    Chain (PopLink 2 (o.reader g 1) (o.given s 2 g 1 h) d true (fun l => o.opnd2 s g 1 h l a) item) (o.begun s 2 g 1) (lanesOf 1) u :=
  ⟨0, .k 0, _, queued 3 3 1 1, _, Hints.none_, fun _ => List.replicate 8 0, _, ready_of (by decide),
    ⟨_, pop_of (q := theQueue) (slot := 0x200008) ⟨pair_of (by decide), by decide⟩ (by decide) (by decide) (by decide) (by decide)
      ⟨_, _, pair_of (b := Loc.found 0x200008 (some 0x400001C7)) (by decide), by decide, by decide, rfl⟩ (by decide) (by decide) (by decide), rfl⟩⟩

theorem wit_Queues_miss : ∃ (d : Nat) (a : Src) (o : Op) (s : State) (g : Gang) (h : Hints) (u : State), Ready (.qtrypop d a (.v 2)) o s 2 g 1 h ∧
    Chain (MissLink 2 (o.reader g 1) (o.given s 2 g 1 h) d (fun l => o.opnd2 s g 1 h l a)) (o.begun s 2 g 1) (lanesOf 1) u :=
  ⟨0, .k 0, _, queued 1 2 1 1, _, Hints.none_, _, ready_of (by decide),
    ⟨_, ⟨_, theQueue, ⟨pair_of (by decide), by decide⟩, by decide, by decide, by decide, by decide, rfl⟩, rfl⟩⟩

theorem wit_Queues_len : ∃ (d : Nat) (a : Src) (o : Op) (s : State) (g : Gang) (h : Hints) (len : Nat → Word) (u : State), Ready (.qlen d a) o s 2 g 1 h ∧
    Chain (LenLink 2 (o.given s 2 g 1 h) (fun l => o.opnd2 s g 1 h l a) len) (o.begun s 2 g 1) (lanesOf 1) u :=
  ⟨127, .k 0, _, queued 3 3 1 1, _, Hints.none_, fun _ => 2, _, ready_of (by decide),
    ⟨_, ⟨_, theQueue, ⟨pair_of (by decide), by decide⟩, by decide, by decide, rfl⟩, rfl⟩⟩

theorem wit_Queues_steps : regionOf 0x100040 = .hbm ∧ regionOf 0x100000 = .hbm ∧ (0x100040 + 8 ≤ 0x100000 ∨ 0x100000 + 64 ≤ 0x100040) ∧ base.commits = [] := by decide

/-! ## Rings and handles -/

/-- FILL of 16 bytes at vault address 0x1000 without handles. -/
def fillWords : List Word := [0x80FFFF07, 0, 0, 0x1000, 0, 16, 0xFFFF, 0]

theorem wit_Entries : ∃ (n : Nat) (o : Op) (s : State) (g : Gang) (h : Hints) (c : Crew) (x : BitVec 256) (r : State × Recs) (u : State),
    Ready (.xqCp false 5 (.k n)) o s 2 g 1 h ∧ s.crewOf g = some c ∧ x = imageOf ((List.range 8).map fun j => g.readK (n + j)) ∧ engineOf (cmdOp x) = some 0 ∧
    r = ((o.begun s 2 g 1).notePub g.crew none).readRecs g.crew 2 x ∧ r.1.checkEntry g.crew x r.2 = none ∧ r.1.ringFill c < 64 ∧
    (if pinsTask x r.2 then r.1.pin (o.reader g 1) = .ok u else u = r.1) :=
  ⟨0, opI (.xqCp false 5 (.k 0)) Hints.none_, withK fillWords, g2 (withK fillWords), Hints.none_, ((withK fillWords).crew? 1).getD aCrew, imageOf fillWords, _, _,
    ready_of (by decide), by decide, by decide, by decide, rfl, by decide, by decide, by rw [if_neg (by decide)]⟩

/-- The other engines: GATHER of one row, SEND of one byte, CONTRIB of no element. -/
def otherEntries : List (List Word) :=
  [[0x00FFFF10, 0, 0, 0x2000, 0x1000, 0x00010001, 16, 1], [0x00FFFF20, 0x100000, 0, 0, 0, 1, 0, 0], [0x00FFFF31, 0x100000, 0, 0, 0, 0, 0, 0]]

theorem wit_Entries_engines : (otherEntries.map fun ws => ((base.notePub 1 none).checkEntry 1 (imageOf ws) ⟨none, none, none⟩, engineOf (cmdOp (imageOf ws)))) =
    [(none, some 1), (none, some 2), (none, some 3)] := by decide

theorem wit_Entries_slot : ∃ (s : State) (c : Crew), s.crew? 1 = some c ∧ c.winPa (32 * (s.ringPub c % 64)) + 32 ≤ c.winPa 0x800 :=
  ⟨base.store 0x10000000800 (bytesOf 4 63), (base.crew? 1).getD aCrew, by decide, by decide⟩

/-- The lone task with handle 63 of its core, bound to its crew, and words in k registers. -/
def held (k : Handle) (ws : List Word) : State := (withK ws).mapHandle 0 63 fun _ => k

/-- A handle bound to crew 1. -/
def bound : Handle := { Handle.reset with owner := some 1 }

/-- The common hypotheses on a handle. -/
def handled (s : State) (o : Op) (x : Word) (k : Handle) : Prop :=
  ∃ c, s.crewOf (g2 s) = some c ∧ o.opnd s (g2 s) 1 Hints.none_ .u ((lanesOf 1).headD 0) (.k 0) = word 63 ∧
    o.opnd s (g2 s) 1 Hints.none_ .u ((lanesOf 1).headD 0) (.k 1) = x ∧ s.handle c.homeCore 63 = k

theorem wit_Handles_waith : ∃ (o : Op) (s : State) (x : Word) (k : Handle), Ready (.waith (.k 0) (.k 1)) o s 2 (g2 s) 1 Hints.none_ ∧ handled s o x k ∧ k.owner = some 1 ∧
    x.getLsbD 31 = true ∧ x.toNat % 2147483648 ≤ k.counter.toNat :=
  ⟨opI (.waith (.k 0) (.k 1)) Hints.none_, held { bound with counter := 1 } [63, 0x80000001], 0x80000001, { bound with counter := 1 },
    ready_of (by decide), ⟨((withK []).crew? 1).getD aCrew, by decide, by decide, by decide, by decide⟩, by decide⟩

theorem wit_Handles_waith_not : ∃ (o : Op) (s : State) (x : Word) (k : Handle), Ready (.waith (.k 0) (.k 1)) o s 2 (g2 s) 1 Hints.none_ ∧ handled s o x k ∧ k.owner = some 1 ∧
    x.toNat < 32 ∧ ¬ (x = 0 ∨ x.getLsbD k.st.code = true) :=
  ⟨opI (.waith (.k 0) (.k 1)) Hints.none_, held bound [63, 30], 30, bound, ready_of (by decide),
    ⟨((withK []).crew? 1).getD aCrew, by decide, by decide, by decide, by decide⟩, by decide⟩

theorem wit_Handles_hset : ∃ (o : Op) (s : State) (x : Word) (k : Handle), Ready (.hset (.k 0) (.k 1)) o s 2 (g2 s) 1 Hints.none_ ∧ handled s o x k ∧ k.owner = some 1 ∧
    x.toNat % 8 = 2 ∧ x.toNat < 16 ∧ k.dpend = 0 ∧ k.spend = 0 ∧ s.handleFrozen 1 63 = false :=
  ⟨opI (.hset (.k 0) (.k 1)) Hints.none_, held bound [63, 10], 10, bound, ready_of (by decide),
    ⟨((withK []).crew? 1).getD aCrew, by decide, by decide, by decide, by decide⟩, by decide⟩

theorem wit_Handles_hqry : ∃ (o : Op) (s : State) (x : Word) (k : Handle), Ready (.hqry false 5 (.k 0) (.k 1)) o s 2 (g2 s) 1 Hints.none_ ∧ handled s o x k ∧ k.owner = some 1 ∧ x = 1 :=
  ⟨opI (.hqry false 5 (.k 0) (.k 1)) Hints.none_, held bound [63, 1], 1, bound, ready_of (by decide),
    ⟨((withK []).crew? 1).getD aCrew, by decide, by decide, by decide, by decide⟩, by decide⟩

theorem wit_Handles_hbind : ∃ (o : Op) (s : State) (x : Word) (k : Handle), Ready (.hbind false 5 (.k 0) (.k 1)) o s 2 (g2 s) 1 Hints.none_ ∧ handled s o x k ∧ x = 1 ∧ k.owner = none :=
  ⟨opI (.hbind false 5 (.k 0) (.k 1)) Hints.none_, held Handle.reset [63, 1], 1, Handle.reset, ready_of (by decide),
    ⟨((withK []).crew? 1).getD aCrew, by decide, by decide, by decide, by decide⟩, by decide⟩

theorem wit_Handles_hbind_held : ∃ (o : Op) (s : State) (x : Word) (k : Handle), Ready (.hbind false 5 (.k 0) (.k 1)) o s 2 (g2 s) 1 Hints.none_ ∧ handled s o x k ∧ x = 1 ∧ k.owner = some 7 :=
  ⟨opI (.hbind false 5 (.k 0) (.k 1)) Hints.none_, held { bound with owner := some 7 } [63, 1], 1, { bound with owner := some 7 }, ready_of (by decide),
    ⟨((withK []).crew? 1).getD aCrew, by decide, by decide, by decide, by decide⟩, by decide⟩

theorem wit_Handles_hbind_free : ∃ (o : Op) (s : State) (x : Word) (k : Handle), Ready (.hbind false 5 (.k 0) (.k 1)) o s 2 (g2 s) 1 Hints.none_ ∧ handled s o x k ∧ x = 0 ∧ k.owner = some 1 ∧
    k.st ≠ .filling ∧ k.st ≠ .draining ∧ s.handleFrozen 1 63 = false :=
  ⟨opI (.hbind false 5 (.k 0) (.k 1)) Hints.none_, held bound [63, 0], 0, bound, ready_of (by decide),
    ⟨((withK []).crew? 1).getD aCrew, by decide, by decide, by decide, by decide⟩, by decide⟩

theorem wit_Handles_hbind_not : ∃ (o : Op) (s : State) (x : Word) (k : Handle), Ready (.hbind false 5 (.k 0) (.k 1)) o s 2 (g2 s) 1 Hints.none_ ∧ handled s o x k ∧ x = 0 ∧ k.owner ≠ some 1 :=
  ⟨opI (.hbind false 5 (.k 0) (.k 1)) Hints.none_, held Handle.reset [63, 0], 0, Handle.reset, ready_of (by decide),
    ⟨((withK []).crew? 1).getD aCrew, by decide, by decide, by decide, by decide⟩, by decide⟩

/-! ## Tile records and the matrix instructions -/

/-- PLANES tiles of one block for the A and the B operand, and an accumulator tile. -/
def tileA : List Word := [0x1000, 0, 0x00400020, 0x08080804, 144, 0, 0, 0]
def tileB : List Word := [0x4000, 0, 0x00200040, 0x09080804, 144, 0, 0, 0]
def tileC : List Word := [0x8000, 0, 0x00200020, 0x40000000, 8, 0, 0, 0]

/-- The lone task with the three records, valid, and words in k registers. -/
def tiled (ws : List Word) : State :=
  (withK ws).mapCrew 1 fun c => { c with tiles := [(0, ⟨imageOf tileA, true, true⟩), (1, ⟨imageOf tileB, true, true⟩), (2, ⟨imageOf tileC, true, true⟩)] }

theorem wit_Tiles_set : ∃ (o : Op) (s : State) (g : Gang) (c : Crew), s.crew? g.crew = some c ∧ Ready (.tlrSet (.k 8) (.k 0)) o s 2 g 1 Hints.none_ ∧
    o.opnd s g 1 Hints.none_ .u ((lanesOf 1).headD 0) (.k 8) = word 63 ∧ tileBad (imageOf ((List.range 8).map fun j => g.readK (0 + j))) = none :=
  ⟨opI (.tlrSet (.k 8) (.k 0)) Hints.none_, withK (tileA ++ [63]), _, (base.crew? 1).getD aCrew, by decide, ready_of (by decide), by decide, by decide⟩

theorem wit_Tiles_set_held : ∃ (o : Op) (s : State) (g : Gang) (c : Crew), s.crew? g.crew = some c ∧ Ready (.tlrSet (.k 8) (.k 0)) o s 2 g 1 Hints.none_ ∧
    o.opnd s g 1 Hints.none_ .u ((lanesOf 1).headD 0) (.k 8) = word 2 ∧ tileBad (imageOf ((List.range 8).map fun j => g.readK (0 + j))) = none ∧ (c.tiles.find? 2).isSome = true :=
  ⟨opI (.tlrSet (.k 8) (.k 0)) Hints.none_, tiled (tileA ++ [2]), _, ((tiled []).crew? 1).getD aCrew, by decide, ready_of (by decide), by decide, by decide, by decide⟩

theorem wit_Tiles_inv : ∃ (o : Op) (s : State) (g : Gang), Ready (.tlrInv .ones) o s 2 g 1 Hints.none_ ∧
    o.opnd s g 1 Hints.none_ .u ((lanesOf 1).headD 0) .ones = word 4294967295 :=
  ⟨opI (.tlrInv .ones) Hints.none_, base, _, ready_of (by decide), by decide⟩

theorem wit_Tiles_inv_one : ∃ (o : Op) (s : State) (g : Gang), Ready (.tlrInv .zero) o s 2 g 1 Hints.none_ ∧
    o.opnd s g 1 Hints.none_ .u ((lanesOf 1).headD 0) .zero = word 0 :=
  ⟨opI (.tlrInv .zero) Hints.none_, base, _, ready_of (by decide), by decide⟩

theorem wit_Tiles_rd : ∃ (o : Op) (s : State) (g : Gang), Ready (.tlrRd false 5 (.k 0) (.k 1)) o s 2 g 1 Hints.none_ ∧
    o.opnd s g 1 Hints.none_ .u ((lanesOf 1).headD 0) (.k 0) = word 2 ∧ o.opnd s g 1 Hints.none_ .u ((lanesOf 1).headD 0) (.k 1) = word 7 :=
  ⟨opI (.tlrRd false 5 (.k 0) (.k 1)) Hints.none_, tiled [2, 7], _, ready_of (by decide), by decide, by decide⟩

/-- The operation of a check. -/
def opOfCheck (r : State × Except Flt ArrayOp) : ArrayOp :=
  match r.2 with
  | .ok p => p
  | .error _ => ⟨0, false, 0, 0, 0, 0, 0, 0, 0, 0, [], [], [], [], [], none, 0⟩

theorem ok_of {r : State × Except Flt ArrayOp} (h : (match r.2 with | .ok _ => true | .error _ => false) = true) : r = (r.1, .ok (opOfCheck r)) := by
  obtain ⟨s, x⟩ := r
  cases x with
  | ok p => rfl
  | error e => cases h

theorem wit_Matrix_mma : ∃ (o : Op) (s : State) (g : Gang) (c : Crew) (u : State) (p : ArrayOp), s.crewOf g = some c ∧ Ready (.mma 96 .zero (.k 0)) o s 2 g 1 Hints.none_ ∧
    (o.begun s 2 g 1).checkMma c (o.given s 2 g 1 Hints.none_) 96 (o.opnd s g 1 Hints.none_ .u ((lanesOf 1).headD 0) .zero)
      (o.opnd s g 1 Hints.none_ .u ((lanesOf 1).headD 0) (.k 0)) = (u, .ok p) :=
  ⟨opI (.mma 96 .zero (.k 0)) Hints.none_, tiled [0x04000000], _, ((tiled []).crew? 1).getD aCrew, _, _, by decide, ready_of (by decide), ok_of (by decide)⟩

/-- HX.EXT with SRC3 = k1. -/
def src3k1 : Hints := ⟨none, some 0x810000, none⟩

theorem wit_Matrix_mmas : ∃ (o : Op) (s : State) (g : Gang) (c : Crew) (u : State) (p : ArrayOp), s.crewOf g = some c ∧ Ready (.mmas .zero (.k 0)) o s 2 g 1 src3k1 ∧
    (o.begun s 2 g 1).checkMmas c (o.given s 2 g 1 src3k1) (o.opnd s g 1 src3k1 .u ((lanesOf 1).headD 0) .zero)
      (o.opnd s g 1 src3k1 .u ((lanesOf 1).headD 0) (.k 0)) (o.opnd s g 1 src3k1 .u ((lanesOf 1).headD 0) src3k1.src3) = (u, .ok p) :=
  ⟨opI (.mmas .zero (.k 0)) src3k1, (State.with0 (tiled [0x04000000, 0x08000000]) fun t => { t with hints := src3k1 }), _, ((tiled []).crew? 1).getD aCrew, _, _,
    by decide, ready_of (by decide), ok_of (by decide)⟩

end Sys2Proof.Tests
end

