-- ==== Sys2Proof/Tests/WitnessSystem.lean ====
section
/-! SUPPORT. Witnesses for the hypotheses of the statements about ends of threads, code fetches, launches, services, frozen objects, interrupts and translations. -/

namespace Sys2Proof.Tests

open Sys2Proof.Machine Sys2Proof.Claims

set_option maxRecDepth 100000

/-! ## Threads and code -/

theorem wit_ThreadsEnd : ∃ (o1 o2 : Op) (s : State) (g : Gang), Ready .exit o1 s 2 g 1 Hints.none_ ∧ Ready .taskend o2 s 2 g 1 Hints.none_ ∧ g.hslot = none ∧
    (∀ p ∈ s.gangs, p.2.crew = g.crew → ∀ x ∈ p.2.threads, x.run ≠ .blocked) ∧ ∃ k x, s.gang? k = some x ∧ x.crew = g.crew ∧ x.hslot = none ∧ x.threads.length = 32 :=
  ⟨_, _, base, g2 base, ready_of (by decide), ready_of (by decide), by decide, by decide, 2, g2 base, by decide⟩

theorem wit_CodeFetch : ∃ (o : Op) (s : State) (g : Gang), Ready (.cfetch .ones .ones) o s 2 g 1 Hints.none_ ∧
    ∀ l ∈ lanesOf 1, (o.opnd s g 1 Hints.none_ .u l .ones).toNat % 131072 = 131071 :=
  ⟨opI (.cfetch .ones .ones) Hints.none_, base, _, ready_of (by decide), by decide⟩

/-- Core 0 with a segment of context 0 in some state. -/
def segmented (st : SegState) (shadow : Bool) : State := base.mapCore 0 fun c => { c with segs := [⟨0, 131071, st, 0, [], 0, shadow, 0, 0, 0⟩] }

theorem wit_CodeFetch_states : ∀ st : SegState, ∃ x, (segmented st false).seg? 0 0 131071 = some x ∧ x.st = st := by
  intro st; cases st <;> exact ⟨_, rfl, rfl⟩

/-- Core 0 with 32 slots taken, all of them held or none. -/
def slotsFull (kept : Bool) : State :=
  let s := base.mapCore 0 fun c => { c with segs := (List.range 32).map fun n => ⟨0, 100 + n, .resident, 0, [], n, false, 0, 0, 0⟩ }
  if kept then s.mapCrew 1 fun c => { c with fetched := (List.range 32).map fun n => (0, 100 + n) } else s

theorem wit_CodeFetch_slots (kept : Bool) : (slotsFull kept).seg? 0 0 131071 = none ∧
    let others := ((slotsFull kept).core 0).segs.filter fun x => decide (x.st ≠ .refused) && !(x.ctx == 0 && x.seg == 131071)
    32 ≤ others.length ∧ ((∃ x ∈ others, (slotsFull kept).segHeld 0 x = false) ↔ kept = false) ∧ ((∀ x ∈ others, (slotsFull kept).segHeld 0 x = true) ↔ kept = true) := by
  cases kept <;> decide

theorem wit_CodeFetch_room : (segmented .faulted false).seg? 0 0 131071 = some ⟨0, 131071, .faulted, 0, [], 0, false, 0, 0, 0⟩ ∧
    (((segmented .faulted false).core 0).segs.filter fun x => decide (x.st ≠ .refused) && !(x.ctx == 0 && x.seg == 131071)).length < 32 := by decide

/-! ## Launches and services -/

/-- A value that is there. -/
theorem except_of {α ε : Type} {x : Except ε α} (d : α) (h : (match x with | .ok _ => true | .error _ => false) = true) :
    x = .ok (match x with | .ok y => y | .error _ => d) := by
  cases x with
  | ok y => rfl
  | error e => cases h

theorem pair_ok {α β ε : Type} [DecidableEq β] {x : α × Except ε β} {b : β} (h : (match x.2 with | .ok y => decide (y = b) | .error _ => false) = true) :
    x = (x.1, .ok b) := by
  obtain ⟨s, x⟩ := x
  cases x with
  | ok y => simp only [decide_eq_true_eq] at h; rw [h]
  | error e => cases h

theorem except_set {ε β : Type} [DecidableEq β] {x : Except ε β} {b : β} (h : (match x with | .ok y => decide (y = b) | .error _ => false) = true) : x = .ok b := by
  cases x with
  | ok y => simp only [decide_eq_true_eq] at h; rw [h]
  | error e => cases h

/-- A launch record at 0x100000: a header with one stage, LEN 256, format 1; a stage of one task of one gang on one core. -/
def launchBytes : List Byte :=
  List.replicate 20 0 ++ bytesOf 4 256 ++ [1] ++ List.replicate 102 0 ++ [1] ++ (bytesOf 4 0x100 ++ bytesOf 2 1 ++ [1, 1] ++ [128, 96] ++ bytesOf 2 1 ++ [0, 0, 4] ++ List.replicate 113 0)

def launching : State := (pagedK [0x100000, 0]).store 0x100000 launchBytes

theorem wit_LaunchResults : ∃ (o : Op) (s s1 u : State) (g : Gang) (h : Hints) (r : Nat → Word), Ready (.launch false 5 (.k 0) .zero) o s 2 g 1 h ∧
    (o.begun s 2 g 1).pin (o.reader g 1) = .ok s1 ∧ lostLanesOf s1 (o.given s 2 g 1 h) = [] ∧
    Chain (LaunchLink (o.given s 2 g 1 h) g h (fun l => o.opnd2 s g 1 h l (.k 0)) (fun l => (o.opnd s g 1 h .u l .zero).toNat) r) s1 (lanesOf 1) u :=
  ⟨opI (.launch false 5 (.k 0) .zero) Hints.none_, launching, _, _, g2 launching, Hints.none_, fun _ => word 0, ready_of (by decide), except_of base (by decide), by decide,
    ⟨_, ⟨by decide, by decide, _, launchBytes.take 128, pair_ok (by decide), by
      rw [show State.headReason _ _ _ _ = none by decide]
      refine ⟨_, launchBytes.drop 128, pair_ok (by decide), ?_⟩
      simp only []
      rw [show State.restReason _ _ _ _ = none by decide]
      exact ⟨rfl, by decide⟩⟩, rfl⟩⟩

/-- The lone task whose second 2 GiB are mapped, with a service queue of two 16-byte requests there, at 0x100000, and a pool whose first record has its STATE at their begin. -/
def served : State :=
  ((((((withK [0x100000]).mapCtx 0 fun c => { c with ptroot := 0x8000, regBase := 0x80000000 - 0x31384600 }).store 0x8000 (bytesOf 8 0x10001)).store 0x10008
    (bytesOf 8 idLeaf.toNat)).store 0x100020 (bytesOf 8 0x80200000)).store 0x100028 (bytesOf 4 0x841)).mapDie 0 fun d => { d with svcQ := 0x80100000 }

/-- The state of a push. -/
def pushed (x : Option State) : State := x.getD base

theorem some_of {α : Type} {x : Option α} (d : α) (h : x.isSome = true) : x = some (x.getD d) := by
  cases x with
  | none => cases h
  | some y => rfl

theorem wit_Services_svc : ∃ (o : Op) (s u : State) (g : Gang) (c : Crew) (x : Word) (r : Nat), Ready (.svc 5 (.k 0) .lane) o s 2 g 1 Hints.none_ ∧ s.crewOf g = some c ∧
    s.unpinnedOf g = false ∧ g.hslot = none ∧ (∀ l ∈ lanesOf 1, o.opnd s g 1 Hints.none_ .u l (.k 0) = x) ∧ (o.begun s 2 g 1).freeRecord g.ctx = some r ∧
    (o.begun s 2 g 1).recordRace 2 g.ctx r = none ∧ ((o.begun s 2 g 1).writeRecord (o.given s 2 g 1 Hints.none_) c r 5 (lanesOf 1)).pushService (dieOf g.core) g.ctx g.crew? (serviceRequest g.ctx r x.toNat (maskOf (lanesOf 1))) = some u :=
  ⟨opI (.svc 5 (.k 0) .lane) Hints.none_, served, _, g2 served, (served.crew? 1).getD aCrew, 0x100000, 0, ready_of (by decide), by decide, by decide, by decide, by decide, by decide, by decide,
    some_of base (by decide)⟩

/-- Two lanes, a record for each in one page, would ask twice; here a record that crosses a page: its second page is asked for too. -/
theorem wit_Services_cross : (0x41380000 : DWord).toNat % 524288 + 18432 ≤ 524288 ∧ ¬ ((0x413FFFF0 : DWord).toNat % 524288 + 18432 ≤ 524288) := by decide

theorem wit_Services_full : ∃ (o : Op) (s : State) (g : Gang) (c : Crew) (x : Word), Ready (.svc 5 .zero .lane) o s 2 g 1 Hints.none_ ∧ s.crewOf g = some c ∧
    s.unpinnedOf g = false ∧ g.hslot = none ∧ (∀ l ∈ lanesOf 1, o.opnd s g 1 Hints.none_ .u l .zero = x) ∧ (o.begun s 2 g 1).freeRecord g.ctx = none :=
  ⟨opI (.svc 5 .zero .lane) Hints.none_, base, g2 base, (base.crew? 1).getD aCrew, 0, by and_intros <;> first | exact ready_of (by decide) | decide⟩

/-- The lone task at exception level with a PENDING record, the first of its pool. -/
def spawning : State :=
  (((pagedK [0x41380000, 0]).store 0x41384600 (bytesOf 4 1)).mapLaunch 0 0 fun l => { l with records := [0] }).mapGang 2 fun g => { g with level := 1 }

theorem wit_Services_spawn : ∃ (o : Op) (s u : State) (g : Gang) (r : Nat → Word), Ready (.spawn false 5 (.k 0)) o s 2 g 1 Hints.none_ ∧
    Chain (SpawnLink (o.given s 2 g 1 Hints.none_) (o.reader g 1) (fun l => o.opnd2 s g 1 Hints.none_ l (.k 0)) r) (o.begun s 2 g 1) (lanesOf 1) u :=
  ⟨opI (.spawn false 5 (.k 0)) Hints.none_, spawning, _, _, fun _ => word 1, ready_of (by decide),
    ⟨_, ⟨_, _, 0x41380000, some 0x82700001C7, 0, 0, (spawning.launch? 0 0).getD (loneLaunch 0), pair_of (by decide), by rw [if_pos (by decide)], by decide, by decide,
      by decide, by decide, rfl, by decide⟩, rfl⟩⟩

/-! ## Frozen objects -/

/-- A record of no interest. -/
def aRec : Rec := ⟨0, 0, 0, 0, 0, 0, 0, 0, 0, 0, false, false, 0, 0, 0, 0, 0, 0, 0, 0, none, 0⟩

/-- Two gangs of the lone task's crew: gang 2 at exception level with words in k registers; lane 0 of gang 3 lies frozen in set 255 of context 0, of generation 0xFFFF. -/
def frozen (ws : List Word) : State :=
  let s := withK ws
  let g := g2 s
  { s with gangs := [(2, { g with level := 1 }), (3, ({ g with index := 1, slot := 1, k := [(5, 7)] } : Gang).setTh 0 { g.th 0 with run := .frozen, fset := 255 })] }.mapCtx 0
    fun c => { c with sets := [(255, ⟨3, 1, aRec, .owned, none⟩)], gens := [(255, 0xFFFF)] }

theorem sameRegs_refl (g : Gang) : SameRegs g g := ⟨rfl, rfl, rfl⟩

theorem wit_Frozen_frd : ∃ (o : Op) (s u : State) (g : Gang) (x : Nat → Word), Ready (.frd 9 (.k 0) (.k 2)) o s 2 g 1 Hints.none_ ∧
    Chain (FrdLink (o.reader g 1) (fun l => o.opnd2 s g 1 Hints.none_ l (.k 0)) (fun l => o.opnd s g 1 Hints.none_ .u l (.k 2)) x) (o.begun s 2 g 1) (lanesOf 1) u :=
  ⟨opI (.frd 9 (.k 0) (.k 2)) Hints.none_, frozen [255, 0xFFFF0000, 0x10005], _, _, fun _ => 7, ready_of (by decide),
    ⟨_, ⟨by decide, .set 0 255, except_set (by decide), pair_of (by decide)⟩, rfl⟩⟩

theorem wit_Frozen_fwr : ∃ (o : Op) (s u : State) (g : Gang), Ready (.fwr 9 (.k 0) (.k 2)) o s 2 g 1 Hints.none_ ∧
    Chain (FwrLink (o.reader g 1) (fun l => o.opnd2 s g 1 Hints.none_ l (.k 0)) (fun l => o.opnd s g 1 Hints.none_ .u l (.k 2)) (fun l => g.readV l 9)) (o.begun s 2 g 1) (lanesOf 1) u :=
  ⟨opI (.fwr 9 (.k 0) (.k 2)) Hints.none_, frozen [255, 0xFFFF0000, 0x20000], _, _, ready_of (by decide),
    ⟨_, ⟨by decide, by decide, .set 0 255, except_set (by decide), except_of base (by decide)⟩, rfl⟩⟩

theorem wit_Frozen_fres : ∃ (o : Op) (s u : State) (g : Gang) (y : Nat → DWord), Ready (.fres false 10 (.k 0) (.k 2)) o s 2 g 1 Hints.none_ ∧
    Chain (FresLink (o.reader g 1) (fun l => o.opnd2 s g 1 Hints.none_ l (.k 0)) (fun l => (o.opnd s g 1 Hints.none_ .u l (.k 2)).toNat) (fun _ => 0) y) (o.begun s 2 g 1) (lanesOf 1) u :=
  ⟨opI (.fres false 10 (.k 0) (.k 2)) Hints.none_, frozen [255, 0xFFFF0000, 1], _, _, fun _ => 0, ready_of (by decide),
    ⟨_, ⟨by decide, by decide, .set 0 255, except_set (by decide), pair_of (by decide)⟩, rfl⟩⟩

theorem wit_Frozen_fkill : ∃ (o : Op) (s u : State) (g : Gang) (y : Nat → DWord), Ready (.fkill false 10 (.k 0) (.k 2)) o s 2 g 1 Hints.none_ ∧
    Chain (FkillLink (o.reader g 1) (fun l => o.opnd2 s g 1 Hints.none_ l (.k 0)) (fun l => (o.opnd s g 1 Hints.none_ .u l (.k 2)).toNat) y) (o.begun s 2 g 1) (lanesOf 1) u :=
  ⟨opI (.fkill false 10 (.k 0) (.k 2)) Hints.none_, frozen [255, 0xFFFF0000, 1], _, _, fun _ => 0, ready_of (by decide),
    ⟨_, ⟨by decide, .set 0 255, except_set (by decide), pair_of (by decide)⟩, rfl⟩⟩

/-- The gang of the frozen set. -/
def frozenGang : Gang := ((frozen []).gang? 3).getD noGang

/-- FrozenObjects: the set and its lanes, and selectors of a register, of k and of lane states. -/
theorem wit_Frozen_gang : (frozen []).gang? 3 = some frozenGang := rfl

theorem wit_Frozen_set : ((frozen []).ctx 0).sets.find? 255 = some ⟨3, 1, aRec, .owned, none⟩ ∧ frozenGang.resid ≠ .switched ∧ frozenGang.threads.length = 32 ∧
    capKind 0xFFFF0000000000FF = false := by decide

theorem wit_Frozen_lines : ∀ n, frozenGang.holdsLine n = true := by
  have h : frozenGang.absent = [] ∧ frozenGang.backed = [] := by decide
  intro n
  simp only [Gang.holdsLine, h.1, h.2, List.contains_nil, Bool.not_false, Bool.and_self]

theorem wit_Frozen_selectors : ([0, 0x1F7F, 0x10005, 0x20000, 0x20006] : List Word).all (fun x => !selBad 0xFFFF0000000000FF x) = true := by decide

/-- The registers of the executing gang are what they were, as FrozenObjects asks. -/
theorem wit_Frozen_regs : ∃ (o : Op) (s : State) (g : Gang), Ready (.frd 9 (.k 0) (.k 2)) o s 2 g 1 Hints.none_ ∧ ∃ g', (o.begun s 2 g 1).gang? 2 = some g' ∧ SameRegs (o.reader g 1) g' :=
  ⟨opI (.frd 9 (.k 0) (.k 2)) Hints.none_, frozen [255, 0xFFFF0000, 0x10005], _, ready_of (by decide),
    (frozen [255, 0xFFFF0000, 0x10005]).gang? 2 |>.getD noGang, by decide, by decide, by decide, by decide⟩

/-! ## Interrupts -/

theorem wit_Interrupts_send : ∃ (o : Op) (s : State) (g : Gang), Ready (.uliSend (.k 0) .lane) o s 2 g 1 Hints.none_ ∧ s.unpinnedOf g = false ∧
    (∀ l ∈ lanesOf 1, storeLost (o.begun s 2 g 1) (o.given s 2 g 1 Hints.none_) l = false) ∧ ∀ l ∈ lanesOf 1, epValid (o.opnd2 s g 1 Hints.none_ l (.k 0)) = true :=
  ⟨opI (.uliSend (.k 0) .lane) Hints.none_, withK [3, 0xFF000000], _, ready_of (by decide), by decide, by decide, by decide⟩

theorem wit_Interrupts_mask : ∃ (o : Op) (s u : State) (g : Gang) (r : Nat → Word), Ready (.uliMask false 5 (.k 0) .ones) o s 2 g 1 Hints.none_ ∧
    Chain (MaskLink g (fun l => (o.opnd s g 1 Hints.none_ .u l (.k 0)).toNat) (fun l => o.opnd s g 1 Hints.none_ .u l .ones) r) (o.begun s 2 g 1) (lanesOf 1) u :=
  ⟨opI (.uliMask false 5 (.k 0) .ones) Hints.none_, withK [0x303], _, g2 (withK [0x303]), fun _ => 0, ready_of (by decide), ⟨_, ⟨by decide, by decide, by decide, rfl⟩, rfl⟩⟩

theorem wit_Interrupts_bind : ∃ (o : Op) (s : State) (g : Gang), Ready (.uliBind false 5 (.k 0)) o s 2 g 1 Hints.none_ ∧ (o.opnd s g 1 Hints.none_ .u ((lanesOf 1).headD 0) (.k 0)).toNat = 0x103 ∧
    ((o.begun s 2 g 1).endpoint g.ctx 3).bound = none :=
  ⟨opI (.uliBind false 5 (.k 0)) Hints.none_, withK [0x103], _, ready_of (by decide), by decide, by decide⟩

theorem wit_Interrupts_bind_not : ∃ (o : Op) (s : State) (g : Gang), Ready (.uliBind false 5 (.k 0)) o s 2 g 1 Hints.none_ ∧ (o.opnd s g 1 Hints.none_ .u ((lanesOf 1).headD 0) (.k 0)).toNat = 3 ∧
    ¬ (((o.begun s 2 g 1).endpoint g.ctx 3).bound = some g.bindNum ∨ ((3 : Nat).testBit 8 = true ∧ ((o.begun s 2 g 1).endpoint g.ctx 3).bound = none)) :=
  ⟨opI (.uliBind false 5 (.k 0)) Hints.none_, withK [3], _, ready_of (by decide), by decide, by decide⟩

/-- Endpoint 3 of context 0 bound to gang 2, with pending vectors and a mask. -/
def waitingAt (mask : DWord) : State :=
  (withK [3]).mapCtx 0 fun c => { c with eps := List.replicate 3 Endpoint.reset ++ [⟨[⟨63, 7, 1, 9, 1⟩, ⟨0, 8, 2, 4, 0⟩], mask, some (g2 base).bindNum, 0, 2⟩] }

theorem wit_Interrupts_wait : ∃ (o : Op) (s : State) (g : Gang) (v : Vector_), Ready (.uliWait 124 (.k 0) .zero) o s 2 g 1 Hints.none_ ∧ (o.opnd s g 1 Hints.none_ .u ((lanesOf 1).headD 0) (.k 0)).toNat = 3 ∧
    ((o.begun s 2 g 1).endpoint g.ctx 3).bound = some g.bindNum ∧ ((o.begun s 2 g 1).endpoint g.ctx 3).deliverable = some v :=
  ⟨opI (.uliWait 124 (.k 0) .zero) Hints.none_, waitingAt 0, _, ⟨0, 8, 2, 4, 0⟩, ready_of (by decide), by decide, by decide, by decide⟩

theorem wit_Interrupts_wait_not : ∃ (o : Op) (s : State) (g : Gang), Ready (.uliWait 124 (.k 0) .zero) o s 2 g 1 Hints.none_ ∧ (o.opnd s g 1 Hints.none_ .u ((lanesOf 1).headD 0) (.k 0)).toNat = 3 ∧
    ((o.begun s 2 g 1).endpoint g.ctx 3).bound = some g.bindNum ∧ ((o.begun s 2 g 1).endpoint g.ctx 3).deliverable = none :=
  ⟨opI (.uliWait 124 (.k 0) .zero) Hints.none_, waitingAt 0xFFFFFFFFFFFFFFFF, _, ready_of (by decide), by decide, by decide, by decide⟩

theorem wit_Interrupts_vector : ∃ (ep : Endpoint) (v : Vector_), ep.deliverable = some v :=
  ⟨⟨[⟨63, 7, 1, 9, 1⟩, ⟨0, 8, 2, 4, 0⟩], 0, none, 0, 2⟩, ⟨0, 8, 2, 4, 0⟩, by decide⟩

/-! ## Translation -/

theorem wit_Translation_invl : ∃ (o : Op) (s : State) (g : Gang) (w : Nat → Sweep), Ready (.invl (.k 0) (.k 2)) o s 2 g 1 Hints.none_ ∧
    ∀ l ∈ lanesOf 1, (o.opnd s g 1 Hints.none_ .u l (.k 2)).toNat = 1048576 ∧ (o.opnd2 s g 1 Hints.none_ l (.k 0)).toNat < 36028797018963968 ∧ s.sameTenancy g g.ctx = true ∧
      w l = ⟨some g.ctx, (o.opnd2 s g 1 Hints.none_ l (.k 0)).toNat / 524288, 1048576, true⟩ :=
  ⟨opI (.invl (.k 0) (.k 2)) Hints.none_, (withK [0xFFFFFFFF, 0x7FFFFF, 1048576]).mapGang 2 fun g => { g with level := 2 }, _, fun _ => ⟨some 0, 68719476735, 1048576, true⟩,
    ready_of (by decide), by decide⟩

theorem wit_Translation_invla : ∃ (o1 o2 : Op) (s : State) (g : Gang), Ready (.invla .ones) o1 s 2 g 1 Hints.none_ ∧ (∀ l ∈ lanesOf 1, o1.opnd s g 1 Hints.none_ .u l .ones = 4294967295) ∧
    Ready (.invla .zero) o2 s 2 g 1 Hints.none_ ∧ ∀ l ∈ lanesOf 1, o2.opnd s g 1 Hints.none_ .u l .zero ≠ 4294967295 ∧ s.sameTenancy g (o2.opnd s g 1 Hints.none_ .u l .zero).toNat = true :=
  ⟨opI (.invla .ones) Hints.none_, opI (.invla .zero) Hints.none_, atLevel 2, _, ready_of (by decide), by decide, ready_of (by decide), by decide⟩

theorem wit_Translation_pgqry : ∃ (o : Op) (s : State) (g : Gang), Ready (.pgqry 126 (.k 0)) o s 2 g 1 Hints.none_ ∧
    ∀ l ∈ lanesOf 1, s.inTransit g.ctx (o.opnd2 s g 1 Hints.none_ l (.k 0)) = false :=
  ⟨opI (.pgqry 126 (.k 0)) Hints.none_, pagedK [0x100000, 0], _, ready_of (by decide), by decide⟩

/-- Address 0x100000 lies in a migratable page in transit. -/
def moving : State :=
  ((((withK [0x100000, 0]).mapCtx 0 fun c => { c with ptroot := 0x8000 }).store 0x8000 (bytesOf 8 0x10001)).store 0x10000 (bytesOf 8 0x18001)).store 0x18010 (bytesOf 8 0x200000000C002000)

theorem wit_Translation_pgqry_moving : ∃ (o : Op) (s : State) (g : Gang), Ready (.pgqry 126 (.k 0)) o s 2 g 1 Hints.none_ ∧
    ∀ l ∈ lanesOf 1, s.inTransit g.ctx (o.opnd2 s g 1 Hints.none_ l (.k 0)) = true :=
  ⟨opI (.pgqry 126 (.k 0)) Hints.none_, moving, _, ready_of (by decide), by decide⟩

theorem wit_Translation_pgqry_high : ∃ (o : Op) (s : State) (g : Gang), Ready (.pgqry 126 (.k 0)) o s 2 g 1 Hints.none_ ∧
    ∀ l ∈ lanesOf 1, 36028797018963968 ≤ (o.opnd2 s g 1 Hints.none_ l (.k 0)).toNat :=
  ⟨opI (.pgqry 126 (.k 0)) Hints.none_, withK [0, 0x800000], _, ready_of (by decide), by decide⟩

end Sys2Proof.Tests
end

