-- ==== Sys2Proof/Tests/WitnessDevice.lean ====
section
/-! SUPPORT. Witnesses for the hypotheses of the statements about steps of the device: waiting lanes, code segments, errors, fault records, rings, commands, arrays. -/

namespace Sys2Proof.Tests

open Sys2Proof.Machine Sys2Proof.Claims

set_option maxRecDepth 100000

/-- The window of a crew whose one core is core 0, and whose one block is block 0. -/
theorem window_of {s : State} {c : Crew} (h1 : c.portion = 1 ∧ c.cores = [0] ∧ c.blocks = [0]) (hl : s.blockLive 0 0 = true) {va n : Nat}
    (h : va + n ≤ 65536) : windowAt s c va n (0x10000000000 + va) := by
  intro j hj
  have hx : (dword (va + j)).toNat = va + j := by simp only [dword, BitVec.toNat_ofNat]; omega
  have hb : (va + j).testBit 31 = false := Nat.testBit_lt_two_pow (by omega)
  have h28 : bitsAt (va + j) 28 3 = 0 := by simp only [bitsAt]; omega
  have h0 : bitsAt (va + j) 0 28 = va + j := by simp only [bitsAt]; omega
  have hr : regionOf (0x10000000000 + va + j) = .vault 0 (va + j) := by
    have h1 : ¬ 0x10000000000 + va + j < 0x10000000000 := by omega
    have h2 : vaultBase ≤ 0x10000000000 + va + j ∧ 0x10000000000 + va + j < 0x10050000000 := ⟨by rw [vaultBase]; omega, by omega⟩
    have h3 : (0x10000000000 + va + j - vaultBase) / 0x800000 = 0 ∧ (0x10000000000 + va + j - vaultBase) % 0x800000 = va + j := by
      rw [vaultBase]; omega
    rw [regionOf, if_neg h1, if_pos h2, h3.1, h3.2]
  refine ⟨?_, 0, va + j, hr, ?_⟩
  · have hp : c.winPa (va + j) = 0x10000000000 + va + j := by
      simp only [Crew.winPa, h1, vaultPa, vaultBase]
      have : (va + j) / (1 * 65536) = 0 := by omega
      simp only [this]
      simp
      omega
    have hs : ¬ c.winSize < va + j + 1 := by simp only [Crew.winSize, h1]; simp; omega
    simp only [State.vaultByte, State.vaultLoc, hx, hb, h28, h0]
    rw [if_neg (by omega)]
    simp [Nat.mod_one, hs, hp]
  · rw [show (va + j) / 0x10000 = 0 by omega]; exact hl
/-- The value of a computation that has one. -/
def okOr {α ε : Type} (d : α) : Except ε α → α
  | .ok x => x
  | .error _ => d

theorem okOr_of {α ε : Type} {x : Except ε α} (d : α) (h : x.toBool = true) : x = .ok (okOr d x) := by
  cases x with
  | ok y => rfl
  | error e => cases h

/-! ## Waiting lanes -/

/-- A state whose lane 0 of gang 2 waits with p. -/
def State.waiting (s : State) (p : Pend) : State := State.with0 s fun t => { t with run := .blocked, wait := some p }

/-- What `LoneWait` says of lane 0 of gang 2, as far as it can be evaluated. -/
def loneB (s : State) (p : Pend) : Bool :=
  (s.gang? 2).isSome && decide ((g2 s).threads.length = 32) && decide (((g2 s).th 0).run = .blocked) && decide (((g2 s).th 0).wait = some p) &&
    (List.range 32).all (fun m => m == 0 || decide (((g2 s).th m).run ≠ .blocked)) && decide (((g2 s).th 0).pc.toNat % 0x8000 ≠ 0x7FFC)

theorem lone_of {s : State} {p : Pend} (b : loneB s p = true) : LoneWait s 2 (g2 s) 0 p := by
  simp only [loneB, Bool.and_eq_true, decide_eq_true_eq, List.all_eq_true, Bool.or_eq_true, beq_iff_eq, List.mem_range] at b
  obtain ⟨⟨⟨⟨⟨h1, h2⟩, h3⟩, h4⟩, h5⟩, h6⟩ := b
  exact ⟨gang_of h1, h2, by decide, h3, h4, fun m hm hn => (h5 m hm).resolve_left hn, h6⟩

/-- WAITH on handle 63 until bit x of its state or a count is reached. -/
def waithPend (x : Word) : Pend := ⟨.waith (.k 0) (.k 1), Hints.none_, [word 63, x], [], .handle 63, 0, 0⟩

def waithing (k : Handle) (x : Word) : State := State.waiting (held k []) (waithPend x)

theorem wit_WaitsEnd : ∃ (s u : State) (g : Gang) (p : Pend) (o : Op) (out : LaneOut), LoneWait s 2 g 0 p ∧ (1 : Nat).testBit 0 = true ∧ p.asksModule = false ∧ p.why ≠ .access ∧
    (∀ seg, p.why ≠ .ownSegment seg) ∧ opOf p.insn p.hints = some o ∧
    o.body (s.bringLines 2 (o.form.target ++ linesOf [] o.form.kTarget)) (wakeEnv 2 g [0] p) = (u, [(0, out)]) ∧ ∃ g', u.gang? 2 = some g' ∧ SameRegs g g' :=
  ⟨waithing bound 1, waithing bound 1, g2 (waithing bound 1), waithPend 1, opI (.waith (.k 0) (.k 1)) Hints.none_, .done {}, lone_of (by decide),
    by decide, by decide, by decide, nofun, rfl, rfl, g2 (waithing bound 1), gang_of (by decide), sameRegs_refl _⟩

theorem wit_WaitsEnd_wait : ∃ (s : State) (p : Pend) (o : Op) (u : State) (why : Wait), LoneWait s 2 (g2 s) 0 p ∧ opOf p.insn p.hints = some o ∧
    o.body (s.bringLines 2 (o.form.target ++ linesOf [] o.form.kTarget)) (wakeEnv 2 (g2 s) [0] p) = (u, [(0, .wait why)]) ∧ why ≠ .access :=
  ⟨waithing bound 16, waithPend 16, opI (.waith (.k 0) (.k 1)) Hints.none_, waithing bound 16, .handle 63, lone_of (by decide), rfl, rfl, by decide⟩

theorem wit_WaitsEnd_handle : ∃ (s : State) (g : Gang) (p : Pend) (c : Crew) (x : Word), LoneWait s 2 g 0 p ∧ (1 : Nat).testBit 0 = true ∧ p.insn = .waith (.k 0) (.k 1) ∧
    p.why = .handle 63 ∧ p.vals = [word 63, x] ∧ s.crewOf g = some c ∧ (s.handle c.homeCore 63).owner = some g.crew ∧ x.getLsbD 31 = true :=
  ⟨waithing bound 0x80000000, _, waithPend 0x80000000, ((waithing bound 0).crew? 1).getD aCrew, 0x80000000, lone_of (by decide), by decide⟩

/-- Lane 0 waits for segment 131071, which core 0 has in some state. -/
def segPend : Pend := ⟨.nop, Hints.none_, [], [], .ownSegment 131071, 0, 0⟩

theorem wit_WaitsEnd_segment : ∀ st : SegState, ∃ (s : State) (g : Gang) (p : Pend) (x : Seg), LoneWait s 2 g 0 p ∧ p.why = .ownSegment 131071 ∧ s.seg? g.core g.ctx 131071 = some x ∧ x.st = st := by
  intro st
  refine ⟨State.waiting (segmented st false) segPend, g2 (State.waiting (segmented st false) segPend), segPend, ⟨0, 131071, st, 0, [], 0, false, 0, 0, 0⟩, ?_⟩
  cases st <;> exact ⟨lone_of (by decide), rfl, by decide, rfl⟩

/-! ## Code segments -/

/-- A segment being copied from a page that may be executed. -/
def copying (leaf : DWord) : State :=
  (((segmented .fetching false).mapCtx 0 fun c => { c with ptroot := 0x8000 }).store 0x8000 (bytesOf 8 0x10001)).store 0x10008 (bytesOf 8 leaf.toNat)

theorem wit_CodeSegments_landed : ∃ (s u : State) (x : Seg) (pa : Nat), s.seg? 0 0 131071 = some x ∧ x.st = .fetching ∧ s.copySeg 0 x = (u, .bytes pa) :=
  ⟨copying 0x1CF, _, ⟨0, 131071, .fetching, 0, [], 0, false, 0, 0, 0⟩, 0x7FFF8000, by decide, rfl, pair_of (by decide +kernel)⟩

theorem wit_CodeSegments_faulted : ∃ (s u : State) (x : Seg) (f : Flt), s.seg? 0 0 131071 = some x ∧ x.st = .fetching ∧ s.copySeg 0 x = (u, .flt f) :=
  ⟨copying 0x1C7, _, ⟨0, 131071, .fetching, 0, [], 0, false, 0, 0, 0⟩, ⟨cXlatePerm, 3, 0xFFFF8000⟩, by decide, rfl, pair_of (by decide +kernel)⟩

theorem wit_CodeSegments_path : ∃ (s : State) (g : Gang) (c : Choice), s.gang? 2 = some g ∧ g.threads.length = 32 ∧ g.choose = some c ∧ s.fetch g (c.pc g) = none :=
  ⟨base, g2 base, ((g2 base).choose).getD ⟨[], []⟩, gang_of (by decide), by decide, by decide, by decide⟩

theorem wit_CodeSegments_retry : ∃ (s : State) (g : Gang) (x : Seg), s.seg? 0 0 131071 = some x ∧ x.st = .refused ∧ s.gangs = [(2, g)] ∧ g.core = 0 ∧ g.ctx = 0 ∧
    ∃ th ∈ g.threads, th.waitsOwn 131071 = true :=
  ⟨State.waiting (segmented .refused false) segPend, g2 (State.waiting (segmented .refused false) segPend), ⟨0, 131071, .refused, 0, [], 0, false, 0, 0, 0⟩, by decide, rfl, by decide, by decide, by decide, by decide⟩

/-! ## Errors -/

theorem wit_Errors_fill : ∃ (s : State) (g : Gang), s.gang? 2 = some g ∧ g.absent.contains 130 = true ∧ g.backed.contains 130 = false ∧ s.hasImage g = true ∧
    (s.cachedLines g.core g.subCore).length < Config.regCache :=
  ⟨paged.mapGang 2 fun g => { g with absent := [130] }, g2 (paged.mapGang 2 fun g => { g with absent := [130] }), gang_of (by decide), by decide, by decide, by decide, by decide⟩

theorem wit_Errors_backed : ∃ (s : State) (g : Gang), s.gang? 2 = some g ∧ g.backed.contains 130 = true :=
  ⟨base.mapGang 2 fun g => { g with backed := [130] }, g2 (base.mapGang 2 fun g => { g with backed := [130] }), gang_of (by decide), by decide⟩

theorem wit_Errors_clean : ∃ (s : State) (g : Gang), s.gang? 2 = some g ∧ g.absent.contains 130 = false ∧ g.clean.contains 130 = true :=
  ⟨base.mapGang 2 fun g => { g with clean := [130] }, g2 (base.mapGang 2 fun g => { g with clean := [130] }), gang_of (by decide), by decide⟩

theorem wit_Errors_lost : ∃ (s : State) (g : Gang), s.gang? 2 = some g ∧ g.absent.contains 0 = false ∧ g.clean.contains 0 = false ∧ s.hasCtx 0 = true :=
  ⟨base, g2 base, gang_of (by decide), by decide⟩

/-! ## Fault records -/

/-- Record 5 of class 6 from core 0, of the ring of crew 1. -/
def rec5 : Rec := { aRec with seq := 5, cls := 6, gkey := 2, crew := 1 }

/-- The lone task with records, claim entries, handler table and segment 0 RESIDENT. -/
def faulted (queue heldRecs : List Rec) (owner : Nat) : State :=
  { (base.mapCtx 0 fun c => { c with queue := queue, heldRecs := heldRecs, handlers := [(6, 0x100000000)] }).mapCore 0 fun c => { c with segs := [⟨0, 0, .resident, 0, [], 0, false, 0, 0, 0⟩] } with
    tens := [(0, { Tenancy.fresh 0xFF 1 with claims := [(6, ⟨owner, 3, 0x100000, 3⟩), (16, ⟨4, 0, 0, 0⟩)] })] }

theorem wit_Fault_held : ∃ (s : State) (r : Rec) (rest : List Rec), s.hasCtx 0 = true ∧ (s.ctx 0).heldRecs = r :: rest ∧ r.cls ≠ 0xFF ∧ waitingRecs (s.ctx 0).queue < Config.faultQueue :=
  ⟨faulted [] [rec5, aRec] 0, rec5, [aRec], by decide⟩

theorem wit_Fault_handler : ∃ (s : State) (r : Rec) (pc : Word), HandlerReady s 0 5 63 r pc :=
  ⟨faulted [rec5] [] 1, rec5, 0, by constructor <;> decide⟩

theorem wit_Fault_none : ∃ (s : State) (r : Rec) (c : Claim), s.hasCtx 0 = true ∧ (s.ctx 0).queued 5 = some r ∧ c = s.claimOf 0 (s.claimEntry 0 r) ∧ c.owner = 0 ∧
    (s.tens.find? (s.ctx 0).tenancy).isSome = true :=
  ⟨faulted [rec5] [] 0, rec5, _, by decide, by decide, rfl, by decide⟩

/-- The same with page tables and an owner queue of two records. -/
def owned (owner : Nat) : State :=
  ((((((faulted [rec5] [] owner).mapCtx 0 fun c => { c with ptroot := 0x8000 }).store 0x8000 (bytesOf 8 0x10001)).store 0x10000 (bytesOf 8 idLeaf.toNat)).store 0x100020 (bytesOf 8 0x200000))).store
    0x100028 (bytesOf 4 0x8C1)

theorem wit_Fault_queue : ∃ (s u : State) (r : Rec) (c : Claim) (q : Queue), s.hasCtx 0 = true ∧ (s.ctx 0).queued 5 = some r ∧ c = s.claimOf 0 (s.claimEntry 0 r) ∧ c.owner = 3 ∧
    s.deliverable 0 r = true ∧ s.firstInTurn 0 r = true ∧ s.ownerQueue 0 c = some q ∧ s.pushWhole 0 none q (s.asDelivered 0 r).bytes = some u :=
  let q := ((owned 3).ownerQueue 0 ⟨3, 3, 0x100000, 3⟩).getD theQueue
  ⟨owned 3, ((owned 3).pushWhole 0 none q ((owned 3).asDelivered 0 rec5).bytes).getD base, rec5, ⟨3, 3, 0x100000, 3⟩, q, by and_intros <;> first | exact some_of base (by decide) | decide⟩

theorem wit_Fault_garnet : ∃ (s : State) (r : Rec) (c : Claim), s.hasCtx 0 = true ∧ (s.ctx 0).queued 5 = some r ∧ c = s.claimOf 0 (s.claimEntry 0 r) ∧ c.owner = 4 ∧
    s.deliverable 0 r = true ∧ s.firstInTurn 0 r = true :=
  ⟨faulted [rec5] [] 4, rec5, _, by decide, by decide, rfl, by decide⟩

/-- A handler gang whose thread has exited. -/
def ended : State :=
  (base.mapGang 2 fun g => { g with hslot := some 63, threads := g.threads.map Thread.toExited }).mapCore 0 fun c => { c with hslots := [(63, 2)] }

theorem wit_Fault_free : ∃ (s : State) (g : Gang), (s.core 0).hslots.find? 63 = some 2 ∧ s.gang? 2 = some g ∧ g.hslot = some 63 ∧ g.core = 0 ∧ g.live = [] ∧ g.pending = [] ∧
    Tbl.rising (s.core 0).hslots = true :=
  ⟨ended, g2 ended, by decide, gang_of (by decide), by decide⟩

theorem wit_Fault_control : ∃ (s : State), s.isEscalation .host 0 = false ∧ s.isEscalation .garnet 0 = true ∧ s.hasCtx 0 = true ∧ (s.ctx 0).stopped = true ∧
    waitingRecs (s.ctx 0).queue < Config.faultQueue :=
  ⟨(faulted [] [] 0).mapCtx 0 fun c => { c with stopped := true }, by decide⟩

/-! ## Rings and commands -/

/-- An accepted command of crew 1 with number 0 and an image. -/
def aCmd (ws : List Word) : Cmd :=
  ⟨1, 0, imageOf ws, imageOf ws, 0, 0, 2, 0, 0, 0, [], none, [], false, false, false, false, false, .active, 0, 0, none, .queued, none, []⟩

/-- The crew of a state. -/
def c1 (s : State) : Crew := (s.crew? 1).getD aCrew

theorem wit_Ring_broken : ∃ (s : State) (c : Crew), s.crew? 1 = some c ∧ 64 < s.ringFill c ∧ c.broken = false ∧ s.hasCtx c.ctx = true ∧ (s.ctx c.ctx).heldRecs = [] ∧
    waitingRecs (s.ctx c.ctx).queue < Config.faultQueue :=
  ⟨base.store 0x10000000800 (bytesOf 4 65), c1 base, by decide⟩

theorem wit_Ring_accept : ∃ (s : State) (c : Crew) (q : Xq), s.crew? 1 = some c ∧ c.broken = false ∧ s.ringFill c ≠ 0 ∧ s.ringFill c ≤ 64 ∧ (s.heldCmds 1).length < Config.heldCommands ∧
    c.xq.find? (fun x => x.sq == c.taken.toNat && x.img == s.ringEntry c c.taken.toNat) = some q :=
  let s := base.publish 1 0 2 (imageOf fillWords) ⟨none, none, none⟩
  ⟨s, c1 s, ⟨0, imageOf fillWords, 0, 2, 0, 0, 0⟩, by and_intros <;> decide⟩

/-- FILL with destination handle 63, and a copy with source handle 63. -/
def fillTo63 : List Word := [0x80FF3F07, 0, 0, 0x1000, 0, 16, 0xFFFF, 0]
def copyFrom63 : List Word := [0x803FFF01, 0x1000, 0, 0x1000, 0, 16, 0xFFFF, 0]

/-- A completed command with handle 63. -/
def done (k : Handle) (m : Cmd) : State := { held k [] with cmds := [{ m with finished := true }] }

theorem wit_Ring_dest : ∃ (s : State) (c : Crew) (m : Cmd) (k : Handle), s.crew? 1 = some c ∧ s.cmd? 1 0 = some m ∧ m.crew = 1 ∧ s.handle c.homeCore 63 = k ∧ k.owner = some 1 ∧
    m.isHeld = false ∧ m.finished = true ∧ m.st = .active ∧ k.st ≠ .fault ∧ m.counted = false ∧ cmdDh m.named = 63 ∧ s.roleFree m true = true ∧ cmdCnt m.named = false ∧
    k.base = .filling ∧ k.dpend = 1 ∧ s.awaitsReply 1 0 = false :=
  let k : Handle := { bound with st := .filling, base := .filling, dpend := 1 }
  ⟨done k (aCmd fillTo63), c1 (done k (aCmd fillTo63)), { aCmd fillTo63 with finished := true }, k, by decide⟩

theorem wit_Ring_dest_asked : ∃ s : State, s.awaitsReply 1 0 = true := ⟨{ base with pod := { base.pod with asked := [(0, .command 1 0)] } }, by decide⟩

theorem wit_Ring_source : ∃ (s : State) (c : Crew) (m : Cmd) (k : Handle), s.crew? 1 = some c ∧ s.cmd? 1 0 = some m ∧ m.crew = 1 ∧ s.handle c.homeCore 63 = k ∧ k.owner = some 1 ∧
    m.isHeld = false ∧ m.finished = true ∧ m.st = .active ∧ k.st ≠ .fault ∧ m.released = false ∧ cmdSh m.named = 63 ∧ s.roleFree m false = true ∧
    k.base = .draining ∧ k.spend = 1 :=
  let k : Handle := { bound with st := .draining, base := .draining, spend := 1 }
  ⟨done k (aCmd copyFrom63), c1 (done k (aCmd copyFrom63)), { aCmd copyFrom63 with finished := true }, k, by decide⟩

theorem wit_Ring_evict : ∃ (s : State) (c : Crew) (x : TileRec), s.crew? 1 = some c ∧ c.tiles.find? 2 = some x ∧ x.cached = true ∧ Tbl.rising c.tiles = true :=
  ⟨tiled [], c1 (tiled []), ⟨imageOf tileC, true, true⟩, by decide⟩

/-- The lone task with an active command. -/
def commanded (m : Cmd) : State := { base with cmds := [m] }

theorem going_of {m : Cmd} (h : (commanded m).cmd? 1 0 = some m) (ha : m.st = .active) (hf : m.finished = false) (hd : m.isMessage = false) :
    Going (commanded m) 1 0 (c1 base) m :=
  have hc : base.crew? 1 = some (c1 base) := by decide
  ⟨hc, h, ha, hf, hd⟩

theorem fillParts : (engineFor (aCmd fillWords)).parts (commanded (aCmd fillWords)) (c1 base) (aCmd fillWords) = [0] := by decide

theorem fillPart : ∃ u, PartLink 1 0 (commanded (aCmd fillWords)) 0 u :=
  ⟨_, c1 base, aCmd fillWords, List.replicate 16 0, _, _, by decide, by decide, pair_ok (by decide), pair_ok (by decide), rfl, ⟨_, rfl, rfl⟩, rfl⟩

theorem wit_Commands_step : ∃ (s u : State) (c : Crew) (m : Cmd), Going s 1 0 c m ∧ cmdOp m.img = 0x07 ∧
    Chain (PartLink 1 0) s (((engineFor m).parts s c m).filter fun n => !m.done.contains n) u ∧
    ∃ n ∈ (engineFor m).parts s c m, m.done.contains n = false ∧ (∀ k ∈ (engineFor m).parts s c m, m.done.contains k = true ∨ (engineFor m).rank n ≤ (engineFor m).rank k) ∧
      PartLink 1 0 s n u := by
  obtain ⟨u, hu⟩ := fillPart
  refine ⟨commanded (aCmd fillWords), u, c1 base, aCmd fillWords, going_of (by decide) rfl rfl (by decide), by decide, ?_, 0, ?_, by decide, ?_, hu⟩
  · rw [fillParts]
    exact ⟨u, hu, rfl⟩
  · rw [fillParts]
    decide
  · rw [fillParts]
    decide

/-- Small images of the twelve operations. -/
def opWords : List (List Word) :=
  [[0x80FFFF01, 0x1000, 0, 0x2000, 0, 16, 0, 0], [0x80FFFF02, 0x1000, 0, 0x2000, 0, 0x00010010, 0, 0], [0x80FFFF03, 0x1000, 0, 0, 0, 16, 0xFFFF, 0], [0x80FFFF04, 0, 0, 0, 0, 0, 0, 0],
   fillWords, [0x00FFFF10, 0, 0, 0x2000, 0x1000, 0x00010001, 16, 1], [0x00FFFF11, 0, 0, 0x2000, 0x1000, 0x00010001, 16, 1], [0x00FFFF12, 0, 0, 0x2000, 0x1000, 0x00010001, 16, 1],
   [0x00FFFF30, 0x1000, 0, 0, 0, 4, 0, 0], [0x00FFFF31, 0x1000, 0, 0, 0, 4, 0, 0], [0x00FFFF32, 0x1000, 0, 0, 0, 4, 0, 0], [0x00FFFF33, 0x1000, 0, 0, 0, 4, 0, 0]]

/-- A command whose parts are all done. -/
def allDone (ws : List Word) : Cmd := { aCmd ws with done := (engineFor (aCmd ws)).parts (commanded (aCmd ws)) (c1 base) (aCmd ws) }

theorem wit_Commands_ops : opWords.map (fun ws => cmdOp (imageOf ws)) = [1, 2, 3, 4, 7, 0x10, 0x11, 0x12, 0x30, 0x31, 0x32, 0x33] ∧
    ∀ ws ∈ opWords, (commanded (allDone ws)).cmd? 1 0 = some (allDone ws) ∧ (allDone ws).st = .active ∧ (allDone ws).finished = false ∧ (allDone ws).isMessage = false ∧
      ((engineFor (allDone ws)).parts (commanded (allDone ws)) (c1 base) (allDone ws)).filter (fun n => !(allDone ws).done.contains n) = [] := by
  decide

theorem pair_err {α β ε : Type} [DecidableEq ε] {x : α × Except ε β} {b : ε} (h : (match x.2 with | .ok _ => false | .error y => decide (y = b)) = true) :
    x = (x.1, .error b) := by
  obtain ⟨s, x⟩ := x
  cases x with
  | ok y => cases h
  | error e => simp only [decide_eq_true_eq] at h; rw [h]

theorem wit_Commands_fault : ∃ (s u : State) (c : Crew) (m : Cmd) (f : Flt), Going s 1 0 c m ∧ 0 ∈ (engineFor m).parts s c m ∧ m.done.contains 0 = false ∧
    (∀ k ∈ (engineFor m).parts s c m, m.done.contains k = true ∨ (engineFor m).rank 0 ≤ (engineFor m).rank k) ∧ (engineFor m).sourceOf s c m 0 = (u, .error (.flt f)) :=
  ⟨commanded (aCmd copyFrom63), _, c1 base, aCmd copyFrom63, ⟨cXlateNr, 1, 0x1000⟩, going_of (by decide) rfl rfl (by decide), by decide, by decide, by decide, pair_err (by decide)⟩

/-- Commands: bytes of the window, and of a page of memory, that a command finds. -/
theorem wit_Commands_window : ∃ (s u : State) (c : Crew) (w : Who), runAt s c w true .read 0xFFF0 16 u 0x1000000FFF0 ∧ runAt s c w true .write 0x2000 16 u 0x10000002000 ∧
    u.poison = [] ∧ awayFromPub s 0x10000002000 16 := by
  refine ⟨base, base, c1 base, (aCmd fillWords).who (c1 base), ?_, ?_, rfl, ?_⟩
  · rw [runAt, if_pos rfl]; exact ⟨rfl, window_of (by decide) (by decide) (by decide)⟩
  · rw [runAt, if_pos rfl]; exact ⟨rfl, window_of (by decide) (by decide) (by decide)⟩
  · intro p hp
    rw [show base.crews = [(1, c1 base)] from by decide, List.mem_singleton] at hp
    subst hp
    decide

theorem wit_Commands_memory : ∃ (s u : State) (c : Crew) (w : Who), runAt s c w false .read 0x100000 256 u 0x100000 :=
  ⟨paged, _, c1 paged, (aCmd fillWords).who (c1 base), by
    rw [runAt, if_neg (by decide)]
    exact ⟨by decide, by decide, pageLeaf, pair_ok (by decide), by decide⟩⟩

/-- COPY in the window, and the index of the first row of a gather, a scatter and a sum: padding, or row 0 of a table of one row at 0x100000. -/
def copyWords : List Word := [0xC0FFFF01, 0x1000, 0, 0x2000, 0, 16, 0xFFFF, 0]
def rowWords (op : Word) : List Word := [0x00FFFF00 ||| op, 0x100000, 0, 0x2000, 0x1000, 0x00010001, 16, 1]
def rowed (index : Nat) : State := paged.store 0x10000001000 (bytesOf 2 index)

theorem wit_Commands_copy : ∃ (s u : State) (c : Crew) (m : Cmd) (b : List Byte), cmdTrec m.img = 0xFFFF ∧ cmdOp m.img = 1 ∧
    s.readRange c (m.who c) (cmdSv m.img) anyPage ((cmdSrc m.img).toNat + 16 * 0 / m.lineShape.2.1 * m.lineShape.2.2 + 16 * 0 % m.lineShape.2.1) (plainBytes m 0) = (u, .ok b) :=
  ⟨base, _, c1 base, aCmd copyWords, List.replicate 16 0, by decide, by decide, pair_ok (by decide)⟩

theorem wit_Commands_fillBytes : cmdTrec (aCmd fillWords).img = 0xFFFF ∧ cmdOp (aCmd fillWords).img = 7 := by decide

theorem wit_Commands_index (n : Nat) (h : n = 0xFFFF ∨ n = 0 ∨ n = 7) : ∃ (u : State) (b : List Byte),
    (rowed n).readRange (c1 base) ((aCmd (rowWords 0x10)).who (c1 base)) true anyPage (gatIdx (aCmd (rowWords 0x10)).img) (gatIsz (aCmd (rowWords 0x10)).img) = (u, .ok b) ∧ natOfBytes b = n := by
  rcases h with rfl | rfl | rfl
  · exact ⟨_, bytesOf 2 0xFFFF, pair_ok (by decide), by decide⟩
  · exact ⟨_, bytesOf 2 0, pair_ok (by decide), by decide⟩
  · exact ⟨_, bytesOf 2 7, pair_ok (by decide), by decide⟩

theorem wit_Commands_padding : gatPad (imageOf (rowWords 0x10)) = 0xFFFF ∧ gatNrows (imageOf (rowWords 0x10)) = 1 ∧
    [0x10, 0x11, 0x12].map (fun op => cmdOp (imageOf (rowWords op))) = [0x10, 0x11, 0x12] := by decide

/-- The rows of index 0: read from the table, or from the window, with the sum that stands in the table. -/
theorem wit_Commands_gather : ∃ (u : State) (b : List Byte),
    (rowed 0).readRange (c1 base) ((aCmd (rowWords 0x10)).who (c1 base)) false anyPage (0x100000 + (rowPiece (aCmd (rowWords 0x10)) (gatTarget (aCmd (rowWords 0x10)) 0) 0).1)
      (rowPiece (aCmd (rowWords 0x10)) (gatTarget (aCmd (rowWords 0x10)) 0) 0).2 = (u, .ok b) :=
  ⟨_, List.replicate 16 0, pair_ok (by decide)⟩

theorem wit_Commands_scatter : ∃ (u v : State) (b old : List Byte), let m := aCmd (rowWords 0x12)
    (rowed 0).readRange (c1 base) (m.who (c1 base)) true anyPage (gatRows m.img + (rowPiece m (gatTarget m 0) 0).1) (rowPiece m (gatTarget m 0) 0).2 = (u, .ok b) ∧
      addWaits u (c1 base) m 0x100000 = false ∧ u.readRange (c1 base) (m.who (c1 base)) false anyPage (0x100000 + (rowPiece m (gatTarget m 0) 0).1) (rowPiece m (gatTarget m 0) 0).2 = (v, .ok old) :=
  ⟨_, _, List.replicate 16 0, List.replicate 16 0, pair_ok (by decide), by decide, pair_ok (by decide)⟩

theorem wit_Commands_readsum : cmdOp (imageOf [0x40FFFF31, 0x1000, 0, 0, 0, 4, 0, 0]) = 0x31 ∧ cmdSv (imageOf [0x40FFFF31, 0x1000, 0, 0, 0, 4, 0, 0]) = true := by decide

/-- A window of one element and two contributors in tier 0, its slot empty or holding a sum. -/
theorem wit_Commands_contrib : ∃ (s : State) (h : Nat) (x : Acc), (∀ a, h ≤ a → a < h + 64 + 64 * 1 → s.home a = a) ∧ s.winHead h = ⟨1, 2, 0⟩ ∧ (s.winSlot (h + 64)).ncnt = 1 ∧
    -(2 ^ 319) ≤ ((s.winSlot (h + 64)).acc.add x).val ∧ ((s.winSlot (h + 64)).acc.add x).val < 2 ^ 319 := by
  refine ⟨(base.store 0x100000 (bytesOf 8 0x100020000)).store 0x100040 (bytesOf 64 (2 ^ 324 + 5)), 0x100000, ⟨false, -7⟩, ?_, by decide, by decide, by decide, by decide⟩
  intro a h1 h2
  have : regionOf a = .hbm := by rw [regionOf, if_pos (by omega)]
  simp only [State.home, this]

theorem wit_Commands_freeze : ∃ (s : State) (c : Crew) (m : Cmd), s.crew? 1 = some c ∧ s.cmd? 1 0 = some m ∧ m.crew = 1 ∧ m.sq = 0 ∧ m.counted = false ∧ cmdDh m.named = 63 ∧ c.phase ≠ .killed ∧
    (s.handle c.homeCore 63).owner = some 1 :=
  ⟨{ held bound [] with cmds := [aCmd fillTo63] }, c1 base, aCmd fillTo63, by decide⟩

/-! ## Arrays -/

/-- An operation of gang 2 on the records of `tiled`. -/
def anOp : ArrayOp := ⟨2, false, 96, 1, imageOf tileA, imageOf tileB, 1, 0x1000, 0x4000, 0, [], [], [], [], [], none, 0⟩

theorem wit_Array_start : ∃ (s : State) (o : ArrayOp) (c : Crew) (g : Gang), s.arrayAt 0 11 = ⟨none, some o⟩ ∧ s.crew? o.crew = some c ∧ s.gang? o.gkey = some g ∧ o.stored = false ∧
    ∀ n, n < 32 → g.holdsLine (o.d + n) = true :=
  ⟨base.setArray 0 11 ⟨none, some anOp⟩, anOp, c1 base, g2 base, by and_intros <;> decide⟩

theorem wit_Array_result : ∃ (s : State) (o : ArrayOp) (g : Gang), (s.arrayAt 0 11).exec = some o ∧ o.stored = false ∧ s.gang? o.gkey = some g ∧ g.threads.length = 32 ∧ o.d + 32 ≤ 128 ∧
    ∀ n, n < 32 → g.holdsLine (o.d + n) = true :=
  ⟨base.setArray 0 11 ⟨some anOp, some anOp⟩, anOp, g2 base, by decide⟩

/-- An operation of MMAS, whose tile ends with the window of the crew. -/
def aStore : ArrayOp := { anOp with stored := true, addrC := 0xF000 }

theorem wit_Array_stored : ∃ (s t : State) (c : Crew), s.crew? aStore.crew = some c ∧ t.crew? aStore.crew = some c ∧ aStore.stored = true ∧
    windowAt s c aStore.addrC 4096 0x1000000F000 ∧ s.arrayAt 0 11 = ⟨none, some aStore⟩ ∧
    windowAt t c aStore.addrC 4096 0x1000000F000 ∧ (t.arrayAt 0 11).exec = some aStore ∧ aStore.cmd = none :=
  ⟨base.setArray 0 11 ⟨none, some aStore⟩, base.setArray 0 11 ⟨some aStore, some anOp⟩, c1 base, by decide, by decide, rfl, window_of (by decide) (by decide) (by decide), by decide,
    window_of (by decide) (by decide) (by decide), by decide⟩

/-- A completed COPYMMA with its captured records. -/
def followed (crec : List Word) : Cmd :=
  { aCmd [0x80FFFF04, 0, 0, 0, 0, 0, 0, 0] with finished := true, trec := imageOf tileA, brec := imageOf tileB, crec := imageOf crec }

theorem wit_Array_follow : ∃ (s : State) (c : Crew) (m : Cmd) (o : ArrayOp), s.crew? 1 = some c ∧ s.cmd? 1 0 = some m ∧ m.crew = 1 ∧ m.sq = 0 ∧ cmdOp m.img = 4 ∧ m.finished = true ∧
    m.followed = false ∧ m.st = .active ∧ (s.arrayAt (m.sub / 12) (m.sub % 12)).queued = none ∧ s.checkStored c (some m.trec) (some m.brec) (some m.crec) 0 0 0 = none ∧
    s.makeOp c 1 m.gkey [] 0 ⟨m.trec, 0, m.brec, 0, some m.crec⟩ (some 0) = .ok o :=
  let s := commanded (followed tileC)
  let m := followed tileC
  ⟨s, c1 base, m, okOr anOp (s.makeOp (c1 base) 1 m.gkey [] 0 ⟨m.trec, 0, m.brec, 0, some m.crec⟩ (some 0)), by and_intros <;> first | exact okOr_of anOp (by decide) | decide⟩

theorem wit_Array_refused : ∃ (s : State) (c : Crew) (m : Cmd) (f : Flt), s.crew? 1 = some c ∧ s.cmd? 1 0 = some m ∧ cmdOp m.img = 4 ∧ m.finished = true ∧
    m.followed = false ∧ m.st = .active ∧ (s.arrayAt (m.sub / 12) (m.sub % 12)).queued = none ∧ s.checkStored c (some m.trec) (some m.brec) (some m.crec) 0 0 0 = some f :=
  ⟨commanded (followed tileA), c1 base, followed tileA, ⟨cEngine, 5, 0⟩, by decide⟩

/-! ## Frozen commands -/

theorem wit_Frozen_command : ∃ (s : State) (c : Crew) (m : Cmd), s.crew? 1 = some c ∧ s.cmd? 1 0 = some m ∧ selIndex (7 : Word) < 8 ∧ m.st = .frozen ∧ c.phase ≠ .killed ∧ m.changed = false ∧
    s.stagingOf 1 0 = false ∧ cmdDh m.named = 63 ∧ (s.handle c.homeCore 63).owner = some 1 :=
  let m := { aCmd fillTo63 with st := .frozen }
  ⟨{ held bound [] with cmds := [m] }, c1 base, m, by decide⟩

theorem wit_Frozen_changed : ∃ (s : State) (m : Cmd), s.cmd? 1 0 = some m ∧ m.st = .frozen ∧ m.changed = true :=
  let m := { aCmd fillTo63 with st := .frozen, changed := true }
  ⟨commanded m, m, by decide⟩

/-- A command of the staging of crew 1. -/
theorem wit_Frozen_staging : ∃ (s : State) (c : Crew) (m : Cmd), s.crew? 1 = some c ∧ s.cmd? 1 0 = some m ∧ s.stagingOf 1 0 = true :=
  ⟨{ base.mapCrew 1 fun c => { c with phase := .staging, staged := 1 } with cmds := [aCmd fillWords] }, c1 (base.mapCrew 1 fun c => { c with phase := .staging, staged := 1 }), aCmd fillWords, by decide⟩

/-! ## Residency -/

theorem wit_Residency_preempt : ∃ (s : State) (g : Gang), s.gang? 2 = some g ∧ g.ctx = 0 ∧ g.resid = .running ∧ (s.moveSet 0 0).contains g.core = true ∧ g.threads.length = 32 :=
  ⟨base, g2 base, by decide⟩

/-- The lone task pre-empted, or switched out. -/
def away (r : Resid) : State := base.mapGang 2 fun g => { g with resid := r }

theorem wit_Residency_return : ∃ (s : State) (g : Gang), RoomFor s 0 0 g ∧ LoneGang s 0 0 2 g .preempted ∧ s.inArray 2 = false ∧ (∀ l, l < 32 → (g.th l).run ≠ .blocked) ∧
    g.queries = [] ∧ s.hasCtx 0 = true ∧ (∀ p ∈ s.gangs, p.2.ctx = 0 → p.1 = 2) ∧ ∀ p ∈ s.crews, p.2.ctx = 0 → s.gangsOf p.1 ≠ [] :=
  ⟨away .preempted, g2 (away .preempted), by constructor <;> decide, by constructor <;> decide, by decide⟩

/-- A switched-out context with a deliverable vector. -/
def vectored : State := (away .switched).mapCtx 0 fun c => { c with eps := [⟨[⟨0, 8, 2, 4, 0⟩], 0, some 0, 0, 2⟩] }

theorem wit_Residency_wake : ∃ (s : State) (g : Gang), RoomFor s 0 0 g ∧ LoneGang s 0 0 2 g .switched ∧ (s.loadEps 0).hasImage g = false ∧ s.hasVector 0 = true :=
  ⟨vectored, g2 vectored, by constructor <;> decide, by constructor <;> decide, by decide⟩

/-- The lone task, pre-empted or switched out, with a mapped image from which register line 130 differs. -/
def imaged (r : Resid) : State := paged.mapGang 2 fun g => { g with resid := r, clean := List.range 130 }

theorem wit_Residency_flush : ∃ (s : State) (g : Gang), s.gang? 2 = some g ∧ g.threads.length = 32 ∧ g.dirtyLines = [130] ∧ Imaged s g 0x10000000 := by
  have hd : (g2 (imaged .preempted)).dirtyLines = [130] := by decide
  refine ⟨imaged .preempted, g2 (imaged .preempted), gang_of (by decide), by decide, hd, ?_, ?_⟩
  · intro k hk
    rw [hd] at hk ⊢
    obtain rfl : k = 0 := by simpa using hk
    exact ⟨by decide, by decide, idLeaf, 0x10000, by decide⟩
  · rw [hd]
    exact ⟨by decide, by decide, idLeaf, 0x10000, by decide⟩

theorem wit_Residency_image : ∃ (s : State) (g : Gang), RoomFor s 0 0 g ∧ LoneGang s 0 0 2 g .switched ∧ (s.loadEps 0).hasImage g = true ∧
    (s.loadEps 0).kernelPa 0 ((s.loadEps 0).recVa g + dword 0x4180) 0x480 = some (0x10000000 + 0x4180) ∧ ((s.loadEps 0).recVa g + dword 0x4180).toNat % 524288 + 0x480 ≤ 524288 :=
  ⟨imaged .switched, g2 (imaged .switched), by constructor <;> decide, by constructor <;> decide, by decide⟩

/-- Gang 2 pre-empted on core 1, beside a gang of its context that runs on core 0. -/
def apart : State :=
  let g := g2 base
  { base with gangs := [(2, { g with core := 1, resid := .preempted }), (3, { g with index := 1 })] }

theorem wit_Residency_apart : ∃ (s : State) (g : Gang), LoneGang s 0 1 2 g .preempted ∧ s.inArray 2 = false ∧ (∀ l, l < 32 → (g.th l).run ≠ .blocked) ∧ g.queries = [] ∧
    (∀ p ∈ s.crews, p.2.ctx = 0 → p.2.homeCore ≠ 1) ∧ (s.ctx 0).regNext = (s.ctx 0).regBase ∧ ∃ p ∈ s.gangs, p.2.ctx = 0 ∧ p.2.core ≠ 1 ∧ p.2.resid ≠ .switched :=
  ⟨apart, g2 apart, by constructor <;> decide, by decide⟩

theorem wit_Residency_aged : ∃ (s : State) (g : Gang) (pc : Nat), s.gang? 2 = some g ∧ g.threads.length = 32 ∧ g.forcedRun = [] ∧ g.agedPath (s.ctx g.ctx).ageMax = some pc :=
  ⟨base.mapGang 2 fun g => { g with ages := [(0, 65536)] }, g2 (base.mapGang 2 fun g => { g with ages := [(0, 65536)] }), 0, by decide⟩

/-- A gang that has held its slot for 65,536 clocks, and one that waits for it. -/
def contesting : State :=
  let g := g2 base
  { base with clock := 65536, gangs := [(2, g), (3, { g with index := 1, slot := 1, issue := none, readied := true, readyAt := 0 })] }

theorem wit_Residency_slot : ∃ (s : State) (g : Gang), s.gang? 2 = some g ∧ g.threads.length = 32 ∧ g.issue.isSome = true ∧ g.takenAt + 65536 ≤ s.clock ∧ s.contested 2 g g.takenAt = true ∧ g.guard = false :=
  ⟨contesting, g2 contesting, by decide⟩

theorem wit_Residency_performed : ∃ (s : State) (g : Gang), s.gang? 2 = some g ∧ g.threads.length = 32 ∧ g.pending = [12] ∧ awaitsOther 12 = false :=
  ⟨storing, g2 storing, by decide⟩

end Sys2Proof.Tests
end

