-- ==== Sys2Proof/Tests/WitnessWhole.lean ====
section
/-! SUPPORT. Witnesses for the hypotheses of the statements about steps of the device: launches, tasks, resets, interrupts, pages, ports, pod, network, host, control plane, root of trust. -/

namespace Sys2Proof.Tests

open Sys2Proof.Machine Sys2Proof.Claims

set_option maxRecDepth 100000

/-! ## Launches and tasks -/

theorem wit_Launch_start : ∃ (s : State) (l : Launch), s.launch? 0 0 = some l ∧ ∀ k ∈ s.launches, k.ctx = l.ctx → k.stream = l.stream → l.serial ≤ k.serial :=
  ⟨base, loneLaunch 0, by decide⟩

theorem wit_Launch_behind : ∃ (s : State) (l : Launch), s.launch? 0 1 = some l ∧ l.ov = false ∧ ∃ k ∈ s.launches, k.ctx = l.ctx ∧ k.stream = l.stream ∧ k.serial < l.serial :=
  ⟨{ base with launches := [loneLaunch 0, { loneLaunch 0 with serial := 1 }] }, { loneLaunch 0 with serial := 1 }, by decide⟩

/-- The lone launch with its task over and a completion word at 0x100000. -/
def retiring : State := { paged with crews := [], gangs := [], launches := [{ loneLaunch 0 with compl := 0x100000 }] }

/-- The step that finds the completion word of a launch. -/
def complAt (s : State) : State × Loc :=
  let l := { loneLaunch 0 with compl := 0x100000 }
  s.agentLoc ⟨((s.tenancyCores (s.ctx l.ctx).tenancy).head?).getD 0, l.ctx, l.level, none, .nobody⟩ l.compl 8 .write false

theorem wit_Launch_retire : ∃ (s : State) (l : Launch), s.launch? 0 0 = some l ∧ s.launchDone l = true ∧ l.csend = false ∧ l.compl = 0x100000 ∧ (complAt s).2 = .found 0x100000 (some pageLeaf) :=
  ⟨retiring, { loneLaunch 0 with compl := 0x100000 }, by decide⟩

/-- The completion word lies in a page that is not mapped, or in one that is in transit. -/
theorem wit_Launch_retire_fault : ∃ f, (complAt (retiring.mapCtx 0 fun c => { c with ptroot := 0x40000 })).2 = .flt f := ⟨⟨cXlateNr, 1, 0x100000⟩, by decide⟩
theorem wit_Launch_retire_wait : ∃ w, (complAt { moving with crews := [], gangs := [], launches := [{ loneLaunch 0 with compl := 0x100000 }] }).2 = .wait w := ⟨.pageInTransit 0x100000, by decide⟩
theorem wit_Launch_retire_silent : ∃ (s : State) (l : Launch), s.launch? 0 0 = some l ∧ s.launchDone l = true ∧ l.csend = false ∧ l.compl = 0 :=
  ⟨{ retiring with launches := [loneLaunch 0] }, loneLaunch 0, by decide⟩

theorem wit_Launch_running : ∃ (s : State) (l : Launch), s.launch? 0 0 = some l ∧ s.launchDone l = false := ⟨base, loneLaunch 0, by decide⟩

/-- The lone launch with a second task to place. -/
def twoTasks : Launch := { loneLaunch 0 with range := 2, stages := [⟨0, 2, 1, 1, false, 128, 96, 1, 0, 0, 0, 4, 0, 0, 0, []⟩] }
def twoStage : Stage := ⟨0, 2, 1, 1, false, 128, 96, 1, 0, 0, 0, 4, 0, 0, 0, []⟩
def placing : State := { base with launches := [twoTasks] }

theorem wit_Placement : ∃ (s : State) (p : Pick) (l : Launch) (st : Stage), s.launch? p.ctx p.serial = some l ∧ l.stages[p.stage]? = some st ∧ p.cont = false ∧
    s.eligible 0 ⟨l, p.stage, false⟩ = true ∧ (s.refill 0 ⟨l, p.stage, false⟩).isNext 0 ⟨l, p.stage, false⟩ = true ∧ Work.group ⟨l, p.stage, false⟩ st = none ∧
    (s.refill 0 ⟨l, p.stage, false⟩).coresOk 0 l p.stage st p.cores = true ∧ (∀ r ∈ l.reruns, r.stage ≠ p.stage) ∧ l.freeIndex p.stage st = some 1 ∧ st.inq = 0 :=
  ⟨placing, ⟨0, 0, 0, [39], false⟩, twoTasks, twoStage, by decide +kernel⟩

theorem wit_Task_handover : ∃ (s : State) (c : Crew), s.crew? 1 = some c ∧ c.phase = .handover ∧ c.cores = [0] ∧ c.cluster = none :=
  ⟨base.mapCrew 1 fun c => { c with phase := .handover }, c1 (base.mapCrew 1 fun c => { c with phase := .handover }), by decide⟩

/-- The lone task before it starts. -/
def staging : State := { (base.mapCrew 1 fun c => { c with phase := .staging }) with gangs := [] }

/-- A stage of tasks with some gangs. -/
def stageOf (gangs : Nat) : Stage := ⟨0, 1, gangs, 1, false, 128, 96, 1, 0, 0, 0, 4, 0, 0, 0, []⟩

theorem wit_Task_start : ∃ (s : State) (c : Crew) (l : Launch) (st : Stage), StartReady s 1 c l st ∧ c.cont = none ∧ st.gangs = 1 ∧
    s.pickSlot c.homeCore = some 0 ∧ (s.cachedLines c.homeCore (0 / 24)).length + 131 ≤ Config.regCache :=
  ⟨staging, c1 staging, loneLaunch 0, stageOf 1, by constructor <;> decide, by decide⟩

/-- The task before it starts, with 33 gangs on two cores. -/
def wide : State :=
  { (staging.mapCrew 1 fun c => { c with cores := [0, 159] }) with launches := [{ loneLaunch 0 with stages := [stageOf 33] }] }

theorem wit_Task_start_wide : ∃ (s : State) (c : Crew) (l : Launch) (st : Stage), StartReady s 1 c l st ∧ c.cont = none ∧ st.gangs = 33 :=
  ⟨wide, c1 wide, { loneLaunch 0 with stages := [stageOf 33] }, stageOf 33, by constructor <;> decide, by decide⟩

/-- The crew of a continuation of the lone task before it starts. -/
def resuming : State := staging.mapCrew 1 fun c => { c with cont := some ⟨0, 0, 0, 0, g2 base, []⟩ }

theorem wit_Task_start_cont : ∃ (s : State) (c : Crew) (l : Launch) (st : Stage) (k : Cont), StartReady s 1 c l st ∧ c.cont = some k :=
  ⟨resuming, c1 resuming, loneLaunch 0, (resuming.stageOfCrew (c1 resuming)).getD (stageOf 1), ⟨0, 0, 0, 0, g2 base, []⟩, by constructor <;> decide, by decide⟩

/-- The lone task with every thread exited. -/
def finished : State := base.mapGang 2 fun g => { g with threads := g.threads.map Thread.toExited }

theorem wit_Task_retire : ∃ (s u : State) (c : Crew), s.crew? 1 = some c ∧ s.crewOver 1 = true ∧ c.phase = .running ∧ s.commitTask 1 = .ok u :=
  ⟨finished, _, c1 finished, by decide, by decide, by decide, except_of base (by decide)⟩

theorem wit_Task_goes_on : ∃ (s : State) (c : Crew), s.crew? 1 = some c ∧ s.crewOver 1 = false ∧ c.mayAbort = false := ⟨base, c1 base, by decide⟩

theorem wit_Task_abort : ∃ (s : State) (c : Crew) (l : Launch), s.crew? 1 = some c ∧ s.launch? c.ctx c.launch = some l ∧ c.mayAbort = true ∧ c.cont = none :=
  ⟨replayable, c1 replayable, (replayable.launch? 0 0).getD (loneLaunch 0), by decide⟩

/-- A task of a continuation, unpinned. -/
theorem wit_Task_abort_cont : ∃ (s : State) (c : Crew) (l : Launch) (k : Cont), s.crew? 1 = some c ∧ s.launch? c.ctx c.launch = some l ∧ c.mayAbort = true ∧ c.cont = some k ∧
    ∀ p ∈ s.gangsOf 1, ∀ n, n < 32 → (p.2.th n).run ≠ .blocked :=
  let s := replayable.mapCrew 1 fun c => { c with cont := some ⟨0, 0, 0, 0, g2 base, []⟩ }
  ⟨s, c1 s, (s.launch? 0 0).getD (loneLaunch 0), ⟨0, 0, 0, 0, g2 base, []⟩, by and_intros <;> decide⟩

theorem wit_Resets : ∃ (s : State) (c : Crew) (g : Gang) (x : Tenancy), s.isOwner .garnet = true ∧ s.crew? 1 = some c ∧ c.phase ≠ .killed ∧ s.gang? 2 = some g ∧ g.crew = 1 ∧ g.hslot = none ∧ g.resid ≠ .switched ∧
    g.threads.length = 32 ∧ s.hasCtx 0 = true ∧ s.tens.find? 0 = some x :=
  ⟨base, c1 base, g2 base, Tenancy.fresh 0xFF 1, by decide⟩

theorem wit_Resets_empty : ∃ (s : State), s.hasCtx 0 = true ∧ (∀ p ∈ s.gangs, p.2.ctx ≠ 0) ∧ ∀ p ∈ s.crews, p.2.ctx ≠ 0 :=
  ⟨{ base with gangs := [], crews := [] }, by decide⟩

/-! ## Interrupt sends -/

/-- A send to vector 63 of endpoint 3 of context 0, which a permission entry admits, or which none does. -/
def aSend : Send := ⟨0xFF, 0, 0, 0, 3, 0xFC000007⟩
def sending (perms : Tbl Perm) : State := { (base.mapCtx 0 fun c => { c with perms := perms }) with sends := [aSend] }
def admitting : Tbl Perm := [(255, ⟨0xFFFFFF0801, 0x8000000000000000, 0, 0⟩)]

theorem wit_Sends_gone : ∃ (s : State) (x : Send), s.sends[0]? = some x ∧ (∀ m y, m < 0 → s.sends[m]? = some y → Send.sameRoute x y = false) ∧ s.hasCtx x.ctx = false ∧ x.pkg = 0xFF :=
  ⟨{ base with sends := [{ aSend with ctx := 4095 }] }, { aSend with ctx := 4095 }, by decide, fun _ _ h => absurd h (Nat.not_lt_zero _), by decide⟩

theorem wit_Sends_refused : ∃ (s : State) (x : Send), s.sends[0]? = some x ∧ s.hasCtx x.ctx = true ∧ (s.ten (s.ctx x.ctx).tenancy).gone = false ∧ (s.ctx x.ctx).epsInImage = false ∧
    x.ep < (s.ctx x.ctx).eps.length ∧ admitsSend s x = false ∧ x.pkg = 0xFF :=
  ⟨sending [], aSend, by decide⟩

/-- The second send on its way, behind one of another route. -/
def second : State := { sending admitting with sends := [{ aSend with ep := 2 }, aSend] }

theorem wit_Sends_admitted : ∃ (s : State) (x : Send), s.sends[1]? = some x ∧ (∀ m y, m < 1 → s.sends[m]? = some y → Send.sameRoute x y = false) ∧ s.hasCtx x.ctx = true ∧ (s.ten (s.ctx x.ctx).tenancy).gone = false ∧ (s.ctx x.ctx).epsInImage = false ∧
    x.ep < (s.ctx x.ctx).eps.length ∧ admitsSend s x = true ∧ ∀ p ∈ ((s.ctx x.ctx).eps.getD x.ep Endpoint.reset).pending, p.num ≠ x.operand.toNat / 67108864 :=
  ⟨second, aSend, by decide, fun m y h hy => by
    obtain rfl : m = 0 := by omega
    cases hy
    decide, by decide⟩

/-- The same with vector 63 pending. -/
theorem wit_Sends_coalesce : ∃ (s : State) (x : Send), s.sends[0]? = some x ∧ s.hasCtx x.ctx = true ∧ (s.ten (s.ctx x.ctx).tenancy).gone = false ∧ (s.ctx x.ctx).epsInImage = false ∧
    x.ep < (s.ctx x.ctx).eps.length ∧ admitsSend s x = true ∧ ∃ p ∈ ((s.ctx x.ctx).eps.getD x.ep Endpoint.reset).pending, p.num = x.operand.toNat / 67108864 :=
  ⟨(sending admitting).mapCtx 0 fun c => { c with eps := List.replicate 3 Endpoint.reset ++ [⟨[⟨63, 7, 65535, 9, 1⟩], 0, none, 0, 2⟩] }, aSend, by decide⟩

theorem wit_Sends_notice : ∃ (s : State), s.hasCtx 0 = true ∧ (s.ctx 0).epsInImage = false ∧ 0 ∈ s.refusals := ⟨{ base with refusals := [0] }, by decide⟩

theorem wit_Sends_host : ∃ (s : State) (ep : DWord) (x : Tenancy), s.inRecovery = false ∧ s.tens.find? 0 = some x ∧ s.hostTrusted 0 true = true ∧ 4095 < 4096 ∧ epValid ep = true ∧ s.isSelf (epPkg ep) = true :=
  ⟨base, 0xFF00000000000003, Tenancy.fresh 0xFF 1, by decide⟩

theorem wit_Sends_host_bad : ∃ (s : State) (x : Tenancy), s.inRecovery = false ∧ s.tens.find? 0 = some x ∧ s.hostTrusted 0 true = true ∧ 4096 ≤ 4096 ∧ epValid 0x8500000000000003 = false :=
  ⟨base, Tenancy.fresh 0xFF 1, by decide⟩

theorem wit_Sends_host_peer : ∃ (s t : State), s.inRecovery = false ∧ s.hostTrusted 0 true = true ∧ (4095 : Nat) < 4096 ∧ epValid 0x8400000000000003 = true ∧ s.isSelf (epPkg 0x8400000000000003) = false ∧
    epPkg 0x8400000000000003 ≠ 0xFE ∧ s.reachesPeer (epPkg 0x8400000000000003) = false ∧ t.reachesPeer (epPkg 0x8400000000000003) = true ∧ t.isSelf (epPkg 0x8400000000000003) = false :=
  ⟨base, { base with pod := { base.pod with own := some 0, entries := [(132, ⟨0, 11, 0, 5⟩)] } }, by decide⟩

/-- Die 0 in world 1: a tenancy that asks for the trusted indication. -/
def worldly : State := base.mapDie 0 fun d => { d with world := 1 }

theorem wit_Sends_recovery : ∃ (s : State) (x : Tenancy), s.tens.find? 0 = some x ∧ s.inRecovery = true :=
  ⟨base.mapTrust fun t => { t with boot := .recovery 2 1 }, Tenancy.fresh 0xFF 1, by decide⟩

theorem wit_Sends_untrusted : ∃ (s : State) (x : Tenancy), s.inRecovery = false ∧ s.tens.find? 0 = some x ∧ s.hostTrusted 0 false = false := ⟨worldly, Tenancy.fresh 0xFF 1, by decide⟩

/-! ## Pages -/

/-- The remote leaf of page 0: a migratable page at the start of the module behind port 0. -/
def remoteLeaf : DWord := 0x200000000C002000

def remote : State :=
  { (((((base.mapCtx 0 fun c => { c with ptroot := 0x8000 }).store 0x8000 (bytesOf 8 0x10001)).store 0x10000 (bytesOf 8 0x18001)).store 0x18000 (bytesOf 8 remoteLeaf.toNat)).mapPort 0
      fun p => { p with module := 5, st := .up, capacity := 0x80000 }) with
    modRanges := [⟨5, 0, 0, 0, 0x80000, 1⟩]
    tens := [(0, { Tenancy.fresh 0xFF 1 with replicas := [3] })] }

theorem wit_Pages_replicate : ∃ (s : State) (x : DWord) (y : Tenancy), Memory.wf s.mem = true ∧ s.walk 0 0 = .remote 0 0x18000 x ∧ s.masterOf (leafPfn x * 524288) = (5, 0) ∧ leafMig x = true ∧
    (s.migPage 5 0).st = .master ∧ s.tens.find? (s.ctx 0).tenancy = some y ∧ y.replicas = [3] ∧ s.freeReplica 0 x = some 3 ∧ ∀ i, i < 8 → (s.home 0x18000 + i) / 524288 ≠ 3 :=
  ⟨remote, remoteLeaf, { Tenancy.fresh 0xFF 1 with replicas := [3] }, by decide⟩

theorem wit_Pages_replicate_none : ∃ (s : State) (x : DWord) (y : Tenancy), Memory.wf s.mem = true ∧ s.walk 0 0 = .remote 0 0x18000 x ∧ s.masterOf (leafPfn x * 524288) = (5, 0) ∧ leafMig x = true ∧
    (s.migPage 5 0).st = .master ∧ s.tens.find? (s.ctx 0).tenancy = some y ∧ s.freeReplica 0 x = none :=
  ⟨{ remote with tens := [(0, Tenancy.fresh 0xFF 1)] }, remoteLeaf, Tenancy.fresh 0xFF 1, by decide⟩

theorem wit_Pages_peer : ∃ s : State, 254 ≠ s.self := ⟨remote, by decide⟩

/-- Page 0 of module 5 in a state, with a leaf that maps it for writing, and times of collapses. -/
def paging (st : PageState) (writes : Bool) (collapses : List Nat) : State :=
  { remote with clock := 330000000, pages := [⟨5, 0, st, [0, 1], collapses, 1, 0, 0, [⟨0, 0, 0x18000, remoteLeaf, none, writes⟩], none⟩] }

theorem wit_Pages_collapse : ∃ (s : State), (s.migPage 5 0).st = .collapsing 0 ∧ (s.migPage 5 0).leaves = [⟨0, 0, 0x18000, remoteLeaf, none, true⟩] ∧
    (s.migPage 5 0).recentCollapses < 4 := ⟨paging (.collapsing 0) true (List.replicate 3 297000001), by decide⟩

theorem wit_Pages_pin : ∃ (s : State) (p : MigPage), s.migPage 5 0 = p ∧ p.st = .collapsing 0 ∧ 4 ≤ p.recentCollapses ∧ (s.pod.shared p.writer p.reader).getD 5 = 5 :=
  ⟨paging (.collapsing 0) true (List.replicate 4 297000001), (paging (.collapsing 0) true (List.replicate 4 297000001)).migPage 5 0, by decide⟩

theorem wit_Pages_expire : ∃ (s : State), (s.migPage 5 0).st = .pinned ∧ (s.migPage 5 0).movedTo = none ∧ (s.migPage 5 0).since + 330000000 ≤ s.clock := ⟨paging .pinned true [], by decide⟩

theorem wit_Pages_return : ∃ (s t : State), ((s.migPage 5 0).st = .replicated ∧ (s.migPage 5 0).leaves ≠ []) ∧ (t.migPage 5 0).st = .writable ∧ (t.migPage 5 0).leaves ≠ [] :=
  ⟨paging .replicated false [], paging .writable true [], by decide⟩

theorem wit_Pages_return_other : ∃ (s t u : State), (s.migPage 5 0).st = .master ∧ (t.migPage 5 0).st = .collapsing 0xFF ∧ (u.migPage 5 0).st = .pinned :=
  ⟨paging .master false [], paging (.collapsing 0xFF) true [], paging .pinned true [], by decide⟩

/-! ## Ports and pod -/

/-- Port 11 in a state with some links up. -/
def ported (st : PortState) (up : BitVec 20) : State :=
  { (base.mapPort 11 fun p => { p with st := st, linkUp := up, module := 5 }) with pod := { base.pod with own := some 0, portModule := [(11, 5)], lines := [(5, [0, 1])], entries := [(1, ⟨0, 11, 0, 5⟩)] } }

theorem wit_Ports_links : ∃ s : State, (s.port 11).alive = true ∧ 19 < 20 ∧ (s.port 11).linkUp.getLsbD 19 = false ∧
    Port.substitute { s.port 11 with linkUp := 0x80001, returning := [19] } 19 = some 0 := ⟨ported .training 1, by decide⟩
theorem wit_Ports_dead : ∃ s : State, (s.port 11).alive = false := ⟨ported .lost 1, by decide⟩
theorem wit_Ports_spare : ∃ s : State, (s.port 11).inService = true ∧ s.freeSpare (11 / 3) = some 6 := ⟨ported .up 0xFFFFF, by decide⟩

/-- Both spares of the die of port 11 are held. -/
def spareless : State := (ported .repair 0xFFFFF).mapPort 11 fun p => { p with pairs := [(6, 0), (7, 9)] }

theorem wit_Ports_no_spare : ∃ s : State, (s.port 11).inService = true ∧ s.freeSpare (11 / 3) = none ∧ ∃ x ∈ (s.port 11).pairs, x.2 = 9 := ⟨spareless, by decide⟩
theorem wit_Ports_retrain : ∃ s : State, s.isOwner .garnet = true ∧ (s.port 11).st = .lost := ⟨ported .lost 1, by decide⟩

/-- What the module reports of itself. -/
def ident : ModuleIdent := ⟨5, 16, 15, 0x100000000000, 0, true⟩

theorem wit_Ports_trained : ∃ (s : State) (i j : ModuleIdent), (s.port 11).st = .training ∧ (s.port 11).linkUp ≠ 0 ∧ s.identOk 11 i = true ∧ s.identOk 11 j = false :=
  ⟨ported .training 1, ident, { ident with heads := 17 }, by decide⟩
theorem wit_Ports_timeout : ∃ s : State, (s.port 11).st = .training ∧ (s.port 11).linkUp = 0 := ⟨ported .training 0, by decide⟩
theorem wit_Ports_lost : ∃ s t : State, ((s.port 11).inService = true ∧ (s.port 11).linkUp = 0) ∧ (t.port 11).inService = true ∧ (t.port 11).linkUp ≠ 0 := ⟨ported .degraded 0, ported .up 1, by decide⟩

theorem wit_Ports_other : ∃ s t u : State, (s.port 11).st ≠ .lost ∧ ((t.port 11).inService = true ∧ (t.port 11).linkUp ≠ 0 ∧ (true = true)) ∧ (u.port 11).st = .degraded :=
  ⟨ported .up 1, ported .up 1, ported .degraded 1, by decide⟩

/-- A command of lane 0 of gang 2 for the queue at 0x1000 of module 5, of capacity 2 with an item, with the ranges of the module. -/
def modCommand (sub : Nat) : ModCmd := ⟨0xB00000001, 5, 2, sub, 0x1000, 0, 0, 0, 0, 0, 0, 0, .lane 2 0, 0, false, none, 0⟩
def modPend (i : Instr) : Pend := ⟨i, Hints.none_, [0, 0], [], .moduleCmd 0xB00000001 (modulePa 5 0x1000), 0, 0⟩
def asking (i : Instr) (sub tail : Nat) (ranges : List ModRange) : State :=
  { State.waiting (((ported .up 1).store (modulePa 5 0x1000) (bytesOf 8 tail)).store (modulePa 5 0x1008) (bytesOf 8 tail)) (modPend i) with
    modCmds := [modCommand sub], modRanges := ranges }
def atomicRange : List ModRange := [⟨5, 0, 0, 0x1000, 0x1040, 4⟩]

theorem wit_Module_done : ∃ (s : State) (p : Pend) (c : ModCmd), s.gang? 2 = some (g2 s) ∧ (g2 s).threads.length = 32 ∧ s.modCmds.find? (fun c => c.tag == 0xB00000001) = some c ∧
    s.askerPend c = some (2, 0, p) ∧ s.modStatus c = 0 ∧ ∀ d a, p.insn ≠ .qpush d a :=
  ⟨asking (.qpop 0 .zero) qPopRes 1 atomicRange, modPend (.qpop 0 .zero), modCommand qPopRes, by and_intros <;> first | exact gang_of (by decide) | decide | nofun⟩

theorem wit_Module_wait : ∃ (s : State) (p : Pend) (c : ModCmd), s.gang? 2 = some (g2 s) ∧ (g2 s).threads.length = 32 ∧ s.modCmds.find? (fun c => c.tag == 0xB00000001) = some c ∧
    s.askerPend c = some (2, 0, p) ∧ s.modStatus c = 1 ∧ ∀ d a b, p.insn ≠ .qtrypop d a b :=
  ⟨asking (.qpop 0 .zero) qPopRes 0 atomicRange, modPend (.qpop 0 .zero), modCommand qPopRes, by and_intros <;> first | exact gang_of (by decide) | decide | nofun⟩

theorem wit_Module_try : ∃ (s : State) (p : Pend) (c : ModCmd), s.gang? 2 = some (g2 s) ∧ (g2 s).threads.length = 32 ∧ s.modCmds.find? (fun c => c.tag == 0xB00000001) = some c ∧
    s.askerPend c = some (2, 0, p) ∧ s.modStatus c = 1 ∧ (∃ d a b, p.insn = .qtrypop d a b) ∧ c.subop = qPopRes :=
  ⟨asking (.qtrypop 0 .zero (.v 2)) qPopRes 0 atomicRange, modPend (.qtrypop 0 .zero (.v 2)), modCommand qPopRes, by and_intros <;> first | exact gang_of (by decide) | exact ⟨_, _, _, rfl⟩ | decide⟩

theorem wit_Module_range : ∃ (s : State) (p : Pend) (c : ModCmd), s.gang? 2 = some (g2 s) ∧ (g2 s).threads.length = 32 ∧ s.modCmds.find? (fun c => c.tag == 0xB00000001) = some c ∧
    s.askerPend c = some (2, 0, p) ∧ s.modStatus c = 3 :=
  ⟨asking (.qpop 0 .zero) qPopRes 1 [], modPend (.qpop 0 .zero), modCommand qPopRes, by and_intros <;> first | exact gang_of (by decide) | decide⟩

theorem wit_Pod_own : ∃ s : State, s.pod.own = some 0 := ⟨ported .up 1, by decide⟩

/-- Peer 1 with messages: the next expected is number 0, one is not acknowledged. -/
def messaged : State := { ported .up 1 with clock := 165000, pod := { (ported .up 1).pod with pairs := [(1, ⟨1, [(0, .loss 5)], 0, [], 0⟩)] } }

theorem wit_Pod_messages : ∃ (s : State) (x : PairState), s.pod.pairs.at_ PairState.reset 1 = x ∧ (0 + 4294967296 - x.nextIn) % 4294967296 = 0 ∧ x.early = [] ∧
    0 < (2147483647 + 4294967296 - x.nextIn) % 4294967296 ∧ (2147483647 + 4294967296 - x.nextIn) % 4294967296 < 2147483648 ∧ x.early.length < 256 ∧
    2147483648 ≤ (2147483648 + 4294967296 - x.nextIn) % 4294967296 ∧ x.since + 165000 ≤ s.clock ∧ x.unacked ≠ [] :=
  ⟨messaged, ⟨1, [(0, .loss 5)], 0, [], 0⟩, by decide⟩

/-- A reply, a send and a refusal are the next messages; what was asked of peer 1 is a load and a store of gang 2. -/
theorem wit_Pod_reply : ∃ (s t : State) (g : Gang), (s.pod.pairs.at_ PairState.reset 1).early = [] ∧ (0 + 4294967296 - (s.pod.pairs.at_ PairState.reset 1).nextIn) % 4294967296 = 0 ∧
    s.pod.asked.find? (fun a => a.1 == 1) = some (1, .nobody) ∧ (t.pod.pairs.at_ PairState.reset 1).early = [] ∧ t.pod.asked.find? (fun a => a.1 == 1) = some (1, .gang 2 31) ∧ t.gang? 2 = some g :=
  ⟨{ messaged with pod := { messaged.pod with asked := [(1, .nobody)] } }, { messaged with pod := { messaged.pod with asked := [(1, .gang 2 31)] } }, g2 messaged, by decide⟩

/-- A relayed request of package 1, and a state that admits it. -/
def request (kind : Nat) : RelayReq := ⟨1, 0, 5, 0x1000, kind, [1, 2, 3, 4], 4⟩

/-- A CONTRIB of one element of a confidential world. -/
def windowed : RelayReq := ⟨1, 15, 5, 0x1000, 3, [0x10, 0, 0, 0, 1, 0, 0, 0], 64⟩
def relaying : State :=
  { ported .up 1 with pod := { (ported .up 1).pod with relay := [(0, ⟨true, 1, 0, 5, 0x1000, 0x1004⟩)] }, modRanges := [⟨5, 0, 0, 0x1000, 0x1004, 3⟩] }

theorem wit_Pod_relay : ∃ (s : State), s.headAt 5 = some 0 ∧ s.relayAdmits (request 0) = true ∧ s.admits 0 = true ∧ s.granted 5 0 0 0x1000 4 1 = true ∧ s.granted 5 0 0 0x1000 4 2 = true :=
  ⟨relaying, by decide⟩

theorem wit_Pod_relay_denied : ∃ (s : State), s.headAt 5 = some 0 ∧ (2 : Nat) < 3 ∧ s.granted 5 0 0 0x1000 4 (2 ^ 2) = false := ⟨relaying, by decide⟩

/-- World 15 with its pod key, and a range for its window. -/
def relaying15 : State :=
  { relaying with
    pod := { relaying.pod with relay := [(0, ⟨true, 1, 15, 5, 0x1000, 0x1080⟩)], admitMask := 0x8000 }
    modRanges := [⟨5, 0, 15, 0x1000, 0x1080, 8⟩]
    trust := { relaying.trust with podKeys := [15] } }

theorem wit_Pod_relay_window : ∃ (s : State), s.headAt 5 = some 0 ∧ s.relayAdmits windowed = true ∧ s.admits 15 = true ∧
    s.granted 5 0 15 0x1000 (s.relayExtent windowed (9007199254740992 + 5 * 17592186044416 + 0x1000)) 8 = true ∧ (5, 15) ∉ s.pod.admitted :=
  ⟨relaying15, by decide⟩

theorem wit_Pod_relay_refused : ∃ (s : State), s.relayAdmits (request 0) = false := ⟨ported .up 1, by decide⟩

/-! ## Network -/

/-- SEND of 1,025 bytes of vault memory, in two packets. -/
def sendWords : List Word := [0x40FFFF20, 0, 0, 0, 0x77, 1025, 0, 0]
/-- The lone task with the command, its send queue and its endpoint open. -/
def netted (m : Cmd) : State := (commanded m).mapCtx 0 fun c => { c with sendQs := [(0, 1)], netEps := [(0, ⟨true, 9, 8, 0⟩)], job := 9, pid := 8 }

theorem wit_Net_message : ∃ (s : State) (c : Crew) (m : Cmd), s.crew? 1 = some c ∧ s.cmd? 1 0 = some m ∧ cmdOp m.img = 0x20 ∧ m.st = .active ∧ m.finished = false ∧ m.pkts = [] ∧ s.refuseMsg c m = none :=
  ⟨netted (aCmd sendWords), c1 base, aCmd sendWords, by decide⟩

theorem wit_Net_refused : ∃ (s : State) (c : Crew) (m : Cmd), s.crew? 1 = some c ∧ s.cmd? 1 0 = some m ∧ cmdOp m.img = 0x20 ∧ m.st = .active ∧ m.finished = false ∧ m.pkts = [] ∧ s.refuseMsg c m = some 0x21 :=
  ⟨commanded (aCmd sendWords), c1 base, aCmd sendWords, by decide⟩

/-- The command with its packets: the first sent some times, the second not yet. -/
def packeted (n : Nat) : Cmd := { aCmd sendWords with pkts := [⟨0, n, false, 1⟩, ⟨1, 0, false, 0⟩] }

theorem wit_Net_transmit : ∃ (s u : State) (c : Crew) (m : Cmd) (b : List Byte), s.crew? 1 = some c ∧ s.cmd? 1 0 = some m ∧ m.st = .active ∧ m.finished = false ∧
    (∃ p ∈ m.pkts, p.acked = false ∧ p.num = 1) ∧ isUud (s.sendQueue c m) = false ∧ packetBytes s c m 1 = (u, .ok b) ∧ u.cmds = s.cmds ∧ u.net = s.net ∧ u.ctxs = s.ctxs ∧ m.nextPacket 1 = true :=
  let s := netted (packeted 1)
  ⟨s, (packetBytes s (c1 base) (packeted 1) 1).1, c1 base, packeted 1, [0], by and_intros <;> first | exact pair_ok (by decide) | rfl | decide⟩

theorem wit_Net_again : ∃ (c : Crew) (m : Cmd) (p q : PktState), (netted m).crew? 1 = some c ∧ m.pkts.find? (fun p => p.num == 0 && !p.acked && p.sends != 0) = some p ∧ p.sends ≤ 16 ∧
    (packeted 17).pkts.find? (fun p => p.num == 0 && !p.acked && p.sends != 0) = some q ∧ 16 < q.sends ∧ c.phase ≠ .killed :=
  ⟨c1 base, packeted 16, ⟨0, 16, false, 1⟩, ⟨0, 17, false, 1⟩, by decide⟩

theorem wit_Net_ack : ∃ (s : State) (c : Crew) (m : Cmd) (ks : List Nat), s.crew? 1 = some c ∧ s.cmd? 1 0 = some m ∧ m.crew = 1 ∧ m.sq = 0 ∧ m.st = .active ∧ m.finished = false ∧
    (∃ p ∈ m.pkts, p.acked = false ∧ (p.num ∉ ks ∨ p.turn = 0)) ∧
    let cov := s.net.covered ++ (m.pkts.filter fun p => decide (p.num ∈ ks) && p.turn != 0 && !p.acked).map fun p => (64 * c.ctx + netSq m.img, p.turn)
    ∀ x ∈ s.cmds, ∀ p ∈ x.pkts, p.acked = true ∨ p.sends = 0 ∨ (x.crew = 1 ∧ x.sq = 0 ∧ p.num ∈ ks ∧ p.turn ≠ 0) ∨ (cov.filter fun q => q.1 == s.queueKey x && decide (p.turn < q.2)).length < 3 :=
  ⟨netted (packeted 1), c1 base, packeted 1, [0], by decide⟩

/-- A message of four packets, of which the first is not acknowledged when the three sent after it are. -/
def losing : Cmd := { aCmd [0x40FFFF20, 0, 0, 0, 0x77, 3073, 0, 0] with pkts := [⟨0, 1, false, 1⟩, ⟨1, 1, false, 2⟩, ⟨2, 1, false, 3⟩, ⟨3, 1, false, 4⟩] }
def lostOne : Cmd := { losing with pkts := [⟨0, 1, false, 1⟩, ⟨1, 1, true, 2⟩, ⟨2, 1, true, 3⟩, ⟨3, 1, true, 4⟩] }

theorem wit_Net_loss : (netted losing).cmds = [losing] ∧ cmdOp losing.img = 0x20 ∧ isUud ((netted losing).sendQueue (c1 base) losing) = false ∧
    let v := (netted losing).notePackets losing [1, 2, 3]
    v.cmds = [lostOne] ∧ lostOne.finished = false ∧ lostOne.pkts.filter (v.showsLoss lostOne) = [⟨0, 1, false, 1⟩] ∧
      lostOne.pkts.find? (fun q => q.num == 0 && !q.acked && q.sends != 0) = some ⟨0, 1, false, 1⟩ := by decide

theorem wit_Net_loss_bytes : ∃ (u : State) (b : List Byte), let v := (netted losing).notePackets losing [1, 2, 3]
    packetBytes v (c1 base) lostOne 0 = (u, .ok b) ∧ u.cmds = v.cmds ∧ u.net = v.net ∧ u.ctxs = v.ctxs :=
  ⟨_, List.replicate 1024 0, pair_ok (by decide +kernel), rfl, rfl, rfl⟩

theorem wit_Net_done : ∃ (m : Cmd) (ks : List Nat), m.pkts ≠ [] ∧ (∀ p ∈ m.pkts, p.acked = true ∨ (p.num ∈ ks ∧ p.turn ≠ 0)) ∧ m.counted = false ∧ cmdDh m.named ≠ 0xFF :=
  ⟨{ aCmd [0x40FF3F20, 0, 0, 0, 0x77, 1025, 0, 0] with pkts := [⟨0, 1, false, 1⟩, ⟨1, 1, false, 2⟩] }, [0, 1], by decide⟩

/-- A packet of a whole message, and a receiver with a slot for it. -/
def aPacket : Packet := ⟨9, 8, 5, 0x77, 4, 0, false, 0, [1, 2, 3, 4]⟩
def receiving : State :=
  (paged.mapCtx 0 fun c => { c with job := 9, pid := 8, recvs := [(1023, ⟨true, 0xFF, 0x77, 4, 0x100000, 0x100100⟩)] })

theorem wit_Net_no_process : ∃ (s t : State), s.jobCtx aPacket.job aPacket.pid = none ∧ (aPacket.job, aPacket.pid, aPacket.msg) ∉ s.net.strays ∧
    t.jobCtx aPacket.job aPacket.pid = none ∧ (aPacket.job, aPacket.pid, aPacket.msg) ∈ t.net.strays :=
  ⟨base, { base with net := { base.net with strays := [(9, 8, 5)] } }, by decide⟩
theorem wit_Net_no_slot : ∃ (s : State), s.jobCtx aPacket.job aPacket.pid = some 0 ∧ (s.ctx 0).matchSlot aPacket.msgid = none := ⟨netted (aCmd sendWords), by decide⟩

theorem wit_Net_received : ∃ (s u u2 : State) (p : Packet) (slot : RecvSlot) (pa pa2 : Nat) (x x2 : DWord), s.jobCtx p.job p.pid = some 0 ∧
    s.net.rx.find? (fun x => x.job == p.job && x.pid == p.pid && x.msg == p.msg) = none ∧ (s.ctx 0).matchSlot p.msgid = some 1023 ∧ (s.ctx 0).recvs.find? 1023 = some slot ∧
    p.rma = false ∧ p.off = 0 ∧ p.len = p.bytes.length ∧ p.bytes.length ≤ slot.blen ∧ chunks slot.buf.toNat p.bytes.length = [(slot.buf.toNat, p.bytes.length)] ∧
    s.engineLoc ⟨s.ctxCore 0, 0, 0, none, .nobody⟩ slot.buf.toNat p.bytes.length .write anyPage = (u, .ok (pa, x)) ∧
    ((u.placePiece ⟨s.ctxCore 0, 0, 0, none, .nobody⟩ pa x p.bytes).setRx (wholeRx p 0 1023)).engineLoc ⟨s.ctxCore 0, 0, 0, none, .nobody⟩ slot.cword.toNat 8 .atomic anyPage =
      (u2, .ok (pa2, x2)) :=
  let e := receiving.engineLoc ⟨receiving.ctxCore 0, 0, 0, none, .nobody⟩ 0x100000 4 .write anyPage
  ⟨receiving, e.1, (((e.1.placePiece ⟨receiving.ctxCore 0, 0, 0, none, .nobody⟩ 0x100000 pageLeaf aPacket.bytes).setRx (wholeRx aPacket 0 1023)).engineLoc
      ⟨receiving.ctxCore 0, 0, 0, none, .nobody⟩ 0x100100 8 .atomic anyPage).1, aPacket, ⟨true, 0xFF, 0x77, 4, 0x100000, 0x100100⟩, 0x100000, 0x100100, pageLeaf, pageLeaf, by
    and_intros <;> first | exact pair_ok (by decide) | decide⟩

/-- A part of a message for a slot whose buffer is not mapped. -/
theorem wit_Net_unplaced : ∃ (s u : State) (p : Packet) (slot : RecvSlot) (f : Flt), s.jobCtx p.job p.pid = some 0 ∧
    s.net.rx.find? (fun x => x.job == p.job && x.pid == p.pid && x.msg == p.msg) = none ∧ (s.ctx 0).matchSlot p.msgid = some 1023 ∧ (s.ctx 0).recvs.find? 1023 = some slot ∧
    p.rma = false ∧ p.off = 0 ∧ p.bytes.length < p.len ∧ p.bytes.length ≤ slot.blen ∧ chunks slot.buf.toNat p.bytes.length = [(slot.buf.toNat, p.bytes.length)] ∧
    s.engineLoc ⟨s.ctxCore 0, 0, 0, none, .nobody⟩ slot.buf.toNat p.bytes.length .write anyPage = (u, .error (.flt f)) :=
  let s := receiving.mapCtx 0 fun c => { c with ptroot := 0x40000 }
  ⟨s, (s.engineLoc ⟨s.ctxCore 0, 0, 0, none, .nobody⟩ 0x100000 4 .write anyPage).1, { aPacket with len := 5 }, ⟨true, 0xFF, 0x77, 4, 0x100000, 0x100100⟩, ⟨cXlateNr, 1, 0x100000⟩, by
    and_intros <;> first | exact pair_err (by decide) | decide⟩

theorem wit_Net_twice : ∃ (s : State) (r : RxMsg), s.jobCtx aPacket.job aPacket.pid = some 0 ∧ s.net.rx.find? (fun x => x.job == aPacket.job && x.pid == aPacket.pid && x.msg == aPacket.msg) = some r ∧
    r.complete = true :=
  ⟨{ receiving with net := { receiving.net with rx := [wholeRx aPacket 0 1023] } }, wholeRx aPacket 0 1023, by decide⟩

/-! ## Host -/

/-- A tenancy with a host-visible range, and a waiting control message. -/
def hosted (waiting : List CtlMsg) : State :=
  { owned 3 with tens := [(0, { Tenancy.fresh 0xFF 1 with hostRanges := [(0, (0x100000, 0x200000))], fence := some 0x100800 })], host := { base.host with waiting := waiting } }

def aMsg : CtlMsg := ⟨7, 0, 1, .garnet, .power 1200, 0⟩

theorem wit_Host_access : ∃ (s : State), s.hostVisible 0 0x1FFFF8 8 = true ∧ s.hostVisible 0 0x1FFFF9 8 = false ∧ s.hostTrusted 0 false = true ∧ s.host.waiting = [] ∧
    s.framesBusy 0x1FFFF8 8 = false ∧ s.framesOwned (s.tenWorld 0) 0x1FFFF8 8 = true := ⟨hosted [], by decide⟩

theorem wit_Host_frames : ∃ (s t : State), (s.hostVisible 0 0x100000 8 = true ∧ s.hostTrusted 0 true = true ∧ s.framesBusy 0x100000 8 = true) ∧
    t.hostVisible 0 0x100000 8 = true ∧ t.hostTrusted 0 true = true ∧ t.framesBusy 0x100000 8 = false ∧ t.framesOwned (t.tenWorld 0) 0x100000 8 = false :=
  ⟨{ hosted [] with trust := { (hosted []).trust with zeroing := [(2, 1)] } }, { hosted [] with trust := { (hosted []).trust with frames := [(2, 1)] } }, by decide⟩

theorem wit_Host_store : ∃ (s : State) (b : List Byte), s.hostVisible 0 (hostSpan (.store 0x100800 b)).1 (hostSpan (.store 0x100800 b)).2 = true ∧ s.hostTrusted 0 true = true ∧ s.host.waiting = [aMsg] ∧
    (s.hostPut 0x100800 b).fenceReached aMsg.ten aMsg.dfseq = true :=
  ⟨hosted [aMsg], bytesOf 8 1, by decide⟩

theorem wit_Host_amo : ∃ (s : State) (a : HostAccess), a = .amo 0x1FFFF8 0 8 1 0 ∧ s.hostVisible 0 (hostSpan a).1 (hostSpan a).2 = true ∧ s.hostTrusted 0 true = true ∧
    s.framesBusy (hostSpan a).1 (hostSpan a).2 = false ∧ s.framesOwned (s.tenWorld 0) (hostSpan a).1 (hostSpan a).2 = true ∧ s.host.waiting = [] :=
  ⟨hosted [], _, rfl, by decide⟩

theorem wit_Host_push : ∃ (s u : State) (item : List Byte), s.hostVisible 0 (hostSpan (.push 0x100000 item)).1 (hostSpan (.push 0x100000 item)).2 = true ∧ s.hostTrusted 0 true = true ∧
    s.ctxsOf 0 = [0] ∧ item.length = (s.queueOf 0x100000 0).isz ∧ s.tenReaches 0 0x100000 64 .atomic = true ∧ s.pushWhole 0 none (s.queueOf 0x100000 0) item = some u :=
  let s := hosted []
  ⟨s, (s.pushWhole 0 none (s.queueOf 0x100000 0) (List.replicate 64 1)).getD base, List.replicate 64 1, by and_intros <;> first | exact some_of base (by decide) | decide⟩

theorem wit_Host_refused : ∃ (s : State) (x : Tenancy), s.hostVisible 0 0x1FFFF8 8 = true ∧ s.hostTrusted 0 false = false ∧ s.tens.find? 0 = some x :=
  ⟨(hosted []).mapDie 0 fun d => { d with world := 1 }, { Tenancy.fresh 0xFF 1 with hostRanges := [(0, (0x100000, 0x200000))], fence := some 0x100800 }, by decide⟩

theorem wit_Host_fence : ∃ (s : State), s.fenceReached 0 0 = true ∧ s.fenceReached 0 1 = false := ⟨hosted [], by decide⟩

theorem wit_Host_behind : ∃ (s : State), s.fenceReached 0 0 = true ∧ s.waitsFirst s.host.nextMsg .garnet = true ∧ s.waitsFirst s.host.nextMsg .bmc = false :=
  ⟨{ hosted [aMsg] with host := { (hosted [aMsg]).host with nextMsg := 8 } }, by decide⟩

theorem wit_Host_timeout_next : ∃ (s : State) (m x : CtlMsg), s.host.waiting = [m, x] ∧ m.num = 7 ∧ m.since + 3300000000 ≤ s.clock ∧ x.num ≠ 7 ∧ s.fenceReached x.ten x.dfseq = true :=
  ⟨{ hosted [aMsg, { aMsg with num := 8, dfseq := 0 }] with clock := 3300000000 }, aMsg, { aMsg with num := 8, dfseq := 0 }, by decide⟩

theorem wit_Host_timeout : ∃ (s : State) (m : CtlMsg), s.host.waiting.find? (fun m => m.num == 7) = some m ∧ m.since + 3300000000 ≤ s.clock ∧
    ∀ x ∈ s.host.waiting, x.num ≠ 7 → s.fenceReached x.ten x.dfseq = false :=
  ⟨{ hosted [aMsg] with clock := 3300000000 }, aMsg, by decide⟩

/-! ## Control plane and root of trust -/

theorem wit_Ownership : ∃ (s : State), s.isOwner .bmc = false ∧ ownerWriteBy .bmc (.retrain .bmc 0) ∧ masterCode .bmc = some 2 ∧ s.trust.owner = 0 ∧ s.trust.pending = none :=
  ⟨base, by decide, rfl, by decide⟩

theorem wit_Ownership_reaches : reachesDevice base .bmc ∧ reachesDevice base (.function 0 true) ∧ ownerWriteBy (.function 0 true) (.worldAssignGo (.function 0 true) 3 15 true) :=
  ⟨nofun, fun ten trusted h => by cases h; decide, rfl⟩

theorem wit_Ownership_refused : ∃ (s : State) (x : Tenancy), s.isOwner (.function 0 false) = false ∧ s.inRecovery = false ∧ s.hostTrusted 0 false = false ∧ s.tens.find? 0 = some x :=
  ⟨worldly, Tenancy.fresh 0xFF 1, by decide⟩

theorem wit_Ownership_recovery : ∃ s : State, s.isOwner (.function 0 false) = false ∧ s.inRecovery = true := ⟨base.mapTrust fun t => { t with boot := .recovery 2 1 }, by decide⟩

theorem wit_Ownership_busy : ∃ (s : State), s.trust.owner ≠ 2 ∧ s.trust.owner ≠ 0 ∧ s.trust.pending = some 2 :=
  ⟨{ base with trust := { base.trust with owner := 1, pending := some 2 } }, by decide⟩

theorem wit_Control_claim : ∃ (s : State) (x : Tenancy), s.isOwner .garnet = true ∧ s.tens.find? 0 = some x ∧
    ((x.claims.at_ Claim.reset 16).owner = 0 ∨ (x.claims.at_ Claim.reset 16).owner = 4) ∧ (x.claims.at_ Claim.reset 6).owner ≠ 0 ∧ (x.claims.at_ Claim.reset 6).owner ≠ 1 :=
  ⟨base, Tenancy.fresh 0xFF 1, by decide⟩

theorem wit_Control_vault : ∃ (s : State), s.isOwner .garnet = true ∧ runFree (s.runsOn 159) (128 - max (s.core 159).qblk 8) (max (s.core 159).qblk 8 - min (s.core 159).qblk 8) = true := ⟨base, by decide⟩

theorem wit_Control_context : ∃ (s : State) (x : Tenancy), s.isOwner .garnet = true ∧ 4095 < Config.contexts ∧ s.tens.find? 0 = some x ∧ (∀ p ∈ s.gangs, p.2.ctx ≠ 4095) ∧ ∀ p ∈ s.crews, p.2.ctx ≠ 4095 :=
  ⟨base, Tenancy.fresh 0xFF 1, by decide⟩

theorem wit_Control_bases : ∃ (s : State) (c : Context), s.ctxs.find? 0 = some c ∧ (0x7FFFFFFFFF0000 : DWord).toNat < 36028797018963968 ∧ (0x7FFFFFFFFF0000 : DWord).toNat % 65536 = 0 ∧
    ∃ p ∈ s.gangs, p.2.ctx = 0 :=
  ⟨base, (base.ctxs.find? 0).getD (Context.fresh 0), by decide⟩

theorem wit_Control_permission : permOk 0xFFFFFF0801 = true ∧ permOk 0xFFFF0801 = false := by decide

theorem wit_Port_error : ∃ (s : State) (f : Flt), s.capability (s.portReach 1) 0 = .error f := ⟨base, ⟨cPriv, 4, 0⟩, by rfl⟩

theorem wit_Port_stranger : ∃ (s : State), s.capability (s.portReach 0) 0xFFFF0000000000FF = .ok (.set 0 255) ∧ s.actsFor .host (.set 0 255) = false ∧
    capPortBy .host 0 0xFFFF0000000000FF (.capportFrd ⟨.host, 0⟩ 0xFFFF0000000000FF 0) :=
  ⟨frozen [], except_set (by decide), by decide, rfl, rfl⟩

theorem wit_Port_frozen : ∃ (s u : State) (v : DWord), s.capability (s.portReach 0) 0xFFFF0000000000FF = .ok (.set 0 255) ∧ s.actsFor .bmc (.set 0 255) = true ∧ selFixed 0x20000 = false ∧ selBad 0xFFFF0000000000FF 0x10005 = false ∧
    s.writeFrozen (.set 0 255) 0x20000 0 = .ok u ∧ (s.resumeFrozen (.set 0 255) 1 2).2 = v :=
  ⟨frozen [], _, _, except_set (by decide), by decide, by decide, by decide, except_of base (by decide), rfl⟩

/-- An image that verifies. -/
def goodImage : BootImage := ⟨1, true, true, 1, 1⟩

theorem wit_Boot : ∃ (s : State) (images : List BootImage), s.trust.boot = .reset ∧ images = List.replicate 5 goodImage ∧ (∀ x ∈ images, bootBad x = none) ∧ s.isOwner .garnet = true :=
  ⟨base, List.replicate 5 goodImage, by decide⟩

theorem wit_Boot_bad : ∃ (images : List BootImage) (x : BootImage), images[4]? = some x ∧ bootBad x = some 2 ∧ ∀ m, m < 4 → ∀ y, images[m]? = some y → bootBad y = none :=
  ⟨List.replicate 4 goodImage ++ [{ goodImage with version := 0 }], { goodImage with version := 0 }, by decide, by decide, by
    intro m hm y hy
    match m, hm with
    | 0, _ => cases hy; decide
    | 1, _ => cases hy; decide
    | 2, _ => cases hy; decide
    | 3, _ => cases hy; decide⟩

/-- Samples that pass the tests: every value once, eight times over. -/
def goodSamples : List Byte := (List.replicate 8 ((List.range 256).map (BitVec.ofNat 8))).flatten

theorem skewed_of_count : ∀ l : List Byte, (∀ b, l.count b ≤ 95) → skewed l = false
  | [], _ => rfl
  | b :: t, h => by
    have h1 : ((b :: t).take 512).count b ≤ 95 := (List.Sublist.count_le b (List.take_sublist _ _)).trans (h b)
    have h2 : skewed t = false := skewed_of_count t fun c => (List.Sublist.count_le c (List.sublist_cons_self _ _)).trans (h c)
    simp only [skewed, h2, Bool.or_false, decide_eq_false_iff_not]
    omega

theorem goodSamples_count (b : Byte) : goodSamples.count b ≤ 95 := by
  have hn : ((List.range 256).map (BitVec.ofNat 8)).Nodup := by
    refine List.Nodup.map_on ?_ List.nodup_range
    intro x hx y hy h
    simp only [List.mem_range] at hx hy
    have := congrArg BitVec.toNat h
    simp only [BitVec.toNat_ofNat] at this
    omega
  have h1 := List.nodup_iff_count_le_one.mp hn b
  simp only [goodSamples, List.count_flatten, List.map_replicate, List.sum_replicate, smul_eq_mul]
  omega

theorem wit_Key : unhealthy [] goodSamples = false ∧ goodSamples.length = 2048 :=
  ⟨by rw [unhealthy, List.nil_append, skewed_of_count _ goodSamples_count, Bool.or_false]; decide +kernel, by decide +kernel⟩

/-- Samples that repeat those before them. -/
theorem wit_Key_bad : unhealthy [0, 0, 0, 0, 0] [0] = true := by decide

/-- World 15 waits for a key on die 3. -/
def keying : State := { base with trust := { base.trust with keyWaits := [⟨[3], 15, true⟩] } }

theorem wit_Key_wanted : ∃ (s : State), s.trust.entropy = .healthy ∧ s.keyWanted 15 = true ∧ ∃ a ∈ s.trust.keyWaits, a.key = true := ⟨keying, by decide⟩

theorem wit_Key_pod : ∃ (s t : State), (s.trust.entropy = .healthy ∧ s.trust.drawn = [] ∧ s.keyWanted 15 = false ∧ 15 ∈ s.trust.podWaits) ∧ t.trust.entropy = .recovering ∧
    unhealthy t.trust.drawn (List.replicate 6 0) = true :=
  ⟨base.mapTrust fun t => { t with podWaits := [15] }, base.mapTrust fun t => { t with entropy := .recovering }, by decide⟩

theorem wit_World_placed : ∃ (s : State), s.isOwner .garnet = true ∧ (s.die 0).status ≠ 1 ∧ otherDies s 0 = [] ∧ s.placedOn [0] = true :=
  ⟨{ base with tens := [(0, Tenancy.fresh 1 1)] }, by decide⟩

theorem wit_World_free : ∃ (s : State), s.isOwner .garnet = true ∧ (s.die 3).status ≠ 1 ∧ otherDies s 3 = [] ∧ s.placedOn [3] = false ∧ (s.die 3).world ≠ 15 ∧ (s.die 3).world = 0 :=
  ⟨{ base with tens := [(0, Tenancy.fresh 8 1)] }, by decide⟩

/-- Dies 2 and 3 of one tenancy: of different worlds, of the asked world, and asked for together. -/
def paired (world : Nat) : State := ({ base with tens := [(0, Tenancy.fresh 12 1)] }.mapDie 2 fun d => { d with world := world }).mapDie 3 fun d => { d with world := world }

theorem wit_World_other : ∃ (s : State), s.isOwner .garnet = true ∧ (∀ d ∈ 3 :: otherDies s 3, (s.die d).status ≠ 1) ∧ s.placedOn [3] = false ∧ ∃ d ∈ otherDies s 3, (s.die d).world ≠ 15 :=
  ⟨paired 0, by decide⟩

theorem wit_World_same : ∃ (s : State), s.placedOn (3 :: otherDies s 3) = false ∧ (s.tenancyOf 3).isSome = true ∧ ∀ d ∈ 3 :: otherDies s 3, (s.die d).world = 15 := ⟨paired 15, by decide⟩

theorem wit_World_all : ∃ (s t : State), (s.placedOn (3 :: otherDies s 3) = false ∧ (∃ d ∈ 3 :: otherDies s 3, (s.die d).world ≠ 15) ∧ (s.trust.localKeys.find? 15).isNone = true ∧
    s.trust.entropy = .healthy) ∧ (∃ d ∈ 3 :: otherDies t 3, (t.die d).world ≠ 15) ∧ t.placedOn (3 :: otherDies t 3) = false ∧ (t.trust.localKeys.find? 15).isNone = true ∧ t.trust.entropy ≠ .healthy :=
  ⟨paired 0, (paired 0).mapTrust fun t => { t with entropy := .locked }, by decide⟩

theorem wit_World_busy : ∃ s : State, ∃ d ∈ 3 :: otherDies s 3, (s.die d).status = 1 := ⟨(paired 0).mapDie 2 fun d => { d with status := 1 }, by decide⟩

/-- A scrub of die 3 that is under way. -/
def scrubbing : State := { base with trust := { base.trust with keyWaits := [⟨[3], 15, false⟩] } }

theorem wit_World_scrub : ∃ (s : State), s.trust.keyWaits.find? (fun a => a.dies.contains 3 && !a.key) = some ⟨[3], 15, false⟩ ∧ (s.die 3).world ≠ 15 := ⟨scrubbing, by decide⟩

theorem wit_Frame : ∃ (s : State), s.isOwner .garnet = true ∧ s.trust.zeroing.find? (fun z => z.1 == 2097151) = some (2097151, 15) :=
  ⟨{ base with trust := { base.trust with zeroing := [(2097151, 15)] } }, by decide⟩

/-- The power limit exceeded in each of the three states of the controller. -/
theorem wit_Power : ∃ (s : State), s.power.limit < 2801 ∧ 1200 ≤ s.power.limit ∧ s.power.throttlePlane = false ∧ 1200 < s.power.mhz := ⟨base, by decide⟩

/-- An idle unit, and one that executes. -/
theorem wit_Power_gate : ∃ (s t : State), (2079 ∉ s.power.gated ∧ s.unitBusy 2079 = false ∧ s.power.used.at_ 0 2079 + 64 ≤ s.clock) ∧ t.unitBusy 11 = true :=
  ⟨{ base with clock := 64 }, base.setArray 0 11 ⟨some anOp, none⟩, by decide⟩

end Sys2Proof.Tests
end

section
/-! SUPPORT. The turn of a gang whose path stands at an instruction. -/

namespace Sys2Proof.Machine

open Sys2Proof.Claims

/-! ## The fetch -/

/-- The word of four bytes is the number they are read as. -/
theorem wordOfBytes_toNat (b0 b1 b2 b3 : Byte) : (wordOfBytes b0 b1 b2 b3).toNat = natOfBytes [b0, b1, b2, b3] := by
  have h0 := b0.isLt
  have h1 := b1.isLt
  have h2 := b2.isLt
  have h3 := b3.isLt
  simp only [wordOfBytes, BitVec.toNat_append, natOfBytes]
  rw [← Nat.shiftLeft_add_eq_or_of_lt h0, ← Nat.shiftLeft_add_eq_or_of_lt h1, ← Nat.shiftLeft_add_eq_or_of_lt h2]
  simp only [Nat.shiftLeft_eq]
  omega

/-- What four bytes of memory decode to is what the number that they are read as decodes to. -/
theorem decodeNat_of_decodeBytes {m : List Host.Cell} {a : Nat} {i : Instr} (h : decodeBytes (readBytes m a 4) = .ok (i, [])) :
    decodeNat (readNum m a 4) = .ok i := by
  simp only [readBytes, decodeBytes, decode, wordOfBytes_toNat] at h
  simp only [readNum, readBytes]
  split at h
  · next e => rw [e]; cases h; rfl
  · cases h

/-- The word at a code address of a segment that is RESIDENT. -/
theorem State.fetch_resident {u : State} {g : Gang} {pc : Nat} {x : Seg} (hx : u.seg? g.core g.ctx (pc / 32768) = some x) (hr : x.st = .resident) :
    u.fetch g pc = some (readNum x.image (pc % 32768) 4) := by
  simp [State.fetch, segOf, hx, hr, Seg.word]

/-! ## The turn -/

theorem State.tick_agenda (s : State) : s.tick.agenda = s.agenda := by
  unfold State.tick State.advance
  split <;> rfl

/-- The gang whose turn it is takes its turn. -/
theorem step_of_turning {s u : State} {gk : Nat} (h : Turning s gk u) : step s = afterward (turn gk u) State.dealSlots := by
  unfold step act
  rcases h with ⟨rest, ha, rfl⟩ | ⟨ha, hn, rfl⟩
  · rw [State.tick_agenda, ha]
  · rw [State.tick_agenda, ha]
    simp only [hn]

section
variable {u : State} {gk : Nat} {g : Gang} {c : Choice} {w : Nat} {i : Instr}

/-- The plan of a gang that issues an instruction: held, it stays where it is; else the instruction is for exec. -/
theorem State.plan_of_decodes (hg : u.gang? gk = some g) (hold : g.meet.forcedRun ≠ [] ∨ g.meet.agedPath (u.ctx g.meet.ctx).ageMax = none)
    (hc : g.meet.choose = some c) (hl : c.lanes ≠ []) (hf : (u.setGang gk g.meet).fetch g.meet (c.pc g.meet) = some w)
    (hd : decodeNat w = .ok i) (hk : g.meet.damagedLanes c.lanes = []) :
    u.plan gk = (let g' := g.meet.mapLanes c.lanes Thread.passMeeting
      let v : State := { u.setGang gk g' with cur := some ⟨gk, maskOf c.lanes⟩ }
      if v.held gk g' c.lanes i then .idle (v.whileHeld gk g' c.lanes i).clearCur else .word i v c) := by
  have hage : (if g.meet.forcedRun.isEmpty then g.meet.agedPath ((u.setGang gk g.meet).ctx g.meet.ctx).ageMax else none) = none := by
    have hctx : (u.setGang gk g.meet).ctx g.meet.ctx = u.ctx g.meet.ctx := rfl
    rw [hctx]
    rcases hold with h | h
    · simp [h]
    · simp [h]
  have hset : (u.setGang gk g.meet).setGang gk (g.meet.mapLanes c.lanes Thread.passMeeting) = u.setGang gk (g.meet.mapLanes c.lanes Thread.passMeeting) := by
    simp [State.setGang, Tbl.put_put]
  unfold State.plan
  simp only [hg, hage, hc, hf, hd, hk, hset]
  split
  · contradiction
  · simp

end

end Sys2Proof.Machine
end
section
/-! PROOF. What package reset leaves, and the step of a decoded instruction. -/

open Sys2Proof Sys2Proof.Machine Sys2Proof.Claims

/-- Settles O4: every value stands in the reset state, and its tables are empty. -/
theorem resetValues : Obligations.ResetValues := by
  unfold Obligations.ResetValues
  refine ⟨rfl, rfl, rfl, rfl, rfl, fun _ => rfl, fun _ => ⟨rfl, rfl, rfl⟩, fun _ _ => rfl, fun _ => rfl, rfl, rfl, rfl, rfl, rfl, rfl, rfl,
    fun _ => ⟨rfl, rfl⟩, rfl, fun w hw => ?_⟩
  simp [State.admits, State.reset, hw]

/-- Settles O5: the reset state has no gang, no work and no memory. -/
theorem resetSound : Obligations.ResetSound := by
  unfold Obligations.ResetSound
  exact ⟨rfl, rfl, rfl, rfl, rfl⟩

/-- Settles O3: the plan of the gang whose turn it is decides what the step does. -/
theorem stepRunsDecoded : Obligations.StepRunsDecoded := by
  unfold Obligations.StepRunsDecoded
  refine ⟨fun s u v gk g c x i hturn hg hold hc hl hx hr hd hk hv => ?_, fun s i rest ha hi t ht => ?_⟩
  · have hplan := State.plan_of_decodes hg hold hc hl (State.fetch_resident hx hr) (decodeNat_of_decodeBytes hd) hk
    dsimp only at hplan
    rw [← hv] at hplan
    refine ⟨fun hheld t ht => ?_, fun hheld => ?_⟩
    · rw [step_of_turning hturn, turn, hplan]
      simp [hheld, ht, afterward]
    · rw [step_of_turning hturn, turn, hplan]
      simp [hheld, afterward]
  · unfold step act
    rw [State.tick_agenda, ha]
    simp [hi, ht, afterward]

end

section
/-! SUPPORT. No operation on a gang changes the number of its threads (R9). -/

namespace Sys2Proof.Machine

-- One proof at a time: many at once need more threads than the memory limit allows.
set_option Elab.async false

variable (g : Gang)

theorem Gang.foldl_len {α : Type} {f : Gang → α → Gang} (hf : ∀ g a, (f g a).threads.length = g.threads.length) (l : List α) :
    ∀ g : Gang, (l.foldl f g).threads.length = g.threads.length := by
  induction l with
  | nil => exact fun _ => rfl
  | cons a l ih => exact fun g => (ih _).trans (hf g a)

@[simp] theorem Gang.mapThreads_len (g : Gang) (f : Thread → Thread) : ({ g with threads := g.threads.map f } : Gang).threads.length = g.threads.length := by simp

@[simp] theorem Gang.closeIvs_len (p : Iv → Bool) : (g.closeIvs p).threads.length = g.threads.length := rfl
@[simp] theorem Gang.closeIntervals_len : g.closeIntervals.threads.length = g.threads.length := rfl
@[simp] theorem Gang.prune_len : g.prune.threads.length = g.threads.length := rfl
@[simp] theorem Gang.endInterval_len : g.endInterval.threads.length = g.threads.length := rfl
@[simp] theorem Gang.undamage_len (ls : List Nat) : (Gang.undamage ls g).threads.length = g.threads.length := rfl
@[simp] theorem Gang.block_len (l : Nat) (p : Pend) : (g.block l p).threads.length = g.threads.length := by simp [Gang.block]
@[simp] theorem Gang.freezeLanes_len (ls : List Nat) (n : Nat) : (g.freezeLanes ls n).threads.length = g.threads.length := by simp [Gang.freezeLanes]
@[simp] theorem Gang.park_len (h : Held) (outs : List (Nat × LaneOut)) : (g.park h outs).threads.length = g.threads.length := by simp [Gang.park]
@[simp] theorem Gang.preempt_len : g.preempt.threads.length = g.threads.length := by simp [Gang.preempt]
@[simp] theorem Gang.meet_len : g.meet.threads.length = g.threads.length := by simp [Gang.meet]
@[simp] theorem Gang.endTask_len : g.endTask.threads.length = g.threads.length := by simp [Gang.endTask]
@[simp] theorem Gang.withControl_len (b : List Byte) : (g.withControl b).threads.length = g.threads.length := by simp [Gang.withControl]
@[simp] theorem Gang.afterIssue_len (b : Gang) (pc : Nat) (x : Choice) : (g.afterIssue b pc x).threads.length = g.threads.length := rfl
@[simp] theorem Gang.dropLost_len (l : Nat) : (g.dropLost l).threads.length = g.threads.length := rfl
@[simp] theorem Gang.force_len (pc : Nat) : (g.force pc).threads.length = g.threads.length := by simp [Gang.force]
@[simp] theorem State.noteReady_len (s : State) (k : Nat) : (s.noteReady k g).threads.length = g.threads.length := rfl

@[simp] theorem Gang.dropPage_len (ctx page : Nat) : (g.dropPage ctx page).threads.length = g.threads.length := by
  unfold Gang.dropPage
  split <;> simp

@[simp] theorem Gang.relayed_len (l : Nat) : (g.relayed l).threads.length = g.threads.length := by
  unfold Gang.relayed
  dsimp only
  repeat' split
  all_goals rfl

@[simp] theorem Gang.acknowledge_len (n : Nat) : (g.acknowledge n).threads.length = g.threads.length := by
  unfold Gang.acknowledge
  dsimp only
  repeat' split
  all_goals rfl

@[simp] theorem Gang.lose_len (n : Nat) (p : Nat × Nat) : (g.lose n p).threads.length = g.threads.length := by
  unfold Gang.lose
  split <;> rfl

@[simp] theorem Gang.putSelector_len (x y : Word) : (g.putSelector x y).threads.length = g.threads.length := by
  unfold Gang.putSelector
  split <;> simp

@[simp] theorem Gang.setLine_len (n : Nat) (ws : List Word) : (g.setLine n ws).threads.length = g.threads.length :=
  Gang.foldl_len (fun g i => by dsimp only; split <;> rfl) _ g

@[simp] theorem Gang.takeFlags_len (out : List (Word × Nat)) : (g.takeFlags out).threads.length = g.threads.length :=
  Gang.foldl_len (fun g l => by simp) _ g

@[simp] theorem Gang.writeVs_len {α : Type} (l : List α) (i j : α → Nat) (x : α → Word) :
    (l.foldl (fun (g : Gang) a => g.writeV (i a) (j a) (x a)) g).threads.length = g.threads.length := by
  apply Gang.foldl_len
  exact fun _ _ => rfl

@[simp] theorem Gang.writeKs_len (ws : List (Nat × Word)) : (ws.foldl (fun (g : Gang) p => g.writeK p.1 p.2) g).threads.length = g.threads.length := by
  apply Gang.foldl_len
  exact fun _ _ => rfl

@[simp] theorem Gang.takeMma_len (o : ArrayOp) (out : List (Word × Nat)) : (g.takeMma o out).threads.length = g.threads.length :=
  Gang.foldl_len (fun g l => by simp) _ g

theorem Form.complete_len (f : Form) (l : Nat) (d : Done) : (f.complete g l d).1.threads.length = g.threads.length := by
  unfold Form.complete
  dsimp only
  split <;> simp

theorem Form.settleLane_len (f : Form) (h : Held) (l : Nat) (o : LaneOut) : (f.settleLane h g l o).1.threads.length = g.threads.length := by
  cases o with
  | done d => exact f.complete_len g l d
  | fault x => rfl
  | wait w x => exact g.block_len l _
  | exit => exact g.setTh_len l _

@[simp] theorem Form.settleLanes_len (f : Form) (h : Held) (outs : List (Nat × LaneOut)) : (f.settleLanes h g outs).1.threads.length = g.threads.length := by
  have key : ∀ (outs : List (Nat × LaneOut)) (p : Gang × List (Nat × Flt)), (outs.foldl (fun (acc : Gang × List (Nat × Flt)) o =>
      let r := f.settleLane h acc.1 o.1 o.2
      (r.1, match r.2 with | some x => acc.2 ++ [(o.1, x)] | none => acc.2)) p).1.threads.length = p.1.threads.length := by
    intro outs
    induction outs with
    | nil => exact fun _ => rfl
    | cons o outs ih => exact fun p => (ih _).trans (f.settleLane_len p.1 h o.1 o.2)
  exact key outs (g, [])

/-! ## Gangs that begin -/

@[simp] theorem contGang_len (ctx level : Nat) (b : List Byte) : (contGang ctx level b).threads.length = 32 := by
  simp [contGang, Gang.make]

@[simp] theorem handlerGang_len (ctx core slot : Nat) (pc : Word) (r : Rec) (clock : Nat) : (handlerGang ctx core slot pc r clock).threads.length = 32 := by
  simp [handlerGang, Gang.make]

theorem startGang_len {crew : Nat} {c : Crew} (hc : ∀ k, c.cont = some k → k.gang.threads.length = 32) (t : Stage) (arg : DWord) (i : Nat) :
    (startGang crew c t arg i).threads.length = 32 := by
  unfold startGang
  split
  · exact hc _ ‹_›
  · simp [Gang.make]

@[simp] theorem Op.env_len (o : Op) (s : State) (gk : Nat) (ls : List Nat) (h : Hints) : (o.env s gk g ls h).g.threads.length = g.threads.length := by
  simp [Op.env]

end Sys2Proof.Machine
end

section
/-! SUPPORT. The parts of a state that soundness speaks of, and what the updates of the state do to them. -/

namespace Sys2Proof.Machine

-- One proof at a time: many at once need more threads than the memory limit allows.
set_option Elab.async false

/-! ## The sound parts of a state -/

/-- Every gang of a table has its 32 threads (R9). -/
def gangsWhole (gs : Tbl Gang) : Prop := ∀ p ∈ gs, p.2.threads.length = 32

/-- The continuations of a launch bring their 32 threads. -/
def Launch.whole (l : Launch) : Prop := ∀ k ∈ l.conts, k.gang.threads.length = 32

/-- The continuation that a crew goes on with brings its 32 threads. -/
def Crew.whole (c : Crew) : Prop := ∀ k, c.cont = some k → k.gang.threads.length = 32

/-- A state is sound but for the path in the middle of an issue, which is `c`. -/
structure Fit (c : Option Cur) (s : State) : Prop where
  mem : Memory.wf s.mem = true
  whole : gangsWhole s.gangs
  order : s.gangs.rising = true
  crews : ∀ p ∈ s.crews, p.2.whole
  launches : ∀ l ∈ s.launches, l.whole
  cur : s.cur = c

variable {c : Option Cur} {s t : State}

theorem sound_iff_fit : Sound s ↔ Fit none s := by
  have hw : s.whole = true ↔ gangsWhole s.gangs := by simp [State.whole, gangsWhole]
  have hc : s.contsWhole = true ↔ (∀ p ∈ s.crews, p.2.whole) ∧ ∀ l ∈ s.launches, l.whole := by
    simp only [State.contsWhole, Bool.and_eq_true, List.all_eq_true, Launch.whole, Crew.whole, beq_iff_eq]
    rw [and_comm]
    refine and_congr_left' (forall₂_congr fun p _ => ?_)
    cases p.2.cont <;> simp
  exact ⟨fun ⟨h1, h2, h3, h4, h5⟩ => ⟨h1, hw.1 h2, h4, (hc.1 h3).1, (hc.1 h3).2, h5⟩,
    fun ⟨h1, h2, h3, h4, h5, h6⟩ => ⟨h1, hw.2 h2, hc.2 ⟨h4, h5⟩, h3, h6⟩⟩

/-! ## Memory -/

theorem Memory.wf_apply {m : List Host.Cell} (h : Memory.wf m = true) (e : LogOp) : Memory.wf (LogOp.apply m e) = true := by
  cases e <;> exact Memory.wf_writeBytes _ h _

/-! ## Tables -/

theorem Tbl.rising_map {α β : Type} {t : Tbl α} {f : Nat × α → Nat × β} (hf : ∀ p, (f p).1 = p.1) (h : t.rising = true) : Tbl.rising (t.map f) = true := by
  induction t with
  | nil => rfl
  | cons p t ih =>
    obtain ⟨h1, h2⟩ := Tbl.rising_cons.1 h
    rw [List.map_cons, ← Prod.mk.eta (p := f p)]
    refine Tbl.rising_cons.2 ⟨fun q hq => ?_, ih h2⟩
    obtain ⟨r, hr, rfl⟩ := List.mem_map.1 hq
    rw [hf, hf]
    exact h1 r hr

theorem Tbl.rising_adjust {α : Type} {t : Tbl α} (n : Nat) (f : α → α) (h : t.rising = true) : (t.adjust n f).rising = true :=
  Tbl.rising_map (fun p => by split <;> rfl) h

theorem Tbl.mem_of_find? {α : Type} {t : Tbl α} {n : Nat} {a : α} (h : t.find? n = some a) : (n, a) ∈ t := by
  induction t with
  | nil => cases h
  | cons p t ih =>
    simp only [Tbl.find?] at h
    split at h
    · rename_i e
      cases h
      exact e ▸ List.mem_cons_self ..
    · exact List.mem_cons_of_mem _ (ih h)

/-- A property of every value of a table is kept by a change that keeps it. -/
theorem Tbl.all_adjust {α : Type} {t : Tbl α} {P : α → Prop} (n : Nat) {f : α → α} (hf : ∀ a, P a → P (f a)) (h : ∀ p ∈ t, P p.2) :
    ∀ p ∈ t.adjust n f, P p.2 := by
  intro p hp
  obtain ⟨q, hq, rfl⟩ := List.mem_map.1 hp
  split
  · exact hf _ (h q hq)
  · exact h q hq

theorem Tbl.all_put {α : Type} {t : Tbl α} {P : α → Prop} (n : Nat) {a : α} (ha : P a) (h : ∀ p ∈ t, P p.2) : ∀ p ∈ t.put n a, P p.2 := fun p hp => by
  rcases Tbl.mem_put hp with rfl | hp
  · exact ha
  · exact h p hp

/-! ## The updates of the state -/

/-- Soundness looks at five fields: whatever the others are given, the state stays as sound. -/
theorem Fit.same {clock pace agenda free nextKey ctxs tens fe tags poison ivClock cores dies cmds ports modCmds commits sends refusals modRanges pages pod host
    net trust power errors late passing records timer} (h : Fit c s) :
    Fit c { s with
      clock := clock, pace := pace, agenda := agenda, free := free, nextKey := nextKey, ctxs := ctxs, tens := tens, fe := fe, tags :=
      tags, poison := poison, ivClock := ivClock, cores := cores, dies := dies, cmds := cmds, ports := ports, modCmds := modCmds,
      commits := commits, sends := sends, refusals := refusals, modRanges := modRanges, pages := pages, pod := pod, host := host, net :=
      net, trust := trust, power := power, errors := errors, late := late, passing := passing, records := records, timer := timer } :=
  ⟨h.mem, h.whole, h.order, h.crews, h.launches, h.cur⟩

theorem Fit.len (h : Fit c s) {k : Nat} {g : Gang} (e : s.gang? k = some g) : g.threads.length = 32 := h.whole _ (Tbl.mem_of_find? e)

theorem Fit.crewWhole (h : Fit c s) {k : Nat} {x : Crew} (e : s.crew? k = some x) : x.whole := h.crews _ (Tbl.mem_of_find? e)

theorem Fit.launchWhole (h : Fit c s) {ctx serial : Nat} {l : Launch} (e : s.launch? ctx serial = some l) : l.whole := h.launches _ (List.mem_of_find?_eq_some e)

/-- The first of a pair that is known by its parts. -/
theorem Fit.of_eq {α : Type} {p : State × α} {x : α} (h : Fit c p.1) (e : p = (t, x)) : Fit c t := by subst e; exact h

theorem Fit.withMem {m : List Host.Cell} (h : Fit c s) (hm : Memory.wf s.mem = true → Memory.wf m = true) : Fit c { s with mem := m } :=
  ⟨hm h.mem, h.whole, h.order, h.crews, h.launches, h.cur⟩

theorem Fit.withGangs {gs : Tbl Gang} (h : Fit c s) (hw : gangsWhole s.gangs → gangsWhole gs) (ho : s.gangs.rising = true → gs.rising = true) :
    Fit c { s with gangs := gs } :=
  ⟨h.mem, hw h.whole, ho h.order, h.crews, h.launches, h.cur⟩

theorem Fit.withCrews {cs : Tbl Crew} (h : Fit c s) (hc : (∀ p ∈ s.crews, p.2.whole) → ∀ p ∈ cs, p.2.whole) : Fit c { s with crews := cs } :=
  ⟨h.mem, h.whole, h.order, hc h.crews, h.launches, h.cur⟩

theorem Fit.withLaunches {ls : List Launch} (h : Fit c s) (hl : (∀ l ∈ s.launches, l.whole) → ∀ l ∈ ls, l.whole) : Fit c { s with launches := ls } :=
  ⟨h.mem, h.whole, h.order, h.crews, hl h.launches, h.cur⟩

theorem Fit.store {a : Nat} {b : List Byte} (h : Fit c s) : Fit c (s.store a b) := h.withMem fun h => Memory.wf_writeBytes b h a

theorem Fit.setGang {k : Nat} {x : Gang} (h : Fit c s) (hx : x.threads.length = 32) : Fit c (s.setGang k x) :=
  h.withGangs (Tbl.all_put (P := fun g : Gang => g.threads.length = 32) k hx) fun h => Tbl.rising_put h k x

theorem Fit.mapGang {k : Nat} {f : Gang → Gang} (h : Fit c s) (hf : ∀ g, g.threads.length = 32 → (f g).threads.length = 32 := by simp) : Fit c (s.mapGang k f) :=
  h.withGangs (Tbl.all_adjust (P := fun g : Gang => g.threads.length = 32) k hf) (Tbl.rising_adjust k f)

/-- A change of every gang that leaves the keys. -/
theorem Fit.mapGangs {f : Nat × Gang → Nat × Gang} (h : Fit c s) (hk : ∀ p, (f p).1 = p.1) (hf : ∀ p, p.2.threads.length = 32 → (f p).2.threads.length = 32) :
    Fit c { s with gangs := s.gangs.map f } :=
  h.withGangs (fun h p hp => by
    obtain ⟨q, hq, rfl⟩ := List.mem_map.1 hp
    exact hf q (h q hq)) (Tbl.rising_map hk)

theorem Fit.filterGangs {p : Nat × Gang → Bool} (h : Fit c s) : Fit c { s with gangs := s.gangs.filter p } :=
  h.withGangs (fun h q hq => h q (List.mem_filter.1 hq).1) fun h => Tbl.rising_filter h p

theorem Fit.mapCrew {k : Nat} {f : Crew → Crew} (h : Fit c s) (hf : ∀ x, x.whole → (f x).whole := by exact fun _ h => h) : Fit c (s.mapCrew k f) :=
  h.withCrews (Tbl.all_adjust k hf)

theorem Fit.mapCrews {f : Nat × Crew → Nat × Crew} (h : Fit c s) (hf : ∀ p, p.2.whole → (f p).2.whole := by exact fun _ h => h) : Fit c { s with crews := s.crews.map f } :=
  h.withCrews fun h p hp => by
    obtain ⟨q, hq, rfl⟩ := List.mem_map.1 hp
    exact hf q (h q hq)

theorem Fit.putCrew {k : Nat} {x : Crew} (h : Fit c s) (hx : x.whole) : Fit c { s with crews := s.crews.put k x } :=
  h.withCrews (Tbl.all_put k hx)

theorem Fit.filterCrews {p : Nat × Crew → Bool} (h : Fit c s) : Fit c { s with crews := s.crews.filter p } :=
  h.withCrews fun h q hq => h q (List.mem_filter.1 hq).1

theorem Fit.mapLaunches {f : Launch → Launch} (h : Fit c s) (hf : ∀ l, l.whole → (f l).whole := by exact fun _ h => h) : Fit c { s with launches := s.launches.map f } :=
  h.withLaunches fun h l hl => by
    obtain ⟨q, hq, rfl⟩ := List.mem_map.1 hl
    exact hf q (h q hq)

theorem Fit.filterLaunches {p : Launch → Bool} (h : Fit c s) : Fit c { s with launches := s.launches.filter p } :=
  h.withLaunches fun h q hq => h q (List.mem_filter.1 hq).1

theorem Fit.addLaunch {l : Launch} (h : Fit c s) (hl : l.whole) : Fit c { s with launches := s.launches ++ [l] } :=
  h.withLaunches fun h => List.forall_mem_append.2 ⟨h, List.forall_mem_singleton.2 hl⟩

theorem Fit.mapLaunch {a b : Nat} {f : Launch → Launch} (h : Fit c s) (hf : ∀ l, l.whole → (f l).whole := by exact fun _ h => h) : Fit c (s.mapLaunch a b f) :=
  h.mapLaunches fun l hl => by
    split
    · exact hf l hl
    · exact hl

theorem Fit.mapCtx {k : Nat} {f : Context → Context} (h : Fit c s) : Fit c (s.mapCtx k f) := h.same
theorem Fit.mapTen {k : Nat} {f : Tenancy → Tenancy} (h : Fit c s) : Fit c (s.mapTen k f) := h.same
theorem Fit.mapCore {k : Nat} {f : Core → Core} (h : Fit c s) : Fit c (s.mapCore k f) := h.same
theorem Fit.mapDie {k : Nat} {f : Die → Die} (h : Fit c s) : Fit c (s.mapDie k f) := h.same
theorem Fit.mapPort {k : Nat} {f : Port → Port} (h : Fit c s) : Fit c (s.mapPort k f) := h.same
theorem Fit.mapTrust {f : Trust → Trust} (h : Fit c s) : Fit c (s.mapTrust f) := h.same
theorem Fit.mapPod {f : Pod → Pod} (h : Fit c s) : Fit c (s.mapPod f) := h.same
theorem Fit.report {u k d : Nat} (h : Fit c s) : Fit c (s.report u k d) := h.same

/-! ## Steps one after the other -/

theorem Fit.foldl {α : Type} {f : State → α → State} (hf : ∀ s a, Fit c s → Fit c (f s a)) {l : List α} : ∀ {s : State}, Fit c s → Fit c (l.foldl f s) := by
  induction l with
  | nil => exact fun h => h
  | cons a l ih => exact fun h => ih (hf _ a h)

/-- As `Fit.foldl`, for steps that carry a value beside the state. -/
theorem Fit.foldlFst {α β : Type} {f : State × β → α → State × β} (hf : ∀ p a, Fit c p.1 → Fit c (f p a).1) {l : List α} :
    ∀ {p : State × β}, Fit c p.1 → Fit c (l.foldl f p).1 := by
  induction l with
  | nil => exact fun h => h
  | cons a l ih => exact fun h => ih (hf _ a h)

theorem Fit.ite_fst {α : Type} {p : Prop} [Decidable p] {x y : State × α} (hx : Fit c x.1) (hy : Fit c y.1) : Fit c (if p then x else y).1 := by
  split
  · exact hx
  · exact hy

/-- Where an optional next state is answered, it is sound. -/
def FitOpt (c : Option Cur) (o : Option State) : Prop := ∀ t, o = some t → Fit c t

theorem FitOpt.none : FitOpt c none := fun _ e => by cases e
theorem FitOpt.some (h : Fit c s) : FitOpt c (some s) := fun _ e => by cases e; exact h

theorem FitOpt.getD {o : Option State} (ho : FitOpt c o) (h : Fit c s) : Fit c (o.getD s) := by
  cases o with
  | none => exact h
  | some t => exact ho t rfl

theorem FitOpt.map {o : Option State} {f : State → State} (ho : FitOpt c o) (hf : ∀ s, Fit c s → Fit c (f s)) : FitOpt c (o.map f) := by
  rintro _ e
  obtain ⟨t, ht, rfl⟩ := Option.map_eq_some_iff.1 e
  exact hf t (ho t ht)

theorem FitOpt.findSome {α : Type} {l : List α} {f : α → Option State} (hf : ∀ a, FitOpt c (f a)) : FitOpt c (l.findSome? f) := by
  intro t e
  obtain ⟨a, -, ha⟩ := List.exists_of_findSome?_eq_some e
  exact hf a t ha

/-- Where a next state is answered, it is sound. -/
def FitOut (c : Option Cur) (o : Host.Outcome State Fault Refusal) : Prop := ∀ t, o = .next t → Fit c t

theorem FitOut.next (h : Fit c s) : FitOut c (.next s) := fun _ e => by cases e; exact h
theorem FitOut.fault {r : Fault} : FitOut c (.fault r) := fun _ e => by cases e
theorem FitOut.refused {r : Refusal} : FitOut c (.refused r) := fun _ e => by cases e

/-- Where a state is answered in place of an error, it is sound. -/
def FitExc {ε : Type} (c : Option Cur) (o : Except ε State) : Prop := ∀ t, o = .ok t → Fit c t

theorem FitExc.ok {ε : Type} (h : Fit c s) : FitExc (ε := ε) c (.ok s) := fun _ e => by cases e; exact h
theorem FitExc.error {ε : Type} {x : ε} : FitExc c (.error x) := fun _ e => by cases e

/-! ## Instructions and engines -/

/-- What an instruction does for its lanes keeps a state sound, from whatever sound gang it is given. -/
structure Op.Fits (o : Op) : Prop where
  body : ∀ {c s e}, Fit c s → e.g.threads.length = 32 → Fit c (o.body s e).1
  stall : ∀ {c s e}, Fit c s → Fit c (o.stall s e)

/-- What an engine does for the parts of a command keeps a state sound. -/
structure Engine.Fits (e : Engine) : Prop where
  source : ∀ {c s x m n}, Fit c s → Fit c (e.source s x m n).1
  dest : ∀ {c s x m n b}, Fit c s → Fit c (e.dest s x m n b).1

theorem Fit.source {e : Engine} {x : Crew} {m : Cmd} {n : Nat} (h : Fit c s) (he : e.Fits) : Fit c (e.source s x m n).1 := he.source h

theorem Fit.dest {e : Engine} {x : Crew} {m : Cmd} {n : Nat} {b : List Byte} (h : Fit c s) (he : e.Fits) : Fit c (e.dest s x m n b).1 := he.dest h

theorem Fit.body {o : Op} {e : Env} (h : Fit c s) (ho : o.Fits) (hg : e.g.threads.length = 32) : Fit c (o.body s e).1 := ho.body h hg

theorem Fit.stall {o : Op} {e : Env} (h : Fit c s) (ho : o.Fits) : Fit c (o.stall s e) := ho.stall h

end Sys2Proof.Machine
end

section
/-! SUPPORT. The functions of the state that instructions and steps of the device are made of keep a state sound. -/

namespace Sys2Proof.Machine

-- One proof at a time: many at once need more threads than the memory limit allows.
set_option Elab.async false

variable {c : Option Cur} {s t : State}

theorem Fit.setFull {pa : Nat} {full : Bool} (h : Fit c s) : Fit c (s.setFull pa full) := by
  unfold State.setFull
  exact h.same

theorem Fit.scrubRange {a : Nat} {n : Nat} (h : Fit c s) : Fit c (s.scrubRange a n) := by
  unfold State.scrubRange
  dsimp only
  exact (h.withMem (fun h => Memory.wf_eraseRange h _ _)).same

theorem Fit.countRefusal {pa : Nat} {sub : Nat} (h : Fit c s) : Fit c (s.countRefusal pa sub) := by
  unfold State.countRefusal
  split
  · split
    · exact h.mapDie.report
    · exact h
  · exact h

theorem Fit.dropCopies {pa : Nat} (h : Fit c s) : Fit c (s.dropCopies pa) := by
  unfold State.dropCopies
  exact h.same

theorem Fit.storeOver {pa : Nat} {bytes : List Byte} (h : Fit c s) : Fit c (s.storeOver pa bytes) := by
  unfold State.storeOver
  exact Fit.foldl (fun _ _ h => h.dropCopies) h.store

theorem Fit.storeLeaf {at_ : Nat} {y : DWord} (h : Fit c s) : Fit c (s.storeLeaf at_ y) := by
  unfold State.storeLeaf
  split
  · exact h
  · exact h.storeOver

theorem Fit.passHome {ctx : Nat} {x : DWord} {pa : Nat} {n : Nat} {writes : Bool} (h : Fit c s) : Fit c (s.passHome ctx x pa n writes) := by
  unfold State.passHome
  split
  · exact h.same
  · exact h

theorem Fit.touchPage {ctx : Nat} {va : DWord} {n : Nat} {a : Access} (h : Fit c s) : Fit c (s.touchPage ctx va n a) := by
  unfold State.touchPage
  split
  · exact h.storeLeaf.passHome
  · exact h.countRefusal
  · exact h

theorem Fit.touchRun {ctx : Nat} {va : DWord} {n : Nat} {a : Access} (h : Fit c s) : Fit c (s.touchRun ctx va n a) := by
  unfold State.touchRun
  exact h.touchPage.touchPage

theorem Fit.writePage {ctx : Nat} {va : DWord} {bytes : List Byte} (h : Fit c s) : Fit c (s.writePage ctx va bytes) := by
  unfold State.writePage
  split
  · exact h
  · split
    · exact h.storeLeaf.storeOver.passHome
    · exact h.countRefusal
    · exact h.same
    · exact h.same
    · exact h

theorem Fit.writeImage {ctx : Nat} {va : DWord} {bytes : List Byte} (h : Fit c s) : Fit c (s.writeImage ctx va bytes) := by
  unfold State.writeImage
  dsimp only
  exact h.writePage.writePage

theorem Fit.setPage {p : MigPage} (h : Fit c s) : Fit c (s.setPage p) := by
  unfold State.setPage
  exact h.same

theorem Fit.sweepPage {ctx : Nat} {page : Nat} (h : Fit c s) : Fit c (s.sweepPage ctx page) := by
  unfold State.sweepPage
  dsimp only
  exact (h.mapGangs (by simp) (by simp)).same

theorem Fit.putLeaf {l : MigLeaf} {x : DWord} (h : Fit c s) : Fit c (s.putLeaf l x) := by
  unfold State.putLeaf
  exact h.storeOver.sweepPage

theorem Fit.returnLeaf {mig : Bool} {l : MigLeaf} (h : Fit c s) : Fit c (s.returnLeaf mig l) := by
  unfold State.returnLeaf
  dsimp only
  split
  · exact h.putLeaf.mapTen
  · exact h.putLeaf

theorem Fit.beginCollapse {ctx : Nat} {page : Nat} {at_ : Nat} {remote : DWord} {p : MigPage} (h : Fit c s) : Fit c (s.beginCollapse ctx page at_ remote p) := by
  unfold State.beginCollapse
  dsimp only
  exact ((Fit.foldl (fun _ _ h => h.returnLeaf) h).putLeaf).setPage

theorem Fit.fillTlbs {core : Nat} {e : TlbEntry} (h : Fit c s) : Fit c (s.fillTlbs core e) := by
  unfold State.fillTlbs
  exact h.mapCore.mapDie

theorem Fit.writeDup {ctx : Nat} {page : Nat} {at_ : Nat} {x : DWord} (h : Fit c s) : Fit c (s.writeDup ctx page at_ x) := by
  unfold State.writeDup
  dsimp only
  split
  · exact h.beginCollapse
  · split
    · exact h.beginCollapse
    · exact h

theorem Fit.settleLate (h : Fit c s) : Fit c s.settleLate := by
  unfold State.settleLate
  refine Fit.foldl (fun s a h => ?_) h.same
  dsimp only
  split
  · exact h.writeDup.same
  · exact h.writePage

theorem Fit.useLeaf {core : Nat} {ctx : Nat} {page : Nat} {first : Nat} {span : Nat} {at_ : Nat} {x : DWord} {a : Access} (h : Fit c s) : Fit c (s.useLeaf core ctx page first span at_ x a).1 := by
  unfold State.useLeaf
  dsimp only
  split
  · exact h.writeDup
  · split
    · exact h
    · exact h.storeLeaf.fillTlbs

theorem Fit.useMaster {core : Nat} {ctx : Nat} {page : Nat} {at_ : Nat} {x : DWord} {a : Access} {p : MigPage} (h : Fit c s) : Fit c (s.useMaster core ctx page at_ x a p).1 := by
  unfold State.useMaster
  split
  · exact h
  · exact h.setPage.useLeaf
  · split
    · exact h.useLeaf
    · split
      · split
        · exact h.beginCollapse
        · exact h.setPage.useLeaf
      · exact h.storeOver

theorem Fit.useRemote {core : Nat} {ctx : Nat} {page : Nat} {at_ : Nat} {x : DWord} {a : Access} (h : Fit c s) : Fit c (s.useRemote core ctx page at_ x a).1 := by
  unfold State.useRemote
  dsimp only
  split
  · split <;> exact h
  · exact h.useMaster

theorem Fit.lookPage {core : Nat} {ctx : Nat} {page : Nat} {a : Access} (h : Fit c s) : Fit c (s.lookPage core ctx page a).1 := by
  unfold State.lookPage
  dsimp only
  split
  · exact h
  · split
    · exact h.useLeaf
    · exact h.useRemote
    · exact h
    · exact h
    · exact h
    · exact h

theorem Fit.translatePage {core : Nat} {ctx : Nat} {page : Nat} {a : Access} (h : Fit c s) : Fit c (s.translatePage core ctx page a).1 := by
  unfold State.translatePage
  split
  · split <;> exact h.lookPage.of_eq ‹_›
  · exact h.lookPage

theorem Fit.moveRequests {port : Nat} {link : Nat} {sub : Nat} (h : Fit c s) : Fit c (s.moveRequests port link sub) := by
  unfold State.moveRequests
  dsimp only
  exact (h.mapGangs (by simp) (by simp)).same

theorem Fit.settleLinks (h : Fit c s) : Fit c s.settleLinks := by
  unfold State.settleLinks
  exact h.same

theorem Fit.failLink {port : Nat} {link : Nat} (h : Fit c s) : Fit c (s.failLink port link) := by
  unfold State.failLink
  dsimp only
  split
  · exact h.mapPort.moveRequests
  · exact h.mapPort

theorem Fit.restoreLink {port : Nat} {link : Nat} (h : Fit c s) : Fit c (s.restoreLink port link) := by
  unfold State.restoreLink
  exact h.mapPort.settleLinks

theorem Fit.writeSlot {p : Nat} {slot : Nat} {r : ModReq} {status : Option Nat} {value : DWord} (h : Fit c s) : Fit c (s.writeSlot p slot r status value).1 := by
  unfold State.writeSlot
  dsimp only
  exact h.mapPort

theorem Fit.modCommand {p : Nat} {r : ModReq} {status : Nat} {value : DWord} (h : Fit c s) : Fit c (s.modCommand p r status value) := by
  unfold State.modCommand
  split
  · exact h.writeSlot
  · exact h

theorem Fit.carry {peer : Nat} (h : Fit c s) : Fit c (s.carry peer) := by
  unfold State.carry
  dsimp only
  split
  · exact h
  · split
    · exact h.modCommand
    · exact h

theorem Fit.pairSend {peer : Nat} {body : PairBody} (h : Fit c s) : Fit c (s.pairSend peer body) := by
  unfold State.pairSend
  exact h.mapPod.carry

theorem Fit.relayAccess {world : Nat} {pa : Nat} {kind : Nat} {bytes : List Byte} {n : Nat} {who : RelayWait} (h : Fit c s) : Fit c (s.relayAccess world pa kind bytes n who) := by
  unfold State.relayAccess
  dsimp only
  split
  · split
    · exact h
    · split
      · exact h.pairSend.mapPod
      · exact h
  · exact h

theorem Fit.askAtomic {world : Nat} {pa : Nat} {op : Nat} {w : Nat} {data : DWord} {cmp : DWord} {posted : Bool} {value : DWord} {who : RelayWait} (h : Fit c s) : Fit c (s.askAtomic world pa op w data cmp posted value who) := by
  unfold State.askAtomic
  split
  · exact h.modCommand
  · exact h.relayAccess

theorem Fit.askRelay {core : Nat} {pa : Nat} {kind : Nat} {bytes : List Byte} {n : Nat} {who : RelayWait} (h : Fit c s) : Fit c (s.askRelay core pa kind bytes n who) := by
  unfold State.askRelay
  exact h.relayAccess

theorem Fit.queueCommand {world : Nat} {pa : Nat} {subop : Nat} {n : Nat} (h : Fit c s) : Fit c (s.queueCommand world pa subop n) := by
  unfold State.queueCommand
  split
  · exact h.modCommand
  · exact h

theorem Fit.setWord64 {pa : Nat} {x : Nat} (h : Fit c s) : Fit c (s.setWord64 pa x) := by
  unfold State.setWord64
  exact h.storeOver

theorem Fit.makeCommit {c' : QCommit} (h : Fit c s) : Fit c (s.makeCommit c') := by
  unfold State.makeCommit
  dsimp only
  split
  · exact h.report
  · split <;> exact h.queueCommand.setWord64

theorem Fit.settleCommits {pa n : Nat} : ∀ {s : State}, Fit c s → Fit c (s.settleCommits pa n) := by
  induction n with
  | zero => exact fun h => h
  | succ n ih =>
    intro s h
    unfold State.settleCommits
    split
    · exact h
    · exact ih h.same.makeCommit

theorem Fit.commitLater {c' : QCommit} (h : Fit c s) : Fit c (s.commitLater c') := by
  unfold State.commitLater
  exact h.same.settleCommits

theorem Fit.writeDue {ctx : Nat} {p : Pend} (h : Fit c s) : Fit c (s.writeDue ctx p) := by
  unfold State.writeDue
  dsimp only
  split
  · exact h
  · exact h.writeImage

theorem Fit.withdrawPend {ctx : Nat} {crew : Option Nat} {p : Pend} (h : Fit c s) : Fit c (s.withdrawPend ctx crew p) := by
  unfold State.withdrawPend
  split
  · exact h
  · exact h.writeDue.commitLater

theorem Fit.setRecord {ctx : Nat} {c' : Nat} {st : Nat} (h : Fit c s) : Fit c (s.setRecord ctx c' st) := by
  unfold State.setRecord
  exact h.writeImage

theorem Fit.freeRecords {ctx : Nat} {cs : List Nat} (h : Fit c s) : Fit c (s.freeRecords ctx cs) := by
  unfold State.freeRecords
  dsimp only
  exact (Fit.foldl (fun _ _ h => h.setRecord) h).mapLaunches (by intro x hx; split <;> exact hx)

theorem Fit.withdrawWaits {gk : Nat} (h : Fit c s) : Fit c (s.withdrawWaits gk) := by
  unfold State.withdrawWaits
  dsimp only
  split
  · exact h
  · exact (Fit.foldl (fun _ _ h => h.withdrawPend) h).freeRecords

theorem Fit.turnStamps (h : Fit c s) : Fit c s.turnStamps := by
  unfold State.turnStamps
  split
  · exact h
  · have hg : Fit c { s with gangs := s.gangs.map fun p => (p.1, p.2.closeIntervals) } := h.mapGangs (fun _ => rfl) fun _ hp => hp
    exact hg.same

theorem Fit.freshEpoch {gk : Nat} {g : Gang} (h : Fit c s) : Fit c (s.freshEpoch gk g) := by
  unfold State.freshEpoch
  dsimp only
  exact h.mapGang.same

theorem Fit.openIv {gk : Nat} (h : Fit c s) : Fit c (s.openIv gk) := by
  unfold State.openIv
  split
  · exact h
  · next g _ =>
    split
    · exact h
    · have h1 : Fit c (s.turnStamps.freshEpoch gk g) := h.turnStamps.freshEpoch
      dsimp only
      generalize s.turnStamps.freshEpoch gk g = t at h1 ⊢
      exact h1.mapGang.same

theorem Fit.access {gk : Nat} {iv : Option Nat} {posted : Option Nat} (h : Fit c s) : Fit c (s.access gk iv posted) := by
  unfold State.access
  refine Fit.mapGang ?_
  split
  · exact h
  · exact h.openIv

theorem Fit.releaseSlot {gk : Nat} (h : Fit c s) : Fit c (s.releaseSlot gk) := by
  unfold State.releaseSlot
  split
  · exact h
  · split
    · exact h
    · exact h.setGang (by simpa using h.len ‹_›)

theorem Fit.queueRec {ctx : Nat} {r : Rec} (h : Fit c s) : Fit c (s.queueRec ctx r).1 := by
  unfold State.queueRec
  dsimp only
  split
  · exact h.same.mapCtx.mapCtx
  · split
    · exact h.same.mapCtx.mapCtx
    · exact h.same.mapCtx.mapCtx.writeImage

theorem Fit.freeze {gk : Nat} {lanes : List Nat} {f : Flt} (h : Fit c s) : Fit c (s.freeze gk lanes f) := by
  unfold State.freeze
  dsimp only
  split
  · exact h
  · split
    · exact (((h.setGang (by simpa using h.len ‹_›)).queueRec).mapCtx).writeImage
    · exact ((h.setGang (by simpa using h.len ‹_›)).queueRec).mapCtx

theorem Fit.freezeAll {gk : Nat} {fs : List (Nat × Flt)} (h : Fit c s) : Fit c (s.freezeAll gk fs) := by
  unfold State.freezeAll
  exact Fit.foldl (fun _ _ h => h.freeze) h

theorem Fit.finishQueue {gk : Nat} {l : Nat} (h : Fit c s) : Fit c (s.finishQueue gk l).1 := by
  unfold State.finishQueue
  dsimp only
  split
  · exact h
  · split
    · exact h
    · split
      · exact h
      · split
        · exact h.withdrawPend.mapGang
        · exact h.withdrawPend.mapGang.mapGang

theorem Fit.finishQueues {gk : Nat} (h : Fit c s) : Fit c (s.finishQueues gk) := by
  unfold State.finishQueues
  extract_lets +onlyGivenNames r1
  have hr1 : Fit c r1.1 := by
    dsimp only [r1]
    refine Fit.foldlFst (fun p a h => ?_) h
    exact h.finishQueue
  clear_value r1
  refine Fit.foldl (fun s a h => ?_) hr1
  exact h.freezeAll

theorem Fit.preemptGang {gk : Nat} (h : Fit c s) : Fit c (s.preemptGang gk) := by
  unfold State.preemptGang
  extract_lets +onlyGivenNames s1
  have hs1 : Fit c s1 := h.finishQueues
  clear_value s1
  dsimp only
  split
  · exact hs1
  · split
    · exact hs1.freeRecords.mapGang.mapCore
    · exact hs1.freeRecords.mapGang

theorem Fit.preemptWhere {ctx : Nat} {p : Gang → Bool} (h : Fit c s) : Fit c (s.preemptWhere ctx p) := by
  unfold State.preemptWhere
  exact Fit.foldl (fun _ _ h => h.preemptGang) h

theorem Fit.setQueue {ctx : Nat} {q : List Rec} (h : Fit c s) : Fit c (s.setQueue ctx q) := by
  unfold State.setQueue
  dsimp only
  refine Fit.foldl (fun s a h => ?_) h.mapCtx
  split
  · exact h
  · exact h.writeImage

theorem Fit.stopCtx {ctx : Nat} (h : Fit c s) : Fit c (s.stopCtx ctx) := by
  unfold State.stopCtx
  dsimp only
  split
  · exact h
  · exact h.same.mapCtx.preemptWhere

theorem Fit.stopIfFull {ctx : Nat} (h : Fit c s) : Fit c (s.stopIfFull ctx) := by
  unfold State.stopIfFull
  split
  · exact h.stopCtx
  · exact h

theorem Fit.withdraw {ctx : Nat} {sq : Nat} (h : Fit c s) : Fit c (s.withdraw ctx sq) := by
  unfold State.withdraw
  exact h.setQueue.mapCtx

theorem Fit.updateRec {ctx : Nat} {r : Rec} (h : Fit c s) : Fit c (s.updateRec ctx r) := by
  unfold State.updateRec
  dsimp only
  exact h.setQueue.mapCtx

theorem Fit.showIndex {gk : Nat} {lanes : Nat} {i : Nat} (h : Fit c s) : Fit c (s.showIndex gk lanes i) := by
  unfold State.showIndex
  dsimp only
  split
  · exact h.mapGang
  · split
    · exact Fit.foldl (fun _ _ h => h.writeImage) h.mapGang
    · exact h.mapGang

theorem Fit.assignIndex {ctx : Nat} {i : Nat} (h : Fit c s) : Fit c (s.assignIndex ctx i) := by
  unfold State.assignIndex
  dsimp only
  split
  · exact h
  · exact h.updateRec.mapCtx.showIndex.writeImage

theorem Fit.bumpGen {ctx : Nat} {i : Nat} (h : Fit c s) : Fit c (s.bumpGen ctx i) := by
  unfold State.bumpGen
  exact h.mapCtx

theorem Fit.closeSet {ctx : Nat} {i : Nat} (h : Fit c s) : Fit c (s.closeSet ctx i) := by
  unfold State.closeSet
  dsimp only
  split
  · exact h
  · exact h.bumpGen.withdraw.mapCtx.writeImage.assignIndex

theorem Fit.shrinkSet {ctx : Nat} {i : Nat} {gone : Nat} (h : Fit c s) : Fit c (s.shrinkSet ctx i gone).1 := by
  unfold State.shrinkSet
  dsimp only
  split
  · exact h
  · split
    · exact h
    · split
      · exact h.closeSet
      · exact h.bumpGen.updateRec.mapCtx.writeImage

theorem Fit.passBar {crew : Nat} {inst : Nat} (h : Fit c s) : Fit c (s.passBar crew inst) := by
  unfold State.passBar
  dsimp only
  exact h.mapCrew.mapGangs (fun _ => by split <;> rfl) (by intro x hx; split <;> exact hx)

theorem Fit.settleBar {crew : Nat} (h : Fit c s) : Fit c (s.settleBar crew) := by
  unfold State.settleBar
  dsimp only
  split
  · exact h
  · split
    · exact h.passBar
    · exact h

theorem Fit.passGroup {ctx : Nat} {serial : Nat} {gid : Nat} {inst : Nat} (h : Fit c s) : Fit c (s.passGroup ctx serial gid inst) := by
  unfold State.passGroup
  dsimp only
  exact h.mapLaunch.mapGangs (fun _ => by split <;> rfl) (by intro x hx; split <;> exact hx)

theorem Fit.settleGroup {ctx : Nat} {serial : Nat} {gid : Nat} (h : Fit c s) : Fit c (s.settleGroup ctx serial gid) := by
  unfold State.settleGroup
  dsimp only
  split
  · exact h
  · split
    · exact h.passGroup
    · exact h

theorem Fit.settleBarriers {crew : Nat} (h : Fit c s) : Fit c (s.settleBarriers crew) := by
  unfold State.settleBarriers
  split
  · exact h
  · exact Fit.foldl (fun _ _ h => h.settleGroup) h.settleBar

theorem Fit.unattend {gk : Nat} (h : Fit c s) : Fit c (s.unattend gk) := by
  unfold State.unattend
  dsimp only
  split
  · exact h
  · split
    · exact h
    · exact h.same

theorem Fit.settleGang {gk : Nat} (h : Fit c s) : Fit c (s.settleGang gk) := by
  unfold State.settleGang
  dsimp only
  split
  · exact h.mapGang.unattend
  · split
    · exact h.mapGang.unattend.settleBarriers
    · exact h.mapGang.unattend.settleBarriers.releaseSlot

theorem Fit.settleEvent {gk : Nat} (h : Fit c s) : Fit c (s.settleEvent gk) := by
  unfold State.settleEvent
  exact h.settleGang.releaseSlot

theorem Fit.resumeSet {ctx : Nat} {i : Nat} {mask : Nat} {mode : Nat} (h : Fit c s) : Fit c (s.resumeSet ctx i mask mode).1 := by
  unfold State.resumeSet
  dsimp only
  split
  · exact h
  · exact h.mapGang.shrinkSet.settleEvent

theorem Fit.killSet {ctx : Nat} {i : Nat} {mask : Nat} (h : Fit c s) : Fit c (s.killSet ctx i mask).1 := by
  unfold State.killSet
  dsimp only
  split
  · exact h
  · exact h.mapGang.shrinkSet.settleGang

theorem Gang.ite_len {b : Prop} [Decidable b] {x y : Gang} (hx : x.threads.length = 32) (hy : y.threads.length = 32) :
    (if b then x else y).threads.length = 32 := by
  split
  · exact hx
  · exact hy

theorem Fit.finish {o : Op} {gk : Nat} {hd : Held} {outs : List (Nat × LaneOut)} {switch : Bool} (h : Fit c s) : Fit c (o.finish s gk hd outs switch) := by
  unfold Op.finish
  extract_lets +onlyGivenNames s1
  have hs1 : Fit c s1 := by
    dsimp only [s1]
    split
    · exact h.openIv
    · exact h
  clear_value s1
  split
  · exact hs1
  · next g hg =>
    extract_lets +onlyGivenNames g1 z g2 g3 g4
    have h1 : g1.threads.length = 32 := by
      dsimp only [g1]
      split
      · simpa using hs1.len hg
      · exact hs1.len hg
    have hz : z.1.threads.length = 32 := (Form.settleLanes_len g1 o.form hd outs).trans h1
    have h2 : g2.threads.length = 32 := Gang.ite_len hz hz
    have h3 : g3.threads.length = 32 := Gang.ite_len h2 h2
    have h4 : g4.threads.length = 32 := Gang.ite_len (by simpa using h3) h3
    have hs2 : Fit c (((s1.setGang gk g4).freezeAll gk z.2).mapGang gk Gang.settle) := (hs1.setGang h4).freezeAll.mapGang
    split
    · exact hs1.setGang (by simpa using h4)
    · dsimp only
      split
      · exact hs2.unattend.settleBarriers
      · exact hs2.unattend.settleBarriers.releaseSlot

theorem Fit.rejectAll {gk : Nat} {g : Gang} {lanes : List Nat} {f : Flt} (h : Fit c s) (hg : g.threads.length = 32) : Fit c (s.rejectAll gk g lanes f) := by
  unfold State.rejectAll
  dsimp only
  exact ((((h.setGang (by simpa using hg)).freezeAll).mapGang).settleBarriers).releaseSlot

theorem Fit.issue {o : Op} {i : Instr} {gk : Nat} {g : Gang} {lanes : List Nat} {hs : Hints} (h : Fit c s) (ho : o.Fits) (hg : g.threads.length = 32) :
    Fit c (o.issue i s gk g lanes hs) := by
  have he : (o.env s gk g lanes hs).g.threads.length = 32 := by simpa using hg
  unfold Op.issue
  split
  · exact h.rejectAll hg
  · split
    · exact h.stall ho
    · refine Fit.finish ?_
      split
      · exact h.setGang he
      · exact ho.body (h.setGang he) he

theorem Fit.takeSlot {core : Nat} {ctx : Nat} {seg : Nat} {level : Nat} (h : Fit c s) : Fit c (s.takeSlot core ctx seg level) := by
  unfold State.takeSlot
  dsimp only
  split
  · exact h.mapCore
  · split <;> exact h.mapCore.mapCore

theorem Fit.refetch {core : Nat} {x : Seg} {level : Nat} (h : Fit c s) : Fit c (s.refetch core x level) := by
  unfold State.refetch
  exact h.mapCore

theorem Fit.requestSeg {core : Nat} {ctx : Nat} {seg : Nat} {level : Nat} {refresh : Bool} (h : Fit c s) : Fit c (s.requestSeg core ctx seg level refresh) := by
  unfold State.requestSeg
  split
  · exact h.takeSlot
  · split
    · exact h.takeSlot
    · exact h.takeSlot
    · split
      · exact h.refetch
      · exact h

theorem Fit.takeBases {core : Nat} {ctx : Nat} (h : Fit c s) : Fit c (s.takeBases core ctx) := by
  unfold State.takeBases
  dsimp only
  exact h.mapCore

theorem Fit.copySeg {core : Nat} {x : Seg} (h : Fit c s) : Fit c (s.copySeg core x).1 := by
  unfold State.copySeg
  extract_lets va
  split
  · exact h
  · split
    · exact h.translatePage.of_eq ‹_›
    · exact h.translatePage.of_eq ‹_›
    · next t leaf e =>
      have ht := h.translatePage.of_eq e
      extract_lets pa
      obtain ⟨q, hq⟩ : ∃ q, t.mapCheck leaf pa = q := ⟨_, rfl⟩
      obtain ⟨r, hr⟩ : ∃ r, t.reachCheck core pa Config.segBytes .fetch = r := ⟨_, rfl⟩
      obtain ⟨b, hb⟩ : ∃ b, t.poisoned (t.home pa) Config.segBytes = b := ⟨_, rfl⟩
      rw [hq, hr, hb]
      split
      · exact ht
      · split
        · exact ht
        · split
          · exact ht.countRefusal
          · split <;> exact ht

theorem Fit.landSeg {core : Nat} {ctx : Nat} {seg : Nat} (h : Fit c s) : Fit c (s.landSeg core ctx seg) := by
  unfold State.landSeg
  split
  · exact h
  · split
    · split
      · exact (h.copySeg.of_eq ‹_›).mapCore
      · exact h
    · exact h

theorem Fit.failSeg {core : Nat} {ctx : Nat} {seg : Nat} (h : Fit c s) : Fit c (s.failSeg core ctx seg) := by
  unfold State.failSeg
  split
  · exact h
  · split
    · split
      · exact (h.copySeg.of_eq ‹_›).mapCore
      · exact h
    · exact h

theorem Fit.requestPath {gk : Nat} (h : Fit c s) : Fit c (s.requestPath gk) := by
  unfold State.requestPath
  dsimp only
  split
  · exact h
  · split
    · exact h
    · split
      · exact h
      · exact h.requestSeg.mapGang.releaseSlot

theorem Fit.retrySeg {core : Nat} {ctx : Nat} {seg : Nat} (h : Fit c s) : Fit c (s.retrySeg core ctx seg) := by
  unfold State.retrySeg
  split
  · exact h
  · split
    · split
      · exact h.requestSeg
      · exact h
    · exact h

theorem Fit.translateLane {gk : Nat} {g : Gang} {l : Nat} {page : Nat} {a : Access} (h : Fit c s) : Fit c (s.translateLane gk g l page a).1 := by
  unfold State.translateLane
  dsimp only
  split
  · exact h
  · split
    · exact (h.translatePage.of_eq ‹_›).mapGang
    · exact h.translatePage

theorem Fit.globalLoc {gk : Nat} {g : Gang} {l : Nat} {ea : DWord} {q : Ask} (h : Fit c s) : Fit c (s.globalLoc gk g l ea q).1 := by
  unfold State.globalLoc
  split
  · exact h
  · split
    · exact h
    · split
      · exact h.translateLane.of_eq ‹_›
      · exact h.translateLane.of_eq ‹_›
      · next t leaf e =>
        have ht := h.translateLane.of_eq e
        extract_lets pa
        obtain ⟨r, hr⟩ : ∃ r, t.reachCheck g.core pa (q.bytes (some leaf)) q.acc = r := ⟨_, rfl⟩
        rw [hr]
        split
        · exact ht
        · split
          · exact ht
          · split
            · exact ht.countRefusal
            · exact ht

theorem Fit.locate {gk : Nat} {g : Gang} {l : Nat} {ea : DWord} {q : Ask} (h : Fit c s) : Fit c (s.locate gk g l ea q).1 := by
  unfold State.locate
  split
  · exact h
  · exact h.globalLoc

theorem Fit.closeUpTo {stamp : Nat} (h : Fit c s) : Fit c (s.closeUpTo stamp) := by
  unfold State.closeUpTo
  exact h.mapGangs (by simp) (by simp)

theorem Fit.closeNamed {agent : Nat} {epoch : Nat} (h : Fit c s) : Fit c (s.closeNamed agent epoch) := by
  unfold State.closeNamed
  exact h.mapGangs (fun _ => by split <;> rfl) (by intro x hx; split <;> exact hx)

theorem Fit.recordAccess {gk : Nat} {iv : Option Nat} {granule : Nat} {cov : Bool} {writes : Bool} {syn : Bool} {posted : Option Nat} (h : Fit c s) : Fit c (s.recordAccess gk iv granule cov writes syn posted) := by
  unfold State.recordAccess
  dsimp only
  split
  · exact h.access
  · refine (Fit.access ?_).same
    split
    · exact h.closeUpTo
    · exact h

theorem Fit.endTagged {a : Nat} {n : Nat} (h : Fit c s) : Fit c (s.endTagged a n) := by
  unfold State.endTagged
  dsimp only
  refine (Fit.foldl (fun s a h => ?_) h).same
  split
  · exact h.closeUpTo
  · exact h
  · exact h.closeNamed

theorem Fit.homeFill {core : Nat} {ctx : Nat} {pa : Nat} {writes : Bool} (h : Fit c s) : Fit c (s.homeFill core ctx pa writes) := by
  unfold State.homeFill
  dsimp only
  split
  · split
    · exact h.mapDie
    · exact h
  · refine Fit.mapDie ?_
    split
    · exact h.endTagged
    · exact h

theorem Fit.homeRun {core : Nat} {ctx : Nat} {pa : Nat} {n : Nat} {writes : Bool} (h : Fit c s) : Fit c (s.homeRun core ctx pa n writes) := by
  unfold State.homeRun
  exact Fit.foldl (fun _ _ h => h.homeFill) h

theorem Fit.replaceLine {core : Nat} {y : Line} (h : Fit c s) : Fit c (s.replaceLine core y) := by
  unfold State.replaceLine
  dsimp only
  refine Fit.mapCore ?_
  split
  · exact h.homeFill
  · exact h

theorem Fit.cacheFill {core : Nat} {ctx : Nat} {pa : Nat} {mode : Nat} (h : Fit c s) : Fit c (s.cacheFill core ctx pa mode) := by
  unfold State.cacheFill
  dsimp only
  split
  · exact h.mapCore
  · split
    · exact h.mapCore
    · split
      · exact h
      · exact h.same.replaceLine.mapCore

theorem Fit.cacheWrite {core : Nat} {ctx : Nat} {pa : Nat} {mode : Nat} (h : Fit c s) : Fit c (s.cacheWrite core ctx pa mode) := by
  unfold State.cacheWrite
  dsimp only
  exact h.same

theorem Fit.cacheAccess {core : Nat} {ctx : Nat} {pa : Nat} {leaf : Option DWord} {mode : Nat} {writes : Bool} (h : Fit c s) : Fit c (s.cacheAccess core ctx pa leaf mode writes) := by
  unfold State.cacheAccess
  dsimp only
  split
  · exact h
  · split
    · refine Fit.cacheWrite ?_
      split
      · refine Fit.cacheFill ?_
        split
        · exact h.homeFill
        · exact h
      · split
        · exact h.homeFill
        · exact h
    · split
      · refine Fit.cacheFill ?_
        split
        · exact h.homeFill
        · exact h
      · split
        · exact h.homeFill
        · exact h

theorem Fit.bytesAt {m : List Host.Cell} {pa : Nat} {n : Nat} (h : Fit c s) : Fit c (s.bytesAt m pa n).1 := by
  unfold State.bytesAt
  split
  · exact h.same
  · exact h
  · exact h

theorem Fit.violate (h : Fit c s) : Fit c s.violate := by
  unfold State.violate
  exact h.mapTrust

theorem Fit.refuseHost {ten : Nat} (h : Fit c s) : Fit c (s.refuseHost ten) := by
  unfold State.refuseHost
  exact h.mapTen.report

theorem Fit.fromMaster {who : Owner} {f : State → State} (h : Fit c s) (hf : ∀ s, Fit c s → Fit c (f s)) : Fit c (s.fromMaster who f) := by
  unfold State.fromMaster
  split
  · split
    · exact h
    · split
      · exact h.refuseHost
      · exact hf _ h
  · exact hf _ h

theorem Fit.ownerWrite {who : Owner} {f : State → State} (h : Fit c s) (hf : ∀ s, Fit c s → Fit c (f s)) : Fit c (s.ownerWrite who f) := by
  unfold State.ownerWrite
  split
  · exact hf _ h
  · exact h.fromMaster (fun _ h => h.violate)

theorem Fit.putBytes {pa : Nat} {bytes : List Byte} (h : Fit c s) : Fit c (s.putBytes pa bytes) := by
  unfold State.putBytes
  dsimp only
  split
  · exact h.violate
  · split
    · exact h.store.same
    · exact h
  · exact h.store.same

theorem Fit.notePub {crew : Nat} {by_ : Option (Nat × Nat)} (h : Fit c s) : Fit c (s.notePub crew by_) := by
  unfold State.notePub
  dsimp only
  split
  · exact h
  · split
    · exact h.mapCrew.queueRec
    · exact h.mapCrew

theorem Fit.pubStored {pa : Nat} {n : Nat} {by_ : Option (Nat × Nat)} (h : Fit c s) : Fit c (s.pubStored pa n by_) := by
  unfold State.pubStored
  split
  · split
    · exact h.notePub
    · exact h
  · exact h

theorem Fit.translateFor {w : Who} {page : Nat} {a : Access} (h : Fit c s) : Fit c (s.translateFor w page a).1 := by
  unfold State.translateFor
  split
  · split
    · exact h.translateLane
    · exact h.translatePage
  · exact h.translatePage

theorem Fit.agentLoc {w : Who} {va : DWord} {n : Nat} {a : Access} {both : Bool} (h : Fit c s) : Fit c (s.agentLoc w va n a both).1 := by
  unfold State.agentLoc
  split
  · exact h
  · split
    · exact h.translateFor.of_eq ‹_›
    · exact h.translateFor.of_eq ‹_›
    · next t leaf e =>
      have ht := h.translateFor.of_eq e
      extract_lets pa perm
      obtain ⟨q, hq⟩ : ∃ q, t.mapCheck leaf pa = q := ⟨_, rfl⟩
      obtain ⟨r, hr⟩ : ∃ r, t.reachCheck w.core pa n a = r := ⟨_, rfl⟩
      rw [hq, hr]
      clear_value perm
      cases perm with
      | some => exact ht
      | none =>
        dsimp only
        split
        · exact ht
        · split
          · exact ht.countRefusal
          · exact ht

theorem Fit.findQueue {w : Who} {va : DWord} (h : Fit c s) : Fit c (s.findQueue w va).1 := by
  unfold State.findQueue
  split
  · exact h
  · split <;> exact h.agentLoc.of_eq ‹_›

theorem Fit.slotLoc {w : Who} {q : Queue} {n : Nat} {a : Access} (h : Fit c s) : Fit c (s.slotLoc w q n a).1 := by
  unfold State.slotLoc
  exact h.agentLoc

theorem Fit.reservePush {pa : Nat} {slot : Nat} {item : List Byte} (h : Fit c s) : Fit c (s.reservePush pa slot item) := by
  unfold State.reservePush
  dsimp only
  exact h.putBytes.dropCopies.setWord64

theorem Fit.reservePop {pa : Nat} (h : Fit c s) : Fit c (s.reservePop pa) := by
  unfold State.reservePop
  exact h.setWord64

theorem Fit.pushWhole {ctx : Nat} {crew : Option Nat} {q : Queue} {item : List Byte} (h : Fit c s) : FitOpt c (s.pushWhole ctx crew q item) := by
  unfold State.pushWhole
  dsimp only
  split
  · exact FitOpt.none
  · split
    · exact FitOpt.none
    · exact FitOpt.some h.touchPage.queueCommand.reservePush.commitLater

theorem Fit.popWhole {ctx : Nat} {pa : Nat} (h : Fit c s) : FitOpt c (s.popWhole ctx pa) := by
  unfold State.popWhole
  split
  · exact FitOpt.none
  · exact FitOpt.some h.queueCommand.reservePop

theorem Fit.recordRange {gk : Nat} {iv : Option Nat} {pa : Nat} {n : Nat} {cov : Bool} {writes : Bool} {syn : Bool} (h : Fit c s) : Fit c (s.recordRange gk iv pa n cov writes syn) := by
  unfold State.recordRange
  split
  · exact Fit.foldl (fun _ _ h => h.recordAccess) h
  · exact h.access

theorem Fit.qopStep {c' : ModCmd} (h : Fit c s) : Fit c (s.qopStep c').1 := by
  unfold State.qopStep
  dsimp only
  split
  · exact h.setWord64
  · split
    · exact h.setWord64.settleCommits
    · split
      · exact h.setWord64
      · split
        · exact h.setWord64.settleCommits
        · exact h

theorem Fit.setEndpoint {ctx : Nat} {e : Nat} {x : Endpoint} (h : Fit c s) : Fit c (s.setEndpoint ctx e x) := by
  unfold State.setEndpoint
  dsimp only
  split
  · exact h.writeImage
  · exact h.mapCtx

theorem Fit.storeEps {ctx : Nat} (h : Fit c s) : Fit c (s.storeEps ctx) := by
  unfold State.storeEps
  dsimp only
  split
  · exact h
  · exact ((Fit.foldl (fun _ _ h => h.writeImage) h).writeImage).mapCtx

theorem Fit.loadEps {ctx : Nat} (h : Fit c s) : Fit c (s.loadEps ctx) := by
  unfold State.loadEps
  dsimp only
  split
  · exact h
  · exact ((Fit.foldl (fun _ _ h => h.touchRun) h).touchPage).mapCtx

theorem Fit.countDrop {ctx : Nat} (h : Fit c s) : Fit c (s.countDrop ctx) := by
  unfold State.countDrop
  dsimp only
  split
  · exact h.writeImage
  · exact h.mapCtx

theorem Fit.refuseBack {x : Send} (h : Fit c s) : Fit c (s.refuseBack x) := by
  unfold State.refuseBack
  split
  · exact h.same
  · split
    · exact h
    · exact h.pairSend

theorem Fit.refuseSend {x : Send} (h : Fit c s) : Fit c (s.refuseSend x) := by
  unfold State.refuseSend
  dsimp only
  exact h.setEndpoint.refuseBack

theorem Fit.arrive {x : Send} (h : Fit c s) : Fit c (s.arrive x) := by
  unfold State.arrive
  dsimp only
  split
  · exact h.refuseBack
  · split
    · exact h.refuseSend
    · split
      · exact h.refuseSend
      · split
        · split
          · exact h.refuseSend
          · exact h.mapCtx.setEndpoint
        · split
          · exact h.refuseSend
          · exact h.mapCtx.setEndpoint

theorem Fit.pushNotice {ten : Nat} {record : List Byte} (h : Fit c s) : FitOpt c (s.pushNotice ten record) := by
  unfold State.pushNotice
  dsimp only
  split
  · exact FitOpt.none
  · split
    · exact FitOpt.none
    · refine FitOpt.some ?_
      split
      · exact h.reservePush.commitLater.mapTen
      · exact h.reservePush.commitLater

theorem Fit.notifyHost {ctx : Nat} {tag : Nat} {operand : Word} (h : Fit c s) : Fit c (s.notifyHost ctx tag operand) := by
  unfold State.notifyHost
  exact FitOpt.getD h.pushNotice h.countDrop

theorem Fit.sendUli {agent : Nat} {ctx : Nat} {ep : DWord} {operand : Word} (h : Fit c s) : Fit c (s.sendUli agent ctx ep operand) := by
  unfold State.sendUli
  dsimp only
  split
  · split
    · exact h.same
    · exact h.countDrop
  · split
    · exact h.notifyHost
    · split
      · exact h.pairSend
      · exact h.countDrop

theorem Fit.pushService {die : Nat} {ctx : Nat} {crew : Option Nat} {request : List Byte} (h : Fit c s) : FitOpt c (s.pushService die ctx crew request) := by
  unfold State.pushService
  split
  · exact FitOpt.none
  · exact h.touchPage.pushWhole

theorem Fit.endForCommit {crew : Nat} {pa : Nat} {n : Nat} (h : Fit c s) : Fit c (s.endForCommit crew pa n) := by
  unfold State.endForCommit
  dsimp only
  refine Fit.foldl (fun s a h => ?_) h
  split
  · exact h
  · exact h.closeUpTo.same
  · split
    · exact h
    · exact h.closeNamed.same

theorem Fit.sendLog {world : Nat} {x2 : LogOp} (h : Fit c s) : Fit c (s.sendLog world x2) := by
  unfold State.sendLog
  split
  · exact h.relayAccess
  · exact h.askAtomic

theorem Fit.oweLog {e : LogOp} (h : Fit c s) : Fit c (s.oweLog e) := by
  unfold State.oweLog
  split
  · exact h
  · exact h.mapGang

theorem Fit.commitPops {crew : Nat} {ctx : Nat} {ps : List PopRes} (h : Fit c s) : Fit c (s.commitPops crew ctx ps) := by
  unfold State.commitPops
  exact Fit.foldl (fun _ _ h => h.endForCommit.commitLater) h

theorem Fit.endForPush {crew : Nat} {ctx : Nat} {q : Queue} (h : Fit c s) : Fit c (s.endForPush crew ctx q) := by
  unfold State.endForPush
  dsimp only
  split
  · exact h.endForCommit.endForCommit
  · exact h.endForCommit

theorem Fit.commitPush {crew : Nat} {ctx : Nat} {p : Nat × List Byte} (h : Fit c s) : FitOpt c (s.commitPush crew ctx p) := by
  unfold State.commitPush
  exact h.endForPush.pushWhole

theorem Fit.endForService {crew : Nat} {die : Nat} {ctx : Nat} (h : Fit c s) : Fit c (s.endForService crew die ctx) := by
  unfold State.endForService
  split
  · exact h.endForPush
  · exact h

theorem Fit.commitService {crew : Nat} {ctx : Nat} {die : Nat} {request : List Byte} (h : Fit c s) : FitOpt c (s.commitService crew ctx die request) := by
  unfold State.commitService
  exact h.endForService.pushService

theorem Fit.commitSends {ctx : Nat} {ds : List Deferred} (h : Fit c s) : Fit c (s.commitSends ctx ds) := by
  unfold State.commitSends
  refine Fit.foldl (fun s a h => ?_) h
  split
  · exact h.sendUli
  · exact h

theorem Fit.logEntry {crew : Nat} {e : LogOp} (h : Fit c s) : Fit c (s.logEntry crew e) := by
  unfold State.logEntry
  exact h.mapCrew

theorem Fit.defer {crew : Nat} {d : Deferred} (h : Fit c s) : Fit c (s.defer crew d) := by
  unfold State.defer
  exact h.mapCrew

theorem Fit.askFor {e : Env} {l : Nat} {pa : Nat} {kind : Nat} {bytes : List Byte} {n : Nat} {posted : Bool} (h : Fit c s) : Fit c (s.askFor e l pa kind bytes n posted) := by
  unfold State.askFor
  exact h.askRelay

theorem Fit.loadLane {q : Ask} {out : List Byte → Done} {e : Env} {l : Nat} (h : Fit c s) : Fit c (loadLane q out s e l).1 := by
  unfold Machine.loadLane
  dsimp only
  split
  · exact h.locate.of_eq ‹_›
  · exact h.locate.of_eq ‹_›
  · split
    · exact h.locate.of_eq ‹_›
    · split
      · exact (((((h.locate.of_eq ‹_›).bytesAt).recordAccess).cacheAccess).askFor).setFull
      · exact ((((h.locate.of_eq ‹_›).bytesAt).recordAccess).cacheAccess).askFor

theorem Fit.metaWord {e : Env} {l : Nat} {va : DWord} (h : Fit c s) : Fit c (metaWord s e l va).1 := by
  unfold Machine.metaWord
  split
  · exact h.globalLoc.of_eq ‹_›
  · exact h.globalLoc.of_eq ‹_›
  · split
    · exact h.globalLoc.of_eq ‹_›
    · split
      · exact h.globalLoc.of_eq ‹_›
      · split
        exact (((((h.globalLoc.of_eq ‹_›).bytesAt).of_eq ‹_›).recordAccess).cacheAccess).askFor

theorem Fit.decodeLane {e : Env} {l : Nat} {pa : Nat} {leaf : DWord} {va : DWord} {syn : Bool} {w : Word} (h : Fit c s) : Fit c (decodeLane s e l pa leaf va syn w).1 := by
  unfold Machine.decodeLane
  dsimp only
  split
  · exact h
  · split
    · exact h.bytesAt
    · exact h.bytesAt.recordAccess.cacheAccess.askFor

theorem Fit.loadDecoded {e : Env} {l : Nat} (h : Fit c s) : Fit c (loadDecoded s e l).1 := by
  unfold Machine.loadDecoded
  dsimp only
  split
  · exact h.globalLoc.of_eq ‹_›
  · exact h.globalLoc.of_eq ‹_›
  · exact h.globalLoc.of_eq ‹_›
  · split
    · exact (h.globalLoc.of_eq ‹_›).decodeLane
    · split
      · exact h.globalLoc.of_eq ‹_›
      · split
        · exact ((h.globalLoc.of_eq ‹_›).metaWord).of_eq ‹_›
        · split
          · exact ((h.globalLoc.of_eq ‹_›).metaWord).of_eq ‹_›
          · exact (((h.globalLoc.of_eq ‹_›).metaWord).of_eq ‹_›).decodeLane

theorem Fit.performStore {e : Env} {l : Nat} {pa : Nat} {leaf : Option DWord} {q : Ask} {bytes : List Byte} {posted : Bool} (h : Fit c s) : Fit c (s.performStore e l pa leaf q bytes posted) := by
  unfold State.performStore
  dsimp only
  split
  · exact h.recordAccess.cacheAccess.putBytes.pubStored.askFor.setFull
  · exact h.recordAccess.cacheAccess.putBytes.pubStored.askFor

theorem Fit.amoCommand {e : Env} {l : Nat} {q : Amo} {pa : Nat} {old : Nat} {data : DWord} {cmp : DWord} (h : Fit c s) : Fit c (s.amoCommand e l q pa old data cmp) := by
  unfold State.amoCommand
  exact h.askAtomic

theorem Fit.performAmo {q : Amo} {data : DWord} {cmp : DWord} {e : Env} {l : Nat} {pa : Nat} {leaf : Option DWord} (h : Fit c s) : Fit c (performAmo q data cmp s e l pa leaf).1 := by
  unfold Machine.performAmo
  dsimp only
  exact h.bytesAt.recordAccess.cacheAccess.putBytes.pubStored.amoCommand

theorem Fit.arriveGroup {e : Env} {gid : Nat} {lanes : List Nat} (h : Fit c s) : Fit c (s.arriveGroup e gid lanes).1 := by
  unfold State.arriveGroup
  dsimp only
  split
  · exact h
  · split
    · exact h
    · split
      · split
        · exact h
        · split
          · exact h.passGroup
          · exact h
      · split
        · exact h
        · split
          · exact h.passGroup
          · exact h

theorem Fit.askRecord {e : Env} {l : Nat} (h : Fit c s) : Fit c (s.askRecord e l) := by
  unfold State.askRecord
  dsimp only
  split
  · exact h
  · split
    · exact (h.translatePage.of_eq ‹_›).translatePage
    · exact h.translatePage

theorem Fit.evictTile {crew : Nat} {n : Nat} (h : Fit c s) : Fit c (s.evictTile crew n) := by
  unfold State.evictTile
  dsimp only
  split
  · exact h
  · split
    · exact h
    · split
      · exact h
      · exact h.writeImage.writeImage.mapCrew

theorem Fit.cacheTile {crew : Nat} {n : Nat} {t' : TileRec} (h : Fit c s) : Fit c (s.cacheTile crew n t') := by
  unfold State.cacheTile
  dsimp only
  split
  · exact h
  · split
    · exact h.mapCrew
    · split
      · exact h.mapCrew
      · exact h.mapCrew.same.evictTile

theorem Fit.useTile {crew : Nat} {gk : Nat} {n : Nat} (h : Fit c s) : Fit c (s.useTile crew gk n).1 := by
  unfold State.useTile
  dsimp only
  split
  · exact h
  · split
    · exact h
    · exact h.touchPage.cacheTile

theorem Fit.setTile {crew : Nat} {gk : Nat} {n : Nat} {r : BitVec 256} (h : Fit c s) : Fit c (s.setTile crew gk n r) := by
  unfold State.setTile
  dsimp only
  refine Fit.mapGang ?_
  split
  · split
    · exact h
    · exact h.cacheTile
  · exact h

theorem Fit.keepOld {crew : Nat} {gk : Nat} {n : Nat} {old : TileRec} (h : Fit c s) : Fit c (s.keepOld crew gk n old) := by
  unfold State.keepOld
  exact h.mapGangs (fun _ => by split <;> rfl) (by intro x hx; split <;> exact hx)

theorem Fit.mergeTile {crew : Nat} {gk : Nat} {t' : Nat × TileRec} (h : Fit c s) : Fit c (s.mergeTile crew gk t') := by
  unfold State.mergeTile
  split
  · exact h
  · exact h.keepOld.cacheTile

theorem Fit.mergeTiles {gk : Nat} (h : Fit c s) : Fit c (s.mergeTiles gk) := by
  unfold State.mergeTiles
  split
  · exact h
  · split
    · exact h
    · exact (Fit.foldl (fun _ _ h => h.mergeTile) h).mapGang

theorem Fit.dropTiles {crew : Nat} {n : Option Nat} (h : Fit c s) : Fit c (s.dropTiles crew n) := by
  unfold State.dropTiles
  dsimp only
  exact h.mapCrew.mapGangs (fun _ => by split <;> rfl) (by intro x hx; split <;> exact hx)

theorem Fit.validTile {crew : Nat} {gk : Nat} {n : Nat} (h : Fit c s) : Fit c (s.validTile crew gk n).1 := by
  unfold State.validTile
  dsimp only
  split
  · exact h
  · exact h.useTile

theorem Fit.readRecs {crew : Nat} {gk : Nat} {x : BitVec 256} (h : Fit c s) : Fit c (s.readRecs crew gk x).1 := by
  unfold State.readRecs
  dsimp only
  split
  · exact h
  · split
    · exact h.validTile
    · exact h.validTile.validTile.validTile

theorem Fit.mapHandle {core : Nat} {h' : Nat} {f : Handle → Handle} (h : Fit c s) : Fit c (s.mapHandle core h' f) := by
  unfold State.mapHandle
  exact h.mapCore

theorem Fit.mapCmd {crew : Nat} {sq : Nat} {f : Cmd → Cmd} (h : Fit c s) : Fit c (s.mapCmd crew sq f) := by
  unfold State.mapCmd
  exact h.same

theorem Fit.publish {crew : Nat} {sub : Nat} {gkey : Nat} {x : BitVec 256} {r : Recs} (h : Fit c s) : Fit c (s.publish crew sub gkey x r) := by
  unfold State.publish
  dsimp only
  split
  · exact h
  · exact h.store.store.mapCrew

theorem Fit.onHandle {crew : Nat} {h' : Nat} {f : Handle → Handle} (h : Fit c s) : Fit c (s.onHandle crew h' f) := by
  unfold State.onHandle
  split
  · exact h
  · split
    · exact h.mapHandle
    · exact h

theorem Fit.takeHandles {crew : Nat} {x : BitVec 256} (h : Fit c s) : Fit c (s.takeHandles crew x) := by
  unfold State.takeHandles
  exact h.onHandle.onHandle

theorem Fit.dropCounts {c' : Cmd} (h : Fit c s) : Fit c (s.dropCounts c') := by
  unfold State.dropCounts
  dsimp only
  split
  · split
    · exact h
    · exact h.onHandle
  · refine Fit.onHandle ?_
    split
    · exact h
    · exact h.onHandle

theorem Fit.bumpRing {c' : Crew} {sq : Nat} (h : Fit c s) : Fit c (s.bumpRing c' sq) := by
  unfold State.bumpRing
  exact h.mapCore

theorem Fit.revokeCmd {c' : Crew} {m : Cmd} (h : Fit c s) : Fit c (s.revokeCmd c' m) := by
  unfold State.revokeCmd
  dsimp only
  refine (Fit.bumpRing ?_).mapCmd
  split
  · exact h.withdraw
  · exact h

theorem Fit.unfault {crew : Nat} {h' : Nat} (h : Fit c s) : Fit c (s.unfault crew h') := by
  unfold State.unfault
  split
  · exact h
  · exact h.onHandle

theorem Fit.killCmd {crew : Nat} {sq : Nat} (h : Fit c s) : Fit c (s.killCmd crew sq) := by
  unfold State.killCmd
  dsimp only
  split
  · refine (((Fit.dropCounts ?_).same).onHandle).onHandle
    split
    · exact h.revokeCmd
    · exact h.bumpRing
  · exact h

theorem Fit.freezeCmd {crew : Nat} {sq : Nat} {cls : Nat} {sub : Nat} {va : DWord} (h : Fit c s) : Fit c (s.freezeCmd crew sq cls sub va) := by
  unfold State.freezeCmd
  dsimp only
  split
  · split
    · split
      · exact h
      · exact h.killCmd
    · exact h.queueRec.mapCmd.onHandle.onHandle
  · exact h

theorem Fit.resumeCmd {crew : Nat} {sq : Nat} (h : Fit c s) : Fit c (s.resumeCmd crew sq) := by
  unfold State.resumeCmd
  dsimp only
  split
  · split
    · exact h
    · split
      · exact h.revokeCmd.mapCmd.unfault.unfault
      · split
        · exact h.revokeCmd.mapCmd.unfault.unfault.dropCounts.takeHandles.readRecs.mapCmd.freezeCmd
        · exact h.revokeCmd.mapCmd.unfault.unfault.dropCounts.takeHandles.readRecs.mapCmd
  · exact h

theorem Fit.advanceTaken {crew : Nat} {c' : Crew} (h : Fit c s) : Fit c (s.advanceTaken crew c') := by
  unfold State.advanceTaken
  exact h.store.mapCrew

theorem Fit.acceptEntry {crew : Nat} (h : Fit c s) : Fit c (s.acceptEntry crew) := by
  unfold State.acceptEntry
  dsimp only
  split
  · exact h
  · split
    · exact h
    · split
      · refine (((Fit.advanceTaken ?_).same).takeHandles).freezeCmd
        split
        · exact h
        · exact h.readRecs
      · refine ((Fit.advanceTaken ?_).same).takeHandles
        split
        · exact h
        · exact h.readRecs

theorem Fit.forgetDone {crew : Nat} {sq : Nat} (h : Fit c s) : Fit c (s.forgetDone crew sq) := by
  unfold State.forgetDone
  exact h.same

theorem Fit.countDest {crew : Nat} {sq : Nat} (h : Fit c s) : Fit c (s.countDest crew sq) := by
  unfold State.countDest
  split
  · exact h
  · split
    · exact h
    · exact h.onHandle.mapCmd.forgetDone

theorem Fit.releaseSource {crew : Nat} {sq : Nat} (h : Fit c s) : Fit c (s.releaseSource crew sq) := by
  unfold State.releaseSource
  split
  · exact h
  · split
    · exact h
    · exact h.onHandle.mapCmd.forgetDone

theorem Fit.engineLoc {w : Who} {va : Nat} {n : Nat} {a : Access} {chk : PageCheck} (h : Fit c s) : Fit c (s.engineLoc w va n a chk).1 := by
  unfold State.engineLoc
  split
  · exact h.agentLoc.of_eq ‹_›
  · exact h.agentLoc.of_eq ‹_›
  · split <;> exact h.agentLoc.of_eq ‹_›

theorem Fit.readPiece {c' : Crew} {w : Who} {vault : Bool} {chk : PageCheck} {va : Nat} {n : Nat} (h : Fit c s) : Fit c (s.readPiece c' w vault chk va n).1 := by
  unfold State.readPiece
  dsimp only
  split
  · split
    · exact h
    · split <;> exact h
  · split
    · exact h.engineLoc.of_eq ‹_›
    · split
      · exact h.engineLoc.of_eq ‹_›
      · refine Fit.askRelay ?_
        split
        · exact ((h.engineLoc.of_eq ‹_›).bytesAt).homeRun
        · exact (h.engineLoc.of_eq ‹_›).bytesAt

theorem Fit.fillGranules {pa : Nat} {n : Nat} (h : Fit c s) : Fit c (s.fillGranules pa n) := by
  unfold State.fillGranules
  exact Fit.foldl (fun _ _ h => h.setFull) h

theorem Fit.putPiece {w : Who} {pa : Nat} {leaf : DWord} {bytes : List Byte} (h : Fit c s) : Fit c (s.putPiece w pa leaf bytes) := by
  unfold State.putPiece
  dsimp only
  split
  · exact (Fit.foldl (fun _ _ h => h.dropCopies) h.putBytes).homeRun
  · exact Fit.foldl (fun _ _ h => h.dropCopies) h.putBytes

theorem Fit.writePiece {c' : Crew} {w : Who} {vault : Bool} {fs : Bool} {chk : PageCheck} {va : Nat} {bytes : List Byte} (h : Fit c s) : Fit c (s.writePiece c' w vault fs chk va bytes).1 := by
  unfold State.writePiece
  dsimp only
  split
  · split
    · exact h
    · split
      · exact h.putBytes.pubStored.fillGranules
      · exact h.putBytes.pubStored
  · split
    · exact h.engineLoc.of_eq ‹_›
    · split
      · exact h.engineLoc.of_eq ‹_›
      · split
        · exact h.engineLoc.of_eq ‹_›
        · split
          · exact (((h.engineLoc.of_eq ‹_›).putPiece).askRelay).fillGranules
          · exact ((h.engineLoc.of_eq ‹_›).putPiece).askRelay

theorem Fit.engineMeta {c' : Crew} {w : Who} {leaf : DWord} {va : Nat} (h : Fit c s) : Fit c (s.engineMeta c' w leaf va).1 := by
  unfold State.engineMeta
  dsimp only
  split
  · exact h
  · split <;> exact h.readPiece.of_eq ‹_›

theorem Fit.leafFor {w : Who} {va : Nat} {a : Access} (h : Fit c s) : Fit c (s.leafFor w va a).1 := by
  unfold State.leafFor
  split <;> exact h.engineLoc.of_eq ‹_›

theorem Fit.finishCmd {crew : Nat} {sq : Nat} (h : Fit c s) : Fit c (s.finishCmd crew sq) := by
  unfold State.finishCmd
  exact h.mapCmd.forgetDone

theorem Fit.sourceOf {e : Engine} {c' : Crew} {m : Cmd} {n : Nat} (h : Fit c s) (he : e.Fits) : Fit c (Engine.sourceOf e s c' m n).1 := by
  unfold Engine.sourceOf
  split
  · exact h
  · exact h.source he

theorem Fit.stopPart {crew : Nat} {sq : Nat} {x3 : Stop} (h : Fit c s) : Fit c (s.stopPart crew sq x3) := by
  unfold State.stopPart
  split
  · exact h
  · exact h.freezeCmd

theorem Fit.settle {e : Engine} {crew : Nat} {sq : Nat} (h : Fit c s) : Fit c (Engine.settle e s crew sq) := by
  unfold Engine.settle
  split
  · split
    · exact h.finishCmd
    · exact h
  · exact h

theorem Fit.part {e : Engine} {crew : Nat} {sq : Nat} {n : Nat} (h : Fit c s) (he : e.Fits) : Fit c (Engine.part e s crew sq n) := by
  unfold Engine.part
  split
  · split
    · exact h
    · split
      · exact ((h.sourceOf he).of_eq ‹_›).stopPart
      · split
        · exact ((((h.sourceOf he).of_eq ‹_›).dest he).of_eq ‹_›).stopPart
        · exact (((((h.sourceOf he).of_eq ‹_›).dest he).of_eq ‹_›).mapCmd).settle
  · exact h

theorem Fit.all {e : Engine} {crew : Nat} {sq : Nat} (h : Fit c s) (he : e.Fits) : Fit c (Engine.all e s crew sq) := by
  unfold Engine.all
  split
  · exact (Fit.foldl (fun _ _ h => h.part he) h).settle
  · exact h

theorem Fit.readAhead {e : Engine} {x : Crew} {m : Cmd} {ns : List Nat} (he : e.Fits) : ∀ {s : State}, Fit c s → Fit c (e.readAhead s x m ns).1 := by
  induction ns with
  | nil => exact fun h => h
  | cons n ns ih =>
    intro s h
    unfold Engine.readAhead
    split
    · exact (h.sourceOf he).of_eq ‹_›
    · have hs := (h.sourceOf he).of_eq ‹_›
      split <;> exact (ih hs).of_eq ‹_›

theorem Fit.release {e : Engine} {crew : Nat} {sq : Nat} (h : Fit c s) (he : e.Fits) : Fit c (Engine.release e s crew sq) := by
  unfold Engine.release
  split
  · split
    · exact h
    · split
      · exact h.releaseSource
      · split
        · exact ((Fit.readAhead he h).of_eq ‹_›).stopPart
        · exact (((Fit.readAhead he h).of_eq ‹_›).mapCmd).releaseSource
  · exact h

theorem Fit.storeLines {g : Gang} {lines : List Nat} (h : Fit c s) : Fit c (s.storeLines g lines) := by
  unfold State.storeLines
  exact Fit.foldl (fun _ _ h => h.writeImage) h

theorem Fit.storeControl {g : Gang} (h : Fit c s) : Fit c (s.storeControl g) := by
  unfold State.storeControl
  exact h.writeImage

theorem Fit.dropBacked {x : Nat × Nat} (h : Fit c s) : Fit c (s.dropBacked x) := by
  unfold State.dropBacked
  dsimp only
  split
  · exact h
  · refine Fit.mapGang ?_
    split
    · exact h
    · exact h.storeLines

theorem Fit.evictLine {core : Nat} {x : Nat × Nat} (h : Fit c s) : Fit c (s.evictLine core x) := by
  unfold State.evictLine
  dsimp only
  split
  · exact h.mapGang
  · split
    · exact h.mapGang.same
    · exact h.mapGang.same.dropBacked

theorem Fit.trimFuel {core sub : Nat} {keep : Option (Nat × Nat)} {n : Nat} : ∀ {s : State}, Fit c s → Fit c (State.trimFuel core sub keep n s) := by
  induction n with
  | zero => exact fun h => h
  | succ n ih =>
    intro s h
    unfold State.trimFuel
    split
    · exact h
    · dsimp only
      split
      · exact h.same
      · exact ih h.same.evictLine

theorem Fit.trimLines {core : Nat} {sub : Nat} {keep : Option (Nat × Nat)} (h : Fit c s) : Fit c (s.trimLines core sub keep) := by
  unfold State.trimLines
  exact h.trimFuel

theorem Fit.fillLine {gk : Nat} {n : Nat} (h : Fit c s) : Fit c (s.fillLine gk n) := by
  unfold State.fillLine
  dsimp only
  split
  · exact h
  · split
    · exact h
    · refine Fit.trimLines ?_
      split
      · exact h.setGang (by simpa using h.len ‹_›)
      · exact h.touchPage.setGang (by simpa using h.len ‹_›)

theorem Fit.bringLines {gk : Nat} {lines : List Nat} (h : Fit c s) : Fit c (s.bringLines gk lines) := by
  unfold State.bringLines
  exact Fit.foldl (fun _ _ h => h.fillLine) h

theorem Fit.flushGang {gk : Nat} (h : Fit c s) : Fit c (s.flushGang gk) := by
  unfold State.flushGang
  split
  · exact h
  · exact h.storeLines.storeControl.setGang (by simpa using h.len ‹_›)

theorem Fit.loadControl {gk : Nat} (h : Fit c s) : Fit c (s.loadControl gk) := by
  unfold State.loadControl
  split
  · exact h
  · split
    · exact h
    · exact h.touchPage.setGang (by simpa using h.len ‹_›)

theorem Fit.closeWhere {ctx : Nat} {p : FSet → Bool} (h : Fit c s) : Fit c (s.closeWhere ctx p) := by
  unfold State.closeWhere
  dsimp only
  exact Fit.foldl (fun _ _ h => h.closeSet) ((Fit.foldl (fun _ _ h => h.withdraw) h).mapCtx)

theorem Fit.unbind {ctx : Nat} {num : Nat} (h : Fit c s) : Fit c (s.unbind ctx num) := by
  unfold State.unbind
  refine Fit.foldl (fun s a h => ?_) h
  dsimp only
  split
  · exact h.setEndpoint
  · exact h

theorem Fit.drainCmd {crew : Nat} {m : Cmd} (h : Fit c s) : Fit c (s.drainCmd crew m) := by
  unfold State.drainCmd
  split
  · exact h
  · split
    · exact h
    · exact h.revokeCmd.mapCmd.unfault.unfault

theorem Fit.killCmds {crew : Nat} {keep : Cmd → Bool} (h : Fit c s) : Fit c (s.killCmds crew keep) := by
  unfold State.killCmds
  dsimp only
  split
  · refine Fit.foldl (fun s a h => ?_) h
    split
    · exact h.drainCmd
    · split
      · exact h
      · exact h.killCmd
  · refine (Fit.foldl (fun s a h => ?_) h).mapCrew
    split
    · exact h.drainCmd
    · split
      · exact h
      · exact h.killCmd

theorem Fit.dropTask {crew : Nat} (h : Fit c s) : Fit c (s.dropTask crew) := by
  unfold State.dropTask
  dsimp only
  split
  · exact h
  · exact ((Fit.foldl (fun _ _ h => h.commitLater) h).freeRecords).mapCrew

theorem Fit.reachLine {gk : Nat} {x : Word} (h : Fit c s) : Fit c (s.reachLine gk x) := by
  unfold State.reachLine
  split
  · exact h.fillLine
  · exact h

theorem Fit.perLane {f : Env → Nat → LaneOut} {e : Env} (h : Fit c s) : Fit c (perLane f s e).1 := h

theorem Fit.oncePer {f : State → Env → Nat → State × LaneOut} {e : Env} (h : Fit c s) (hf : ∀ s l, Fit c s → Fit c (f s e l).1) : Fit c (oncePer f s e).1 :=
  hf s _ h

theorem Fit.performLog {crew : Nat} {x : Crew} {e : LogOp} (h : Fit c s) : Fit c (s.performLog crew x e) := by
  unfold State.performLog
  extract_lets +onlyGivenNames r world
  split
  · exact h.countRefusal.report
  · extract_lets s1 s2
    have h1 : Fit c s1 := h.endForCommit.dropCopies
    clear_value s1
    have h2 : Fit c s2 := by
      dsimp only [s2]
      split
      · exact h1.homeRun
      · exact h1
    clear_value s2
    exact ((h2.withMem fun hm => Memory.wf_apply hm e).same).sendLog.oweLog

theorem Fit.commitLog {crew : Nat} (h : Fit c s) : Fit c (s.commitLog crew) := by
  unfold State.commitLog
  split
  · exact h
  · exact (Fit.foldl (fun _ _ h => h.performLog) h).mapCrew

theorem Fit.commitPushes {crew ctx : Nat} {ps : List (Nat × List Byte)} : ∀ {s : State}, Fit c s → FitExc c (s.commitPushes crew ctx ps) := by
  induction ps with
  | nil => exact fun h => FitExc.ok h
  | cons p ps ih =>
    intro s h
    unfold State.commitPushes
    split
    · exact ih (h.commitPush _ ‹_›)
    · exact FitExc.error

theorem Fit.commitServices {crew ctx : Nat} {ds : List Deferred} : ∀ {s : State}, Fit c s → FitExc c (s.commitServices crew ctx ds) := by
  induction ds with
  | nil => exact fun h => FitExc.ok h
  | cons d ds ih =>
    intro s h
    cases d with
    | service die request =>
      unfold State.commitServices
      split
      · exact ih (h.commitService _ ‹_›)
      · exact FitExc.error
    | _ => exact ih h

theorem Fit.commitSteps {crew : Nat} {c' : Crew} (h : Fit c s) : FitExc c (s.commitSteps crew c') := by
  unfold State.commitSteps
  dsimp only
  split
  · exact FitExc.error
  · split
    · exact FitExc.error
    · exact FitExc.ok (((((h.commitLog.commitPops.commitPushes _ ‹_›).commitServices) _ ‹_›).commitSends).mapCrew)

theorem Fit.commitTask {crew : Nat} (h : Fit c s) : FitExc c (s.commitTask crew) := by
  unfold State.commitTask
  split
  · exact FitExc.ok h
  · split
    · exact FitExc.error
    · split
      · exact FitExc.error
      · exact FitExc.ok (h.commitSteps _ ‹_›)

theorem Fit.pin {g : Gang} (h : Fit c s) : FitExc c (s.pin g) := by
  unfold State.pin
  split
  · exact FitExc.ok h
  · split
    · exact FitExc.error
    · exact FitExc.ok ((h.commitTask _ ‹_›).mapCrew)

theorem Fit.storeAt {q : Ask} {rel : Bool} {bytes : List Byte} {e : Env} {l : Nat} {pa : Nat} {leaf : Option DWord} (h : Fit c s) : Fit c (storeAt q rel bytes s e l pa leaf).1 := by
  unfold Machine.storeAt
  dsimp only
  split
  · split
    · split
      · exact h
      · exact h.performStore
    · split
      · exact h.logEntry
      · split
        · split
          · exact h.pin _ ‹_›
          · exact (h.pin _ ‹_›).performStore
        · exact h
  · split
    · split
      · exact h
      · split
        · split
          · exact h.pin _ ‹_›
          · exact (h.pin _ ‹_›).performStore
        · exact h
    · split
      · exact h
      · exact h.performStore

theorem Fit.storeLane {q : Ask} {rel : Bool} {e : Env} {l : Nat} (h : Fit c s) : Fit c (storeLane q rel s e l).1 := by
  unfold Machine.storeLane
  split
  · exact h.locate.of_eq ‹_›
  · exact h.locate.of_eq ‹_›
  · exact (h.locate.of_eq ‹_›).storeAt

theorem Fit.amoAt {q : Amo} {data : DWord} {cmp : DWord} {e : Env} {l : Nat} {pa : Nat} {leaf : Option DWord} (h : Fit c s) : Fit c (amoAt q data cmp s e l pa leaf).1 := by
  unfold Machine.amoAt
  dsimp only
  split
  · split
    · exact h
    · split
      · split
        · exact h.pin _ ‹_›
        · exact (h.pin _ ‹_›).performAmo
      · exact h
  · split
    · split
      · split
        · exact h
        · exact h.performAmo
      · split
        · exact h.logEntry
        · split
          · exact h
          · split
            · split
              · exact h.pin _ ‹_›
              · exact (h.pin _ ‹_›).performAmo
            · exact h
    · split
      · exact h
      · exact h.performAmo

theorem Fit.amoLane {q : Amo} {e : Env} {l : Nat} (h : Fit c s) : Fit c (amoLane q s e l).1 := by
  unfold Machine.amoLane
  dsimp only
  split
  · exact h.locate.of_eq ‹_›
  · exact h.locate.of_eq ‹_›
  · exact (h.locate.of_eq ‹_›).amoAt

theorem Fit.barBody {x1 : Env} (h : Fit c s) : Fit c (barBody s x1).1 := by
  unfold Machine.barBody
  dsimp only
  split
  · exact h
  · split
    · split
      · exact h
      · split
        · exact h.passBar
        · exact h
    · split
      · exact h
      · split
        · exact h.passBar
        · exact h

theorem Fit.gbarBody {x1 : Env} (h : Fit c s) : Fit c (gbarBody s x1).1 := by
  unfold Machine.gbarBody
  extract_lets +onlyGivenNames x2 x2' r1
  subst x2
  subst x2'
  have hr1 : Fit c r1.1 := by
    dsimp only [r1]
    refine Fit.foldlFst (fun p a h => ?_) h
    exact h.arriveGroup
  clear_value r1
  exact hr1

theorem Fit.acceptLaunch {ctx stream level n : Nat} {ov : Bool} {p : Parts} (h : Fit c s) : Fit c (s.acceptLaunch ctx stream level ov n p).1 :=
  (h.addLaunch fun _ hk => by cases hk).mapCtx

theorem Fit.readPieces {x : Crew} {w : Who} {vault : Bool} {chk : PageCheck} {ps : List (Nat × Nat)} :
    ∀ {s : State}, Fit c s → Fit c (s.readPieces x w vault chk ps).1 := by
  induction ps with
  | nil => exact fun h => h
  | cons p ps ih =>
    intro s h
    obtain ⟨va, n⟩ := p
    unfold State.readPieces
    split
    · exact h.readPiece.of_eq ‹_›
    · have hs := h.readPiece.of_eq ‹_›
      split <;> exact (ih hs).of_eq ‹_›

theorem Fit.readRange {c' : Crew} {w : Who} {vault : Bool} {chk : PageCheck} {va : Nat} {n : Nat} (h : Fit c s) : Fit c (s.readRange c' w vault chk va n).1 := by
  unfold State.readRange
  exact h.readPieces

theorem Fit.writePieces {x : Crew} {w : Who} {vault fs : Bool} {chk : PageCheck} {ps : List (Nat × List Byte)} :
    ∀ {s : State}, Fit c s → Fit c (s.writePieces x w vault fs chk ps).1 := by
  induction ps with
  | nil => exact fun h => h
  | cons p ps ih =>
    intro s h
    obtain ⟨va, n⟩ := p
    unfold State.writePieces
    split
    · exact h.writePiece.of_eq ‹_›
    · exact ih (h.writePiece.of_eq ‹_›)

theorem Fit.writeRange {c' : Crew} {w : Who} {vault : Bool} {fs : Bool} {chk : PageCheck} {va : Nat} {bytes : List Byte} (h : Fit c s) : Fit c (s.writeRange c' w vault fs chk va bytes).1 := by
  unfold State.writeRange
  exact h.writePieces

theorem Fit.onGang {α : Type} {gk : Nat} {f : State → State × α} (h : Fit c s) (hf : ∀ s, Fit c s → Fit c (f s).1) : Fit c (s.onGang gk f).1 := by
  unfold State.onGang
  split
  · exact hf s h
  · split
    · exact (hf _ h.loadControl).flushGang
    · exact hf s h

theorem Fit.exitGang {gk : Nat} (h : Fit c s) : Fit c (s.exitGang gk) := by
  unfold State.exitGang
  exact h.withdrawWaits.onGang (fun _ h => h.mapGang)

theorem Fit.stopCrew {crew : Nat} {cmds : State → State} (h : Fit c s) (hf : ∀ s, Fit c s → Fit c (cmds s)) : Fit c (s.stopCrew crew cmds) := by
  unfold State.stopCrew
  dsimp only
  split
  · exact h
  · split
    · exact hf _ h
    · exact Fit.foldl (fun _ _ h => h.settleGang) ((Fit.foldl (fun _ _ h => h.unbind) (hf _ (Fit.foldl (fun _ _ h => h.exitGang) h.mapCrew.closeWhere))).dropTask)

theorem Fit.killOne {crew : Nat} (h : Fit c s) : Fit c (s.killOne crew) := by
  unfold State.killOne
  exact h.stopCrew (fun _ h => h.killCmds)

theorem Fit.killCrew {crew : Nat} (h : Fit c s) : Fit c (s.killCrew crew) := by
  unfold State.killCrew
  exact Fit.foldl (fun _ _ h => h.killOne) h.killOne

theorem Fit.drainCrew {crew : Nat} (h : Fit c s) : Fit c (s.drainCrew crew) := by
  unfold State.drainCrew
  refine h.stopCrew (fun s h => Fit.foldl (fun s a h => ?_) h)
  split
  · exact h.drainCmd
  · exact h.killCmd

theorem Fit.readFrozen {o : Obj} {x : Word} (h : Fit c s) : Fit c (s.readFrozen o x).1 := by
  unfold State.readFrozen
  dsimp only
  split
  · exact h
  · split
    · exact h
    · exact h.onGang (fun _ h => h.reachLine)

theorem Fit.writeFrozen {o : Obj} {x : Word} {value : Word} (h : Fit c s) : FitExc c (s.writeFrozen o x value) := by
  unfold State.writeFrozen
  split
  · exact FitExc.ok h.mapCmd
  · split
    · exact FitExc.ok h
    · split
      · exact FitExc.error
      · exact FitExc.ok (h.onGang (fun _ h => h.reachLine.mapGang))

theorem Fit.resumeFrozen {o : Obj} {mask : Nat} {mode : Nat} (h : Fit c s) : Fit c (s.resumeFrozen o mask mode).1 := by
  unfold State.resumeFrozen
  split
  · exact h.resumeCmd
  · split
    · exact h
    · exact h.onGang (fun _ h => h.resumeSet)

theorem Fit.killFrozen {o : Obj} {mask : Nat} (h : Fit c s) : Fit c (s.killFrozen o mask).1 := by
  unfold State.killFrozen
  dsimp only
  split
  · split
    · exact h.killCrew
    · exact h.killCmd
  · split
    · exact h
    · exact h.onGang (fun _ h => h.killSet)

theorem Fit.sendLane {lost : Nat → Bool} {e : Env} {l : Nat} (h : Fit c s) : Fit c (sendLane lost s e l).1 := by
  unfold Machine.sendLane
  dsimp only
  split
  · exact h
  · split
    · exact h.mapGang
    · split
      · exact h.sendUli
      · split
        · exact h.sendUli
        · split
          · exact h.defer
          · split
            · exact (h.pin _ ‹_›).sendUli
            · exact h

theorem Fit.waitGang {e : Env} {l : Nat} (h : Fit c s) : Fit c (waitGang s e l).1 := by
  unfold Machine.waitGang
  dsimp only
  split
  · exact h
  · split
    · exact h
    · split
      · exact h.setEndpoint
      · split <;> exact h

theorem Fit.maskLane {e : Env} {l : Nat} (h : Fit c s) : Fit c (maskLane s e l).1 := by
  unfold Machine.maskLane
  dsimp only
  split
  · exact h
  · split
    · exact h.setEndpoint
    · exact h

theorem Fit.bindGang {e : Env} {l : Nat} (h : Fit c s) : Fit c (bindGang s e l).1 := by
  unfold Machine.bindGang
  dsimp only
  split
  · exact h
  · split
    · exact h.setEndpoint
    · exact h

theorem Fit.noteRecord {gk : Nat} {iv : Option Nat} {ctx : Nat} {r : Nat} (h : Fit c s) : Fit c (s.noteRecord gk iv ctx r) := by
  unfold State.noteRecord
  exact (Fit.foldl (fun _ _ h => h.recordAccess) h).access

theorem Fit.writeRecord {e : Env} {c' : Crew} {r : Nat} {d : Nat} {batch : List Nat} (h : Fit c s) : Fit c (s.writeRecord e c' r d batch) := by
  unfold State.writeRecord
  dsimp only
  exact ((Fit.foldl (fun _ _ h => h.writeImage) h.noteRecord.writeImage).writeImage).mapLaunch

theorem Fit.requestBatch {e : Env} {c' : Crew} {r : Nat} {batch : List Nat} (h : Fit c s) : Fit c (requestBatch s e c' r batch).1 := by
  unfold Machine.requestBatch
  dsimp only
  split
  · split
    · exact h.pushService _ ‹_›
    · exact h
  · split
    · exact h.defer.mapCrew
    · split
      · split
        · exact ((h.pin _ ‹_›).pushService) _ ‹_›
        · exact h.pin _ ‹_›
      · exact h

theorem Fit.recordLoc {e : Env} {l : Nat} (h : Fit c s) : Fit c (s.recordLoc e l).1 := by
  unfold State.recordLoc
  dsimp only
  split
  · split
    · exact h.agentLoc.of_eq ‹_›
    · split <;> exact ((h.agentLoc.of_eq ‹_›).agentLoc).of_eq ‹_›
  · exact h.agentLoc

theorem Fit.emptyBlocks {core : Nat} (h : Fit c s) : Fit c (s.emptyBlocks core) := by
  unfold State.emptyBlocks
  dsimp only
  refine (Fit.foldl (fun s a h => ?_) h).mapCore
  split
  · exact h.endTagged.homeFill
  · exact h.endTagged

theorem Fit.storeEntry {crew : Nat} {x : BitVec 256} (h : Fit c s) : Fit c (s.storeEntry crew x) := by
  unfold State.storeEntry
  dsimp only
  split
  · exact h
  · exact h.store.store.mapCrew

theorem Fit.stage {crew : Nat} (h : Fit c s) : Fit c (s.stage crew) := by
  unfold State.stage
  dsimp only
  split
  · exact h
  · split
    · refine Fit.foldl (fun s a h => ?_) h
      split
      · exact h.storeEntry
      · split
        · split
          · exact h.storeEntry
          · exact h
        · split
          · exact h.storeEntry
          · exact h
    · exact h

theorem Fit.newWindow {crew : Nat} (h : Fit c s) : Fit c (s.newWindow crew) := by
  unfold State.newWindow
  dsimp only
  split
  · exact h
  · exact (Fit.foldl (fun _ _ h => h.scrubRange) h).store

theorem Fit.leaveHandover (h : Fit c s) : Fit c s.leaveHandover := by
  unfold State.leaveHandover
  dsimp only
  exact Fit.foldl (fun _ _ h => h.stage) (Fit.foldl (fun _ _ h => h.newWindow.mapCrew) h)

theorem Fit.execCacheBlockHandover {core : Nat} (h : Fit c s) : FitOut c (execCacheBlockHandover core s) := by
  unfold Machine.execCacheBlockHandover
  exact FitOut.next h.emptyBlocks.leaveHandover

theorem Fit.riseBoundaries {cores : List Nat} (h : Fit c s) : Fit c (s.riseBoundaries cores) := by
  unfold State.riseBoundaries
  refine Fit.foldl (fun s a h => ?_) h
  split
  · exact h
  · exact h.emptyBlocks.mapCore

theorem Fit.freeCrew {crew : Nat} (h : Fit c s) : Fit c (s.freeCrew crew) := by
  unfold State.freeCrew
  dsimp only
  split
  · exact h
  · exact ((((Fit.foldl (fun _ _ h => h.scrubRange) (Fit.foldl (fun _ _ h => h.unbind) h)).filterGangs).filterCrews).same).riseBoundaries

theorem Fit.leaveSlots {ctx : Nat} (h : Fit c s) : Fit c (s.leaveSlots ctx) := by
  unfold State.leaveSlots
  split
  · exact h
  · exact h.storeEps

theorem Fit.endReset {ctx : Nat} (h : Fit c s) : Fit c (s.endReset ctx) := by
  unfold State.endReset
  split
  · exact h
  · exact h.mapCtx

theorem Fit.endDrain (h : Fit c s) : Fit c s.endDrain := by
  unfold State.endDrain
  dsimp only
  exact h.same

theorem Fit.endResets (h : Fit c s) : Fit c s.endResets := by
  unfold State.endResets
  exact (Fit.foldl (fun _ _ h => h.endReset) h).endDrain

theorem Fit.refillStream {p : Nat × Nat} (h : Fit c s) : Fit c (s.refillStream p) := by
  unfold State.refillStream
  exact h.mapCtx

theorem Fit.refill {die : Nat} {w : Work} (h : Fit c s) : Fit c (s.refill die w) := by
  unfold State.refill
  dsimp only
  split
  · exact Fit.foldl (fun _ _ h => h.refillStream) h
  · exact h

theorem Fit.spend {l : Launch} (h : Fit c s) : Fit c (s.spend l) := by
  unfold State.spend
  dsimp only
  exact h.mapCtx

theorem Fit.execWatchedQueueReexamine {die : Nat} {ctx : Nat} {serial : Nat} {stage : Nat} (h : Fit c s) : FitOut c (execWatchedQueueReexamine die ctx serial stage s) := by
  unfold Machine.execWatchedQueueReexamine
  exact FitOut.next (h.mapLaunch (by intro x hx; split <;> exact hx))

theorem Fit.startLaunch {ctx : Nat} {serial : Nat} (h : Fit c s) : Fit c (s.startLaunch ctx serial) := by
  unfold State.startLaunch
  split
  · exact h
  · split
    · exact h.mapLaunch
    · exact h

theorem Fit.execLaunchStart {ctx : Nat} {serial : Nat} (h : Fit c s) : FitOut c (execLaunchStart ctx serial s) := by
  unfold Machine.execLaunchStart
  exact FitOut.next h.startLaunch

theorem Fit.writeCompletion {l : Launch} (h : Fit c s) : Fit c (s.writeCompletion l).1 := by
  unfold State.writeCompletion
  dsimp only
  split
  · exact h
  · split
    · exact ((h.agentLoc.of_eq ‹_›).putPiece).askRelay
    · exact h.agentLoc.of_eq ‹_›
    · exact h.agentLoc.of_eq ‹_›

theorem Fit.retireLaunch {ctx : Nat} {serial : Nat} (h : Fit c s) : Fit c (s.retireLaunch ctx serial) := by
  unfold State.retireLaunch
  dsimp only
  split
  · exact h
  · split
    · exact h
    · split
      · exact h.writeCompletion.of_eq ‹_›
      · split
        · refine (Fit.filterLaunches ?_).startLaunch
          split
          · exact (h.writeCompletion.of_eq ‹_›).sendUli
          · exact h.writeCompletion.of_eq ‹_›
        · refine Fit.filterLaunches ?_
          split
          · exact (h.writeCompletion.of_eq ‹_›).sendUli
          · exact h.writeCompletion.of_eq ‹_›

theorem Fit.execLaunchRetire {ctx : Nat} {serial : Nat} (h : Fit c s) : FitOut c (execLaunchRetire ctx serial s) := by
  unfold Machine.execLaunchRetire
  exact FitOut.next h.retireLaunch

theorem Fit.readSource {c' : Crew} {m : Cmd} {chk : PageCheck} {i : Nat} {off : Nat} {n : Nat} (h : Fit c s) : Fit c (s.readSource c' m chk i off n).1 := by
  unfold State.readSource
  exact h.readRange

theorem Fit.plainSource {c' : Crew} {m : Cmd} {n : Nat} (h : Fit c s) : Fit c (plainSource s c' m n).1 := by
  unfold Machine.plainSource
  dsimp only
  split
  · exact h
  · exact h.readRange

theorem Fit.plainDest {c' : Crew} {m : Cmd} {n : Nat} {bytes : List Byte} (h : Fit c s) : Fit c (plainDest s c' m n bytes).1 := by
  unfold Machine.plainDest
  dsimp only
  split
  · exact h.writePieces
  · exact h.writeRange

theorem Fit.planeGroupSource {c' : Crew} {m : Cmd} {r : BitVec 256} {line : Nat} {g : Nat} (h : Fit c s) : Fit c (planeGroupSource s c' m r line g).1 := by
  unfold Machine.planeGroupSource
  dsimp only
  split
  · exact h.readSource.of_eq ‹_›
  · split
    · exact h.readSource.of_eq ‹_›
    · split
      · exact h.readSource.of_eq ‹_›
      · split
        · exact ((h.readSource.of_eq ‹_›).leafFor).of_eq ‹_›
        · split <;> exact ((((h.readSource.of_eq ‹_›).leafFor).of_eq ‹_›).engineMeta).of_eq ‹_›

theorem Fit.inOrder {f : State → Env → Nat → State × LaneOut} {e : Env} (h : Fit c s) (hf : ∀ s l, Fit c s → Fit c (f s e l).1) : Fit c (inOrder f s e).1 := by
  unfold Machine.inOrder
  refine Fit.foldlFst (fun p l h => ?_) h
  exact hf p.1 l h

theorem Fit.readGranules {e : Env} {l n : Nat} : ∀ {va : DWord} {s : State}, Fit c s → Fit c (s.readGranules e l va n).1 := by
  induction n with
  | zero => exact fun h => h
  | succ n ih =>
    intro va s h
    unfold State.readGranules
    split
    · exact h.globalLoc.of_eq ‹_›
    · exact h.globalLoc.of_eq ‹_›
    · have hs := h.globalLoc.of_eq ‹_›
      split
      · exact hs
      · dsimp only
        split
        · exact (ih hs.bytesAt.recordAccess.cacheAccess).of_eq ‹_›
        · exact ih hs.bytesAt.recordAccess.cacheAccess

theorem Fit.withObj {e : Env} {l : Nat} {f : Obj → State × LaneOut} (h : Fit c s) (hf : ∀ o, Fit c (f o).1) : Fit c (withObj s e l f).1 := by
  unfold Machine.withObj
  split
  · exact h
  · exact hf _

theorem Fit.issueHint {gk : Nat} {g : Gang} {lanes : List Nat} {begins : Bool} {f : Thread → Thread} (h : Fit c s) (hg : g.threads.length = 32) :
    Fit c (s.issueHint gk g lanes begins f) := by
  unfold State.issueHint
  extract_lets ended g1
  have h1 : g1.threads.length = 32 := (Gang.foldl_len (fun g l => by simp) lanes _).trans hg
  clear_value g1
  split
  · exact h.setGang (by simpa using h1)
  · exact (h.setGang h1).freezeAll.mapGang.settleBarriers.releaseSlot

theorem Fit.spawn {ctx r : Nat} {l : Launch} (h : Fit c s) : Fit c (s.spawn ctx r l).1 := by
  unfold State.spawn
  refine Fit.freeRecords (h.touchRun.setRecord.mapLaunch fun l hl => ?_)
  exact List.forall_mem_append.2 ⟨hl, List.forall_mem_singleton.2 (contGang_len ..)⟩

theorem Fit.newKey (h : Fit c s) : Fit c s.newKey.2 := h.same

theorem Fit.seatGang {core : Nat} {g : Gang} (h : Fit c s) (hg : g.threads.length = 32) : Fit c (s.seatGang core g) := by
  unfold State.seatGang
  split
  · exact h
  · dsimp only
    exact Fit.trimLines (h.takeBases.newKey.setGang hg)

theorem Launch.giveIndex_whole {l : Launch} (hl : l.whole) (stage index : Nat) : (l.giveIndex stage index).whole := by
  unfold Launch.giveIndex
  split
  · exact hl
  · dsimp only
    split <;> exact hl

theorem Fit.endCrew {crew : Nat} (h : Fit c s) : Fit c (s.endCrew crew) := by
  unfold State.endCrew
  split
  · exact h
  · extract_lets s1 s2 s3
    have h1 : Fit c s1 := h.freeCrew
    clear_value s1
    have h2 : Fit c s2 := by
      dsimp only [s2]
      split
      · exact h1
      · exact h1.mapLaunch fun l hl => Launch.giveIndex_whole hl _ _
    exact (Fit.foldl (fun _ _ h => h.settleGroup) h2).leaveSlots.endReset

theorem Fit.retireTask {crew : Nat} (h : Fit c s) : Fit c (s.retireTask crew) := by
  unfold State.retireTask
  dsimp only
  split
  · exact h
  · split
    · exact h
    · split
      · exact h.endCrew.endDrain
      · split
        · exact h
        · split
          · exact h
          · refine Fit.endCrew ?_
            split
            · exact Fit.foldl (fun _ _ h => h.commitLater) (h.commitTask _ ‹_›)
            · exact h.commitTask _ ‹_›

theorem Fit.execTaskRetire {crew : Nat} (h : Fit c s) : FitOut c (execTaskRetire crew s) := by
  unfold Machine.execTaskRetire
  exact FitOut.next h.retireTask

theorem Fit.abortTask {crew : Nat} (h : Fit c s) : Fit c (s.abortTask crew) := by
  unfold State.abortTask
  split
  · exact h
  · next x hx =>
    extract_lets gs s1 s2 s3 s4 kept s5
    have h2 : Fit c s2 := Fit.foldl (fun _ _ h => h.freeRecords) h.closeWhere
    refine Fit.mapLaunch h2.killCmds.freeRecords.freeCrew.leaveSlots fun l hl => ?_
    split
    · next k hk => exact List.forall_mem_append.2 ⟨hl, List.forall_mem_singleton.2 (h.crewWhole hx k hk)⟩
    · exact hl

theorem Fit.execTaskAbort {crew : Nat} {error : Bool} (h : Fit c s) : FitOut c (execTaskAbort crew error s) := by
  unfold Machine.execTaskAbort
  refine FitOut.next ?_
  split
  · split
    · exact h.abortTask
    · exact h
  · exact h

theorem Fit.planeGroups {x : Crew} {m : Cmd} {r : BitVec 256} {gs : List (Nat × Nat)} : ∀ {s : State}, Fit c s → Fit c (planeGroups s x m r gs).1 := by
  induction gs with
  | nil => exact fun h => h
  | cons g gs ih =>
    intro s h
    unfold Machine.planeGroups
    split
    · exact h.planeGroupSource.of_eq ‹_›
    · have hs := h.planeGroupSource.of_eq ‹_›
      split <;> exact (ih hs).of_eq ‹_›

theorem Fit.planeSource {c' : Crew} {m : Cmd} {n : Nat} (h : Fit c s) : Fit c (planeSource s c' m n).1 := by
  unfold Machine.planeSource
  dsimp only
  exact h.planeGroups

theorem Fit.planeDest {c' : Crew} {m : Cmd} {n : Nat} {bytes : List Byte} (h : Fit c s) : Fit c (planeDest s c' m n bytes).1 := by
  unfold Machine.planeDest
  dsimp only
  exact h.writePieces

theorem Fit.writeGroup {c' : Crew} {m : Cmd} {fs : Bool} {fmt : Nat} {va : Nat} {j : Nat} {g : QGroup} (h : Fit c s) : Fit c (s.writeGroup c' m fs fmt va j g).1 := by
  unfold State.writeGroup
  split
  · exact h.leafFor.of_eq ‹_›
  · split
    · exact h.leafFor.of_eq ‹_›
    · split
      · exact h.leafFor.of_eq ‹_›
      · split
        · exact (h.leafFor.of_eq ‹_›).writeRange
        · exact (h.leafFor.of_eq ‹_›).writePiece

theorem Fit.linearDest {c' : Crew} {m : Cmd} {n : Nat} {bytes : List Byte} (h : Fit c s) : Fit c (linearDest s c' m n bytes).1 := by
  unfold Machine.linearDest
  dsimp only
  split
  · exact h
  · exact h.writeGroup

theorem Fit.gatIndex {c' : Crew} {m : Cmd} {i : Nat} (h : Fit c s) : Fit c (gatIndex s c' m i).1 := by
  unfold Machine.gatIndex
  split <;> exact h.readRange.of_eq ‹_›

theorem Fit.gatherDest {c' : Crew} {m : Cmd} {p : Nat} {bytes : List Byte} (h : Fit c s) : Fit c (gatherDest s c' m p bytes).1 := by
  unfold Machine.gatherDest
  dsimp only
  split
  · exact h.writeRange
  · split
    · exact h
    · split
      · exact h.writeRange
      · split
        · exact h
        · split
          · exact h.readRange.of_eq ‹_›
          · exact (h.readRange.of_eq ‹_›).writeRange

theorem Fit.putNum {a : Nat} {n : Nat} {x : Nat} (h : Fit c s) : Fit c (s.putNum a n x) := by
  unfold State.putNum
  exact h.store.dropCopies

theorem Fit.setSlot {a : Nat} {t' : Slot} (h : Fit c s) : Fit c (s.setSlot a t') := by
  unfold State.setSlot
  exact h.putNum

theorem Fit.winContrib {h' : Nat} {count : Nat} {ncon : Nat} {first : Nat} {xs : List Acc} (h : Fit c s) : Fit c (s.winContrib h' count ncon first xs).1 := by
  unfold State.winContrib
  dsimp only
  split
  · exact h
  · split
    · exact h
    · refine Fit.foldl (fun _ _ h => h.setSlot) ?_
      split
      · exact h.putNum.putNum
      · exact h

theorem Fit.winRead {h' : Nat} {first : Nat} {n : Nat} (h : Fit c s) : Fit c (s.winRead h' first n).1 := by
  unfold State.winRead
  dsimp only
  split
  · exact h
  · split
    · exact (Fit.foldl (fun _ _ h => h.setSlot) h).putNum
    · exact Fit.foldl (fun _ _ h => h.setSlot) h

theorem Fit.windowCommand {core : Nat} {pa : Nat} {r : ModReq} {payload : List Byte} {status : Nat} (h : Fit c s) : Fit c (s.windowCommand core pa r payload status) := by
  unfold State.windowCommand
  dsimp only
  split
  · exact h.modCommand
  · exact h.askRelay

theorem Fit.winLoc {w : Who} {va : Nat} {adds : Bool} (h : Fit c s) : Fit c (s.winLoc w va adds).1 := by
  unfold State.winLoc
  dsimp only
  split
  · exact h
  · split
    · exact h.translatePage.of_eq ‹_›
    · exact h.translatePage.of_eq ‹_›
    · next t leaf e =>
      have ht := h.translatePage.of_eq e
      obtain ⟨q, hq⟩ : ∃ q, t.mapCheck leaf (leafPa leaf va) = q := ⟨_, rfl⟩
      rw [hq]
      split
      · exact ht
      · split <;> exact ht

theorem Fit.packageLoc {w : Who} {va : Nat} (h : Fit c s) : Fit c (s.packageLoc w va).1 := by
  unfold State.packageLoc
  split <;> exact h.engineLoc.of_eq ‹_›

theorem Fit.homeSlots {w : Who} {places : List Nat} {writes : Bool} (h : Fit c s) : Fit c (s.homeSlots w places writes) := by
  unfold State.homeSlots
  exact Fit.foldl (fun _ _ h => h.homeRun) h

theorem Fit.releaseLanes {va : Env → Nat → DWord} {f : State → Env → Nat → State × LaneOut} {e : Env} (h : Fit c s)
    (hf : ∀ s l, Fit c s → Fit c (f s e l).1) : Fit c (Machine.release va f s e).1 := by
  unfold Machine.release
  refine h.inOrder fun s l h => ?_
  split
  · exact h.mapGang
  · exact hf s l h

theorem Fit.svcBatch {d : Nat} {e : Env} {batch : List Nat} (h : Fit c s) : Fit c (svcBatch d s e batch).1 := by
  unfold Machine.svcBatch
  -- kept from the kernel, which would carry out the search
  obtain ⟨free, hfree⟩ : ∃ f, f = State.freeRecord := ⟨_, rfl⟩
  rw [← hfree]
  split
  · exact h
  · split
    · exact h.requestBatch
    · split
      · exact h
      · split
        · exact h
        · exact h.writeRecord.requestBatch

theorem Fit.svcBody {d : Nat} {x2 : Env} (h : Fit c s) : Fit c (svcBody d s x2).1 := by
  unfold Machine.svcBody
  extract_lets +onlyGivenNames x1 r1
  subst x1
  have hr1 : Fit c r1.1 := by
    dsimp only [r1]
    refine Fit.foldlFst (fun p a h => ?_) h
    exact h.svcBatch
  clear_value r1
  exact hr1

theorem Fit.spawnLane {e : Env} {l : Nat} (h : Fit c s) : Fit c (spawnLane s e l).1 := by
  unfold Machine.spawnLane
  -- kept from the kernel, which would carry out the search
  obtain ⟨recordAt, hr⟩ : ∃ f, f = State.recordAt := ⟨_, rfl⟩
  rw [← hr]
  split
  · exact h.recordLoc.of_eq ‹_›
  · exact h.recordLoc.of_eq ‹_›
  · next s1 pa _ he =>
    have h1 : Fit c s1 := h.recordLoc.of_eq he
    split
    · exact h1
    · split
      · exact h1
      · split
        · exact h1
        · split
          · exact h1
          · exact h1.spawn

/-- A job that goes on with a continuation brings the 32 threads of its gang. -/
def Job.whole (j : Job) : Prop := ∀ k, j.cont = some k → k.gang.threads.length = 32

theorem Fit.newJob {l : Launch} {stage index : Nat} {t : Stage} (h : Fit c s) : ∀ p, s.newJob l stage index t = some p → Fit c p.1 ∧ p.2.whole := by
  unfold State.newJob
  dsimp only
  split
  · rintro _ ⟨⟩
    exact ⟨h.mapLaunch.mapLaunch, fun _ e => by cases e⟩
  · split
    · exact fun _ e => by cases e
    · split
      · exact fun _ e => by cases e
      · intro p e
        obtain ⟨u, hu, rfl⟩ := Option.map_eq_some_iff.1 e
        exact ⟨Fit.mapLaunch (h.touchPage.touchPage.popWhole _ hu), fun _ e => by cases e⟩

theorem Launch.eraseConts_whole {l : Launch} (hl : l.whole) (k : Cont) : ({ l with conts := l.conts.erase k } : Launch).whole :=
  fun x hx => hl x (List.mem_of_mem_erase hx)

theorem Fit.takeJob {die : Nat} {w : Work} {t : Stage} (h : Fit c s) (hw : w.l.whole) :
    ∀ p, s.takeJob die w t = some p → Fit c p.1 ∧ p.2.whole := by
  unfold State.takeJob
  split
  · split
    · exact fun _ e => by cases e
    · next k hk =>
      rintro _ ⟨⟩
      refine ⟨h.mapLaunch fun l hl => Launch.eraseConts_whole hl k, fun x e => ?_⟩
      cases e
      exact hw k (List.mem_of_find?_eq_some hk)
  · split
    · rintro _ ⟨⟩
      exact ⟨h.mapLaunch, fun _ e => by cases e⟩
    · split
      · exact fun _ e => by cases e
      · exact h.newJob

theorem plainEngine_fits : plainEngine.Fits := ⟨fun h => h.plainSource, fun h => h.plainDest⟩

theorem planeEngine_fits : planeEngine.Fits := ⟨fun h => h.planeSource, fun h => h.planeDest⟩

theorem Fit.linearElements {x : Crew} {m : Cmd} {ps : List (Nat × Nat)} : ∀ {s : State}, Fit c s → Fit c (linearElements s x m ps).1 := by
  induction ps with
  | nil => exact fun h => h
  | cons p ps ih =>
    intro s h
    obtain ⟨va, n⟩ := p
    unfold Machine.linearElements
    extract_lets leaf
    have hl : Fit c leaf.1 := Fit.ite_fst h h.leafFor
    clear_value leaf
    split
    · exact hl
    · replace hl := Fit.of_eq hl rfl
      split
      · exact hl.readPiece.of_eq ‹_›
      · have hr := hl.readPiece.of_eq ‹_›
        split <;> exact (ih hr).of_eq ‹_›

theorem Fit.linearSource {c' : Crew} {m : Cmd} {n : Nat} (h : Fit c s) : Fit c (linearSource s c' m n).1 := by
  unfold Machine.linearSource
  dsimp only
  exact h.ite_fst h.linearElements

theorem linearEngine_fits : linearEngine.Fits := ⟨fun h => h.linearSource, fun h => h.linearDest⟩

theorem copyEngine_fits {m : Cmd} : (copyEngine m).Fits := by
  unfold copyEngine
  split
  · exact plainEngine_fits
  · split
    · exact planeEngine_fits
    · exact linearEngine_fits

theorem Fit.runCopy {op : Nat} {crew : Nat} {sq : Nat} (h : Fit c s) : Fit c (s.runCopy op crew sq) := by
  unfold State.runCopy
  split
  · split
    · exact h.all copyEngine_fits
    · exact h
  · exact h

theorem Fit.gatherSource {c' : Crew} {m : Cmd} {p : Nat} (h : Fit c s) : Fit c (gatherSource s c' m p).1 := by
  unfold Machine.gatherSource
  dsimp only
  split
  · exact h.gatIndex.of_eq ‹_›
  · split
    · exact h.gatIndex.of_eq ‹_›
    · split
      · exact h.gatIndex.of_eq ‹_›
      · split <;> exact (((h.gatIndex.of_eq ‹_›).readRange).ite_fst ((h.gatIndex.of_eq ‹_›).readRange)).of_eq ‹_›

theorem gatherEngine_fits {m : Cmd} : (gatherEngine m).Fits := ⟨fun h => h.gatherSource, fun h => h.gatherDest⟩

theorem Fit.runGather {op : Nat} {crew : Nat} {sq : Nat} (h : Fit c s) : Fit c (s.runGather op crew sq) := by
  unfold State.runGather
  split
  · split
    · exact h.all gatherEngine_fits
    · exact h
  · exact h

theorem Fit.packageSlots {w : Who} {va first n : Nat} (h : Fit c s) : Fit c (s.packageSlots w va first n).1 := by
  induction n with
  | zero => exact h
  | succ n ih =>
    unfold State.packageSlots
    split
    · exact ih.of_eq ‹_›
    · have hs := ih.of_eq ‹_›
      split <;> exact hs.packageLoc.of_eq ‹_›

theorem Fit.packageAdd {m : Cmd} {w : Who} {va : Nat} {first : Nat} {weighted : Bool} {us : List Upd} (h : Fit c s) : Fit c (s.packageAdd m w va first weighted us).1 := by
  unfold State.packageAdd
  dsimp only
  split
  · exact h.packageLoc.of_eq ‹_›
  · split
    · exact ((h.packageLoc.of_eq ‹_›).packageSlots).of_eq ‹_›
    · split
      · exact ((h.packageLoc.of_eq ‹_›).packageSlots).of_eq ‹_›
      · exact ((Fit.foldl (fun _ _ h => h.setSlot) (((((h.packageLoc.of_eq ‹_›).packageSlots).of_eq ‹_›).homeSlots).homeSlots)).mapCmd).ite_fst ((Fit.foldl (fun _ _ h => h.setSlot) (((((h.packageLoc.of_eq ‹_›).packageSlots).of_eq ‹_›).homeSlots).homeSlots)).mapCmd)

theorem Fit.decodeGroups {x : Crew} {m : Cmd} {ps : List (Nat × Nat)} : ∀ {s : State}, Fit c s → Fit c (decodeGroups s x m ps).1 := by
  induction ps with
  | nil => exact fun h => h
  | cons p ps ih =>
    intro s h
    obtain ⟨va, n⟩ := p
    unfold Machine.decodeGroups
    split
    · exact h.leafFor.of_eq ‹_›
    · have h1 := h.leafFor.of_eq ‹_›
      split
      · exact h1.readPiece.of_eq ‹_›
      · have h2 := h1.readPiece.of_eq ‹_›
        split
        · exact h2.engineMeta.of_eq ‹_›
        · have h3 := h2.engineMeta.of_eq ‹_›
          split <;> exact (ih h3).of_eq ‹_›

theorem Fit.decodeRun {c' : Crew} {m : Cmd} {va : Nat} {n : Nat} (h : Fit c s) : Fit c (decodeRun s c' m va n).1 := by
  unfold Machine.decodeRun
  exact h.decodeGroups

theorem Fit.contribSource {c' : Crew} {m : Cmd} {n : Nat} (h : Fit c s) : Fit c (contribSource s c' m n).1 := by
  unfold Machine.contribSource
  dsimp only
  exact h.decodeRun.ite_fst h.readRange

theorem Fit.contribDest {c' : Crew} {m : Cmd} {n : Nat} {bytes : List Byte} (h : Fit c s) : Fit c (contribDest s c' m n bytes).1 := by
  unfold Machine.contribDest
  dsimp only
  split
  · exact h.winLoc.of_eq ‹_›
  · split
    · exact (h.winLoc.of_eq ‹_›).packageAdd
    · split
      · exact h.winLoc.of_eq ‹_›
      · split <;> exact (((h.winLoc.of_eq ‹_›).winContrib).of_eq ‹_›).windowCommand

theorem Fit.readWindow {c' : Crew} {m : Cmd} {k : Nat} (h : Fit c s) : Fit c (readWindow s c' m k).1 := by
  unfold Machine.readWindow
  dsimp only
  split
  · exact h.winLoc.of_eq ‹_›
  · split
    · exact h.winLoc.of_eq ‹_›
    · split
      · exact h.winLoc.of_eq ‹_›
      · split <;> exact (((h.winLoc.of_eq ‹_›).winRead).of_eq ‹_›).windowCommand

theorem Fit.readsumSource {c' : Crew} {m : Cmd} {i : Nat} (h : Fit c s) : Fit c (readsumSource s c' m i).1 := by
  unfold Machine.readsumSource
  dsimp only
  split
  · exact h.readWindow.of_eq ‹_›
  · exact (h.readWindow.of_eq ‹_›).mapCmd

theorem Fit.readsumDest {c' : Crew} {m : Cmd} {i : Nat} {bytes : List Byte} (h : Fit c s) : Fit c (readsumDest s c' m i bytes).1 := by
  unfold Machine.readsumDest
  dsimp only
  exact h.writeRange.ite_fst h.packageAdd

theorem Fit.writeResults {c' : Crew} {m : Cmd} {n : Nat} {vs : List (Bool × ℤ × Bool)} (h : Fit c s) : Fit c (writeResults s c' m n vs).1 := by
  unfold Machine.writeResults
  dsimp only
  exact h.writeGroup.ite_fst h.writeRange

theorem Fit.roundsPackage {c' : Crew} {m : Cmd} (h : Fit c s) : Fit c (roundsPackage s c' m).1 := by
  unfold Machine.roundsPackage
  split <;> exact h.winLoc.of_eq ‹_›

theorem Fit.relaySource {c' : Crew} {m : Cmd} {x3 : Nat} (h : Fit c s) : Fit c (relaySource s c' m x3).1 := by
  unfold Machine.relaySource
  exact h.readRange

theorem Fit.discardLaunches {ctx : Nat} (h : Fit c s) : Fit c (s.discardLaunches ctx) := by
  unfold State.discardLaunches
  dsimp only
  exact ((Fit.foldl (fun _ _ h => h.commitLater) h).freeRecords).filterLaunches

theorem Fit.resetEndpoints {ctx : Nat} (h : Fit c s) : Fit c (s.resetEndpoints ctx) := by
  unfold State.resetEndpoints
  exact Fit.foldl (fun _ _ h => h.setEndpoint) h

theorem Fit.dropHandler {gk : Nat} (h : Fit c s) : Fit c (s.dropHandler gk) := by
  unfold State.dropHandler
  dsimp only
  split
  · exact h
  · exact h.withdrawWaits.mapCore.filterGangs.leaveSlots

theorem Fit.execCrewKill {crew : Demand} (h : Fit c s) : FitOut c (execCrewKill crew s) := by
  unfold Machine.execCrewKill
  exact FitOut.next (h.ownerWrite (fun _ h => h.killCrew))

theorem Fit.poisonLine {pa : Nat} (h : Fit c s) : Fit c (s.poisonLine pa) := by
  unfold State.poisonLine
  dsimp only
  exact h.same

theorem Fit.execEccCorrection {core : Nat} (h : Fit c s) : FitOut c (execEccCorrection core s) := by
  unfold Machine.execEccCorrection
  exact FitOut.next h.mapCore

theorem Fit.xqBody {engine : Nat} {e : Env} {x3 : Nat} (h : Fit c s) : Fit c (xqBody engine s e x3).1 := by
  unfold Machine.xqBody
  dsimp only
  split
  · exact h
  · split
    · exact h
    · split
      · exact h.notePub.readRecs
      · split
        · exact h.notePub.readRecs
        · refine Fit.publish ?_
          split
          · split
            · exact h.notePub.readRecs.pin _ ‹_›
            · exact h.notePub.readRecs
          · exact h.notePub.readRecs

theorem Fit.startMsg {crew : Nat} {sq : Nat} (h : Fit c s) : Fit c (s.startMsg crew sq) := by
  unfold State.startMsg
  split
  · split
    · exact h
    · split
      · split
        · exact h.finishCmd
        · exact h
      · split
        · exact h.freezeCmd
        · exact h.mapCmd
  · exact h

theorem Fit.msgBytes {c' : Crew} {m : Cmd} {off : Nat} {n : Nat} (h : Fit c s) : Fit c (s.msgBytes c' m off n).1 := by
  unfold State.msgBytes
  dsimp only
  exact h.readPieces.ite_fst h.readRange

theorem Fit.sendPacket {crew : Nat} {sq : Nat} {k : Nat} (h : Fit c s) : Fit c (s.sendPacket crew sq k) := by
  unfold State.sendPacket
  dsimp only
  split
  · split
    · exact (h.msgBytes.of_eq ‹_›).stopPart
    · split
      · split
        · exact (((h.msgBytes.of_eq ‹_›).same).mapCmd).finishCmd
        · exact ((h.msgBytes.of_eq ‹_›).same).mapCmd
      · exact ((h.msgBytes.of_eq ‹_›).same).mapCmd
  · exact h

theorem Fit.launchLane {e : Env} {l : Nat} (h : Fit c s) : Fit c (launchLane s e l).1 := by
  unfold Machine.launchLane
  dsimp only
  split
  · exact h
  · split
    · exact h
    · split
      · exact h.readGranules.of_eq ‹_›
      · have h1 := h.readGranules.of_eq ‹_›
        split
        · exact h1
        · split
          · exact h1.readGranules.of_eq ‹_›
          · have h2 := h1.readGranules.of_eq ‹_›
            split
            · exact h2
            · exact h2.acceptLaunch

theorem Fit.launchBody {e : Env} (h : Fit c s) : Fit c (launchBody s e).1 := by
  unfold Machine.launchBody
  split
  · exact h
  · exact (h.pin _ ‹_›).releaseLanes fun _ _ h => h.launchLane

theorem Fit.startTask {crew : Nat} (h : Fit c s) : Fit c (s.startTask crew) := by
  unfold State.startTask
  split
  · exact h
  · next x hx =>
    split
    · next l t _ _ =>
      extract_lets n room s1 s2
      split
      · exact h
      · have h2 : Fit c s2 := by
          dsimp only [s2]
          split
          · exact h.mapCrew
          · exact Fit.foldl (fun _ _ h => h.commitLater) h.mapCrew
        exact Fit.foldl (fun _ _ h' => h'.seatGang (startGang_len (h.crewWhole hx) ..)) h2
    · exact h

theorem Fit.execTaskStart {crew : Nat} (h : Fit c s) : FitOut c (execTaskStart crew s) := by
  unfold Machine.execTaskStart
  exact FitOut.next h.startTask

theorem Fit.probeRange {w : Who} {vault : Bool} {chk : PageCheck} {ps : List (Nat × Nat)} : ∀ {s : State}, Fit c s → Fit c (s.probeRange w vault chk ps).1 := by
  induction ps with
  | nil => exact fun h => h
  | cons p ps ih =>
    intro s h
    obtain ⟨va, n⟩ := p
    unfold State.probeRange
    split
    · exact h
    · split
      · exact h.engineLoc.of_eq ‹_›
      · exact ih (h.engineLoc.of_eq ‹_›)

theorem Fit.roomFor {c' : Crew} {m : Cmd} {n : Nat} (h : Fit c s) : Fit c (roomFor s c' m n).1 := by
  unfold Machine.roomFor
  dsimp only
  split
  · exact h.probeRange.of_eq ‹_›
  · split
    · exact h.probeRange.of_eq ‹_›
    · split
      · exact ((h.probeRange.of_eq ‹_›).leafFor).of_eq ‹_›
      · split
        · exact ((h.probeRange.of_eq ‹_›).leafFor).of_eq ‹_›
        · exact (((h.probeRange.of_eq ‹_›).leafFor).of_eq ‹_›).probeRange

theorem Fit.readMany {x : Crew} {m : Cmd} {ns : List Nat} : ∀ {s : State}, Fit c s → Fit c (readMany s x m ns).1 := by
  induction ns with
  | nil => exact fun h => h
  | cons n ns ih =>
    intro s h
    unfold Machine.readMany
    split
    · exact h.readWindow.of_eq ‹_›
    · have hs := h.readWindow.of_eq ‹_›
      split <;> exact (ih hs).of_eq ‹_›

theorem Fit.readroundSource {c' : Crew} {m : Cmd} {n : Nat} (h : Fit c s) : Fit c (readroundSource s c' m n).1 := by
  unfold Machine.readroundSource
  dsimp only
  split
  · exact h.roomFor.of_eq ‹_›
  · split
    · exact h.roomFor.of_eq ‹_›
    · exact ((h.roomFor.of_eq ‹_›).readMany).of_eq ‹_›
    · exact (((h.roomFor.of_eq ‹_›).readMany).of_eq ‹_›).mapCmd

theorem Fit.packageRound {c' : Crew} {m : Cmd} {h' : Nat} {n : Nat} (h : Fit c s) : Fit c (packageRound s c' m h' n).1 := by
  unfold Machine.packageRound
  dsimp only
  split
  · exact h.packageSlots.of_eq ‹_›
  · split
    · exact h.packageSlots.of_eq ‹_›
    · split
      · exact h.packageSlots.of_eq ‹_›
      · split
        · split
          · exact (((h.packageSlots.of_eq ‹_›).homeSlots).roomFor).of_eq ‹_›
          · exact ((((h.packageSlots.of_eq ‹_›).homeSlots).roomFor).of_eq ‹_›).writeResults
        · exact ((Fit.foldl (fun _ _ h => h.setSlot) ((h.packageSlots.of_eq ‹_›).homeSlots)).putNum).putNum

theorem Fit.roundSource {c' : Crew} {m : Cmd} {n : Nat} (h : Fit c s) : Fit c (roundSource s c' m n).1 := by
  unfold Machine.roundSource
  split
  · exact h.roundsPackage.of_eq ‹_›
  · exact (h.roundsPackage.of_eq ‹_›).ite_fst ((h.roundsPackage.of_eq ‹_›).readroundSource)

theorem Fit.roundDest {c' : Crew} {m : Cmd} {n : Nat} {bytes : List Byte} (h : Fit c s) : Fit c (roundDest s c' m n bytes).1 := by
  unfold Machine.roundDest
  split
  · exact h.roundsPackage.of_eq ‹_›
  · split
    · exact ((h.roundsPackage.of_eq ‹_›).packageLoc).of_eq ‹_›
    · exact (((h.roundsPackage.of_eq ‹_›).packageLoc).of_eq ‹_›).packageRound
  · exact (h.roundsPackage.of_eq ‹_›).ite_fst ((h.roundsPackage.of_eq ‹_›).writeResults)

theorem Fit.resetWith {ctx : Nat} {stop : State → Nat → State} (h : Fit c s) (hf : ∀ s a, Fit c s → Fit c (stop s a)) : Fit c (s.resetWith ctx stop) := by
  unfold State.resetWith
  split
  · exact h
  · extract_lets crews s1 s2 s3 s4 s5 s6
    have h1 : Fit c s1 := Fit.foldl hf h
    have h3 : Fit c s3 := Fit.foldl (fun _ _ h => h.dropHandler) h1.closeWhere
    have h5 : Fit c s5 := h3.discardLaunches.resetEndpoints.setQueue.mapCtx
    have h6 : Fit c s6 := Fit.foldl (fun s a h => by
      split
      · exact h.endCrew
      · exact h) h5
    exact h6.endReset

theorem Fit.resetCtx {ctx : Nat} (h : Fit c s) : Fit c (s.resetCtx ctx) := by
  unfold State.resetCtx
  exact h.resetWith (fun _ _ h => h.killCrew)

theorem Fit.resetTen {ten : Nat} {drain : Bool} (h : Fit c s) : Fit c (s.resetTen ten drain) := by
  unfold State.resetTen
  dsimp only
  split
  · exact h
  · refine ((Fit.foldl (fun s a h => ?_) h).mapTen).endDrain
    split
    · exact h.resetWith (fun _ _ h => h.drainCrew)
    · exact h.resetCtx

theorem Fit.execContextReset {ctx : Demand} (h : Fit c s) : FitOut c (execContextReset ctx s) := by
  unfold Machine.execContextReset
  exact FitOut.next (h.ownerWrite (fun _ h => h.resetCtx))

theorem Fit.execTenancyResetDrain {ten : Demand} (h : Fit c s) : FitOut c (execTenancyResetDrain ten s) := by
  unfold Machine.execTenancyResetDrain
  exact FitOut.next (h.ownerWrite (fun _ h => h.resetTen))

theorem Fit.execTenancyResetCancel {ten : Demand} (h : Fit c s) : FitOut c (execTenancyResetCancel ten s) := by
  unfold Machine.execTenancyResetCancel
  exact FitOut.next (h.ownerWrite (fun _ h => h.resetTen))

@[simp] theorem Gang.loseAll_len {α : Type} (l : List α) (n : α → Nat) (p : α → Nat × Nat) (g : Gang) :
    (l.foldl (fun (h : Gang) x => h.lose (n x) (p x)) g).threads.length = g.threads.length :=
  Gang.foldl_len (fun g x => by simp) l g

theorem Fit.registerError {gk n part : Nat} {tags : Bool} (h : Fit c s) : Fit c (s.registerError gk n part tags) := by
  unfold State.registerError
  split
  · exact h
  · next g hg =>
    split
    · exact h.resetTen
    · split
      · exact h
      · split
        · exact (h.setGang (by simpa using h.len hg)).report
        · refine (h.setGang ?_).same
          simpa using h.len hg

theorem Fit.execRegisterUncorrectable {g : Nat} {line : Nat} {part : Nat} {tags : Bool} (h : Fit c s) : FitOut c (execRegisterUncorrectable g line part tags s) := by
  unfold Machine.execRegisterUncorrectable
  exact FitOut.next h.registerError

theorem Fit.bindHandle {crew : Nat} {core : Nat} {h' : Nat} {bind : Bool} (h : Fit c s) : Fit c (bindHandle s crew core h' bind).1 := by
  unfold Machine.bindHandle
  dsimp only
  split
  · split
    · dsimp only
      exact h.mapHandle
    · exact h
  · split
    · exact h
    · split
      · exact h
      · dsimp only
        exact h.mapHandle

theorem Fit.resendPacket {crew : Nat} {sq : Nat} {k : Nat} (h : Fit c s) : Fit c (s.resendPacket crew sq k) := by
  unfold State.resendPacket
  split
  · exact h
  · split
    · exact h
    · split
      · exact h
      · split
        · exact h.mapCmd.freezeCmd
        · exact h.sendPacket

theorem Fit.resendLost {key : Nat} (h : Fit c s) : Fit c (s.resendLost key) := by
  unfold State.resendLost
  exact Fit.foldl (fun _ _ h => Fit.foldl (fun _ _ h => h.resendPacket) h) h

theorem Fit.notePackets {m : Cmd} {ks : List Nat} (h : Fit c s) : Fit c (s.notePackets m ks) := by
  unfold State.notePackets
  dsimp only
  split
  · split
    · exact h.same.mapCmd.finishCmd
    · exact h.same.mapCmd
  · exact h.same.mapCmd

theorem Fit.ackPackets {crew : Nat} {sq : Nat} {ks : List Nat} (h : Fit c s) : Fit c (s.ackPackets crew sq ks) := by
  unfold State.ackPackets
  split
  · exact h
  · split
    · exact h
    · exact h.notePackets.resendLost

theorem Fit.placePiece {w : Who} {pa : Nat} {leaf : DWord} {b : List Byte} (h : Fit c s) : Fit c (s.placePiece w pa leaf b) := by
  unfold State.placePiece
  exact h.putPiece.askRelay

theorem Fit.countMsg {w : Who} {va : DWord} {cut : Bool} (h : Fit c s) : FitOpt c (s.countMsg w va cut) := by
  unfold State.countMsg
  dsimp only
  split
  · exact FitOpt.none
  · exact FitOpt.some ((h.engineLoc.of_eq ‹_›).mapCtx)
  · exact FitOpt.some (((h.engineLoc.of_eq ‹_›).putPiece).askAtomic)

theorem Fit.setRx {r : RxMsg} (h : Fit c s) : Fit c (s.setRx r) := by
  unfold State.setRx
  exact h.same

theorem Fit.ackPacket {p : Packet} (h : Fit c s) : Fit c (s.ackPacket p) := by
  unfold State.ackPacket
  exact h.same

theorem Fit.countStray {p : Packet} (h : Fit c s) : Fit c (s.countStray p) := by
  unfold State.countStray
  dsimp only
  split
  · exact h
  · exact h.same

theorem Fit.checkMma {c' : Crew} {e : Env} {d : Nat} {a : Word} {b : Word} (h : Fit c s) : Fit c (s.checkMma c' e d a b).1 := by
  unfold State.checkMma
  dsimp only
  split <;> exact h.validTile.validTile

theorem Fit.checkMmas {c' : Crew} {e : Env} {a : Word} {b : Word} {x : Word} (h : Fit c s) : Fit c (s.checkMmas c' e a b x).1 := by
  unfold State.checkMmas
  split
  split
  split
  split <;> exact ((((h.validTile.of_eq ‹_›).validTile).of_eq ‹_›).validTile).of_eq ‹_›

theorem Fit.setArray {core : Nat} {sub : Nat} {a : Array_} (h : Fit c s) : Fit c (s.setArray core sub a) := by
  unfold State.setArray
  exact h.mapCore

theorem Fit.queueOp {core : Nat} {sub : Nat} {o : ArrayOp} (h : Fit c s) : Fit c (s.queueOp core sub o) := by
  unfold State.queueOp
  exact h.setArray

theorem Fit.startArray {core : Nat} {sub : Nat} (h : Fit c s) : Fit c (s.startArray core sub) := by
  unfold State.startArray
  dsimp only
  split
  · split
    · exact h.setArray
    · refine Fit.setArray ?_
      split
      · exact h
      · exact h.bringLines
  · exact h

theorem Fit.putTile {c' : Crew} {va : Nat} {ws : List Word} (h : Fit c s) : Fit c (s.putTile c' va ws) := by
  unfold State.putTile
  dsimp only
  refine Fit.foldl (fun s a h => ?_) h
  split
  · exact h.putBytes
  · exact h

theorem Fit.followed {crew : Nat} {sq : Nat} (h : Fit c s) : Fit c (s.followed crew sq) := by
  unfold State.followed
  exact h.mapCmd.forgetDone

theorem Fit.finishArray {core : Nat} {sub : Nat} (h : Fit c s) : Fit c (s.finishArray core sub) := by
  unfold State.finishArray
  dsimp only
  split
  · exact h
  · split
    · exact h.setArray.bringLines.mapGang
    · split
      · exact h.setArray
      · split
        · exact h.setArray.putTile.mapGang.followed
        · exact h.setArray.putTile.mapGang

theorem Fit.followOn {crew : Nat} {sq : Nat} (h : Fit c s) : Fit c (s.followOn crew sq) := by
  unfold State.followOn
  dsimp only
  split
  · split
    · exact h
    · split
      · exact h.freezeCmd
      · split
        · exact h.freezeCmd
        · exact h.queueOp.mapCmd
  · exact h

theorem Fit.goCopy {op : Nat} {crew : Nat} {sq : Nat} (h : Fit c s) : Fit c (s.goCopy op crew sq) := by
  unfold State.goCopy
  split
  · split
    · exact h.startMsg
    · exact h.runCopy
  · exact h

theorem Fit.goNet {op : Nat} {crew : Nat} {sq : Nat} (h : Fit c s) : Fit c (s.goNet op crew sq) := by
  unfold State.goNet
  split
  · split
    · exact h.startMsg
    · exact h
  · exact h

theorem Fit.execPubStore {crew : Nat} (h : Fit c s) : FitOut c (execPubStore crew s) := by
  unfold Machine.execPubStore
  exact FitOut.next h.notePub

theorem Fit.execRingAccept {crew : Nat} (h : Fit c s) : FitOut c (execRingAccept crew s) := by
  unfold Machine.execRingAccept
  exact FitOut.next h.notePub.acceptEntry

theorem Fit.execCopy {crew : Nat} {sq : Nat} (h : Fit c s) : FitOut c (execCopy crew sq s) := by
  unfold Machine.execCopy
  exact FitOut.next h.goCopy

theorem Fit.execCopy2d {crew : Nat} {sq : Nat} (h : Fit c s) : FitOut c (execCopy2d crew sq s) := by
  unfold Machine.execCopy2d
  exact FitOut.next h.goCopy

theorem Fit.execFillmc {crew : Nat} {sq : Nat} (h : Fit c s) : FitOut c (execFillmc crew sq s) := by
  unfold Machine.execFillmc
  exact FitOut.next h.goCopy

theorem Fit.execCopymma {crew : Nat} {sq : Nat} (h : Fit c s) : FitOut c (execCopymma crew sq s) := by
  unfold Machine.execCopymma
  exact FitOut.next h.goCopy

theorem Fit.execFill {crew : Nat} {sq : Nat} (h : Fit c s) : FitOut c (execFill crew sq s) := by
  unfold Machine.execFill
  exact FitOut.next h.goCopy

theorem Fit.execCopymmaFollowOn {crew : Nat} {sq : Nat} (h : Fit c s) : FitOut c (execCopymmaFollowOn crew sq s) := by
  unfold Machine.execCopymmaFollowOn
  exact FitOut.next h.followOn

theorem Fit.execGather {crew : Nat} {sq : Nat} (h : Fit c s) : FitOut c (execGather crew sq s) := by
  unfold Machine.execGather
  exact FitOut.next h.runGather

theorem Fit.execScatter {crew : Nat} {sq : Nat} (h : Fit c s) : FitOut c (execScatter crew sq s) := by
  unfold Machine.execScatter
  exact FitOut.next h.runGather

theorem Fit.execScatteradd {crew : Nat} {sq : Nat} (h : Fit c s) : FitOut c (execScatteradd crew sq s) := by
  unfold Machine.execScatteradd
  exact FitOut.next h.runGather

theorem Fit.relayPieces {w : Who} {ps : List (Nat × List Byte)} : ∀ {s : State}, Fit c s → Fit c (s.relayPieces w ps).1 := by
  induction ps with
  | nil => exact fun h => h
  | cons p ps ih =>
    intro s h
    obtain ⟨va, n⟩ := p
    unfold State.relayPieces
    split
    · exact h.engineLoc.of_eq ‹_›
    · have hs := h.engineLoc.of_eq ‹_›
      split <;> exact (ih hs.putPiece).of_eq ‹_›

theorem Fit.relayDest {c' : Crew} {m : Cmd} {x3 : Nat} {bytes : List Byte} (h : Fit c s) : Fit c (relayDest s c' m x3 bytes).1 := by
  unfold Machine.relayDest
  dsimp only
  split
  · exact h.probeRange.of_eq ‹_›
  · split
    · exact ((h.probeRange.of_eq ‹_›).relayPieces).of_eq ‹_›
    · exact Fit.foldl (fun _ _ h => h.askRelay) (((h.probeRange.of_eq ‹_›).relayPieces).of_eq ‹_›)

theorem Fit.resetPackage {cause : Nat} (h : Fit none s) : Fit none (s.resetPackage cause) where
  mem := Memory.wf_filter h.mem _
  whole := List.forall_mem_nil _
  order := rfl
  crews := List.forall_mem_nil _
  launches := List.forall_mem_nil _
  cur := rfl

theorem Fit.execPackageReset (h : Fit none s) : FitOut none (execPackageReset s) := FitOut.next h.resetPackage

theorem Fit.memoryError {pa : Nat} {place : ErrPlace} (h : Fit none s) : Fit none (s.memoryError pa place) := by
  unfold State.memoryError
  split
  · exact h.report
  · split
    · exact h
    · extract_lets s1 s2
      have h1 : Fit none s1 := by
        dsimp only [s1]
        split
        · exact h.poisonLine
        · exact h
      have h2 : Fit none s2 := by
        dsimp only [s2]
        split
        · exact h1.abortTask
        · exact h1.killCrew
      exact h2.report
  · split
    · exact h
    · exact h.poisonLine.stopCtx.queueRec.report
  · exact h.resetTen.report
  · exact h.resetPackage

theorem Fit.execMemoryUncorrectable {pa : Nat} {place : ErrPlace} (h : Fit none s) : FitOut none (execMemoryUncorrectable pa place s) := FitOut.next h.memoryError

theorem Fit.locatePieces {w : Who} {ps : List (Nat × List Byte)} : ∀ {s : State}, Fit c s → Fit c (s.locatePieces w ps).1 := by
  induction ps with
  | nil => exact fun h => h
  | cons p ps ih =>
    intro s h
    obtain ⟨va, n⟩ := p
    unfold State.locatePieces
    split
    · exact h.engineLoc.of_eq ‹_›
    · exact h.engineLoc.of_eq ‹_›
    · have hs := h.engineLoc.of_eq ‹_›
      split
      · exact (ih hs).of_eq ‹_›
      · exact ih hs

theorem Fit.placePacket {p : Packet} {r : RxMsg} {slot : RecvSlot} (h : Fit c s) : FitOpt c (s.placePacket p r slot) := by
  unfold State.placePacket
  dsimp only
  split
  · exact FitOpt.none
  · split
    · split
      · refine (Fit.setRx ?_).countMsg
        split
        · exact Fit.foldl (fun _ _ h => h.placePiece) (h.locatePieces.of_eq ‹_›)
        · exact (h.locatePieces.of_eq ‹_›).mapCtx
      · refine FitOpt.some (Fit.setRx ?_)
        split
        · exact Fit.foldl (fun _ _ h => h.placePiece) (h.locatePieces.of_eq ‹_›)
        · exact (h.locatePieces.of_eq ‹_›).mapCtx
    · split
      · refine (Fit.setRx ?_).countMsg
        split
        · exact Fit.foldl (fun _ _ h => h.placePiece) (h.locatePieces.of_eq ‹_›)
        · exact (h.locatePieces.of_eq ‹_›).mapCtx
      · refine FitOpt.some (Fit.setRx ?_)
        split
        · exact Fit.foldl (fun _ _ h => h.placePiece) (h.locatePieces.of_eq ‹_›)
        · exact (h.locatePieces.of_eq ‹_›).mapCtx

theorem Fit.receivePacket {p : Packet} (h : Fit c s) : Fit c (s.receivePacket p) := by
  unfold State.receivePacket
  dsimp only
  split
  · exact h.countStray.ackPacket
  · split
    · split
      · exact h.ackPacket
      · split
        · exact FitOpt.getD (FitOpt.map h.placePacket (fun _ h => h.ackPacket)) h
        · exact h.ackPacket
    · split
      · exact FitOpt.getD (FitOpt.map h.placePacket (fun _ h => h.ackPacket)) h
      · exact h.setRx.mapCtx.ackPacket

theorem Fit.arrayIssue {r : State × Except Flt ArrayOp} {e : Env} {d : Done} (h : Fit c r.1) : Fit c (arrayIssue r e d).1 := by
  unfold Machine.arrayIssue
  split
  · exact h
  · exact h.queueOp

theorem Fit.execSend {crew : Nat} {sq : Nat} (h : Fit c s) : FitOut c (execSend crew sq s) := by
  unfold Machine.execSend
  exact FitOut.next h.goNet

theorem Fit.execRmaw {crew : Nat} {sq : Nat} (h : Fit c s) : FitOut c (execRmaw crew sq s) := by
  unfold Machine.execRmaw
  exact FitOut.next h.goNet

theorem Fit.execHandleDestComplete {crew : Nat} {sq : Nat} (h : Fit c s) : FitOut c (execHandleDestComplete crew sq s) := by
  unfold Machine.execHandleDestComplete
  exact FitOut.next h.countDest

theorem Fit.execTileRecordEvict {crew : Nat} {rec : Nat} (h : Fit c s) : FitOut c (execTileRecordEvict crew rec s) := by
  unfold Machine.execTileRecordEvict
  exact FitOut.next h.evictTile

theorem Fit.execArrayOperationStart {core : Nat} {sub : Nat} (h : Fit c s) : FitOut c (execArrayOperationStart core sub s) := by
  unfold Machine.execArrayOperationStart
  exact FitOut.next h.startArray

theorem Fit.execArrayResultWrite {core : Nat} {sub : Nat} (h : Fit c s) : FitOut c (execArrayResultWrite core sub s) := by
  unfold Machine.execArrayResultWrite
  exact FitOut.next h.finishArray

theorem Fit.execNetPacketTransmit {crew : Nat} {sq : Nat} {k : Nat} (h : Fit c s) : FitOut c (execNetPacketTransmit crew sq k s) := by
  unfold Machine.execNetPacketTransmit
  refine FitOut.next ?_
  split
  · split
    · exact h.sendPacket
    · exact h
  · exact h

theorem Fit.execNetPacketReceive {p : Packet} (h : Fit c s) : FitOut c (execNetPacketReceive p s) := by
  unfold Machine.execNetPacketReceive
  exact FitOut.next h.receivePacket

theorem Fit.execNetAckReceive {crew : Nat} {sq : Nat} {ks : List Nat} (h : Fit c s) : FitOut c (execNetAckReceive crew sq ks s) := by
  unfold Machine.execNetAckReceive
  exact FitOut.next h.ackPackets

theorem Fit.execNetRtoExpire {crew : Nat} {sq : Nat} {k : Nat} (h : Fit c s) : FitOut c (execNetRtoExpire crew sq k s) := by
  unfold Machine.execNetRtoExpire
  exact FitOut.next h.resendPacket

theorem Fit.execPreempt {ctx : Nat} {core : Nat} (h : Fit c s) : FitOut c (execPreempt ctx core s) := by
  unfold Machine.execPreempt
  exact FitOut.next h.preemptWhere

theorem Fit.returnGang {gk : Nat} (h : Fit c s) : Fit c (s.returnGang gk) := by
  unfold State.returnGang
  dsimp only
  split
  · split
    · split
      · exact h.loadControl
      · exact h
    · exact h
  · split
    · split
      · split
        · exact h.loadControl
        · exact h
      · exact h
    · refine Fit.mapGang ?_
      split
      · refine ((Fit.takeBases ?_).mapGang).mapCore
        split
        · split
          · split
            · split
              · exact h.loadControl
              · exact h
            · exact h
          · refine Fit.foldl (fun _ _ h => h.evictLine) ?_
            split
            · split
              · exact h.loadControl
              · exact h
            · exact h
        · split
          · split
            · split
              · exact h.loadControl
              · exact h
            · exact h
          · refine Fit.foldl (fun _ _ h => h.evictLine) ?_
            split
            · split
              · exact h.loadControl
              · exact h
            · exact h
      · refine (Fit.takeBases ?_).mapGang
        split
        · split
          · split
            · split
              · exact h.loadControl
              · exact h
            · exact h
          · refine Fit.foldl (fun _ _ h => h.evictLine) ?_
            split
            · split
              · exact h.loadControl
              · exact h
            · exact h
        · split
          · split
            · split
              · exact h.loadControl
              · exact h
            · exact h
          · refine Fit.foldl (fun _ _ h => h.evictLine) ?_
            split
            · split
              · exact h.loadControl
              · exact h
            · exact h

theorem Fit.returnCtx {ctx : Nat} {core : Nat} (h : Fit c s) : Fit c (s.returnCtx ctx core) := by
  unfold State.returnCtx
  dsimp only
  split
  · exact h
  · exact Fit.foldl (fun _ _ h => h.returnGang) h.loadEps

theorem Fit.execPreemptResume {ctx : Nat} {core : Nat} (h : Fit c s) : FitOut c (execPreemptResume ctx core s) := by
  unfold Machine.execPreemptResume
  refine FitOut.next ?_
  split
  · exact h
  · exact h.returnCtx

theorem Fit.execSwitchedResume {ctx : Nat} {core : Nat} (h : Fit c s) : FitOut c (execSwitchedResume ctx core s) := by
  unfold Machine.execSwitchedResume
  refine FitOut.next ?_
  split
  · exact h
  · exact h.returnCtx

theorem Fit.storeHandles {crew : Nat} {c' : Crew} (h : Fit c s) : Fit c (s.storeHandles crew c') := by
  unfold State.storeHandles
  exact h.writeImage

theorem Fit.storeCrew {p : Nat × Crew} (h : Fit c s) : Fit c (s.storeCrew p) := by
  unfold State.storeCrew
  dsimp only
  split
  · exact Fit.foldl (fun _ _ h => h.mergeTiles) h
  · exact ((Fit.foldl (fun _ _ h => h.evictTile) (Fit.foldl (fun _ _ h => h.mergeTiles) h)).writeImage).storeHandles

theorem Fit.storeSets {ctx : Nat} (h : Fit c s) : Fit c (s.storeSets ctx) := by
  unfold State.storeSets
  dsimp only
  exact Fit.foldl (fun _ _ h => h.writeImage) h

theorem Fit.unbindCtx {ctx : Nat} {core : Nat} (h : Fit c s) : Fit c (s.unbindCtx ctx core) := by
  unfold State.unbindCtx
  dsimp only
  refine Fit.leaveSlots ?_
  split
  · exact h.mapCore.mapCtx
  · exact h.mapCore.mapCtx.storeSets

theorem Fit.switchOut {ctx : Nat} {core : Nat} (h : Fit c s) : Fit c (s.switchOut ctx core) := by
  unfold State.switchOut
  dsimp only
  split
  · exact h
  · exact (Fit.foldl (fun _ _ h => h.mapGang) (Fit.foldl (fun _ _ h => h.flushGang) (Fit.foldl (fun _ _ h => h.storeCrew) h))).unbindCtx

theorem Fit.execContextSwitchOut {ctx : Nat} {core : Nat} (h : Fit c s) : FitOut c (execContextSwitchOut ctx core s) := by
  unfold Machine.execContextSwitchOut
  exact FitOut.next h.switchOut

theorem Fit.objectState {ctx : Nat} {sq : Nat} {st : FState} {handler : Option Nat} (h : Fit c s) : Fit c (s.objectState ctx sq st handler) := by
  unfold State.objectState
  dsimp only
  split
  · exact h.mapCtx.mapCmd
  · exact h.mapCtx

theorem Fit.leaveQueue {ctx : Nat} {sq : Nat} (h : Fit c s) : Fit c (s.leaveQueue ctx sq) := by
  unfold State.leaveQueue
  exact h.setQueue

theorem Fit.makeNested {ctx : Nat} {r : Rec} (h : Fit c s) : Fit c (s.makeNested ctx r) := by
  unfold State.makeNested
  exact h.updateRec

theorem Fit.fetchEntry {ctx : Nat} {r : Rec} {seg : Nat} (h : Fit c s) : Fit c (s.fetchEntry ctx r seg) := by
  unfold State.fetchEntry
  dsimp only
  split
  · split
    · split
      · exact h
      · split
        · split
          · exact h.updateRec
          · exact h
        · exact h
    · split
      · exact h.makeNested
      · split
        · split
          · exact h.requestSeg.updateRec
          · exact h.requestSeg
        · exact h.requestSeg
    · split
      · split
        · exact h.requestSeg.updateRec
        · exact h.requestSeg
      · exact h.requestSeg
  · split
    · split
      · exact h.requestSeg.updateRec
      · exact h.requestSeg
    · exact h.requestSeg

theorem Fit.freeHandler {core : Nat} {k : Nat} (h : Fit c s) : Fit c (s.freeHandler core k) := by
  unfold State.freeHandler
  split
  · exact h
  · split
    · exact h.mapCore
    · split
      · exact h
      · exact h.unattend.unbind.dropHandler

theorem Fit.execHandlerSlotFree {core : Nat} {k : Nat} (h : Fit c s) : FitOut c (execHandlerSlotFree core k s) := by
  unfold Machine.execHandlerSlotFree
  exact FitOut.next h.freeHandler

theorem Fit.pushRecord {ctx : Nat} {r : Rec} {c' : Claim} (h : Fit c s) : Fit c (s.pushRecord ctx r c') := by
  unfold State.pushRecord
  split
  · exact h
  · split
    · exact h
    · exact (((h.pushWhole _ ‹_›).leaveQueue).objectState).sendUli

theorem Fit.deliver {ctx : Nat} {sq : Nat} (h : Fit c s) : Fit c (s.deliver ctx sq) := by
  unfold State.deliver
  dsimp only
  split
  · exact h
  · split
    · exact h
    · split
      · exact h
      · split
        · exact h.pushRecord
        · split
          · exact h.mapTrust.leaveQueue.objectState
          · exact h

theorem Fit.execRecordDeliverOwner {ctx : Nat} {sq : Nat} (h : Fit c s) : FitOut c (execRecordDeliverOwner ctx sq s) := by
  unfold Machine.execRecordDeliverOwner
  exact FitOut.next h.deliver

theorem Fit.queueHeld {ctx : Nat} (h : Fit c s) : Fit c (s.queueHeld ctx) := by
  unfold State.queueHeld
  dsimp only
  split
  · exact h
  · split
    · exact h
    · exact h.mapCtx.setQueue

theorem Fit.execHeldRecordQueue {ctx : Nat} (h : Fit c s) : FitOut c (execHeldRecordQueue ctx s) := by
  unfold Machine.execHeldRecordQueue
  exact FitOut.next h.queueHeld

theorem Fit.runContext {who : Owner} {ctx : Nat} (h : Fit c s) : Fit c (s.runContext who ctx) := by
  unfold State.runContext
  dsimp only
  split
  · exact h.violate
  · split
    · exact h
    · exact Fit.foldl (fun _ _ h => h.returnCtx) h.mapCtx

theorem Fit.execContextRunControl {who : Owner} {ctx : Nat} (h : Fit c s) : FitOut c (execContextRunControl who ctx s) := by
  unfold Machine.execContextRunControl
  exact FitOut.next h.runContext

theorem Fit.execContextWake {ctx : Nat} {core : Nat} (h : Fit c s) : FitOut c (execContextWake ctx core s) := by
  unfold Machine.execContextWake
  refine FitOut.next ?_
  split
  · exact h.returnCtx
  · exact h

theorem Fit.sendArrives {n : Nat} (h : Fit c s) : Fit c (s.sendArrives n) := by
  unfold State.sendArrives
  split
  · exact h
  · split
    · exact h
    · exact h.same.arrive

theorem Fit.refusalArrives {ctx : Nat} (h : Fit c s) : Fit c (s.refusalArrives ctx) := by
  unfold State.refusalArrives
  split
  · exact h.same.countDrop
  · exact h

theorem Fit.execUliSendArrival {n : Nat} (h : Fit c s) : FitOut c (execUliSendArrival n s) := by
  unfold Machine.execUliSendArrival
  exact FitOut.next h.sendArrives

theorem Fit.execRefusalNotice {ctx : Nat} (h : Fit c s) : FitOut c (execRefusalNotice ctx s) := by
  unfold Machine.execRefusalNotice
  exact FitOut.next h.refusalArrives

theorem Fit.endTask {g : Gang} (h : Fit c s) : Fit c (s.endTask g) := by
  unfold State.endTask
  dsimp only
  split
  · exact h
  · exact (Fit.foldl (fun _ _ h => h.withdrawWaits) h).mapGangs (fun _ => by split <;> rfl) (by intro x hx; split <;> simpa using hx)

theorem Fit.noteFetch {g : Gang} {seg : Nat} (h : Fit c s) : Fit c (s.noteFetch g seg) := by
  unfold State.noteFetch
  split
  · exact h
  · exact h.mapCrew (by intro x hx; split <;> exact hx)

theorem Fit.sweep {g : Gang} {dies : List Nat} {ws : List Sweep} (h : Fit c s) : Fit c (s.sweep g dies ws) := by
  unfold State.sweep
  dsimp only
  exact (h.mapGangs (fun _ => by split <;> rfl) (by intro x hx; split <;> simpa using hx)).same

theorem Fit.noteQueue {e : Env} {q : Queue} {writes : Bool} (h : Fit c s) : Fit c (s.noteQueue e q writes) := by
  unfold State.noteQueue
  exact h.recordRange.cacheAccess

theorem Fit.waitAt {e : Env} {q : Queue} (h : Fit c s) : Fit c (waitAt s e q).1 := by
  unfold Machine.waitAt
  dsimp only
  split
  · exact h.modCommand
  · exact h

theorem Fit.useHeld {g : Gang} {p : PopRes} (h : Fit c s) : Fit c (s.useHeld g p) := by
  unfold State.useHeld
  exact h.mapCrew

theorem Fit.goOn {o : Op} {gk : Nat} {g : Gang} {lanes : List Nat} {p : Pend} (h : Fit c s) (ho : o.Fits) (hg : g.threads.length = 32) :
    Fit c (o.goOn s gk g lanes p) := by
  unfold Op.goOn
  extract_lets e r
  have hr : Fit c r.1 := ho.body h.bringLines hg
  clear_value r
  split
  · exact hr
  · next g0 hg0 =>
    extract_lets +onlyGivenNames g1 z g2 g3 g4
    have h1 : g1.threads.length = 32 := by
      dsimp only [g1]
      split
      · simpa using hr.len hg0
      · exact hr.len hg0
    have hz : z.1.threads.length = 32 := (Form.settleLanes_len g1 o.form _ r.2).trans h1
    have h2 : g2.threads.length = 32 := Gang.ite_len hz hz
    have h3 : g3.threads.length = 32 := Gang.ite_len h2 h2
    have h4 : g4.threads.length = 32 := Gang.ite_len (by simpa using h3) h3
    have hs : Fit c ((r.1.setGang gk g4).freezeAll gk z.2) := (hr.setGang h4).freezeAll
    dsimp only
    split
    · exact hs.settleEvent
    · exact hs.settleGang

theorem Fit.wakeOwn {gk : Nat} {g : Gang} {lanes : List Nat} {seg : Nat} (h : Fit c s) (hg : g.threads.length = 32) : Fit c (s.wakeOwn gk g lanes seg) := by
  unfold State.wakeOwn
  split
  · exact h
  · split
    · exact (h.setGang (by simpa using hg)).settleGang
    · exact h.freezeAll.settleEvent
    · exact h

theorem Fit.seatCrew {l : Launch} {stage : Nat} {t : Stage} {j : Job} {cores : List Nat} (h : Fit c s) (hj : j.whole) :
    Fit c (s.seatCrew l stage t j cores) := by
  unfold State.seatCrew
  dsimp only
  refine Fit.foldl (fun _ _ h => h.requestSeg) (Fit.loadEps (Fit.foldl (fun _ _ h => h.mapCore) ?_))
  exact Fit.putCrew h.newKey fun k hk => hj k hk

theorem Fit.placeMembers {die ctx serial : Nat} {ms : List (Nat × Nat)} :
    ∀ {given : Option (List (List Nat))} {room : Nat} {s : State}, Fit c s → ∀ p, State.placeMembers die ctx serial ms given room s = some p → Fit c p.1 := by
  induction ms with
  | nil =>
    rintro _ _ s h _ ⟨⟩
    exact h
  | cons m ms ih =>
    intro given room s h p e
    unfold State.placeMembers at e
    split at e
    · cases e
    · split at e
      · cases e
      · split at e
        · cases e
        · obtain ⟨x, -, hx⟩ := List.exists_of_findSome?_eq_some e
          split at hx
          · cases hx
          · next u j hj =>
            obtain ⟨hu, hj⟩ := h.newJob _ hj
            exact ih (hu.seatCrew hj) p hx

theorem Fit.placeGroup {die ctx serial : Nat} {ms : List (Nat × Nat)} {given : List (List Nat)} (h : Fit c s) :
    FitOpt c (s.placeGroup die ctx serial ms given) := by
  unfold State.placeGroup
  split
  · exact FitOpt.none
  · next t _ ht =>
    have h1 : Fit c t := h.placeMembers _ ht
    split
    · exact FitOpt.some h1
    · split
      · exact FitOpt.none
      · exact FitOpt.some h1

theorem Fit.takePick {die : Nat} {p : Pick} {rest : List Pick} (h : Fit c s) : Fit c (s.takePick die p rest).1 := by
  unfold State.takePick
  split
  · exact h
  · next l hl =>
    extract_lets +onlyGivenNames w
    split
    · exact h
    · split
      · exact h
      · extract_lets +onlyGivenNames s1
        have h1 : Fit c s1 := h.refill
        clear_value s1
        split
        · exact h
        · split
          · dsimp only
            split
            · exact h
            · split
              · exact Fit.foldl (fun _ _ h => h.spend) (h1.placeGroup _ ‹_›)
              · exact h
          · split
            · exact h
            · split
              · next u j hj =>
                obtain ⟨hu, hj⟩ := h1.takeJob (h.launchWhole hl) _ hj
                exact (hu.seatCrew hj).spend
              · exact h

theorem Fit.takePicks {die n : Nat} : ∀ {ps : List Pick} {s : State}, Fit c s → Fit c (State.takePicks die n s ps) := by
  induction n with
  | zero => exact fun h => h
  | succ n ih =>
    intro ps s h
    cases ps with
    | nil => exact h
    | cons p ps => exact ih h.takePick.leaveHandover

theorem Fit.balance {die : Nat} {picks : List Pick} (h : Fit c s) : Fit c (s.balance die picks) := by
  unfold State.balance
  exact h.takePicks.mapDie

theorem Fit.execBalancerDecision {die : Nat} {picks : List Pick} (h : Fit c s) : FitOut c (execBalancerDecision die picks s) := by
  unfold Machine.execBalancerDecision
  exact FitOut.next h.balance

theorem Fit.execBalancerPeriodic {die : Nat} {picks : List Pick} (h : Fit c s) : FitOut c (execBalancerPeriodic die picks s) := by
  unfold Machine.execBalancerPeriodic
  exact FitOut.next h.balance

theorem collectEngine_fits {m : Cmd} : (collectEngine m).Fits := by
  unfold collectEngine
  split
  · exact ⟨fun h => h.contribSource, fun h => h.contribDest⟩
  · exact ⟨fun h => h.readsumSource, fun h => h.readsumDest⟩
  · exact ⟨fun h => h.roundSource, fun h => h.roundDest⟩
  · exact ⟨fun h => h.relaySource (x3 := 0), fun h => h.relayDest (x3 := 0)⟩

theorem Fit.runCollect {op : Nat} {crew : Nat} {sq : Nat} (h : Fit c s) : Fit c (s.runCollect op crew sq) := by
  unfold State.runCollect
  split
  · split
    · exact h.all collectEngine_fits
    · exact h
  · exact h

theorem engineFor_fits {m : Cmd} : (engineFor m).Fits := by
  unfold engineFor
  split
  · exact copyEngine_fits
  · exact gatherEngine_fits
  · exact collectEngine_fits

theorem Fit.goPart {crew : Nat} {sq : Nat} {n : Nat} (h : Fit c s) : Fit c (s.goPart crew sq n) := by
  unfold State.goPart
  split
  · split
    · exact h
    · exact h.part engineFor_fits
  · exact h

theorem Fit.goRelease {crew : Nat} {sq : Nat} (h : Fit c s) : Fit c (s.goRelease crew sq) := by
  unfold State.goRelease
  split
  · split
    · split
      · exact h.releaseSource
      · exact h
    · exact h.release engineFor_fits
  · exact h

theorem Fit.execContrib {crew : Nat} {sq : Nat} (h : Fit c s) : FitOut c (execContrib crew sq s) := by
  unfold Machine.execContrib
  exact FitOut.next h.runCollect

theorem Fit.execReadsum {crew : Nat} {sq : Nat} (h : Fit c s) : FitOut c (execReadsum crew sq s) := by
  unfold Machine.execReadsum
  exact FitOut.next h.runCollect

theorem Fit.execReadround {crew : Nat} {sq : Nat} (h : Fit c s) : FitOut c (execReadround crew sq s) := by
  unfold Machine.execReadround
  exact FitOut.next h.runCollect

theorem Fit.execRelay {crew : Nat} {sq : Nat} (h : Fit c s) : FitOut c (execRelay crew sq s) := by
  unfold Machine.execRelay
  exact FitOut.next h.runCollect

theorem Fit.execSubtransferComplete {crew : Nat} {sq : Nat} {n : Nat} (h : Fit c s) : FitOut c (execSubtransferComplete crew sq n s) := by
  unfold Machine.execSubtransferComplete
  exact FitOut.next h.goPart

theorem Fit.execHandleSourceRelease {crew : Nat} {sq : Nat} (h : Fit c s) : FitOut c (execHandleSourceRelease crew sq s) := by
  unfold Machine.execHandleSourceRelease
  exact FitOut.next h.goRelease

theorem Fit.spawnHandler {ctx sq slot : Nat} (h : Fit c s) : Fit c (s.spawnHandler ctx sq slot) := by
  unfold State.spawnHandler
  split
  · exact h
  · split
    · exact h
    · split
      · exact h
      · dsimp only
        split
        · split
          · exact h
          · refine Fit.trimLines (Fit.mapCore (Fit.setGang ?_ (handlerGang_len ..)))
            exact h.newKey.leaveQueue.objectState.takeBases
        · exact h.fetchEntry

theorem Fit.execHandlerSpawn {ctx : Nat} {sq : Nat} {slot : Nat} (h : Fit c s) : FitOut c (execHandlerSpawn ctx sq slot s) := by
  unfold Machine.execHandlerSpawn
  exact FitOut.next h.spawnHandler

theorem Fit.queueLanes {f : List Nat → State → Env → Nat → State × LaneOut} {e : Env} (h : Fit c s)
    (hf : ∀ ws s l, Fit c s → Fit c (f ws s e l).1) : Fit c (queueLanes f s e).1 := by
  unfold Machine.queueLanes
  dsimp only
  refine Fit.foldlFst (fun p l h => ?_) h
  exact hf _ _ _ h

theorem Fit.sendModCmd {p : Nat} {r : ModReq} (h : Fit c s) : ∀ x, s.sendModCmd p r = some x → Fit c x.1 := by
  rintro x e
  obtain ⟨slot, -, rfl⟩ := Option.map_eq_some_iff.1 e
  exact h.writeSlot.same

theorem Fit.askModule {e : Env} {l : Nat} {q : Queue} {subop : Nat} {opnd : DWord} {extra : List Word} (h : Fit c s) :
    Fit c (askModule s e l q subop opnd extra).1 := by
  unfold Machine.askModule
  dsimp only
  split
  · exact h.sendModCmd _ ‹_›
  · exact h

theorem Fit.withSlot {e : Env} {l : Nat} {q : Queue} {n : Nat} {a : Access} {f : State → Nat → State × LaneOut} (h : Fit c s)
    (hf : ∀ s x, Fit c s → Fit c (f s x).1) : Fit c (withSlot s e l q n a f).1 := by
  unfold Machine.withSlot
  dsimp only
  split
  · exact h.slotLoc.of_eq ‹_›
  · exact h.slotLoc.of_eq ‹_›
  · have hs := h.slotLoc.of_eq ‹_›
    split
    · exact hs
    · split
      · exact hs
      · exact hf _ _ hs.recordRange.cacheAccess

theorem Fit.pushNow {e : Env} {l : Nat} {q : Queue} {item : List Byte} (h : Fit c s) : Fit c (pushNow s e l q item).1 := by
  unfold Machine.pushNow
  dsimp only
  refine h.withSlot (fun s a h => ?_)
  split
  · dsimp only
    exact h.reservePush.noteQueue.commitLater
  · dsimp only
    exact h.reservePush.noteQueue

theorem Fit.pushStart {waiting : List Nat} {e : Env} {l : Nat} {q : Queue} {item : List Byte} (h : Fit c s) : Fit c (pushStart waiting s e l q item).1 := by
  unfold Machine.pushStart
  dsimp only
  exact h.waitAt.ite_fst (h.askModule.ite_fst (h.pushNow.ite_fst h.waitAt))

theorem Fit.pushItem {e : Env} {l : Nat} {q : Queue} {item : List Byte} {n : Nat} (h : Fit c s) : Fit c (pushItem s e l q item n).1 := by
  unfold Machine.pushItem
  refine h.withSlot (fun s a h => ?_)
  dsimp only
  exact h.putBytes.dropCopies.noteQueue.askModule

theorem Fit.pushDirect {waiting : List Nat} {e : Env} {l : Nat} {q : Queue} {item : List Byte} (h : Fit c s) : Fit c (pushDirect waiting s e l q item).1 := by
  unfold Machine.pushDirect
  split
  · exact h
  · exact h.pushItem
  · exact h.askModule.ite_fst (h.commitLater.ite_fst h)
  · exact h.pushStart

theorem Fit.pushOf {lost : Bool} {waiting : List Nat} {e : Env} {l : Nat} {q : Queue} {item : List Byte} (h : Fit c s) : Fit c (pushOf lost waiting s e l q item).1 := by
  unfold Machine.pushOf
  split
  · exact h.mapGang
  · split
    · exact h.defer
    · split
      · exact (h.pin _ ‹_›).pushDirect
      · exact h

theorem Fit.popItem {e : Env} {l : Nat} {q : Queue} {n : Nat} {also : List (Nat × Word)} {reserve : State → State} (h : Fit c s)
    (hf : ∀ s, Fit c s → Fit c (reserve s)) : Fit c (popItem s e l q n also reserve).1 := by
  unfold Machine.popItem
  refine h.withSlot fun s x h => ?_
  extract_lets item s1
  have h1 : Fit c s1 := (hf s h).noteQueue
  clear_value s1
  split
  · exact h1.mapCrew
  · split
    · exact h1.askModule
    · split
      · exact h1.commitLater
      · exact h1

theorem Fit.popStart {try_ : Bool} {hit : List (Nat × Word)} {miss : List (Nat × Word)} {waiting : List Nat} {e : Env} {l : Nat} {q : Queue} (h : Fit c s) : Fit c (popStart try_ hit miss waiting s e l q).1 := by
  unfold Machine.popStart
  dsimp only
  split
  · split
    · split
      · exact h.waitAt
      · exact h.askModule
    · split
      · exact h.waitAt
      · exact h.askModule
  · split
    · dsimp only
      exact h.noteQueue
    · split
      · split
        · exact h.waitAt
        · refine h.popItem (fun s h => ?_)
          exact h.reservePop
      · split
        · exact h.waitAt
        · refine h.popItem (fun s h => ?_)
          exact h.reservePop

theorem Fit.settleQueues (h : Fit c s) : Fit c s.settleQueues := by
  unfold State.settleQueues
  exact Fit.foldl (fun _ _ h => h.settleCommits) h

theorem Fit.dropModCmd {tag : Nat} (h : Fit c s) : Fit c (s.dropModCmd tag) := by
  unfold State.dropModCmd
  exact h.same

theorem Fit.setModWait {p : ModCmd → Bool} {w : Bool} (h : Fit c s) : Fit c (s.setModWait p w) := by
  unfold State.setModWait
  exact h.same

theorem Fit.putResponse {tag : Nat} {status : Nat} {value : DWord} (h : Fit c s) : Fit c (s.putResponse tag status value) := by
  unfold State.putResponse
  exact h.mapPort

theorem Fit.setPend {gk : Nat} {l : Nat} {p : Pend} (h : Fit c s) : Fit c (s.setPend gk l p) := by
  unfold State.setPend
  exact h.mapGang

theorem Fit.respond {tag : Nat} {status : Nat} (h : Fit c s) : Fit c (s.respond tag status) := by
  unfold State.respond
  dsimp only
  split
  · exact h
  · split
    · exact h.dropModCmd
    · split
      · exact h
      · split
        · exact h.qopStep.dropModCmd.putResponse.bringLines.setPend
        · split
          · split
            · split
              · exact h.dropModCmd.putResponse.setPend
              · exact h.putResponse.setModWait
            · exact h.putResponse.setModWait
          · exact h.dropModCmd.putResponse.freezeAll.settleEvent

theorem Fit.execModuleResponse {tag : Nat} {status : Nat} (h : Fit c s) : FitOut c (execModuleResponse tag status s) := by
  unfold Machine.execModuleResponse
  exact FitOut.next h.respond

theorem Fit.execModuleWaitRetry {tag : Nat} (h : Fit c s) : FitOut c (execModuleWaitRetry tag s) := by
  unfold Machine.execModuleWaitRetry
  exact FitOut.next h.setModWait

theorem Fit.backInvalidate {module : Nat} {maddr : Nat} {n : Nat} (h : Fit c s) : Fit c (s.backInvalidate module maddr n) := by
  unfold State.backInvalidate
  exact Fit.foldl (fun _ _ h => Fit.foldl (fun _ _ h => h.dropCopies) h) h

theorem Fit.execSegmentFetchLanded {core : Nat} {ctx : Nat} {seg : Nat} (h : Fit c s) : FitOut c (execSegmentFetchLanded core ctx seg s) := by
  unfold Machine.execSegmentFetchLanded
  exact FitOut.next h.landSeg

theorem Fit.execSegmentFetchFaulted {core : Nat} {ctx : Nat} {seg : Nat} (h : Fit c s) : FitOut c (execSegmentFetchFaulted core ctx seg s) := by
  unfold Machine.execSegmentFetchFaulted
  exact FitOut.next h.failSeg

theorem Fit.execPathSegmentRequest {g : Nat} (h : Fit c s) : FitOut c (execPathSegmentRequest g s) := by
  unfold Machine.execPathSegmentRequest
  exact FitOut.next h.requestPath

theorem Fit.execSegmentRequestRetry {core : Nat} {ctx : Nat} {seg : Nat} (h : Fit c s) : FitOut c (execSegmentRequestRetry core ctx seg s) := by
  unfold Machine.execSegmentRequestRetry
  exact FitOut.next h.retrySeg

theorem Fit.execRegisterLineFill {g : Nat} {line : Nat} (h : Fit c s) : FitOut c (execRegisterLineFill g line s) := by
  unfold Machine.execRegisterLineFill
  exact FitOut.next h.fillLine

theorem Fit.execAgeingForce {g : Nat} {pc : Nat} (h : Fit c s) : FitOut c (execAgeingForce g pc s) := by
  unfold Machine.execAgeingForce
  refine FitOut.next ?_
  split
  · exact h
  · split
    · exact h.setGang (by simpa using h.len ‹_›)
    · exact h

theorem Fit.slotPreempt {gk : Nat} (h : Fit c s) : Fit c (s.slotPreempt gk) := by
  unfold State.slotPreempt
  dsimp only
  split
  · exact h
  · split
    · exact h
    · exact ((h.setGang (by simpa using h.len ‹_›)).releaseSlot).mapGang

theorem Fit.execSlotPreemption {g : Nat} (h : Fit c s) : FitOut c (execSlotPreemption g s) := by
  unfold Machine.execSlotPreemption
  exact FitOut.next h.slotPreempt

theorem Fit.resend {peer : Nat} (h : Fit c s) : Fit c (s.resend peer) := by
  unfold State.resend
  dsimp only
  split
  · exact Fit.foldl (fun _ _ h => h.mapPod.carry) h
  · exact (Fit.foldl (fun _ _ h => h.mapPod.carry) h).mapPod

theorem Fit.refreshPod (h : Fit c s) : Fit c s.refreshPod := by
  unfold State.refreshPod
  dsimp only
  split
  · exact h
  · exact Fit.foldl (fun _ _ h => h.resend) h.mapPod

theorem Fit.markLost {pkg : Nat} {m : Nat} (h : Fit c s) : Fit c (s.markLost pkg m) := by
  unfold State.markLost
  exact h.mapPod

theorem Fit.clearLost {pkg : Nat} {m : Nat} (h : Fit c s) : Fit c (s.clearLost pkg m) := by
  unfold State.clearLost
  exact h.mapPod

theorem Fit.withQueue {e : Env} {l : Nat} {races : Queue → Option Bool} {items : Option Nat} {f : State → Queue → State × LaneOut} (h : Fit c s)
    (hf : ∀ s q, Fit c s → Fit c (f s q).1) : Fit c (withQueue s e l races items f).1 := by
  unfold Machine.withQueue
  dsimp only
  split
  · exact h.findQueue.of_eq ‹_›
  · exact h.findQueue.of_eq ‹_›
  · have hs := h.findQueue.of_eq ‹_›
    refine Fit.ite_fst hs ?_
    split
    · exact hs
    · exact hf _ _ hs

theorem Fit.pushLane {lost : Nat → Bool} {d : Nat} {waiting : List Nat} {e : Env} {l : Nat} (h : Fit c s) : Fit c (pushLane lost d waiting s e l).1 := by
  unfold Machine.pushLane
  refine h.withQueue fun s q h => ?_
  exact h.bringLines.pushOf

theorem Fit.popLane {d : Nat} {try_ : Bool} {hit miss : List (Nat × Word)} {waiting : List Nat} {e : Env} {l : Nat} (h : Fit c s) :
    Fit c (popLane d try_ hit miss waiting s e l).1 := by
  unfold Machine.popLane
  refine h.withQueue fun s q h => ?_
  split
  · dsimp only
    exact h.noteQueue
  · exact h.popItem fun _ h => h
  · exact h
  · split
    · exact h.askModule
    · split
      · exact h.commitLater
      · exact h
  · split
    · exact h.popItem fun _ h => h.useHeld
    · exact h.popStart

theorem Fit.lenLane {waiting : List Nat} {e : Env} {l : Nat} (h : Fit c s) : Fit c (lenLane waiting s e l).1 := by
  unfold Machine.lenLane
  refine h.withQueue fun s q h => ?_
  split
  · dsimp only
    exact h.noteQueue
  · split
    · exact Fit.ite_fst h.waitAt h.askModule
    · dsimp only
      exact h.noteQueue

theorem Fit.answerQueries {gk : Nat} (h : Fit c s) : Fit c (s.answerQueries gk) := by
  unfold State.answerQueries
  split
  · exact h
  · dsimp only
    split
    · exact h
    · refine h.bringLines.mapGang fun g hg => ?_
      refine (Gang.foldl_len ?_ _ g).trans hg
      exact fun _ _ => rfl

end Sys2Proof.Machine
end

section
/-! SUPPORT. The instructions and the steps of the device keep a state sound. -/

namespace Sys2Proof.Machine

-- One proof at a time: many at once need more threads than the memory limit allows.
set_option Elab.async false

variable {c : Option Cur} {s t : State}

/-! ## What each instruction does for its lanes -/

/-- An instruction that only reads the state. -/
theorem Op.fits_of_pure {o : Op} (hb : ∀ s e, (o.body s e).1 = s) (hs : ∀ s e, o.stall s e = s) : o.Fits :=
  ⟨fun h _ => (hb _ _).symm ▸ h, fun h => (hs _ _).symm ▸ h⟩

/-- An instruction that takes its lanes one after the other. -/
theorem Op.fits_of_inOrder {form : Form} {ready : State → Env → Bool} {f : State → Env → Nat → State × LaneOut}
    (hf : ∀ c s e l, Fit c s → Fit c (f s e l).1) : Op.Fits ⟨form, ready, fun s _ => s, Machine.inOrder f⟩ :=
  ⟨fun h _ => h.inOrder fun s l h => hf _ s _ l h, fun h => h⟩

/-- An instruction that is gang-uniform. -/
theorem Op.fits_of_oncePer {form : Form} {ready : State → Env → Bool} {f : State → Env → Nat → State × LaneOut}
    (hf : ∀ c s e l, Fit c s → Fit c (f s e l).1) : Op.Fits ⟨form, ready, fun s _ => s, Machine.oncePer f⟩ :=
  ⟨fun h _ => h.oncePer fun s l h => hf _ s _ l h, fun h => h⟩

/-- An instruction that takes all its lanes at once. -/
theorem Op.fits_of_body {form : Form} {ready : State → Env → Bool} {f : Body} (hf : ∀ c s e, Fit c s → Fit c (f s e).1) :
    Op.Fits ⟨form, ready, fun s _ => s, f⟩ :=
  ⟨fun h _ => hf _ _ _ h, fun h => h⟩

theorem shfl_fits {nw : Bool} {d : Nat} {a b : Src} {h : Hints} {f : Nat → Nat → Option Nat} : (shfl nw d a b h f).Fits := by
  unfold shfl
  split <;> exact Op.fits_of_pure (fun _ _ => rfl) fun _ _ => rfl

theorem opSel_fits {nw : Bool} {d : Nat} {a b : Src} {h : Hints} : (opSel nw d a b h).Fits := by
  unfold opSel
  split <;> exact Op.fits_of_pure (fun _ _ => rfl) fun _ _ => rfl

theorem opMov_fits {nw : Bool} {d : Nat} {a : Src} {h : Hints} : (opMov nw d a h).Fits := by
  unfold opMov
  split <;> exact Op.fits_of_pure (fun _ _ => rfl) fun _ _ => rfl

theorem loadOp_fits {d : Nat} {a b : Src} {h : Hints} {w : Nat} {signed vault : Bool} : (loadOp d a b h w signed vault).Fits :=
  Op.fits_of_inOrder fun _ _ _ _ h => h.loadLane

theorem storeOp_fits {d : Nat} {a b : Src} {h : Hints} {w : Nat} {vault : Bool} : (storeOp d a b h w vault).Fits :=
  Op.fits_of_body fun _ _ _ h => Fit.ite_fst (h.releaseLanes fun _ _ h => h.storeLane) (h.inOrder fun _ _ h => h.storeLane)

theorem amoOp_fits {nw : Bool} {d : Nat} {a b : Src} {h : Hints} {op : Nat} {vault : Bool} : (amoOp nw d a b h op vault).Fits :=
  Op.fits_of_body fun _ _ _ h => Fit.ite_fst (h.releaseLanes fun _ _ h => h.amoLane) (h.inOrder fun _ _ h => h.amoLane)

theorem opLdF_fits {d : Nat} {a b : Src} {h : Hints} : (opLdF d a b h).Fits :=
  Op.fits_of_inOrder fun _ _ _ _ h => h.loadDecoded

theorem opFence_fits {h : Hints} : (opFence h).Fits := by
  refine Op.fits_of_body fun _ _ _ h => ?_
  split
  · exact h
  · exact h.releaseLanes fun _ _ h => h

theorem opFencex_fits {a b : Src} {h : Hints} : (opFencex a b h).Fits := by
  refine Op.fits_of_body fun c s e h => ?_
  have h1 : Fit c (if (e.maskOf8 0).testBit 6 && e.maskOf8 1 != 0 then s.mergeTiles e.gk else s) := by
    split
    · exact h.mergeTiles
    · exact h
  exact Fit.ite_fst (h1.releaseLanes fun _ _ h => h) h1

theorem opBar_fits {h : Hints} : (opBar h).Fits := Op.fits_of_body fun _ _ _ h => h.barBody

theorem opGbar_fits {a : Src} {h : Hints} : (opGbar a h).Fits := Op.fits_of_body fun _ _ _ h => h.gbarBody

theorem opQpush_fits {d : Nat} {a : Src} {h : Hints} : (opQpush d a h).Fits :=
  Op.fits_of_body fun _ _ _ h => h.queueLanes fun _ _ _ h => h.pushLane

theorem opQpop_fits {d : Nat} {a : Src} {h : Hints} : (opQpop d a h).Fits :=
  Op.fits_of_body fun _ _ _ h => h.queueLanes fun _ _ _ h => h.popLane

theorem opQtrypop_fits {d : Nat} {a b : Src} {h : Hints} : (opQtrypop d a b h).Fits :=
  Op.fits_of_body fun _ _ _ h => h.queueLanes fun _ _ _ h => h.popLane

theorem opQlen_fits {d : Nat} {a : Src} {h : Hints} : (opQlen d a h).Fits :=
  Op.fits_of_body fun _ _ _ h => h.queueLanes fun _ _ _ h => h.lenLane

theorem xqOp_fits {n : Nat} {nw : Bool} {d : Nat} {a : Src} : (xqOp n nw d a).Fits :=
  Op.fits_of_oncePer fun _ _ _ _ h => h.xqBody

theorem opCfetch_fits {a b : Src} {h : Hints} : (opCfetch a b h).Fits :=
  Op.fits_of_body fun _ _ _ h => Fit.foldl (fun _ _ h => h.noteFetch.requestSeg) h

theorem opJf_fits {a : Src} {h : Hints} : (opJf a h).Fits := Op.fits_of_inOrder fun _ _ _ _ h => h

theorem opCallf_fits {nw : Bool} {d : Nat} {a : Src} {h : Hints} : (opCallf nw d a h).Fits := Op.fits_of_inOrder fun _ _ _ _ h => h

theorem opWaith_fits {a b : Src} {h : Hints} : (opWaith a b h).Fits := by
  refine Op.fits_of_oncePer fun _ _ _ _ h => ?_
  split
  · exact h
  · exact Fit.ite_fst h (Fit.ite_fst h h)

theorem opHset_fits {a b : Src} {h : Hints} : (opHset a b h).Fits := by
  refine Op.fits_of_oncePer fun _ _ _ _ h => ?_
  split
  · exact h
  · refine Fit.ite_fst h (Fit.ite_fst h ?_)
    dsimp only
    exact h.mapHandle

theorem opHqry_fits {nw : Bool} {d : Nat} {a b : Src} {h : Hints} : (opHqry nw d a b h).Fits := by
  refine Op.fits_of_oncePer fun _ _ _ _ h => ?_
  split
  · exact h
  · exact Fit.ite_fst h (Fit.ite_fst h h)

theorem opHbind_fits {nw : Bool} {d : Nat} {a b : Src} {h : Hints} : (opHbind nw d a b h).Fits := by
  refine Op.fits_of_oncePer fun _ _ _ _ h => ?_
  dsimp only
  split
  · exact h
  · exact Fit.ite_fst h h.bindHandle

theorem opTlrSet_fits {a b : Src} {h : Hints} : (opTlrSet a b h).Fits := by
  refine Op.fits_of_oncePer fun _ _ _ _ h => ?_
  refine Fit.ite_fst h ?_
  split
  · exact h
  · dsimp only
    exact h.setTile

theorem opTlrInv_fits {a : Src} {h : Hints} : (opTlrInv a h).Fits := by
  refine Op.fits_of_oncePer fun _ _ _ _ h => ?_
  dsimp only
  split
  · dsimp only
    exact h.dropTiles
  · split
    · exact h
    · dsimp only
      exact h.dropTiles

theorem opTlrRd_fits {nw : Bool} {d : Nat} {a b : Src} {h : Hints} : (opTlrRd nw d a b h).Fits := by
  refine Op.fits_of_oncePer fun _ _ _ _ h => ?_
  dsimp only
  split
  · exact h
  · exact h.useTile

theorem opMma_fits {d : Nat} {a b : Src} {h : Hints} : (opMma d a b h).Fits := by
  refine Op.fits_of_oncePer fun _ _ _ _ h => ?_
  split
  · exact h
  · exact h.checkMma.arrayIssue

theorem opMmas_fits {a b : Src} {h : Hints} : (opMmas a b h).Fits := by
  refine Op.fits_of_oncePer fun _ _ _ _ h => ?_
  split
  · exact h
  · exact h.checkMmas.arrayIssue

theorem opSvc_fits {d : Nat} {a b : Src} {h : Hints} : (opSvc d a b h).Fits := Op.fits_of_body fun _ _ _ h => h.svcBody

theorem opFrd_fits {d : Nat} {a b : Src} {h : Hints} : (opFrd d a b h).Fits :=
  Op.fits_of_inOrder fun _ _ _ _ h => Fit.ite_fst h (h.withObj fun _ => h.readFrozen)

theorem opFwr_fits {d : Nat} {a b : Src} {h : Hints} : (opFwr d a b h).Fits := by
  refine Op.fits_of_inOrder fun _ _ _ _ h => Fit.ite_fst h (h.withObj fun _ => ?_)
  split
  · exact h.writeFrozen _ ‹_›
  · exact h

theorem opFres_fits {nw : Bool} {d : Nat} {a b : Src} {h : Hints} : (opFres nw d a b h).Fits :=
  Op.fits_of_inOrder fun _ _ _ _ h => Fit.ite_fst h (h.withObj fun _ => h.resumeFrozen)

theorem opFkill_fits {nw : Bool} {d : Nat} {a b : Src} {h : Hints} : (opFkill nw d a b h).Fits :=
  Op.fits_of_inOrder fun _ _ _ _ h => Fit.ite_fst h (h.withObj fun _ => h.killFrozen)

theorem opUliSend_fits {a b : Src} {h : Hints} : (opUliSend a b h).Fits :=
  Op.fits_of_body fun _ _ _ h => h.inOrder fun _ _ h => h.sendLane

theorem opUliWait_fits {d : Nat} {a b : Src} {h : Hints} : (opUliWait d a b h).Fits :=
  Op.fits_of_oncePer fun _ _ _ _ h => h.waitGang

theorem opUliMask_fits {nw : Bool} {d : Nat} {a b : Src} {h : Hints} : (opUliMask nw d a b h).Fits :=
  Op.fits_of_inOrder fun _ _ _ _ h => h.maskLane

theorem opUliBind_fits {nw : Bool} {d : Nat} {a : Src} {h : Hints} : (opUliBind nw d a h).Fits :=
  Op.fits_of_oncePer fun _ _ _ _ h => h.bindGang

theorem opSpawn_fits {nw : Bool} {d : Nat} {a : Src} {h : Hints} : (opSpawn nw d a h).Fits where
  body h _ := h.inOrder fun _ _ h => h.spawnLane
  stall h := Fit.foldl (fun _ _ h => by
    dsimp only
    split
    · exact h
    · exact h.translatePage.translatePage) h

theorem opWrsr_fits {a b : Src} {h : Hints} : (opWrsr a b h).Fits := by
  refine Op.fits_of_inOrder fun _ _ _ _ h => ?_
  dsimp only
  split
  · exact h
  · exact h.mapCtx

theorem sweepOp_fits {f : State → Env → Nat → Except Flt Sweep} {srcs : List Opnd} {ext : Nat} {h : Hints} : (sweepOp f srcs ext h).Fits :=
  Op.fits_of_body fun _ _ _ h => h.sweep

theorem opPgqry_fits {d : Nat} {a : Src} {h : Hints} : (opPgqry d a h).Fits :=
  Op.fits_of_body fun _ _ _ h => h.mapGang

theorem opTaskend_fits {h : Hints} : (opTaskend h).Fits := Op.fits_of_body fun _ _ _ h => h.endTask

theorem opLaunch_fits {nw : Bool} {d : Nat} {a b : Src} {h : Hints} : (opLaunch nw d a b h).Fits where
  body h _ := h.launchBody
  stall h := Fit.foldl (fun _ _ h => h.askRecord) h

/-- Every instruction word keeps a state sound in what it does for its lanes. Those named are the ones that change more than their gang. -/
theorem opOf_fits {i : Instr} {h : Hints} {o : Op} (e : opOf i h = some o) : o.Fits := by
  cases i with
  | taskend => cases e; exact opTaskend_fits
  | sel _ _ _ _ => cases e; exact opSel_fits
  | mov _ _ _ => cases e; exact opMov_fits
  | shflIdx _ _ _ _ => cases e; exact shfl_fits
  | shflUp _ _ _ _ => cases e; exact shfl_fits
  | shflDn _ _ _ _ => cases e; exact shfl_fits
  | shflXor _ _ _ _ => cases e; exact shfl_fits
  | jf _ => cases e; exact opJf_fits
  | callf _ _ _ => cases e; exact opCallf_fits
  | cfetch _ _ => cases e; exact opCfetch_fits
  | ldB _ _ _ => cases e; exact loadOp_fits
  | ldH _ _ _ => cases e; exact loadOp_fits
  | ldW _ _ _ => cases e; exact loadOp_fits
  | ldD _ _ _ => cases e; exact loadOp_fits
  | ldBu _ _ _ => cases e; exact loadOp_fits
  | ldHu _ _ _ => cases e; exact loadOp_fits
  | ldQ _ _ _ => cases e; exact loadOp_fits
  | ldF _ _ _ => cases e; exact opLdF_fits
  | stB _ _ _ => cases e; exact storeOp_fits
  | stH _ _ _ => cases e; exact storeOp_fits
  | stW _ _ _ => cases e; exact storeOp_fits
  | stD _ _ _ => cases e; exact storeOp_fits
  | stQ _ _ _ => cases e; exact storeOp_fits
  | ldxW _ _ _ => cases e; exact loadOp_fits
  | ldxD _ _ _ => cases e; exact loadOp_fits
  | ldxQ _ _ _ => cases e; exact loadOp_fits
  | stxW _ _ _ => cases e; exact storeOp_fits
  | stxD _ _ _ => cases e; exact storeOp_fits
  | stxQ _ _ _ => cases e; exact storeOp_fits
  | amoAdd _ _ _ _ => cases e; exact amoOp_fits
  | amoMin _ _ _ _ => cases e; exact amoOp_fits
  | amoMax _ _ _ _ => cases e; exact amoOp_fits
  | amoAnd _ _ _ _ => cases e; exact amoOp_fits
  | amoOr _ _ _ _ => cases e; exact amoOp_fits
  | amoXor _ _ _ _ => cases e; exact amoOp_fits
  | amoXchg _ _ _ _ => cases e; exact amoOp_fits
  | amoCas _ _ _ _ => cases e; exact amoOp_fits
  | amoFadd _ _ _ _ => cases e; exact amoOp_fits
  | amoBfadd2 _ _ _ _ => cases e; exact amoOp_fits
  | amoMinu _ _ _ _ => cases e; exact amoOp_fits
  | amoMaxu _ _ _ _ => cases e; exact amoOp_fits
  | amoxAdd _ _ _ _ => cases e; exact amoOp_fits
  | amoxCas _ _ _ _ => cases e; exact amoOp_fits
  | amoxXchg _ _ _ _ => cases e; exact amoOp_fits
  | amoxFadd _ _ _ _ => cases e; exact amoOp_fits
  | fence => cases e; exact opFence_fits
  | fencex _ _ => cases e; exact opFencex_fits
  | bar => cases e; exact opBar_fits
  | gbar _ => cases e; exact opGbar_fits
  | qpush _ _ => cases e; exact opQpush_fits
  | qpop _ _ => cases e; exact opQpop_fits
  | qtrypop _ _ _ => cases e; exact opQtrypop_fits
  | qlen _ _ => cases e; exact opQlen_fits
  | xqCp _ _ _ => cases e; exact xqOp_fits
  | xqGx _ _ _ => cases e; exact xqOp_fits
  | xqNe _ _ _ => cases e; exact xqOp_fits
  | xqCl _ _ _ => cases e; exact xqOp_fits
  | waith _ _ => cases e; exact opWaith_fits
  | hset _ _ => cases e; exact opHset_fits
  | hqry _ _ _ _ => cases e; exact opHqry_fits
  | hbind _ _ _ _ => cases e; exact opHbind_fits
  | tlrSet _ _ => cases e; exact opTlrSet_fits
  | tlrInv _ => cases e; exact opTlrInv_fits
  | tlrRd _ _ _ _ => cases e; exact opTlrRd_fits
  | mma _ _ _ => cases e; exact opMma_fits
  | mmas _ _ => cases e; exact opMmas_fits
  | svc _ _ _ => cases e; exact opSvc_fits
  | frd _ _ _ => cases e; exact opFrd_fits
  | fwr _ _ _ => cases e; exact opFwr_fits
  | fres _ _ _ _ => cases e; exact opFres_fits
  | fkill _ _ _ _ => cases e; exact opFkill_fits
  | uliSend _ _ => cases e; exact opUliSend_fits
  | uliWait _ _ _ => cases e; exact opUliWait_fits
  | uliMask _ _ _ _ => cases e; exact opUliMask_fits
  | uliBind _ _ _ => cases e; exact opUliBind_fits
  | launch _ _ _ _ => cases e; exact opLaunch_fits
  | spawn _ _ _ => cases e; exact opSpawn_fits
  | wrsr _ _ => cases e; exact opWrsr_fits
  | invl _ _ => cases e; exact sweepOp_fits
  | invla _ => cases e; exact sweepOp_fits
  | pgqry _ _ => cases e; exact opPgqry_fits
  | _ => cases e <;> exact Op.fits_of_pure (fun _ _ => rfl) fun _ _ => rfl

theorem Fit.wakeGroup {gk : Nat} {lanes : List Nat} (h : Fit c s) : Fit c (s.wakeGroup gk lanes) := by
  unfold State.wakeGroup
  split
  · exact h
  · split
    · exact h
    · split
      · exact h.wakeOwn (h.len ‹_›)
      · exact h
      · split
        · exact h.goOn (opOf_fits ‹_›) (h.len ‹_›)
        · exact h

theorem Fit.wakeLanes {gk n : Nat} : ∀ {ls : List Nat} {s : State}, Fit c s → Fit c (State.wakeLanes gk n s ls) := by
  induction n with
  | zero => exact fun h => h
  | succ n ih =>
    intro ls s h
    cases ls with
    | nil => exact h
    | cons l ls =>
      unfold State.wakeLanes
      split
      · exact h
      · exact ih h.wakeGroup

theorem Fit.wakeWhere {gk : Nat} {p : Pend → Bool} {lanes : Nat → Bool} (h : Fit c s) : Fit c (s.wakeWhere gk p lanes) := by
  unfold State.wakeWhere
  split
  · exact h
  · exact h.wakeLanes

theorem Fit.execBlockedWake {g : Nat} {mask : Nat} (h : Fit c s) : FitOut c (execBlockedWake g mask s) := by
  unfold Machine.execBlockedWake
  exact FitOut.next h.wakeWhere

theorem Fit.execFullEmptyWaitSatisfied {g : Nat} {lane : Nat} (h : Fit c s) : FitOut c (execFullEmptyWaitSatisfied g lane s) := by
  unfold Machine.execFullEmptyWaitSatisfied
  exact FitOut.next h.wakeWhere

theorem Fit.execQueueReexamine {g : Nat} {lane : Nat} (h : Fit c s) : FitOut c (execQueueReexamine g lane s) := by
  unfold Machine.execQueueReexamine
  exact FitOut.next h.settleQueues.wakeWhere

theorem Fit.execUliWaitTimeout {g : Nat} (h : Fit c s) : FitOut c (execUliWaitTimeout g s) := by
  unfold Machine.execUliWaitTimeout
  exact FitOut.next h.wakeWhere

theorem Fit.tellPeers {body : PairBody} (h : Fit c s) : Fit c (s.tellPeers body) := by
  unfold State.tellPeers
  exact Fit.foldl (fun _ _ h => h.pairSend) h

theorem Fit.execLinkFail {port : Nat} {link : Nat} (h : Fit c s) : FitOut c (execLinkFail port link s) := by
  unfold Machine.execLinkFail
  refine FitOut.next ?_
  split
  · exact h.failLink
  · exact h

theorem Fit.execLinkRestore {port : Nat} {link : Nat} (h : Fit c s) : FitOut c (execLinkRestore port link s) := by
  unfold Machine.execLinkRestore
  refine FitOut.next ?_
  split
  · exact h.restoreLink
  · exact h

theorem Fit.pairFails {port : Nat} {pair : Nat} (h : Fit c s) : Fit c (s.pairFails port pair) := by
  unfold State.pairFails
  dsimp only
  split
  · exact h
  · split <;> exact h.failLink.failLink.mapPort

theorem Fit.spareTrained {port : Nat} {pair : Nat} (h : Fit c s) : Fit c (s.spareTrained port pair) := by
  unfold State.spareTrained
  dsimp only
  split
  · exact h
  · exact h.restoreLink.restoreLink.mapPort

theorem Fit.execFibrePairFail {port : Nat} {pair : Nat} (h : Fit c s) : FitOut c (execFibrePairFail port pair s) := by
  unfold Machine.execFibrePairFail
  exact FitOut.next h.pairFails

theorem Fit.execSpareRetrained {port : Nat} {pair : Nat} (h : Fit c s) : FitOut c (execSpareRetrained port pair s) := by
  unfold Machine.execSpareRetrained
  exact FitOut.next h.spareTrained

theorem Fit.execRetrain {who : Owner} {port : Nat} (h : Fit c s) : FitOut c (execRetrain who port s) := by
  unfold Machine.execRetrain
  refine FitOut.next (h.ownerWrite (fun s h => ?_))
  split
  · exact h.mapPort
  · exact h

theorem Fit.failModCmds {m : Nat} (h : Fit c s) : Fit c (s.failModCmds m) := by
  unfold State.failModCmds
  dsimp only
  refine (Fit.foldl (fun s a h => ?_) h).same
  split
  · exact h
  · exact h.freezeAll.settleEvent

theorem Fit.loseStores {port : Nat} (h : Fit c s) : Fit c (s.loseStores port) := by
  unfold State.loseStores
  dsimp only
  exact Fit.foldl (fun _ _ h => h.report) ((h.mapGangs (by simp) (by simp)).mapPort)

theorem Fit.execIncastNotice {port : Nat} (h : Fit c s) : FitOut c (execIncastNotice port s) := by
  unfold Machine.execIncastNotice
  exact FitOut.next h.mapPort

theorem Fit.execIncastRecovery {port : Nat} (h : Fit c s) : FitOut c (execIncastRecovery port s) := by
  unfold Machine.execIncastRecovery
  exact FitOut.next h.mapPort

theorem Fit.countSends {ms : List (Nat × PairBody)} (h : Fit c s) : Fit c (s.countSends ms) := by
  unfold State.countSends
  refine Fit.foldl (fun s a h => ?_) h
  split
  · exact h.countDrop
  · exact h

theorem Fit.answerAsked {peer : Nat} (h : Fit c s) : Fit c (s.answerAsked peer) := by
  unfold State.answerAsked
  dsimp only
  split
  · exact h
  · split
    · exact h.mapPod.mapGang
    · exact h.mapPod
    · exact h.mapPod

theorem Fit.headDown {peer : Nat} (h : Fit c s) : Fit c (s.headDown peer) := by
  unfold State.headDown
  dsimp only
  exact ((Fit.foldl (fun _ _ h => h.answerAsked) (Fit.foldl (fun _ _ h => h.markLost) h.countSends)).mapPod).refreshPod

theorem Fit.lossNotice {m : Nat} {peer : Nat} (h : Fit c s) : Fit c (s.lossNotice m peer) := by
  unfold State.lossNotice
  exact h.markLost.refreshPod

theorem Fit.restoreNotice {m : Nat} {peer : Nat} (h : Fit c s) : Fit c (s.restoreNotice m peer) := by
  unfold State.restoreNotice
  exact h.clearLost.refreshPod

theorem Fit.execHeadDownNotice {peer : Nat} (h : Fit c s) : FitOut c (execHeadDownNotice peer s) := by
  unfold Machine.execHeadDownNotice
  exact FitOut.next h.headDown

theorem Fit.execLossNotice {module : Nat} {peer : Nat} (h : Fit c s) : FitOut c (execLossNotice module peer s) := by
  unfold Machine.execLossNotice
  exact FitOut.next h.lossNotice

theorem Fit.execRestoreNotice {module : Nat} {peer : Nat} (h : Fit c s) : FitOut c (execRestoreNotice module peer s) := by
  unfold Machine.execRestoreNotice
  exact FitOut.next h.restoreNotice

theorem Fit.relayWindow {r : RelayReq} {pa : Nat} (h : Fit c s) : Fit c (s.relayWindow r pa).1 := by
  unfold State.relayWindow
  dsimp only
  split
  · split <;> exact h.winContrib.of_eq ‹_›
  · split <;> exact h.winRead.of_eq ‹_›

theorem Fit.relayPerform {r : RelayReq} {pa : Nat} (h : Fit c s) : Fit c (s.relayPerform r pa).1 := by
  unfold State.relayPerform
  dsimp only
  split
  · exact h
  · exact h.putBytes.backInvalidate
  · exact h.putBytes.backInvalidate
  · exact h.relayWindow

theorem Fit.relay {r : RelayReq} (h : Fit c s) : Fit c (s.relay r) := by
  unfold State.relay
  dsimp only
  split
  · exact h.pairSend
  · split
    · exact h.pairSend
    · split
      · exact h.pairSend
      · exact h.relayPerform.pairSend

theorem Fit.execRelayRequest {r : RelayReq} (h : Fit c s) : FitOut c (execRelayRequest r s) := by
  unfold Machine.execRelayRequest
  exact FitOut.next h.relay

theorem Fit.headUse {r : RelayReq} (h : Fit c s) : Fit c (s.headUse r) := by
  unfold State.headUse
  dsimp only
  split
  · exact h
  · exact h.relayPerform

theorem Fit.execModuleNotice {module : Nat} {maddr : HeadUse} (h : Fit c s) : FitOut c (execModuleNotice module maddr s) := by
  unfold Machine.execModuleNotice
  dsimp only
  refine FitOut.next (((Fit.backInvalidate ?_).settleQueues).setModWait)
  split
  · exact h.headUse
  · exact h

theorem Fit.takeMessage {peer : Nat} {body : PairBody} (h : Fit c s) : Fit c (s.takeMessage peer body) := by
  unfold State.takeMessage
  split
  · exact h.lossNotice
  · exact h.restoreNotice
  · exact h.same
  · exact h.same
  · exact h.relay
  · exact h.answerAsked
  · exact h.mapTrust

theorem Fit.mapPair {peer : Nat} {f : PairState → PairState} (h : Fit c s) : Fit c (s.mapPair peer f) := by
  unfold State.mapPair
  exact h.mapPod

theorem Fit.execPairAckArrival {peer : Nat} {upTo : Nat} (h : Fit c s) : FitOut c (execPairAckArrival peer upTo s) := by
  unfold Machine.execPairAckArrival
  exact FitOut.next h.mapPair

theorem Fit.execPairResendTimeout {peer : Nat} (h : Fit c s) : FitOut c (execPairResendTimeout peer s) := by
  unfold Machine.execPairResendTimeout
  refine FitOut.next ?_
  split
  · exact h.resend
  · exact h

theorem Fit.writeClaim {ten : Nat} {entry : Nat} {owner : Nat} {ovec : Nat} {oq : DWord} {oep : DWord} (h : Fit c s) : Fit c (s.writeClaim ten entry owner ovec oq oep) := by
  unfold State.writeClaim
  dsimp only
  split
  · exact h
  · split
    · exact h.mapTrust
    · exact h.mapTen.mapTrust

theorem Fit.execClaimWrite {who : Owner} {ten : Nat} {entry : Nat} {owner : Nat} {ovec : Nat} {oq : DWord} {oep : DWord} (h : Fit c s) : FitOut c (execClaimWrite who ten entry owner ovec oq oep s) := by
  unfold Machine.execClaimWrite
  exact FitOut.next (h.ownerWrite (fun _ h => h.writeClaim))

theorem Fit.execHandlerTableWrite {who : Owner} {ctx : Nat} {cls : Nat} {value : DWord} (h : Fit c s) : FitOut c (execHandlerTableWrite who ctx cls value s) := by
  unfold Machine.execHandlerTableWrite
  refine FitOut.next (h.ownerWrite (fun s h => ?_))
  split
  · exact h
  · exact h.mapCtx

theorem Fit.setQblk {core : Nat} {q : Nat} (h : Fit c s) : Fit c (s.setQblk core q) := by
  unfold State.setQblk
  dsimp only
  split
  · exact h
  · exact h.mapCore.mapCore.emptyBlocks.scrubRange

theorem Fit.execVaultSettingsWrite {who : Owner} {core : Nat} {q : Nat} (h : Fit c s) : FitOut c (execVaultSettingsWrite who core q s) := by
  unfold Machine.execVaultSettingsWrite
  exact FitOut.next (h.ownerWrite (fun _ h => h.setQblk))

theorem Fit.dropKeys (h : Fit c s) : Fit c s.dropKeys := by
  unfold State.dropKeys
  dsimp only
  exact h.mapTrust

theorem Fit.execFrameOwnerWrite {who : Owner} {frame : Nat} {world : Nat} (h : Fit c s) : FitOut c (execFrameOwnerWrite who frame world s) := by
  unfold Machine.execFrameOwnerWrite
  refine FitOut.next (h.ownerWrite (fun s h => ?_))
  split
  · exact h
  · exact h.mapTrust

theorem Fit.frameZeroed {frame : Nat} (h : Fit c s) : Fit c (s.frameZeroed frame) := by
  unfold State.frameZeroed
  dsimp only
  split
  · exact h
  · exact h.scrubRange.same.mapTrust.dropKeys

theorem Fit.execFrameZeroed {frame : Nat} (h : Fit c s) : FitOut c (execFrameZeroed frame s) := by
  unfold Machine.execFrameZeroed
  exact FitOut.next h.frameZeroed

theorem Fit.setBases {ctx : Nat} {reg : DWord} {code : DWord} (h : Fit c s) : Fit c (s.setBases ctx reg code) := by
  unfold State.setBases
  dsimp only
  exact h.mapCtx

theorem Fit.sendKeys (h : Fit c s) : Fit c s.sendKeys := by
  unfold State.sendKeys
  dsimp only
  exact Fit.foldl (fun _ _ h => h.pairSend.mapPod) h

theorem Fit.setAdmit {mask : Nat} {lowest : Nat} {peers : List (Nat × Nat)} (h : Fit c s) : Fit c (s.setAdmit mask lowest peers) := by
  unfold State.setAdmit
  dsimp only
  exact h.mapPod.mapTrust.sendKeys

theorem Fit.setRange {r : ModRange} {i : Nat} (h : Fit c s) : Fit c (s.setRange r i) := by
  unfold State.setRange
  dsimp only
  split
  · exact h
  · exact h.same

theorem Fit.setCtl {off : Nat} {value : DWord} (h : Fit c s) : Fit c (s.setCtl off value) := by
  unfold State.setCtl
  split
  · exact h
  · exact h.mapTrust

theorem Fit.hostGets {bytes : List Byte} (h : Fit c s) : Fit c (s.hostGets bytes) := by
  unfold State.hostGets
  exact h.same

theorem Fit.readCtl {off : Nat} {n : Nat} (h : Fit c s) : Fit c (s.readCtl off n) := by
  unfold State.readCtl
  dsimp only
  exact h.hostGets.same

theorem Fit.hostSend {ten : Nat} {tag : Nat} {ep : DWord} {operand : Word} {trusted : Bool} (h : Fit c s) : Fit c (s.hostSend ten tag ep operand trusted) := by
  unfold State.hostSend
  dsimp only
  split
  · exact h
  · split
    · exact h.refuseHost
    · split
      · exact h.same
      · split
        · exact h.same
        · split
          · exact FitOpt.getD h.pushNotice h.same
          · split
            · exact h.pairSend
            · exact h.same

theorem Fit.execHostSendPageStore {ten : Nat} {tag : Nat} {ep : DWord} {operand : Word} {trusted : Bool} (h : Fit c s) : FitOut c (execHostSendPageStore ten tag ep operand trusted s) := by
  unfold Machine.execHostSendPageStore
  exact FitOut.next h.hostSend

theorem Fit.hostPut {pa : Nat} {bytes : List Byte} (h : Fit c s) : Fit c (s.hostPut pa bytes) := by
  unfold State.hostPut
  exact Fit.foldl (fun _ _ h => h.dropCopies) h.putBytes

theorem Fit.refuseAccess {ten : Nat} {x2 : HostAccess} (h : Fit c s) : Fit c (s.refuseAccess ten x2) := by
  unfold State.refuseAccess
  split
  · exact h.refuseHost.hostGets
  · exact h.refuseHost

theorem Fit.portResult {ws : List Word} (h : Fit c s) : Fit c (s.portResult ws) := by
  unfold State.portResult
  exact h.mapTrust

theorem Fit.dropRange {a : Nat} {n : Nat} (h : Fit c s) : Fit c (s.dropRange a n) := by
  unfold State.dropRange
  exact h.same

theorem Fit.collapsed {m : Nat} {a : Nat} (h : Fit c s) : Fit c (s.collapsed m a) := by
  unfold State.collapsed
  dsimp only
  split
  · split
    · exact h
    · refine (Fit.foldl (fun s a h => ?_) h).setPage
      split <;> exact h.putLeaf
  · exact h

theorem Fit.execCollapseComplete {module : Nat} {maddr : Nat} (h : Fit c s) : FitOut c (execCollapseComplete module maddr s) := by
  unfold Machine.execCollapseComplete
  exact FitOut.next h.collapsed

theorem Fit.unpinPage {m : Nat} {a : Nat} (h : Fit c s) : Fit c (s.unpinPage m a) := by
  unfold State.unpinPage
  dsimp only
  split
  · exact h
  · exact (Fit.foldl (fun _ _ h => h.putLeaf) h).setPage

theorem Fit.execPinExpire {module : Nat} {maddr : Nat} (h : Fit c s) : FitOut c (execPinExpire module maddr s) := by
  unfold Machine.execPinExpire
  exact FitOut.next h.unpinPage

theorem Fit.peerAccess {m : Nat} {u : PeerUse} (h : Fit c s) : Fit c (s.peerAccess m u) := by
  unfold State.peerAccess
  dsimp only
  split
  · exact h
  · split
    · exact (Fit.foldl (fun _ _ h => h.returnLeaf) h).setPage
    · exact h.setPage
    · exact (Fit.foldl (fun _ _ h => h.returnLeaf) h).setPage
    · exact h.setPage
    · exact h.setPage
    · exact h.setPage
    · exact h

theorem Fit.execRemoteFormReturn {module : Nat} {maddr : PeerUse} (h : Fit c s) : FitOut c (execRemoteFormReturn module maddr s) := by
  unfold Machine.execRemoteFormReturn
  exact FitOut.next h.peerAccess

theorem Fit.execAccessPerformed {g : Nat} {n : Nat} (h : Fit c s) : FitOut c (execAccessPerformed g n s) := by
  unfold Machine.execAccessPerformed
  exact FitOut.next h.mapGang

theorem Fit.extend {i : Nat} {x : List Byte} (h : Fit c s) : Fit c (s.extend i x) := by
  unfold State.extend
  exact h.mapTrust

theorem Fit.execExtendMr {who : Owner} {mr : Nat} {digest : BitVec 384} (h : Fit c s) : FitOut c (execExtendMr who mr digest s) := by
  unfold Machine.execExtendMr
  refine FitOut.next (h.ownerWrite (fun s h => ?_))
  split
  · exact h.extend
  · exact h

theorem Fit.changeOwner {n : Nat} (h : Fit c s) : Fit c (s.changeOwner n) := by
  unfold State.changeOwner
  exact h.mapTrust

theorem Fit.requestOwner {who : Owner} (h : Fit c s) : Fit c (s.requestOwner who) := by
  unfold State.requestOwner
  split
  · exact h
  · split
    · exact h
    · split <;> exact h.mapTrust

theorem Fit.decideOwner {granted : Bool} (h : Fit c s) : Fit c (s.decideOwner granted) := by
  unfold State.decideOwner
  dsimp only
  split
  · exact h
  · split
    · exact h.mapTrust.changeOwner
    · exact h.mapTrust

theorem Fit.returnOwner {n : Nat} (h : Fit c s) : Fit c (s.returnOwner n) := by
  unfold State.returnOwner
  split
  · exact h.changeOwner
  · exact h

theorem Fit.execOwnershipRequest {who : Owner} (h : Fit c s) : FitOut c (execOwnershipRequest who s) := by
  unfold Machine.execOwnershipRequest
  exact FitOut.next (h.fromMaster (fun _ h => h.requestOwner))

theorem Fit.execOwnershipGrantDecision {granted : Bool} (h : Fit c s) : FitOut c (execOwnershipGrantDecision granted s) := by
  unfold Machine.execOwnershipGrantDecision
  exact FitOut.next h.decideOwner

theorem Fit.execOwnershipRelease {who : Owner} (h : Fit c s) : FitOut c (execOwnershipRelease who s) := by
  unfold Machine.execOwnershipRelease
  refine FitOut.next (h.fromMaster (fun s h => ?_))
  split
  · exact h.returnOwner
  · exact h

theorem Fit.execOwnerLinkLoss (h : Fit c s) : FitOut c (execOwnerLinkLoss s) := by
  unfold Machine.execOwnerLinkLoss
  exact FitOut.next h.returnOwner

theorem Fit.execBmcSilenceTimeout (h : Fit c s) : FitOut c (execBmcSilenceTimeout s) := by
  unfold Machine.execBmcSilenceTimeout
  exact FitOut.next h.returnOwner

theorem Fit.endAssignment {a : Assignment} {status : Nat} (h : Fit c s) : Fit c (s.endAssignment a status) := by
  unfold State.endAssignment
  dsimp only
  exact (Fit.foldl (fun _ _ h => h.mapDie) h).mapTrust

theorem Fit.failKeys (h : Fit c s) : Fit c s.failKeys := by
  unfold State.failKeys
  exact Fit.foldl (fun _ _ h => h.endAssignment) h

theorem Fit.entropyFails (h : Fit c s) : Fit c s.entropyFails := by
  unfold State.entropyFails
  dsimp only
  exact h.mapTrust.failKeys

theorem Fit.issueLocal {w : Nat} (h : Fit c s) : Fit c (s.issueLocal w) := by
  unfold State.issueLocal
  dsimp only
  exact h.same

theorem Fit.issuePod {w : Nat} (h : Fit c s) : Fit c (s.issuePod w) := by
  unfold State.issuePod
  exact h.mapTrust.sendKeys

theorem Fit.makeKey {w : Nat} {samples : List Byte} (h : Fit c s) : Fit c (s.makeKey w samples) := by
  unfold State.makeKey
  dsimp only
  split
  · exact h
  · split
    · exact h.entropyFails
    · split
      · exact h
      · split
        · exact h.mapTrust.issueLocal
        · exact h.mapTrust.issuePod

theorem Fit.execKeyGenerate {world : Nat} {samples : List Byte} (h : Fit c s) : FitOut c (execKeyGenerate world samples s) := by
  unfold Machine.execKeyGenerate
  exact FitOut.next h.makeKey

theorem Fit.execEntropyTestFail {samples : List Byte} (h : Fit c s) : FitOut c (execEntropyTestFail samples s) := by
  unfold Machine.execEntropyTestFail
  refine FitOut.next ?_
  split
  · exact h.entropyFails
  · exact h

theorem Fit.execEntropyHealthReset {who : Owner} (h : Fit c s) : FitOut c (execEntropyHealthReset who s) := by
  unfold Machine.execEntropyHealthReset
  refine FitOut.next (h.ownerWrite (fun s h => ?_))
  split
  · exact h.mapTrust
  · exact h

theorem Fit.execEntropyRecovered {samples : List Byte} (h : Fit c s) : FitOut c (execEntropyRecovered samples s) := by
  unfold Machine.execEntropyRecovered
  refine FitOut.next ?_
  split
  · exact h.mapTrust
  · exact h

theorem Fit.setStatus {dies : List Nat} {n : Nat} (h : Fit c s) : Fit c (s.setStatus dies n) := by
  unfold State.setStatus
  exact Fit.foldl (fun _ _ h => h.mapDie) h

theorem Fit.assignWorld {die : Nat} {req : Nat} {all : Bool} (h : Fit c s) : Fit c (s.assignWorld die req all) := by
  unfold State.assignWorld
  dsimp only
  split
  · exact h
  · split
    · exact h.mapDie.setStatus
    · split
      · split
        · exact h.mapDie.setStatus
        · split
          · exact h.mapDie.setStatus
          · split
            · exact h.mapDie.setStatus
            · exact h.mapDie.setStatus.mapTrust
      · split
        · exact h.mapDie.setStatus
        · split
          · exact h.mapDie.setStatus
          · split
            · exact h.mapDie.setStatus
            · exact h.mapDie.setStatus.mapTrust

theorem Fit.execWorldAssignGo {who : Owner} {die : Nat} {req : Nat} {all : Bool} (h : Fit c s) : FitOut c (execWorldAssignGo who die req all s) := by
  unfold Machine.execWorldAssignGo
  exact FitOut.next (h.ownerWrite (fun _ h => h.assignWorld))

theorem Fit.scrubDie {die : Nat} (h : Fit c s) : Fit c (s.scrubDie die) := by
  unfold State.scrubDie
  dsimp only
  exact ((Fit.foldl (fun _ _ h => h.endTagged) (Fit.foldl (fun _ _ h => h.scrubRange.mapCore) h)).same).mapDie

theorem Fit.scrubDone {die : Nat} {failed : List Nat} (h : Fit c s) : Fit c (s.scrubDone die failed) := by
  unfold State.scrubDone
  dsimp only
  split
  · exact h
  · split
    · exact ((Fit.foldl (fun _ _ h => h.report) (Fit.foldl (fun _ _ h => h.scrubDie) h)).endAssignment).dropKeys
    · exact (((Fit.foldl (fun _ _ h => h.mapDie) (Fit.foldl (fun _ _ h => h.scrubDie) h)).extend).endAssignment).dropKeys

theorem Fit.execScrubComplete {die : Nat} {failed : List Nat} (h : Fit c s) : FitOut c (execScrubComplete die failed s) := by
  unfold Machine.execScrubComplete
  exact FitOut.next h.scrubDone

theorem Fit.bootUp {images : List BootImage} (h : Fit c s) : Fit c (s.bootUp images) := by
  unfold State.bootUp
  dsimp only
  split
  · exact h
  · split
    · exact (Fit.foldl (fun _ _ h => h.extend) h.extend).mapTrust
    · exact Fit.foldl (fun _ _ h => h.mapPort) (((Fit.foldl (fun _ _ h => h.extend) h.extend).extend).mapTrust)

theorem Fit.execBoot {images : List BootImage} (h : Fit c s) : FitOut c (execBoot images s) := by
  unfold Machine.execBoot
  exact FitOut.next h.bootUp

theorem Fit.answer {request : Nat} {f : Trust → Trust} (h : Fit c s) : Fit c (s.answer request f) := by
  unfold State.answer
  dsimp only
  exact h.same

theorem Fit.answerSigned {body : List Byte} {f : Trust → Trust} (h : Fit c s) : Fit c (s.answerSigned body f) := by
  unfold State.answerSigned
  dsimp only
  exact h.same

theorem Fit.answerWith {request : Nat} {f : Trust → Trust} (h : Fit c s) : Fit c (s.answerWith request f) := by
  unfold State.answerWith
  exact h.answerSigned

theorem Fit.execGetVersion (h : Fit c s) : FitOut c (execGetVersion s) := by
  unfold Machine.execGetVersion
  exact FitOut.next h.answer

theorem Fit.execGetCapabilities (h : Fit c s) : FitOut c (execGetCapabilities s) := by
  unfold Machine.execGetCapabilities
  exact FitOut.next h.answer

theorem Fit.execNegotiateAlgorithms {hashes : List Nat} {sigs : List Nat} (h : Fit c s) : FitOut c (execNegotiateAlgorithms hashes sigs s) := by
  unfold Machine.execNegotiateAlgorithms
  exact FitOut.next h.answer

theorem Fit.execGetDigests (h : Fit c s) : FitOut c (execGetDigests s) := by
  unfold Machine.execGetDigests
  exact FitOut.next h.answer

theorem Fit.execGetCertificate {off : Nat} {len : Nat} (h : Fit c s) : FitOut c (execGetCertificate off len s) := by
  unfold Machine.execGetCertificate
  exact FitOut.next h.answer

theorem Fit.execChallenge {nonce : BitVec 256} (h : Fit c s) : FitOut c (execChallenge nonce s) := by
  unfold Machine.execChallenge
  exact FitOut.next h.answerWith

theorem Fit.execGetMeasurements {index : Nat} (h : Fit c s) : FitOut c (execGetMeasurements index s) := by
  unfold Machine.execGetMeasurements
  refine FitOut.next ?_
  split
  · exact h.answerSigned
  · exact h.answer

theorem Fit.execKeyExchange {share : BitVec 768} (h : Fit c s) : FitOut c (execKeyExchange share s) := by
  unfold Machine.execKeyExchange
  exact FitOut.next h.answerWith

theorem Fit.execSpdmFinish {verified : Bool} (h : Fit c s) : FitOut c (execSpdmFinish verified s) := by
  unfold Machine.execSpdmFinish
  exact FitOut.next h.answer

theorem Fit.execPowerController {watts : Nat} (h : Fit c s) : FitOut c (execPowerController watts s) := by
  unfold Machine.execPowerController
  exact FitOut.next h.same

theorem Fit.execThermalThrottle {celsius : Nat} (h : Fit c s) : FitOut c (execThermalThrottle celsius s) := by
  unfold Machine.execThermalThrottle
  exact FitOut.next h.same

theorem Fit.gateUnit {u : Nat} (h : Fit c s) : Fit c (s.gateUnit u) := by
  unfold State.gateUnit
  dsimp only
  split
  · exact h
  · exact h.same

theorem Fit.execPowerGate {unit : Nat} (h : Fit c s) : FitOut c (execPowerGate unit s) := by
  unfold Machine.execPowerGate
  exact FitOut.next h.gateUnit

theorem Fit.useUnit {u : Nat} (h : Fit c s) : Fit c (s.useUnit u) := by
  unfold State.useUnit
  exact h.same

theorem Fit.afterIssue {gk : Nat} {before : State} {c' : Choice} (h : Fit c s) : Fit c (s.afterIssue gk before c') := by
  unfold State.afterIssue
  split
  · exact h
  · exact h.mapGang.useUnit

theorem Fit.giveSlot {core : Nat} {sub : Nat} (h : Fit c s) : Fit c (s.giveSlot core sub) := by
  unfold State.giveSlot
  dsimp only
  split
  · exact h
  · split
    · exact h
    · exact h.mapGang

theorem Fit.settlePassing (h : Fit c s) : Fit c s.settlePassing := by
  unfold State.settlePassing
  exact Fit.foldl (fun _ _ h => h.homeRun) h.same

theorem Fit.dealSlots (h : Fit c s) : Fit c s.dealSlots := by
  unfold State.dealSlots
  dsimp only
  refine Fit.foldl (fun _ _ h => h.giveSlot.giveSlot) (((Fit.foldl (fun _ _ h => h.useUnit) ?_).endResets).mapGangs (by simp) (by simp))
  split
  · split
    · exact Fit.foldl (fun _ _ h => h.answerQueries) (Fit.foldl (fun _ _ h => h.stopIfFull) h.settleLinks)
    · exact (Fit.foldl (fun _ _ h => h.answerQueries) (Fit.foldl (fun _ _ h => h.stopIfFull) h.settleLinks)).settlePassing
  · split
    · exact (Fit.foldl (fun _ _ h => h.answerQueries) (Fit.foldl (fun _ _ h => h.stopIfFull) h.settleLinks)).settleLate
    · exact ((Fit.foldl (fun _ _ h => h.answerQueries) (Fit.foldl (fun _ _ h => h.stopIfFull) h.settleLinks)).settleLate).settlePassing

theorem Fit.advance {n : Nat} (h : Fit c s) : Fit c (s.advance n) := by
  unfold State.advance
  exact h.same

theorem Fit.tick (h : Fit c s) : Fit c s.tick := by
  unfold State.tick
  split
  · exact h.same.advance
  · exact h.advance

theorem Fit.begun {o : Op} {gk : Nat} {g : Gang} {m : Nat} (h : Fit c s) (hg : g.threads.length = 32) : Fit c (Op.begun o s gk g m) := by
  unfold Op.begun
  exact h.setGang (by simpa using hg)

theorem Fit.dropModuleLines {m : Nat} (h : Fit none s) : Fit none (s.dropModuleLines m) := by
  unfold State.dropModuleLines
  dsimp only
  exact Fit.foldl (fun _ _ h => h.memoryError) h.same

theorem Fit.losePort {port : Nat} (h : Fit none s) : Fit none (s.losePort port) := by
  unfold State.losePort
  dsimp only
  split
  · exact h.mapPort.failModCmds.loseStores.dropModuleLines.report
  · exact h.mapPort.failModCmds.loseStores.dropModuleLines.report.markLost.refreshPod.tellPeers

theorem Fit.execPortLost {port : Nat} {headFailed : Bool} (h : Fit none s) : FitOut none (execPortLost port headFailed s) := by
  unfold Machine.execPortLost
  refine FitOut.next ?_
  split
  · exact h.losePort
  · exact h

theorem Fit.trained {port : Nat} {i : ModuleIdent} (h : Fit none s) : Fit none (s.trained port i) := by
  unfold State.trained
  dsimp only
  split
  · exact h
  · split
    · exact h.mapPort.losePort
    · split
      · exact h.mapPort.mapPort
      · split
        · exact h.mapPort.mapPort.clearLost.refreshPod.tellPeers
        · exact h.mapPort.mapPort.refreshPod

theorem Fit.execPortTrained {port : Nat} {ident : ModuleIdent} (h : Fit none s) : FitOut none (execPortTrained port ident s) := by
  unfold Machine.execPortTrained
  exact FitOut.next h.trained

theorem Fit.execPortTrainingTimeout {port : Nat} (h : Fit none s) : FitOut none (execPortTrainingTimeout port s) := by
  unfold Machine.execPortTrainingTimeout
  refine FitOut.next ?_
  split
  · exact h.losePort
  · exact h

theorem Fit.takeEarly {peer n : Nat} : ∀ {s : State}, Fit none s → Fit none (s.takeEarly peer n) := by
  induction n with
  | zero => exact fun h => h
  | succ n ih =>
    intro s h
    unfold State.takeEarly
    dsimp only
    split
    · exact h
    · exact ih h.mapPair.takeMessage

theorem Fit.messageArrives {peer : Nat} {n : Nat} {body : PairBody} (h : Fit none s) : Fit none (s.messageArrives peer n body) := by
  unfold State.messageArrives
  dsimp only
  split
  · exact h.mapPair.takeMessage.takeEarly
  · split
    · exact h.mapPair
    · exact h

theorem Fit.execPairMessageArrival {peer : Nat} {sq : Nat} {body : PairBody} (h : Fit none s) : FitOut none (execPairMessageArrival peer sq body s) := by
  unfold Machine.execPairMessageArrival
  exact FitOut.next h.messageArrives

theorem Fit.writeCtl {w : CtlWrite} (h : Fit none s) : Fit none (s.writeCtl w) := by
  unfold State.writeCtl
  dsimp only
  split
  · split
    · exact h
    · exact h.filterLaunches.same
  · exact h.mapCtx
  · exact h.mapCtx
  · exact h.resetPackage
  · exact h.setBases
  · split
    · exact h
    · exact h.mapCtx
  · split
    · exact h
    · exact h.mapCtx
  · split
    · exact h
    · exact h.mapCtx
  · split
    · exact h
    · exact h.mapCtx
  · split
    · exact h
    · exact h.mapCtx
  · split
    · exact h
    · exact h.mapCtx
  · exact h.mapCtx
  · split
    · exact h
    · split
      · exact h.same
      · exact h.mapTen
  · split
    · exact h
    · exact h.mapTen
  · exact h.mapTen
  · exact h.mapTen
  · exact h.mapTen
  · exact h.mapDie
  · split
    · exact h
    · exact h.mapPod
  · exact h.mapPod
  · split
    · exact h
    · exact h.clearLost.mapPod.refreshPod
  · exact h.mapPod.refreshPod
  · exact h.markLost.refreshPod
  · exact h.setAdmit
  · split
    · exact h.mapPod
    · exact h
  · split
    · exact h
    · exact h.mapPod
  · exact h.setRange
  · split
    · exact h.same
    · exact h
  · split
    · exact h
    · exact h.mapDie
  · exact h
  · exact h.setCtl

theorem Fit.ctlWrite {who : Owner} {w : CtlWrite} (h : Fit none s) : Fit none (s.ctlWrite who w) := by
  unfold State.ctlWrite
  split
  · split
    · exact h
    · split
      · exact h.refuseHost.hostGets
      · exact h.readCtl
  · exact h.readCtl
  · split
    · exact h.fromMaster (fun _ h => h.writeCtl)
    · exact h.ownerWrite (fun _ h => h)
  · exact h.ownerWrite (fun _ h => h.writeCtl)

theorem Fit.execControlSpaceWrite {who : Owner} {w : CtlWrite} (h : Fit none s) : FitOut none (execControlSpaceWrite who w s) := by
  unfold Machine.execControlSpaceWrite
  exact FitOut.next h.ctlWrite

theorem Fit.actWaiting (h : Fit none s) : Fit none s.actWaiting := by
  unfold State.actWaiting
  refine Fit.foldl (fun s a h => ?_) h
  dsimp only
  split
  · exact h.same.ctlWrite
  · exact h

theorem Fit.controlMessage {ten : Nat} {dfseq : Nat} {who : Owner} {w : CtlWrite} (h : Fit none s) : Fit none (s.controlMessage ten dfseq who w) := by
  unfold State.controlMessage
  dsimp only
  split
  · exact h.ctlWrite
  · exact h.same

theorem Fit.execControlMessage {ten : Nat} {dfseq : Nat} {who : Owner} {w : CtlWrite} (h : Fit none s) : FitOut none (execControlMessage ten dfseq who w s) := by
  unfold Machine.execControlMessage
  exact FitOut.next h.controlMessage

theorem Fit.fenceTimeout {n : Nat} (h : Fit none s) : Fit none (s.fenceTimeout n) := by
  unfold State.fenceTimeout
  dsimp only
  split
  · exact h
  · split
    · exact h
    · exact h.same.actWaiting

theorem Fit.execFenceTimeout {n : Nat} (h : Fit none s) : FitOut none (execFenceTimeout n s) := by
  unfold Machine.execFenceTimeout
  exact FitOut.next h.fenceTimeout

theorem Fit.hostPush {ten pa : Nat} {item : List Byte} (h : Fit c s) : Fit c (s.hostPush ten pa item) := by
  unfold State.hostPush
  dsimp only
  split
  · exact h
  · exact FitOpt.getD (FitOpt.findSome fun _ => h.pushWhole) h

theorem Fit.hostAccess {ten : Nat} {a : HostAccess} {trusted : Bool} (h : Fit none s) : Fit none (s.hostAccess ten a trusted) := by
  unfold State.hostAccess
  dsimp only
  split
  · exact h
  · split
    · exact h.refuseAccess
    · split
      · exact h
      · split
        · exact h.report
        · split
          · exact h.hostGets
          · exact h.hostPut.actWaiting
          · exact h.hostPut.hostGets.actWaiting
          · exact h.hostPush

theorem Fit.execHostCxlAccess {ten : Nat} {a : HostAccess} {trusted : Bool} (h : Fit none s) : FitOut none (execHostCxlAccess ten a trusted s) := by
  unfold Machine.execHostCxlAccess
  exact FitOut.next h.hostAccess

theorem Fit.onPort {ten : Demand} {cap : DWord} {bad : Bool} {f : Obj → State} (h : Fit c s) (hf : ∀ o, Fit c (f o)) : Fit c (s.onPort ten cap bad f) := by
  unfold State.onPort
  refine h.fromMaster fun s h => ?_
  split
  · exact h.portResult
  · split
    · exact h.portResult
    · exact hf _

theorem Fit.execCapportFrd {ten : Demand} {cap : DWord} {sel : Word} (h : Fit c s) : FitOut c (execCapportFrd ten cap sel s) := by
  unfold Machine.execCapportFrd
  refine FitOut.next (h.onPort (fun p => ?_))
  dsimp only
  exact h.readFrozen.portResult

theorem Fit.execCapportFwr {ten : Demand} {cap : DWord} {sel : Word} {value : Word} (h : Fit c s) : FitOut c (execCapportFwr ten cap sel value s) := by
  unfold Machine.execCapportFwr
  refine FitOut.next (h.onPort (fun p => ?_))
  split
  · exact (h.writeFrozen _ ‹_›).portResult
  · exact h.portResult

theorem Fit.execCapportFres {ten : Demand} {cap : DWord} {mask : Word} {mode : Word} (h : Fit c s) : FitOut c (execCapportFres ten cap mask mode s) := by
  unfold Machine.execCapportFres
  refine FitOut.next (h.onPort (fun p => ?_))
  dsimp only
  exact h.resumeFrozen.portResult

theorem Fit.execCapportFkill {ten : Demand} {cap : DWord} {mask : Word} (h : Fit c s) : FitOut c (execCapportFkill ten cap mask s) := by
  unfold Machine.execCapportFkill
  refine FitOut.next (h.onPort (fun p => ?_))
  dsimp only
  exact h.killFrozen.portResult

theorem Fit.execThermalTrip {celsius : Nat} (h : Fit none s) : FitOut none (execThermalTrip celsius s) := by
  unfold Machine.execThermalTrip
  refine FitOut.next ?_
  split
  · exact h.resetPackage
  · exact h

theorem Fit.whileHeld {gk : Nat} {g : Gang} {lanes : List Nat} {i : Instr} (h : Fit c s) : Fit c (s.whileHeld gk g lanes i) := by
  unfold State.whileHeld
  dsimp only
  split
  · exact h
  · split
    · exact h
    · exact h.stall (opOf_fits ‹_›)

theorem Fit.copyRange {src dst n : Nat} (h : Fit c s) : Fit c (s.copyRange src dst n) := by
  unfold State.copyRange
  dsimp only
  exact (h.scrubRange.dropRange.withMem fun hm => Memory.wf_writeCells _ _ _ hm).same

theorem Fit.replicate {ctx : Nat} {va : Nat} (h : Fit c s) : Fit c (s.replicate ctx va) := by
  unfold State.replicate
  -- Hidden, so that the kernel does not evaluate them where it compares the branches.
  obtain ⟨f, hf⟩ : ∃ f, f = State.masterOf := ⟨_, rfl⟩
  obtain ⟨f1, hf1⟩ : ∃ f, f = State.migPage := ⟨_, rfl⟩
  obtain ⟨f2, hf2⟩ : ∃ f, f = State.freeReplica := ⟨_, rfl⟩
  rw [← hf, ← hf1, ← hf2]
  split
  · split
    extract_lets _ opened _ t
    have ht : Fit c t := by
      unfold t
      split
      · exact Fit.foldl (fun _ _ h => h.returnLeaf) h
      · exact h
    clear_value opened t
    split
    · exact h
    · split
      · exact ht.copyRange.mapTen.putLeaf.setPage
      · exact ht.putLeaf.setPage
  · exact h

theorem Fit.execReplicationComplete {ctx : Nat} {va : Nat} (h : Fit c s) : FitOut c (execReplicationComplete ctx va s) := by
  unfold Machine.execReplicationComplete
  exact FitOut.next h.replicate

theorem Fit.pinPage {m : Nat} {a : Nat} {toModule : Nat} {toAddr : Nat} (h : Fit c s) : Fit c (s.pinPage m a toModule toAddr) := by
  unfold State.pinPage
  dsimp only
  split
  · split
    · exact h
    · split
      · exact h
      · refine Fit.setPage ?_
        split
        · exact (Fit.foldl (fun _ _ h => h.putLeaf) h.copyRange).setPage
        · exact Fit.foldl (fun _ _ h => h.putLeaf) h
  · split
    · exact h
    · split
      · exact h
      · refine Fit.setPage ?_
        split
        · exact (Fit.foldl (fun _ _ h => h.putLeaf) h.copyRange).setPage
        · exact Fit.foldl (fun _ _ h => h.putLeaf) h

theorem Fit.execPagePin {module : Nat} {maddr : Nat} {toModule : Nat} {toAddr : Nat} (h : Fit c s) : FitOut c (execPagePin module maddr toModule toAddr s) := by
  unfold Machine.execPagePin
  exact FitOut.next h.pinPage

end Sys2Proof.Machine
end

section
/-! SUPPORT. The decoder makes instruction words, and no step of the device. -/

namespace Sys2Proof

-- One proof at a time: many at once need more threads than the memory limit allows.
set_option Elab.async false

/-- A row of the opcode map makes instruction words, and no step of the device. -/
def Row.MakesWords : Row → Prop
  | .reserved => True
  | .bare i => i.isEvent = false
  | .nDAB f => ∀ n d a b, (f n d a b).isEvent = false
  | .nDAI f => ∀ n d a b, (f n d a b).isEvent = false
  | .nDA f => ∀ n d a, (f n d a).isEvent = false
  | .nD f => ∀ n d, (f n d).isEvent = false
  | .dAB f => ∀ d a b, (f d a b).isEvent = false
  | .dA f => ∀ d a, (f d a).isEvent = false
  | .aB f => ∀ a b, (f a b).isEvent = false
  | .aOnly f => ∀ a, (f a).isEvent = false

/-- A major of the opcode map makes instruction words. -/
def Major.MakesWords : Major → Prop
  | .minors r0 r1 r2 r3 => r0.MakesWords ∧ r1.MakesWords ∧ r2.MakesWords ∧ r3.MakesWords
  | .branch f => ∀ a x, (f a x).isEvent = false
  | _ => True

theorem majors0_makeWords : List.Forall Major.MakesWords majors0 := by
  refine ⟨?_, ?_, ?_, ?_, ?_, ?_, ?_, ?_, ?_, ?_, ?_, ?_, ?_, ?_, ?_, ?_⟩ <;> simp [Major.MakesWords, Row.MakesWords, Instr.isEvent]

theorem majors1_makeWords : List.Forall Major.MakesWords majors1 := by
  refine ⟨?_, ?_, ?_, ?_, ?_, ?_, ?_, ?_, ?_, ?_, ?_, ?_, ?_, ?_, ?_, ?_⟩ <;> simp [Major.MakesWords, Row.MakesWords, Instr.isEvent]

theorem majors2_makeWords : List.Forall Major.MakesWords majors2 := by
  refine ⟨?_, ?_, ?_, ?_, ?_, ?_, ?_, ?_, ?_, ?_, ?_, ?_, ?_, ?_, ?_, ?_⟩ <;> simp [Major.MakesWords, Row.MakesWords, Instr.isEvent]

theorem majors3_makeWords : List.Forall Major.MakesWords majors3 := by
  refine ⟨?_, ?_, ?_, ?_, ?_, ?_, ?_, ?_, ?_, ?_, ?_, ?_, ?_, ?_, ?_, ?_⟩ <;> simp [Major.MakesWords, Row.MakesWords, Instr.isEvent]

theorem majors_makeWords : ∀ m ∈ majors, m.MakesWords := by
  have h0 := List.forall_iff_forall_mem.1 majors0_makeWords
  have h1 := List.forall_iff_forall_mem.1 majors1_makeWords
  have h2 := List.forall_iff_forall_mem.1 majors2_makeWords
  have h3 := List.forall_iff_forall_mem.1 majors3_makeWords
  simp only [majors, List.forall_mem_append]
  exact ⟨⟨⟨h0, h1⟩, h2⟩, h3⟩

theorem guardRow_ok {ok bad : Bool} {i j : Instr} (h : guardRow ok bad i = .ok j) : i = j := by
  unfold guardRow at h
  split at h
  · split at h
    · cases h
    · exact Except.ok.inj h
  · cases h

theorem Row.MakesWords.decode {r : Row} {w : Nat} {f : Fields} {i : Instr} (hr : r.MakesWords) (h : r.decode w f = .ok i) : i.isEvent = false := by
  cases r with
  | reserved => cases h
  | nDAB | nDAI => exact Except.ok.inj h ▸ hr ..
  | bare => exact guardRow_ok h ▸ hr
  | _ => exact guardRow_ok h ▸ hr ..

theorem Major.MakesWords.row {m : Major} (hm : m.MakesWords) (n : Nat) : (m.row n).MakesWords := by
  cases m with
  | minors =>
    obtain ⟨h0, h1, h2, h3⟩ := hm
    unfold Major.row
    dsimp only
    split_ifs <;> assumption
  | _ => trivial

theorem isEvent_decodeHint {k p : Nat} {i : Instr} (h : decodeHint k p = .ok i) : i.isEvent = false := by
  unfold decodeHint at h
  split_ifs at h <;> exact Except.ok.inj h ▸ rfl

theorem Major.MakesWords.decode {m : Major} {w : Nat} {i : Instr} (hm : m.MakesWords) (h : m.decode w = .ok i) : i.isEvent = false := by
  cases m with
  | reserved => cases h
  | hints => exact isEvent_decodeHint h
  | branch => exact Except.ok.inj h ▸ hm ..
  | minors => exact (hm.row _).decode h

/-- A word decodes to an instruction word. -/
theorem isEvent_decodeNat {w : Nat} {i : Instr} (h : decodeNat w = .ok i) : i.isEvent = false := by
  refine Major.MakesWords.decode ?_ h
  rw [List.getD_eq_getElem?_getD]
  cases e : majors[(fieldsOf w).maj]? with
  | none => trivial
  | some m => exact majors_makeWords m (List.mem_of_getElem? e)

end Sys2Proof
end

section
/-! SUPPORT. A step keeps a state sound. -/

namespace Sys2Proof.Machine

-- One proof at a time: many at once need more threads than the memory limit allows.
set_option Elab.async false

variable {c : Option Cur} {s t : State}

/-! ## Instructions -/

theorem Fit.clearCur (h : Fit c s) : Fit none s.clearCur := ⟨h.mem, h.whole, h.order, h.crews, h.launches, rfl⟩

theorem Fit.run {i : Instr} {op : Hints → Op} (h : Fit c s) (ho : ∀ q, opOf i q = some (op q)) : FitOut none (run i op s) := by
  unfold Machine.run
  split
  · exact FitOut.fault
  · split
    · exact FitOut.fault
    · next e => exact FitOut.next (h.issue (opOf_fits (ho _)) (h.len e)).clearCur

theorem Fit.runIllegal {n : Nat} (h : Fit c s) : FitOut none (runIllegal n s) := by
  unfold Machine.runIllegal
  split
  · exact FitOut.fault
  · split
    · exact FitOut.fault
    · next e => exact FitOut.next (h.rejectAll (h.len e)).clearCur

theorem Fit.runHint {begins : Bool} {check : Hints → Option Nat} {f : Thread → Thread} (h : Fit c s) : FitOut none (runHint begins check f s) := by
  unfold Machine.runHint
  split
  · exact FitOut.fault
  · split
    · exact FitOut.fault
    · next e =>
      have hg := h.len e
      dsimp only
      split
      · exact FitOut.next (h.rejectAll hg).clearCur
      · exact FitOut.next (h.issueHint hg).clearCur

theorem Fit.execHxImm {n : Nat} (h : Fit c s) : FitOut none (execHxImm n s) := h.runHint
theorem Fit.execHxExt {n : Nat} (h : Fit c s) : FitOut none (execHxExt n s) := h.runHint
theorem Fit.execHxRegion {n : Nat} (h : Fit c s) : FitOut none (execHxRegion n s) := h.runHint
theorem Fit.execHxSched {m n : Nat} (h : Fit c s) : FitOut none (execHxSched m n s) := h.runHint

theorem Fit.execReservedEncoding {w : Nat} (h : Fit c s) : FitOut none (execReservedEncoding w s) := h.runIllegal

/-- Every instruction, and every step of the device taken while no path is in the middle of an issue, leaves a sound state. -/
theorem Fit.exec {i : Instr} (h : Fit c s) (hc : i.isEvent = true → c = none) : FitOut none (exec i s) := by
  cases i with
  | hxImm => exact h.execHxImm
  | hxExt => exact h.execHxExt
  | hxRegion n => exact h.execHxRegion (n := n)
  | hxSched => exact h.execHxSched
  | reservedEncoding => exact h.execReservedEncoding
  | ageingForce => exact (hc rfl ▸ h).execAgeingForce
  | blockedWake => exact (hc rfl ▸ h).execBlockedWake
  | fullEmptyWaitSatisfied => exact (hc rfl ▸ h).execFullEmptyWaitSatisfied
  | queueReexamine => exact (hc rfl ▸ h).execQueueReexamine
  | uliWaitTimeout => exact (hc rfl ▸ h).execUliWaitTimeout
  | segmentFetchLanded => exact (hc rfl ▸ h).execSegmentFetchLanded
  | segmentFetchFaulted => exact (hc rfl ▸ h).execSegmentFetchFaulted
  | pathSegmentRequest => exact (hc rfl ▸ h).execPathSegmentRequest
  | segmentRequestRetry => exact (hc rfl ▸ h).execSegmentRequestRetry
  | registerLineFill => exact (hc rfl ▸ h).execRegisterLineFill
  | registerUncorrectable => exact (hc rfl ▸ h).execRegisterUncorrectable
  | eccCorrection => exact (hc rfl ▸ h).execEccCorrection
  | memoryUncorrectable => exact (hc rfl ▸ h).execMemoryUncorrectable
  | heldRecordQueue => exact (hc rfl ▸ h).execHeldRecordQueue
  | handlerSpawn => exact (hc rfl ▸ h).execHandlerSpawn
  | recordDeliverOwner => exact (hc rfl ▸ h).execRecordDeliverOwner
  | handlerSlotFree => exact (hc rfl ▸ h).execHandlerSlotFree
  | pubStore => exact (hc rfl ▸ h).execPubStore
  | ringAccept => exact (hc rfl ▸ h).execRingAccept
  | copy => exact (hc rfl ▸ h).execCopy
  | copy2d => exact (hc rfl ▸ h).execCopy2d
  | fillmc => exact (hc rfl ▸ h).execFillmc
  | copymma => exact (hc rfl ▸ h).execCopymma
  | fill => exact (hc rfl ▸ h).execFill
  | copymmaFollowOn => exact (hc rfl ▸ h).execCopymmaFollowOn
  | gather => exact (hc rfl ▸ h).execGather
  | scatter => exact (hc rfl ▸ h).execScatter
  | scatteradd => exact (hc rfl ▸ h).execScatteradd
  | send => exact (hc rfl ▸ h).execSend
  | rmaw => exact (hc rfl ▸ h).execRmaw
  | contrib => exact (hc rfl ▸ h).execContrib
  | readsum => exact (hc rfl ▸ h).execReadsum
  | readround => exact (hc rfl ▸ h).execReadround
  | relay => exact (hc rfl ▸ h).execRelay
  | subtransferComplete => exact (hc rfl ▸ h).execSubtransferComplete
  | handleDestComplete => exact (hc rfl ▸ h).execHandleDestComplete
  | handleSourceRelease => exact (hc rfl ▸ h).execHandleSourceRelease
  | tileRecordEvict => exact (hc rfl ▸ h).execTileRecordEvict
  | arrayOperationStart => exact (hc rfl ▸ h).execArrayOperationStart
  | arrayResultWrite => exact (hc rfl ▸ h).execArrayResultWrite
  | launchStart => exact (hc rfl ▸ h).execLaunchStart
  | launchRetire => exact (hc rfl ▸ h).execLaunchRetire
  | balancerDecision => exact (hc rfl ▸ h).execBalancerDecision
  | balancerPeriodic => exact (hc rfl ▸ h).execBalancerPeriodic
  | watchedQueueReexamine => exact (hc rfl ▸ h).execWatchedQueueReexamine
  | cacheBlockHandover => exact (hc rfl ▸ h).execCacheBlockHandover
  | taskStart => exact (hc rfl ▸ h).execTaskStart
  | taskRetire => exact (hc rfl ▸ h).execTaskRetire
  | taskAbort => exact (hc rfl ▸ h).execTaskAbort
  | slotPreemption => exact (hc rfl ▸ h).execSlotPreemption
  | preempt => exact (hc rfl ▸ h).execPreempt
  | preemptResume => exact (hc rfl ▸ h).execPreemptResume
  | contextSwitchOut => exact (hc rfl ▸ h).execContextSwitchOut
  | switchedResume => exact (hc rfl ▸ h).execSwitchedResume
  | contextWake => exact (hc rfl ▸ h).execContextWake
  | contextRunControl => exact (hc rfl ▸ h).execContextRunControl
  | crewKill => exact (hc rfl ▸ h).execCrewKill
  | contextReset => exact (hc rfl ▸ h).execContextReset
  | tenancyResetDrain => exact (hc rfl ▸ h).execTenancyResetDrain
  | tenancyResetCancel => exact (hc rfl ▸ h).execTenancyResetCancel
  | packageReset => exact (hc rfl ▸ h).execPackageReset
  | boot => exact (hc rfl ▸ h).execBoot
  | uliSendArrival => exact (hc rfl ▸ h).execUliSendArrival
  | refusalNotice => exact (hc rfl ▸ h).execRefusalNotice
  | replicationComplete => exact (hc rfl ▸ h).execReplicationComplete
  | collapseComplete => exact (hc rfl ▸ h).execCollapseComplete
  | pagePin => exact (hc rfl ▸ h).execPagePin
  | pinExpire => exact (hc rfl ▸ h).execPinExpire
  | linkFail => exact (hc rfl ▸ h).execLinkFail
  | linkRestore => exact (hc rfl ▸ h).execLinkRestore
  | fibrePairFail => exact (hc rfl ▸ h).execFibrePairFail
  | spareRetrained => exact (hc rfl ▸ h).execSpareRetrained
  | retrain => exact (hc rfl ▸ h).execRetrain
  | portTrained => exact (hc rfl ▸ h).execPortTrained
  | portTrainingTimeout => exact (hc rfl ▸ h).execPortTrainingTimeout
  | portLost => exact (hc rfl ▸ h).execPortLost
  | moduleResponse => exact (hc rfl ▸ h).execModuleResponse
  | moduleWaitRetry => exact (hc rfl ▸ h).execModuleWaitRetry
  | moduleNotice => exact (hc rfl ▸ h).execModuleNotice
  | incastNotice => exact (hc rfl ▸ h).execIncastNotice
  | incastRecovery => exact (hc rfl ▸ h).execIncastRecovery
  | headDownNotice => exact (hc rfl ▸ h).execHeadDownNotice
  | lossNotice => exact (hc rfl ▸ h).execLossNotice
  | restoreNotice => exact (hc rfl ▸ h).execRestoreNotice
  | pairMessageArrival => exact (hc rfl ▸ h).execPairMessageArrival
  | pairAckArrival => exact (hc rfl ▸ h).execPairAckArrival
  | pairResendTimeout => exact (hc rfl ▸ h).execPairResendTimeout
  | relayRequest => exact (hc rfl ▸ h).execRelayRequest
  | hostSendPageStore => exact (hc rfl ▸ h).execHostSendPageStore
  | hostCxlAccess => exact (hc rfl ▸ h).execHostCxlAccess
  | controlMessage => exact (hc rfl ▸ h).execControlMessage
  | fenceTimeout => exact (hc rfl ▸ h).execFenceTimeout
  | netPacketTransmit => exact (hc rfl ▸ h).execNetPacketTransmit
  | netPacketReceive => exact (hc rfl ▸ h).execNetPacketReceive
  | netAckReceive => exact (hc rfl ▸ h).execNetAckReceive
  | netRtoExpire => exact (hc rfl ▸ h).execNetRtoExpire
  | worldAssignGo => exact (hc rfl ▸ h).execWorldAssignGo
  | keyGenerate => exact (hc rfl ▸ h).execKeyGenerate
  | scrubComplete => exact (hc rfl ▸ h).execScrubComplete
  | entropyTestFail => exact (hc rfl ▸ h).execEntropyTestFail
  | entropyHealthReset => exact (hc rfl ▸ h).execEntropyHealthReset
  | entropyRecovered => exact (hc rfl ▸ h).execEntropyRecovered
  | frameOwnerWrite => exact (hc rfl ▸ h).execFrameOwnerWrite
  | ownershipRequest => exact (hc rfl ▸ h).execOwnershipRequest
  | ownershipGrantDecision => exact (hc rfl ▸ h).execOwnershipGrantDecision
  | ownershipRelease => exact (hc rfl ▸ h).execOwnershipRelease
  | ownerLinkLoss => exact (hc rfl ▸ h).execOwnerLinkLoss
  | bmcSilenceTimeout => exact (hc rfl ▸ h).execBmcSilenceTimeout
  | claimWrite => exact (hc rfl ▸ h).execClaimWrite
  | handlerTableWrite => exact (hc rfl ▸ h).execHandlerTableWrite
  | vaultSettingsWrite => exact (hc rfl ▸ h).execVaultSettingsWrite
  | extendMr => exact (hc rfl ▸ h).execExtendMr
  | capportFrd => exact (hc rfl ▸ h).execCapportFrd
  | capportFwr => exact (hc rfl ▸ h).execCapportFwr
  | capportFres => exact (hc rfl ▸ h).execCapportFres
  | capportFkill => exact (hc rfl ▸ h).execCapportFkill
  | controlSpaceWrite => exact (hc rfl ▸ h).execControlSpaceWrite
  | getVersion => exact (hc rfl ▸ h).execGetVersion
  | getCapabilities => exact (hc rfl ▸ h).execGetCapabilities
  | negotiateAlgorithms => exact (hc rfl ▸ h).execNegotiateAlgorithms
  | getDigests => exact (hc rfl ▸ h).execGetDigests
  | getCertificate => exact (hc rfl ▸ h).execGetCertificate
  | challenge => exact (hc rfl ▸ h).execChallenge
  | getMeasurements => exact (hc rfl ▸ h).execGetMeasurements
  | keyExchange => exact (hc rfl ▸ h).execKeyExchange
  | spdmFinish => exact (hc rfl ▸ h).execSpdmFinish
  | thermalThrottle => exact (hc rfl ▸ h).execThermalThrottle
  | thermalTrip => exact (hc rfl ▸ h).execThermalTrip
  | powerGate => exact (hc rfl ▸ h).execPowerGate
  | accessPerformed => exact (hc rfl ▸ h).execAccessPerformed
  | frameZeroed => exact (hc rfl ▸ h).execFrameZeroed
  | remoteFormReturn => exact (hc rfl ▸ h).execRemoteFormReturn
  | powerController => exact (hc rfl ▸ h).execPowerController
  | _ => exact h.run fun _ => rfl

/-! ## Steps -/

theorem FitOut.afterward {o : Host.Outcome State Fault Refusal} {f : State → State} (ho : FitOut c o) (hf : ∀ s, Fit c s → Fit c (f s)) :
    FitOut c (afterward o f) := by
  cases o with
  | next s => exact FitOut.next (hf s (ho s rfl))
  | fault => exact FitOut.fault
  | refused => exact FitOut.refused

/-- What a turn comes to leaves a sound state. -/
def Plan.Fits : Plan → Prop
  | .idle s => Fit none s
  | .own _ s => Fit none s
  | .word i s _ => (i.isEvent = false ∨ ∃ w, i = .reservedEncoding w) ∧ ∃ c, Fit c s
  | .illegal _ s _ => ∃ c, Fit c s

theorem Fit.plan {gk : Nat} (h : Fit none s) : (s.plan gk).Fits := by
  unfold State.plan
  split
  · exact h
  · next g0 e0 =>
    have hg : g0.meet.threads.length = 32 := by simpa using h.len e0
    have h1 := h.setGang (k := gk) hg
    dsimp only
    generalize s.setGang gk g0.meet = s1 at *
    generalize g0.meet = g at *
    split
    · exact h1
    · split
      · exact h1
      · next x _ =>
        split
        · exact h1.setGang (by simpa using hg)
        · split
          · exact h1
          · split
            · exact ((((h1.freezeAll).mapGang).mapGang).settleBarriers).releaseSlot
            · have hm : (g.mapLanes x.lanes Thread.passMeeting).threads.length = 32 := by simpa using hg
              have h2 := h1.setGang (k := gk) hm
              have h3 : Fit (some ⟨gk, maskOf x.lanes⟩) { s1.setGang gk (g.mapLanes x.lanes Thread.passMeeting) with cur := some ⟨gk, maskOf x.lanes⟩ } :=
                ⟨h2.mem, h2.whole, h2.order, h2.crews, h2.launches, rfl⟩
              split
              · next e =>
                split
                · exact h3.whileHeld.clearCur
                · exact ⟨.inl (isEvent_decodeNat e), _, h3⟩
              · exact ⟨.inr ⟨_, rfl⟩, _, h3⟩
              · exact ⟨_, h3⟩

theorem Fit.turn {gk : Nat} (h : Fit none s) : FitOut none (turn gk s) := by
  have hp := h.plan (gk := gk)
  unfold Machine.turn
  split
  all_goals rename_i e; rw [e] at hp
  · exact FitOut.next hp
  · exact Fit.exec hp fun _ => rfl
  · obtain ⟨hi, c, hp⟩ := hp
    refine FitOut.afterward ?_ fun _ h => h.afterIssue
    rcases hi with hi | ⟨w, rfl⟩
    · exact hp.exec (by simp [hi])
    · exact hp.execReservedEncoding
  · obtain ⟨c, hp⟩ := hp
    exact hp.runIllegal.afterward fun _ h => h.afterIssue

theorem Fit.act (h : Fit none s) : FitOut none (act s) := by
  unfold Machine.act
  split
  · split
    · exact Fit.exec h.same fun _ => rfl
    · exact FitOut.next h.same
  · exact Fit.turn h.same
  · split
    · exact h.turn
    · exact FitOut.next h

theorem Fit.step (h : Fit none s) : FitOut none (step s) := h.tick.act.afterward fun _ h => h.dealSlots

end Sys2Proof.Machine
end

section

open Sys2Proof Sys2Proof.Machine Sys2Proof.Claims

/-- Settles O6: each function of the state keeps it sound, and so does the step made of them. -/
theorem soundKept : Obligations.SoundKept := by
  intro s t hs h
  exact sound_iff_fit.2 ((sound_iff_fit.1 hs).step t h)

end

section
/-! SUPPORT. The special registers: what the accepted forms of RDSR and WRSR name, and what their bodies do. -/

namespace Sys2Proof.Machine

open Sys2Proof.Claims

variable {o : Op} {s : State} {gk : Nat} {g : Gang} {m : Nat} {h : Hints} {n : Nat}

/-! ## What acceptance says of the form -/

theorem minSub_some_left (x : Nat) (y : Option Nat) : ∃ z, minSub (some x) y = some z := by
  cases y <;> exact ⟨_, rfl⟩

theorem Form.laneSub_illegal {f : Form} {x : Nat} (hf : f.illegal = some x) (imm : Option Nat) (ls : List Nat) (l : Nat) :
    ∃ z, f.laneSub imm g ls l = some z := by
  obtain ⟨y, hy⟩ := minSub_some_left x (minSubs (f.srcs.map fun p => p.staticSub imm))
  rw [Form.laneSub, hf, hy]
  exact minSub_some_left y _

theorem Accepts.illegal (A : Accepts o s gk g m h) (hu : o.form.uniform = false) : o.form.illegal = none := by
  by_contra hne
  obtain ⟨x, hx⟩ := Option.ne_none_iff_exists'.1 hne
  obtain ⟨l, hl⟩ := List.exists_mem_of_ne_nil _ A.some
  obtain ⟨z, hz⟩ := Form.laneSub_illegal hx h.imm (lanesOf m) l (g := o.reader g m)
  have he := A.operands
  simp only [Form.operandFaults, hu, Bool.false_eq_true, ↓reduceIte, List.filterMap_eq_nil_iff] at he
  simpa [hz] using he l hl

theorem Accepts.priv (A : Accepts o s gk g m h) : o.form.priv g = none := by
  have hc := A.check
  unfold Form.check at hc
  split at hc
  · cases hc
  · split at hc
    · cases hc
    · split at hc
      · cases hc
      · assumption

/-! ## The identifier -/

theorem srIllegal_immw (hn : h.imm = some n) (hi : srIllegal .immw h = none) : n ≤ 0x1C := by
  simpa [srIllegal, hn] using hi

theorem srWritable_of_srPriv (hn : h.imm = some n) (hi : srIllegal .immw h = none) (hp : srPriv .immw h g = none) : srWritable n g.level = true := by
  simpa [srPriv, srId, hn, srIllegal_immw hn hi] using hp

theorem immExt_toNat (hn : n ≤ 0x1C) : (immExt .u n).toNat = n := by
  simp only [immExt, word, BitVec.toNat_ofNat]
  omega

/-! ## RDSR -/

theorem Accepts.reader_rep (A : Accepts o s gk g m h) {l : Nat} (hl : l ∈ lanesOf m) : ((o.reader g m).th l).rep = (g.th l).rep :=
  (o.form.prepare_keeps g (lanesOf m) (by rw [A.whole]; exact (mem_lanesOf.1 hl).1)).2.1

/-- The register that the body of an accepted RDSR reads is the one of the manual. -/
theorem Accepts.readSr_eq (A : Accepts o s gk g m h) {l : Nat} (hl : l ∈ lanesOf m) :
    (o.begun s gk g m).readSr (o.given s gk g m h) l n = specialValue s g (lanesOf m) l n := by
  obtain ⟨_, hf, hm, hc⟩ := A.reader_th hl
  have hr := A.reader_rep hl
  have hg : (o.given s gk g m h).g = o.reader g m := rfl
  unfold State.readSr specialValue
  simp only [hg, hf, hm, hc, hr]
  rw [A.lanes]
  rfl

/-- What RDSR changes in a thread: the CLOCK latch, by a read of CLOCK (R222). -/
def latchClock (s : State) (n : Nat) (t : Thread) : Thread := if n = 0x0F then { t with clockhi := word (s.clock / 2 ^ 32) } else t

theorem latchClock_setsOnly : SetsOnly (latchClock s n) := by
  unfold latchClock
  split
  · exact ⟨fun _ => rfl, fun _ => rfl, fun _ => rfl, fun _ => rfl, fun t u e => ⟨(SetsOnly.none_.bare t u e).1, (SetsOnly.none_.bare t u e).2.1, rfl⟩⟩
  · exact SetsOnly.none_

theorem run_rdsr {nw : Bool} {d : Nat} (A : Accepts (opRdsr nw d .immw h) s gk g m h) (hn : h.imm = some n) (hd : d < 128) :
    ∃ t, execRdsr nw d .immw s = .next t ∧ Went s t gk g m (fun l => rdsrEnd s g (lanesOf m) nw d n l) noK := by
  have hle := srIllegal_immw hn (A.illegal rfl)
  have hval : ∀ l, (((opRdsr nw d .immw h).given s gk g m h).val l 0).toNat = n := fun l => by
    have : ((opRdsr nw d .immw h).given s gk g m h).val l 0 = immExt .u n := by
      simp only [Env.val, Op.given_vals]
      simp [opRdsr, View.vals, View.value, State.viewOf, hn]
    rw [this, immExt_toNat hle]
  have hbody : (opRdsr nw d .immw h).body ((opRdsr nw d .immw h).begun s gk g m) ((opRdsr nw d .immw h).given s gk g m h) =
      ((opRdsr nw d .immw h).begun s gk g m,
        (lanesOf m).map fun l => (l, .done { ws := [specialValue s g (lanesOf m) l n], set := latchClock s n })) := by
    refine Prod.ext rfl ?_
    change ((opRdsr nw d .immw h).given s gk g m h).lanes.map _ = _
    rw [A.lanes]
    refine List.map_congr_left fun l hl => ?_
    dsimp only
    rw [hval, A.readSr_eq hl]
    rfl
  obtain ⟨t, ht, hw⟩ := run_went (i := .rdsr nw d .immw) A hbody (fun _ => latchClock_setsOnly) (by
    intro l _ p hp
    cases nw <;> simp [Form.writes, opRdsr] at hp
    simp [hp, hd])
  refine ⟨t, ht, hw.congr (fun l hl => ?_) fun _ => rfl⟩
  obtain ⟨_, hf, hm, hc⟩ := A.reader_th hl
  refine ⟨fun k _ => ?_, rfl, ?_, ?_, ?_, rfl⟩
  · simp only [Form.endOf, rdsrEnd, LaneEnd.writes]
    rw [Form.lastTo_writes _ _ _ rfl]
    rfl
  all_goals
    simp only [Form.endOf, rdsrEnd, LaneEnd.writes, LaneEnd.on, latchClock]
    split <;> simp [hf, hm, hc]

/-! ## WRSR -/

theorem wrsr_val {b : Src} (hn : h.imm = some n) (hle : n ≤ 0x1C) (l : Nat) :
    (((opWrsr .immw b h).given s gk g m h).val l 0).toNat = n ∧
      ((opWrsr .immw b h).given s gk g m h).val l 1 = (opWrsr .immw b h).opnd s g m h .u l b := by
  have hvals : ((opWrsr .immw b h).given s gk g m h).vals l = [immExt .u n, (opWrsr .immw b h).opnd s g m h .u l b] := by
    rw [Op.given_vals]
    simp [opWrsr, View.vals, View.value, State.viewOf, hn, Op.opnd]
  simp [Env.val, hvals, immExt_toNat hle]

/-- Lanes that leave the state as it is. -/
theorem Chain.same : ∀ {ls : List Nat}, Chain (fun s _ t => t = s) s ls s
  | [] => rfl
  | _ :: _ => ⟨s, rfl, Chain.same⟩

theorem fpsWritten_setsOnly (w : Word) : SetsOnly fun t => { t with fps := fpsWritten w } :=
  ⟨fun _ => rfl, fun _ => rfl, fun _ => rfl, fun _ => rfl, fun t u e => ⟨rfl, (SetsOnly.none_.bare t u e).2⟩⟩

theorem run_wrsr_fps {b : Src} (A : Accepts (opWrsr .immw b h) s gk g m h) (hn : h.imm = some 0) :
    ∃ t, execWrsr .immw b s = .next t ∧
      Went s t gk g m (fun l => { LaneEnd.on (g.th l) with fps := (opWrsr .immw b h).opnd s g m h .u l b &&& 0x1F3F }) noK := by
  have hv := wrsr_val (s := s) (gk := gk) (g := g) (m := m) (b := b) hn (by omega)
  have hbody := inOrder_chain (f := fun s e l =>
      if (e.val l 0).toNat = 0 then (s, .done { set := fun t => { t with fps := fpsWritten (e.val l 1) } })
      else (s.mapCtx e.g.ctx fun c => c.writeSr (e.val l 0).toNat (e.val l 1), .done {}))
    (e := (opWrsr .immw b h).given s gk g m h) (link := fun s _ t => t = s)
    (d := fun l => { set := fun t => { t with fps := fpsWritten ((opWrsr .immw b h).opnd s g m h .u l b) } })
    (by
      rintro s' l t rfl
      simp only [hv, ↓reduceIte])
    (Chain.same (s := (opWrsr .immw b h).begun s gk g m))
  rw [A.lanes] at hbody
  obtain ⟨t, ht, hw⟩ := run_went (i := .wrsr .immw b) A hbody (fun _ => fpsWritten_setsOnly _) (by
    intro l _ p hp
    cases hp)
  refine ⟨t, ht, hw.congr (fun l hl => ?_) fun _ => rfl⟩
  obtain ⟨_, _, hm, hc⟩ := A.reader_th hl
  exact ⟨fun _ _ => rfl, rfl, rfl, hm.symm, hc.symm, rfl⟩

theorem loOf_pairOf (a b : Word) : loOf (pairOf a b) = a := BitVec.extractLsb'_append_eq_right

theorem hiOf_pairOf (a b : Word) : hiOf (pairOf a b) = b := BitVec.extractLsb'_append_eq_left

theorem lowHalf_twice (x : DWord) (w : Word) : lowHalf (lowHalf x w) w = lowHalf x w := by
  simp only [lowHalf, hiOf_pairOf]

theorem highHalf_twice (x : DWord) (w : Word) : highHalf (highHalf x w) w = highHalf x w := by
  simp only [highHalf, loOf_pairOf]

theorem Context.writeSr_twice (c : Context) (n : Nat) (w : Word) : (c.writeSr n w).writeSr n w = c.writeSr n w := by
  unfold Context.writeSr
  split <;> simp [lowHalf_twice, highHalf_twice]

theorem State.mapCtx_mapCtx (s : State) (k : Nat) (f f' : Context → Context) : (s.mapCtx k f).mapCtx k f' = s.mapCtx k fun c => f' (f c) := by
  simp only [State.mapCtx, Tbl.adjust, List.map_map]
  congr 1
  refine List.map_congr_left fun p _ => ?_
  simp only [Function.comp]
  split <;> simp_all

/-- Lanes that each write the same register of a context with the same value leave it written once. -/
theorem Chain.mapCtx {k : Nat} {f : Context → Context} {P : Nat → Prop} (hf : ∀ c, f (f c) = f c) {ls : List Nat} (hne : ls ≠ []) (hP : ∀ l ∈ ls, P l) :
    Chain (fun s l t => P l ∧ t = s.mapCtx k f) s ls (s.mapCtx k f) := by
  induction ls generalizing s with
  | nil => exact absurd rfl hne
  | cons l ls ih =>
    refine ⟨s.mapCtx k f, ⟨hP l List.mem_cons_self, rfl⟩, ?_⟩
    cases ls with
    | nil => rfl
    | cons l' ls =>
      have h := ih (s := s.mapCtx k f) (by simp) fun x hx => hP x (List.mem_cons_of_mem _ hx)
      simpa only [State.mapCtx_mapCtx, hf] using h

theorem run_wrsr_ctx {b : Src} {w : Word} (A : Accepts (opWrsr .immw b h) s gk g m h) (hn : h.imm = some n) (h0 : n ≠ 0)
    (hw : ∀ l ∈ lanesOf m, (opWrsr .immw b h).opnd s g m h .u l b = w) :
    ∃ t, execWrsr .immw b s = .next t ∧ WentOn s (s.mapCtx g.ctx fun c => c.writeSr n w) t gk g m (fun l => LaneEnd.on (g.th l)) noK := by
  have hv := wrsr_val (s := s) (gk := gk) (g := g) (m := m) (b := b) hn (srIllegal_immw hn (A.illegal rfl))
  obtain ⟨t, ht, hwent⟩ := run_chain (i := .wrsr .immw b) A (f := fun s e l =>
      if (e.val l 0).toNat = 0 then (s, .done { set := fun t => { t with fps := fpsWritten (e.val l 1) } })
      else (s.mapCtx e.g.ctx fun c => c.writeSr (e.val l 0).toNat (e.val l 1), .done {}))
    (link := fun s l t => l ∈ lanesOf m ∧ t = s.mapCtx g.ctx fun c => c.writeSr n w) (d := fun _ => {}) rfl (.refl _)
    (by
      rintro s' l t ⟨hl, rfl⟩
      simp only [hv, hw l hl, h0, ↓reduceIte]
      exact ⟨rfl, .of_gangs rfl⟩)
    (Chain.mapCtx (fun c => c.writeSr_twice n w) A.some fun _ hl => hl) (fun _ => SetsOnly.none_) (by
      intro l _ p hp
      cases hp)
  refine ⟨t, ht, ⟨hwent.self.congr (fun l hl => ?_) fun _ => rfl, ?_, hwent.others⟩⟩
  · obtain ⟨_, hf, hm, hc⟩ := A.reader_th hl
    exact ⟨fun _ _ => rfl, rfl, hf.symm, hm.symm, hc.symm, rfl⟩
  · exact (RestKept.setGang (s.mapCtx g.ctx fun c => c.writeSr n w) gk _).trans hwent.rest

/-- What an accepted WRSR of another register than FPSTATUS writes in its context. -/
theorem Accepts.writeSr_eq {b : Src} (A : Accepts (opWrsr .immw b h) s gk g m h) (hn : h.imm = some n) (h0 : n ≠ 0) (c : Context) (w : Word) :
    c.writeSr n w =
      if n = 0x12 then { c with ageMax := min (max w.toNat 64) 65535 }
      else if n = 0x18 then { c with regNext := pairOf (w &&& 0xFFFF0000) (hiOf c.regNext) }
      else if n = 0x19 then { c with regNext := pairOf (loOf c.regNext) (w &&& 0x7FFFFF) }
      else if n = 0x1A then { c with codeNext := pairOf (w &&& 0xFFFF0000) (hiOf c.codeNext) }
      else if n = 0x1B then { c with codeNext := pairOf (loOf c.codeNext) (w &&& 0x7FFFFF) }
      else { c with prio := w.toNat % 8 } := by
  have hw := srWritable_of_srPriv hn (A.illegal rfl) A.priv
  have hcase : n = 0x12 ∨ n = 0x18 ∨ n = 0x19 ∨ n = 0x1A ∨ n = 0x1B ∨ n = 0x1C := by
    simp [srWritable, h0] at hw
    omega
  rcases hcase with rfl | rfl | rfl | rfl | rfl | rfl <;> rfl

end Sys2Proof.Machine
end
section

open Sys2Proof Sys2Proof.Machine Sys2Proof.Claims

/-- Settles O14: the body of RDSR reads the register that the manual names, WRSR writes FPSTATUS lane by lane, and a register of the context once. -/
theorem specialRegisters : Obligations.SpecialRegisters := by
  unfold Obligations.SpecialRegisters
  intro o s gk g m h n hn
  refine ⟨fun nw d R => ?_, fun b R h0 => ?_, fun b w R h0 hw => ?_⟩
  · obtain rfl := Option.some.inj R.op
    exact run_rdsr R.acc hn (by simpa [Instr.wf, Src.wf] using R.wf)
  · obtain rfl := Option.some.inj R.op
    exact run_wrsr_fps R.acc (h0 ▸ hn)
  · obtain rfl := Option.some.inj R.op
    obtain ⟨t, ht, hwent⟩ := run_wrsr_ctx R.acc hn h0 hw
    simp only [R.acc.writeSr_eq hn h0] at hwent
    exact ⟨t, ht, hwent⟩

end

section
/-! SUPPORT. The end of an instruction whose lanes come to different ends: some complete, some take a fault, some wait. -/

namespace Sys2Proof.Machine

open Sys2Proof.Claims

variable {s : State} {gk : Nat} {g : Gang}

/-! ## Lanes that meetings leave alone -/

/-- Settling leaves a thread that is neither held nor parked. -/
theorem Gang.settle_same {l : Nat} (h : l < g.threads.length) (hr : (g.th l).run ≠ .held) (hp : (g.th l).parked = false) : g.settle.th l = g.th l := by
  have h1 : g.unparks l = false := by simp [Gang.unparks, hp]
  have h2 : (g.mapLanes ((List.range 32).filter g.unparks) fun t => { t with run := .run, wait := none }).th l = g.th l := by
    rw [g.th_mapLanes _ _ _ h, if_neg (by simp [h1])]
  unfold Gang.settle
  simp only [Gang.th_prune]
  rw [Gang.th_mapLanes _ _ _ _ (by simpa using h), h2]
  split
  · next hm =>
    simp only [List.mem_filter, h2, Bool.and_eq_true, beq_iff_eq] at hm
    exact absurd hm.2.1 hr
  · rfl

theorem Gang.mapLanes_nil (f : Thread → Thread) : g.mapLanes [] f = g := by
  have h : (g.threads.mapIdx fun l t => if ([] : List Nat).contains l then f t else t) = g.threads := by
    refine List.ext_getElem (by simp) fun n _ _ => ?_
    simp
  unfold Gang.mapLanes
  rw [h]

/-! ## Frozen sets (R310) -/

theorem FrozenAt.trans {a b c : Thread} (h : FrozenAt a b) (k : FrozenAt b c) : FrozenAt a c :=
  ⟨k.run, k.pc.trans h.pc, k.rep.trans h.rep, k.rcnt.trans h.rcnt, k.fps.trans h.fps, k.hints⟩

/-- From g to g' the lanes of a list freeze where they stand, and nothing else changes of registers and threads. -/
structure Froze (ls : List Nat) (g g' : Gang) : Prop where
  len : g'.threads.length = g.threads.length
  v : g'.v = g.v
  k : g'.k = g.k
  frozen : ∀ l ∈ ls, l < 32 → FrozenAt (g.th l) (g'.th l)
  same : ∀ l, l < 32 → l ∉ ls → g'.th l = g.th l

theorem Froze.nil : Froze [] g g := ⟨rfl, rfl, rfl, fun _ h => (List.not_mem_nil h).elim, fun _ _ _ => rfl⟩

theorem Froze.append {ls ms : List Nat} {g1 g2 : Gang} (a : Froze ls g g1) (b : Froze ms g1 g2) : Froze (ls ++ ms) g g2 := by
  refine ⟨b.len.trans a.len, b.v.trans a.v, b.k.trans a.k, fun l hl h32 => ?_, fun l h32 hl => ?_⟩
  · by_cases hm : l ∈ ms
    · by_cases hx : l ∈ ls
      · exact (a.frozen l hx h32).trans (b.frozen l hm h32)
      · exact a.same l h32 hx ▸ b.frozen l hm h32
    · rw [b.same l h32 hm]
      exact a.frozen l ((List.mem_append.1 hl).resolve_right hm) h32
  · simp only [List.mem_append, not_or] at hl
    rw [b.same l h32 hl.2, a.same l h32 hl.1]

theorem Froze.congr {ls ms : List Nat} {g' : Gang} (h : Froze ls g g') (e : ∀ l, l ∈ ls ↔ l ∈ ms) : Froze ms g g' :=
  ⟨h.len, h.v, h.k, fun l hl => h.frozen l ((e l).2 hl), fun l h32 hl => h.same l h32 fun hx => hl ((e l).1 hx)⟩

theorem State.freeze_froze (hg : s.gang? gk = some g) (hlen : g.threads.length = 32) (ls : List Nat) (f : Flt) :
    ∃ g', (s.freeze gk ls f).gang? gk = some g' ∧ Froze ls g g' := by
  obtain ⟨n, hn⟩ := s.freeze_gangs gk g ls f hg
  refine ⟨(g.freezeLanes ls n).closeIntervals, by unfold State.gang?; rw [hn]; simp, ?_⟩
  have hth : ∀ l, l < 32 → (g.freezeLanes ls n).closeIntervals.th l =
      if l ∈ ls then { (g.th l).dropLatches with run := .frozen, wait := none, fset := n } else g.th l := fun l h32 =>
    g.freezeLanes_th ls n (by omega)
  refine ⟨by simp [Gang.closeIntervals, Gang.closeIvs, Gang.freezeLanes], rfl, rfl, fun l hl h32 => ?_, fun l h32 hl => ?_⟩
  · rw [hth l h32, if_pos hl]
    exact ⟨rfl, rfl, rfl, rfl, rfl, rfl⟩
  · rw [hth l h32, if_neg hl]

theorem State.freezeGroups_froze (ps : List (List Nat × Flt)) : ∀ {s : State} {g : Gang}, s.gang? gk = some g → g.threads.length = 32 →
    ∃ g', (ps.foldl (fun s p => s.freeze gk p.1 p.2) s).gang? gk = some g' ∧ Froze (ps.flatMap (·.1)) g g' := by
  induction ps with
  | nil => exact fun hg _ => ⟨_, hg, .nil⟩
  | cons p ps ih =>
    intro s g hg hlen
    obtain ⟨g1, h1, f1⟩ := State.freeze_froze hg hlen p.1 p.2
    obtain ⟨g2, h2, f2⟩ := ih h1 (f1.len.trans hlen)
    exact ⟨g2, h2, f1.append f2⟩

/-- The lanes that fault are those of the frozen sets. -/
theorem mem_groupFaults (fs : List (Nat × Flt)) (l : Nat) : l ∈ (groupFaults fs).flatMap (·.1) ↔ l ∈ fs.map (·.1) := by
  -- a set holds every lane whose fault has its class and subcode
  have whole : ∀ (fs : List (Nat × Flt)), (∀ p ∈ groupFaults fs, ∀ x ∈ p.1, x ∈ fs.map (·.1)) ∧
      ∀ q ∈ fs, ∃ p ∈ groupFaults fs, q.1 ∈ p.1 ∧ q.2.cls = p.2.cls ∧ q.2.sub = p.2.sub := by
    intro fs
    induction fs with
    | nil => exact ⟨fun _ h => (List.not_mem_nil h).elim, fun _ h => (List.not_mem_nil h).elim⟩
    | cons q fs ih =>
      obtain ⟨n, f⟩ := q
      obtain ⟨ih1, ih2⟩ := ih
      rw [groupFaults]
      refine ⟨fun p hp x hx => ?_, fun q hq => ?_⟩
      · rcases List.mem_cons.1 hp with rfl | hp
        · rcases List.mem_cons.1 hx with rfl | hx
          · simp
          · obtain ⟨y, hy, rfl⟩ := List.mem_map.1 hx
            exact List.mem_cons_of_mem _ (List.mem_map_of_mem (List.mem_filter.1 hy).1)
        · exact List.mem_cons_of_mem _ (ih1 p (List.mem_filter.1 hp).1 x hx)
      · by_cases hs : q.2.cls = f.cls ∧ q.2.sub = f.sub
        · refine ⟨_, List.mem_cons_self, ?_, hs⟩
          rcases List.mem_cons.1 hq with rfl | hq
          · exact List.mem_cons_self
          · exact List.mem_cons_of_mem _ (List.mem_map_of_mem (List.mem_filter.2 ⟨hq, by simp [hs]⟩))
        · rcases List.mem_cons.1 hq with rfl | hq
          · exact absurd ⟨rfl, rfl⟩ hs
          · obtain ⟨p, hp, h1, h2, h3⟩ := ih2 q hq
            exact ⟨p, List.mem_cons_of_mem _ (List.mem_filter.2 ⟨hp, by simpa [h2, h3, imp_iff_not_or] using hs⟩), h1, h2, h3⟩
  constructor
  · intro h
    obtain ⟨p, hp, hx⟩ := List.mem_flatMap.1 h
    exact (whole fs).1 p hp l hx
  · intro h
    obtain ⟨q, hq, rfl⟩ := List.mem_map.1 h
    obtain ⟨p, hp, h1, -⟩ := (whole fs).2 q hq
    exact List.mem_flatMap.2 ⟨p, hp, h1⟩

theorem State.freezeAll_froze (hg : s.gang? gk = some g) (hlen : g.threads.length = 32) (fs : List (Nat × Flt)) :
    ∃ g', (s.freezeAll gk fs).gang? gk = some g' ∧ Froze (fs.map (·.1)) g g' := by
  obtain ⟨g', h1, h2⟩ := State.freezeGroups_froze (gk := gk) (groupFaults fs) hg hlen
  exact ⟨g', h1, h2.congr (mem_groupFaults fs)⟩

/-! ## The outcomes of lanes -/

/-- The registers that a lane's outcome writes. -/
def Form.outWrites (f : Form) : LaneOut → List (Nat × Word)
  | .done d => f.writes d
  | _ => []

/-- The fault of a lane's outcome. -/
def LaneOut.fault? : LaneOut → Option Flt
  | .fault x => some x
  | _ => none

/-- The thread that a lane's outcome leaves before faults are taken; n is the number of the gang's open interval. -/
def Form.outThread (f : Form) (hd : Held) (n l : Nat) (t : Thread) : LaneOut → Thread
  | .done d => f.threadAfter t d
  | .fault _ => t
  | .wait why extra => { t.dropLatches with run := .blocked, wait := some ⟨hd.insn, hd.hints, hd.vals l, extra, why, hd.clock, hd.iv.getD n⟩ }
  | .exit => t.toExited

/-- An outcome that does not end at the last word of the segment (R55). -/
def LaneOut.inside (t : Thread) : LaneOut → Prop
  | .done d => d.npc.isSome = true ∨ t.pc.toNat % 0x8000 ≠ 0x7FFC
  | _ => True

/-- From g to g' the lanes of a list have come to their outcomes. -/
structure Ended (f : Form) (hd : Held) (out : Nat → LaneOut) (ls : List Nat) (g g' : Gang) : Prop where
  len : g'.threads.length = g.threads.length
  k : g'.k = g.k
  ivs : g'.ivs = g.ivs
  th : ∀ l, l < 32 → g'.th l = if l ∈ ls then f.outThread hd g.openNum l (g.th l) (out l) else g.th l
  v : (∀ l ∈ ls, f.outWrites (out l) = []) → g'.v = g.v
  readV : ∀ l n, n < 128 → g'.readV l n = if l ∈ ls then (lastTo n (f.outWrites (out l))).getD (g.readV l n) else g.readV l n

theorem Gang.setTh_self {l : Nat} (h : l < g.threads.length) : g.setTh l (g.th l) = g := by
  have e : g.threads.set l (g.th l) = g.threads := by
    simp [Gang.th, List.getD_eq_getElem?_getD, List.getElem?_eq_getElem h]
  unfold Gang.setTh
  rw [e]

/-- One lane comes to its outcome. -/
theorem Form.settleLane_eq (f : Form) (hd : Held) {l : Nat} {o : LaneOut} (h : l < g.threads.length) (hi : o.inside (g.th l)) :
    f.settleLane hd g l o = ((g.writeAll l (f.outWrites o)).setTh l (f.outThread hd g.openNum l (g.th l) o), o.fault?) := by
  cases o with
  | done d => exact f.complete_eq g l d hi
  | fault x => exact Prod.ext (Gang.setTh_self h).symm rfl
  | wait why extra => rfl
  | exit => rfl

theorem Gang.writeAll_ivs (l : Nat) (ws : List (Nat × Word)) : ∀ g : Gang, (g.writeAll l ws).ivs = g.ivs := by
  induction ws with
  | nil => exact fun _ => rfl
  | cons p ws ih => exact fun g => ih (g.writeV l p.1 p.2)

/-- One lane's outcome, with the faults so far. -/
def Form.settleStep (f : Form) (hd : Held) (acc : Gang × List (Nat × Flt)) (o : Nat × LaneOut) : Gang × List (Nat × Flt) :=
  let r := f.settleLane hd acc.1 o.1 o.2
  (r.1, match r.2 with | some x => acc.2 ++ [(o.1, x)] | none => acc.2)

theorem Form.settleLanes_eq (f : Form) (hd : Held) (g : Gang) (outs : List (Nat × LaneOut)) :
    f.settleLanes hd g outs = outs.foldl (f.settleStep hd) (g, []) := rfl

theorem Form.settleStep_eq (f : Form) (hd : Held) (g : Gang) (fs : List (Nat × Flt)) (o : Nat × LaneOut) :
    f.settleStep hd (g, fs) o = ((f.settleLane hd g o.1 o.2).1, fs ++ ((f.settleLane hd g o.1 o.2).2.map fun x => (o.1, x)).toList) := by
  unfold Form.settleStep
  rcases f.settleLane hd g o.1 o.2 with ⟨g', _ | x⟩ <;> simp

theorem Form.settleSteps_eq (f : Form) (hd : Held) (outs : List (Nat × LaneOut)) : ∀ (g : Gang) (fs : List (Nat × Flt)),
    outs.foldl (f.settleStep hd) (g, fs) = ((f.settleLanes hd g outs).1, fs ++ (f.settleLanes hd g outs).2) := by
  induction outs with
  | nil => intro g fs; simp [Form.settleLanes]
  | cons o t ih =>
    intro g fs
    rw [Form.settleLanes_eq, List.foldl_cons, List.foldl_cons, f.settleStep_eq, f.settleStep_eq, ih, ih]
    simp

/-- The lanes come to their outcomes one after the other. -/
theorem Form.settleLanes_cons (f : Form) (hd : Held) (g : Gang) (l : Nat) (o : LaneOut) (outs : List (Nat × LaneOut)) :
    f.settleLanes hd g ((l, o) :: outs) = ((f.settleLanes hd (f.settleLane hd g l o).1 outs).1,
      ((f.settleLane hd g l o).2.map fun x => (l, x)).toList ++ (f.settleLanes hd (f.settleLane hd g l o).1 outs).2) := by
  rw [f.settleLanes_eq, List.foldl_cons, f.settleStep_eq, f.settleSteps_eq]
  simp

theorem Form.settleLanes_ended (f : Form) (hd : Held) (out : Nat → LaneOut) (ls : List Nat) (hn : ls.Nodup) (h32 : ∀ l ∈ ls, l < 32)
    (hw : ∀ l ∈ ls, ∀ p ∈ f.outWrites (out l), p.1 < 128) : ∀ {g : Gang}, g.threads.length = 32 → (∀ l ∈ ls, (out l).inside (g.th l)) →
    Ended f hd out ls g (f.settleLanes hd g (ls.map fun l => (l, out l))).1 ∧
      (f.settleLanes hd g (ls.map fun l => (l, out l))).2 = ls.filterMap fun l => (out l).fault?.map fun x => (l, x) := by
  induction ls with
  | nil => exact fun _ _ => ⟨⟨rfl, rfl, rfl, fun _ _ => rfl, fun _ => rfl, fun _ _ _ => rfl⟩, rfl⟩
  | cons x t ih =>
    intro g hlen hi
    obtain ⟨hx, hnt⟩ := List.nodup_cons.1 hn
    have hxl : x < g.threads.length := hlen ▸ h32 x List.mem_cons_self
    have hwx := hw x List.mem_cons_self
    rw [List.map_cons, Form.settleLanes_cons, f.settleLane_eq hd hxl (hi x List.mem_cons_self)]
    -- the gang after the first lane
    generalize hg1 : (g.writeAll x (f.outWrites (out x))).setTh x (f.outThread hd g.openNum x (g.th x) (out x)) = g1
    have len1 : g1.threads.length = g.threads.length := by simp [← hg1]
    have ivs1 : g1.ivs = g.ivs := by rw [← hg1]; exact Gang.writeAll_ivs x _ g
    have k1 : g1.k = g.k := by simp [← hg1]
    have th1 : ∀ l, g1.th l = if x = l then f.outThread hd g.openNum x (g.th x) (out x) else g.th l := fun l => by
      rw [← hg1, Gang.th_setTh _ _ _ (by simpa using hxl), Gang.th_writeAll]
    have readV1 : ∀ l n, n < 128 → g1.readV l n = if x = l then (lastTo n (f.outWrites (out x))).getD (g.readV l n) else g.readV l n := fun l n hn => by
      rw [← hg1, Gang.readV_congr (Gang.setTh_v _ x _) l n, Gang.readV_writeAll _ _ _ hwx _ _ hn]
    have other1 : ∀ l ∈ t, g1.th l = g.th l := fun l hl => by
      rw [th1, if_neg (ne_of_mem_of_not_mem hl hx).symm]
    obtain ⟨e, ef⟩ := ih hnt (fun l hl => h32 l (List.mem_cons_of_mem _ hl)) (fun l hl => hw l (List.mem_cons_of_mem _ hl)) (len1.trans hlen)
      fun l hl => other1 l hl ▸ hi l (List.mem_cons_of_mem _ hl)
    have num1 : g1.openNum = g.openNum := by unfold Gang.openNum; rw [ivs1]
    refine ⟨⟨e.len.trans len1, e.k.trans k1, e.ivs.trans ivs1, fun l hl => ?_, fun h => ?_, fun l n hn => ?_⟩, ?_⟩
    · rw [e.th l hl, th1 l, num1]
      by_cases hlx : x = l
      · subst hlx
        simp [hx]
      · simp [hlx, Ne.symm hlx]
    · rw [e.v fun l hl => h l (List.mem_cons_of_mem _ hl), ← hg1, h x List.mem_cons_self]
      rfl
    · rw [e.readV l n hn, readV1 l n hn]
      by_cases hlx : x = l
      · subst hlx
        simp [hx]
      · simp [hlx, Ne.symm hlx]
    · rw [ef]
      cases hf : (out x).fault? <;> simp [hf]

/-! ## The end of the instruction -/

/-- What an instruction's end makes of the thread a of a lane with an outcome: b. -/
def LaneCame (f : Form) (a b : Thread) : LaneOut → Prop
  | .done d => b = f.threadAfter a d
  | .fault _ => FrozenAt a b
  | .wait why _ => b.run = .blocked ∧ b.pc = a.pc ∧ b.rep = a.rep ∧ ∃ p, b.wait = some p ∧ p.why = why
  | .exit => True

/-- What an instruction's end makes of its gang g: g'. -/
structure Came (f : Form) (out : Nat → LaneOut) (ls : List Nat) (g g' : Gang) : Prop where
  len : g'.threads.length = 32
  lanes : ∀ l ∈ ls, LaneCame f (g.th l) (g'.th l) (out l)
  others : ∀ l, l < 32 → l ∉ ls → ThreadKept (g.th l) (g'.th l)
  v : (∀ l ∈ ls, f.outWrites (out l) = []) → g'.v = g.v
  readV : ∀ l n, n < 128 → g'.readV l n = if l ∈ ls then (lastTo n (f.outWrites (out l))).getD (g.readV l n) else g.readV l n
  k : (∀ l ∈ ls, ∀ d, out l = .done d → f.kWrites d = []) → g'.k = g.k

theorem mem_faults {out : Nat → LaneOut} {ls : List Nat} {l : Nat} :
    l ∈ (ls.filterMap fun l => (out l).fault?.map fun x => (l, x)).map (·.1) ↔ l ∈ ls ∧ (out l).fault? ≠ none := by
  simp only [List.mem_map, List.mem_filterMap, Option.map_eq_some_iff]
  constructor
  · rintro ⟨_, ⟨l, hl, x, hx, rfl⟩, rfl⟩
    exact ⟨hl, by simp [hx]⟩
  · rintro ⟨hl, hx⟩
    obtain ⟨x, hx⟩ := Option.ne_none_iff_exists'.1 hx
    exact ⟨(l, x), ⟨l, hl, x, hx, rfl⟩, rfl⟩

/-- The outcomes of which `Op.finish_ends` speaks: no lane exits, none waits as its instruction's other lanes do, and none ends at the last word of its segment. -/
structure Proper (f : Form) (out : Nat → LaneOut) (ls : List Nat) (g : Gang) : Prop where
  some : ls ≠ []
  nodup : ls.Nodup
  lt : ∀ l ∈ ls, l < 32
  inside : ∀ l ∈ ls, (out l).inside (g.th l)
  stays : ∀ l ∈ ls, out l ≠ .exit
  wait : ∀ l ∈ ls, ∀ why x, out l = .wait why x → why ≠ .access
  writes : ∀ l ∈ ls, ∀ p ∈ f.outWrites (out l), p.1 < 128
  joint : f.joint = true → (∀ l ∈ ls, (out l).waits = false) ∨ ∀ l ∈ ls, (out l).isDone = false

/-- After the lanes' outcomes the faults are taken and the meetings settled. -/
theorem Ended.came {f : Form} {hd : Held} {out : Nat → LaneOut} {ls : List Nat} {gE gF x : Gang} (P : Proper f out ls g) (hlen : g.threads.length = 32)
    (e : Ended f hd out ls g gE) (z : Froze ((ls.filterMap fun l => (out l).fault?.map fun x => (l, x)).map (·.1)) gE gF)
    (hx : x.threads = gF.settle.threads ∧ x.v = gF.v ∧ x.k = gF.k) : Came f out ls g x ∧ ∀ l ∈ ls, (gF.settle.th l).run ≠ .exited := by
  obtain ⟨x1, x2, x3⟩ := hx
  have lenF : gF.threads.length = 32 := z.len.trans (e.len.trans hlen)
  have lanes : ∀ l ∈ ls, LaneCame f (g.th l) (gF.settle.th l) (out l) ∧ (gF.settle.th l).run ≠ .exited := fun l hl => by
    have h32 := P.lt l hl
    have hE := e.th l h32
    rw [if_pos hl] at hE
    cases ho : out l with
    | done d =>
      have hF : gF.th l = f.threadAfter (g.th l) d := by
        rw [z.same l h32 fun h => (mem_faults.1 h).2 (by rw [ho]; rfl), hE, ho]
        rfl
      have hr : (gF.th l).run = .run := by rw [hF]; exact (f.threadAfter_keeps _ _).1
      rw [gF.settle_running (by omega) hr]
      exact ⟨hF, by rw [hr]; decide⟩
    | fault y =>
      have hz := z.frozen l (mem_faults.2 ⟨hl, by simp [ho, LaneOut.fault?]⟩) h32
      rw [gF.settle_frozen (by omega) hz.run]
      rw [hE, ho] at hz
      exact ⟨hz, by rw [hz.run]; decide⟩
    | wait why extra =>
      have hF : gF.th l = f.outThread hd g.openNum l (g.th l) (.wait why extra) := by
        rw [z.same l h32 fun h => (mem_faults.1 h).2 (by rw [ho]; rfl), hE, ho]
      have hp : (gF.th l).parked = false := by simp [hF, Form.outThread, Thread.parked, P.wait l hl why extra ho]
      have hr : (gF.th l).run = .blocked := by rw [hF]; rfl
      rw [Gang.settle_same (by omega) (by rw [hr]; decide) hp]
      exact ⟨by rw [hF]; exact ⟨rfl, rfl, rfl, _, rfl, rfl⟩, by rw [hr]; decide⟩
    | exit => exact absurd ho (P.stays l hl)
  refine ⟨⟨by rw [x1]; simpa using lenF, fun l hl => ?_, fun l h32 hl => ?_, fun h => ?_, fun l n hn => ?_, fun _ => ?_⟩, fun l hl => (lanes l hl).2⟩
  · rw [Gang.th_congr x1]
    exact (lanes l hl).1
  · have hF : gF.th l = g.th l := by
      rw [z.same l h32 fun h => hl (mem_faults.1 h).1, e.th l h32, if_neg hl]
    obtain ⟨q1, q2, q3, q4, q5, _⟩ := gF.settle_keeps (l := l) (by omega)
    rw [hF] at q1 q2 q3 q4 q5
    rw [Gang.th_congr x1]
    exact ⟨q1, q2, q3, q4, q5⟩
  · rw [x2, z.v, e.v h]
  · rw [Gang.readV_congr (x2.trans z.v), e.readV l n hn]
  · rw [x3, z.k, e.k]

theorem firstDone_mem {outs : List (Nat × LaneOut)} {d : Done} (h : firstDone outs = some d) : ∃ l, (l, .done d) ∈ outs := by
  induction outs with
  | nil => cases h
  | cons p outs ih =>
    obtain ⟨l, o⟩ := p
    cases o with
    | done d' => exact ⟨l, by cases h; exact List.mem_cons_self⟩
    | _ =>
      obtain ⟨l, hl⟩ := ih h
      exact ⟨l, List.mem_cons_of_mem _ hl⟩

/-- The gang with the k registers of the first lane that completes. -/
def Form.withK (f : Form) (g : Gang) (outs : List (Nat × LaneOut)) : Gang :=
  match firstDone outs with
  | some d => (f.kWrites d).foldl (fun g p => g.writeK p.1 p.2) g
  | none => g

theorem Form.withK_rest (f : Form) (g : Gang) (outs : List (Nat × LaneOut)) :
    (f.withK g outs).threads = g.threads ∧ (f.withK g outs).v = g.v := by
  unfold Form.withK
  split
  · exact Gang.writeKs_rest _ g
  · exact ⟨rfl, rfl⟩

theorem Form.withK_none (f : Form) (g : Gang) (out : Nat → LaneOut) (ls : List Nat) (h : ∀ l ∈ ls, ∀ d, out l = .done d → f.kWrites d = []) :
    f.withK g (ls.map fun l => (l, out l)) = g := by
  unfold Form.withK
  split
  · next d hd =>
    obtain ⟨l, hl⟩ := firstDone_mem hd
    obtain ⟨x, hx, e⟩ := List.mem_map.1 hl
    obtain ⟨rfl, ho⟩ := Prod.mk.inj e
    rw [h x hx d ho]
    rfl
  · rfl

theorem Came.withK {f : Form} {out : Nat → LaneOut} {ls : List Nat} {x : Gang}
    (h : Came f out ls (f.withK g (ls.map fun l => (l, out l))) x) : Came f out ls g x := by
  obtain ⟨h1, h2⟩ := f.withK_rest g (ls.map fun l => (l, out l))
  have hth : ∀ l, (f.withK g (ls.map fun l => (l, out l))).th l = g.th l := Gang.th_congr h1
  refine ⟨h.len, fun l hl => hth l ▸ h.lanes l hl, fun l h32 hl => hth l ▸ h.others l h32 hl, fun hv => (h.v hv).trans h2, fun l n hn => ?_,
    fun hk => (h.k hk).trans (by rw [f.withK_none g out ls hk])⟩
  rw [h.readV l n hn, Gang.readV_congr h2]

/-- The gang after the lanes' outcomes: the interval of a synchronising operation, the guard of a region, the lanes that wait for the others. -/
def Op.endGang (o : Op) (hd : Held) (g : Gang) (outs : List (Nat × LaneOut)) : Gang :=
  let g := if o.form.sync && outs.any (fun p => p.2.completes) then g.endInterval else g
  let g := if o.form.rbCls && outs.any (fun p => p.2.completes) then { g with guard := false } else g
  if o.form.joint && outs.any (fun p => p.2.waits) then g.park hd outs else g

/-- The faults taken, the meetings and barriers settled, and the issue slot kept or given up. -/
def Op.settleGang (o : Op) (s : State) (gk : Nat) (outs : List (Nat × LaneOut)) (hit : Bool) (g : Gang) (fs : List (Nat × Flt)) : State :=
  if outs.all (fun p => p.2.isDone) && fs.isEmpty && !hit && !o.form.sCls then s.setGang gk g.settle
  else
    let s := (((s.setGang gk g).freezeAll gk fs).mapGang gk Gang.settle).unattend gk
    let s := s.settleBarriers g.crew
    if outs.all (fun p => p.2.completes) && fs.isEmpty && !hit && !o.form.sCls && s.stillRuns gk then s else s.releaseSlot gk

theorem Op.finish_eq (o : Op) (hd : Held) (outs : List (Nat × LaneOut)) (hit : Bool) (hg : s.gang? gk = some g)
    (hmem : (o.form.mem && outs.any fun p => p.2.waits) = false) :
    o.finish s gk hd outs hit = o.settleGang s gk outs hit (o.endGang hd (o.form.settleLanes hd (o.form.withK g outs) outs).1 outs)
      (o.form.settleLanes hd (o.form.withK g outs) outs).2 := by
  unfold Op.finish
  simp only [hmem, Bool.false_eq_true, ↓reduceIte]
  rw [hg]
  rfl

theorem Op.endGang_same {o : Op} {hd : Held} {out : Nat → LaneOut} {ls : List Nat} {g0 : Gang} (P : Proper o.form out ls g0) (g : Gang) :
    (o.endGang hd g (ls.map fun l => (l, out l))).threads = g.threads ∧ (o.endGang hd g (ls.map fun l => (l, out l))).v = g.v ∧
      (o.endGang hd g (ls.map fun l => (l, out l))).k = g.k := by
  unfold Op.endGang
  extract_lets g1 g2
  have h2 : g2.threads = g.threads ∧ g2.v = g.v ∧ g2.k = g.k := by
    refine ⟨?_, ?_, ?_⟩ <;> (unfold g2 g1; split <;> split <;> rfl)
  clear_value g2
  split
  · next h =>
    obtain ⟨hj, hw⟩ := Bool.and_eq_true_iff.1 h
    rcases P.joint hj with hn | hn
    · simp only [List.any_map, List.any_eq_true, Function.comp] at hw
      obtain ⟨l, hl, hw⟩ := hw
      rw [hn l hl] at hw
      cases hw
    · have hnil : ((ls.map fun l => (l, out l)).filter fun p => p.2.isDone && (g2.th p.1).run == .run) = [] := by
        simp only [List.filter_eq_nil_iff, List.mem_map]
        rintro _ ⟨l, hl, rfl⟩
        simp [hn l hl]
      unfold Gang.park
      rw [hnil, List.map_nil, g2.mapLanes_nil]
      exact h2
  · exact h2

/-- Only schedules after the freezing: the state's rest, and every gang's threads and registers, stay. -/
theorem Op.settleGang_ends (o : Op) (s : State) (gk : Nat) (outs : List (Nat × LaneOut)) (hit : Bool) (fs : List (Nat × Flt)) (hlen : g.threads.length = 32)
    (hlive : ∀ gF, Froze (fs.map (·.1)) g gF → gF.settle.live ≠ []) :
    (∃ gF x, (o.settleGang s gk outs hit g fs).gang? gk = some x ∧ Froze (fs.map (·.1)) g gF ∧ x.threads = gF.settle.threads ∧ x.v = gF.v ∧ x.k = gF.k) ∧
      (fs = [] → RestKept s (o.settleGang s gk outs hit g fs)) := by
  unfold Op.settleGang
  split
  · next hc =>
    simp only [Bool.and_eq_true, List.isEmpty_iff] at hc
    obtain ⟨⟨⟨_, rfl⟩, _⟩, _⟩ := hc
    exact ⟨⟨g, g.settle, by simp, .nil, rfl, rfl, rfl⟩, fun _ => .setGang s gk _⟩
  · obtain ⟨gF, hF, z⟩ := State.freezeAll_froze (s := s.setGang gk g) (gk := gk) (by simp) hlen fs
    have hset : (((s.setGang gk g).freezeAll gk fs).mapGang gk Gang.settle).gang? gk = some gF.settle := by simp [hF]
    rw [State.unattend_live hset (hlive gF z)]
    extract_lets _ t
    have sched : SchedOnly (((s.setGang gk g).freezeAll gk fs).mapGang gk Gang.settle)
        (if (outs.all (fun p => p.2.completes) && fs.isEmpty && !hit && !o.form.sCls && t.stillRuns gk) = true then t else t.releaseSlot gk) := by
      refine SchedOnly.trans (State.settleBarriers_only _ g.crew) ?_
      split
      · exact .refl _
      · exact State.releaseSlot_only _ gk
    obtain ⟨x, hx, x1, x2, x3⟩ := sched.self gk _ hset
    refine ⟨⟨gF, x, hx, z, x1, x2, x3⟩, fun h => ?_⟩
    subst h
    exact ((RestKept.setGang s gk g).trans (.mapGang _ gk Gang.settle)).trans sched.rest

/-- THE END OF AN INSTRUCTION whose lanes come to different ends. -/
theorem Op.finish_ends (o : Op) (hd : Held) (out : Nat → LaneOut) (ls : List Nat) (hit : Bool) (hg : s.gang? gk = some g)
    (hlen : g.threads.length = 32) (P : Proper o.form out ls g) (hmem : (o.form.mem && (ls.map fun l => (l, out l)).any fun p => p.2.waits) = false) :
    (∃ g', (o.finish s gk hd (ls.map fun l => (l, out l)) hit).gang? gk = some g' ∧ Came o.form out ls g g') ∧
      ((∀ l ∈ ls, (out l).fault? = none) → RestKept s (o.finish s gk hd (ls.map fun l => (l, out l)) hit)) := by
  obtain ⟨k1, k2⟩ := o.form.withK_rest g (ls.map fun l => (l, out l))
  have lenK := (congrArg List.length k1).trans hlen
  have PK : Proper o.form out ls (o.form.withK g (ls.map fun l => (l, out l))) :=
    { P with inside := fun l hl => Gang.th_congr k1 l ▸ P.inside l hl }
  obtain ⟨e, ef⟩ := o.form.settleLanes_ended hd out ls P.nodup P.lt P.writes lenK PK.inside
  rw [o.finish_eq hd _ hit hg hmem, ef]
  obtain ⟨d1, d2, d3⟩ := Op.endGang_same (hd := hd) P (o.form.settleLanes hd (o.form.withK g (ls.map fun l => (l, out l))) (ls.map fun l => (l, out l))).1
  generalize o.endGang hd _ (ls.map fun l => (l, out l)) = gD at d1 d2 d3
  have came := fun (gF x : Gang) (z : Froze ((ls.filterMap fun l => (out l).fault?.map fun x => (l, x)).map (·.1)) gD gF) =>
    e.came PK lenK (gF := gF) (x := x) ⟨z.len.trans (by rw [d1]), z.v.trans d2, z.k.trans d3, fun l hl h32 => Gang.th_congr d1 l ▸ z.frozen l hl h32,
      fun l h32 hl => (z.same l h32 hl).trans (Gang.th_congr d1 l)⟩
  have hlive : ∀ gF, Froze ((ls.filterMap fun l => (out l).fault?.map fun x => (l, x)).map (·.1)) gD gF → gF.settle.live ≠ [] := fun gF z => by
    obtain ⟨l, hl⟩ := List.exists_mem_of_ne_nil _ P.some
    refine List.ne_nil_of_mem (a := l) ?_
    simp only [Gang.live, List.mem_filter, List.mem_range]
    exact ⟨P.lt l hl, by simpa using (came gF gF.settle z ⟨rfl, rfl, rfl⟩).2 l hl⟩
  obtain ⟨⟨gF, x, hx, z, hxF⟩, hrest⟩ := o.settleGang_ends s gk (ls.map fun l => (l, out l)) hit _ (d1 ▸ e.len.trans lenK) hlive
  refine ⟨⟨x, hx, (came gF x z hxF).1.withK⟩, fun h => hrest ?_⟩
  rw [List.filterMap_eq_nil_iff]
  exact fun l hl => by rw [h l hl]; rfl

end Sys2Proof.Machine
end

section
/-! SUPPORT. An accepted instruction of which some lanes take a fault, or all wait. -/

namespace Sys2Proof.Machine

open Sys2Proof.Claims

variable {o : Op} {s : State} {gk : Nat} {g : Gang} {m : Nat} {h : Hints}

theorem Accepts.reader_keeps (A : Accepts o s gk g m h) {l : Nat} (hl : l < 32) :
    ((o.reader g m).th l).pc = (g.th l).pc ∧ ((o.reader g m).th l).rep = (g.th l).rep ∧ ((o.reader g m).th l).rcnt = (g.th l).rcnt ∧
      ((o.reader g m).th l).fps = (g.th l).fps ∧ ((o.reader g m).th l).clockhi = (g.th l).clockhi := by
  obtain ⟨h1, h2, h3, h4, _, h6, _⟩ := o.form.prepare_keeps g (lanesOf m) (l := l) (by rw [A.whole]; exact hl)
  exact ⟨h1, h2, h3, h4, h6⟩

theorem Accepts.reader_kept (A : Accepts o s gk g m h) {l : Nat} (hl : l < 32) : ThreadKept (g.th l) ((o.reader g m).th l) :=
  have ⟨h1, h2, h3, h4, h5⟩ := A.reader_keeps hl
  ⟨h1, h2, h3, h4, h5⟩

theorem ThreadKept.trans {a b c : Thread} (x : ThreadKept a b) (y : ThreadKept b c) : ThreadKept a c :=
  ⟨y.pc.trans x.pc, y.rep.trans x.rep, y.rcnt.trans x.rcnt, y.fps.trans x.fps, y.clockhi.trans x.clockhi⟩

/-- The thread of a lane of an accepted instruction that completes. -/
theorem Accepts.threadAfter_went (A : Accepts o s gk g m h) {l : Nat} (hl : l ∈ lanesOf m) {d : Done} (hs : SetsOnly d.set) :
    LaneWent (g.th l) (o.form.threadAfter ((o.reader g m).th l) d) (o.form.endOf (g.th l) ((o.reader g m).th l) d) := by
  have h32 := (mem_lanesOf.1 hl).1
  obtain ⟨p1, p2, p3, _⟩ := A.reader_keeps h32
  have p8 := o.form.prepare_hints g (lanesOf m) (l := l) (by rw [A.whole]; exact h32) hl
  obtain ⟨f1, f2, f3, f4, f5, f6, f7, f8⟩ := o.form.threadAfter_keeps ((o.reader g m).th l) d
  rw [hs.pc, p1] at f2 f7
  rw [hs.rep, p2] at f7
  rw [hs.rcnt, p3] at f8
  rw [hs.hints, p8] at f6
  exact ⟨f1, f2, f3, f4, f5, f6, f7, f8⟩

theorem LaneWent.congr {a b : Thread} {e e' : LaneEnd} (w : LaneWent a b e) (h : e'.pc = e.pc ∧ e'.fps = e.fps ∧ e'.mt = e.mt ∧ e'.clockhi = e.clockhi ∧
    e'.region = e.region) : LaneWent a b e' := by
  obtain ⟨h1, h2, h3, h4, h5⟩ := h
  exact ⟨w.run, by rw [h1, w.pc], by rw [h2, w.fps], by rw [h3, w.mt], by rw [h4, w.clockhi], w.hints, by rw [h5, h1, w.rep], by rw [h5, w.rcnt]⟩

/-- Two descriptions of the lanes that complete which agree on the 128 registers describe the same outcome. -/
theorem LanesFault.congr {t : State} {faults : Nat → Bool} {e e' : Nat → LaneEnd} (w : LanesFault t gk g m faults e)
    (he : ∀ l ∈ lanesOf m, (∀ n, n < 128 → (e' l).v n = (e l).v n) ∧ (e' l).pc = (e l).pc ∧ (e' l).fps = (e l).fps ∧ (e' l).mt = (e l).mt ∧
      (e' l).clockhi = (e l).clockhi ∧ (e' l).region = (e l).region) : LanesFault t gk g m faults e' := by
  obtain ⟨g', w1, w2, w3, w4, w5⟩ := w
  refine ⟨g', w1, w2, fun l hl => ?_, w4, fun l n h32 hn => ?_⟩
  · have h3 := w3 l hl
    split at h3
    · next hf => rw [if_pos hf]; exact h3
    · next hf => rw [if_neg hf]; exact h3.congr (he l hl).2
  · rw [w5 l n h32 hn]
    split
    · next hf => rw [(he l hf.1).1 n hn]
    · rfl

/-- What an accepted instruction may do with its lanes, each by itself: complete, take a fault, or wait. -/
theorem Accepts.proper (A : Accepts o s gk g m h) {out : Nat → LaneOut} (stays : ∀ l ∈ lanesOf m, out l ≠ .exit)
    (wait : ∀ l ∈ lanesOf m, ∀ why x, out l = .wait why x → why ≠ .access) (writes : ∀ l ∈ lanesOf m, ∀ p ∈ o.form.outWrites (out l), p.1 < 128)
    (joint : o.form.joint = true → (∀ l ∈ lanesOf m, (out l).waits = false) ∨ ∀ l ∈ lanesOf m, (out l).isDone = false) :
    Proper o.form out (lanesOf m) (o.reader g m) where
  some := A.some
  nodup := lanesOf_nodup m
  lt := fun _ hl => (mem_lanesOf.1 hl).1
  inside := fun l hl => by
    cases out l with
    | done d => exact .inr (by rw [(A.reader_keeps (mem_lanesOf.1 hl).1).1]; exact A.inside l hl)
    | _ => trivial
  stays := stays
  wait := wait
  writes := writes
  joint := joint

/-- An accepted instruction of which some lanes take a fault and the others complete. -/
theorem run_lanesFault {i : Instr} {op : Hints → Op} (A : Accepts (op h) s gk g m h) {faults : Nat → Bool} {fl : Nat → Flt} {d : Nat → Done}
    (hb : (op h).body (s.setGang gk ((op h).reader g m)) ((op h).env s gk g (lanesOf m) h) =
      (s.setGang gk ((op h).reader g m), (lanesOf m).map fun l => (l, if faults l then .fault (fl l) else .done (d l))))
    (hs : ∀ l, SetsOnly (d l).set) (hw : ∀ l ∈ lanesOf m, ∀ p ∈ (op h).form.writes (d l), p.1 < 128) (hk : ∀ l ∈ lanesOf m, (op h).form.kWrites (d l) = []) :
    ∃ t, run i op s = .next t ∧ LanesFault t gk g m faults fun l => (op h).form.endOf (g.th l) (((op h).reader g m).th l) (d l) := by
  have hwaits : ∀ l ∈ lanesOf m, (if faults l then LaneOut.fault (fl l) else .done (d l)).waits = false := fun l _ => by split <;> rfl
  have P := A.proper (out := fun l => if faults l then .fault (fl l) else .done (d l)) (fun l _ => by split <;> exact fun h => by cases h)
    (fun l _ why x hx => by split at hx <;> cases hx)
    (fun l hl => by
      split
      · exact fun _ h => (List.not_mem_nil h).elim
      · exact hw l hl) (fun _ => .inl hwaits)
  have hmem : ((op h).form.mem && ((lanesOf m).map fun l => (l, if faults l then LaneOut.fault (fl l) else .done (d l))).any fun p => p.2.waits) = false := by
    rw [Bool.and_eq_false_iff]
    refine .inr (List.any_eq_false.2 fun p hp => ?_)
    obtain ⟨l, hl, rfl⟩ := List.mem_map.1 hp
    rw [hwaits l hl]
    decide
  obtain ⟨⟨g', hg', c⟩, -⟩ := (op h).finish_ends ⟨i, h, ((op h).env s gk g (lanesOf m) h).vals, s.clock, none⟩ _ (lanesOf m)
    ((lanesOf m).any fun l => (g.th l).hitsPending (op h).form.vRegs (op h).form.kRegs)
    (s := s.setGang gk ((op h).reader g m)) (gk := gk) (by simp) (by simpa using A.whole) P hmem
  refine ⟨_, run_accepted A hb, g', hg', c.k fun l hl d' hd => ?_, fun l hl => ?_, fun l h32 hl => (A.reader_kept h32).trans (c.others l h32 hl), fun l n h32 hn => ?_⟩
  · split at hd
    · cases hd
    · cases hd
      exact hk l hl
  · have hc := c.lanes l hl
    split
    · next hf =>
      rw [if_pos hf] at hc
      obtain ⟨p1, p2, _, p4, _⟩ := A.reader_keeps (mem_lanesOf.1 hl).1
      exact ⟨hc.run, hc.pc.trans p1, hc.rep.trans p2, hc.fps.trans p4⟩
    · next hf =>
      rw [if_neg hf] at hc
      rw [hc]
      exact A.threadAfter_went hl (hs l)
  · rw [c.readV l n hn]
    by_cases hl : l ∈ lanesOf m
    · cases hf : faults l with
      | true => simp [hl, Form.outWrites, lastTo, Gang.readV_congr (Form.prepare_v _ g _)]
      | false => simp [hl, Form.outWrites, Form.endOf, Gang.readV_congr (Form.prepare_v _ g _)]
    · simp [hl, Gang.readV_congr (Form.prepare_v _ g _)]

/-- An accepted instruction, of registers alone, all of whose lanes wait. -/
theorem run_waits {i : Instr} {op : Hints → Op} (A : Accepts (op h) s gk g m h) {why : Nat → Wait} {x : Nat → List Word}
    (hb : (op h).body (s.setGang gk ((op h).reader g m)) ((op h).env s gk g (lanesOf m) h) =
      (s.setGang gk ((op h).reader g m), (lanesOf m).map fun l => (l, .wait (why l) (x l))))
    (hm : (op h).form.mem = false) (ha : ∀ l ∈ lanesOf m, why l ≠ .access) :
    ∃ t, run i op s = .next t ∧ MemKept s t ∧ Waits t gk g m why := by
  have P := A.proper (out := fun l => .wait (why l) (x l)) (fun l _ => by exact fun h => by cases h) (fun l hl w y hx => by cases hx; exact ha l hl)
    (fun l hl => fun _ h => (List.not_mem_nil h).elim) (fun _ => .inr fun _ _ => rfl)
  obtain ⟨⟨g', hg', c⟩, hrest⟩ := (op h).finish_ends ⟨i, h, ((op h).env s gk g (lanesOf m) h).vals, s.clock, none⟩ _ (lanesOf m)
    ((lanesOf m).any fun l => (g.th l).hitsPending (op h).form.vRegs (op h).form.kRegs)
    (s := s.setGang gk ((op h).reader g m)) (gk := gk) (by simp) (by simpa using A.whole) P (by rw [hm]; rfl)
  have hr := (RestKept.setGang s gk _).trans (hrest fun _ _ => rfl)
  refine ⟨_, run_accepted A hb, ⟨hr.mem, hr.fe, hr.tags, hr.poison⟩, rfl, g', hg', c.v fun _ _ => rfl, c.k fun l _ d hd => (by cases hd), fun l hl => ?_,
    fun l h32 hl => (A.reader_kept h32).trans (c.others l h32 hl)⟩
  obtain ⟨c1, c2, c3, c4⟩ := c.lanes l hl
  obtain ⟨p1, p2, _⟩ := A.reader_keeps (mem_lanesOf.1 hl).1
  exact ⟨c1, c2.trans p1, c3.trans p2, c4⟩

end Sys2Proof.Machine
end

section
/-! SUPPORT. The floating-point instructions as operations with flags, and the flow instructions that fault or wait. -/

namespace Sys2Proof.Machine

open Sys2Proof.Claims

variable {o : Op} {s : State} {gk : Nat} {g : Gang} {m : Nat} {h : Hints}

/-! ## Floating point (R107 to R116) -/

theorem word_toNat (x : Word) : word x.toNat = x := BitVec.ofNat_toNat ..

/-- The accumulator operand is the third operand of the manual (R95). -/
theorem accOpnd_vals (v : View) (d : Nat) (k : Kind) (l : Nat) : v.vals l (accOpnd h d k) = [v.value k l (thirdOf h d)] := by
  unfold accOpnd thirdOf
  split <;> rfl

theorem given_third {x y : Src} {kx ky k : Kind} {nw : Bool} {d ext : Nat} {f : Nat → Nat → Nat → FRes} (l : Nat) :
    ((fpu3 nw d (.src x kx) (.src y ky) (accOpnd h d k) ext f).given s gk g m h).val l 2 =
      (fpu3 nw d (.src x kx) (.src y ky) (accOpnd h d k) ext f).opnd s g m h k l (thirdOf h d) := by
  rw [Env.val, Op.given_vals]
  change ([_] ++ ([_] ++ (View.vals _ l (accOpnd h d k) ++ []))).getD 2 0 = _
  rw [accOpnd_vals]
  rfl

theorem fpu3_given {x y : Src} {kx ky k : Kind} {nw : Bool} {d ext : Nat} (f : Nat → Nat → Nat → FRes) {o : Op}
    (ho : o = fpu3 nw d (.src x kx) (.src y ky) (accOpnd h d k) ext f) (l : Nat) :
    some (d, nw, f (o.opnd s g m h kx l x).toNat (o.opnd s g m h ky l y).toNat (o.opnd s g m h k l (thirdOf h d)).toNat) =
      some (d, nw, f ((o.given s gk g m h).val l 0).toNat ((o.given s gk g m h).val l 1).toNat ((o.given s gk g m h).val l 2).toNat) := by
  subst ho
  rw [given_third]
  rfl

/-- The instruction is a floating-point operation whose results are those of the manual. -/
def IsFpu (i : Instr) (o : Op) (s : State) (gk : Nat) (g : Gang) (m : Nat) (h : Hints) : Prop :=
  ∃ (op : Hints → Op) (nw : Bool) (d : Nat) (srcs : List Opnd) (ext : Nat) (f : Env → Nat → FRes),
    op h = o ∧ exec i s = run i op s ∧ o = fpu nw d srcs ext f ∧ (i.wf = true → d < 128) ∧ ∀ l, fpResult h (readsOf o s g m h l) i = some (d, nw, f (o.given s gk g m h) l)

theorem isFpu_of_fpResult {i : Instr} (ho : opOf i h = some o) {l : Nat} {r : Nat × Bool × FRes} (hr : fpResult h (readsOf o s g m h l) i = some r) :
    IsFpu i o s gk g m h := by
  cases i with
  | fadd | fsub | fmul | fmin | fmax | fseq | fslt | fsle | fsun | badd2 | bmul2 | bmax2 | hadd2 | hmul2 | hmax2 | f2n | n2f | f2bf2 | f2h2 | bf2f | h2f =>
    cases ho
    exact ⟨_, _, _, _, _, _, rfl, rfl, rfl, fun w => (Laws.Encoding.wf3 w).1, fun _ => rfl⟩
  | fabs | rcp | sqrt | floor | frint | f2i =>
    cases ho
    exact ⟨_, _, _, _, _, _, rfl, rfl, rfl, fun w => (Laws.Encoding.wf2 w).1, fun _ => rfl⟩
  | fneg nw d a =>
    cases ho
    exact ⟨_, _, _, _, _, _, rfl, rfl, rfl, fun w => (Laws.Encoding.wf2 w).1, fun l => congrArg (fun x => some (d, nw, (⟨x, 0⟩ : FRes))) (BitVec.toNat_xor ..)⟩
  | rsq nw d a =>
    cases ho
    exact ⟨_, _, _, _, _, _, rfl, rfl, rfl, fun w => (Laws.Encoding.wf2 w).1, fun l => congrArg (fun x => some (d, nw, rsqRes x)) (word_toNat _).symm⟩
  | ex2 nw d a =>
    cases ho
    exact ⟨_, _, _, _, _, _, rfl, rfl, rfl, fun w => (Laws.Encoding.wf2 w).1, fun l => congrArg (fun x => some (d, nw, ex2Res x)) (word_toNat _).symm⟩
  | lg2 nw d a =>
    cases ho
    exact ⟨_, _, _, _, _, _, rfl, rfl, rfl, fun w => (Laws.Encoding.wf2 w).1, fun l => congrArg (fun x => some (d, nw, lg2Res x)) (word_toNat _).symm⟩
  | tanh nw d a =>
    cases ho
    exact ⟨_, _, _, _, _, _, rfl, rfl, rfl, fun w => (Laws.Encoding.wf2 w).1, fun l => congrArg (fun x => some (d, nw, tanhRes x)) (word_toNat _).symm⟩
  | i2f nw d a =>
    cases ho
    exact ⟨_, _, _, _, _, _, rfl, rfl, rfl, fun w => (Laws.Encoding.wf2 w).1, fun l => congrArg (fun x => some (d, nw, ofIntRes h.rnd (sgn x))) (word_toNat _).symm⟩
  | fma nw d a b =>
    cases ho
    exact ⟨_, _, _, _, _, _, rfl, rfl, rfl, fun w => (Laws.Encoding.wf3 w).1, fpu3_given (fp32.fma h.rnd) rfl⟩
  | bfma2 nw d a b =>
    cases ho
    exact ⟨_, _, _, _, _, _, rfl, rfl, rfl, fun w => (Laws.Encoding.wf3 w).1, fpu3_given (packed3 (bf16.fma h.rnd)) rfl⟩
  | hfma2 nw d a b =>
    cases ho
    exact ⟨_, _, _, _, _, _, rfl, rfl, rfl, fun w => (Laws.Encoding.wf3 w).1, fpu3_given (packed3 (fp16.fma h.rnd)) rfl⟩
  | _ => cases hr

/-- The lanes of a floating-point instruction: a trap, or the result with the flags it raises (R26). -/
theorem Ready.fpu {i : Instr} {d : Nat} {nw : Bool} {r : Nat → FRes} (R : Ready i o s gk g m h)
    (hr : ∀ l ∈ lanesOf m, fpResult h (readsOf o s g m h l) i = some (d, nw, r l)) :
    ∃ op : Hints → Op, op h = o ∧ exec i s = run i op s ∧ d < 128 ∧ o.form.dst = .v d ∧ o.form.nw = nw ∧ o.form.rbCls = false ∧
      o.body (s.setGang gk (o.reader g m)) (o.env s gk g (lanesOf m) h) = (s.setGang gk (o.reader g m), (lanesOf m).map fun l =>
        (l, if (r l).flags &&& bitsAt (g.th l).fps.toNat 8 5 != 0 then .fault (fpFault (r l).flags)
          else .done { ws := [word (r l).bits], set := fun t => t.raise_ (r l).flags })) := by
  obtain ⟨l0, hl0⟩ := List.exists_mem_of_ne_nil _ R.acc.some
  obtain ⟨op, nw', d', srcs, ext, f, hop, hex, ho, hd, hf⟩ := isFpu_of_fpResult (s := s) (gk := gk) (g := g) (m := m) R.op (hr l0 hl0)
  have heq : ∀ l ∈ lanesOf m, d' = d ∧ nw' = nw ∧ f (o.given s gk g m h) l = r l := fun l hl => by
    have := (hf l).symm.trans (hr l hl)
    simpa using this
  obtain ⟨rfl, rfl, -⟩ := heq l0 hl0
  have hb : o.body = perLane fun e l => fpOut (e.g.th l) (word (f e l).bits) (f e l).flags := by rw [ho]; rfl
  refine ⟨op, hop, hex, hd R.wf, by rw [ho]; rfl, by rw [ho]; rfl, by rw [ho]; rfl, perLane_eq R.acc hb fun l hl => ?_⟩
  have hfps : ((o.given s gk g m h).g.th l).fps = (g.th l).fps := (R.acc.reader_th hl).2.1
  rw [(heq l hl).2.2]
  unfold fpOut Thread.traps
  rw [hfps]

theorem raise_setsOnly (n : Nat) : SetsOnly fun t => t.raise_ n :=
  ⟨fun _ => rfl, fun _ => rfl, fun _ => rfl, fun _ => rfl, fun t u e => by
    obtain ⟨h1, h2, h3⟩ := SetsOnly.none_.bare t u e
    exact ⟨congrArg (· ||| word (n % 64)) h1, h2, h3⟩⟩

theorem Ready.fpu_traps {i : Instr} {d n : Nat} {nw : Bool} {r : Nat → FRes} (R : Ready i o s gk g m h)
    (hr : ∀ l ∈ lanesOf m, fpResult h (readsOf o s g m h l) i = some (d, nw, r l))
    (hn : ∀ l ∈ lanesOf m, (r l).flags = n ∧ n &&& bitsAt (g.th l).fps.toNat 8 5 ≠ 0) :
    ∃ t, exec i s = .next t ∧ TakesFault s t gk g m ⟨cFp, n % 32, 0⟩ := by
  obtain ⟨op, rfl, hex, -, -, -, -, hb⟩ := R.fpu hr
  rw [hex]
  refine run_fault R.acc (hb.trans (Prod.ext rfl (List.map_congr_left fun l hl => ?_)))
  obtain ⟨h1, h2⟩ := hn l hl
  rw [h1, if_pos (by simpa using h2)]
  rfl

theorem Ready.fpu_some {i : Instr} {d : Nat} {nw : Bool} {r : Nat → FRes} (R : Ready i o s gk g m h)
    (hr : ∀ l ∈ lanesOf m, fpResult h (readsOf o s g m h l) i = some (d, nw, r l)) :
    ∃ t, exec i s = .next t ∧ LanesFault t gk g m (fun l => (r l).flags &&& bitsAt (g.th l).fps.toNat 8 5 != 0)
      fun l => { (LaneEnd.on (g.th l)).writes nw d [word (r l).bits] with fps := (g.th l).fps ||| word ((r l).flags % 64) } := by
  obtain ⟨op, rfl, hex, hd, hdst, hnw, hrb, hb⟩ := R.fpu hr
  rw [hex]
  obtain ⟨t, ht, hf⟩ := run_lanesFault (i := i) R.acc hb (fun l => raise_setsOnly _) (fun l _ p hp => by
    simp only [Form.writes, hdst, List.append_nil] at hp
    split at hp
    · cases hp
    · simp only [List.length_singleton, List.range_one, List.map_cons, List.map_nil, List.mem_singleton] at hp
      simpa [hp] using hd) (fun l _ => by simp [Form.kWrites, hdst])
  refine ⟨t, ht, hf.congr fun l hl => ?_⟩
  obtain ⟨_, p2, p3, p4⟩ := R.acc.reader_th hl
  refine ⟨fun k _ => ?_, rfl, ?_, p3.symm, p4.symm, hrb.symm⟩
  · simp only [Form.endOf, LaneEnd.writes]
    rw [Form.lastTo_writes _ _ _ rfl, hdst, hnw]
  · simp only [Form.endOf, Thread.raise_, p2]

/-! ## Flow (R55, R129 to R131, R137) -/

theorem dword_toNat (x : Word) : dword x.toNat = x.setWidth 64 := BitVec.ofNat_toNat ..

/-- A jump that leaves its segment faults (R55). -/
theorem jumpTo_leaves {pc x : Word} {d : Done} (h : x.toNat / 32768 ≠ pc.toNat / 32768) : jumpTo pc x d = .fault ⟨cCodeSeg, 1, x.setWidth 64⟩ := by
  rw [jumpTo, if_neg (by exact h), dword_toNat]

/-- The word of the first operand, where it is read as a source. -/
theorem given_val0 {a : Src} {k : Kind} {rest : List Opnd} (hs : o.form.srcs = .src a k :: rest) (l : Nat) :
    (o.given s gk g m h).val l 0 = o.opnd s g m h k l a := by
  rw [Env.val, Op.given_vals, hs]
  rfl

theorem Accepts.given_pc (A : Accepts o s gk g m h) {l : Nat} (hl : l ∈ lanesOf m) : ((o.given s gk g m h).g.th l).pc = (g.th l).pc :=
  (A.reader_th hl).1

/-- An accepted instruction that takes each lane by itself, and one fault in all of them. -/
theorem run_perLane_fault {i : Instr} {op : Hints → Op} {f : Env → Nat → LaneOut} {x : Flt} (A : Accepts (op h) s gk g m h) (hb : (op h).body = perLane f)
    (hf : ∀ l ∈ lanesOf m, f ((op h).given s gk g m h) l = .fault x) : ∃ t, run i op s = .next t ∧ TakesFault s t gk g m x :=
  run_fault A (perLane_eq A hb hf)

theorem branch_faults {i : Instr} {a : Src} {disp : Int} {takes : Word → Bool} {x : Word} (A : Accepts (branch a disp takes) s gk g m h)
    (ht : ∀ l ∈ lanesOf m, takes ((branch a disp takes).opnd s g m h .u l a) = true)
    (hx : ∀ l ∈ lanesOf m, relative (g.th l) disp = x ∧ x.toNat / 32768 ≠ (g.th l).pc.toNat / 32768) :
    ∃ t, run i (fun _ => branch a disp takes) s = .next t ∧ TakesFault s t gk g m ⟨cCodeSeg, 1, x.setWidth 64⟩ := by
  refine run_perLane_fault (op := fun _ => branch a disp takes) A rfl fun l hl => ?_
  obtain ⟨rfl, hne⟩ := hx l hl
  dsimp only
  rw [given_val0 rfl, ht l hl, A.given_pc hl]
  exact jumpTo_leaves hne

theorem call_faults {a : Src} {disp : Int} {x : Word} (A : Accepts (opCall a disp h) s gk g m h)
    (hx : ∀ l ∈ lanesOf m, relative (g.th l) disp = x ∧ x.toNat / 32768 ≠ (g.th l).pc.toNat / 32768) :
    ∃ t, exec (.call a disp) s = .next t ∧ TakesFault s t gk g m ⟨cCodeSeg, 1, x.setWidth 64⟩ := by
  refine run_perLane_fault (op := opCall a disp) A rfl fun l hl => ?_
  obtain ⟨rfl, hne⟩ := hx l hl
  dsimp only
  rw [A.given_pc hl]
  exact jumpTo_leaves hne

theorem jumpIndirect_faults {i : Instr} {a : Src} {x : Word} (A : Accepts (jumpIndirect a) s gk g m h)
    (hx : ∀ l ∈ lanesOf m, (jumpIndirect a).opnd s g m h .u l a = x) :
    (x.toNat % 4 ≠ 0 → ∃ t, run i (fun _ => jumpIndirect a) s = .next t ∧ TakesFault s t gk g m ⟨cAlign, 2, x.setWidth 64⟩) ∧
    (x.toNat % 4 = 0 → (∀ l ∈ lanesOf m, x.toNat / 32768 ≠ (g.th l).pc.toNat / 32768) →
      ∃ t, run i (fun _ => jumpIndirect a) s = .next t ∧ TakesFault s t gk g m ⟨cCodeSeg, 1, x.setWidth 64⟩) := by
  refine ⟨fun h4 => run_perLane_fault (op := fun _ => jumpIndirect a) A rfl fun l hl => ?_,
    fun h4 hne => run_perLane_fault (op := fun _ => jumpIndirect a) A rfl fun l hl => ?_⟩
  · dsimp only
    rw [given_val0 rfl, hx l hl, if_pos h4, dword_toNat]
  · dsimp only
    rw [given_val0 rfl, hx l hl, if_neg (by simp [h4]), A.given_pc hl]
    exact jumpTo_leaves (hne l hl)

theorem meet_faults {a : Src} {x : Word} (A : Accepts (opMeet a h) s gk g m h) (ha : a ≠ .immw) (hx : ∀ l ∈ lanesOf m, (opMeet a h).opnd s g m h .u l a = x)
    (h4 : x.toNat % 4 ≠ 0) (hn : x ≠ mtNone) : ∃ t, exec (.meet a) s = .next t ∧ TakesFault s t gk g m ⟨cAlign, 2, x.setWidth 64⟩ := by
  refine run_perLane_fault (op := opMeet a) A rfl fun l hl => ?_
  dsimp only
  rw [given_val0 rfl, hx l hl, if_neg ha, if_neg hn, if_pos h4, dword_toNat]

/-- Lanes in order that leave the state as it is. -/
theorem inOrder_same {f : State → Env → Nat → LaneOut} {e : Env} : inOrder (fun s e l => (s, f s e l)) s e = (s, e.lanes.map fun l => (l, f s e l)) := by
  have key : ∀ (ls : List Nat) (acc : List (Nat × LaneOut)),
      ls.foldl (fun (acc : State × List (Nat × LaneOut)) l => (acc.1, acc.2 ++ [(l, f acc.1 e l)])) (s, acc) = (s, acc ++ ls.map fun l => (l, f s e l)) := by
    intro ls
    induction ls with
    | nil => intro acc; simp
    | cons l ls ih => intro acc; rw [List.foldl_cons, ih]; simp
  exact key e.lanes []

/-- What a far transfer comes to in every lane of an instruction whose lanes name one address (R137). -/
theorem far_body {link : Bool} {a : Src} {rest : List Opnd} {x : Word} {out : LaneOut} (A : Accepts o s gk g m h)
    (hb : o.body = inOrder fun s e l => (s, farJump s e l link)) (hs : o.form.srcs = .src a .u :: rest)
    (hx : ∀ l ∈ lanesOf m, o.opnd s g m h .u l a = x)
    (hout : ∀ pc, (if x.toNat % 4 ≠ 0 then LaneOut.fault ⟨cAlign, 2, dword x.toNat⟩
      else match s.seg? g.core g.ctx (segOf x.toNat) with
        | none => .fault ⟨cCodeSeg, 3, dword x.toNat⟩
        | some y => match y.st with
          | .resident => .done { ws := if link then [pc + 4] else [], npc := some x }
          | .fetching => .wait (.segment (segOf x.toNat))
          | .faulted => .fault ⟨cCodeSeg, 4, y.va⟩
          | .refused => .fault ⟨cCodeSeg, 3, dword x.toNat⟩) = out) :
    o.body (s.setGang gk (o.reader g m)) (o.env s gk g (lanesOf m) h) = (s.setGang gk (o.reader g m), (lanesOf m).map fun l => (l, out)) := by
  rw [hb, inOrder_same, A.lanes]
  refine Prod.ext rfl (List.map_congr_left fun l hl => Prod.ext rfl ?_)
  rw [← hout ((o.given s gk g m h).g.th l).pc, ← hx l hl, ← given_val0 (gk := gk) hs l]
  rfl

/-- The faults and the wait of a far transfer (R137). -/
theorem far_stops {i : Instr} {op : Hints → Op} {link : Bool} {a : Src} {rest : List Opnd} {x : Word} (A : Accepts (op h) s gk g m h)
    (hb : (op h).body = inOrder fun s e l => (s, farJump s e l link)) (hs : (op h).form.srcs = .src a .u :: rest) (hm : (op h).form.mem = false)
    (hx : ∀ l ∈ lanesOf m, (op h).opnd s g m h .u l a = x) :
    (x.toNat % 4 ≠ 0 → ∃ t, run i op s = .next t ∧ TakesFault s t gk g m ⟨cAlign, 2, x.setWidth 64⟩) ∧
    (x.toNat % 4 = 0 →
      (s.seg? g.core g.ctx (x.toNat / 32768) = none → ∃ t, run i op s = .next t ∧ TakesFault s t gk g m ⟨cCodeSeg, 3, x.setWidth 64⟩) ∧
      ∀ y, s.seg? g.core g.ctx (x.toNat / 32768) = some y →
        (y.st = .refused → ∃ t, run i op s = .next t ∧ TakesFault s t gk g m ⟨cCodeSeg, 3, x.setWidth 64⟩) ∧
        (y.st = .faulted → ∃ t, run i op s = .next t ∧ TakesFault s t gk g m ⟨cCodeSeg, 4, y.va⟩) ∧
        (y.st = .fetching → ∃ t, run i op s = .next t ∧ MemKept s t ∧ Waits t gk g m (fun _ => .segment (x.toNat / 32768)))) := by
  simp only [← dword_toNat]
  refine ⟨fun h4 => run_fault A (far_body A hb hs hx fun _ => by rw [if_pos h4]), fun h4 => ⟨fun hy => ?_, fun y hy => ⟨fun hst => ?_, fun hst => ?_, fun hst => ?_⟩⟩⟩
  · exact run_fault A (far_body A hb hs hx fun _ => by rw [if_neg (by simp [h4]), segOf, hy])
  · exact run_fault A (far_body A hb hs hx fun _ => by rw [if_neg (by simp [h4]), segOf, hy]; simp only [hst])
  · exact run_fault A (far_body A hb hs hx fun _ => by rw [if_neg (by simp [h4]), segOf, hy]; simp only [hst])
  · exact run_waits (x := fun _ => []) A (far_body A hb hs hx fun _ => by rw [if_neg (by simp [h4]), segOf, hy]; simp only [hst]) hm fun _ _ => by simp

end Sys2Proof.Machine
end

section

open Sys2Proof Sys2Proof.Machine Sys2Proof.Claims

/-- Settles O16: the body of each of these instructions answers the fault, or the wait, in every lane, and the end of the instruction takes it. -/
theorem faultsInPlace : Obligations.FaultsInPlace := by
  unfold Obligations.FaultsInPlace
  refine ⟨fun i o s gk g m h d nw r n R hr => ⟨fun hn => R.fpu_traps hr hn, R.fpu_some hr⟩, fun i o s gk g m h x R => ⟨?_, ?_, ?_, ?_⟩⟩
  · rintro a disp (⟨rfl, h0⟩ | ⟨rfl, h0⟩ | rfl) hx
    · obtain rfl := Option.some.inj R.op
      exact branch_faults R.acc (fun l hl => beq_iff_eq.2 (h0 l hl)) hx
    · obtain rfl := Option.some.inj R.op
      exact branch_faults R.acc (fun l hl => bne_iff_ne.2 (h0 l hl)) hx
    · obtain rfl := Option.some.inj R.op
      exact call_faults R.acc hx
  · rintro a (rfl | rfl) hx
    · obtain rfl := Option.some.inj R.op
      exact jumpIndirect_faults R.acc hx
    · obtain rfl := Option.some.inj R.op
      exact jumpIndirect_faults R.acc hx
  · rintro a rfl ha hx h4 hn
    obtain rfl := Option.some.inj R.op
    exact meet_faults R.acc ha hx h4 hn
  · rintro a nw d (rfl | rfl) hx
    · obtain rfl := Option.some.inj R.op
      exact far_stops (op := opJf a) R.acc rfl rfl rfl hx
    · obtain rfl := Option.some.inj R.op
      exact far_stops (op := opCallf nw d a) R.acc rfl rfl rfl hx

end

section
/-! SUPPORT. Control space written by its owner: what a table holds after a write, what an emptied cache block leaves of the cores, what erased memory reads as. -/

namespace Sys2Proof.Machine

open Sys2Proof.Claims

variable {s : State}

/-! ## The owner's writes take effect -/

theorem State.ownerWrite_owner {who : Owner} (h : s.isOwner who = true) (f : State → State) : s.ownerWrite who f = f s := if_pos h

theorem State.ctlWrite_owner {who : Owner} (h : s.isOwner who = true) (w : CtlWrite) (hw : ∀ off n, w ≠ .read off n) :
    s.ctlWrite who w = s.writeCtl w := by
  unfold State.ctlWrite
  split
  · exact absurd rfl (hw _ _)
  · exact absurd rfl (hw _ _)
  · exact absurd h (by simp [State.isOwner])
  · exact State.ownerWrite_owner h _

theorem exec_controlSpaceWrite_owner {who : Owner} (h : s.isOwner who = true) {w : CtlWrite} (hw : ∀ off n, w ≠ .read off n) {P : State → Prop}
    (hp : P (s.writeCtl w)) : Yields (.controlSpaceWrite who w) s P := by
  refine ⟨s.writeCtl w, ?_, hp⟩
  show Host.Outcome.next (s.ctlWrite who w) = _
  rw [State.ctlWrite_owner h w hw]

/-! ## Tables after a write -/

theorem State.ten_mapTen {ten : Nat} {x : Tenancy} (h : s.tens.find? ten = some x) (f : Tenancy → Tenancy) : (s.mapTen ten f).ten ten = f x := by
  simp [State.ten, Tbl.at_, Tbl.find?_adjust, h]

theorem State.ten_mapTrust (ten : Nat) (f : Trust → Trust) : (s.mapTrust f).ten ten = s.ten ten := rfl

theorem Tbl.at_put {α : Type} (d : α) (t : Tbl α) (n : Nat) (a : α) : Tbl.at_ d (t.put n a) n = a := by
  simp [Tbl.at_]

theorem State.core_mapCore (k : Nat) (f : Core → Core) : (s.mapCore k f).core k = f (s.core k) := by
  simp [State.core]

theorem State.gangs_any_ctx (ctx : Nat) : (s.gangs.any fun p => p.2.ctx == ctx) = decide (∃ p ∈ s.gangs, p.2.ctx = ctx) := by
  rw [Bool.eq_iff_iff, List.any_eq_true, decide_eq_true_eq]
  simp only [beq_iff_eq]

/-- An aligned base below 2^55 is written as it stands (R28). -/
theorem base_aligned {x : DWord} (hr : x.toNat < 36028797018963968) (ha : x.toNat % 65536 = 0) : dword (x.toNat / 2 ^ 16 * 2 ^ 16 % 2 ^ 55) = x := by
  rw [show x.toNat / 2 ^ 16 * 2 ^ 16 % 2 ^ 55 = x.toNat by omega]
  exact BitVec.ofNat_toNat ..

/-! ## Emptied blocks and erased bytes -/

/-- Nothing but caches, tags and the intervals of gangs has changed. -/
def CachesOnly (s t : State) : Prop := ∃ gs ts ds, t = { s with gangs := gs, tags := ts, dies := ds }

theorem CachesOnly.refl (s : State) : CachesOnly s s := ⟨_, _, _, rfl⟩

theorem CachesOnly.trans {s t u : State} (a : CachesOnly s t) (b : CachesOnly t u) : CachesOnly s u := by
  obtain ⟨_, _, _, rfl⟩ := a
  obtain ⟨_, _, _, rfl⟩ := b
  exact ⟨_, _, _, rfl⟩

theorem CachesOnly.foldl {α : Type} {f : State → α → State} (h : ∀ s a, CachesOnly s (f s a)) : ∀ (l : List α) (s : State), CachesOnly s (l.foldl f s)
  | [], s => .refl s
  | a :: l, s => (h s a).trans (CachesOnly.foldl h l _)

theorem CachesOnly.cores {s t : State} (h : CachesOnly s t) : t.cores = s.cores := by
  obtain ⟨_, _, _, rfl⟩ := h
  rfl

theorem State.endTagged_cachesOnly (s : State) (a n : Nat) : CachesOnly s (s.endTagged a n) := by
  unfold State.endTagged
  refine .trans (.foldl (fun s t => ?_) _ s) ⟨_, _, _, rfl⟩
  split
  · exact ⟨_, _, _, rfl⟩
  · exact .refl s
  · exact ⟨_, _, _, rfl⟩

theorem State.homeFill_cachesOnly (s : State) (core ctx pa : Nat) (w : Bool) : CachesOnly s (s.homeFill core ctx pa w) := by
  unfold State.homeFill
  dsimp only
  split
  · split
    · exact ⟨_, _, _, rfl⟩
    · exact .refl s
  · refine .trans ?_ ⟨_, _, _, rfl⟩
    split
    · exact s.endTagged_cachesOnly _ _
    · exact .refl s

/-- Emptying the blocks of a core touches no core's settings, and leaves no line of that core at the boundary or above it (R258). -/
theorem State.emptyBlocks_core (s : State) (core : Nat) :
    (s.emptyBlocks core).core core = { s.core core with cache := (s.core core).cache.filter fun x => decide (x.way < (s.core core).boundary) } := by
  unfold State.emptyBlocks
  dsimp only
  rw [State.core_mapCore]
  have h := CachesOnly.cores (CachesOnly.foldl (f := fun (s : State) (x : Line) =>
    let s := s.endTagged x.addr 128
    if x.dirty && regionOf x.addr == .hbm then s.homeFill core x.ctx x.addr true else s) (fun s x => by
      dsimp only
      refine (s.endTagged_cachesOnly x.addr 128).trans ?_
      split
      · exact State.homeFill_cachesOnly ..
      · exact .refl _) (s.strayLines core) s)
  unfold State.core
  rw [h]

theorem Tbl.find?_filter_of_false {α : Type} (t : Tbl α) {f : Nat × α → Bool} {n : Nat} (h : ∀ a, f (n, a) = false) : Tbl.find? (t.filter f) n = none := by
  induction t with
  | nil => rfl
  | cons p t ih =>
    obtain ⟨k, a⟩ := p
    rw [List.filter_cons]
    split
    · next hf =>
      rw [Tbl.find?, if_neg, ih]
      rintro rfl
      simp [h a] at hf
    · exact ih

theorem readByte_eraseRange (m : List Host.Cell) {a n o : Nat} (h : o < n) : readByte (eraseRange m a n) (a + o) = 0 := by
  unfold readByte Tbl.at_ eraseRange
  rw [Tbl.find?_filter_of_false]
  · rfl
  · intro b
    simp
    omega

/-- What a change of QBLK of a core leaves, where no window holds a block that changes its role (R262). -/
theorem State.setQblk_done {core q : Nat} (hc : core < 160) (hq : q ≤ 8)
    (hfree : runFree (s.runsOn core) (128 - max (s.core core).qblk q) (max (s.core core).qblk q - min (s.core core).qblk q) = true) :
    ((s.setQblk core q).core core).qblk = q ∧ ∀ o, o < (max (s.core core).qblk q - min (s.core core).qblk q) * 65536 →
      readByte (s.setQblk core q).mem (vaultPa core (128 - max (s.core core).qblk q) 0 + o) = 0 := by
  have hno : ¬ (Config.cores ≤ core || 8 < q || !runFree (s.runsOn core) (128 - max (s.core core).qblk q) (max (s.core core).qblk q - min (s.core core).qblk q)) = true := by
    rw [hfree]
    simp [Config.cores]
    omega
  unfold State.setQblk
  rw [if_neg hno]
  refine ⟨?_, fun o ho => readByte_eraseRange _ ho⟩
  show ((State.emptyBlocks _ core).core core).qblk = q
  rw [State.emptyBlocks_core, State.core_mapCore, State.core_mapCore]

theorem State.setQblk_refused {core q : Nat} (h : 160 ≤ core ∨ 8 < q ∨
    runFree (s.runsOn core) (128 - max (s.core core).qblk q) (max (s.core core).qblk q - min (s.core core).qblk q) = false) : s.setQblk core q = s := by
  unfold State.setQblk
  rw [if_pos]
  obtain h | h | h := h
  · simp [Config.cores, h]
  · simp [h]
  · simp [h]

/-! ## Claim entries (R316) -/

theorem State.writeClaim_taken {ten entry owner ovec : Nat} {oq oep : DWord} {x : Tenancy} (hx : s.tens.find? ten = some x) (he : entry < 17)
    (ho : owner < 5) (hesc : ¬ (entry = 16 ∧ owner = 1))
    (hfree : owner = 0 ∨ (x.claims.at_ Claim.reset entry).owner = 0 ∨ (x.claims.at_ Claim.reset entry).owner = owner) :
    (s.writeClaim ten entry owner ovec oq oep).trust.claimBusy = false ∧
      ((s.writeClaim ten entry owner ovec oq oep).ten ten).claims.at_ Claim.reset entry =
        ⟨owner, ovec % 64, if owner = 2 ∨ owner = 3 then oq else 0, if owner = 2 ∨ owner = 3 then oep else 0⟩ := by
  have hten : s.ten ten = x := by simp [State.ten, Tbl.at_, hx]
  unfold State.writeClaim
  rw [if_neg (by simp [hx]; omega), hten]
  dsimp only
  rw [if_neg (by omega)]
  refine ⟨rfl, ?_⟩
  rw [State.ten_mapTrust, State.ten_mapTen hx, Tbl.at_put]
  simp

theorem State.writeClaim_busy {ten entry owner ovec : Nat} {oq oep : DWord} {x : Tenancy} (hx : s.tens.find? ten = some x) (he : entry < 17)
    (h : 5 ≤ owner ∨ (entry = 16 ∧ owner = 1) ∨
      (owner ≠ 0 ∧ (x.claims.at_ Claim.reset entry).owner ≠ 0 ∧ (x.claims.at_ Claim.reset entry).owner ≠ owner)) :
    s.writeClaim ten entry owner ovec oq oep = { s with trust := { s.trust with claimBusy := true } } := by
  have hten : s.ten ten = x := by simp [State.ten, Tbl.at_, hx]
  unfold State.writeClaim
  rw [if_neg (by simp [hx]; omega), hten]
  dsimp only
  rw [if_pos h]
  rfl

/-! ## Contexts and their tables -/

theorem State.writeCtl_context {ctx ten : Nat} {x : Tenancy} (hc : ctx < Config.contexts) (hx : s.tens.find? ten = some x)
    (hg : ∀ p ∈ s.gangs, p.2.ctx ≠ ctx) (hw : ∀ p ∈ s.crews, p.2.ctx ≠ ctx) :
    s.writeCtl (.context ctx ten) = { s with ctxs := s.ctxs.put ctx (Context.fresh ten), launches := s.launches.filter fun l => l.ctx != ctx } := by
  unfold State.writeCtl
  dsimp only
  rw [if_neg]
  simp only [Bool.or_eq_true, not_or, decide_eq_true_eq, List.any_eq_true, beq_iff_eq, not_exists, not_and, hx, Option.isNone_some]
  exact ⟨⟨⟨by omega, by simp⟩, hg⟩, hw⟩

theorem State.writeCtl_bases {ctx : Nat} {c : Context} {reg code : DWord} (hc : s.ctxs.find? ctx = some c) (hr : reg.toNat < 36028797018963968)
    (ho : code.toNat < 36028797018963968) (hra : reg.toNat % 65536 = 0) (hoa : code.toNat % 65536 = 0) :
    (s.writeCtl (.bases ctx reg code)).ctxs.find? ctx = some (if ∃ p ∈ s.gangs, p.2.ctx = ctx then { c with regNext := reg, codeNext := code }
      else { c with regNext := reg, codeNext := code, regBase := reg, codeBase := code }) := by
  show (s.setBases ctx reg code).ctxs.find? ctx = _
  unfold State.setBases
  simp only [State.mapCtx_ctxs, Tbl.find?_adjust, hc, ↓reduceIte, Option.map_some, base_aligned hr hra, base_aligned ho hoa, State.gangs_any_ctx]
  by_cases h : ∃ p ∈ s.gangs, p.2.ctx = ctx <;> simp [h]

theorem State.writeCtl_permission {ctx i : Nat} {c : Context} {lo vmask : DWord} (hc : s.ctxs.find? ctx = some c) (hi : i < 256) (hok : permOk lo = true) :
    (s.writeCtl (.permission ctx i lo vmask)) = s.mapCtx ctx (fun c => { c with perms := c.perms.put i ⟨lo, vmask, 0, 0⟩ }) ∧
      ((s.writeCtl (.permission ctx i lo vmask)).ctx ctx).perms.find? i = some ⟨lo, vmask, 0, 0⟩ := by
  have h : s.writeCtl (.permission ctx i lo vmask) = s.mapCtx ctx (fun c => { c with perms := c.perms.put i ⟨lo, vmask, 0, 0⟩ }) := by
    unfold State.writeCtl
    dsimp only
    rw [if_neg]
    simp [hok]
    omega
  refine ⟨h, ?_⟩
  rw [h, State.ctx_mapCtx _ _ _ (by simp [State.hasCtx, hc])]
  exact Tbl.find?_put_same _ _ _

end Sys2Proof.Machine
end

section
/-! THEOREMS. Control space (O54). -/

open Sys2Proof Sys2Proof.Machine Sys2Proof.Claims

/-- Settles O54. The owner's write is the write itself; each clause is then the lemma about its register. -/
theorem controlSpace : Obligations.ControlSpace := by
  unfold Obligations.ControlSpace
  intro s who hown
  have write {i : Instr} {f : State → State} {P : State → Prop} (hi : exec i s = .next (s.ownerWrite who f)) (hp : P (f s)) : Yields i s P :=
    ⟨f s, by rw [hi, State.ownerWrite_owner hown], hp⟩
  have ctl {w : CtlWrite} {P : State → Prop} (hw : ∀ off n, w ≠ .read off n) (hp : P (s.writeCtl w)) : Yields (.controlSpaceWrite who w) s P :=
    exec_controlSpaceWrite_owner hown hw hp
  refine ⟨?_, ?_, ?_, ?_, ?_, ?_, ?_⟩
  case _ =>
    intro ten entry owner ovec oq oep x hx he c
    exact ⟨fun ⟨ho, hesc, hfree⟩ => write rfl (State.writeClaim_taken hx he ho hesc hfree), fun h => write rfl (State.writeClaim_busy hx he h)⟩
  case _ =>
    intro ctx cls value hctx
    refine ⟨fun hcls hal => write rfl ?_, fun h => write rfl (if_pos h)⟩
    rw [if_neg (by omega)]
    refine ⟨rfl, ?_⟩
    rw [State.ctx_mapCtx _ _ _ hctx]
    exact Tbl.at_set_same _ _ _ _
  case _ =>
    intro core q old
    exact ⟨fun hc hq hfree => write rfl (State.setQblk_done hc hq hfree), fun h => write rfl (State.setQblk_refused h)⟩
  case _ =>
    intro ctx ten x hc hx hg hw
    refine ctl nofun ?_
    rw [State.writeCtl_context hc hx hg hw]
    refine ⟨rfl, Tbl.find?_put_same _ _ _, fun l hl => ?_⟩
    simpa using (List.mem_filter.1 hl).2
  case _ =>
    intro ctx c reg code hc hr ho hra hoa
    exact ctl nofun ⟨rfl, State.writeCtl_bases hc hr ho hra hoa⟩
  case _ =>
    intro ctx c i lo vmask hc
    refine ⟨fun hi hok => ctl nofun ?_, fun hok => ctl nofun (if_pos (.inr hok))⟩
    obtain ⟨h, hp⟩ := State.writeCtl_permission (vmask := vmask) hc hi hok
    exact ⟨by rw [h]; rfl, hp⟩
  case _ =>
    intro watts
    refine ctl nofun ?_
    unfold State.writeCtl
    dsimp only
    show (if 1200 ≤ watts ∧ watts ≤ 2800 then _ else s) = _
    split <;> rfl

end

section
/-! SUPPORT. A gang whose image records a thread as HELD, which its return releases. -/

namespace Sys2Proof.Machine

open Sys2Proof.Claims

/-- The lone task switched out, with page tables that map its record at 0x10000000. The record's lane states are zero, but that thread 0 is recorded as HELD, with meeting address 0. -/
def heldImage : State :=
  ((((State.reset.loneTask 0).mapGang 2 fun g => { g with resid := .switched }).mapCtx 0 fun c => { c with ptroot := 0x8000, regBase := 0x10000000, regNext := 0x10000000 }).store
    0x8000 (bytesOf 8 0x10001)).store 0x10000 (bytesOf 8 0x1C7) |>.store 0x10004214 [1]

/-- Its gang. -/
def heldGang : Gang := ((heldImage.gang? 2).getD (handlerGang 0 0 0 0 ⟨0, 0, 0, 0, 0, 0, 0, 0, 0, 0, false, false, 0, 0, 0, 0, 0, 0, 0, 0, none, 0⟩ 0))

theorem heldImage_roomFor : RoomFor heldImage 0 0 heldGang := by constructor <;> decide

theorem heldImage_loneGang : LoneGang heldImage 0 0 2 heldGang .switched := by constructor <;> decide

theorem heldImage_mapped : (heldImage.loadEps 0).hasImage heldGang = true ∧
    (heldImage.loadEps 0).kernelPa 0 ((heldImage.loadEps 0).recVa heldGang + dword 0x4180) 0x480 = some (0x10000000 + 0x4180) ∧
    ((heldImage.loadEps 0).recVa heldGang + dword 0x4180).toNat % 524288 + 0x480 ≤ 524288 := by decide

/-- The meeting address that the image records for thread 0. -/
theorem heldImage_recorded : laneAt (heldImage.loadEps 0) 0x10000000 0 1 = 0 := by decide

set_option maxRecDepth 100000 in
/-- The meeting rule holds no thread at address 0 there, so the return of the gang releases thread 0, whose meeting address is cleared (R18). -/
theorem heldImage_returned : ((heldImage.returnCtx 0 0).gang? 2).map (fun g => (g.th 0).mt) = some mtNone := by decide

theorem heldImage_resumes : exec (.switchedResume 0 0) heldImage = .next (heldImage.returnCtx 0 0) := by
  show Host.Outcome.next (if (heldImage.gangsAt 0 [0] .switched).isEmpty = true then heldImage else heldImage.returnCtx 0 0) = _
  rw [if_neg (by decide)]

end Sys2Proof.Machine
end

section
/-! THEOREMS. Residency (O43). -/

open Sys2Proof Sys2Proof.Machine Sys2Proof.Claims

/-- Refutes O43, in its clause on a gang that returns from a mapped record: a thread recorded as HELD that nothing holds any more is released as its gang returns, and its meeting address is then none, not the recorded one. -/
theorem not_residency : ¬ Obligations.Residency := by
  unfold Obligations.Residency
  rintro ⟨-, -, -, -, -, himage, -⟩
  obtain ⟨hi, hpa, hin⟩ := heldImage_mapped
  obtain ⟨t, ht, g', hg', -, hlanes⟩ := himage heldImage 0 0 2 0x10000000 heldGang heldImage_roomFor heldImage_loneGang hi hpa hin
  obtain ⟨hmt, -⟩ := hlanes 0 (by decide)
  obtain rfl : heldImage.returnCtx 0 0 = t := Host.Outcome.next.inj (heldImage_resumes.symm.trans ht)
  have hnone := heldImage_returned
  rw [hg', Option.map_some, hmt, heldImage_recorded] at hnone
  exact absurd hnone (by decide)

end

section
/-! SUPPORT. What the work of queues, commits, images, caches and register lines leaves of the tasks: no crew, no launch and no command of a module is changed, and no gang comes to another crew. -/

namespace Sys2Proof.Machine

-- one after the other, so that the whole text compiles within the memory that the check allows
set_option Elab.async false

open Sys2Proof.Claims

/-- The crews are kept, and every gang belongs where one belonged before. -/
structure CrewsKept (s t : State) : Prop where
  crews : t.crews = s.crews
  seats : ∀ p ∈ t.gangs, ∃ q ∈ s.gangs, q.2.crew = p.2.crew ∧ q.2.hslot = p.2.hslot

/-- The crews, the launches, the next key and the commands of modules are kept, and every gang belongs where one belonged before. -/
structure WorkKept (s t : State) : Prop extends CrewsKept s t where
  launches : t.launches = s.launches
  key : t.nextKey = s.nextKey
  modCmds : t.modCmds = s.modCmds

section
variable {s t u : State}

theorem CrewsKept.refl (s : State) : CrewsKept s s := ⟨rfl, fun p hp => ⟨p, hp, rfl, rfl⟩⟩

theorem CrewsKept.trans (a : CrewsKept s t) (b : CrewsKept t u) : CrewsKept s u := by
  refine ⟨b.crews.trans a.crews, fun p hp => ?_⟩
  obtain ⟨q, hq, h1, h2⟩ := b.seats p hp
  obtain ⟨r, hr, h3, h4⟩ := a.seats q hq
  exact ⟨r, hr, h3.trans h1, h4.trans h2⟩

theorem CrewsKept.of_eq (hc : t.crews = s.crews) (hg : t.gangs = s.gangs) : CrewsKept s t := ⟨hc, fun p hp => ⟨p, hg ▸ hp, rfl, rfl⟩⟩

theorem CrewsKept.crew? (h : CrewsKept s t) (k : Nat) : t.crew? k = s.crew? k := by unfold State.crew?; rw [h.crews]

theorem CrewsKept.foldl {α : Type} {f : State → α → State} (h : ∀ s a, CrewsKept s (f s a)) : ∀ (l : List α) (s : State), CrewsKept s (l.foldl f s)
  | [], s => .refl s
  | a :: l, s => (h s a).trans (CrewsKept.foldl h l _)

theorem WorkKept.refl (s : State) : WorkKept s s := ⟨.refl s, rfl, rfl, rfl⟩

theorem WorkKept.trans (a : WorkKept s t) (b : WorkKept t u) : WorkKept s u := ⟨a.toCrewsKept.trans b.toCrewsKept, b.launches.trans a.launches, b.key.trans a.key, b.modCmds.trans a.modCmds⟩

/-- A change of fields that no task stands in. -/
theorem WorkKept.of_eq (hc : t.crews = s.crews) (hg : t.gangs = s.gangs) (hl : t.launches = s.launches) (hk : t.nextKey = s.nextKey)
    (hm : t.modCmds = s.modCmds) : WorkKept s t :=
  ⟨.of_eq hc hg, hl, hk, hm⟩

theorem WorkKept.set (a : WorkKept s t) (hc : u.crews = t.crews) (hg : u.gangs = t.gangs) (hl : u.launches = t.launches) (hk : u.nextKey = t.nextKey)
    (hm : u.modCmds = t.modCmds) : WorkKept s u :=
  a.trans (.of_eq hc hg hl hk hm)

theorem WorkKept.foldl {α : Type} {f : State → α → State} (h : ∀ s a, WorkKept s (f s a)) : ∀ (l : List α) (s : State), WorkKept s (l.foldl f s)
  | [], s => .refl s
  | a :: l, s => (h s a).trans (WorkKept.foldl h l _)

theorem WorkKept.ite {c : Prop} [Decidable c] (a : WorkKept s t) (b : WorkKept s u) : WorkKept s (if c then t else u) := by
  split
  · exact a
  · exact b

/-- A change of every gang that brings none to another crew. -/
theorem WorkKept.mapGangs (s : State) (f : Nat × Gang → Nat × Gang) (h : ∀ p, (f p).2.crew = p.2.crew ∧ (f p).2.hslot = p.2.hslot) :
    WorkKept s { s with gangs := s.gangs.map f } := by
  refine ⟨⟨rfl, fun p hp => ?_⟩, rfl, rfl, rfl⟩
  obtain ⟨q, hq, rfl⟩ := List.mem_map.1 hp
  exact ⟨q, hq, (h q).1.symm, (h q).2.symm⟩

theorem WorkKept.mapGang (s : State) (k : Nat) (f : Gang → Gang) (h : ∀ g, (f g).crew = g.crew ∧ (f g).hslot = g.hslot) : WorkKept s (s.mapGang k f) :=
  WorkKept.mapGangs s _ fun p => by split <;> [exact h p.2; exact ⟨rfl, rfl⟩]

end

/-! ## Images -/

theorem State.storeOver_work (s : State) (pa : Nat) (b : List Byte) : WorkKept s (s.storeOver pa b) := by
  obtain ⟨_, _, e, _⟩ := s.storeOver_rest pa b
  rw [e]
  exact .of_eq rfl rfl rfl rfl rfl

theorem State.storeLeaf_work (s : State) (at_ : Nat) (y : DWord) : WorkKept s (s.storeLeaf at_ y) := .ite (.refl s) (s.storeOver_work _ _)

theorem State.countRefusal_work (s : State) (pa n : Nat) : WorkKept s (s.countRefusal pa n) := by
  unfold State.countRefusal
  split
  · exact .ite (.of_eq rfl rfl rfl rfl rfl) (.refl s)
  · exact .refl s

theorem State.passHome_work (s : State) (ctx : Nat) (x : DWord) (pa n : Nat) (w : Bool) : WorkKept s (s.passHome ctx x pa n w) := .ite (.of_eq rfl rfl rfl rfl rfl) (.refl s)

theorem State.touchPage_work (s : State) (ctx : Nat) (va : DWord) (n : Nat) (a : Access) : WorkKept s (s.touchPage ctx va n a) := by
  unfold State.touchPage
  split
  · exact (s.storeLeaf_work _ _).trans (State.passHome_work ..)
  · exact s.countRefusal_work _ _
  · exact .refl s

theorem State.writePage_work (s : State) (ctx : Nat) (va : DWord) (b : List Byte) : WorkKept s (s.writePage ctx va b) := by
  unfold State.writePage
  split
  · exact .refl s
  · split
    · exact ((s.storeLeaf_work _ _).trans (State.storeOver_work ..)).trans (State.passHome_work ..)
    · exact s.countRefusal_work _ _
    · exact .of_eq rfl rfl rfl rfl rfl
    · exact .of_eq rfl rfl rfl rfl rfl
    · exact .refl s

theorem State.writeImage_work (s : State) (ctx : Nat) (va : DWord) (b : List Byte) : WorkKept s (s.writeImage ctx va b) :=
  (s.writePage_work _ _ _).trans (State.writePage_work ..)

/-! ## Commands and messages to modules and packages -/

theorem State.modCommand_work (s : State) (p : Nat) (r : ModReq) (st : Nat) (v : DWord) : WorkKept s (s.modCommand p r st v) := by
  unfold State.modCommand
  split
  · exact .of_eq rfl rfl rfl rfl rfl
  · exact .refl s

theorem State.carry_work (s : State) (peer : Nat) : WorkKept s (s.carry peer) := by
  unfold State.carry
  dsimp only
  split
  · exact .refl s
  · split
    · exact s.modCommand_work _ _ _ _
    · exact .refl s

theorem State.pairSend_work (s : State) (peer : Nat) (b : PairBody) : WorkKept s (s.pairSend peer b) := by
  unfold State.pairSend
  refine .trans ?_ (State.carry_work _ peer)
  exact .of_eq rfl rfl rfl rfl rfl

theorem State.relayAccess_work (s : State) (world pa kind : Nat) (b : List Byte) (n : Nat) (w : RelayWait) : WorkKept s (s.relayAccess world pa kind b n w) := by
  unfold State.relayAccess
  split
  · split
    · exact .refl s
    · split
      · exact (s.pairSend_work _ _).set rfl rfl rfl rfl rfl
      · exact .refl s
  · exact .refl s

theorem State.askAtomic_work (s : State) (world pa op w : Nat) (data cmp : DWord) (posted : Bool) (v : DWord) (who : RelayWait) :
    WorkKept s (s.askAtomic world pa op w data cmp posted v who) := by
  unfold State.askAtomic
  split
  · exact s.modCommand_work _ _ _ _
  · exact s.relayAccess_work _ _ _ _ _ _

/-! ## Queues -/

theorem State.setWord64_work (s : State) (pa x : Nat) : WorkKept s (s.setWord64 pa x) := s.storeOver_work _ _

theorem State.queueCommand_work (s : State) (w pa sub n : Nat) : WorkKept s (s.queueCommand w pa sub n) := by
  unfold State.queueCommand
  split
  · exact s.modCommand_work _ _ _ _
  · exact .refl s

theorem State.makeCommit_work (s : State) (c : QCommit) : WorkKept s (s.makeCommit c) := by
  unfold State.makeCommit
  split
  · exact .of_eq rfl rfl rfl rfl rfl
  · exact (s.queueCommand_work _ _ _ _).trans (.ite (State.setWord64_work _ _ _) (State.setWord64_work _ _ _))

theorem State.settleCommits_work (pa : Nat) : ∀ (fuel : Nat) (s : State), WorkKept s (s.settleCommits pa fuel)
  | 0, s => .refl s
  | fuel + 1, s => by
    unfold State.settleCommits
    split
    · exact .refl s
    · refine .trans (.trans ?_ (State.makeCommit_work _ _)) (State.settleCommits_work pa fuel _)
      exact .of_eq rfl rfl rfl rfl rfl

theorem State.commitLater_work (s : State) (c : QCommit) : WorkKept s (s.commitLater c) := by
  unfold State.commitLater
  refine .trans ?_ (State.settleCommits_work _ _ _)
  exact .of_eq rfl rfl rfl rfl rfl

theorem State.putBytes_work (s : State) (pa : Nat) (b : List Byte) : WorkKept s (s.putBytes pa b) := by
  unfold State.putBytes
  split
  · exact .of_eq rfl rfl rfl rfl rfl
  · exact .ite (.of_eq rfl rfl rfl rfl rfl) (.refl s)
  · exact .of_eq rfl rfl rfl rfl rfl

theorem State.reservePush_work (s : State) (pa slot : Nat) (item : List Byte) : WorkKept s (s.reservePush pa slot item) := by
  unfold State.reservePush
  refine .trans ?_ (State.setWord64_work _ _ _)
  exact (s.putBytes_work slot item).set rfl rfl rfl rfl rfl

theorem State.pushWhole_work {s t : State} {ctx : Nat} {crew : Option Nat} {q : Queue} {item : List Byte} (h : s.pushWhole ctx crew q item = some t) : WorkKept s t := by
  unfold State.pushWhole at h
  split at h
  · cases h
  · simp only at h
    split at h
    · cases h
    · cases h
      exact (((s.touchPage_work _ _ _ _).trans (State.queueCommand_work ..)).trans (State.reservePush_work ..)).trans (State.commitLater_work ..)

theorem State.pushService_work {s t : State} {die ctx : Nat} {crew : Option Nat} {r : List Byte} (h : s.pushService die ctx crew r = some t) : WorkKept s t := by
  unfold State.pushService at h
  split at h
  · cases h
  · exact (s.touchPage_work _ _ _ _).trans (State.pushWhole_work h)

/-! ## Sends -/

theorem State.countDrop_work (s : State) (ctx : Nat) : WorkKept s (s.countDrop ctx) := .ite (s.writeImage_work _ _ _) (.of_eq rfl rfl rfl rfl rfl)

theorem State.pushNotice_work {s t : State} {ten : Nat} {r : List Byte} (h : s.pushNotice ten r = some t) : WorkKept s t := by
  unfold State.pushNotice at h
  split at h
  · cases h
  · simp only at h
    split at h
    · cases h
    · rw [← Option.some.inj h]
      generalize hu : State.commitLater _ _ = u
      have hpush : WorkKept s u := hu ▸ (s.reservePush_work _ _ _).trans (State.commitLater_work _ _)
      exact .ite (hpush.set rfl rfl rfl rfl rfl) hpush

theorem State.notifyHost_work (s : State) (ctx tag : Nat) (w : Word) : WorkKept s (s.notifyHost ctx tag w) := by
  unfold State.notifyHost
  cases h : s.pushNotice (s.ctx ctx).tenancy (noticeRec w tag (epValue 0xFF ctx 0)) with
  | none => exact s.countDrop_work ctx
  | some t => exact State.pushNotice_work h

theorem State.sendUli_work (s : State) (agent ctx : Nat) (ep : DWord) (w : Word) : WorkKept s (s.sendUli agent ctx ep w) :=
  .ite (.ite (.of_eq rfl rfl rfl rfl rfl) (s.countDrop_work _)) (.ite (s.notifyHost_work _ _ _) (.ite (s.pairSend_work _ _) (s.countDrop_work _)))

/-! ## Intervals and caches -/

theorem State.closeUpTo_work (s : State) (n : Nat) : WorkKept s (s.closeUpTo n) := .mapGangs s _ fun _ => ⟨rfl, rfl⟩

theorem State.closeNamed_work (s : State) (a e : Nat) : WorkKept s (s.closeNamed a e) := .mapGangs s _ fun p => by split <;> exact ⟨rfl, rfl⟩

theorem State.endTagged_work (s : State) (a n : Nat) : WorkKept s (s.endTagged a n) := by
  unfold State.endTagged
  refine .trans (.foldl (fun s t => ?_) _ s) (.of_eq rfl rfl rfl rfl rfl)
  split
  · exact s.closeUpTo_work _
  · exact .refl s
  · exact s.closeNamed_work _ _

theorem State.homeFill_work (s : State) (core ctx pa : Nat) (w : Bool) : WorkKept s (s.homeFill core ctx pa w) := by
  unfold State.homeFill
  dsimp only
  split
  · exact .ite (.of_eq rfl rfl rfl rfl rfl) (.refl s)
  · split
    · exact (s.endTagged_work _ _).set rfl rfl rfl rfl rfl
    · exact .of_eq rfl rfl rfl rfl rfl

theorem State.homeRun_work (s : State) (core ctx pa n : Nat) (w : Bool) : WorkKept s (s.homeRun core ctx pa n w) := .foldl (fun s _ => s.homeFill_work ..) _ s

theorem State.emptyBlocks_work (s : State) (core : Nat) : WorkKept s (s.emptyBlocks core) := by
  unfold State.emptyBlocks
  dsimp only
  refine .trans (.foldl (fun s x => ?_) _ s) (.of_eq rfl rfl rfl rfl rfl)
  exact .ite ((s.endTagged_work _ _).trans (State.homeFill_work ..)) (s.endTagged_work _ _)

theorem State.riseBoundaries_work (s : State) (cores : List Nat) : WorkKept s (s.riseBoundaries cores) := by
  unfold State.riseBoundaries
  refine .foldl (fun s k => ?_) cores s
  exact .ite (.refl s) ((s.emptyBlocks_work k).set rfl rfl rfl rfl rfl)

/-! ## Commits -/

theorem State.endForCommit_work (s : State) (crew pa n : Nat) : WorkKept s (s.endForCommit crew pa n) := by
  unfold State.endForCommit
  refine .foldl (fun s p => ?_) _ s
  split
  · exact .refl s
  · exact (s.closeUpTo_work _).set rfl rfl rfl rfl rfl
  · exact .ite (.refl s) ((s.closeNamed_work _ _).set rfl rfl rfl rfl rfl)

theorem State.performLog_work (s : State) (crew : Nat) (c : Crew) (e : LogOp) : WorkKept s (s.performLog crew c e) := by
  unfold State.performLog
  dsimp only
  split
  · exact (s.countRefusal_work _ _).set rfl rfl rfl rfl rfl
  · have h1 := (s.endForCommit_work crew e.range.1 e.range.2).trans (u := (s.endForCommit crew e.range.1 e.range.2).dropCopies e.range.1) (.of_eq rfl rfl rfl rfl rfl)
    generalize (s.endForCommit crew e.range.1 e.range.2).dropCopies e.range.1 = u at h1
    have h2 : WorkKept u (if (regionOf e.range.1 == .hbm) = true then u.homeRun c.homeCore c.ctx e.range.1 e.range.2 true else u) :=
      .ite (u.homeRun_work _ _ _ _ _) (.refl u)
    generalize (if (regionOf e.range.1 == .hbm) = true then u.homeRun c.homeCore c.ctx e.range.1 e.range.2 true else u) = v at h2 ⊢
    have hsend (w : State) : WorkKept w (w.sendLog (s.ctxWorld c.ctx) e) := by
      unfold State.sendLog
      split
      · exact w.relayAccess_work _ _ _ _ _ _
      · exact w.askAtomic_work _ _ _ _ _ _ _ _ _
    have howe (w : State) : WorkKept w (w.oweLog e) := .ite (.refl w) (.mapGang w _ _ fun _ => ⟨rfl, rfl⟩)
    refine .trans (.trans ?_ (hsend _)) (howe _)
    exact (h1.trans h2).set rfl rfl rfl rfl rfl

theorem State.commitPops_work (s : State) (crew ctx : Nat) (ps : List PopRes) : WorkKept s (s.commitPops crew ctx ps) :=
  .foldl (fun s _ => (s.endForCommit_work ..).trans (State.commitLater_work ..)) ps s

theorem State.endForPush_work (s : State) (crew ctx : Nat) (q : Queue) : WorkKept s (s.endForPush crew ctx q) := by
  unfold State.endForPush
  dsimp only
  split
  · exact (s.endForCommit_work ..).trans (State.endForCommit_work ..)
  · exact s.endForCommit_work ..

theorem State.commitPushes_work (crew ctx : Nat) : ∀ (ps : List (Nat × List Byte)) (s t : State), s.commitPushes crew ctx ps = .ok t → WorkKept s t
  | [], s, t, h => by rw [← Except.ok.inj h]; exact .refl s
  | p :: ps, s, t, h => by
    unfold State.commitPushes at h
    split at h
    · next u hu =>
      unfold State.commitPush at hu
      exact ((s.endForPush_work _ _ _).trans (State.pushWhole_work hu)).trans (State.commitPushes_work crew ctx ps u t h)
    · cases h

theorem State.commitServices_work (crew ctx : Nat) : ∀ (ds : List Deferred) (s t : State), s.commitServices crew ctx ds = .ok t → WorkKept s t
  | [], s, t, h => by rw [← Except.ok.inj h]; exact .refl s
  | .push _ _ _ :: ds, s, t, h => State.commitServices_work crew ctx ds s t h
  | .send _ _ _ :: ds, s, t, h => State.commitServices_work crew ctx ds s t h
  | .service die r :: ds, s, t, h => by
    unfold State.commitServices at h
    split at h
    · next u hu =>
      unfold State.commitService at hu
      have hend : WorkKept s (s.endForService crew die ctx) := by
        unfold State.endForService
        split
        · exact s.endForPush_work _ _ _
        · exact .refl s
      exact (hend.trans (State.pushService_work hu)).trans (State.commitServices_work crew ctx ds u t h)
    · cases h

theorem State.commitSends_work (s : State) (ctx : Nat) (ds : List Deferred) : WorkKept s (s.commitSends ctx ds) := by
  unfold State.commitSends
  refine .foldl (fun s d => ?_) _ s
  cases d with
  | send _ _ _ => exact s.sendUli_work ..
  | push _ _ _ => exact .refl s
  | service _ _ => exact .refl s

theorem State.isSome_crew_mapCrew (s : State) (k : Nat) (f : Crew → Crew) (n : Nat) : ((s.mapCrew k f).crew? n).isSome = (s.crew? n).isSome := by
  simp only [State.crew?, State.mapCrew_crews, Tbl.find?_adjust]
  split <;> simp

/-- A commit takes no crew away. -/
theorem State.commitTask_crews {s t : State} {crew : Nat} (h : s.commitTask crew = .ok t) (n : Nat) : (t.crew? n).isSome = (s.crew? n).isSome := by
  unfold State.commitTask at h
  split at h
  · cases h; rfl
  · next c _ =>
    split at h
    · cases h
    · next x hx =>
      split at h
      · cases h
      · cases h
        unfold State.commitSteps at hx
        dsimp only at hx
        split at hx
        · cases hx
        · next s1 h1 =>
          split at hx
          · cases hx
          · next s2 h2 =>
            cases hx
            have hlog : ((s.commitLog crew).crew? n).isSome = (s.crew? n).isSome := by
              unfold State.commitLog
              split
              · rfl
              · rw [State.isSome_crew_mapCrew, (WorkKept.foldl (fun s e => s.performLog_work crew _ e) _ s).crew?]
            have hrest := ((State.commitPops_work (s.commitLog crew) _ _ _).trans (State.commitPushes_work _ _ _ _ _ h1)).trans
              ((State.commitServices_work _ _ _ _ _ h2).trans (s2.commitSends_work c.ctx c.deferred))
            rw [State.isSome_crew_mapCrew, hrest.crew?, hlog]

/-! ## Register lines -/

theorem State.storeLines_work (s : State) (g : Gang) (lines : List Nat) : WorkKept s (s.storeLines g lines) := .foldl (fun s _ => s.writeImage_work ..) lines s

theorem State.evictLine_work (s : State) (core : Nat) (x : Nat × Nat) : WorkKept s (s.evictLine core x) := by
  have hdrop (s : State) (y : Nat × Nat) : WorkKept s (s.dropBacked y) := by
    unfold State.dropBacked
    split
    · exact .refl s
    · exact .trans (.ite (.refl s) (s.storeLines_work _ _)) (.mapGang _ _ _ fun _ => ⟨rfl, rfl⟩)
  have h1 := WorkKept.mapGang s x.1 (fun g => { g with backed := x.2 :: g.backed }) fun _ => ⟨rfl, rfl⟩
  unfold State.evictLine
  generalize s.mapGang x.1 _ = u at h1 ⊢
  dsimp only
  split
  · exact h1
  · split
    · exact h1.set rfl rfl rfl rfl rfl
    · refine .trans ?_ (hdrop _ _)
      exact h1.set rfl rfl rfl rfl rfl

theorem State.trimFuel_work (core sub : Nat) (keep : Option (Nat × Nat)) : ∀ (fuel : Nat) (s : State), WorkKept s (State.trimFuel core sub keep fuel s)
  | 0, s => .refl s
  | fuel + 1, s => by
    unfold State.trimFuel
    refine .ite (.refl s) ?_
    dsimp only
    split
    · exact .of_eq rfl rfl rfl rfl rfl
    · refine .trans (.trans ?_ (State.evictLine_work _ core _)) (State.trimFuel_work core sub keep fuel _)
      exact .of_eq rfl rfl rfl rfl rfl

theorem State.trimLines_work (s : State) (core sub : Nat) (keep : Option (Nat × Nat)) : WorkKept s (s.trimLines core sub keep) := State.trimFuel_work ..

/-! ## Contexts, fault queues and endpoints -/

theorem State.storeEps_work (s : State) (ctx : Nat) : WorkKept s (s.storeEps ctx) := by
  unfold State.storeEps
  have hmark (t : State) (h : WorkKept s t) : WorkKept s (t.mapCtx ctx fun c => { c with epsInImage := true }) := h.set rfl rfl rfl rfl rfl
  dsimp only
  split
  · exact .refl s
  · exact hmark _ (.trans (.foldl (fun s e => s.writeImage_work _ _ _) _ s) (State.writeImage_work _ _ _ _))

theorem State.leaveSlots_work (s : State) (ctx : Nat) : WorkKept s (s.leaveSlots ctx) := by
  unfold State.leaveSlots
  split
  · exact .refl s
  · exact s.storeEps_work ctx

theorem State.unbind_work (s : State) (ctx num : Nat) : WorkKept s (s.unbind ctx num) := by
  unfold State.unbind
  refine .foldl (fun s e => ?_) _ s
  exact .ite (.ite (s.writeImage_work ..) (.of_eq rfl rfl rfl rfl rfl)) (.refl s)

theorem State.setQueue_work (s : State) (ctx : Nat) (q : List Rec) : WorkKept s (s.setQueue ctx q) := by
  unfold State.setQueue
  dsimp only
  refine .trans (t := s.mapCtx ctx _) (.of_eq rfl rfl rfl rfl rfl) (.foldl (fun s i => ?_) _ _)
  split
  · exact .refl s
  · exact s.writeImage_work ..

theorem State.withdraw_work (s : State) (ctx sq : Nat) : WorkKept s (s.withdraw ctx sq) := (s.setQueue_work ctx _).set rfl rfl rfl rfl rfl

theorem State.updateRec_work (s : State) (ctx : Nat) (r : Rec) : WorkKept s (s.updateRec ctx r) := (s.setQueue_work ctx _).set rfl rfl rfl rfl rfl

theorem State.showIndex_work (s : State) (gk lanes i : Nat) : WorkKept s (s.showIndex gk lanes i) := by
  unfold State.showIndex
  refine .trans (WorkKept.mapGang s gk (fun g => g.mapLanes (lanesOf lanes) fun t => { t with fset := i }) fun _ => ⟨rfl, rfl⟩) ?_
  dsimp only
  split
  · exact .refl _
  · exact .ite (.foldl (fun s _ => s.writeImage_work ..) _ _) (.refl _)

theorem State.assignIndex_work (s : State) (ctx i : Nat) : WorkKept s (s.assignIndex ctx i) := by
  unfold State.assignIndex
  dsimp only
  split
  · exact .refl s
  · refine .trans (.trans ?_ (State.showIndex_work ..)) (State.writeImage_work ..)
    exact (s.updateRec_work ctx _).set rfl rfl rfl rfl rfl

theorem State.closeSet_work (s : State) (ctx i : Nat) : WorkKept s (s.closeSet ctx i) := by
  unfold State.closeSet
  split
  · exact .refl s
  · refine .trans (.trans ?_ (State.writeImage_work ..)) (State.assignIndex_work ..)
    refine WorkKept.set (t := (s.bumpGen ctx i).withdraw ctx _) ?_ rfl rfl rfl rfl rfl
    refine .trans ?_ (State.withdraw_work ..)
    exact .of_eq rfl rfl rfl rfl rfl

theorem State.closeWhere_work (s : State) (ctx : Nat) (p : FSet → Bool) : WorkKept s (s.closeWhere ctx p) := by
  unfold State.closeWhere
  dsimp only
  refine .trans ?_ (.foldl (fun s (x : Nat × FSet) => s.closeSet_work ctx x.1) _ _)
  exact (WorkKept.foldl (fun s (f : FSet) => s.withdraw_work ctx f.rec_.seq) _ s).set rfl rfl rfl rfl rfl

theorem State.onHandle_work (s : State) (crew h : Nat) (f : Handle → Handle) : WorkKept s (s.onHandle crew h f) := by
  unfold State.onHandle
  split
  · exact .refl s
  · exact .ite (.of_eq rfl rfl rfl rfl rfl) (.refl s)

theorem State.revokeCmd_work (s : State) (c : Crew) (m : Cmd) : WorkKept s (s.revokeCmd c m) := by
  unfold State.revokeCmd
  refine WorkKept.set (t := (match m.rec_ with | some r => s.withdraw c.ctx r.seq | none => s)) ?_ rfl rfl rfl rfl rfl
  split
  · exact s.withdraw_work _ _
  · exact .refl s

theorem State.drainCmd_work (s : State) (crew : Nat) (m : Cmd) : WorkKept s (s.drainCmd crew m) := by
  have hunfault (s : State) (h : Nat) : WorkKept s (s.unfault crew h) := .ite (.refl s) (s.onHandle_work ..)
  unfold State.drainCmd
  split
  · exact .refl s
  · refine .ite (.refl s) (.trans (.trans ?_ (hunfault _ _)) (hunfault _ _))
    exact (s.revokeCmd_work _ m).set rfl rfl rfl rfl rfl

theorem State.killCmd_work (s : State) (crew sq : Nat) : WorkKept s (s.killCmd crew sq) := by
  have hdrop (s : State) (m : Cmd) : WorkKept s (s.dropCounts m) := by
    unfold State.dropCounts
    exact .trans (.ite (.refl s) (s.onHandle_work ..)) (.ite (.refl _) (State.onHandle_work ..))
  unfold State.killCmd
  split
  · next c m _ _ =>
    refine .trans (.trans ?_ (State.onHandle_work ..)) (State.onHandle_work ..)
    refine WorkKept.set (t := (if m.st = .frozen then s.revokeCmd c m else s.bumpRing c sq).dropCounts m) ?_ rfl rfl rfl rfl rfl
    refine .trans ?_ (hdrop _ _)
    split
    · exact s.revokeCmd_work c m
    · exact .of_eq rfl rfl rfl rfl rfl
  · exact .refl s

end Sys2Proof.Machine
end

section
/-! SUPPORT. A task whose blocks are handed over, its end, and its abort. -/

namespace Sys2Proof.Machine

-- one after the other, so that the whole text compiles within the memory that the check allows
set_option Elab.async false

open Sys2Proof.Claims

variable {s : State} {crew : Nat} {c : Crew}

/-! ## The handover of cache blocks (R258) -/

theorem State.crew?_mapCrew (s : State) (k : Nat) (f : Crew → Crew) (n : Nat) : (s.mapCrew k f).crew? n = if k = n then (s.crew? n).map f else s.crew? n :=
  Tbl.find?_adjust _ _ _ _

/-- A crew of a state is in a phase. -/
def InPhase (s : State) (crew : Nat) (x : Phase) : Prop := ∃ c, s.crew? crew = some c ∧ c.phase = x

theorem InPhase.of_crews {t : State} {x : Phase} (h : InPhase s crew x) (e : t.crews = s.crews) : InPhase t crew x := by
  obtain ⟨c, hc, hp⟩ := h
  exact ⟨c, by unfold State.crew?; rw [e]; exact hc, hp⟩

/-- A change of crews that leaves every phase as it is, or brings it to the one asked for. -/
theorem InPhase.mapCrew {x : Phase} (h : InPhase s crew x) (k : Nat) (f : Crew → Crew) (hf : ∀ c, c.phase = x → (f c).phase = x) : InPhase (s.mapCrew k f) crew x := by
  obtain ⟨c, hc, hp⟩ := h
  by_cases hk : k = crew
  · exact ⟨f c, by rw [State.crew?_mapCrew, if_pos hk, hc]; rfl, hf c hp⟩
  · exact ⟨c, by rw [State.crew?_mapCrew, if_neg hk, hc], hp⟩

theorem State.newWindow_keeps (s : State) (crew : Nat) : (s.newWindow crew).crews = s.crews ∧ (s.newWindow crew).cores = s.cores := by
  have hscrub (l : List (Nat × Nat)) (n : Nat) : ∀ s : State, (l.foldl (fun (s : State) (p : Nat × Nat) => s.scrubRange (vaultPa p.1 p.2 0) n) s).crews = s.crews ∧
      (l.foldl (fun (s : State) (p : Nat × Nat) => s.scrubRange (vaultPa p.1 p.2 0) n) s).cores = s.cores := by
    induction l with
    | nil => exact fun _ => ⟨rfl, rfl⟩
    | cons p l ih => exact fun s => ih _
  unfold State.newWindow
  split
  · exact ⟨rfl, rfl⟩
  · exact hscrub _ _ s

theorem State.storeEntry_cores (s : State) (crew : Nat) (x : BitVec 256) : (s.storeEntry crew x).cores = s.cores := by
  unfold State.storeEntry
  split <;> rfl

theorem InPhase.storeEntry {x : Phase} (h : InPhase s crew x) (k : Nat) (e : BitVec 256) : InPhase (s.storeEntry k e) crew x := by
  unfold State.storeEntry
  split
  · exact h
  · refine InPhase.mapCrew (InPhase.of_crews h ?_) _ _ fun _ h => h
    rfl

theorem foldl_keeps {α : Type} {P : State → Prop} {f : State → α → State} (hf : ∀ s a, P s → P (f s a)) : ∀ (l : List α) (s : State), P s → P (l.foldl f s)
  | [], _, h => h
  | a :: l, s, h => foldl_keeps hf l (f s a) (hf s a h)

theorem State.stage_keeps {P : State → Prop} (hP : ∀ s k e, P s → P (s.storeEntry k e)) (h : P s) (crew : Nat) : P (s.stage crew) := by
  unfold State.stage
  split
  · exact h
  · split
    · refine foldl_keeps (fun s e h => ?_) _ s h
      have hif (b : Bool) (k : Nat) (x : BitVec 256) : P (if b = true then s.storeEntry k x else s) := by
        cases b
        · exact h
        · exact hP _ _ _ h
      split
      · exact hP _ _ _ h
      · exact hif _ _ _
    · exact h

theorem State.leaveHandover_cores (s : State) : s.leaveHandover.cores = s.cores := by
  unfold State.leaveHandover
  refine foldl_keeps (P := fun t => t.cores = s.cores) (fun t p h => State.stage_keeps (P := fun t => t.cores = s.cores) (fun t k e h => (t.storeEntry_cores k e).trans h) h p.1) _ _ ?_
  exact foldl_keeps (P := fun t => t.cores = s.cores) (fun t p h => (t.newWindow_keeps p.1).2.trans h) _ _ rfl

/-- A crew of one core, in no cluster, whose blocks are empty leaves the handover. -/
theorem State.leaveHandover_staging {core : Nat} (hc : s.crew? crew = some c) (hp : c.phase = .handover) (hcores : c.cores = [core]) (hcl : c.cluster = none)
    (hempty : s.strayLines core = []) : InPhase s.leaveHandover crew .staging := by
  unfold State.leaveHandover
  dsimp only
  refine foldl_keeps (P := fun t => InPhase t crew .staging) (fun t p h => State.stage_keeps (P := fun t => InPhase t crew .staging) (fun t k e h => h.storeEntry k e) h p.1) _ _ ?_
  have hmem : (crew, c) ∈ s.crews.filter fun p => p.2.phase == .handover && (p.2.cores.all fun k => (s.strayLines k).isEmpty) &&
      (s.clusterPeers p.2).all fun q => q.2.cores.all fun k => (s.strayLines k).isEmpty := by
    refine List.mem_filter.2 ⟨Tbl.mem_of_find? hc, ?_⟩
    simp [hp, hcores, hempty, State.clusterPeers, hcl]
  generalize (s.crews.filter fun p => p.2.phase == .handover && (p.2.cores.all fun k => (s.strayLines k).isEmpty) &&
      (s.clusterPeers p.2).all fun q => q.2.cores.all fun k => (s.strayLines k).isEmpty) = go at hmem ⊢
  have hthere : (s.crew? crew).isSome = true := by rw [hc]; rfl
  clear hc hempty
  induction go generalizing s with
  | nil => cases hmem
  | cons q go ih =>
    rw [List.foldl_cons]
    have hwindow : ((s.newWindow q.1).crew? crew) = s.crew? crew := by unfold State.crew?; rw [(s.newWindow_keeps q.1).1]
    have hrest (h : InPhase ((s.newWindow q.1).mapCrew q.1 fun c => { c with phase := .staging }) crew .staging) :=
      foldl_keeps (P := fun t => InPhase t crew .staging) (f := fun (s : State) (p : Nat × Crew) => (s.newWindow p.1).mapCrew p.1 fun c => { c with phase := .staging })
        (fun t p h => InPhase.mapCrew (h.of_crews (t.newWindow_keeps p.1).1) _ _ fun _ _ => rfl) go _ h
    by_cases hq : q.1 = crew
    · obtain ⟨d, hd⟩ := Option.isSome_iff_exists.1 hthere
      exact hrest ⟨_, by rw [State.crew?_mapCrew, if_pos hq, hwindow, hd]; rfl, rfl⟩
    · refine ih ((List.mem_cons.1 hmem).resolve_left fun e => hq (e ▸ rfl)) ?_
      rw [State.isSome_crew_mapCrew, hwindow]
      exact hthere

theorem State.strayLines_emptyBlocks (s : State) (core : Nat) : (s.emptyBlocks core).strayLines core = [] := by
  unfold State.strayLines
  rw [State.emptyBlocks_core, List.filter_filter, List.filter_eq_nil_iff]
  intro x _
  simp

theorem State.emptyBlocks_way (s : State) (core : Nat) : ∀ x ∈ ((s.emptyBlocks core).core core).cache, x.way < ((s.emptyBlocks core).core core).boundary := by
  rw [State.emptyBlocks_core]
  intro x hx
  exact of_decide_eq_true (List.mem_filter.1 hx).2

/-! ## The end of a task (R128) -/

/-- A crew is gone, and so is every gang of it that is no handler thread. -/
structure Gone (t : State) (crew : Nat) : Prop where
  noCrew : t.crew? crew = none
  noGang : ∀ p ∈ t.gangs, p.2.crew = crew → p.2.hslot ≠ none

theorem Gone.kept {t u : State} (h : Gone t crew) (k : CrewsKept t u) : Gone u crew := by
  refine ⟨(k.crew? crew).trans h.noCrew, fun p hp hc => ?_⟩
  obtain ⟨q, hq, h1, h2⟩ := k.seats p hp
  exact h2 ▸ h.noGang q hq (h1.trans hc)

theorem State.freeCrew_gone (h : (s.crew? crew).isSome = true) : Gone (s.freeCrew crew) crew := by
  obtain ⟨c, hc⟩ := Option.isSome_iff_exists.1 h
  unfold State.freeCrew
  rw [hc]
  refine Gone.kept ⟨?_, ?_⟩ (State.riseBoundaries_work _ _).toCrewsKept
  · exact (Tbl.find?_drop _ _ _).trans (if_pos rfl)
  · intro p hp hcrew hslot
    have hf := (List.mem_filter.1 hp).2
    simp [hcrew, hslot] at hf

theorem CrewsKept.mapLaunch (s : State) (a b : Nat) (f : Launch → Launch) : CrewsKept s (s.mapLaunch a b f) := .of_eq rfl rfl

theorem State.settleGroup_crews (s : State) (ctx serial gid : Nat) : CrewsKept s (s.settleGroup ctx serial gid) := by
  unfold State.settleGroup
  split
  · exact .refl s
  · dsimp only
    split
    · exact .trans (.mapLaunch s _ _ _) (WorkKept.mapGangs _ _ fun p => by split <;> exact ⟨rfl, rfl⟩).toCrewsKept
    · exact .refl s

theorem State.endReset_crews (s : State) (ctx : Nat) : CrewsKept s (s.endReset ctx) := by
  unfold State.endReset
  split
  · exact .refl s
  · exact .of_eq rfl rfl

theorem State.endCrew_gone (h : (s.crew? crew).isSome = true) : Gone (s.endCrew crew) crew := by
  have hfree := State.freeCrew_gone h
  obtain ⟨c, hc⟩ := Option.isSome_iff_exists.1 h
  unfold State.endCrew
  rw [hc]
  dsimp only
  have hindex : Gone (if c.cont.isSome = true then s.freeCrew crew else (s.freeCrew crew).mapLaunch c.ctx c.launch fun l => l.giveIndex c.stage c.index) crew := by
    split
    · exact hfree
    · exact hfree.kept (.mapLaunch _ _ _ _)
  exact ((hindex.kept (.foldl (fun s g => s.settleGroup_crews c.ctx c.launch g) c.groups _)).kept (State.leaveSlots_work _ _).toCrewsKept).kept (State.endReset_crews _ _)

theorem State.endDrain_crews (s : State) : CrewsKept s s.endDrain := .of_eq rfl rfl

theorem State.retireTask_waits (hc : s.crew? crew = some c) (h : s.crewOver crew = false) : s.retireTask crew = s := by
  unfold State.retireTask
  rw [hc]
  simp [h]

theorem State.retireTask_gone {u : State} (hc : s.crew? crew = some c) (h : s.crewOver crew = true)
    (hp : c.phase = .killed ∨ (c.phase = .running ∧ s.commitTask crew = .ok u)) : Gone (s.retireTask crew) crew := by
  have hthere : (s.crew? crew).isSome = true := by rw [hc]; rfl
  unfold State.retireTask
  rw [hc]
  simp only [h, Bool.not_true, Bool.false_eq_true, ↓reduceIte]
  obtain hp | ⟨hp, hu⟩ := hp
  · rw [if_pos hp]
    exact (State.endCrew_gone hthere).kept (State.endDrain_crews _)
  · rw [if_neg (by simp [hp]), if_neg (by simp [hp]), hu]
    have hu' : (u.crew? crew).isSome = true := (State.commitTask_crews hu crew).trans hthere
    obtain ⟨d, hd⟩ := Option.isSome_iff_exists.1 hu'
    refine State.endCrew_gone ?_
    rw [hd]
    dsimp only
    rw [(WorkKept.foldl (fun s (p : PopRes) => s.commitLater_work ⟨p.pa, p.num, false, d.ctx, some crew⟩) d.held u).crew?]
    exact hu'

/-! ## Abort (R301) -/

/-- The crews are listed as before, and what each launch keeps to be run again is kept. -/
structure RunsKept (s t : State) : Prop where
  crews : ∀ k, (t.crew? k).isSome = (s.crew? k).isSome
  launches : ∀ a b l, s.launch? a b = some l → ∃ l', t.launch? a b = some l' ∧ l'.reruns = l.reruns ∧ l'.conts = l.conts

theorem RunsKept.trans {s t u : State} (a : RunsKept s t) (b : RunsKept t u) : RunsKept s u := by
  refine ⟨fun k => (b.crews k).trans (a.crews k), fun x y l hl => ?_⟩
  obtain ⟨l1, h1, e1, e2⟩ := a.launches x y l hl
  obtain ⟨l2, h2, e3, e4⟩ := b.launches x y l1 h1
  exact ⟨l2, h2, e3.trans e1, e4.trans e2⟩

theorem WorkKept.runs {s t : State} (h : WorkKept s t) : RunsKept s t :=
  ⟨fun k => by rw [h.crew?], fun a b l hl => ⟨l, by unfold State.launch?; rw [h.launches]; exact hl, rfl, rfl⟩⟩

theorem RunsKept.refl (s : State) : RunsKept s s := (WorkKept.refl s).runs

theorem RunsKept.foldl {α : Type} {f : State → α → State} (h : ∀ s a, RunsKept s (f s a)) : ∀ (l : List α) (s : State), RunsKept s (l.foldl f s)
  | [], s => .refl s
  | a :: l, s => (h s a).trans (RunsKept.foldl h l _)

/-- A launch found among launches of which each is changed, its context and serial kept. -/
theorem find?_map_launch (ls : List Launch) (f : Launch → Launch) (hf : ∀ l, (f l).ctx = l.ctx ∧ (f l).serial = l.serial) (a b : Nat) :
    (ls.map f).find? (fun l => l.ctx == a && l.serial == b) = (ls.find? fun l => l.ctx == a && l.serial == b).map f := by
  rw [List.find?_map]
  congr 2
  funext l
  simp [hf]

theorem RunsKept.mapLaunches (s : State) (f : Launch → Launch)
    (hf : ∀ l, (f l).ctx = l.ctx ∧ (f l).serial = l.serial ∧ (f l).reruns = l.reruns ∧ (f l).conts = l.conts) : RunsKept s { s with launches := s.launches.map f } := by
  refine ⟨fun _ => rfl, fun a b l hl => ⟨f l, ?_, (hf l).2.2⟩⟩
  unfold State.launch? at hl ⊢
  rw [find?_map_launch _ _ fun l => ⟨(hf l).1, (hf l).2.1⟩, hl]
  rfl

theorem State.launch?_mapLaunch (s : State) (a b : Nat) (f : Launch → Launch) (hf : ∀ l, (f l).ctx = l.ctx ∧ (f l).serial = l.serial) :
    (s.mapLaunch a b f).launch? a b = (s.launch? a b).map f := by
  unfold State.launch?
  rw [State.mapLaunch_launches, find?_map_launch _ _ fun l => by split <;> [exact hf l; exact ⟨rfl, rfl⟩]]
  cases h : s.launches.find? fun l => l.ctx == a && l.serial == b with
  | none => rfl
  | some l => simp only [Option.map_some, List.find?_some h, ↓reduceIte]

theorem State.freeRecords_runs (s : State) (ctx : Nat) (cs : List Nat) : RunsKept s (s.freeRecords ctx cs) := by
  unfold State.freeRecords
  refine .trans (WorkKept.foldl (fun s c => s.writeImage_work ctx _ (bytesOf 4 0)) cs s).runs (.mapLaunches _ _ fun l => ?_)
  split <;> exact ⟨rfl, rfl, rfl, rfl⟩

theorem State.killCmds_runs (s : State) (crew : Nat) (keep : Cmd → Bool) : RunsKept s (s.killCmds crew keep) := by
  have hall : RunsKept s ((s.cmdsOf crew).foldl (fun s m => if m.drains then s.drainCmd crew m else if keep m then s else s.killCmd crew m.sq) s) :=
    .foldl (fun s m => (WorkKept.ite (s.drainCmd_work crew m) (.ite (.refl s) (s.killCmd_work crew m.sq))).runs) _ s
  unfold State.killCmds
  dsimp only
  split
  · exact hall
  · exact hall.trans ⟨State.isSome_crew_mapCrew _ _ _, fun a b l hl => ⟨l, hl, rfl, rfl⟩⟩

theorem State.freeCrew_launches (s : State) (crew : Nat) : (s.freeCrew crew).launches = s.launches := by
  have hscrub (l : List (Nat × Nat)) (n : Nat) : ∀ s : State, (l.foldl (fun (s : State) (p : Nat × Nat) => s.scrubRange (vaultPa p.1 p.2 0) n) s).launches = s.launches := by
    induction l with
    | nil => exact fun _ => rfl
    | cons p l ih => exact fun s => ih _
  unfold State.freeCrew
  split
  · rfl
  · rw [(State.riseBoundaries_work _ _).launches]
    exact (hscrub _ _ _).trans (WorkKept.foldl (fun s (g : Nat × Gang) => s.unbind_work _ g.2.bindNum) _ s).launches

/-- A launch that keeps the aborted task of a crew to be run again, with some pop reservations. -/
def Launch.keepAborted (l : Launch) (c : Crew) (kept : List PopRes) : Launch :=
  match c.cont with
  | some k => { l with conts := l.conts ++ [{ k with held := kept }] }
  | none => { l with reruns := l.reruns ++ [⟨c.stage, c.index, c.serial, c.k2, c.item, c.popped, kept⟩] }

theorem Launch.keepAborted_same (l : Launch) (c : Crew) (kept : List PopRes) : (l.keepAborted c kept).ctx = l.ctx ∧ (l.keepAborted c kept).serial = l.serial := by
  unfold Launch.keepAborted
  split <;> exact ⟨rfl, rfl⟩

/-- The reservations of the pops at which the gangs of a crew wait. -/
def State.crewPops (s : State) (gs : List (Nat × Gang)) : List PopRes := gs.flatMap fun g => s.waitingPops g.2

theorem State.crewPops_nil (s : State) {gs : List (Nat × Gang)} (h : ∀ p ∈ gs, ∀ n, n < 32 → (p.2.th n).run ≠ .blocked) : s.crewPops gs = [] := by
  refine List.flatMap_eq_nil_iff.2 fun p hp => List.filterMap_eq_nil_iff.2 fun n hn => ?_
  have hrun := h p hp n (List.mem_range.1 hn)
  split
  · next hb _ => exact absurd hb hrun
  · rfl

/-- An abort frees the crew of a state from which crews and launches have lost nothing, and its launch keeps the task. -/
theorem State.abortTask_eq (hc : s.crew? crew = some c) : ∃ u, RunsKept s u ∧
    s.abortTask crew = ((u.freeCrew crew).leaveSlots c.ctx).mapLaunch c.ctx c.launch fun l => l.keepAborted c (c.pops ++ u.crewPops (s.gangsOf crew) ++ c.held) := by
  refine ⟨(((s.gangsOf crew).foldl (fun s g => s.freeRecords c.ctx (g.2.pends.filterMap Pend.svcRecord))
      (s.closeWhere c.ctx fun f => (s.gangsOf crew).any fun g => g.1 == f.gkey)).killCmds crew fun _ => false).freeRecords c.ctx c.conts, ?_, ?_⟩
  · exact (((s.closeWhere_work _ _).runs.trans (.foldl (fun s g => s.freeRecords_runs _ _) _ _)).trans (State.killCmds_runs _ _ _)).trans (State.freeRecords_runs _ _ _)
  · unfold State.abortTask
    rw [hc]
    rfl

/-- What an abort leaves: the crew gone, and its task kept by its launch to be run again, with the reservations of waiting pops among those kept, none where no lane waits. -/
theorem State.abortTask_kept {l : Launch} (hc : s.crew? crew = some c) (hl : s.launch? c.ctx c.launch = some l) :
    (s.abortTask crew).crew? crew = none ∧ ∃ l' w, (s.abortTask crew).launch? c.ctx c.launch = some l' ∧
      ((∀ p ∈ s.gangsOf crew, ∀ n, n < 32 → (p.2.th n).run ≠ .blocked) → w = []) ∧
      (c.cont = none → l'.reruns = l.reruns ++ [⟨c.stage, c.index, c.serial, c.k2, c.item, c.popped, c.pops ++ w ++ c.held⟩]) ∧
      ∀ k, c.cont = some k → l'.conts = l.conts ++ [{ k with held := c.pops ++ w ++ c.held }] := by
  obtain ⟨u, hruns, hu⟩ := State.abortTask_eq hc
  obtain ⟨l1, h1, hreruns, hconts⟩ := hruns.launches _ _ l hl
  have hleave := State.leaveSlots_work (u.freeCrew crew) c.ctx
  have hgone := (State.freeCrew_gone ((hruns.crews crew).trans (by rw [hc]; rfl))).kept hleave.toCrewsKept
  have hl1 : ((u.freeCrew crew).leaveSlots c.ctx).launch? c.ctx c.launch = some l1 := by
    unfold State.launch?
    rw [hleave.launches, State.freeCrew_launches]
    exact h1
  rw [hu]
  refine ⟨hgone.noCrew, l1.keepAborted c (c.pops ++ u.crewPops (s.gangsOf crew) ++ c.held), u.crewPops (s.gangsOf crew), ?_, u.crewPops_nil, fun hk => ?_, fun k hk => ?_⟩
  · rw [State.launch?_mapLaunch _ _ _ _ fun l => l.keepAborted_same c _, hl1]
    rfl
  · unfold Launch.keepAborted
    rw [hk, ← hreruns]
  · unfold Launch.keepAborted
    rw [hk, ← hconts]

end Sys2Proof.Machine
end

section
/-! SUPPORT. The start of a task: its gangs come to their cores one after the other (R37, R38, R296, R298). -/

namespace Sys2Proof.Machine

-- one after the other, so that the whole text compiles within the memory that the check allows
set_option Elab.async false

open Sys2Proof.Claims

variable {s t : State} {crew : Nat} {c : Crew}

/-! ## Counting -/

theorem Tbl.countP_put {α : Type} (t : Tbl α) (n : Nat) (a : α) (p : Nat × α → Bool) : (t.put n a).countP p ≤ t.countP p + if p (n, a) = true then 1 else 0 := by
  induction t with
  | nil => simp [Tbl.put, List.countP_cons]
  | cons q t ih =>
    obtain ⟨k, b⟩ := q
    rw [Tbl.put]
    split
    · simp only [List.countP_cons]; omega
    · split
      · simp only [List.countP_cons]; omega
      · simp only [List.countP_cons]; omega

theorem Tbl.length_flatMap_put {α β : Type} (t : Tbl α) (n : Nat) (a : α) (f : Nat × α → List β) : ((t.put n a).flatMap f).length ≤ (t.flatMap f).length + (f (n, a)).length := by
  induction t with
  | nil => simp [Tbl.put]
  | cons q t ih =>
    obtain ⟨k, b⟩ := q
    rw [Tbl.put]
    split
    · simp only [List.flatMap_cons, List.length_append]; omega
    · split
      · simp only [List.flatMap_cons, List.length_append]; omega
      · simp only [List.flatMap_cons, List.length_append]; omega

theorem lowestFree_isSome {used : List Nat} {n : Nat} (h : used.length < n) : (lowestFree used n).isSome = true := by
  by_contra hno
  have hall : ∀ x ∈ List.range n, x ∈ used := by
    simpa [lowestFree] using hno
  have := (List.subperm_of_subset List.nodup_range hall).length_le
  rw [List.length_range] at this
  omega

/-- The last of some numbers at which a count was lower than before: no other has a lower one. -/
theorem foldl_least (count : Nat → Nat) (l : List Nat) : ∀ b, count (l.foldl (fun best x => if count x < count best then x else best) b) ≤ count b ∧
    ∀ x ∈ l, count (l.foldl (fun best x => if count x < count best then x else best) b) ≤ count x := by
  induction l with
  | nil => exact fun b => ⟨Nat.le_refl _, fun _ h => absurd h List.not_mem_nil⟩
  | cons y l ih =>
    intro b
    rw [List.foldl_cons]
    obtain ⟨h1, h2⟩ := ih (if count y < count b then y else b)
    have hb : count (if count y < count b then y else b) ≤ count b ∧ count (if count y < count b then y else b) ≤ count y := by split <;> omega
    exact ⟨h1.trans hb.1, fun x hx => (List.mem_cons.1 hx).elim (fun e => e ▸ h1.trans hb.2) (h2 x)⟩

theorem sum_filter_div_le (l : List Nat) (n : Nat) : ((List.range n).map fun k => (l.filter fun x => x / 24 == k).length).sum ≤ l.length := by
  suffices h : ((List.range n).map fun k => (l.filter fun x => x / 24 == k).length).sum ≤ (l.filter fun x => decide (x / 24 < n)).length from
    h.trans (List.length_filter_le ..)
  induction n with
  | zero => simp
  | succ n ih =>
    rw [List.range_succ, List.map_append, List.sum_append]
    have hsplit : (l.filter fun x => decide (x / 24 < n)).length + (l.filter fun x => x / 24 == n).length ≤ (l.filter fun x => decide (x / 24 < n + 1)).length := by
      simp only [← List.countP_eq_length_filter]
      clear ih
      induction l with
      | nil => simp
      | cons y l ih =>
        simp only [List.countP_cons, decide_eq_true_eq, beq_iff_eq]
        split_ifs <;> omega
    simpa using (Nat.add_le_add_right ih _).trans hsplit

/-- A core with fewer than 288 resident gangs has a slot for one more: some sub-core has fewer than 24 (R303). -/
theorem State.pickSlot_isSome {core : Nat} (h : (s.residents core).length < 288) : (s.pickSlot core).isSome = true := by
  unfold State.pickSlot
  dsimp only
  rw [Option.isSome_map]
  generalize hused : (s.residents core).map (·.slot) = used
  have hlen : used.length < 288 := by rw [← hused, List.length_map]; exact h
  obtain ⟨-, hleast⟩ := foldl_least (fun sub => (used.filter fun x => x / 24 == sub).length) (List.range 12) 0
  generalize (List.range 12).foldl (fun (best : Nat) x => if (used.filter fun y => y / 24 == x).length < (used.filter fun y => y / 24 == best).length then x else best) 0 = sub at hleast ⊢
  refine lowestFree_isSome ?_
  rw [List.length_map]
  by_contra hge
  have hsum := sum_filter_div_le used 12
  have hmany : 12 * 24 ≤ ((List.range 12).map fun k => (used.filter fun x => x / 24 == k).length).sum := by
    have := List.card_nsmul_le_sum ((List.range 12).map fun k => (used.filter fun x => x / 24 == k).length) 24 (by
      intro x hx
      obtain ⟨k, hk, rfl⟩ := List.mem_map.1 hx
      exact (Nat.not_lt.1 hge).trans (hleast k hk))
    simpa using this
  omega

/-! ## Register lines that are evicted -/

/-- A gang without the account of where its register lines lie. -/
def Gang.unlined (g : Gang) : Gang := { g with backed := [], clean := [], absent := [] }

/-- Gangs but for where their register lines lie. -/
def unlined (gs : Tbl Gang) : Tbl Gang := gs.map fun p => (p.1, p.2.unlined)

theorem unlined_mapGang (s : State) (k : Nat) (f : Gang → Gang) (h : ∀ g, (f g).unlined = g.unlined) : unlined (s.mapGang k f).gangs = unlined s.gangs := by
  rw [State.mapGang_gangs]
  unfold unlined Tbl.adjust
  rw [List.map_map]
  refine List.map_congr_left fun p _ => ?_
  simp only [Function.comp_apply]
  split
  · rw [h]
  · rfl

theorem State.storeLines_gangs (s : State) (g : Gang) (lines : List Nat) : (s.storeLines g lines).gangs = s.gangs :=
  State.foldl_gangs _ (fun s _ => s.writeImage_gangs ..) _ _

theorem State.dropBacked_unlined (s : State) (x : Nat × Nat) : unlined (s.dropBacked x).gangs = unlined s.gangs := by
  unfold State.dropBacked
  split
  · rfl
  · dsimp only
    refine Eq.trans (unlined_mapGang _ x.1 _ ?_) ?_
    · exact fun _ => rfl
    split
    · rfl
    · rw [State.storeLines_gangs]

theorem State.evictLine_unlined (s : State) (core : Nat) (x : Nat × Nat) : unlined (s.evictLine core x).gangs = unlined s.gangs := by
  have h1 : unlined (s.mapGang x.1 fun g => { g with backed := x.2 :: g.backed }).gangs = unlined s.gangs := unlined_mapGang _ _ _ fun _ => rfl
  unfold State.evictLine
  generalize s.mapGang x.1 _ = u at h1 ⊢
  dsimp only
  split
  · exact h1
  · split
    · exact h1
    · exact (State.dropBacked_unlined _ _).trans h1

theorem State.trimFuel_unlined (core sub : Nat) (keep : Option (Nat × Nat)) : ∀ (fuel : Nat) (s : State), unlined (State.trimFuel core sub keep fuel s).gangs = unlined s.gangs
  | 0, s => rfl
  | fuel + 1, s => by
    unfold State.trimFuel
    split
    · rfl
    · dsimp only
      split
      · rfl
      · exact (State.trimFuel_unlined core sub keep fuel _).trans (State.evictLine_unlined _ _ _)

theorem State.trimLines_unlined (s : State) (core sub : Nat) (keep : Option (Nat × Nat)) : unlined (s.trimLines core sub keep).gangs = unlined s.gangs :=
  State.trimFuel_unlined ..

/-- A register cache that holds no more than it can loses nothing. -/
theorem State.trimLines_fits {core sub : Nat} (keep : Option (Nat × Nat)) (h : (s.cachedLines core sub).length ≤ 2048) : s.trimLines core sub keep = s := by
  unfold State.trimLines
  cases hn : (s.cachedLines core sub).length with
  | zero => rfl
  | succ n => exact if_pos h

theorem gang?_unlined (h : unlined t.gangs = unlined s.gangs) (k : Nat) : (t.gang? k).map Gang.unlined = (s.gang? k).map Gang.unlined := by
  unfold State.gang?
  rw [← Tbl.find?_map, ← Tbl.find?_map]
  exact congrArg (Tbl.find? · k) h

theorem residents_unlined (h : unlined t.gangs = unlined s.gangs) (core : Nat) : (t.residents core).length = (s.residents core).length := by
  have key (u : State) : (u.residents core).length = (unlined u.gangs).countP fun p => p.2.core == core && p.2.hslot.isNone && p.2.resid == .running := by
    unfold State.residents unlined
    rw [List.length_map, List.countP_map, List.countP_eq_length_filter]
    rfl
  rw [key, key, h]

/-! ## A gang comes to its core -/

/-- What a gang brings to a core and keeps there: all but its place and where its register lines lie. -/
def Gang.brought (g : Gang) : Gang := { g.unlined with core := 0, slot := 0, grec := 0, readyAt := 0 }

/-- A gang stands on a core, as it was brought. -/
def Seated (s : State) (k core : Nat) (g : Gang) : Prop := ∃ y, s.gang? k = some y ∧ y.core = core ∧ y.brought = g.brought

theorem Seated.of_unlined {k core : Nat} {g : Gang} (h : Seated s k core g) (e : unlined t.gangs = unlined s.gangs) : Seated t k core g := by
  obtain ⟨y, hy, hcore, hb⟩ := h
  have hk := gang?_unlined e k
  rw [hy, Option.map_some, Option.map_eq_some_iff] at hk
  obtain ⟨z, hz, hzy⟩ := hk
  have hcore' : z.core = y.core := (congrArg Gang.core hzy : z.unlined.core = y.unlined.core)
  refine ⟨z, hz, hcore'.trans hcore, ?_⟩
  unfold Gang.brought at hb ⊢
  rw [hzy]
  exact hb

/-- What the arrival of a gang leaves: its crews, the gang itself under a new key, every other gang where it stood, and one more resident gang on its core at most. -/
structure Arrives (s t : State) (core : Nat) (g : Gang) : Prop where
  crews : t.crews = s.crews
  key : t.nextKey = s.nextKey + 1
  seated : Seated t (s.nextKey + 1) core g
  others : ∀ k, k ≠ s.nextKey + 1 → ∀ at_ x, Seated s k at_ x → Seated t k at_ x
  residents : ∀ at_, (t.residents at_).length ≤ (s.residents at_).length + if at_ = core then 1 else 0

/-- The state in which a gang stands in a slot of a core, its register cache not yet looked at. -/
def State.putGang (s : State) (core slot : Nat) (g : Gang) : State :=
  { ((s.takeBases core g.ctx).newKey).2 with gangs := s.gangs.put (s.nextKey + 1) { g with core := core, slot := slot, grec := s.freeRecNum g.ctx, readyAt := s.clock } }

theorem State.seatGang_eq {core slot : Nat} (h : s.pickSlot core = some slot) (g : Gang) : s.seatGang core g = (s.putGang core slot g).trimLines core (slot / 24) none := by
  unfold State.seatGang
  rw [h]
  rfl

theorem State.putGang_arrives (s : State) (core slot : Nat) (g : Gang) : Arrives s (s.putGang core slot g) core g where
  crews := rfl
  key := rfl
  seated := ⟨_, Tbl.find?_put_same _ _ _, rfl, rfl⟩
  others := fun k hk at_ x ⟨y, hy, hc, hb⟩ => ⟨y, (Tbl.find?_put_other _ _ (Ne.symm hk)).trans hy, hc, hb⟩
  residents := fun at_ => by
    have key (u : State) : (u.residents at_).length = u.gangs.countP fun p => p.2.core == at_ && p.2.hslot.isNone && p.2.resid == .running := by
      unfold State.residents
      rw [List.length_map, List.countP_eq_length_filter]
    rw [key, key]
    refine (Tbl.countP_put _ _ _ _).trans (Nat.add_le_add_left ?_ _)
    split
    · next h =>
      simp only [Bool.and_eq_true, beq_iff_eq] at h
      rw [if_pos h.1.1.symm]
    · exact Nat.zero_le _

theorem State.seatGang_arrives {core : Nat} (h : (s.residents core).length < 288) (g : Gang) : Arrives s (s.seatGang core g) core g := by
  obtain ⟨slot, hslot⟩ := Option.isSome_iff_exists.1 (State.pickSlot_isSome h)
  rw [State.seatGang_eq hslot]
  have hput := s.putGang_arrives core slot g
  have hwork := (s.putGang core slot g).trimLines_work core (slot / 24) none
  have hline := (s.putGang core slot g).trimLines_unlined core (slot / 24) none
  exact {
    crews := hwork.crews.trans hput.crews
    key := hwork.key.trans hput.key
    seated := hput.seated.of_unlined hline
    others := fun k hk at_ x hx => (hput.others k hk at_ x hx).of_unlined hline
    residents := fun at_ => (residents_unlined hline at_).le.trans (hput.residents at_) }

/-- A lone gang that comes to a core whose register cache has room for its lines changes no byte of memory. -/
theorem State.seatGang_mem {core slot : Nat} (hslot : s.pickSlot core = some slot) (hroom : (s.cachedLines core (slot / 24)).length + 131 ≤ 2048) (g : Gang) :
    MemKept s (s.seatGang core g) := by
  rw [State.seatGang_eq hslot, State.trimLines_fits none ?_]
  · exact ⟨rfl, rfl, rfl, rfl⟩
  · refine (Tbl.length_flatMap_put _ _ _ _).trans ((Nat.add_le_add_left ?_ _).trans hroom)
    split
    · rw [List.length_map]
      exact (List.length_filter_le ..).trans (by simp [allLines])
    · simp

/-! ## The gangs of a task come to their cores -/

/-- Gangs that come one after the other, each to a core that has room for those which come to it, stand where they came to. -/
theorem seatAll {core : Nat → Nat} {g : Nat → Gang} {n : Nat}
    (hroom : ∀ i, i < n → (s.residents (core i)).length + ((List.range n).filter fun j => core j == core i).length ≤ 288) : ∀ i, i ≤ n →
    let u := (List.range i).foldl (fun s j => s.seatGang (core j) (g j)) s
    u.crews = s.crews ∧ u.nextKey = s.nextKey + i ∧ (∀ j, j < i → Seated u (s.nextKey + j + 1) (core j) (g j)) ∧
      ∀ at_, (u.residents at_).length ≤ (s.residents at_).length + ((List.range i).filter fun j => core j == at_).length := by
  intro i
  induction i with
  | zero => exact fun _ => ⟨rfl, rfl, fun j hj => absurd hj (Nat.not_lt_zero j), fun _ => Nat.le_refl _⟩
  | succ i ih =>
    intro hi u
    obtain ⟨hcrews, hkey, hseated, hres⟩ := ih (Nat.le_of_succ_le hi)
    have hu : u = ((List.range i).foldl (fun s j => s.seatGang (core j) (g j)) s).seatGang (core i) (g i) := by
      simp only [u, List.range_succ, List.foldl_append, List.foldl_cons, List.foldl_nil]
    generalize (List.range i).foldl (fun s j => s.seatGang (core j) (g j)) s = v at hcrews hkey hseated hres hu
    have hlt : (v.residents (core i)).length < 288 := by
      have h1 := hres (core i)
      have h2 := hroom i hi
      have h3 : ((List.range i).filter fun j => core j == core i).length + 1 ≤ ((List.range n).filter fun j => core j == core i).length := by
        have hsub : List.Sublist (List.range (i + 1)) (List.range n) := List.range_sublist.2 hi
        have := (hsub.filter fun j => core j == core i).length_le
        simpa [List.range_succ, List.filter_append] using this
      omega
    have A := State.seatGang_arrives hlt (g i)
    rw [← hu] at A
    refine ⟨A.crews.trans hcrews, by rw [A.key, hkey, Nat.add_assoc], fun j hj => ?_, fun at_ => ?_⟩
    · obtain hj | rfl := Nat.lt_succ_iff_lt_or_eq.1 hj
      · exact A.others _ (by omega) _ _ (hseated j hj)
      · exact hkey ▸ A.seated
    · have h1 := A.residents at_
      have h2 := hres at_
      rw [List.range_succ, List.filter_append, List.length_append]
      by_cases hat : core i = at_
      · simp [hat] at h1 ⊢; omega
      · rw [if_neg (Ne.symm hat)] at h1; omega

/-- A gang's place among the cores of its task (R296). -/
theorem coreIndex_lt {n k i : Nat} (hi : i < n) (hk : 0 < k) : coreIndex n k i < k := by
  unfold coreIndex
  rw [Nat.max_eq_left (by omega)]
  exact Nat.div_lt_of_lt_mul (Nat.mul_lt_mul_of_pos_right hi hk)

theorem getD_inj {cores : List Nat} (hnd : cores.Nodup) {i j : Nat} (hi : i < cores.length) (hj : j < cores.length) : cores.getD i 0 = cores.getD j 0 ↔ i = j := by
  simp only [List.getD_eq_getElem?_getD, List.getElem?_eq_getElem hi, List.getElem?_eq_getElem hj, Option.getD_some]
  exact hnd.getElem_inj_iff

/-- The room that a start asks for on every core is the room that its gangs take there. -/
theorem start_room {cores : List Nat} {n : Nat} (hnd : cores.Nodup) (hne : cores ≠ [])
    (h : ∀ j, j < cores.length → (s.residents (cores.getD j 0)).length + shareOf n cores.length j ≤ 288) : ∀ i, i < n →
    (s.residents (cores.getD (coreIndex n cores.length i) 0)).length +
      ((List.range n).filter fun j => cores.getD (coreIndex n cores.length j) 0 == cores.getD (coreIndex n cores.length i) 0).length ≤ 288 := by
  intro i hi
  have hpos := List.length_pos_of_ne_nil hne
  have hJ := coreIndex_lt hi hpos
  refine le_trans (Nat.add_le_add_left (le_of_eq ?_) _) (h _ hJ)
  unfold shareOf
  congr 1
  refine List.filter_congr fun j hj => ?_
  rw [Bool.eq_iff_iff, beq_iff_eq, beq_iff_eq]
  exact getD_inj hnd (coreIndex_lt (List.mem_range.1 hj) hpos) hJ

/-! ## The gang as it starts (R37, R38) -/

theorem Tbl.find?_eq_none_of_keys {α : Type} {t : Tbl α} {n : Nat} (h : ∀ p ∈ t, p.1 ≠ n) : t.find? n = none := by
  induction t with
  | nil => rfl
  | cons p t ih =>
    rw [Tbl.find?, if_neg (h p List.mem_cons_self)]
    exact ih fun q hq => h q (List.mem_cons_of_mem _ hq)

/-- Listing no zero words changes no word that a table gives, where it lists each key once. -/
theorem Tbl.at_filter_nonzero {t : Tbl Word} (h : (t.map (·.1)).Nodup) (n : Nat) : Tbl.at_ 0 (t.filter fun p => p.2 != 0) n = Tbl.at_ 0 t n := by
  induction t with
  | nil => rfl
  | cons p t ih =>
    obtain ⟨k, x⟩ := p
    rw [List.map_cons, List.nodup_cons] at h
    have hrest := ih h.2
    unfold Tbl.at_ at hrest ⊢
    rw [List.filter_cons]
    by_cases hk : k = n
    · subst hk
      have habsent : Tbl.find? (t.filter fun p => p.2 != 0) k = none :=
        Tbl.find?_eq_none_of_keys fun q hq e => h.1 (List.mem_map.2 ⟨q, (List.mem_filter.1 hq).1, e⟩)
      split
      · simp [Tbl.find?]
      · next hx => simp_all [Tbl.find?]
    · split
      · simpa [Tbl.find?, hk] using hrest
      · simpa [Tbl.find?, hk] using hrest

theorem startV_at (i : Nat) {n : Nat} (hn : n < 32) (m : Nat) (hm : m < 128) : Tbl.at_ 0 (startV i) (128 * n + m) = if m = 0 then word (32 * i + n) else 0 := by
  unfold startV
  rw [Tbl.at_filter_nonzero]
  · have key (L : List Nat) : Tbl.find? (L.map fun l => (128 * l, word (32 * i + l))) (128 * n + m) = if m = 0 ∧ n ∈ L then some (word (32 * i + n)) else none := by
      induction L with
      | nil => simp [Tbl.find?]
      | cons l L ih =>
        rw [List.map_cons, Tbl.find?, ih]
        by_cases hl : 128 * l = 128 * n + m
        · obtain ⟨rfl, rfl⟩ : m = 0 ∧ l = n := by omega
          simp
        · rw [if_neg hl]
          by_cases hm0 : m = 0
          · have : n ≠ l := by omega
            simp [hm0, this]
          · simp [hm0]
    unfold Tbl.at_
    rw [key]
    by_cases hm0 : m = 0 <;> simp [hm0, hn]
  · rw [List.map_map]
    exact List.nodup_range.map fun a b hab => by simpa using hab

theorem startK_at (c : Crew) (arg : DWord) (n : Nat) : Tbl.at_ 0 (startK c arg) n =
    [loOf arg, hiOf arg, c.k2, word c.index, c.k4, word c.winSize, word c.ring, c.k7].getD n 0 := by
  unfold startK
  rw [Tbl.at_filter_nonzero (by simp)]
  match n with
  | 0 | 1 | 2 | 3 | 4 | 5 | 6 | 7 => rfl
  | n + 8 => rfl

/-- A gang of a task that is no continuation starts as R37 says, wherever it stands. -/
theorem startGang_starts {st : Stage} {l : Launch} {i : Nat} {y : Gang} (hc : c.cont = none) (h : y.brought = (startGang crew c st l.arg i).brought) : StartGang c l st i y := by
  have hg : startGang crew c st l.arg i = Gang.make i crew c.ctx c.level (List.replicate 32 (Thread.start st.entry (word (st.fpen * 256)))) (startV i) (startK c l.arg) := by
    unfold startGang
    rw [hc]
  rw [hg] at h
  have hindex : y.index = i := congrArg Gang.index h
  have hthreads : y.threads = List.replicate 32 (Thread.start st.entry (word (st.fpen * 256))) := congrArg Gang.threads h
  have hv : y.v = startV i := congrArg Gang.v h
  have hk : y.k = startK c l.arg := congrArg Gang.k h
  refine ⟨hindex, by rw [hthreads, List.length_replicate], fun n hn => ⟨?_, ?_, fun m h1 hm => ?_⟩, fun n _ => ?_, fun n hn => ?_⟩
  · unfold Gang.th
    rw [hthreads, List.getD_eq_getElem?_getD, List.getElem?_replicate, if_pos hn, Option.getD_some]
  · unfold Gang.readV
    rw [hv, startV_at i hn 0 (by omega), if_pos rfl]
  · unfold Gang.readV
    rw [hv, startV_at i hn m hm, if_neg (by omega)]
  · unfold Gang.readK
    rw [hk, startK_at]
  · unfold Gang.readK
    rw [hk, startK_at]
    exact List.getD_eq_default _ _ (by simpa using hn)

/-! ## The start -/

theorem State.startTask_eq {l : Launch} {st : Stage} (R : StartReady s crew c l st) : s.startTask crew =
    (List.range st.gangs).foldl (fun s i => s.seatGang (c.cores.getD (coreIndex st.gangs c.cores.length i) 0) (startGang crew c st l.arg i))
      (s.mapCrew crew fun d => { d with phase := .running, popped := if c.unpinned then d.popped else none }) := by
  have hroom : ((List.range c.cores.length).all fun j =>
      decide ((s.residents (c.cores.getD j 0)).length + shareOf st.gangs c.cores.length j ≤ Config.gangSlots)) = true := by
    simpa using R.room
  unfold State.startTask
  simp only [R.isCrew, R.launch, R.stage, R.phase, R.staged, R.going, hroom, R.runs]
  simp only [ne_eq, not_true_eq_false, decide_false, Bool.not_true, Bool.or_self, Bool.false_eq_true, ↓reduceIte]
  congr 1
  obtain h | h := R.item
  · rw [h]
    split <;> rfl
  · rw [if_pos h]

/-- What the start of a task leaves. -/
theorem State.startTask_done {l : Launch} {st : Stage} (R : StartReady s crew c l st) :
    Yields (.taskStart crew) s fun t => (∃ c', t.crew? crew = some c' ∧ c'.phase = .running) ∧
      (c.cont = none → ∀ i, i < st.gangs → ∃ gk g, t.gang? gk = some g ∧ g.crew = crew ∧ g.ctx = c.ctx ∧ g.level = c.level ∧
        g.core = c.cores.getD (coreIndex st.gangs c.cores.length i) 0 ∧ StartGang c l st i g) ∧
      (∀ k, c.cont = some k → ∃ gk g, t.gang? gk = some g ∧ g.crew = crew ∧ g.level = c.level ∧ g.core = c.homeCore ∧ g.index = k.gang.index ∧
        g.threads = k.gang.threads ∧ g.v = k.gang.v ∧ g.k = k.gang.k) ∧
      (st.gangs = 1 → ∀ slot, s.pickSlot c.homeCore = some slot → (s.cachedLines c.homeCore (slot / 24)).length + 131 ≤ Config.regCache → MemKept s t) := by
  obtain ⟨hnd, hne⟩ := R.cores
  refine ⟨_, rfl, ?_⟩
  rw [State.startTask_eq R]
  have hroom := start_room hnd hne R.room
  have hhome : c.cores.getD (coreIndex 1 c.cores.length 0) 0 = c.homeCore := by simp [coreIndex, Crew.homeCore]
  obtain ⟨hcrews, -, hseated, -⟩ := seatAll (s := s.mapCrew crew fun d => { d with phase := .running, popped := if c.unpinned then d.popped else none })
    (g := startGang crew c st l.arg) hroom st.gangs (Nat.le_refl _)
  refine ⟨?_, fun hc i hi => ?_, fun k hk => ?_, fun hone slot hslot hlines => ?_⟩
  · refine InPhase.of_crews ?_ hcrews
    exact ⟨_, by rw [State.crew?_mapCrew, if_pos rfl, R.isCrew]; rfl, rfl⟩
  · obtain ⟨y, hy, hcore, hb⟩ := hseated i hi
    have hg : (startGang crew c st l.arg i).crew = crew ∧ (startGang crew c st l.arg i).ctx = c.ctx ∧ (startGang crew c st l.arg i).level = c.level := by
      unfold startGang
      rw [hc]
      exact ⟨rfl, rfl, rfl⟩
    exact ⟨_, y, hy, (congrArg Gang.crew hb).trans hg.1, (congrArg Gang.ctx hb).trans hg.2.1, (congrArg Gang.level hb).trans hg.2.2, hcore, startGang_starts hc hb⟩
  · have hone : st.gangs = 1 := by
      have hs := R.stage
      simp only [State.stageOfCrew, hk, Option.isSome_some, ↓reduceIte, Option.map_eq_some_iff] at hs
      obtain ⟨t, -, rfl⟩ := hs
      rfl
    obtain ⟨y, hy, hcore, hb⟩ := hseated 0 (by omega)
    have hg : startGang crew c st l.arg 0 = { k.gang with crew := crew, level := c.level } := by
      unfold startGang
      rw [hk]
    rw [hg] at hb
    rw [hone, hhome] at hcore
    exact ⟨_, y, hy, (congrArg Gang.crew hb :), (congrArg Gang.level hb :), hcore, (congrArg Gang.index hb :), (congrArg Gang.threads hb :), (congrArg Gang.v hb :),
      (congrArg Gang.k hb :)⟩
  · rw [hone, show List.range 1 = [0] from rfl, List.foldl_cons, List.foldl_nil, hhome]
    obtain ⟨h1, h2, h3, h4⟩ := State.seatGang_mem (s := s.mapCrew crew fun d => { d with phase := .running, popped := if c.unpinned then d.popped else none })
      hslot hlines (startGang crew c st l.arg 0)
    exact ⟨h1, h2, h3, h4⟩

end Sys2Proof.Machine
end

section
/-! THEOREMS. The steps of a task (O45). -/

open Sys2Proof Sys2Proof.Machine Sys2Proof.Claims

/-- Settles O45: a clause for each step, from the lemma on what it leaves. -/
theorem taskSteps : Obligations.TaskSteps := by
  unfold Obligations.TaskSteps
  refine ⟨fun s core => ⟨_, rfl, ?_, ?_⟩, fun s crew c l st R => State.startTask_done R, fun s u crew c hc => ⟨?_, ?_⟩, fun s crew error c l hc hl => ⟨?_, ?_⟩⟩
  · unfold State.core
    rw [State.leaveHandover_cores]
    exact s.emptyBlocks_way core
  · intro crew c hc hp hcores hcl
    exact State.leaveHandover_staging (((s.emptyBlocks_work core).crew? crew).trans hc) hp hcores hcl (s.strayLines_emptyBlocks core)
  · exact fun h => ⟨_, rfl, State.retireTask_waits hc h⟩
  · intro h hp
    have hgone := State.retireTask_gone hc h hp
    exact ⟨_, rfl, hgone.noCrew, hgone.noGang⟩
  · intro h
    refine ⟨_, rfl, ?_⟩
    rw [hc]
    dsimp only
    rw [if_neg]
    obtain h | ⟨h1, h2⟩ := h
    · simp [h]
    · simp [h1, h2]
  · intro hmay hwhy
    refine ⟨s.abortTask crew, ?_, State.abortTask_kept hc hl⟩
    show Host.Outcome.next (match s.crew? crew with | some c => if c.mayAbort && (error || s.outranked c) then s.abortTask crew else s | none => s) = _
    rw [hc]
    dsimp only
    rw [if_pos]
    simpa [hmay] using hwhy

end

section
/-! SUPPORT. A waiting lane that looks again: what going on with its instruction makes of it, and what becomes of the lane that asked a module. -/

namespace Sys2Proof.Machine

-- one after the other, so that the whole text compiles within the memory that the check allows
set_option Elab.async false

open Sys2Proof.Claims

variable {s : State} {gk l : Nat} {g : Gang} {p : Pend}

/-! ## Threads have moved -/

theorem State.unattend_keeps (s : State) (gk : Nat) : (s.unattend gk).gangs = s.gangs ∧ (s.unattend gk).modCmds = s.modCmds := by
  unfold State.unattend
  split
  · exact ⟨rfl, rfl⟩
  · split
    · exact ⟨rfl, rfl⟩
    · exact ⟨rfl, rfl⟩

/-- The gang of which threads have moved is there afterwards, settled and with its registers, and the commands of modules are kept. -/
structure Moved (s t : State) (gk : Nat) (g : Gang) : Prop where
  gang : ∃ x, t.gang? gk = some x ∧ x.threads = g.settle.threads ∧ x.v = g.v ∧ x.k = g.k
  modCmds : t.modCmds = s.modCmds

theorem Moved.sched {t u : State} (h : Moved s t gk g) (o : SchedOnly t u) : Moved s u gk g := by
  obtain ⟨x, hx, x1, x2, x3⟩ := h.gang
  obtain ⟨y, hy, y1, y2, y3⟩ := o.self gk x hx
  exact ⟨⟨y, hy, y1.trans x1, y2.trans x2, y3.trans x3⟩, o.rest.modCmds.trans h.modCmds⟩

theorem State.settleGang_moved (hg : s.gang? gk = some g) : Moved s (s.settleGang gk) gk g := by
  obtain ⟨hgangs, hmod⟩ := (s.mapGang gk Gang.settle).unattend_keeps gk
  have hset : ((s.mapGang gk Gang.settle).unattend gk).gang? gk = some g.settle := by
    unfold State.gang?
    rw [hgangs]
    exact ((s.gang?_mapGang gk gk Gang.settle).trans (if_pos rfl)).trans (congrArg (Option.map Gang.settle) hg)
  unfold State.settleGang
  simp only [hset]
  have base : Moved s ((s.mapGang gk Gang.settle).unattend gk) gk g := ⟨⟨_, hset, rfl, rfl, rfl⟩, hmod⟩
  have bars := base.sched (State.settleBarriers_only _ g.settle.crew)
  split
  · exact bars
  · exact bars.sched (State.releaseSlot_only _ gk)

theorem State.settleEvent_moved (hg : s.gang? gk = some g) : Moved s (s.settleEvent gk) gk g :=
  (State.settleGang_moved hg).sched (State.releaseSlot_only _ gk)

/-- A parked lane goes on once no other lane of its gang waits (R144). -/
theorem Gang.settle_unparks (h : l < g.threads.length) (hp : (g.th l).parked = true) (lone : ∀ m, m < 32 → m ≠ l → (g.th m).run ≠ .blocked) (h32 : l < 32) :
    g.settle.th l = { g.th l with run := .run, wait := none } := by
  have h1 : g.unparks l = true := by
    simp only [Gang.unparks, hp, Bool.true_and, List.all_eq_true, List.mem_range]
    intro m hm
    by_cases e : m = l
    · simp [e, hp]
    · simp [lone m hm e]
  have h2 : (g.mapLanes ((List.range 32).filter g.unparks) fun t => { t with run := .run, wait := none }).th l = { g.th l with run := .run, wait := none } := by
    rw [g.th_mapLanes _ _ _ h, if_pos (by simp [h1, h32])]
  unfold Gang.settle
  simp only [Gang.th_prune]
  rw [Gang.th_mapLanes _ _ _ _ (by simpa using h), h2, if_neg]
  simp [h2]

/-! ## One lane goes on -/

/-- The gang after the outcomes of lanes that looked again: the interval of a synchronising operation, the guard of a region, the lanes that wait for the others. -/
def Op.wokenGang (o : Op) (hd : Held) (g : Gang) (outs : List (Nat × LaneOut)) : Gang :=
  let g := if o.form.sync && outs.any (fun x => x.2.completes) then g.endInterval else g
  let g := if outs.any (fun x => x.2.completes) then { g with guard := false } else g
  if o.form.joint then g.park hd outs else g

/-- The interval and the guard stand apart from threads and registers: all that is left is the parking. -/
theorem Op.wokenGang_parks (o : Op) (hd : Held) (g : Gang) (outs : List (Nat × LaneOut)) :
    ∃ x : Gang, x.threads = g.threads ∧ x.v = g.v ∧ x.k = g.k ∧ o.wokenGang hd g outs = if o.form.joint then x.park hd outs else x := by
  unfold Op.wokenGang
  extract_lets g1 g2
  refine ⟨g2, ?_, ?_, ?_, rfl⟩ <;> (unfold g2 g1; split <;> split <;> rfl)

/-- What a wait keeps, for the lanes of one wait that look again. -/
def wakeHeld (g : Gang) (p : Pend) : Held := ⟨p.insn, p.hints, (wakeEnv 0 g [] p).vals, p.since, some p.iv⟩

/-- The state once lanes that looked again have come to their outcomes and taken their faults. -/
def Op.wokenState (o : Op) (u : State) (gk : Nat) (hd : Held) (g2 : Gang) (outs : List (Nat × LaneOut)) : State :=
  (u.setGang gk (o.wokenGang hd (o.form.settleLanes hd (o.form.withK g2 outs) outs).1 outs)).freezeAll gk
    (o.form.settleLanes hd (o.form.withK g2 outs) outs).2

theorem Op.goOn_eq (o : Op) {lanes : List Nat} {u : State} {outs : List (Nat × LaneOut)} {g2 : Gang}
    (hb : o.body (s.bringLines gk (o.form.target ++ linesOf [] o.form.kTarget)) (wakeEnv gk g lanes p) = (u, outs)) (hg : u.gang? gk = some g2) :
    o.goOn s gk g lanes p =
      if (o.form.sCls && outs.any fun x => x.2.completes) || !(o.form.settleLanes (wakeHeld g p) (o.form.withK g2 outs) outs).2.isEmpty
      then (o.wokenState u gk (wakeHeld g p) g2 outs).settleEvent gk else (o.wokenState u gk (wakeHeld g p) g2 outs).settleGang gk := by
  unfold Op.goOn
  extract_lets e r
  have hr : r = (u, outs) := hb
  clear_value r
  subst hr
  dsimp only
  rw [hg]
  rfl

/-- What looking again makes of lane l of gang g, whose outcome is out. -/
structure Looked (f : Form) (g g' : Gang) (l : Nat) (out : LaneOut) : Prop where
  done : ∀ d, out = .done d → (∀ x, (d.set x).pc = x.pc) →
    (g'.th l).run = .run ∧ (g'.th l).pc = d.npc.getD ((g.th l).pc + 4) ∧ ∀ n, n < 128 → g'.readV l n = (g.writeAll l (f.writes d)).readV l n
  fault : ∀ x, out = .fault x → (g'.th l).run = .frozen ∧ (g'.th l).pc = (g.th l).pc ∧ g'.v = g.v
  wait : ∀ why x, out = .wait why x → why ≠ .access → (g'.th l).run = .blocked ∧ (g'.th l).pc = (g.th l).pc ∧ g'.v = g.v

theorem Gang.writeAll_v (l : Nat) (ws : List (Nat × Word)) : ∀ {a b : Gang}, a.v = b.v → (a.writeAll l ws).v = (b.writeAll l ws).v := by
  induction ws with
  | nil => exact fun h => h
  | cons q ws ih => exact fun h => ih (by unfold Gang.writeV; dsimp only; rw [h])

/-- The gang after one lane's outcome, before faults are taken. -/
def Form.oneGang (f : Form) (hd : Held) (g : Gang) (l : Nat) (out : LaneOut) : Gang :=
  (g.writeAll l (f.outWrites out)).setTh l (f.outThread hd g.openNum l (g.th l) out)

section
variable {f : Form} {hd : Held} {out : LaneOut}

theorem Form.settleLanes_one (hl : l < g.threads.length) (hi : out.inside (g.th l)) :
    f.settleLanes hd g [(l, out)] = (f.oneGang hd g l out, (out.fault?.map fun x => (l, x)).toList) := by
  rw [Form.settleLanes_cons, f.settleLane_eq hd hl hi]
  simp [Form.settleLanes, Form.oneGang]

theorem Form.oneGang_len : (f.oneGang hd g l out).threads.length = g.threads.length := by simp [Form.oneGang]

theorem Form.oneGang_th (hl : l < g.threads.length) (m : Nat) :
    (f.oneGang hd g l out).th m = if l = m then f.outThread hd g.openNum l (g.th l) out else g.th m := by
  unfold Form.oneGang
  rw [Gang.th_setTh _ _ _ (by simpa using hl), Gang.th_writeAll]

end

/-- A gang of which lane l alone may wait. -/
structure Lone (g : Gang) (l : Nat) : Prop where
  whole : g.threads.length = 32
  lane : l < 32
  lone : ∀ m, m < 32 → m ≠ l → (g.th m).run ≠ .blocked

section
variable (o : Op) {hd : Held} {out : LaneOut}

theorem Op.wokenGang_len (h : Lone g l) : (o.wokenGang hd (o.form.oneGang hd g l out) [(l, out)]).threads.length = 32 := by
  obtain ⟨y, y1, -, -, hy⟩ := o.wokenGang_parks hd (o.form.oneGang hd g l out) [(l, out)]
  have ylen : y.threads.length = 32 := by rw [y1, Form.oneGang_len, h.whole]
  rw [hy]
  split
  · simpa [Gang.park] using ylen
  · exact ylen

/-- A lane that has completed goes on, though it was parked for the others of its instruction. -/
theorem Op.woken_done (h : Lone g l) (d : Done) {gF : Gang} (z : Froze [] (o.wokenGang hd (o.form.oneGang hd g l (.done d)) [(l, .done d)]) gF) :
    gF.v = (g.writeAll l (o.form.writes d)).v ∧ (gF.settle.th l).run = .run ∧ (gF.settle.th l).pc = (o.form.threadAfter (g.th l) d).pc := by
  have h32 := h.lane
  have hl : l < g.threads.length := h.whole ▸ h32
  have lenF : gF.threads.length = 32 := z.len.trans (o.wokenGang_len h)
  have same : ∀ m, m < 32 → gF.th m = _ := fun m hm => z.same m hm List.not_mem_nil
  have hv := z.v
  have hrun := (o.form.threadAfter_keeps (g.th l) d).1
  obtain ⟨y, y1, y2, -, hy⟩ := o.wokenGang_parks hd (o.form.oneGang hd g l (.done d)) [(l, .done d)]
  have ylen : y.threads.length = 32 := by rw [y1, Form.oneGang_len, h.whole]
  have yth : ∀ m, y.th m = if l = m then o.form.threadAfter (g.th l) d else g.th m := fun m => (Gang.th_congr y1 m).trans (Form.oneGang_th hl m)
  have yl : y.th l = o.form.threadAfter (g.th l) d := (yth l).trans (if_pos rfl)
  rw [hy] at same hv
  split at same
  · next hj =>
    rw [if_pos hj] at hv
    have hpark : ([(l, LaneOut.done d)].filter fun q => q.2.isDone && (y.th q.1).run == .run).map (·.1) = [l] := by simp [LaneOut.isDone, yl, hrun]
    have zth : ∀ m, m < 32 → gF.th m = _ := fun m hm => (same m hm).trans (y.th_mapLanes _ _ m (by omega))
    simp only [hpark, List.mem_singleton] at zth
    have zl := (zth l h32).trans (if_pos rfl)
    have zset := gF.settle_unparks (l := l) (by omega) (by rw [zl]; rfl)
      (fun m hm hne => by rw [zth m hm, if_neg hne, yth m, if_neg (Ne.symm hne)]; exact h.lone m hm hne) h32
    refine ⟨hv.trans y2, ?_, ?_⟩
    · rw [zset]
    · rw [zset, zl, ← yl]
      rfl
  · next hj =>
    rw [if_neg hj] at hv
    have zl := (same l h32).trans yl
    rw [gF.settle_running (by omega) (zl ▸ hrun), zl]
    exact ⟨hv.trans y2, hrun, rfl⟩

/-- A lane that has not completed is not parked. -/
theorem Op.woken_rest (hout : out.isDone = false) :
    (o.wokenGang hd g [(l, out)]).threads = g.threads ∧ (o.wokenGang hd g [(l, out)]).v = g.v := by
  obtain ⟨y, y1, y2, -, hy⟩ := o.wokenGang_parks hd g [(l, out)]
  have hpark : y.park hd [(l, out)] = y := by simp [Gang.park, hout, Gang.mapLanes_nil]
  rw [hy, hpark, ite_self]
  exact ⟨y1, y2⟩

/-- The lane after its outcome, its fault taken and the gang settled. -/
theorem Op.woken_looked (h : Lone g l) {gF x : Gang}
    (z : Froze ((out.fault?.map fun f => (l, f)).toList.map (·.1)) (o.wokenGang hd (o.form.oneGang hd g l out) [(l, out)]) gF)
    (x1 : x.threads = gF.settle.threads) (x2 : x.v = gF.v) : Looked o.form g x l out := by
  have h32 := h.lane
  have hl : l < g.threads.length := h.whole ▸ h32
  have lenF : gF.threads.length = 32 := z.len.trans (o.wokenGang_len h)
  have xth := Gang.th_congr x1 l
  refine ⟨fun d ho hset => ?_, fun f ho => ?_, fun why e ho hne => ?_⟩
  · subst ho
    obtain ⟨dv, drun, dpc⟩ := o.woken_done h d z
    refine ⟨by rw [xth, drun], ?_, fun n _ => Gang.readV_congr (x2.trans dv) l n⟩
    rw [xth, dpc, (o.form.threadAfter_keeps (g.th l) d).2.1, hset]
  · subst ho
    obtain ⟨r1, r2⟩ := o.woken_rest (g := o.form.oneGang hd g l (.fault f)) (l := l) (hd := hd) (out := .fault f) rfl
    have fz := z.frozen l (by simp [LaneOut.fault?]) h32
    rw [Gang.th_congr r1 l, Form.oneGang_th hl l, if_pos rfl] at fz
    rw [xth, gF.settle_frozen (by omega) fz.run]
    exact ⟨fz.run, fz.pc, (x2.trans z.v).trans r2⟩
  · subst ho
    obtain ⟨r1, r2⟩ := o.woken_rest (g := o.form.oneGang hd g l (.wait why e)) (l := l) (hd := hd) (out := .wait why e) rfl
    have hs := z.same l h32 (by simp [LaneOut.fault?])
    rw [Gang.th_congr r1 l, Form.oneGang_th hl l, if_pos rfl] at hs
    have hp : (gF.th l).parked = false := by
      rw [hs]
      simp [Form.outThread, Thread.parked, hne]
    have hrun : (gF.th l).run = .blocked := by rw [hs]; rfl
    rw [xth, Gang.settle_same (by omega) (by rw [hrun]; decide) hp, hs]
    exact ⟨rfl, rfl, (x2.trans z.v).trans r2⟩

end

/-- The outcome speaks of the lane's PC and of the registers alone. -/
theorem Looked.of_same {f : Form} {out : LaneOut} {gK x : Gang} (h : Looked f gK x l out) (hpc : (gK.th l).pc = (g.th l).pc) (hv : gK.v = g.v) : Looked f g x l out := by
  refine ⟨fun d ho hset => ?_, fun f ho => ?_, fun why e ho hne => ?_⟩
  · obtain ⟨h1, h2, h3⟩ := h.done d ho hset
    exact ⟨h1, hpc ▸ h2, fun n hn => (h3 n hn).trans (Gang.readV_congr (Gang.writeAll_v l _ hv) l n)⟩
  · obtain ⟨h1, h2, h3⟩ := h.fault f ho
    exact ⟨h1, h2.trans hpc, h3.trans hv⟩
  · obtain ⟨h1, h2, h3⟩ := h.wait why e ho hne
    exact ⟨h1, h2.trans hpc, h3.trans hv⟩

/-- ONE WAITING LANE LOOKS AGAIN (R16). -/
theorem Op.goOn_looked (o : Op) {u : State} {out : LaneOut} {g2 : Gang} (w : LoneWait s gk g l p)
    (hb : o.body (s.bringLines gk (o.form.target ++ linesOf [] o.form.kTarget)) (wakeEnv gk g [l] p) = (u, [(l, out)]))
    (h2 : u.gang? gk = some g2) (hr : SameRegs g g2) : ∃ g', (o.goOn s gk g [l] p).gang? gk = some g' ∧ Looked o.form g g' l out := by
  have hgo : ∀ {gF : Gang}, (o.wokenState u gk (wakeHeld g p) g2 [(l, out)]).gang? gk = some gF →
      Moved (o.wokenState u gk (wakeHeld g p) g2 [(l, out)]) (o.goOn s gk g [l] p) gk gF := fun hF => by
    rw [o.goOn_eq hb h2]
    split
    · exact State.settleEvent_moved hF
    · exact State.settleGang_moved hF
  -- the gang with the k registers written: its threads and v registers are those of g
  obtain ⟨k1, k2⟩ := o.form.withK_rest g2 [(l, out)]
  have hth := Gang.th_congr k1
  have hpc := (congrArg Thread.pc (hth l)).trans (hr.pc l)
  have lone : Lone (o.form.withK g2 [(l, out)]) l := ⟨(congrArg List.length k1).trans (hr.len.trans w.whole), w.lane, fun m hm hne => by
    obtain ⟨-, -, -, -, -, -, -, hrun⟩ := Thread.of_bare (hr.th m)
    rw [hth m, hrun]
    exact w.lone m hm hne⟩
  have hin : out.inside ((o.form.withK g2 [(l, out)]).th l) := by
    cases out with
    | done d => exact .inr (hpc ▸ w.inside)
    | _ => trivial
  unfold Op.wokenState at hgo
  rw [Form.settleLanes_one (lone.whole ▸ w.lane) hin] at hgo
  -- its fault is taken, and the threads of the gang have moved
  obtain ⟨gF, hF, z⟩ := State.freezeAll_froze (gk := gk) ((u.gang?_setGang gk gk _).trans (if_pos rfl)) (o.wokenGang_len (hd := wakeHeld g p) (out := out) lone)
    (out.fault?.map fun f => (l, f)).toList
  obtain ⟨x, hx, x1, x2, -⟩ := (hgo hF).gang
  exact ⟨x, hx, (o.woken_looked lone z x1 x2).of_same hpc (k2.trans hr.v)⟩

/-! ## The one waiting lane is found -/

theorem Gang.waiting_lone {test : Pend → Bool} {sel : Nat → Bool} (w : LoneWait s gk g l p) (ht : test p = true) (hs : sel l = true) :
    (g.waiting test).filter sel = [l] := by
  have hwait : g.waiting test = (List.range 32).filter (· == l) := by
    refine List.filter_congr fun m hm => ?_
    by_cases e : m = l
    · simp [e, w.blocked, w.wait, ht]
    · have hrun : ((g.th m).run == .blocked) = false := beq_false_of_ne (w.lone m (List.mem_range.1 hm) e)
      simp [hrun, e]
  rw [hwait, List.filter_beq, List.Nodup.count List.nodup_range, if_pos (List.mem_range.2 w.lane)]
  simp [hs]

theorem State.wakeWhere_lone {test : Pend → Bool} {sel : Nat → Bool} (w : LoneWait s gk g l p) (ht : test p = true) (hs : sel l = true) :
    s.wakeWhere gk test sel = s.wakeGroup gk [l] := by
  unfold State.wakeWhere
  rw [w.gang]
  dsimp only
  rw [Gang.waiting_lone w ht hs]
  show State.wakeLanes gk (31 + 1) s [l] = _
  rw [State.wakeLanes]
  simp only [w.gang]
  rfl

theorem State.wakeGroup_goOn (w : LoneWait s gk g l p) (ha : p.why ≠ .access) (ho : ∀ seg, p.why ≠ .ownSegment seg) {o : Op} (hop : opOf p.insn p.hints = some o) :
    s.wakeGroup gk [l] = o.goOn s gk g [l] p := by
  unfold State.wakeGroup
  simp only [w.gang, List.headD_cons, w.wait, hop]

/-- A step that lets the one waiting lane look again. -/
theorem State.looksAgain {i : Instr} (w : LoneWait s gk g l p) (ha : p.why ≠ .access) (ho : ∀ seg, p.why ≠ .ownSegment seg)
    (hi : exec i s = .next (s.wakeGroup gk [l])) : LooksAgain i s gk g l p := by
  intro o u out hop hb hg2
  obtain ⟨g2, h2, hr⟩ := hg2
  obtain ⟨g', hg', hlook⟩ := o.goOn_looked w hb h2 hr
  exact ⟨_, hi, g', State.wakeGroup_goOn w ha ho hop ▸ hg', hlook.done, hlook.fault, hlook.wait⟩

theorem exec_blockedWake (w : LoneWait s gk g l p) {mask : Nat} (hm : mask.testBit l = true) (hp : p.asksModule = false) :
    exec (.blockedWake gk mask) s = .next (s.wakeGroup gk [l]) :=
  congrArg Host.Outcome.next (State.wakeWhere_lone w (test := fun p => !p.asksModule) (by simp [hp]) hm)

theorem Pend.why_of_atGranule (h : p.atGranule = true) : p.why ≠ .access ∧ ∀ seg, p.why ≠ .ownSegment seg := by
  unfold Pend.atGranule at h
  split at h
  · next e => simp [e]
  · cases h

theorem Pend.why_of_atQueue (h : p.atQueue = true) : p.why ≠ .access ∧ ∀ seg, p.why ≠ .ownSegment seg := by
  unfold Pend.atQueue at h
  split at h
  · next e => simp [e]
  · cases h

theorem Pend.why_of_expired {clock : Nat} (h : p.expired clock = true) : p.why ≠ .access ∧ ∀ seg, p.why ≠ .ownSegment seg := by
  unfold Pend.expired at h
  split at h
  · next e => simp [e]
  · cases h

theorem State.settleQueues_nil (h : s.commits = []) : s.settleQueues = s := by
  unfold State.settleQueues
  rw [h]
  rfl

/-- The steps of the device at which a waiting lane looks again (R16, R152, R165, R219). -/
theorem State.waiting_looks (w : LoneWait s gk g l p) :
    (∀ mask, mask.testBit l = true → p.asksModule = false → p.why ≠ .access → (∀ seg, p.why ≠ .ownSegment seg) → LooksAgain (.blockedWake gk mask) s gk g l p) ∧
    (p.atGranule = true → LooksAgain (.fullEmptyWaitSatisfied gk l) s gk g l p) ∧
    (p.atQueue = true → s.commits = [] → LooksAgain (.queueReexamine gk l) s gk g l p) ∧
    (p.expired s.clock = true → LooksAgain (.uliWaitTimeout gk) s gk g l p) := by
  refine ⟨fun mask hm hp ha ho => State.looksAgain w ha ho (exec_blockedWake w hm hp), fun h => ?_, fun h hc => ?_, fun h => ?_⟩
  · obtain ⟨ha, ho⟩ := Pend.why_of_atGranule h
    exact State.looksAgain w ha ho (congrArg Host.Outcome.next (State.wakeWhere_lone w h (by simp)))
  · obtain ⟨ha, ho⟩ := Pend.why_of_atQueue h
    refine State.looksAgain w ha ho (congrArg Host.Outcome.next ?_)
    rw [State.settleQueues_nil hc]
    exact State.wakeWhere_lone w h (by simp)
  · obtain ⟨ha, ho⟩ := Pend.why_of_expired h
    exact State.looksAgain w ha ho (congrArg Host.Outcome.next (State.wakeWhere_lone w (test := fun p => p.expired s.clock) h rfl))

/-! ## A handle, and the segment of a lane's own PC -/

/-- WAITH's test of a handle, as R189 states it. -/
theorem waithHolds_iff (k : Handle) (x : Word) :
    waithHolds k x = true ↔ if x.getLsbD 31 then x.toNat % 2147483648 ≤ k.counter.toNat else x = 0 ∨ x.getLsbD k.st.code = true := by
  unfold waithHolds
  split
  · simp
  · simp [← BitVec.toNat_inj]

/-- WAITH of one lane that names a bound handle. -/
theorem opWaith_body {a b : Src} {h : Hints} {e : Env} {core n : Nat} (hl : e.lanes = [l]) (hb : boundHandle s e l = some (core, n))
    (hx : (!(e.val l 1).getLsbD 31 && bitsAt (e.val l 1).toNat 5 26 != 0) = false) :
    (opWaith a b h).body s e = (s, [(l, if waithHolds (s.handle core n) (e.val l 1) = true then .done {} else .wait (.handle n))]) := by
  unfold opWaith oncePer
  simp only [hl, List.headD_cons, hb, hx, Bool.false_eq_true, ↓reduceIte, List.map_cons, List.map_nil]
  split <;> rfl

theorem State.waith_looks {mask n : Nat} {c : Crew} {a b : Src} {x : Word} (w : LoneWait s gk g l p) (hm : mask.testBit l = true) (hi : p.insn = .waith a b)
    (hw : p.why = .handle n) (hv : p.vals = [word n, x]) (hn : n < 64) (hc : s.crewOf g = some c) (ho : (s.handle c.homeCore n).owner = some g.crew)
    (hx : x.getLsbD 31 = true ∨ x.toNat < 32) :
    Yields (.blockedWake gk mask) s fun t => ∃ g', t.gang? gk = some g' ∧
      if waithHolds (s.handle c.homeCore n) x = true then (g'.th l).run = .run ∧ (g'.th l).pc = (g.th l).pc + 4
      else (g'.th l).run = .blocked ∧ (g'.th l).pc = (g.th l).pc := by
  have hp : p.asksModule = false := by simp [Pend.asksModule, hw]
  have val0 : (wakeEnv gk g [l] p).val l 0 = word n := by simp [wakeEnv, Env.val, w.wait, hv]
  have val1 : (wakeEnv gk g [l] p).val l 1 = x := by simp [wakeEnv, Env.val, w.wait, hv]
  have hword : (word n).toNat = n := by simp only [word, BitVec.toNat_ofNat]; omega
  have hbound : boundHandle s (wakeEnv gk g [l] p) l = some (c.homeCore, n) := by
    unfold boundHandle
    have hcrew : s.crewOf (wakeEnv gk g [l] p).g = some c := hc
    rw [hcrew]
    dsimp only
    rw [val0, hword]
    exact if_pos ⟨hn, ho⟩
  have hmask : (!x.getLsbD 31 && bitsAt x.toNat 5 26 != 0) = false := by
    rcases hx with h | h
    · simp [h]
    · have : bitsAt x.toNat 5 26 = 0 := by unfold bitsAt; omega
      simp [this]
  have hbody := opWaith_body (a := a) (b := b) (h := p.hints) (e := wakeEnv gk g [l] p) rfl hbound (by rw [val1]; exact hmask)
  rw [val1] at hbody
  obtain ⟨t, ht, g', hg', hdone, -, hwait⟩ := State.looksAgain w (by simp [hw]) (by simp [hw]) (exec_blockedWake w hm hp) (opWaith a b p.hints) s _
    (by rw [hi]; rfl) hbody ⟨g, w.gang, .refl g⟩
  refine ⟨t, ht, g', hg', ?_⟩
  split
  · next h =>
    rw [if_pos h] at hdone
    obtain ⟨d1, d2, -⟩ := hdone {} rfl fun _ => rfl
    exact ⟨d1, d2⟩
  · next h =>
    rw [if_neg h] at hwait
    obtain ⟨d1, d2, -⟩ := hwait (.handle n) [] rfl (by simp)
    exact ⟨d1, d2⟩

theorem State.wakeGroup_own {seg : Nat} (w : LoneWait s gk g l p) (hw : p.why = .ownSegment seg) : s.wakeGroup gk [l] = s.wakeOwn gk g [l] seg := by
  unfold State.wakeGroup
  simp only [w.gang, List.headD_cons, w.wait, hw]

/-- A lane that waits for the segment of its own PC runs once it is RESIDENT, and freezes once its fetch has FAULTED (R409). -/
theorem State.ownSegment_wakes {mask seg : Nat} {x : Seg} (w : LoneWait s gk g l p) (hm : mask.testBit l = true) (hw : p.why = .ownSegment seg)
    (hx : s.seg? g.core g.ctx seg = some x) :
    (x.st = .resident → Yields (.blockedWake gk mask) s fun t => ∃ g', t.gang? gk = some g' ∧ (g'.th l).run = .run ∧ (g'.th l).pc = (g.th l).pc) ∧
    (x.st = .faulted → Yields (.blockedWake gk mask) s fun t => ∃ g', t.gang? gk = some g' ∧ (g'.th l).run = .frozen ∧ (g'.th l).pc = (g.th l).pc) := by
  have hp : p.asksModule = false := by simp [Pend.asksModule, hw]
  have he := (exec_blockedWake w hm hp).trans (congrArg Host.Outcome.next (State.wakeGroup_own w hw))
  have h32 := w.lane
  have hlen := w.whole
  refine ⟨fun hst => ⟨_, he, ?_⟩, fun hst => ⟨_, he, ?_⟩⟩
  · unfold State.wakeOwn
    simp only [hx, hst]
    have hth := g.th_mapLanes [l] (fun t => { t with run := .run, wait := none }) l (by omega)
    rw [if_pos (List.mem_singleton_self l)] at hth
    obtain ⟨y, hy, y1, -, -⟩ := (State.settleGang_moved (s := s.setGang gk (g.mapLanes [l] fun t => { t with run := .run, wait := none })) (gk := gk)
      ((s.gang?_setGang gk gk _).trans (if_pos rfl))).gang
    refine ⟨y, hy, ?_⟩
    rw [Gang.th_congr y1 l, Gang.settle_running _ (by simp; omega) (by rw [hth]), hth]
    exact ⟨rfl, rfl⟩
  · unfold State.wakeOwn
    simp only [hx, hst]
    obtain ⟨gF, hF, z⟩ := State.freezeAll_froze w.gang hlen ([l].map fun l => (l, ⟨cCodeSeg, 4, x.va⟩))
    obtain ⟨y, hy, y1, -, -⟩ := (State.settleEvent_moved hF).gang
    have fz := z.frozen l (by simp) h32
    refine ⟨y, hy, ?_⟩
    rw [Gang.th_congr y1 l, gF.settle_frozen (by have := z.len; omega) fz.run]
    exact ⟨fz.run, fz.pc⟩

/-! ## Responses of modules (R347 to R352) -/

theorem State.askerPend_lane {c : ModCmd} (hg : s.gang? gk = some g) (h : s.askerPend c = some (gk, l, p)) : (g.th l).run = .blocked ∧ (g.th l).wait = some p := by
  unfold State.askerPend at h
  split at h
  · cases h
  · split at h
    · cases h
    · next x hx =>
      split at h
      · next q hq =>
        split at h
        · split at h
          · next hr =>
            simp only [Option.some.injEq, Prod.mk.injEq] at h
            obtain ⟨rfl, rfl, rfl⟩ := h
            rw [hg] at hx
            cases hx
            exact ⟨hr.2, hq⟩
          · cases h
        · cases h
      · cases h

/-- Every gang keeps its threads, and the commands of modules are kept. -/
structure ThreadsKept (s t : State) : Prop where
  gang : ∀ k x, s.gang? k = some x → ∃ y, t.gang? k = some y ∧ y.threads = x.threads
  modCmds : t.modCmds = s.modCmds

theorem ThreadsKept.refl (s : State) : ThreadsKept s s := ⟨fun _ x h => ⟨x, h, rfl⟩, rfl⟩

theorem ThreadsKept.trans {s t u : State} (a : ThreadsKept s t) (b : ThreadsKept t u) : ThreadsKept s u :=
  ⟨fun k x hx => by
    obtain ⟨y, hy, h1⟩ := a.gang k x hx
    obtain ⟨z, hz, h2⟩ := b.gang k y hy
    exact ⟨z, hz, h2.trans h1⟩, b.modCmds.trans a.modCmds⟩

theorem ThreadsKept.of_gangs {t : State} (hg : t.gangs = s.gangs) (hm : t.modCmds = s.modCmds) : ThreadsKept s t :=
  ⟨fun k x hx => ⟨x, by unfold State.gang? at *; rw [hg]; exact hx, rfl⟩, hm⟩

theorem ThreadsKept.setGang {t : State} {x : Gang} (h : ThreadsKept s t) (hg : s.gang? gk = some g) (hx : x.threads = g.threads) : ThreadsKept s (t.setGang gk x) := by
  refine ⟨fun k y hy => ?_, h.modCmds⟩
  rw [State.gang?_setGang]
  by_cases e : gk = k
  · subst e
    rw [hg] at hy
    cases hy
    exact ⟨x, if_pos rfl, hx⟩
  · obtain ⟨z, hz, ez⟩ := h.gang k y hy
    exact ⟨z, (if_neg e).trans hz, ez⟩

theorem Gang.setLine_threads (g : Gang) (n : Nat) (ws : List Word) : (g.setLine n ws).threads = g.threads :=
  List.foldlRecOn (motive := fun x : Gang => x.threads = g.threads) _ _ rfl fun x h i _ => by
    dsimp only
    split <;> exact h

theorem State.trimLines_threads (s : State) (core sub : Nat) (keep : Option (Nat × Nat)) : ThreadsKept s (s.trimLines core sub keep) := by
  refine ⟨fun k x hx => ?_, (s.trimLines_work core sub keep).modCmds⟩
  have h := gang?_unlined (s.trimLines_unlined core sub keep) k
  rw [hx] at h
  obtain ⟨y, hy, e⟩ := Option.map_eq_some_iff.1 h
  exact ⟨y, hy, (congrArg Gang.threads e :)⟩

theorem State.touchPage_threads (s : State) (ctx : Nat) (va : DWord) (n : Nat) (a : Access) : ThreadsKept s (s.touchPage ctx va n a) :=
  .of_gangs (State.touchPage_gangs ..) (State.touchPage_work ..).modCmds

theorem State.fillLine_threads (s : State) (gk n : Nat) : ThreadsKept s (s.fillLine gk n) := by
  unfold State.fillLine
  split
  · exact .refl s
  · next g hg =>
    split
    · exact .refl s
    · dsimp only
      refine .trans ?_ (State.trimLines_threads _ _ _ _)
      split
      · exact (ThreadsKept.refl s).setGang hg rfl
      · exact (s.touchPage_threads _ _ _ _).setGang hg (Gang.setLine_threads _ _ _)

theorem State.bringLines_threads (gk : Nat) : ∀ (lines : List Nat) (s : State), ThreadsKept s (s.bringLines gk lines)
  | [], s => .refl s
  | n :: lines, s => (s.fillLine_threads gk n).trans (State.bringLines_threads gk lines _)

theorem State.qopStep_gangs (s : State) (c : ModCmd) : (s.qopStep c).1.gangs = s.gangs := by
  unfold State.qopStep
  dsimp only
  repeat' split
  all_goals simp only [State.settleCommits_gangs, State.setWord64_gangs]

theorem WaitsOn.of_same {t : State} {y : Gang} (hy : t.gang? gk = some y) (ht : y.threads = g.threads) (hr : (g.th l).run = .blocked) (hw : (g.th l).wait = some p) :
    WaitsOn t gk g l p.why := by
  have e := Gang.th_congr ht l
  exact ⟨y, p, hy, by rw [e, hr], by rw [e], by rw [e, hw], rfl⟩

/-- A waiting lane goes on to another wait. -/
theorem WaitsOn.setPend {t : State} {y : Gang} (hy : t.gang? gk = some y) (ht : y.threads = g.threads) (hlen : l < g.threads.length) (hr : (g.th l).run = .blocked)
    (q : Pend) : WaitsOn (t.setPend gk l q) gk g l q.why := by
  have e := Gang.th_congr ht l
  have hth := y.th_setTh l { y.th l with wait := some q } (by rw [ht]; exact hlen)
  rw [if_pos rfl] at hth
  refine ⟨y.setTh l { y.th l with wait := some q }, q, ?_, by rw [hth, ← hr, ← e], by rw [hth, ← e], by rw [hth], rfl⟩
  exact ((t.gang?_mapGang gk gk _).trans (if_pos rfl)).trans (congrArg _ hy)

theorem doneStep_why (c : ModCmd) (pa : Nat) (p : Pend) (v : DWord) (item : List Word) :
    (doneStep c pa p v item).why = .moduleStep pa (if c.subop = qPushRes ∨ c.subop = qPopRes then 1 else 2) := by
  unfold doneStep
  by_cases h1 : c.subop = qPushRes
  · simp only [h1, if_true, true_or]
  · by_cases h2 : c.subop = qPopRes
    · simp only [h2, h2 ▸ h1, if_true, if_false, or_true]
    · simp only [h1, h2, if_false, or_self]
      split <;> rfl

theorem State.queueRec_modCmds (s : State) (ctx : Nat) (r : Rec) : (s.queueRec ctx r).1.modCmds = s.modCmds := by
  unfold State.queueRec
  dsimp only
  split
  · rfl
  · dsimp only
    split
    · rfl
    · exact (State.writeImage_work ..).modCmds

theorem State.freeze_modCmds (s : State) (gk : Nat) (lanes : List Nat) (f : Flt) : (s.freeze gk lanes f).modCmds = s.modCmds := by
  unfold State.freeze
  split
  · rfl
  · dsimp only
    split
    · exact (State.writeImage_work ..).modCmds.trans (State.queueRec_modCmds _ _ _)
    · exact State.queueRec_modCmds _ _ _

theorem State.freezeAll_modCmds (s : State) (gk : Nat) (fs : List (Nat × Flt)) : (s.freezeAll gk fs).modCmds = s.modCmds :=
  foldl_keeps (P := fun t => t.modCmds = s.modCmds) (fun t _ h => (t.freeze_modCmds ..).trans h) _ s rfl

theorem State.dropModCmd_gone (s : State) (tag : Nat) : ∀ x ∈ (s.dropModCmd tag).modCmds, x.tag ≠ tag := fun x hx => by
  have := (List.mem_filter.1 hx).2
  simpa using this

section
variable {tag : Nat} {c : ModCmd} (hf : s.modCmds.find? (fun c => c.tag == tag) = some c) (ha : s.askerPend c = some (gk, l, p))
include hf ha

/-- WAIT (R348): the lane waits for the notice of its command's line. -/
theorem State.respond_wait (hs : s.modStatus c = 1) (hq : (∀ d a b, p.insn ≠ .qtrypop d a b) ∨ c.subop ≠ qPopRes) :
    s.respond tag 1 = (s.putResponse tag 1 0).setModWait (fun x => x.tag == tag) true := by
  unfold State.respond
  simp only [hf, ha, hs, ne_eq, not_true_eq_false, if_false, if_true, one_ne_zero]
  split
  · next d a b e => exact if_neg (hq.resolve_left fun h => h d a b e)
  · rfl

/-- A QTRYPOP finds no item (R164). -/
theorem State.respond_empty (hs : s.modStatus c = 1) (hq : ∃ d a b, p.insn = .qtrypop d a b) (hsub : c.subop = qPopRes) :
    s.respond tag 1 = ((s.dropModCmd tag).putResponse tag 1 0).setPend gk l { p with why := .moduleStep c.pa 0 } := by
  obtain ⟨d, a, b, e⟩ := hq
  unfold State.respond
  simp only [hf, ha, hs, e, hsub, ne_eq, not_true_eq_false, if_false, if_true, one_ne_zero]

variable (hg : s.gang? gk = some g) (hlen : g.threads.length = 32) (hl : l < 32)
include hg hlen hl

/-- DONE (R348): the step has been made at the module, and the lane goes on with it. -/
theorem State.respond_done (hs : s.modStatus c = 0) : (∀ x ∈ (s.respond tag 0).modCmds, x.tag ≠ tag) ∧
    ((∀ d a, p.insn ≠ .qpush d a) → (s.respond tag 0).mem = (s.qopStep c).1.mem) ∧
    WaitsOn (s.respond tag 0) gk g l (.moduleStep c.pa (if c.subop = qPushRes ∨ c.subop = qPopRes then 1 else 2)) := by
  obtain ⟨hrun, -⟩ := State.askerPend_lane hg ha
  unfold State.respond
  simp only [hf, ha, hs, ne_eq, not_true_eq_false, if_false, if_true]
  have hgone := (s.qopStep c).1.dropModCmd_gone tag
  have hgangs : (((s.qopStep c).1.dropModCmd tag).putResponse tag 0 (s.qopStep c).2).gangs = s.gangs := s.qopStep_gangs c
  have hmem : (((s.qopStep c).1.dropModCmd tag).putResponse tag 0 (s.qopStep c).2).mem = (s.qopStep c).1.mem := rfl
  have hcmds : (((s.qopStep c).1.dropModCmd tag).putResponse tag 0 (s.qopStep c).2).modCmds = ((s.qopStep c).1.dropModCmd tag).modCmds := rfl
  rw [← hcmds] at hgone
  generalize ((s.qopStep c).1.dropModCmd tag).putResponse tag 0 (s.qopStep c).2 = u at hgone hgangs hmem ⊢
  have hu : u.gang? gk = some g := (congrArg (Tbl.find? · gk) hgangs).trans hg
  have hlines := State.bringLines_threads gk (s.pushLines c.pa p.insn) u
  obtain ⟨y, hy, ht⟩ := hlines.gang gk g hu
  refine ⟨?_, fun hq => ?_, ?_⟩
  · intro x hx
    exact hgone x (hlines.modCmds ▸ hx)
  · have hnil : s.pushLines c.pa p.insn = [] := by
      unfold State.pushLines
      split
      · next d a e => exact absurd e (hq d a)
      · rfl
    rw [hnil]
    exact hmem
  · rw [← doneStep_why]
    exact WaitsOn.setPend hy ht (by omega) hrun _

/-- RANGE (R350): the lane freezes. -/
theorem State.respond_range (hs : s.modStatus c = 3) : (∀ x ∈ (s.respond tag 3).modCmds, x.tag ≠ tag) ∧
    ∃ g', (s.respond tag 3).gang? gk = some g' ∧ (g'.th l).run = .frozen ∧ (g'.th l).pc = (g.th l).pc := by
  unfold State.respond
  simp only [hf, ha, hs, ne_eq, not_true_eq_false, if_false, OfNat.ofNat_ne_zero, OfNat.ofNat_ne_one]
  have hu : ((s.dropModCmd tag).putResponse tag 3 0).gang? gk = some g := hg
  have hgone : ∀ x ∈ ((s.dropModCmd tag).putResponse tag 3 0).modCmds, x.tag ≠ tag := s.dropModCmd_gone tag
  generalize (s.dropModCmd tag).putResponse tag 3 0 = u at hu hgone ⊢
  obtain ⟨gF, hF, z⟩ := State.freezeAll_froze hu hlen [(l, ⟨cXlatePerm, 0x0A, pairOf (p.vals.getD 0 0) (p.vals.getD 1 0)⟩)]
  have moved := State.settleEvent_moved hF
  obtain ⟨y, hy, y1, -, -⟩ := moved.gang
  have fz := z.frozen l (by simp) hl
  refine ⟨?_, y, hy, ?_⟩
  · rw [moved.modCmds, State.freezeAll_modCmds]
    exact hgone
  · rw [Gang.th_congr y1 l, gF.settle_frozen (by have := z.len; omega) fz.run]
    exact ⟨fz.run, fz.pc⟩

end

/-- The response of a module to the lane that asked it. -/
theorem State.moduleResponse_yields {tag : Nat} {c : ModCmd} (hg : s.gang? gk = some g) (hlen : g.threads.length = 32) (hl : l < 32)
    (hf : s.modCmds.find? (fun c => c.tag == tag) = some c) (ha : s.askerPend c = some (gk, l, p)) :
    (s.modStatus c = 0 → Yields (.moduleResponse tag 0) s fun t => (∀ x ∈ t.modCmds, x.tag ≠ tag) ∧
      ((∀ d a, p.insn ≠ .qpush d a) → t.mem = (s.qopStep c).1.mem) ∧
      WaitsOn t gk g l (.moduleStep c.pa (if c.subop = qPushRes ∨ c.subop = qPopRes then 1 else 2))) ∧
    (s.modStatus c = 1 → ((∀ d a b, p.insn ≠ .qtrypop d a b) ∨ c.subop ≠ qPopRes) → Yields (.moduleResponse tag 1) s fun t => MemKept s t ∧ WaitsOn t gk g l p.why ∧
      t.modCmds = s.modCmds.map fun x => if x.tag = tag then { x with waiting := true } else x) ∧
    (s.modStatus c = 1 → (∃ d a b, p.insn = .qtrypop d a b) → c.subop = qPopRes → Yields (.moduleResponse tag 1) s fun t => MemKept s t ∧
      (∀ x ∈ t.modCmds, x.tag ≠ tag) ∧ WaitsOn t gk g l (.moduleStep c.pa 0)) ∧
    (s.modStatus c = 3 → Yields (.moduleResponse tag 3) s fun t => (∀ x ∈ t.modCmds, x.tag ≠ tag) ∧
      ∃ g', t.gang? gk = some g' ∧ (g'.th l).run = .frozen ∧ (g'.th l).pc = (g.th l).pc) := by
  obtain ⟨hrun, hwait⟩ := State.askerPend_lane hg ha
  refine ⟨fun hs => ⟨_, rfl, State.respond_done hf ha hg hlen hl hs⟩, fun hs hq => ⟨_, congrArg Host.Outcome.next (State.respond_wait hf ha hs hq), ?_, ?_, ?_⟩,
    fun hs hq hsub => ⟨_, congrArg Host.Outcome.next (State.respond_empty hf ha hs hq hsub), ?_, ?_, ?_⟩,
    fun hs => ⟨_, rfl, State.respond_range hf ha hg hlen hl hs⟩⟩
  · exact ⟨rfl, rfl, rfl, rfl⟩
  · exact WaitsOn.of_same (y := g) hg rfl hrun hwait
  · exact List.map_congr_left fun x _ => by simp
  · exact ⟨rfl, rfl, rfl, rfl⟩
  · exact s.dropModCmd_gone tag
  · exact WaitsOn.setPend (y := g) (t := (s.dropModCmd tag).putResponse tag 1 0) hg rfl (by omega) hrun _

theorem State.backInvalidate_cores (s : State) (module maddr n : Nat) : s.backInvalidate module maddr n = { s with cores := (s.backInvalidate module maddr n).cores } := by
  have line : ∀ (t : State) (pa : Nat), t = { s with cores := t.cores } → t.dropCopies pa = { s with cores := (t.dropCopies pa).cores } := fun t pa h => by
    generalize t.cores = cs at h
    subst h
    rfl
  exact foldl_keeps (P := fun t => t = { s with cores := t.cores })
    (fun t p h => foldl_keeps (P := fun t => t = { s with cores := t.cores }) line _ t h) _ s rfl

/-- The notice of a line, without a use by another head (R248): the commands that wait for it are repeated. -/
theorem State.moduleNotice_yields (module maddr : Nat) (hc : s.commits = []) : Yields (.moduleNotice module ⟨maddr, none⟩) s fun t => MemKept s t ∧
    t.modCmds = s.modCmds.map fun c => if c.module = module ∧ c.addr / 64 = maddr / 64 then { c with waiting := false } else c := by
  have h := s.backInvalidate_cores module maddr 1
  have he : exec (.moduleNotice module ⟨maddr, none⟩) s =
      .next (({ s with cores := (s.backInvalidate module maddr 1).cores } : State).setModWait (fun c => c.module == module && c.addr / 64 == maddr / 64) false) := by
    show Host.Outcome.next ((s.backInvalidate module maddr 1).settleQueues.setModWait (fun c => c.module == module && c.addr / 64 == maddr / 64) false) = _
    rw [State.settleQueues_nil (by rw [h]; exact hc), ← h]
  exact ⟨_, he, ⟨rfl, rfl, rfl, rfl⟩, List.map_congr_left fun c _ => by simp⟩

end Sys2Proof.Machine
end

section
/-! THEOREMS. Waits that end. -/

open Sys2Proof Sys2Proof.Machine Sys2Proof.Claims

/-- Settles O36: a lane that looks again is one lane that goes on with its instruction (`Op.goOn_looked`), whatever the instruction; the responses of modules keep every other thread. -/
theorem waitsEnd : Obligations.WaitsEnd := by
  unfold Obligations.WaitsEnd
  refine ⟨fun s gk l g p w => State.waiting_looks w, fun s tag gk l g p c hg hlen hl hf ha => State.moduleResponse_yields hg hlen hl hf ha, ?_, ?_, ?_, ?_⟩
  · intro s gk mask l n g p c a b x w hm hi hw hv hn hc ho hx
    simp only [← waithHolds_iff]
    exact State.waith_looks w hm hi hw hv hn hc ho hx
  · exact fun s gk mask l seg g p x w hm hw hx => State.ownSegment_wakes w hm hw hx
  · exact fun s tag => ⟨_, rfl, ⟨rfl, rfl, rfl, rfl⟩, List.map_congr_left fun c _ => by simp⟩
  · exact fun s module maddr hc => State.moduleNotice_yields module maddr hc

end
section
/-! SUPPORT. Words and instructions are one to one (R39 to R42, R47, R58, R59): every row of the opcode map makes well-formed instructions whose word holds the fields that the row was given. -/

namespace Sys2Proof

-- One proof at a time: many at once need more threads than the memory limit allows.
set_option Elab.async false

/-! ## Operand codes and fields -/

theorem Src.wf_ofCode {c : Nat} (h : c < 256) : (Src.ofCode c).wf = true := by
  unfold Src.ofCode
  split_ifs <;> simp [Src.wf] <;> omega

theorem Src.toCode_ofCode (c : Nat) : (Src.ofCode c).toCode = c := by
  unfold Src.ofCode
  split_ifs <;> simp [Src.toCode] <;> omega

theorem bit_beq_one {n : Nat} (h : n < 2) : bit (n == 1) = n := by
  interval_cases n <;> rfl

theorem fieldsOf_fit (w : Nat) : (fieldsOf w).Fit := by
  constructor <;> simp only [fieldsOf] <;> omega

theorem dispCode_dispOf {n : Nat} (h : n < 262144) : dispCode (dispOf n) = n := by
  unfold dispOf dispCode
  split <;> omega

theorem dispOf_range {n : Nat} (h : n < 262144) : -131072 ≤ dispOf n ∧ dispOf n < 131072 := by
  unfold dispOf
  split <;> omega

theorem guardRow_eq_ok {ok bad : Bool} {i j : Instr} (h : guardRow ok bad i = .ok j) : ok = true ∧ bad = false ∧ i = j := by
  refine ⟨?_, ?_, guardRow_ok h⟩ <;> cases ok <;> cases bad <;> simp [guardRow] at h ⊢

/-! ## What the rows of the map make -/

/-- An instruction is well-formed where `ok` says so, and its word, if it has one, is `w`. -/
def Instr.Is (i : Instr) (ok : Bool) (w : Option Nat) : Prop := i.wf = ok ∧ encodeNat i = w

/-- A row of the opcode map at a major and a minor makes the instructions of the words with that major and minor, the fields in their places. -/
def Row.Encodes (maj mn : Nat) : Row → Prop
  | .reserved => True
  | .bare i => i.Is true (encodeFields maj mn 0 0 0 0)
  | .nDAB f => ∀ n d a b, (f n d a b).Is (decide (d < 128) && a.wf && b.wf) (encodeFields maj mn (bit n) d a.toCode b.toCode)
  | .nDAI f => ∀ n d a imm, (f n d a imm).Is (decide (d < 128) && a.wf && decide (imm < 256)) (encodeFields maj mn (bit n) d a.toCode imm)
  | .nDA f => ∀ n d a, (f n d a).Is (decide (d < 128) && a.wf) (encodeFields maj mn (bit n) d a.toCode 0)
  | .nD f => ∀ n d, (f n d).Is (decide (d < 128)) (encodeFields maj mn (bit n) d 0 0)
  | .dAB f => ∀ d a b, (f d a b).Is (decide (d < 128) && a.wf && b.wf) (encodeFields maj mn 0 d a.toCode b.toCode)
  | .dA f => ∀ d a, (f d a).Is (decide (d < 128) && a.wf) (encodeFields maj mn 0 d a.toCode 0)
  | .aB f => ∀ a b, (f a b).Is (a.wf && b.wf) (encodeFields maj mn 0 0 a.toCode b.toCode)
  | .aOnly f => ∀ a, (f a).Is a.wf (encodeFields maj mn 0 0 a.toCode 0)

/-- A major of the opcode map makes the instructions of the words with that major. -/
def Major.Encodes (maj : Nat) : Major → Prop
  | .minors r0 r1 r2 r3 => r0.Encodes maj 0 ∧ r1.Encodes maj 1 ∧ r2.Encodes maj 2 ∧ r3.Encodes maj 3
  | .branch f => ∀ a x, (f a x).Is (a.wf && decide (-131072 ≤ x) && decide (x < 131072)) (some (branchWord maj a.toCode (dispCode x)))
  | .hints => maj = 63
  | .reserved => True

/-- The majors of a list, the first of which is major n. -/
def EncodeFrom : Nat → List Major → Prop
  | _, [] => True
  | n, m :: ms => m.Encodes n ∧ EncodeFrom (n + 1) ms

theorem EncodeFrom.append {xs ys : List Major} : ∀ {n : Nat}, EncodeFrom n xs → EncodeFrom (n + xs.length) ys → EncodeFrom n (xs ++ ys) := by
  induction xs with
  | nil => exact fun _ h => h
  | cons x xs ih => exact fun h k => ⟨h.1, ih h.2 (by rwa [List.length_cons, ← Nat.add_assoc, Nat.add_right_comm] at k)⟩

theorem EncodeFrom.getD {ms : List Major} : ∀ {n : Nat}, EncodeFrom n ms → ∀ i, (ms.getD i .reserved).Encodes (n + i) := by
  induction ms with
  | nil => exact fun _ _ => trivial
  | cons m ms ih =>
    rintro n ⟨h, hs⟩ (_ | i)
    · exact h
    · have := ih hs i
      rwa [Nat.add_right_comm] at this

/-- A major of formats R, I and M encodes as its rows say: each row's instructions are well-formed and encoded by definition. -/
theorem majors0_encode : EncodeFrom 0 majors0 := by
  simp [EncodeFrom, majors0, Major.Encodes, Row.Encodes, Instr.Is, Instr.wf, encodeNat]

theorem majors1_encode : EncodeFrom 16 majors1 := by
  simp [EncodeFrom, majors1, Major.Encodes, Row.Encodes, Instr.Is, Instr.wf, encodeNat]

theorem majors2_encode : EncodeFrom 32 majors2 := by
  simp [EncodeFrom, majors2, Major.Encodes, Row.Encodes, Instr.Is, Instr.wf, encodeNat]

theorem majors3_encode : EncodeFrom 48 majors3 := by
  simp [EncodeFrom, majors3, Major.Encodes, Row.Encodes, Instr.Is, Instr.wf, encodeNat]

theorem majors_encode (maj : Nat) : (majors.getD maj .reserved).Encodes maj := by
  have h := (((majors0_encode.append majors1_encode).append majors2_encode).append majors3_encode).getD maj
  rwa [Nat.zero_add] at h

/-! ## A word that decodes -/

/-- An instruction is well-formed and has a word. -/
def Instr.HasWord (i : Instr) (w : Nat) : Prop := i.wf = true ∧ encodeNat i = some w

theorem Row.Encodes.decode {r : Row} {w : Nat} {f : Fields} {i : Instr} (hr : r.Encodes f.maj f.mn) (hf : f.Fit) (h : r.decode w f = .ok i) :
    i.HasWord f.word := by
  obtain ⟨maj, nw, d, a, b, mn⟩ := f
  obtain ⟨-, hnw, hd, ha, hb, -⟩ := hf
  have hwf : ∀ {c}, c < 256 → (Src.ofCode c).wf = true := Src.wf_ofCode
  have hnw1 : ∀ {n : Nat}, n < 2 → (n == 1) = false → n = 0 := fun h h1 => by simp at h1; omega
  have zero : (Src.ofCode 0).toCode = 0 := rfl
  cases r with
  | reserved => cases h
  | bare j =>
    obtain ⟨h0, h1, rfl⟩ := guardRow_eq_ok h
    simp only [Bool.and_eq_true, beq_iff_eq] at h0
    obtain ⟨⟨rfl, rfl⟩, rfl⟩ := h0
    obtain rfl := hnw1 hnw h1
    exact hr
  | nDAB g =>
    obtain rfl := Except.ok.inj h
    simpa [Instr.Is, Instr.HasWord, encodeFields, hd, hwf ha, hwf hb, Src.toCode_ofCode, bit_beq_one hnw] using hr (nw == 1) d (.ofCode a) (.ofCode b)
  | nDAI g =>
    obtain rfl := Except.ok.inj h
    simpa [Instr.Is, Instr.HasWord, encodeFields, hd, hwf ha, hb, Src.toCode_ofCode, bit_beq_one hnw] using hr (nw == 1) d (.ofCode a) b
  | nDA g =>
    obtain ⟨h0, -, rfl⟩ := guardRow_eq_ok h
    obtain rfl := beq_iff_eq.1 h0
    simpa [Instr.Is, Instr.HasWord, encodeFields, hd, hwf ha, Src.toCode_ofCode, bit_beq_one hnw] using hr (nw == 1) d (.ofCode a)
  | nD g =>
    obtain ⟨h0, -, rfl⟩ := guardRow_eq_ok h
    simp only [Bool.and_eq_true, beq_iff_eq] at h0
    obtain ⟨rfl, rfl⟩ := h0
    simpa [Instr.Is, Instr.HasWord, encodeFields, hd, bit_beq_one hnw] using hr (nw == 1) d
  | dAB g =>
    obtain ⟨-, h1, rfl⟩ := guardRow_eq_ok h
    obtain rfl := hnw1 hnw h1
    simpa [Instr.Is, Instr.HasWord, encodeFields, hd, hwf ha, hwf hb, Src.toCode_ofCode] using hr d (.ofCode a) (.ofCode b)
  | dA g =>
    obtain ⟨h0, h1, rfl⟩ := guardRow_eq_ok h
    obtain rfl := beq_iff_eq.1 h0
    obtain rfl := hnw1 hnw h1
    simpa [Instr.Is, Instr.HasWord, encodeFields, hd, hwf ha, Src.toCode_ofCode] using hr d (.ofCode a)
  | aB g =>
    obtain ⟨h0, h1, rfl⟩ := guardRow_eq_ok h
    obtain rfl := beq_iff_eq.1 h0
    obtain rfl := hnw1 hnw h1
    simpa [Instr.Is, Instr.HasWord, encodeFields, hwf ha, hwf hb, Src.toCode_ofCode] using hr (.ofCode a) (.ofCode b)
  | aOnly g =>
    obtain ⟨h0, h1, rfl⟩ := guardRow_eq_ok h
    simp only [Bool.and_eq_true, beq_iff_eq] at h0
    obtain ⟨rfl, rfl⟩ := h0
    obtain rfl := hnw1 hnw h1
    simpa [Instr.Is, Instr.HasWord, encodeFields, hwf ha, Src.toCode_ofCode] using hr (.ofCode a)

theorem hasWord_decodeHint {k p : Nat} {i : Instr} (hk : k < 4) (hp : p < 16777216) (h : decodeHint k p = .ok i) : i.HasWord (hintWord k p) := by
  unfold decodeHint at h
  split_ifs at h with h0 h1 h2 h3
  · obtain rfl := Except.ok.inj h
    exact ⟨decide_eq_true hp, by rw [h0]; rfl⟩
  · obtain rfl := Except.ok.inj h
    exact ⟨decide_eq_true hp, by rw [h1]; rfl⟩
  · obtain rfl := Except.ok.inj h
    exact ⟨decide_eq_true hp, by rw [h2]; rfl⟩
  · obtain rfl := Except.ok.inj h
    obtain rfl : k = 3 := by omega
    refine ⟨?_, ?_⟩
    · simp only [Instr.wf, Bool.and_eq_true, decide_eq_true_eq]
      omega
    · rw [encodeNat, Nat.div_add_mod']

theorem Major.row_encodes {m : Major} {maj mn : Nat} (h : m.Encodes maj) (hmn : mn < 4) : (m.row mn).Encodes maj mn := by
  cases m with
  | minors r0 r1 r2 r3 =>
    obtain ⟨h0, h1, h2, h3⟩ := h
    interval_cases mn <;> assumption
  | _ => trivial

/-- The word of format B with the fields of a word. -/
theorem branchWord_fields {w : Nat} (hw : w < 4294967296) : branchWord (fieldsOf w).maj (w / 262144 % 256) (w % 262144) = w := by
  simp only [branchWord, fieldsOf]; omega

theorem hintWord_fields {w : Nat} (hw : w < 4294967296) (h : (fieldsOf w).maj = 63) : hintWord (w / 16777216 % 4) (w % 16777216) = w := by
  simp only [hintWord, fieldsOf] at *; omega

/-- A word that decodes is the word of a well-formed instruction (R40, R47, R58). -/
theorem hasWord_decodeNat {w : Nat} {i : Instr} (hw : w < 4294967296) (h : decodeNat w = .ok i) : i.HasWord w := by
  have he := majors_encode (fieldsOf w).maj
  unfold decodeNat at h
  generalize majors.getD (fieldsOf w).maj .reserved = m at he h
  cases m with
  | reserved => cases h
  | hints => exact hintWord_fields hw he ▸ hasWord_decodeHint (Nat.mod_lt _ (by decide)) (Nat.mod_lt _ (by decide)) h
  | branch f =>
    obtain rfl := Except.ok.inj h
    have hd := Nat.mod_lt w (show 262144 > 0 by decide)
    have ha := Nat.mod_lt (w / 262144) (show 256 > 0 by decide)
    obtain ⟨h1, h2⟩ := he (.ofCode (w / 262144 % 256)) (dispOf (w % 262144))
    refine ⟨?_, ?_⟩
    · rw [h1]
      simp [Src.wf_ofCode ha, dispOf_range hd]
    · rw [h2, Src.toCode_ofCode, dispCode_dispOf hd, branchWord_fields hw]
  | minors r0 r1 r2 r3 =>
    have := (Major.row_encodes he (fieldsOf_fit w).mn).decode (fieldsOf_fit w) h
    rwa [Fields.word_fieldsOf hw] at this

/-! ## The word of an instruction -/

theorem encode_eq {i : Instr} {w : Word} (h : encode i = [w]) : ∃ n, encodeNat i = some n ∧ w = BitVec.ofNat 32 n := by
  unfold encode at h
  split at h
  · next n hn => exact ⟨n, hn, (List.singleton_inj.1 h).symm⟩
  · cases h

theorem encode_of_hasWord {i : Instr} {w : Word} (h : i.HasWord w.toNat) : encode i = [w] := by
  rw [encode, h.2]
  exact congrArg (fun x => [x]) (BitVec.ofNat_toNat ..)

/-- Every instruction word of the table has a number, by the definition of the encoder. -/
theorem encodeNat_isSome {i : Instr} (h : i.isEvent = false) : (encodeNat i).isSome = true := by
  cases i <;> simp [Instr.isEvent] at h <;> rfl

theorem encode_of_word {i : Instr} (h : i.isEvent = false) : ∃ w, encode i = [w] := by
  obtain ⟨n, hn⟩ := Option.isSome_iff_exists.1 (encodeNat_isSome h)
  exact ⟨_, by rw [encode, hn]⟩

/-- The four bytes of a word, put together again, are the word (R4). -/
theorem decodeBytes_bytesOfWord {w : Word} {i : Instr} (hi : decode w = .ok i) (rest : List Byte) :
    decodeBytes (bytesOfWord w ++ rest) = .ok (i, rest) := by
  have h : wordOfBytes (w.extractLsb' 0 8) (w.extractLsb' 8 8) (w.extractLsb' 16 8) (w.extractLsb' 24 8) = w := by
    refine BitVec.eq_of_toNat_eq ?_
    rw [Machine.wordOfBytes_toNat]
    have := w.isLt
    simp only [Machine.natOfBytes, BitVec.extractLsb'_toNat, Nat.shiftRight_eq_div_pow]
    omega
  simp only [bytesOfWord, List.cons_append, List.nil_append, decodeBytes, h, hi]

end Sys2Proof

namespace Sys2Proof.Laws.Encoding

/-- Every instruction: the words of the table by their laws, and a step of the device has no word. -/
theorem statement (i : Instr) : Statement i := by
  cases i with
  | nop => exact nop | yield => exact yield | exit => exact exit | taskend => exact taskend | add => exact add | sub => exact sub | min => exact min
  | max => exact max | addi => exact addi | mini => exact mini | maxi => exact maxi | minu => exact minu | maxu => exact maxu | abs => exact abs
  | neg => exact neg | mul => exact mul | mulh => exact mulh | mulhu => exact mulhu | mad => exact mad | and => exact and | or => exact or
  | xor => exact xor | andn => exact andn | andi => exact andi | ori => exact ori | xori => exact xori | shl => exact shl | shr => exact shr
  | sar => exact sar | rol => exact rol | shli => exact shli | shri => exact shri | sari => exact sari | roli => exact roli | clz => exact clz
  | popc => exact popc | brev => exact brev | bytep => exact bytep | bfe => exact bfe | bfeu => exact bfeu | bfi => exact bfi | seq => exact seq
  | sne => exact sne | slt => exact slt | sle => exact sle | sltu => exact sltu | sleu => exact sleu | sel => exact sel | mov => exact mov
  | add64 => exact add64 | sub64 => exact sub64 | mad64 => exact mad64 | shl64 => exact shl64 | sext8 => exact sext8 | sext16 => exact sext16
  | zext8 => exact zext8 | zext16 => exact zext16 | fadd => exact fadd | fsub => exact fsub | fmul => exact fmul | fma => exact fma
  | fmin => exact fmin | fmax => exact fmax | fabs => exact fabs | fneg => exact fneg | fseq => exact fseq | fslt => exact fslt | fsle => exact fsle
  | fsun => exact fsun | rcp => exact rcp | rsq => exact rsq | sqrt => exact sqrt | ex2 => exact ex2 | lg2 => exact lg2 | tanh => exact tanh
  | floor => exact floor | frint => exact frint | badd2 => exact badd2 | bmul2 => exact bmul2 | bfma2 => exact bfma2 | bmax2 => exact bmax2
  | hadd2 => exact hadd2 | hmul2 => exact hmul2 | hfma2 => exact hfma2 | hmax2 => exact hmax2 | f2i => exact f2i | i2f => exact i2f
  | f2n => exact f2n | n2f => exact n2f | f2bf2 => exact f2bf2 | f2h2 => exact f2h2 | bf2f => exact bf2f | h2f => exact h2f | qf8 => exact qf8
  | qf4 => exact qf4 | dq8 => exact dq8 | dq4 => exact dq4 | uadd => exact uadd | usub => exact usub | umul => exact umul | umov => exact umov
  | uand => exact uand | uor => exact uor | uxor => exact uxor | ushr => exact ushr | ushl => exact ushl | uadd64 => exact uadd64
  | useq => exact useq | uslt => exact uslt | rdlane => exact rdlane | umin => exact umin | umax => exact umax | uaddi => exact uaddi
  | shflIdx => exact shflIdx | shflUp => exact shflUp | shflDn => exact shflDn | shflXor => exact shflXor | voteAll => exact voteAll
  | voteAny => exact voteAny | ballot => exact ballot | matchAny => exact matchAny | radd => exact radd | rmin => exact rmin | rmax => exact rmax
  | rfadd => exact rfadd | brz => exact brz | brnz => exact brnz | call => exact call | jmpi => exact jmpi | ret => exact ret | meet => exact meet
  | rdmt => exact rdmt | jf => exact jf | callf => exact callf | cfetch => exact cfetch | cqry => exact cqry | ldB => exact ldB | ldH => exact ldH
  | ldW => exact ldW | ldD => exact ldD | ldBu => exact ldBu | ldHu => exact ldHu | ldQ => exact ldQ | ldF => exact ldF | stB => exact stB
  | stH => exact stH | stW => exact stW | stD => exact stD | stQ => exact stQ | ldxW => exact ldxW | ldxD => exact ldxD | ldxQ => exact ldxQ
  | stxW => exact stxW | stxD => exact stxD | stxQ => exact stxQ | amoAdd => exact amoAdd | amoMin => exact amoMin | amoMax => exact amoMax
  | amoAnd => exact amoAnd | amoOr => exact amoOr | amoXor => exact amoXor | amoXchg => exact amoXchg | amoCas => exact amoCas
  | amoFadd => exact amoFadd | amoBfadd2 => exact amoBfadd2 | amoMinu => exact amoMinu | amoMaxu => exact amoMaxu | amoxAdd => exact amoxAdd
  | amoxCas => exact amoxCas | amoxXchg => exact amoxXchg | amoxFadd => exact amoxFadd | fence => exact fence | fencex => exact fencex
  | bar => exact bar | gbar => exact gbar | qpush => exact qpush | qpop => exact qpop | qtrypop => exact qtrypop | qlen => exact qlen
  | xqCp => exact xqCp | xqGx => exact xqGx | xqNe => exact xqNe | xqCl => exact xqCl | waith => exact waith | hset => exact hset
  | hqry => exact hqry | hbind => exact hbind | tlrSet => exact tlrSet | tlrInv => exact tlrInv | tlrRd => exact tlrRd | mma => exact mma
  | mmas => exact mmas | podid => exact podid | podmap => exact podmap | trap => exact trap | svc => exact svc | brk => exact brk
  | assert => exact assert | frd => exact frd | fwr => exact fwr | fres => exact fres | fkill => exact fkill | uliSend => exact uliSend
  | uliWait => exact uliWait | uliMask => exact uliMask | uliBind => exact uliBind | launch => exact launch | spawn => exact spawn
  | rdsr => exact rdsr | wrsr => exact wrsr | invl => exact invl | invla => exact invla | pgqry => exact pgqry | hxImm => exact hxImm
  | hxExt => exact hxExt | hxRegion => exact hxRegion | hxSched => exact hxSched
  | _ => exact of_none rfl

end Sys2Proof.Laws.Encoding

namespace Sys2Proof

/-- The word of a well-formed instruction decodes to it (R39 to R42, R58, R59). -/
theorem decode_encode {i : Instr} {w : Word} (hi : i.wf = true) (h : encode i = [w]) : decode w = .ok i := by
  obtain ⟨n, hn, rfl⟩ := encode_eq h
  obtain ⟨hlt, hd⟩ := Laws.Encoding.statement i hi n hn
  rw [decode, BitVec.toNat_ofNat, Nat.mod_eq_of_lt hlt, hd]

end Sys2Proof
end

section

open Sys2Proof Sys2Proof.Machine Sys2Proof.Claims

/-- Settles O1: each word's fields, by hand, name the row of the map, and the row gives the instruction. -/
theorem wordsDecode : Obligations.WordsDecode := by
  unfold Obligations.WordsDecode
  refine ⟨rfl, rfl, rfl, rfl, rfl, rfl, rfl, rfl, rfl, rfl, rfl, rfl, rfl⟩

/-- Settles O2: the law of each instruction word gives the round trip, and the rows of the opcode map give the way back. -/
theorem decodeEncode : Obligations.DecodeEncode := by
  unfold Obligations.DecodeEncode
  refine ⟨fun i w => decode_encode, fun i w rest hi hw => decodeBytes_bytesOfWord (decode_encode hi hw) rest, fun i j w hi hj hw hw' => ?_, fun i _ hi => .inl (encode_of_word hi),
    fun w i h => ?_⟩
  · exact Except.ok.inj ((decode_encode hi hw).symm.trans (decode_encode hj hw'))
  · have hword := hasWord_decodeNat w.isLt h
    exact ⟨hword.1, encode_of_hasWord hword⟩

end

section
/-! SUPPORT. Hints (R50 to R54, R59): what one that is taken leaves in its threads, and what one that is refused leads to. -/

namespace Sys2Proof.Machine

variable {s : State} {gk : Nat} {g : Gang} {m : Nat} {h : Hints}

theorem hintLane_inside {f : Thread → Thread} {t : Thread} (ht : t.pc.toNat % 0x8000 ≠ 0x7FFC) :
    hintLane f t = ({ f { t with rcnt := countUp t.rcnt } with pc := t.pc + 4 }, none) :=
  if_neg ht

/-- Threads of some lanes changed one after the other. -/
def Gang.mapThs (g : Gang) (f : Thread → Thread) (ls : List Nat) : Gang := ls.foldl (fun g l => g.setTh l (f (g.th l))) g

theorem Gang.mapThs_facts (f : Thread → Thread) {ls : List Nat} (hn : ls.Nodup) : ∀ {g : Gang}, (∀ l ∈ ls, l < g.threads.length) →
    (g.mapThs f ls).threads.length = g.threads.length ∧ (g.mapThs f ls).v = g.v ∧ (g.mapThs f ls).k = g.k ∧
      ∀ l, (g.mapThs f ls).th l = if l ∈ ls then f (g.th l) else g.th l := by
  induction ls with
  | nil => exact fun _ => ⟨rfl, rfl, rfl, fun _ => rfl⟩
  | cons x t ih =>
    intro g hl
    obtain ⟨hx, hnt⟩ := List.nodup_cons.1 hn
    have hxl := hl x List.mem_cons_self
    obtain ⟨i1, i2, i3, i4⟩ := ih hnt (g := g.setTh x (f (g.th x))) fun l hm => by simpa using hl l (List.mem_cons_of_mem _ hm)
    have e : g.mapThs f (x :: t) = (g.setTh x (f (g.th x))).mapThs f t := rfl
    rw [e]
    refine ⟨i1.trans (by simp), i2, i3, fun l => ?_⟩
    rw [i4 l, g.th_setTh _ _ hxl]
    by_cases hlx : x = l
    · subst hlx
      simp [hx]
    · simp [hlx, Ne.symm hlx]

/-- A hint whose check fails freezes the lanes and does nothing else (R50, R53). -/
theorem runHint_rejects {begins : Bool} {check : Hints → Option Nat} {f : Thread → Thread} {n : Nat} (I : Issues s gk g m h) (hc : check h = some n) :
    ∃ t, runHint begins check f s = .next t ∧ TakesFault s t gk g m ⟨cIllegalInsn, n, 0⟩ := by
  unfold runHint
  simp only [I.cur, I.gang, I.bound, hc]
  exact ⟨_, rfl, rejectAll_takes _ I.gang I.whole I.some⟩

/-- What a hint that is taken leaves: each lane's thread as `f` says, at the next word, and all else as it was. -/
structure HintTaken (s t : State) (gk : Nat) (g : Gang) (m : Nat) (f : Thread → Thread) : Prop where
  idle : t.cur = none
  rest : RestKept s t
  others : OthersKept s t gk
  self : ∃ g', t.gang? gk = some g' ∧ g'.v = g.v ∧ g'.k = g.k ∧
    (∀ l ∈ lanesOf m, g'.th l = { f { g.th l with rcnt := countUp (g.th l).rcnt } with pc := (g.th l).pc + 4 }) ∧
    (∀ l, l < 32 → l ∉ lanesOf m → ThreadKept (g.th l) (g'.th l))

/-- A hint that passes its check and leaves its threads in RUN is taken, inside its segment (R50, R53, R59). -/
theorem runHint_taken {begins : Bool} {check : Hints → Option Nat} {f : Thread → Thread} (I : Issues s gk g m h) (hc : check h = none)
    (hf : ∀ t, (f t).run = t.run) : ∃ t, runHint begins check f s = .next t ∧ HintTaken s t gk g m f := by
  have hin : ∀ l ∈ lanesOf m, hintLane f (g.th l) = ({ f { g.th l with rcnt := countUp (g.th l).rcnt } with pc := (g.th l).pc + 4 }, none) :=
    fun l hl => hintLane_inside (I.inside l hl)
  have hend : ((lanesOf m).filterMap fun l => (hintLane f (g.th l)).2.map fun x => (l, x)) = [] :=
    List.filterMap_eq_nil_iff.2 fun l hl => by rw [hin l hl]; rfl
  have hlen : ∀ l ∈ lanesOf m, l < ({ g with guard := g.guard && !begins } : Gang).threads.length := fun l hl => by
    simpa [I.whole] using (mem_lanesOf.1 hl).1
  obtain ⟨a1, a2, a3, a4⟩ := Gang.mapThs_facts (fun t => (hintLane f t).1) (lanesOf_nodup m) hlen
  have hissue : s.issueHint gk g (lanesOf m) begins f =
      s.setGang gk (({ g with guard := g.guard && !begins } : Gang).mapThs (fun t => (hintLane f t).1) (lanesOf m)).settle := by
    unfold State.issueHint
    rw [hend]
    rfl
  generalize ({ g with guard := g.guard && !begins } : Gang).mapThs (fun t => (hintLane f t).1) (lanesOf m) = g1 at a1 a2 a3 a4 hissue
  have len1 : g1.threads.length = 32 := a1.trans I.whole
  have lane : ∀ l ∈ lanesOf m, g1.th l = { f { g.th l with rcnt := countUp (g.th l).rcnt } with pc := (g.th l).pc + 4 } := fun l hl => by
    rw [a4 l, if_pos hl]
    exact congrArg Prod.fst (hin l hl)
  refine ⟨_, by unfold runHint; simp only [I.cur, I.gang, I.bound, hc]; rfl, rfl, ?_, ?_, g1.settle, ?_, a2, a3, fun l hl => ?_, fun l h32 hl => ?_⟩
  · rw [hissue]
    exact (RestKept.setGang s gk _).trans (.clearCur _)
  · rw [hissue]
    exact OthersKept.setGang s gk _
  · rw [hissue, State.gang?_clearCur, State.gang?_setGang, if_pos rfl]
  · have hrun : (g1.th l).run = .run := by
      rw [lane l hl]
      exact (hf _).trans (I.run l hl)
    rw [g1.settle_running (by rw [len1]; exact (mem_lanesOf.1 hl).1) hrun, lane l hl]
  · obtain ⟨q1, q2, q3, q4, q5, -⟩ := g1.settle_keeps (l := l) (by rw [len1]; exact h32)
    have e : g1.th l = g.th l := (a4 l).trans (if_neg hl)
    rw [e] at q1 q2 q3 q4 q5
    exact ⟨q1, q2, q3, q4, q5⟩

theorem HintTaken.congr {t : State} {f f' : Thread → Thread} (w : HintTaken s t gk g m f)
    (hf : ∀ t, f' t = { f { t with rcnt := countUp t.rcnt } with pc := t.pc + 4 }) :
    t.cur = none ∧ RestKept s t ∧ OthersKept s t gk ∧
      ∃ g', t.gang? gk = some g' ∧ g'.v = g.v ∧ g'.k = g.k ∧ (∀ l ∈ lanesOf m, g'.th l = f' (g.th l)) ∧
        (∀ l, l < 32 → l ∉ lanesOf m → ThreadKept (g.th l) (g'.th l)) := by
  obtain ⟨g', h1, h2, h3, h4, h5⟩ := w.self
  exact ⟨w.idle, w.rest, w.others, g', h1, h2, h3, fun l hl => (h4 l hl).trans (hf _).symm, h5⟩

end Sys2Proof.Machine
end

section

open Sys2Proof Sys2Proof.Machine Sys2Proof.Claims

/-- Settles O15: a hint that finds none of its kind pending is taken. -/
theorem hintsIssue : Obligations.HintsIssue := by
  unfold Obligations.HintsIssue
  rintro i s gk g m h f - I (⟨p, rfl, hp, rfl⟩ | ⟨p, rfl, hp, rfl⟩ | ⟨p, r, rfl, hp, rfl⟩ | ⟨p, rfl, rfl, rfl⟩)
  · obtain ⟨t, ht, w⟩ := runHint_taken (begins := false) (check := fun q => if q.imm.isSome then some 6 else none)
      (f := fun t => { t with hints := { t.hints with imm := some p } }) I (by simp [hp]) fun _ => rfl
    exact ⟨t, ht, w.congr fun _ => rfl⟩
  · obtain ⟨t, ht, w⟩ := runHint_taken (begins := false) (check := fun q => if q.ext.isSome then some 6 else none)
      (f := fun t => { t with hints := { t.hints with ext := some p } }) I (by simp [hp]) fun _ => rfl
    exact ⟨t, ht, w.congr fun _ => rfl⟩
  · obtain ⟨t, ht, w⟩ := runHint_taken (begins := false) (check := fun q => if q.sched.isSome then some 6 else none)
      (f := fun t => { t with hints := { t.hints with sched := some (p * 16 + r) } }) I (by simp [hp]) fun _ => rfl
    exact ⟨t, ht, w.congr fun _ => rfl⟩
  · obtain ⟨t, ht, w⟩ := runHint_taken (begins := true) (check := fun q => if q.isNone then none else some 8)
      (f := fun t => { t with rep := t.pc, rcnt := 1 }) I rfl fun _ => rfl
    exact ⟨t, ht, w.congr fun _ => rfl⟩

end

section
/-! SUPPORT. Faults that every lane of an instruction takes, each with an address of its own: one frozen set, with the first lane's. -/

namespace Sys2Proof.Machine

open Sys2Proof.Claims

variable {s : State} {gk : Nat} {g : Gang} {m : Nat} {h : Hints} {o : Op}

theorem groupFaults_fault {fs : List (Nat × Flt)} : ∀ p ∈ groupFaults fs, ∃ q ∈ fs, q.2 = p.2 := by
  induction fs with
  | nil => exact fun p hp => (List.not_mem_nil hp).elim
  | cons q t ih =>
    intro p hp
    rcases List.mem_cons.1 hp with rfl | hp
    · exact ⟨q, List.mem_cons_self, rfl⟩
    · obtain ⟨r, hr, e⟩ := ih p (List.mem_filter.1 hp).1
      exact ⟨r, List.mem_cons_of_mem _ hr, e⟩

/-- Two faults that go into one frozen set (R311). -/
def Flt.Alike (a b : Flt) : Prop := a.cls = b.cls ∧ a.sub = b.sub

theorem groupFaults_alike {fl : Nat → Flt} {ls : List Nat} {f : Flt} (hne : ls ≠ []) (hf : fl (ls.headD 0) = f)
    (hl : ∀ l ∈ ls, (fl l).Alike f) : groupFaults (ls.map fun l => (l, fl l)) = [(ls, f)] := by
  obtain ⟨x, t, rfl⟩ := List.exists_cons_of_ne_nil hne
  obtain rfl : fl x = f := hf
  have same : (t.map fun l => (l, fl l)).filter (fun p => p.2.cls == (fl x).cls && p.2.sub == (fl x).sub) = t.map fun l => (l, fl l) := by
    rw [List.filter_eq_self]
    intro p hp
    obtain ⟨l, hlt, rfl⟩ := List.mem_map.1 hp
    simpa [Flt.Alike] using hl l (List.mem_cons_of_mem _ hlt)
  have rest : (groupFaults (t.map fun l => (l, fl l))).filter (fun p => !(p.2.cls == (fl x).cls && p.2.sub == (fl x).sub)) = [] := by
    rw [List.filter_eq_nil_iff]
    intro p hp
    obtain ⟨q, hq, e⟩ := groupFaults_fault p hp
    obtain ⟨l, hlt, rfl⟩ := List.mem_map.1 hq
    rw [← e]
    simpa [Flt.Alike] using hl l (List.mem_cons_of_mem _ hlt)
  rw [List.map_cons, groupFaults, same, rest, List.map_map, show ((fun p : Nat × Flt => p.1) ∘ fun l => (l, fl l)) = id from rfl, List.map_id]

theorem State.freezeAll_alike (s : State) (gk : Nat) {fl : Nat → Flt} {ls : List Nat} {f : Flt} (hne : ls ≠ []) (hf : fl (ls.headD 0) = f)
    (hl : ∀ l ∈ ls, (fl l).Alike f) : s.freezeAll gk (ls.map fun l => (l, fl l)) = s.freeze gk ls f := by
  unfold State.freezeAll
  rw [groupFaults_alike hne hf hl]
  rfl

theorem Form.settleLanes_allFault (o : Form) (hd : Held) (fl : Nat → Flt) (ls : List Nat) (g : Gang) :
    o.settleLanes hd g (ls.map fun l => (l, LaneOut.fault (fl l))) = (g, ls.map fun l => (l, fl l)) := by
  induction ls with
  | nil => rfl
  | cons x t ih =>
    rw [List.map_cons, Form.settleLanes_cons]
    simp only [Form.settleLane, ih]
    rfl

/-- After the lanes of an instruction have come to their outcomes in a gang g1, all of them take a fault of one class and subcode (R57, R311). -/
theorem Op.settleGang_faults (o : Op) {S : State} {g1 : Gang} {outs : List (Nat × LaneOut)} {hit : Bool} {fl : Nat → Flt} {f : Flt} (hne : lanesOf m ≠ [])
    (hg : s.gang? gk = some g) (hlen : g.threads.length = 32) (hS : S.setGang gk g1 = s.setGang gk g1) (h1 : g1.threads.length = 32) (hv : g1.v = g.v) (hk : g1.k = g.k)
    (hth : ∀ l, l < 32 → ThreadKept (g.th l) (g1.th l)) (same : g1.ctx = g.ctx ∧ g1.core = g.core ∧ g1.level = g.level ∧ g1.index = g.index)
    (hf : fl ((lanesOf m).headD 0) = f) (hl : ∀ l ∈ lanesOf m, (fl l).Alike f) :
    TakesFault s (o.settleGang S gk outs hit g1 ((lanesOf m).map fun l => (l, fl l))).clearCur gk g m f := by
  have hfs : ((lanesOf m).map fun l => (l, fl l)).isEmpty = false := by simpa using hne
  have hgk : (s.setGang gk g1).gang? gk = some g1 := by rw [State.gang?_setGang, if_pos rfl]
  have hun : (((s.setGang gk g1).freeze gk (lanesOf m) f).mapGang gk Gang.settle).unattend gk = ((s.setGang gk g1).freeze gk (lanesOf m) f).mapGang gk Gang.settle := by
    obtain ⟨g', a, -, -, -, e⟩ := ((s.setGang gk g1).freeze_stays gk g1 (lanesOf m) f hgk h1 fun l hl => (mem_lanesOf.1 hl).1).settle gk
    obtain ⟨x, hx⟩ := List.exists_mem_of_ne_nil _ hne
    refine State.unattend_live a (List.ne_nil_of_mem (a := x) ?_)
    simp only [Gang.live, List.mem_filter, List.mem_range]
    exact ⟨(e x hx).1, by rw [(e x hx).2.run]; rfl⟩
  unfold Op.settleGang
  simp only [hfs, hS, State.freezeAll_alike _ _ hne hf hl, hun, Bool.and_false, Bool.false_and, Bool.false_eq_true, ↓reduceIte]
  exact takes_fault hg hlen hne h1 hv hk hth same ((State.settleBarriers_only _ g1.crew).trans (State.releaseSlot_only _ _))

/-- The end of an instruction of which every lane takes a fault of one class and subcode. -/
theorem Op.finish_faults (o : Op) (hd : Held) (hit : Bool) {fl : Nat → Flt} {f : Flt} (I : Issues s gk g m h) (hf : fl ((lanesOf m).headD 0) = f)
    (hl : ∀ l ∈ lanesOf m, (fl l).Alike f) :
    TakesFault s (o.finish (s.setGang gk (o.reader g m)) gk hd ((lanesOf m).map fun l => (l, .fault (fl l))) hit).clearCur gk g m f := by
  have hany : (((lanesOf m).map fun l => (l, LaneOut.fault (fl l))).any fun p => p.2.completes) = false := by simp [LaneOut.completes]
  have hwait : (((lanesOf m).map fun l => (l, LaneOut.fault (fl l))).any fun p => p.2.waits) = false := by simp [LaneOut.waits]
  have hend : ∀ g', o.endGang hd g' ((lanesOf m).map fun l => (l, .fault (fl l))) = g' := fun g' => by
    simp [Op.endGang, hany, hwait]
  rw [o.finish_eq hd _ hit (by rw [State.gang?_setGang, if_pos rfl]) (by rw [hwait, Bool.and_false]),
    o.form.withK_none _ (fun l => .fault (fl l)) _ (fun _ _ _ h => nomatch h), Form.settleLanes_allFault, hend]
  refine o.settleGang_faults I.some I.gang I.whole ?_ (by simpa using I.whole) rfl rfl (fun l h32 => ?_) ⟨rfl, rfl, rfl, rfl⟩ hf hl
  · unfold State.setGang
    rw [Tbl.put_put]
  · obtain ⟨h1, h2, h3, h4, -, h6, -⟩ := o.form.prepare_keeps g (lanesOf m) (l := l) (by rw [I.whole]; exact h32)
    exact ⟨h1, h2, h3, h4, h6⟩

/-- An accepted instruction whose lanes all take a fault of one class and subcode. -/
theorem run_perLane_faults {i : Instr} {op : Hints → Op} {body : Env → Nat → LaneOut} {fl : Nat → Flt} {f : Flt} (A : Accepts (op h) s gk g m h)
    (hb : (op h).body = perLane body) (hd : ∀ l ∈ lanesOf m, body ((op h).given s gk g m h) l = .fault (fl l))
    (hf : fl ((lanesOf m).headD 0) = f) (hl : ∀ l ∈ lanesOf m, (fl l).Alike f) :
    ∃ t, run i op s = .next t ∧ TakesFault s t gk g m f :=
  ⟨_, run_accepted A (perLane_eq A hb hd), (op h).finish_faults _ _ A.toIssues hf hl⟩

/-- An accepted instruction without a destination that every lane completes. -/
theorem run_passes {i : Instr} {op : Hints → Op} {body : Env → Nat → LaneOut} (A : Accepts (op h) s gk g m h)
    (hb : (op h).body = perLane body) (hn : (op h).form.dst = .none) (hrb : (op h).form.rbCls = false)
    (hd : ∀ l ∈ lanesOf m, body ((op h).given s gk g m h) l = .done {}) :
    ∃ t, run i op s = .next t ∧ Went s t gk g m (fun l => LaneEnd.on (g.th l)) noK := by
  obtain ⟨t, ht, w⟩ := run_went (i := i) A (d := fun _ => {}) (perLane_eq A hb hd) (fun _ => SetsOnly.none_)
    fun l _ p hp => by simp [Form.writes, hn] at hp
  refine ⟨t, ht, w.congr (fun l hl => ?_) fun n => by rw [Form.lastTo_kWrites, hn]; rfl⟩
  obtain ⟨-, p2, p3, p4⟩ := A.reader_th hl
  exact ⟨fun n _ => by simp [Form.endOf, Form.lastTo_writes, hn, LaneEnd.on], rfl, p2.symm, p3.symm, p4.symm, hrb.symm⟩

end Sys2Proof.Machine
end

section
/-! SUPPORT. The turn of a gang whose word is no instruction (R56). -/

namespace Sys2Proof.Machine

open Sys2Proof.Claims

theorem hintSets_subset {g : Gang} {ls : List Nat} : ∀ set ∈ hintSets g ls, ∀ l ∈ set, l ∈ ls := by
  induction ls with
  | nil => exact fun _ h => (List.not_mem_nil h).elim
  | cons x t ih =>
    intro set hs l hl
    rcases List.mem_cons.1 hs with rfl | hs
    · rcases List.mem_cons.1 hl with rfl | hl
      · exact List.mem_cons_self
      · exact List.mem_cons_of_mem _ (List.mem_filter.1 hl).1
    · obtain ⟨u, hu, e⟩ := List.mem_filterMap.1 hs
      cases u with
      | nil => cases e
      | cons y r =>
        dsimp only at e
        split at e
        · cases e
        · cases e
          exact List.mem_cons_of_mem _ (ih _ hu l hl)

/-- The lanes of a choice are lanes of a gang. -/
theorem Gang.choose_lt {g : Gang} {c : Choice} (h : g.choose = some c) : ∀ l ∈ c.lanes, l < 32 := by
  have run : ∀ l ∈ g.lanesIn .run, l < 32 := fun l hl => List.mem_range.1 (List.mem_filter.1 hl).1
  have ordered : ∀ sets : List (List Nat), ∀ set ∈ orderSets g sets, set ∈ sets := fun sets set hs => by
    rcases List.mem_append.1 hs with hs | hs <;> exact (List.mem_filter.1 hs).1
  have inSets : ∀ (p : Nat → Bool) (set : List Nat), set ∈ orderSets g (hintSets g ((g.lanesIn .run).filter p)) → ∀ l ∈ set, l < 32 := fun p set hs l hl =>
    run l (List.mem_filter.1 (hintSets_subset set (ordered _ set hs) l hl)).1
  unfold Gang.choose at h
  dsimp only at h
  split at h
  · cases h
    exact fun l hl => run l (List.mem_filter.1 hl).1
  · split at h
    · cases h
    · split at h
      · cases h
      · next set e =>
        cases h
        exact inSets _ set (by rw [e]; exact List.mem_cons_self)
      · next set rest _ e =>
        cases h
        exact inSets _ set (by rw [e]; exact List.mem_cons_self)

theorem testBit_maskOf (ls : List Nat) (l : Nat) : (maskOf ls).testBit l = decide (l ∈ ls) := by
  have key : ∀ (ls : List Nat) (m : Nat), (ls.foldl (fun m l => m ||| 2 ^ l) m).testBit l = (m.testBit l || decide (l ∈ ls)) := by
    intro ls
    induction ls with
    | nil => simp
    | cons x t ih =>
      intro m
      rw [List.foldl_cons, ih, Nat.testBit_or, Nat.testBit_two_pow]
      simp [Bool.or_assoc, eq_comm]
  exact (key ls 0).trans (by simp)

theorem lanesOf_maskOf_ne_nil {ls : List Nat} (hne : ls ≠ []) (h32 : ∀ l ∈ ls, l < 32) : lanesOf (maskOf ls) ≠ [] := by
  obtain ⟨l, hl⟩ := List.exists_mem_of_ne_nil _ hne
  exact List.ne_nil_of_mem (mem_lanesOf.2 ⟨h32 l hl, by simpa [testBit_maskOf] using hl⟩)

variable {u : State} {gk : Nat} {g : Gang} {c : Choice} {w : Nat} {e : Illegal}

/-- The plan of a gang whose word is no instruction of the table and not one of its reserved encodings. -/
theorem State.plan_of_illegal (hg : u.gang? gk = some g) (hold : g.meet.forcedRun ≠ [] ∨ g.meet.agedPath (u.ctx g.meet.ctx).ageMax = none)
    (hc : g.meet.choose = some c) (hl : c.lanes ≠ []) (hf : (u.setGang gk g.meet).fetch g.meet (c.pc g.meet) = some w)
    (hd : decodeNat w = .error e) (he : ∀ x, e ≠ .reserved x) (hk : g.meet.damagedLanes c.lanes = []) :
    u.plan gk = .illegal (illegalSub e ((g.meet.mapLanes c.lanes Thread.passMeeting).th (c.lanes.headD 0)).hints)
      { u.setGang gk (g.meet.mapLanes c.lanes Thread.passMeeting) with cur := some ⟨gk, maskOf c.lanes⟩ } c := by
  have hage : (if g.meet.forcedRun.isEmpty then g.meet.agedPath ((u.setGang gk g.meet).ctx g.meet.ctx).ageMax else none) = none := by
    rw [show (u.setGang gk g.meet).ctx g.meet.ctx = u.ctx g.meet.ctx from rfl]
    rcases hold with h | h <;> simp [h]
  have hset : (u.setGang gk g.meet).setGang gk (g.meet.mapLanes c.lanes Thread.passMeeting) = u.setGang gk (g.meet.mapLanes c.lanes Thread.passMeeting) := by
    simp [State.setGang, Tbl.put_put]
  unfold State.plan
  simp only [hg, hage, hc, hf, hd, hk, hset]
  split
  · contradiction
  · cases e with
    | reserved x => exact absurd rfl (he x)
    | _ => rfl

/-- The step of a gang whose word is no instruction freezes the lanes that would issue it (R56). -/
theorem step_illegal {s v : State} {n : Nat} (ht : Turning s gk u) (hc : g.choose = some c) (hl : c.lanes ≠ [])
    (hp : u.plan gk = .illegal n v c) (hcur : v.cur = some ⟨gk, maskOf c.lanes⟩) {g' : Gang} (hg' : v.gang? gk = some g') (hlen' : g'.threads.length = 32) :
    ∃ t, step s = .next (t.afterIssue gk v c).dealSlots ∧ TakesFault v t gk g' (maskOf c.lanes) ⟨cIllegalInsn, n, 0⟩ := by
  refine ⟨_, ?_, rejectAll_takes _ hg' hlen' (lanesOf_maskOf_ne_nil hl (Gang.choose_lt hc))⟩
  rw [step_of_turning ht, turn, hp]
  simp only [runIllegal, hcur, hg', afterward]

theorem Thread.passMeeting_hints (t : Thread) : t.passMeeting.hints = t.hints := by
  unfold Thread.passMeeting
  split <;> rfl

theorem Gang.passMeeting_hints {g : Gang} (hlen : g.threads.length = 32) (ls : List Nat) {l : Nat} (h : l < 32) :
    ((g.mapLanes ls Thread.passMeeting).th l).hints = (g.th l).hints := by
  rw [g.th_mapLanes _ _ _ (by omega)]
  split
  · exact Thread.passMeeting_hints _
  · rfl

theorem readNum_word_lt (mem : List Host.Cell) (a : Nat) : readNum mem a 4 < 2 ^ 32 := by
  simp only [readNum, readBytes, natOfBytes]
  omega

theorem decode_word {n : Nat} (h : n < 2 ^ 32) : decode (word n) = decodeNat n := by
  rw [decode, word, BitVec.toNat_ofNat, Nat.mod_eq_of_lt h]

end Sys2Proof.Machine
end

section

open Sys2Proof Sys2Proof.Machine Sys2Proof.Claims

/-- The hints that find one of their kind before their instruction. -/
theorem hint_rejected {i : Instr} {s : State} {gk : Nat} {g : Gang} {m : Nat} {h : Hints} {n : Nat} (I : Issues s gk g m h)
    (hi : (∃ p, i = .hxImm p ∧ h.imm ≠ none ∧ n = 6) ∨ (∃ p, i = .hxExt p ∧ h.ext ≠ none ∧ n = 6) ∨ (∃ p r, i = .hxSched p r ∧ h.sched ≠ none ∧ n = 6) ∨
      (∃ p, i = .hxRegion p ∧ h ≠ Hints.none_ ∧ n = 8)) : ∃ t, exec i s = .next t ∧ TakesFault s t gk g m ⟨cIllegalInsn, n, 0⟩ := by
  obtain ⟨p, rfl, hp, rfl⟩ | ⟨p, rfl, hp, rfl⟩ | ⟨p, r, rfl, hp, rfl⟩ | ⟨p, rfl, hp, rfl⟩ := hi
  · exact runHint_rejects (check := fun q => if q.imm.isSome then some 6 else none) I (if_pos (Option.isSome_iff_ne_none.2 hp))
  · exact runHint_rejects (check := fun q => if q.ext.isSome then some 6 else none) I (if_pos (Option.isSome_iff_ne_none.2 hp))
  · exact runHint_rejects (check := fun q => if q.sched.isSome then some 6 else none) I (if_pos (Option.isSome_iff_ne_none.2 hp))
  · refine runHint_rejects (check := fun q => if q.isNone then none else some 8) I (if_neg fun hn => hp ?_)
    obtain ⟨imm, ext, sched⟩ := h
    simp only [Hints.isNone, Bool.and_eq_true, Option.isNone_iff_eq_none] at hn
    obtain ⟨⟨rfl, rfl⟩, rfl⟩ := hn
    rfl

/-- Settles O17: the hints' checks, the bodies of BRK, TRAP and ASSERT, and the plan of a gang whose word is no instruction. -/
theorem illegalWords : Obligations.IllegalWords := by
  unfold Obligations.IllegalWords
  refine ⟨fun i s gk g m h n I hi => hint_rejected I hi, fun i o s gk g m h R => ⟨?_, fun a => ?_, fun a b => ?_, fun a b => ?_⟩,
    fun w s gk g m h I => runIllegal_takes I _, rfl, rfl, ?_⟩
  · rintro rfl
    obtain ⟨-, R', A⟩ := R
    cases R'
    exact run_perLane_fault (op := opBrk) A rfl fun _ _ => rfl
  · rintro rfl
    obtain ⟨-, R', A⟩ := R
    cases R'
    refine run_perLane_faults (op := opTrap a) (fl := fun l => ⟨cBrk, 2, ((opTrap a h).opnd s g m h .u l a).setWidth 64⟩) A rfl (fun l hl => ?_) rfl
      fun _ _ => ⟨rfl, rfl⟩
    rw [given_val0 rfl, dword_toNat]
  · rintro rfl hz
    obtain ⟨-, R', A⟩ := R
    cases R'
    refine run_perLane_faults (op := opAssert a b) (fl := fun l => ⟨cBrk, 3, ((opAssert a b h).opnd s g m h .u l b).setWidth 64⟩) A rfl (fun l hl => ?_) rfl
      fun _ _ => ⟨rfl, rfl⟩
    rw [given_val0 rfl, if_pos (hz l hl), dword_toNat]
    rfl
  · rintro rfl hz
    obtain ⟨-, R', A⟩ := R
    cases R'
    exact run_passes (op := opAssert a b) A rfl rfl rfl fun l hl => if_neg (by rw [given_val0 rfl]; exact hz l hl)
  · rintro s u v gk g c x w n ht hg - hlen hold hc hl hx hr hw hk rfl hd
    have hfetch := State.fetch_resident (u := u.setGang gk g.meet) hx hr
    have hdec : decodeNat (readNum x.image (c.pc g.meet % 32768) 4) = decode w := by rw [← hw, decode_word (readNum_word_lt _ _)]
    have hlen' : g.meet.threads.length = 32 := by simpa using hlen
    have hint : ((g.meet.mapLanes c.lanes Thread.passMeeting).th (c.lanes.headD 0)).hints = (g.meet.th (c.lanes.headD 0)).hints :=
      Gang.passMeeting_hints hlen' _ (Gang.choose_lt hc _ (by
        obtain ⟨y, t, e⟩ := List.exists_cons_of_ne_nil hl
        simp [e]))
    have hset : State.gang? { u.setGang gk (g.meet.mapLanes c.lanes Thread.passMeeting) with cur := some ⟨gk, maskOf c.lanes⟩ } gk =
      some (g.meet.mapLanes c.lanes Thread.passMeeting) := State.gang?_setGang .. |>.trans (if_pos rfl)
    obtain ⟨hd, rfl⟩ | ⟨rfl, i, o, hd, ho, hi⟩ := hd
    · exact step_illegal ht hc hl (State.plan_of_illegal hg hold hc hl hfetch (hdec.trans hd) (by simp) hk) rfl hset (by simpa using hlen')
    · have hplan := State.plan_of_illegal hg hold hc hl hfetch (hdec.trans hd) (by simp) hk
      rw [show illegalSub (.nw i) _ = 9 by simp only [illegalSub, hint, ho, hi, Option.getD_none, Nat.min_self]] at hplan
      exact step_illegal ht hc hl hplan rfl hset (by simpa using hlen')

end

section
/-! SUPPORT. The instructions that compute words for a vector destination lane by lane: their forms, and the integer instructions among them (R98 to R106). -/

namespace Sys2Proof.Machine

-- One proof at a time: many at once need more threads than the memory limit allows.
set_option Elab.async false

open Sys2Proof.Claims

variable {o : Op} {s : State} {gk : Nat} {g : Gang} {m : Nat} {h : Hints}

/-- An instruction word with an effect is executed as its issue. -/
theorem run_of_opOf {i : Instr} (ho : opOf i h = some o) : ∃ op : Hints → Op, op h = o ∧ ∀ s, exec i s = run i op s := by
  cases i <;> cases ho <;> exact ⟨_, rfl, fun _ => rfl⟩

/-! ## Forms -/

/-- An instruction of registers alone that completes each lane with one or two words for vD, of no class, by itself and at once. -/
structure VecOp (o : Op) (nw : Bool) (d : Nat) (f : Env → Nat → List Word) : Prop where
  body : o.body = perLane fun e l => .done { ws := f e l }
  dst : o.form.dst = .v d
  nw : o.form.nw = nw
  sCls : o.form.sCls = false
  lCls : o.form.lCls = false
  rbCls : o.form.rbCls = false
  entry : o.form.entry = none
  uniform : o.form.uniform = false
  joint : o.form.joint = false
  sync : o.form.sync = false
  mem : o.form.mem = false
  ready : ∀ s e, o.ready s e = true
  short : ∀ e l, (f e l).length ≤ 2
  fits : d < 128 → o.form.illegal = none → ∀ e l, d + (f e l).length ≤ 128

theorem alu_vecOp {nw : Bool} {d : Nat} {srcs : List Opnd} {ext : Nat} {f : Env → Nat → Word} : VecOp (alu nw d srcs ext f) nw d fun e l => [f e l] where
  body := rfl
  dst := rfl
  nw := rfl
  sCls := rfl
  lCls := rfl
  rbCls := rfl
  entry := rfl
  uniform := rfl
  joint := rfl
  sync := rfl
  mem := rfl
  ready _ _ := rfl
  short _ _ := by simp
  fits hd _ _ _ := hd

theorem cross_vecOp {nw : Bool} {d : Nat} {srcs : List Opnd} {f : Env → Nat → Word} : VecOp (cross nw d srcs f) nw d fun e l => [f e l] :=
  alu_vecOp (ext := 0)

theorem aluPair_vecOp {nw : Bool} {d : Nat} {srcs : List Opnd} {ext : Nat} {f : Env → Nat → DWord} :
    VecOp (aluPair nw d srcs ext f) nw d fun e l => Claims.pairWords (f e l) where
  body := rfl
  dst := rfl
  nw := rfl
  sCls := rfl
  lCls := rfl
  rbCls := rfl
  entry := rfl
  uniform := rfl
  joint := rfl
  sync := rfl
  mem := rfl
  ready _ _ := rfl
  short _ _ := by simp [Claims.pairWords]
  fits hd he _ _ := by
    have : d % 2 = 0 := by
      by_contra hodd
      simp [aluPair, oddD, hodd] at he
    simp [Claims.pairWords]
    omega

/-! ## Operand words -/

theorem given_vals_pair {a : Src} {rest : List Opnd} (hs : o.form.srcs = .pair a :: rest) (l : Nat) :
    (o.given s gk g m h).vals l = (((s.viewOf (o.reader g m) h.imm).pairVals l a).getD 0 0) :: (((s.viewOf (o.reader g m) h.imm).pairVals l a).getD 1 0) ::
      rest.flatMap fun p => (s.viewOf (o.reader g m) h.imm).vals l p := by
  rw [Op.given_vals, hs, List.flatMap_cons, show View.vals _ l (.pair a) = View.pairVals _ l a from rfl, View.pairVals_eq]
  rfl

theorem Op.opnd2_eq (l : Nat) (x : Src) : o.opnd2 s g m h l x =
    pairOf (((s.viewOf (o.reader g m) h.imm).pairVals l x).getD 0 0) (((s.viewOf (o.reader g m) h.imm).pairVals l x).getD 1 0) := rfl

/-- The first operand, where it is a pair. -/
theorem given_pair0 {a : Src} {rest : List Opnd} (hs : o.form.srcs = .pair a :: rest) (l : Nat) :
    (o.given s gk g m h).pair l 0 = o.opnd2 s g m h l a := by
  rw [Env.pair, Env.val, Env.val, given_vals_pair hs]
  rfl

/-- The second operand, after a pair. -/
theorem given_val2 {a b : Src} {k : Kind} {rest : List Opnd} (hs : o.form.srcs = .pair a :: .src b k :: rest) (l : Nat) :
    (o.given s gk g m h).val l 2 = o.opnd s g m h k l b := by
  rw [Env.val, given_vals_pair hs]
  rfl

/-- The second and the third operand, after a pair: a pair, and the third operand of the manual (R95). -/
theorem given_pair2_third {a b : Src} {k : Kind} {d : Nat} (hs : o.form.srcs = [.pair a, .pair b, accOpnd h d k]) (l : Nat) :
    (o.given s gk g m h).pair l 2 = o.opnd2 s g m h l b ∧ (o.given s gk g m h).val l 4 = o.opnd s g m h k l (thirdOf h d) := by
  have e := given_vals_pair (s := s) (gk := gk) (g := g) (m := m) (h := h) hs l
  rw [List.flatMap_cons, List.flatMap_singleton, accOpnd_vals, show View.vals _ l (.pair b) = View.pairVals _ l b from rfl, View.pairVals_eq _ l b,
    List.cons_append, List.cons_append, List.nil_append] at e
  rw [Env.pair, Env.val, Env.val, Env.val, e]
  exact ⟨(Op.opnd2_eq l b).symm, rfl⟩

/-- The second operand, after a source. -/
theorem given_val1 {a b : Src} {ka kb : Kind} {rest : List Opnd} (hs : o.form.srcs = .src a ka :: .src b kb :: rest) (l : Nat) :
    (o.given s gk g m h).val l 1 = o.opnd s g m h kb l b := by
  rw [Env.val, Op.given_vals, hs]
  rfl

/-- The third operand, after two sources. -/
theorem given_val2_third {a b : Src} {ka kb k : Kind} {d : Nat} (hs : o.form.srcs = [.src a ka, .src b kb, accOpnd h d k]) (l : Nat) :
    (o.given s gk g m h).val l 2 = o.opnd s g m h k l (thirdOf h d) := by
  rw [Env.val, Op.given_vals, hs]
  change ([_] ++ ([_] ++ (View.vals _ l (accOpnd h d k) ++ []))).getD 2 0 = _
  rw [accOpnd_vals]
  rfl

/-- The third operand as a pair, after two sources (R95). -/
theorem given_pair2_accPair {a b : Src} {ka kb : Kind} {d : Nat} (hs : o.form.srcs = [.src a ka, .src b kb, accPair h d]) (l : Nat) :
    (o.given s gk g m h).pair l 2 = o.opnd2 s g m h l (thirdOf h d) := by
  have acc : ∀ v : View, v.vals l (accPair h d) = v.pairVals l (thirdOf h d) := fun v => by
    unfold accPair thirdOf
    split <;> rfl
  have e := Op.given_vals (s := s) (gk := gk) (g := g) (m := m) (h := h) (o := o) l
  rw [hs, List.flatMap_cons, List.flatMap_cons, List.flatMap_singleton, acc, View.pairVals_eq, show ∀ v : View, v.vals l (.src a ka) = [v.value ka l a] from fun _ => rfl,
    show ∀ v : View, v.vals l (.src b kb) = [v.value kb l b] from fun _ => rfl, List.cons_append, List.cons_append, List.nil_append, List.nil_append] at e
  rw [Env.pair, Env.val, Env.val, e]
  exact (Op.opnd2_eq l _).symm

/-! ## Results in the words of the manual -/

theorem satWord_eq {x : Int} {w : Word} (e : wordOfInt x = w) : satWord (extSat h.x) x = saturated h x w := by
  unfold satWord saturated
  rw [e]

theorem wordOfInt_add (x y : Word) : wordOfInt (sgn x + sgn y) = x + y := by
  show BitVec.ofInt 32 _ = _
  rw [BitVec.ofInt_add, BitVec.ofInt_toInt, BitVec.ofInt_toInt]

theorem wordOfInt_neg (x : Word) : wordOfInt (-sgn x) = -x := by
  show BitVec.ofInt 32 _ = _
  rw [BitVec.ofInt_neg, BitVec.ofInt_toInt]

theorem wordOfInt_sub (x y : Word) : wordOfInt (sgn x - sgn y) = x - y := by
  rw [Int.sub_eq_add_neg, BitVec.sub_eq_add_neg]
  show BitVec.ofInt 32 _ = _
  rw [BitVec.ofInt_add, BitVec.ofInt_neg, BitVec.ofInt_toInt, BitVec.ofInt_toInt]

theorem wordOfInt_mad (x y z : Word) : wordOfInt (sgn z + sgn x * sgn y) = z + x * y := by
  show BitVec.ofInt 32 _ = _
  rw [BitVec.ofInt_add, BitVec.ofInt_mul, BitVec.ofInt_toInt, BitVec.ofInt_toInt, BitVec.ofInt_toInt]

theorem wordOfInt_natAbs (x : Word) : wordOfInt (sgn x).natAbs = if sgn x < 0 then -x else x := by
  split
  · next hx => rw [Int.ofNat_natAbs_of_nonpos hx.le, wordOfInt_neg]
  · next hx => rw [Int.natAbs_of_nonneg (not_lt.1 hx)]; exact BitVec.ofInt_toInt ..

theorem sarW_eq (x c : Word) : sarW x c = wordOfInt (sgn x / 2 ^ min c.toNat 31) := by
  unfold sarW
  rw [← BitVec.ofInt_toInt (x := x.sshiftRight _), BitVec.toInt_sshiftRight, Int.shiftRight_eq_div_pow]
  norm_cast

theorem flag_ne (x y : Word) : flag (x != y) = relation (decide (x ≠ y)) := by
  unfold flag relation
  congr 1
  simp

theorem imm8_toNat (n : Nat) : (imm8 .u n).toNat = n % 256 := by
  show (BitVec.ofNat 32 (n % 256)).toNat = _
  rw [BitVec.toNat_ofNat, Nat.mod_eq_of_lt]
  omega

theorem sarW_imm8 (x : Word) (n : Nat) : sarW x (imm8 .u n) = wordOfInt (sgn x / 2 ^ min (n % 256) 31) := by
  rw [sarW_eq, imm8_toNat]

theorem shlW_imm8 (x : Word) (n : Nat) : shlW x (imm8 .u n) = if 32 ≤ n % 256 then 0 else x <<< (n % 256) := by
  rw [shlW, imm8_toNat]

theorem shrW_imm8 (x : Word) (n : Nat) : shrW x (imm8 .u n) = if 32 ≤ n % 256 then 0 else x >>> (n % 256) := by
  rw [shrW, imm8_toNat]

theorem rolW_imm8 (x : Word) (n : Nat) : rolW x (imm8 .u n) = x.rotateLeft (n % 256 % 32) := by
  rw [rolW, imm8_toNat]

theorem extractLow_eq_and {n : Nat} (hn : n < 32) (x : Word) : (x.extractLsb' 0 n).setWidth 32 = x &&& word (2 ^ n - 1) := by
  refine BitVec.eq_of_toNat_eq ?_
  rw [BitVec.toNat_and, word, BitVec.toNat_ofNat, Nat.mod_eq_of_lt (by have := Nat.pow_lt_pow_right (a := 2) one_lt_two hn; omega), Nat.and_two_pow_sub_one_eq_mod,
    BitVec.toNat_setWidth, BitVec.extractLsb'_toNat, Nat.shiftRight_zero]
  exact Nat.mod_eq_of_lt ((Nat.mod_le _ _).trans_lt x.isLt)

/-! ## The integer instructions (R98 to R106) -/

/-- The instruction computes words for vD lane by lane, and they are those of the manual. -/
def IsInt (i : Instr) (o : Op) (h : Hints) : Prop :=
  ∃ (op : Hints → Op) (nw : Bool) (d : Nat) (f : Env → Nat → List Word), op h = o ∧ (∀ s, exec i s = run i op s) ∧ (i.wf = true → d < 128) ∧ VecOp o nw d f ∧
    ∀ s gk g m l, intResult h (readsOf o s g m h l) i = some (d, nw, f (o.given s gk g m h) l)

theorem word_result {nw : Bool} {d : Nat} {x y : Word} (e : x = y) : some (d, nw, [x]) = some (d, nw, [y]) := by rw [e]

theorem pair_result {nw : Bool} {d : Nat} {x y : DWord} (e : x = y) : some (d, nw, Claims.pairWords x) = some (d, nw, Claims.pairWords y) := by rw [e]

theorem isInt_of_intResult {i : Instr} (ho : opOf i h = some o) {l : Nat} {r : Nat × Bool × List Word}
    (hr : intResult h (readsOf o s g m h l) i = some r) : IsInt i o h := by
  cases i with
  | min | max | minu | maxu | mul | mulh | mulhu | and | or | xor | andn | shl | shr | rol | bfe | bfeu | seq | slt | sle | sltu | sleu =>
    cases ho
    exact ⟨_, _, _, _, rfl, fun _ => rfl, fun w => (Laws.Encoding.wf3 w).1, alu_vecOp, fun _ _ _ _ _ => rfl⟩
  | mini | maxi | andi | ori | xori =>
    cases ho
    exact ⟨_, _, _, _, rfl, fun _ => rfl, fun w => (Laws.Encoding.wfI w).1, alu_vecOp, fun _ _ _ _ _ => rfl⟩
  | clz | popc | brev =>
    cases ho
    exact ⟨_, _, _, _, rfl, fun _ => rfl, fun w => (Laws.Encoding.wf2 w).1, alu_vecOp, fun _ _ _ _ _ => rfl⟩
  | add =>
    cases ho
    exact ⟨_, _, _, _, rfl, fun _ => rfl, fun w => (Laws.Encoding.wf3 w).1, alu_vecOp, fun _ _ _ _ _ => word_result (satWord_eq (wordOfInt_add _ _)).symm⟩
  | sub =>
    cases ho
    exact ⟨_, _, _, _, rfl, fun _ => rfl, fun w => (Laws.Encoding.wf3 w).1, alu_vecOp, fun _ _ _ _ _ => word_result (satWord_eq (wordOfInt_sub _ _)).symm⟩
  | addi =>
    cases ho
    exact ⟨_, _, _, _, rfl, fun _ => rfl, fun w => (Laws.Encoding.wfI w).1, alu_vecOp, fun _ _ _ _ _ => word_result (satWord_eq (wordOfInt_add _ _)).symm⟩
  | abs =>
    cases ho
    exact ⟨_, _, _, _, rfl, fun _ => rfl, fun w => (Laws.Encoding.wf2 w).1, alu_vecOp, fun _ _ _ _ _ => word_result (satWord_eq (wordOfInt_natAbs _)).symm⟩
  | neg =>
    cases ho
    exact ⟨_, _, _, _, rfl, fun _ => rfl, fun w => (Laws.Encoding.wf2 w).1, alu_vecOp, fun _ _ _ _ _ => word_result (satWord_eq (wordOfInt_neg _)).symm⟩
  | mad nw d a b =>
    cases ho
    refine ⟨_, _, _, _, rfl, fun _ => rfl, fun w => (Laws.Encoding.wf3 w).1, alu_vecOp, fun s gk g m l => word_result ?_⟩
    rw [given_val2_third (o := opMad nw d a b h) rfl]
    exact (satWord_eq (wordOfInt_mad _ _ _)).symm
  | bytep nw d a b =>
    cases ho
    refine ⟨_, _, _, _, rfl, fun _ => rfl, fun w => (Laws.Encoding.wf3 w).1, alu_vecOp, fun s gk g m l => word_result ?_⟩
    rw [given_val2_third (o := opBytep nw d a b h) rfl]
    rfl
  | bfi nw d a b =>
    cases ho
    refine ⟨_, _, _, _, rfl, fun _ => rfl, fun w => (Laws.Encoding.wf3 w).1, alu_vecOp, fun s gk g m l => word_result ?_⟩
    rw [given_val2_third (o := opBfi nw d a b h) rfl]
    rfl
  | sar =>
    cases ho
    exact ⟨_, _, _, _, rfl, fun _ => rfl, fun w => (Laws.Encoding.wf3 w).1, alu_vecOp, fun _ _ _ _ _ => word_result (sarW_eq _ _).symm⟩
  | sari =>
    cases ho
    exact ⟨_, _, _, _, rfl, fun _ => rfl, fun w => (Laws.Encoding.wfI w).1, alu_vecOp, fun _ _ _ _ _ => word_result (sarW_imm8 _ _).symm⟩
  | shli =>
    cases ho
    exact ⟨_, _, _, _, rfl, fun _ => rfl, fun w => (Laws.Encoding.wfI w).1, alu_vecOp, fun _ _ _ _ _ => word_result (shlW_imm8 _ _).symm⟩
  | shri =>
    cases ho
    exact ⟨_, _, _, _, rfl, fun _ => rfl, fun w => (Laws.Encoding.wfI w).1, alu_vecOp, fun _ _ _ _ _ => word_result (shrW_imm8 _ _).symm⟩
  | roli =>
    cases ho
    exact ⟨_, _, _, _, rfl, fun _ => rfl, fun w => (Laws.Encoding.wfI w).1, alu_vecOp, fun _ _ _ _ _ => word_result (rolW_imm8 _ _).symm⟩
  | sne =>
    cases ho
    exact ⟨_, _, _, _, rfl, fun _ => rfl, fun w => (Laws.Encoding.wf3 w).1, alu_vecOp, fun _ _ _ _ _ => word_result (flag_ne _ _).symm⟩
  | sext8 | sext16 =>
    cases ho
    exact ⟨_, _, _, _, rfl, fun _ => rfl, fun w => (Laws.Encoding.wf2 w).1, alu_vecOp, fun _ _ _ _ _ => word_result (congrArg (BitVec.signExtend 32) (BitVec.setWidth_eq_extractLsb' (by decide)))⟩
  | zext8 =>
    cases ho
    exact ⟨_, _, _, _, rfl, fun _ => rfl, fun w => (Laws.Encoding.wf2 w).1, alu_vecOp, fun _ _ _ _ _ => word_result (extractLow_eq_and (n := 8) (by decide) _).symm⟩
  | zext16 =>
    cases ho
    exact ⟨_, _, _, _, rfl, fun _ => rfl, fun w => (Laws.Encoding.wf2 w).1, alu_vecOp, fun _ _ _ _ _ => word_result (extractLow_eq_and (n := 16) (by decide) _).symm⟩
  | add64 nw d a b =>
    cases ho
    refine ⟨_, _, _, _, rfl, fun _ => rfl, fun w => (Laws.Encoding.wf3 w).1, aluPair_vecOp, fun s gk g m l => pair_result ?_⟩
    rw [given_pair0 (o := opAdd64 nw d a b h) rfl, given_val2 (o := opAdd64 nw d a b h) rfl]
    rfl
  | sub64 nw d a b =>
    cases ho
    refine ⟨_, _, _, _, rfl, fun _ => rfl, fun w => (Laws.Encoding.wf3 w).1, aluPair_vecOp, fun s gk g m l => pair_result ?_⟩
    rw [given_pair0 (o := opSub64 nw d a b h) rfl, given_val2 (o := opSub64 nw d a b h) rfl]
    rfl
  | mad64 nw d a b =>
    cases ho
    refine ⟨_, _, _, _, rfl, fun _ => rfl, fun w => (Laws.Encoding.wf3 w).1, aluPair_vecOp, fun s gk g m l => pair_result ?_⟩
    rw [given_pair2_accPair (o := opMad64 nw d a b h) rfl]
    rfl
  | shl64 nw d a b =>
    cases ho
    refine ⟨_, _, _, _, rfl, fun _ => rfl, fun w => (Laws.Encoding.wf3 w).1, aluPair_vecOp, fun s gk g m l => pair_result ?_⟩
    rw [given_pair0 (o := opShl64 nw d a b h) rfl, given_val2 (o := opShl64 nw d a b h) rfl]
    rfl
  | mov nw d a =>
    cases ho
    by_cases hw : extW64 h.x = true
    · have e : opMov nw d a h = aluPair nw d [.pair a] mW64 fun e l => e.pair l 0 := if_pos hw
      refine ⟨_, _, _, _, rfl, fun _ => rfl, fun w => (Laws.Encoding.wf2 w).1, by rw [e]; exact aluPair_vecOp, fun s gk g m l => ?_⟩
      rw [given_pair0 (o := opMov nw d a h) (by rw [e]; rfl)]
      exact congrArg (fun x => some (d, nw, x)) (if_pos hw)
    · have e : opMov nw d a h = alu1 nw d (.src a .u) mW64 id := if_neg hw
      refine ⟨_, _, _, _, rfl, fun _ => rfl, fun w => (Laws.Encoding.wf2 w).1, by rw [e]; exact alu_vecOp, fun s gk g m l => ?_⟩
      rw [given_val0 (o := opMov nw d a h) (by rw [e]; rfl)]
      exact congrArg (fun x => some (d, nw, x)) (if_neg hw)
  | sel nw d a b =>
    cases ho
    by_cases hw : extW64 h.x = true
    · have e : opSel nw d a b h = aluPair nw d [.pair a, .pair b, accOpnd h d .u] (mW64 + mSrc3) fun e l => if e.val l 4 ≠ 0 then e.pair l 0 else e.pair l 2 :=
        if_pos hw
      refine ⟨_, _, _, _, rfl, fun _ => rfl, fun w => (Laws.Encoding.wf3 w).1, by rw [e]; exact aluPair_vecOp, fun s gk g m l => ?_⟩
      have hsrcs : (opSel nw d a b h).form.srcs = [.pair a, .pair b, accOpnd h d .u] := by rw [e]; rfl
      obtain ⟨e1, e2⟩ := given_pair2_third (s := s) (gk := gk) (g := g) (m := m) hsrcs l
      rw [given_pair0 hsrcs, e1, e2]
      exact congrArg (fun x => some (d, nw, x)) (if_pos hw)
    · have e : opSel nw d a b h = alu3 nw d (.src a .u) (.src b .u) (accOpnd h d .u) (mW64 + mSrc3) fun x y z => if z ≠ 0 then x else y := if_neg hw
      refine ⟨_, _, _, _, rfl, fun _ => rfl, fun w => (Laws.Encoding.wf3 w).1, by rw [e]; exact alu_vecOp, fun s gk g m l => ?_⟩
      have hsrcs : (opSel nw d a b h).form.srcs = [.src a .u, .src b .u, accOpnd h d .u] := by rw [e]; rfl
      rw [given_val0 hsrcs, given_val1 hsrcs, given_val2_third hsrcs]
      exact congrArg (fun x => some (d, nw, x)) (if_neg hw)
  | _ => cases hr

end Sys2Proof.Machine
end

section
/-! SUPPORT. The operand faults of R43, and the lanes that take them (R24, R57). -/

namespace Sys2Proof.Machine

open Sys2Proof.Claims

variable {o : Op} {s : State} {gk : Nat} {g : Gang} {m : Nat} {h : Hints}

/-! ## The lowest subcode -/

theorem minSub_none (x : Option Nat) : minSub x none = x := by
  cases x <;> rfl

theorem minSub_comm (x y : Option Nat) : minSub x y = minSub y x := by
  cases x <;> cases y <;> simp [minSub, Nat.min_comm]

theorem minSub_assoc (x y z : Option Nat) : minSub (minSub x y) z = minSub x (minSub y z) := by
  cases x <;> cases y <;> cases z <;> simp [minSub, Nat.min_assoc]

theorem minSubs_cons (x : Option Nat) (xs : List (Option Nat)) : minSubs (x :: xs) = minSub x (minSubs xs) := by
  have key : ∀ (xs : List (Option Nat)) (x : Option Nat), xs.foldl minSub x = minSub x (minSubs xs) := by
    intro xs
    induction xs with
    | nil => exact fun x => (minSub_none x).symm
    | cons y t ih =>
      intro x
      rw [minSubs, List.foldl_cons, List.foldl_cons, ih, ih, minSub_assoc]
      rfl
  exact key xs x

theorem minSubs_map_minSub {α : Type} (f k : α → Option Nat) (xs : List α) :
    minSubs (xs.map fun p => minSub (f p) (k p)) = minSub (minSubs (xs.map f)) (minSubs (xs.map k)) := by
  induction xs with
  | nil => rfl
  | cons p t ih =>
    rw [List.map_cons, List.map_cons, List.map_cons, minSubs_cons, minSubs_cons, minSubs_cons, ih, minSub_assoc, minSub_assoc,
      ← minSub_assoc (k p), minSub_comm (k p), minSub_assoc]

theorem min?_cons_eq_minSub (x : Nat) (xs : List Nat) : (x :: xs).min? = minSub (some x) xs.min? := by
  rw [List.min?_cons]
  cases xs.min? <;> rfl

theorem min?_filterMap {α : Type} (f : α → Option Nat) (xs : List α) : (xs.filterMap f).min? = minSubs (xs.map f) := by
  induction xs with
  | nil => rfl
  | cons p t ih =>
    rw [List.map_cons, minSubs_cons, ← ih, List.filterMap_cons]
    cases f p with
    | none => rfl
    | some x => exact min?_cons_eq_minSub x _

theorem min?_toList_append (x : Option Nat) (xs : List Nat) : (x.toList ++ xs).min? = minSub x xs.min? := by
  cases x with
  | none => rfl
  | some x => exact min?_cons_eq_minSub x xs

/-! ## The subcode of a position (R43) -/

/-- The word of a latch that holds one. -/
def Latch.word? : Latch → Option Word
  | .val w => some w
  | _ => none

theorem Latch.word?_eq_some {x : Latch} {w : Word} : x.word? = some w ↔ x = .val w := by
  cases x <;> simp [Latch.word?]

theorem latchRead_eq_none {x : Latch} : latchRead x = none ↔ ∃ w, x = .val w := by
  cases x <;> simp [latchRead]

/-- Words of which one differs from the first. -/
def someDiffer : List Word → Bool
  | [] => false
  | x :: rest => rest.any fun y => y != x

theorem someDiffer_iff (ws : List Word) : someDiffer ws = true ↔ ∃ x ∈ ws, ∃ y ∈ ws, x ≠ y := by
  cases ws with
  | nil => simp [someDiffer]
  | cons z t =>
    simp only [someDiffer, List.any_eq_true, bne_iff_ne]
    constructor
    · rintro ⟨y, hy, hne⟩
      exact ⟨y, List.mem_cons_of_mem _ hy, z, List.mem_cons_self, hne⟩
    · rintro ⟨x, hx, y, hy, hne⟩
      by_contra hno
      have same : ∀ w ∈ z :: t, w = z := fun w hw => (List.mem_cons.1 hw).elim id fun hw => by_contra fun hwz => hno ⟨w, hw, hwz⟩
      exact hne ((same x hx).trans (same y hy).symm)

theorem Gang.differs_eq (n : Nat) (k : Kind) (ls : List Nat) : g.differs ls (.uni (.d n) k) = someDiffer (ls.filterMap fun l => (g.latch l n).word?) := rfl

/-- A uniform position reads two values where two lanes' latches hold values that differ. -/
theorem Gang.differs_iff (n : Nat) (k : Kind) (ls : List Nat) : g.differs ls (.uni (.d n) k) = true ↔
    ∃ a ∈ ls, ∃ b ∈ ls, latchRead (g.latch a n) = none ∧ latchRead (g.latch b n) = none ∧ g.latch a n ≠ g.latch b n := by
  rw [g.differs_eq, someDiffer_iff]
  simp only [List.mem_filterMap, Latch.word?_eq_some, latchRead_eq_none]
  constructor
  · rintro ⟨x, ⟨a, ha, hx⟩, y, ⟨b, hb, hy⟩, hne⟩
    exact ⟨a, ha, b, hb, ⟨x, hx⟩, ⟨y, hy⟩, by rw [hx, hy]; exact fun e => hne (Latch.val.inj e)⟩
  · rintro ⟨a, ha, b, hb, ⟨x, hx⟩, ⟨y, hy⟩, hne⟩
    exact ⟨x, ⟨a, ha, hx⟩, y, ⟨b, hb, hy⟩, fun e => hne (by rw [hx, hy, e])⟩

/-- The subcode of a position in the words of the manual is the lower of those that it takes by itself and by the lane's latches. -/
theorem positionSub_eq (ls : List Nat) (l : Nat) (p : Opnd) :
    positionSub h (fun l n => g.latch l n) ls l p = minSub (p.staticSub h.imm) (g.latchSub ls l p) := by
  cases p with
  | reg n c => rfl
  | block x c => cases x <;> exact (minSub_none _).symm
  | lane x => exact (minSub_none _).symm
  | pair x => exact (minSub_none _).symm
  | upair x => exact (minSub_none _).symm
  | src x k =>
    cases x with
    | d n =>
      show latchRead (g.latch l n) = minSub none (match g.latch l n with | .empty => some 2 | .invalid => some 3 | .val _ => none)
      cases g.latch l n <;> rfl
    | _ => exact (minSub_none _).symm
  | uni x k =>
    cases x with
    | d n =>
      show (match latchRead (g.latch l n) with | some k => some k | none => _) = minSub none (match g.latch l n with | .empty => some 2 | .invalid => some 3 | .val _ => _)
      cases g.latch l n with
      | val w => exact if_congr (Gang.differs_iff n k ls).symm rfl rfl
      | _ => rfl
    | _ => exact (minSub_none _).symm

/-- The subcode of a lane (R43, R57). -/
theorem operandSub_eq (l : Nat) : operandSub o g m h l = o.form.laneSub h.imm (o.reader g m) (lanesOf m) l := by
  unfold operandSub Form.laneSub
  rw [min?_toList_append, min?_filterMap, minSub_assoc, ← minSubs_map_minSub]
  exact congrArg (fun f => minSub o.form.illegal (minSubs (o.form.srcs.map f))) (funext fun p => positionSub_eq (lanesOf m) l p)

end Sys2Proof.Machine
end

section
/-! SUPPORT. The issue of an instruction of which some lanes, or all, take an operand fault (R24, R43, R57). -/

namespace Sys2Proof.Machine

open Sys2Proof.Claims

variable {o : Op} {s : State} {gk : Nat} {g : Gang} {m : Nat} {h : Hints}

/-! ## Which lanes fault -/

theorem find?_filterMap_key {α : Type} (f : Nat → Option α) {ls : List Nat} {l : Nat} (hl : l ∈ ls) :
    (ls.filterMap fun l => (f l).map fun x => (l, x)).find? (fun p => p.1 == l) = (f l).map fun x => (l, x) := by
  induction ls with
  | nil => cases hl
  | cons y t ih =>
    by_cases e : y = l
    · subst e
      cases hy : f y with
      | some x => simp [hy]
      | none =>
        refine List.find?_eq_none.2 fun p hp => ?_
        obtain ⟨z, -, e⟩ := List.mem_filterMap.1 hp
        obtain ⟨x, hx, rfl⟩ := Option.map_eq_some_iff.1 e
        intro hz
        obtain rfl : z = y := beq_iff_eq.1 hz
        rw [hy] at hx
        cases hx
    · have hr := ih ((List.mem_cons.1 hl).resolve_left (Ne.symm e))
      cases hy : f y with
      | some x => simpa [hy, e] using hr
      | none => simpa [hy] using hr

theorem minSub_eq_none {x y : Option Nat} : minSub x y = none ↔ x = none ∧ y = none := by
  cases x <;> cases y <;> simp [minSub]

/-- The operand faults of an instruction that is not gang-uniform. -/
theorem operandFaults_lanes (hu : o.form.uniform = false) :
    o.form.operandFaults h.imm (o.reader g m) (lanesOf m) = (lanesOf m).filterMap fun l => (operandSub o g m h l).map fun n => (l, n) := by
  unfold Form.operandFaults
  rw [hu]
  simp only [operandSub_eq, Bool.false_eq_true, ↓reduceIte]

theorem minSubs_replicate (n k : Nat) : minSubs (List.replicate (k + 1) (some n)) = some n := by
  induction k with
  | zero => rfl
  | succ k ih =>
    rw [List.replicate_succ, minSubs_cons, ih]
    exact congrArg some (Nat.min_self n)

/-- Where every lane reads its operands with one subcode, every lane takes it, gang-uniform or not (R44). -/
theorem operandFaults_all {n : Nat} (hne : lanesOf m ≠ []) (hn : ∀ l ∈ lanesOf m, operandSub o g m h l = some n) :
    o.form.operandFaults h.imm (o.reader g m) (lanesOf m) = (lanesOf m).map fun l => (l, n) := by
  have hbad : ((lanesOf m).filterMap fun l => (o.form.laneSub h.imm (o.reader g m) (lanesOf m) l).map fun n => (l, n)) = (lanesOf m).map fun l => (l, n) := by
    rw [← List.filterMap_eq_map']
    refine List.filterMap_congr fun l hl => ?_
    rw [← operandSub_eq, hn l hl]
    rfl
  have hmin : minSubs (((lanesOf m).map fun l => (l, n)).map fun p => some p.2) = some n := by
    obtain ⟨x, t, e⟩ := List.exists_cons_of_ne_nil hne
    rw [List.map_map, e, show ((fun p : Nat × Nat => some p.2) ∘ fun l => (l, n)) = fun _ => some n from rfl, List.map_const', List.length_cons]
    exact minSubs_replicate n t.length
  unfold Form.operandFaults
  simp only [hbad, hmin, ite_self]

theorem mergeOuts_eq {ls : List Nat} {bad : List (Nat × Nat)} {outs : List (Nat × LaneOut)} {out : Nat → LaneOut}
    (h : ∀ l ∈ ls, (∃ n, bad.find? (fun p => p.1 == l) = some (l, n) ∧ out l = .fault ⟨cIllegalOperand, n, 0⟩) ∨
      bad.find? (fun p => p.1 == l) = none ∧ outs.find? (fun p => p.1 == l) = some (l, out l)) : mergeOuts ls bad outs = ls.map fun l => (l, out l) := by
  rw [← List.filterMap_eq_map']
  refine List.filterMap_congr fun l hl => ?_
  rcases h l hl with ⟨n, hb, ho⟩ | ⟨hb, ho⟩
  · rw [hb, ho]
  · rw [hb]
    exact ho

/-! ## The issue -/

/-- An instruction that passes checks 1 and 2 and can issue comes to the end of the instruction, with the outcomes of operand faults and of its body. -/
theorem run_checked {i : Instr} {op : Hints → Op} (hcur : s.cur = some ⟨gk, m⟩) (hg : s.gang? gk = some g) (hh : (g.th ((lanesOf m).headD 0)).hints = h)
    (hc : (op h).form.check g h = none) (hcan : (op h).canIssue s gk g (lanesOf m) h = true) {s2 : State} {outs : List (Nat × LaneOut)} {out : Nat → LaneOut}
    (hb : (if ((op h).given s gk g m h).lanes.isEmpty then ((op h).begun s gk g m, []) else (op h).body ((op h).begun s gk g m) ((op h).given s gk g m h)) = (s2, outs))
    (hm : mergeOuts (lanesOf m) ((op h).form.operandFaults h.imm ((op h).reader g m) (lanesOf m)) outs = (lanesOf m).map fun l => (l, out l)) :
    ∃ hd hit, run i op s = .next ((op h).finish s2 gk hd ((lanesOf m).map fun l => (l, out l)) hit).clearCur := by
  refine ⟨⟨i, h, ((op h).given s gk g m h).vals, s.clock, none⟩, (lanesOf m).any fun l => (g.th l).hitsPending (op h).form.vRegs (op h).form.kRegs, ?_⟩
  unfold run
  simp only [hcur, hg, hh]
  unfold Op.issue
  simp only [hc, hcan, Bool.not_true, Bool.false_eq_true, ↓reduceIte]
  rw [show ((op h).env s gk g (lanesOf m) h).g = (op h).reader g m from rfl, hb, hm]

theorem given_lanes : (o.given s gk g m h).lanes =
    (lanesOf m).filter fun l => !((o.form.operandFaults h.imm (o.reader g m) (lanesOf m)).any fun p => p.1 == l) := rfl

/-- Every lane reads its operands with one subcode: every lane takes it, and the instruction does nothing else (R43, R57). -/
theorem run_operands_fault {i : Instr} {op : Hints → Op} {n : Nat} (I : Issues s gk g m h) (hc : (op h).form.check g h = none)
    (hn : ∀ l ∈ lanesOf m, operandSub (op h) g m h l = some n) : ∃ t, run i op s = .next t ∧ TakesFault s t gk g m ⟨cIllegalOperand, n, 0⟩ := by
  have hf := operandFaults_all I.some hn
  have hempty : ((op h).given s gk g m h).lanes = [] := by
    rw [given_lanes, hf, List.filter_eq_nil_iff]
    intro l hl
    simpa using hl
  have hcan : (op h).canIssue s gk g (lanesOf m) h = true := by simp [Op.canIssue, hempty]
  have hmerge : mergeOuts (lanesOf m) ((op h).form.operandFaults h.imm ((op h).reader g m) (lanesOf m)) [] =
      (lanesOf m).map fun l => (l, LaneOut.fault ⟨cIllegalOperand, n, 0⟩) := mergeOuts_eq (out := fun _ => .fault ⟨cIllegalOperand, n, 0⟩) fun l hl => by
    refine .inl ⟨n, ?_, rfl⟩
    rw [hf, ← List.filterMap_eq_map']
    exact find?_filterMap_key (fun _ => some n) hl
  obtain ⟨hd, hit, e⟩ := run_checked (i := i) I.cur I.gang I.bound hc hcan (by rw [hempty]; rfl) hmerge
  exact ⟨_, e, (op h).finish_faults hd hit (fl := fun _ => ⟨cIllegalOperand, n, 0⟩) I rfl fun _ _ => ⟨rfl, rfl⟩⟩

/-! ## Some lanes fault, the others complete -/

/-- The thread of a lane that completes. -/
theorem Form.threadAfter_went (hlen : g.threads.length = 32) {l : Nat} (hl : l ∈ lanesOf m) {d : Done} (hs : SetsOnly d.set) :
    LaneWent (g.th l) (o.form.threadAfter ((o.reader g m).th l) d) (o.form.endOf (g.th l) ((o.reader g m).th l) d) := by
  have h32 : l < g.threads.length := hlen ▸ (mem_lanesOf.1 hl).1
  obtain ⟨p1, p2, p3, -⟩ := o.form.prepare_keeps g (lanesOf m) h32
  obtain ⟨f1, f2, f3, f4, f5, f6, f7, f8⟩ := o.form.threadAfter_keeps ((o.reader g m).th l) d
  rw [hs.pc, p1] at f2 f7
  rw [hs.rep, p2] at f7
  rw [hs.rcnt, p3] at f8
  rw [hs.hints, o.form.prepare_hints g (lanesOf m) h32 hl] at f6
  exact ⟨f1, f2, f3, f4, f5, f6, f7, f8⟩

theorem reader_threadKept (hlen : g.threads.length = 32) {l : Nat} (h32 : l < 32) : ThreadKept (g.th l) ((o.reader g m).th l) :=
  have ⟨h1, h2, h3, h4, _, h6, _⟩ := o.form.prepare_keeps g (lanesOf m) (l := l) (by rw [hlen]; exact h32)
  ⟨h1, h2, h3, h4, h6⟩

/-- Only the lanes that complete come to an end that matters. -/
theorem LanesFault.congr_completing {t : State} {faults : Nat → Bool} {e e' : Nat → LaneEnd} (w : LanesFault t gk g m faults e)
    (he : ∀ l ∈ lanesOf m, faults l = false → e' l = e l) : LanesFault t gk g m faults e' := by
  obtain ⟨g', w1, w2, w3, w4, w5⟩ := w
  refine ⟨g', w1, w2, fun l hl => ?_, w4, fun l n h32 hn => ?_⟩
  · have h3 := w3 l hl
    cases hf : faults l with
    | true => simpa [hf] using h3
    | false => simpa [hf, he l hl hf] using h3
  · rw [w5 l n h32 hn]
    split
    · next hf => rw [he l hf.1 hf.2]
    · rfl

/-- The end of an instruction of registers alone of which some lanes fault and the others complete. -/
theorem Op.finish_lanesFault (hd : Held) (hit : Bool) {faults : Nat → Bool} {fl : Nat → Flt} {d : Nat → Done} (I : Issues s gk g m h)
    (hs : ∀ l, SetsOnly (d l).set) (hw : ∀ l ∈ lanesOf m, faults l = false → ∀ p ∈ o.form.writes (d l), p.1 < 128) (hk : ∀ l ∈ lanesOf m, o.form.kWrites (d l) = []) :
    LanesFault (o.finish (o.begun s gk g m) gk hd ((lanesOf m).map fun l => (l, if faults l then .fault (fl l) else .done (d l))) hit).clearCur gk g m faults
      fun l => o.form.endOf (g.th l) ((o.reader g m).th l) (d l) := by
  have kept : ∀ {l}, l < 32 → ThreadKept (g.th l) ((o.reader g m).th l) := fun h32 => reader_threadKept I.whole h32
  have hwaits : ∀ l ∈ lanesOf m, (if faults l then LaneOut.fault (fl l) else .done (d l)).waits = false := fun l _ => by split <;> rfl
  have P : Proper o.form (fun l => if faults l then .fault (fl l) else .done (d l)) (lanesOf m) (o.reader g m) :=
    { some := I.some
      nodup := lanesOf_nodup m
      lt := fun _ hl => (mem_lanesOf.1 hl).1
      inside := fun l hl => by
        split
        · trivial
        · exact .inr (by rw [(kept (mem_lanesOf.1 hl).1).pc]; exact I.inside l hl)
      stays := fun l _ => by split <;> exact fun h => by cases h
      wait := fun l _ why x hx => by split at hx <;> cases hx
      writes := fun l hl => by
        split
        · exact fun _ h => (List.not_mem_nil h).elim
        · next hf => exact hw l hl (Bool.eq_false_iff.2 hf)
      joint := fun _ => .inl hwaits }
  have hmem : (o.form.mem && ((lanesOf m).map fun l => (l, if faults l then LaneOut.fault (fl l) else .done (d l))).any fun p => p.2.waits) = false := by
    rw [Bool.and_eq_false_iff]
    refine .inr (List.any_eq_false.2 fun p hp => ?_)
    obtain ⟨l, hl, rfl⟩ := List.mem_map.1 hp
    rw [hwaits l hl]
    decide
  obtain ⟨⟨g', hg', c⟩, -⟩ := o.finish_ends hd _ (lanesOf m) hit (s := o.begun s gk g m) (gk := gk) (by simp) (by simpa using I.whole) P hmem
  refine ⟨g', hg', c.k fun l hl d' hd => ?_, fun l hl => ?_, fun l h32 hl => (kept h32).trans (c.others l h32 hl), fun l n h32 hn => ?_⟩
  · split at hd
    · cases hd
    · cases hd
      exact hk l hl
  · have hc := c.lanes l hl
    split
    · next hf =>
      rw [if_pos hf] at hc
      have hp := kept (mem_lanesOf.1 hl).1
      exact ⟨hc.run, hc.pc.trans hp.pc, hc.rep.trans hp.rep, hc.fps.trans hp.fps⟩
    · next hf =>
      rw [if_neg hf] at hc
      rw [hc]
      exact Form.threadAfter_went I.whole hl (hs l)
  · rw [c.readV l n hn, Gang.readV_congr (Form.prepare_v _ g _)]
    by_cases hl : l ∈ lanesOf m
    · cases hf : faults l with
      | true => simp [hl, Form.outWrites, lastTo]
      | false => simp [hl, Form.outWrites, Form.endOf]
    · simp [hl]

theorem illegal_of_operandSub {l : Nat} (hn : operandSub o g m h l = none) : o.form.illegal = none := by
  rw [operandSub_eq, Form.laneSub, minSub_assoc, minSub_eq_none] at hn
  exact hn.1

theorem VecOp.given_lanes {nw : Bool} {d : Nat} {f : Env → Nat → List Word} (V : VecOp o nw d f) :
    (o.given s gk g m h).lanes = (lanesOf m).filter fun l => !(operandSub o g m h l).isSome := by
  refine List.filter_congr fun l hl => ?_
  rw [operandFaults_lanes V.uniform]
  congr 1
  have hfind := find?_filterMap_key (fun l => operandSub o g m h l) hl
  cases hs : operandSub o g m h l with
  | none =>
    rw [hs] at hfind
    exact List.any_eq_false.2 fun p hp => by simpa using List.find?_eq_none.1 hfind p hp
  | some n =>
    rw [hs] at hfind
    exact List.any_eq_true.2 ⟨_, List.mem_of_find?_eq_some hfind, by simp⟩

/-- An instruction that computes words lane by lane, of which some lanes take an operand fault and the others complete (R24). -/
theorem VecOp.lanesFault {i : Instr} {op : Hints → Op} {nw : Bool} {d : Nat} {f : Env → Nat → List Word} (V : VecOp (op h) nw d f) (I : Issues s gk g m h)
    (hc : (op h).form.check g h = none) (hd : d < 128) (hsome : ∃ l ∈ lanesOf m, operandSub (op h) g m h l = none) :
    ∃ t, run i op s = .next t ∧ LanesFault t gk g m (fun l => (operandSub (op h) g m h l).isSome)
      fun l => (LaneEnd.on (g.th l)).writes nw d (f ((op h).given s gk g m h) l) := by
  obtain ⟨l0, hl0, hn0⟩ := hsome
  have hill : (op h).form.illegal = none := illegal_of_operandSub hn0
  have hlanes := V.given_lanes (s := s) (gk := gk) (g := g) (m := m) (h := h)
  have hne : ((op h).given s gk g m h).lanes.isEmpty = false := by
    rw [List.isEmpty_eq_false_iff, hlanes]
    exact List.ne_nil_of_mem (List.mem_filter.2 ⟨hl0, by rw [hn0]; rfl⟩)
  have hcan : (op h).canIssue s gk g (lanesOf m) h = true := by simp [Op.canIssue, V.mem, V.ready]
  have hmerge := mergeOuts_eq (ls := lanesOf m) (bad := (op h).form.operandFaults h.imm ((op h).reader g m) (lanesOf m))
    (outs := ((op h).given s gk g m h).lanes.map fun l => (l, LaneOut.done { ws := f ((op h).given s gk g m h) l }))
    (out := fun l => if (operandSub (op h) g m h l).isSome then .fault ⟨cIllegalOperand, (operandSub (op h) g m h l).getD 0, 0⟩
      else .done { ws := f ((op h).given s gk g m h) l }) fun l hl => by
    have hfind := find?_filterMap_key (fun l => operandSub (op h) g m h l) hl
    rw [operandFaults_lanes V.uniform, hfind]
    cases hs : operandSub (op h) g m h l with
    | some n => exact .inl ⟨n, rfl, rfl⟩
    | none =>
      refine .inr ⟨rfl, ?_⟩
      rw [← List.filterMap_eq_map']
      exact find?_filterMap_key (fun l => some (LaneOut.done { ws := f ((op h).given s gk g m h) l })) (by rw [hlanes]; exact List.mem_filter.2 ⟨hl, by rw [hs]; rfl⟩)
  obtain ⟨hd', hit, e⟩ := run_checked (i := i) I.cur I.gang I.bound hc hcan (by rw [hne, V.body]; rfl) hmerge
  refine ⟨_, e, ((op h).finish_lanesFault hd' hit (fl := fun l => ⟨cIllegalOperand, (operandSub (op h) g m h l).getD 0, 0⟩)
    (d := fun l => { ws := f ((op h).given s gk g m h) l }) I (fun _ => SetsOnly.none_) (fun l _ _ p hp => ?_) fun l _ => ?_).congr fun l hl => ?_⟩
  · have hfits := V.fits hd hill ((op h).given s gk g m h) l
    simp only [Form.writes, V.dst, List.append_nil] at hp
    split at hp
    · cases hp
    · obtain ⟨k, hk, rfl⟩ := List.mem_map.1 hp
      have := List.mem_range.1 hk
      dsimp only
      omega
  · simp [Form.kWrites, V.dst]
  · obtain ⟨-, -, -, h4, h5, h6, -⟩ := (op h).form.prepare_keeps g (lanesOf m) (l := l) (by rw [I.whole]; exact (mem_lanesOf.1 hl).1)
    refine ⟨fun n _ => ?_, rfl, h4.symm, h5.symm, h6.symm, V.rbCls.symm⟩
    simp only [Form.endOf, LaneEnd.writes]
    rw [Form.lastTo_writes _ _ _ rfl, V.dst, V.nw]

/-! ## Privilege (R57) -/

theorem Form.check_level {f : Form} (hi : f.illegalInsn h = none) (hl : g.level < f.level) : f.check g h = some ⟨cPriv, 1, 0⟩ := by
  unfold Form.check
  rw [hi]
  exact if_pos hl

theorem Form.check_priv {f : Form} {n : Nat} (hi : f.illegalInsn h = none) (hl : f.level = 0) (hp : f.priv g = some n) : f.check g h = some ⟨cPriv, n, 0⟩ := by
  unfold Form.check
  rw [hi, hl, hp]
  rfl

/-- The instructions of handler and kernel level in a gang of a lower one, and SVC above user level. -/
theorem check_unprivileged {i : Instr} (ho : opOf i h = some o) (hi : o.form.illegalInsn h = none)
    (hp : (((∃ d a b, i = .frd d a b ∨ i = .fwr d a b) ∨ (∃ nw d a b, i = .fres nw d a b ∨ i = .fkill nw d a b) ∨ ∃ nw d a, i = .spawn nw d a) ∧ g.level < 1) ∨
      (((∃ a b, i = .invl a b) ∨ ∃ a, i = .invla a) ∧ g.level < 2) ∨ ((∃ d a b, i = .svc d a b) ∧ g.level ≠ 0)) : o.form.check g h = some ⟨cPriv, 1, 0⟩ := by
  obtain ⟨⟨d, a, b, rfl | rfl⟩ | ⟨nw, d, a, b, rfl | rfl⟩ | ⟨nw, d, a, rfl⟩, hl⟩ | ⟨⟨a, b, rfl⟩ | ⟨a, rfl⟩, hl⟩ | ⟨⟨d, a, b, rfl⟩, hl⟩ := hp <;> cases ho
  case inr.inr.refl => exact Form.check_priv hi rfl (if_neg hl)
  all_goals exact Form.check_level hi hl

end Sys2Proof.Machine
end

section

open Sys2Proof Sys2Proof.Machine Sys2Proof.Claims

/-- Settles O18: the checks come before the body, operand faults lane by lane, and privilege by the instruction's form. -/
theorem checksComeFirst : Obligations.ChecksComeFirst := by
  unfold Obligations.ChecksComeFirst
  have rejected : ∀ (i : Instr) (o : Op) (s : State) (gk : Nat) (g : Gang) (m : Nat) (h : Hints) (f : Flt),
      opOf i h = some o → Issues s gk g m h → o.form.check g h = some f → ∃ t, exec i s = .next t ∧ TakesFault s t gk g m f :=
    fun i o s gk g m h f ho I hc => by
      obtain ⟨op, rfl, hex⟩ := run_of_opOf ho
      rw [hex]
      exact run_rejected I hc
  refine ⟨rejected, fun i o s gk g m h _ ho I hi hp => rejected i o s gk g m h _ ho I (check_unprivileged ho hi hp), fun i o s gk g m h hw ho I hc => ⟨fun n hn => ?_, ?_⟩⟩
  · obtain ⟨op, rfl, hex⟩ := run_of_opOf ho
    rw [hex]
    exact run_operands_fault I hc hn
  · intro d nw ws hsome hr
    obtain ⟨l0, hl0, hn0⟩ := hsome
    obtain ⟨op, nw', d', f, rfl, hex, hd, V, hf⟩ := isInt_of_intResult ho (hr l0 hl0 hn0)
    have same : ∀ l ∈ lanesOf m, operandSub (op h) g m h l = none → d' = d ∧ nw' = nw ∧ f ((op h).given s gk g m h) l = ws l := fun l hl hn => by
      simpa using (hf s gk g m l).symm.trans (hr l hl hn)
    obtain ⟨rfl, rfl, -⟩ := same l0 hl0 hn0
    rw [hex]
    obtain ⟨t, ht, hl⟩ := V.lanesFault (i := i) I hc (hd hw) ⟨l0, hl0, hn0⟩
    exact ⟨t, ht, hl.congr_completing fun l hl hs => by rw [(same l hl (by simpa using hs)).2.2]⟩

end

section
/-! SUPPORT. Result latches and L-pending bits (R45, R46): what reading operands and completing an instruction make of them. -/

namespace Sys2Proof.Machine

open Sys2Proof.Claims

variable {o : Op} {s : State} {gk : Nat} {g : Gang} {m : Nat} {h : Hints}

theorem regBits_getLsbD {w : Nat} (regs : List Nat) (n : Nat) : (regBits w regs).getLsbD n = (decide (n < w) && decide (n ∈ regs)) := by
  have key : ∀ (regs : List Nat) (x : BitVec w), (regs.foldl (fun m n => m ||| BitVec.twoPow w n) x).getLsbD n =
      (x.getLsbD n || (decide (n < w) && decide (n ∈ regs))) := by
    intro regs
    induction regs with
    | nil => simp
    | cons r t ih =>
      intro x
      rw [List.foldl_cons, ih, BitVec.getLsbD_or, BitVec.getLsbD_twoPow]
      by_cases hr : r = n
      · subst hr
        by_cases hw : r < w <;> simp [hw]
      · simp [hr, Ne.symm hr]
  exact (key regs 0).trans (by simp)

theorem Thread.clearPending_lpv (t : Thread) (vs : List Nat) (n : Nat) : ((t.clearPending vs).lpv.getLsbD n = true → t.lpv.getLsbD n = true) ∧
    (n ∈ vs → (t.clearPending vs).lpv.getLsbD n = false) := by
  have e : (t.clearPending vs).lpv.getLsbD n = (t.lpv.getLsbD n && (decide (n < 128) && !(decide (n < 128) && decide (n ∈ t.withPairs vs)))) := by
    simp only [Thread.clearPending, BitVec.getLsbD_and, BitVec.getLsbD_not, regBits_getLsbD]
  rw [e]
  refine ⟨fun h => (Bool.and_eq_true_iff.1 h).1, fun h => ?_⟩
  have hm : n ∈ t.withPairs vs := List.mem_append_left _ h
  simp [hm]

theorem Thread.setPending_lpv (t : Thread) {vs : List Nat} {n : Nat} (h : n ∈ vs) (hn : n < 128) : (t.setPending vs).lpv.getLsbD n = true := by
  simp [Thread.setPending, regBits_getLsbD, h, hn]

/-! ## Reading operands -/

/-- The thread of a lane after its operands are read (R46). -/
theorem reader_th {l : Nat} (hlen : g.threads.length = 32) (hl : l ∈ lanesOf m) :
    (o.reader g m).th l = { (g.th l).beforeRead o.form.vRegs o.form.kRegs with hints := Hints.none_ } := by
  show (g.mapLanes _ _).th l = _
  rw [g.th_mapLanes _ _ _ (by rw [hlen]; exact (mem_lanesOf.1 hl).1), if_pos hl]

theorem reader_lat_same {l : Nat} (hlen : g.threads.length = 32) (hl : l ∈ lanesOf m) (hp : (g.th l).hitsPending o.form.vRegs o.form.kRegs = false) :
    ((o.reader g m).th l).lat = (g.th l).lat := by
  rw [reader_th hlen hl, Thread.beforeRead, hp]
  rfl

/-- A lane that reads an L-pending register finds every latch INVALID, and the bits of the registers read are cleared (R46). -/
theorem reader_of_pending {l : Nat} (hlen : g.threads.length = 32) (hl : l ∈ lanesOf m) (hp : (g.th l).hitsPending o.form.vRegs o.form.kRegs = true) :
    ((o.reader g m).th l).lat = latInvalid ∧ ∀ n ∈ o.form.vRegs, ((o.reader g m).th l).lpv.getLsbD n = false := by
  rw [reader_th hlen hl, Thread.beforeRead, hp]
  exact ⟨rfl, fun n hn => ((g.th l).clearPending_lpv _ n).2 hn⟩

theorem latch_of_invalid {l : Nat} (hl : (g.th l).lat = latInvalid) (n : Nat) : g.latch l n = .invalid := by
  rw [Gang.latch, hl, latInvalid, List.getD_eq_getElem?_getD, List.getElem?_replicate]
  split <;> rfl

/-! ## Completing -/

theorem Form.threadAfter_lat (f : Form) (t : Thread) (d : Done) :
    (f.threadAfter t d).lat = if f.sCls then latInvalid else shiftLat (d.set t).lat (f.entryOf d) := by
  unfold Form.threadAfter
  dsimp only
  split <;> rfl

theorem Form.threadAfter_lpv (f : Form) (t : Thread) (d : Done) :
    (f.threadAfter t d).lpv = if f.lCls then ((d.set t).setPending ((f.writes d).map (·.1))).lpv else ((d.set t).clearPending ((f.writes d).map (·.1))).lpv := by
  unfold Form.threadAfter
  dsimp only
  split <;> split <;> rfl

/-- The threads of the lanes of an accepted instruction that completes them. -/
theorem run_threads {i : Instr} {op : Hints → Op} (A : Accepts (op h) s gk g m h) {d : Nat → Done} {s2 : State}
    (hb : (op h).body ((op h).begun s gk g m) ((op h).given s gk g m h) = (s2, (lanesOf m).map fun l => (l, .done (d l))))
    (hr : RegsKept ((op h).begun s gk g m) s2) (hw : ∀ l ∈ lanesOf m, ∀ p ∈ (op h).form.writes (d l), p.1 < 128) :
    ∃ t g' g2, run i op s = .next t ∧ t.gang? gk = some g' ∧ SameRegs ((op h).reader g m) g2 ∧
      ∀ l ∈ lanesOf m, g'.th l = (op h).form.threadAfter (g2.th l) (d l) := by
  obtain ⟨g2, hg2, same⟩ := hr.self
  have hpc : ∀ l ∈ lanesOf m, (g2.th l).pc = (g.th l).pc := fun l hl => (same.pc l).trans (A.reader_th hl).1
  obtain ⟨-, -, g4, a2, -, a4, -⟩ := (op h).finish_done s2 gk ⟨i, h, ((op h).given s gk g m h).vals, s.clock, none⟩ m
    ((lanesOf m).any fun l => (g.th l).hitsPending (op h).form.vRegs (op h).form.kRegs) d g2 hg2 (by rw [same.len]; simpa using A.whole) A.some hw
    (fun l hl => .inr (by rw [hpc l hl]; exact A.inside l hl))
  exact ⟨_, g4, g2, run_accepted A hb, a2, same, a4⟩

/-- The same for an instruction of registers alone. -/
theorem run_own_threads {i : Instr} {op : Hints → Op} (A : Accepts (op h) s gk g m h) {d : Nat → Done}
    (hb : (op h).body ((op h).begun s gk g m) ((op h).given s gk g m h) = ((op h).begun s gk g m, (lanesOf m).map fun l => (l, .done (d l))))
    (hw : ∀ l ∈ lanesOf m, ∀ p ∈ (op h).form.writes (d l), p.1 < 128) :
    ∃ t g', run i op s = .next t ∧ t.gang? gk = some g' ∧ ∀ l ∈ lanesOf m, g'.th l = (op h).form.threadAfter (((op h).reader g m).th l) (d l) := by
  obtain ⟨-, -, g4, a2, -, a4, -⟩ := (op h).finish_done ((op h).begun s gk g m) gk ⟨i, h, ((op h).given s gk g m h).vals, s.clock, none⟩ m
    ((lanesOf m).any fun l => (g.th l).hitsPending (op h).form.vRegs (op h).form.kRegs) d ((op h).reader g m) (by simp) (by simpa using A.whole) A.some hw
    (fun l hl => .inr (by rw [(A.reader_th hl).1]; exact A.inside l hl))
  exact ⟨_, g4, run_accepted A hb, a2, a4⟩

/-! ## Words for a vector destination -/

theorem VecOp.writes_lt {nw : Bool} {d : Nat} {f : Env → Nat → List Word} (V : VecOp o nw d f) (hd : d < 128) (hi : o.form.illegal = none) (e : Env) (l : Nat) :
    ∀ p ∈ o.form.writes { ws := f e l }, p.1 < 128 := by
  intro p hp
  have hfits := V.fits hd hi e l
  simp only [Form.writes, V.dst, List.append_nil] at hp
  split at hp
  · cases hp
  · obtain ⟨k, hk, rfl⟩ := List.mem_map.1 hp
    have := List.mem_range.1 hk
    dsimp only
    omega

theorem VecOp.entryOf {nw : Bool} {d : Nat} {f : Env → Nat → List Word} (V : VecOp o nw d f) {e : Env} {l : Nat} {w : Word} {ws : List Word} (hf : f e l = w :: ws) :
    o.form.entryOf { ws := f e l } = .val w := by
  have hshort := V.short e l
  rw [hf, List.length_cons] at hshort
  simp only [Form.entryOf, V.entry, V.lCls, hf, Bool.false_eq_true, ↓reduceIte]
  exact if_neg (by omega)

/-- The first word of the result enters d1 and the other latches move on; where an L-pending register was read, they are INVALID (R45, R46). -/
theorem VecOp.latches {i : Instr} {op : Hints → Op} {nw : Bool} {d : Nat} {f : Env → Nat → List Word} (V : VecOp (op h) nw d f)
    (A : Accepts (op h) s gk g m h) (hd : d < 128) {w : Nat → Word} {ws : Nat → List Word} (hf : ∀ l ∈ lanesOf m, f ((op h).given s gk g m h) l = w l :: ws l) :
    ∃ t g', run i op s = .next t ∧ t.gang? gk = some g' ∧ ∀ l ∈ lanesOf m,
      ((g.th l).hitsPending (op h).form.vRegs (op h).form.kRegs = false → (g'.th l).lat = (Latch.val (w l) :: (g.th l).lat).take 8) ∧
      ((g.th l).hitsPending (op h).form.vRegs (op h).form.kRegs = true → (g'.th l).lat = Latch.val (w l) :: List.replicate 7 .invalid ∧
        (∀ n, 1 ≤ n → n ≤ 8 → ((op h).reader g m).latch l n = .invalid) ∧ ∀ n ∈ (op h).form.vRegs, (g'.th l).lpv.getLsbD n = false) := by
  obtain ⟨t, g', ht, hg', hth⟩ := run_own_threads (i := i) A (perLane_eq A V.body fun _ _ => rfl) fun l _ => V.writes_lt hd (A.illegal V.uniform) _ l
  refine ⟨t, g', ht, hg', fun l hl => ?_⟩
  have hlat : (g'.th l).lat = shiftLat (((op h).reader g m).th l).lat (.val (w l)) := by
    rw [hth l hl, Form.threadAfter_lat, V.sCls, V.entryOf (hf l hl)]
    rfl
  refine ⟨fun hp => ?_, fun hp => ?_⟩
  · rw [hlat, reader_lat_same A.whole hl hp]
    rfl
  · obtain ⟨hinv, hbits⟩ := reader_of_pending A.whole hl hp
    refine ⟨by rw [hlat, hinv]; rfl, fun n _ _ => latch_of_invalid hinv n, fun n hn => ?_⟩
    rw [hth l hl, Form.threadAfter_lpv, V.lCls]
    exact Bool.eq_false_iff.2 fun hset => Bool.eq_false_iff.1 (hbits n hn) ((Thread.clearPending_lpv _ _ n).1 hset)

end Sys2Proof.Machine
end

section
/-! SUPPORT. The cross-lane instructions with a vector destination (R122, R123), and the loads and RDSR as they leave their latches (R45, R46). -/

namespace Sys2Proof.Machine

-- One proof at a time: many at once need more threads than the memory limit allows.
set_option Elab.async false

open Sys2Proof.Claims

variable {o : Op} {s : State} {gk : Nat} {g : Gang} {m : Nat} {h : Hints}

/-! ## Shuffles, votes, match -/

/-- The lane whose A a shuffle delivers, in the words of the manual. -/
theorem shflFrom_eq (hl : (o.given s gk g m h).lanes = lanesOf m) (pick : Nat → Nat → Option Nat) (l n : Nat) :
    shflFrom (o.given s gk g m h) pick l n = fromLane (allReads o s g m h) l (pick l n) := by
  unfold shflFrom
  rw [hl]
  rfl

/-- A shuffle computes its words lane by lane. -/
theorem shfl_vecOp (nw : Bool) (d : Nat) (a b : Src) (pick : Nat → Nat → Option Nat) : ∃ f, VecOp (shfl nw d a b h pick) nw d f ∧
    ∀ s gk g m l, ((shfl nw d a b h pick).given s gk g m h).lanes = lanesOf m →
      shuffled h (allReads (shfl nw d a b h pick) s g m h) l a (pick l ((shfl nw d a b h pick).opnd s g m h .u l b).toNat) =
        f ((shfl nw d a b h pick).given s gk g m h) l := by
  by_cases hw : extW64 h.x = true
  · have e : shfl nw d a b h pick = aluPair nw d [.pair a, .src b .u] mW64 fun e l => e.pair (shflFrom e pick l (e.val l 2).toNat) 0 := if_pos hw
    have hsrcs : (shfl nw d a b h pick).form.srcs = [.pair a, .src b .u] := by rw [e]; rfl
    refine ⟨_, by rw [e]; exact aluPair_vecOp, fun s gk g m l hl => ?_⟩
    rw [given_pair0 hsrcs, given_val2 hsrcs, shflFrom_eq hl]
    exact if_pos hw
  · have e : shfl nw d a b h pick = alu nw d [.src a .u, .src b .u] mW64 fun e l => e.val (shflFrom e pick l (e.val l 1).toNat) 0 := if_neg hw
    have hsrcs : (shfl nw d a b h pick).form.srcs = [.src a .u, .src b .u] := by rw [e]; rfl
    refine ⟨_, by rw [e]; exact alu_vecOp, fun s gk g m l hl => ?_⟩
    rw [given_val0 hsrcs, given_val1 hsrcs, shflFrom_eq hl]
    exact if_neg hw

/-- The instruction computes words for vD lane by lane from what all its lanes read, and they are those of the manual. -/
def IsCross (i : Instr) (o : Op) (h : Hints) : Prop :=
  ∃ (op : Hints → Op) (nw : Bool) (d : Nat) (f : Env → Nat → List Word), op h = o ∧ (∀ s, exec i s = run i op s) ∧ (i.wf = true → d < 128) ∧ VecOp o nw d f ∧
    ∀ s gk g m l, (o.given s gk g m h).lanes = lanesOf m → crossResult h (allReads o s g m h) l i = some (d, nw, f (o.given s gk g m h) l)

theorem isCross_of_shfl {i : Instr} {nw : Bool} {d : Nat} {a b : Src} {pick : Nat → Nat → Option Nat} (hex : ∀ s, exec i s = run i (fun h => shfl nw d a b h pick) s)
    (hd : i.wf = true → d < 128) (hres : ∀ o s g m l, crossResult h (allReads o s g m h) l i =
      some (d, nw, shuffled h (allReads o s g m h) l a (pick l (o.opnd s g m h .u l b).toNat))) : IsCross i (shfl nw d a b h pick) h := by
  obtain ⟨f, V, hf⟩ := shfl_vecOp (h := h) nw d a b pick
  exact ⟨_, nw, d, f, rfl, hex, hd, V, fun s gk g m l hl => by rw [hres, hf s gk g m l hl]⟩

theorem isCross_of_crossResult {i : Instr} (ho : opOf i h = some o) {l : Nat} {r : Nat × Bool × List Word}
    (hr : crossResult h (allReads o s g m h) l i = some r) : IsCross i o h := by
  cases i with
  | shflIdx =>
    cases ho
    exact isCross_of_shfl (pick := Machine.shflIdx) (fun _ => rfl) (fun w => (Laws.Encoding.wf3 w).1) fun _ _ _ _ _ => rfl
  | shflUp =>
    cases ho
    exact isCross_of_shfl (pick := Machine.shflUp) (fun _ => rfl) (fun w => (Laws.Encoding.wf3 w).1) fun _ _ _ _ _ => rfl
  | shflDn =>
    cases ho
    exact isCross_of_shfl (pick := Machine.shflDn) (fun _ => rfl) (fun w => (Laws.Encoding.wf3 w).1) fun _ _ _ _ _ => rfl
  | shflXor =>
    cases ho
    exact isCross_of_shfl (pick := Machine.shflXor) (fun _ => rfl) (fun w => (Laws.Encoding.wf3 w).1) fun _ _ _ _ _ => rfl
  | voteAll | voteAny | matchAny =>
    cases ho
    refine ⟨_, _, _, _, rfl, fun _ => rfl, fun w => (Laws.Encoding.wf2 w).1, cross_vecOp, fun s gk g m l hl => ?_⟩
    rw [hl]
    rfl
  | _ => cases hr

/-! ## Loads (R146, R151) -/

theorem loadForm_op {i : Instr} {f : LoadForm} (hi : loadForm i = some f) (ho : opOf i h = some o) :
    ∃ op : Hints → Op, op h = o ∧ (∀ s, exec i s = run i op s) ∧ o = loadOp f.d f.a f.b h f.width f.signed f.vault ∧ (i.wf = true → f.d < 128) ∧
      (f.width = 1 ∨ f.width = 2 ∨ f.width = 4 ∨ f.width = 8 ∨ f.width = 16) := by
  cases i with
  | ldB | ldH | ldW | ldD | ldBu | ldHu | ldQ | ldxW | ldxD | ldxQ =>
    cases hi
    cases ho
    exact ⟨_, rfl, fun _ => rfl, rfl, fun w => (Laws.Encoding.wf3 w).1, by simp⟩
  | _ => cases hi

theorem inOrder_congr {f k : State → Env → Nat → State × LaneOut} {e : Env} (hfk : ∀ s l, f s e l = k s e l) : inOrder f s e = inOrder k s e := by
  unfold inOrder
  simp only [hfk]

/-- A load's lanes, one after the other. -/
theorem loadOp_body (f : LoadForm) {e : Env} (he : e.x = h.x) :
    (loadOp f.d f.a f.b h f.width f.signed f.vault).body s e = inOrder (loadLane (f.ask h) (loadResult f.width f.signed)) s e := by
  have hask : ({ width := f.width, acc := .read, raw := extRaw e.x, fe := extFe e.x, vault := f.vault, syn := extOrder e.x != 0 || extFe e.x != 0 } : Ask) = f.ask h := by
    rw [he]
    rfl
  simp only [loadOp]
  exact inOrder_congr fun s l => congrArg (fun q => loadLane q (loadResult f.width f.signed) s e l) hask

/-- The number of registers that a load writes. -/
theorem loadResult_length {width : Nat} (hw : width = 1 ∨ width = 2 ∨ width = 4 ∨ width = 8 ∨ width = 16) (signed : Bool) (b : List Byte) :
    (loadResult width signed b).ws.length = max (width / 4) 1 := by
  obtain rfl | rfl | rfl | rfl | rfl := hw <;> rfl

theorem loadResult_also (width : Nat) (signed : Bool) (b : List Byte) : (loadResult width signed b).also = [] := by
  unfold loadResult
  split
  · rfl
  · split <;> rfl

/-- The registers of a load exist where its D field is not one that R139 excludes. -/
theorem badData_fits {width d : Nat} (hw : width = 1 ∨ width = 2 ∨ width = 4 ∨ width = 8 ∨ width = 16) (hb : badData width d = none) (hd : d < 128) :
    d + max (width / 4) 1 ≤ 128 := by
  have h0 : d % max (width / 4) 1 = 0 := by
    by_contra hne
    simp [badData, hne] at hb
  have hcount : max (width / 4) 1 = 1 ∨ max (width / 4) 1 = 2 ∨ max (width / 4) 1 = 4 := by omega
  obtain e | e | e := hcount <;> rw [e] at h0 ⊢ <;> omega

/-- The data checks of an access that meets nothing. -/
theorem State.gate_clear {e : Env} {l pa : Nat} {leaf : Option DWord} {va : DWord} {want : Option Bool} {reads writes syn : Bool}
    (hf : ∀ full, want = some full → s.feReady pa full e.since e.gk l = true) (hc : clearFor s e.gk pa leaf reads writes syn) :
    s.gate e l pa leaf va want reads writes syn = none := by
  obtain ⟨hrace, hpoison⟩ := hc
  have hp : (reads && s.isPoisoned pa) = false := by
    cases reads with
    | false => rfl
    | true => exact hpoison rfl
  unfold State.gate
  cases want with
  | none => simp [hrace, hp]
  | some full => simp [hf full rfl, hrace, hp]

theorem loaded_regs (q : Ask) (pa : Nat) (leaf : Option DWord) : RegsKept s (loaded s gk g h q pa leaf) := by
  unfold loaded
  extract_lets s1 s2 s3
  have h1 : RegsKept s s1 := .of_gangs (State.bytesAt_gangs _ _ _ _)
  have h2 : RegsKept s1 s2 := State.recordAccess_regs _ _ _ _ _ _ _ _
  have h3 : RegsKept s2 s3 := (State.cacheAccess_regs _ _ _ _ _ _ _).trans (.of_gangs (State.askRelay_gangs _ _ _ _ _ _ _))
  refine ((h1.trans h2).trans h3).trans ?_
  split
  · exact .of_gangs (State.setFull_gangs _ _ _)
  · exact .refl _

/-- A load of one lane that is performed. -/
theorem loadLane_of_link {q : Ask} {out : List Byte → Done} {ea : Nat → DWord} {b : Nat → List Byte} {s' t : State} {l : Nat}
    (hea : (o.given s gk g m h).ea l = ea l) (hlink : LoadLink gk (o.reader g m) s.clock h q ea b s' l t) :
    loadLane q out s' (o.given s gk g m h) l = (t, .done (out (b l))) ∧ RegsKept s' t := by
  obtain ⟨s1, pa, leaf, hloc, hfull, hclear, hb, rfl⟩ := hlink
  have hgate : s1.gate (o.given s gk g m h) l pa leaf (ea l) (if q.fe = 0 then none else some true) true false q.syn = none :=
    State.gate_clear (fun full hf => by
      split at hf
      · cases hf
      · next hne =>
        cases hf
        exact hfull hne) hclear
  have hs1 : RegsKept s' s1 := by
    have := State.locate_regs s' gk (o.reader g m) l (ea l) q
    rwa [hloc] at this
  refine ⟨?_, hs1.trans (loaded_regs q pa leaf)⟩
  unfold loadLane
  simp only [hea]
  rw [show s'.locate (o.given s gk g m h).gk (o.given s gk g m h).g l (ea l) q = (s1, .found pa leaf) from hloc]
  dsimp only
  rw [hgate, hb]
  unfold loaded State.askFor
  dsimp only
  split <;> rfl

/-- A load leaves every latch INVALID and makes its registers L-pending (R45, R46). -/
theorem run_load_latches {i : Instr} {f : LoadForm} (R : Ready i o s gk g m h) (hi : loadForm i = some f) {b : Nat → List Byte} {u : State}
    (hc : Chain (LoadLink gk (o.reader g m) s.clock h (f.ask h) (addressOf o s g m h f.a f.b) b) (o.begun s gk g m) (lanesOf m) u) :
    ∃ t g', exec i s = .next t ∧ t.gang? gk = some g' ∧ ∀ l ∈ lanesOf m, (g'.th l).lat = List.replicate 8 .invalid ∧
      ∀ n, f.d ≤ n → n < f.d + max (f.width / 4) 1 → n < 128 → (g'.th l).lpv.getLsbD n = true := by
  obtain ⟨op, rfl, hex, hop, hd, hwidth⟩ := loadForm_op hi R.op
  have A := R.acc
  have hea : ∀ l, ((op h).given s gk g m h).ea l = addressOf (op h) s g m h f.a f.b l := fun l =>
    (Op.given_addr (rest := []) (by rw [hop]; rfl) l).1
  have hlane : ∀ s' l t, LoadLink gk ((op h).reader g m) s.clock h (f.ask h) (addressOf (op h) s g m h f.a f.b) b s' l t →
      loadLane (f.ask h) (loadResult f.width f.signed) s' ((op h).given s gk g m h) l = (t, .done (loadResult f.width f.signed (b l))) ∧ RegsKept s' t :=
    fun s' l t hl => loadLane_of_link (hea l) hl
  have hbody := inOrder_chain (f := loadLane (f.ask h) (loadResult f.width f.signed)) (e := (op h).given s gk g m h) (fun s' l t hl => (hlane s' l t hl).1)
    (by rw [A.lanes]; exact hc)
  rw [A.lanes] at hbody
  have hbodyOp : (op h).body ((op h).begun s gk g m) ((op h).given s gk g m h) =
      inOrder (loadLane (f.ask h) (loadResult f.width f.signed)) ((op h).begun s gk g m) ((op h).given s gk g m h) :=
    (congrFun (congrFun (congrArg Op.body hop) _) _).trans (loadOp_body f rfl)
  have hdst : (op h).form.dst = .v f.d := by rw [hop]; rfl
  have hnw : (op h).form.nw = false := by rw [hop]; rfl
  have hsCls : (op h).form.sCls = true := by rw [hop]; rfl
  have hlCls : (op h).form.lCls = true := by rw [hop]; rfl
  have hwrites : ∀ l, ((op h).form.writes (loadResult f.width f.signed (b l))).map (·.1) = (List.range (max (f.width / 4) 1)).map fun k => f.d + k := fun l => by
    simp only [Form.writes, hdst, hnw, loadResult_also, List.append_nil, loadResult_length hwidth, Bool.false_eq_true, ↓reduceIte, List.map_map]
    rfl
  have hfits : f.d + max (f.width / 4) 1 ≤ 128 := by
    have hbad : badData f.width f.d = none := by
      have := A.illegal (by rw [hop]; rfl)
      rwa [hop] at this
    exact badData_fits hwidth hbad (hd R.wf)
  obtain ⟨t, g', g2, ht, hg', -, hth⟩ := run_threads (i := i) A (hbodyOp.trans hbody) (Chain.regs (fun s' l t hl => (hlane s' l t hl).2) hc)
    fun l _ p hp => by
      have := (hwrites l) ▸ List.mem_map_of_mem (f := Prod.fst) hp
      obtain ⟨k, hk, e⟩ := List.mem_map.1 this
      have := List.mem_range.1 hk
      omega
  refine ⟨t, g', (hex s).trans ht, hg', fun l hl => ⟨?_, fun n h1 h2 h3 => ?_⟩⟩
  · rw [hth l hl, Form.threadAfter_lat, hsCls]
    rfl
  · rw [hth l hl, Form.threadAfter_lpv, hlCls, hwrites l]
    exact Thread.setPending_lpv _ (List.mem_map.2 ⟨n - f.d, List.mem_range.2 (by omega), by omega⟩) h3

/-! ## NOP, YIELD, RDSR of CLOCK -/

/-- Where an instruction reads no register, it finds the latches as they stand. -/
theorem reader_lat_of_no_regs {l : Nat} (hlen : g.threads.length = 32) (hl : l ∈ lanesOf m) (hv : o.form.vRegs = [] ∧ o.form.kRegs = []) :
    ((o.reader g m).th l).lat = (g.th l).lat :=
  reader_lat_same hlen hl (by rw [hv.1, hv.2]; rfl)

/-- NOP enters EMPTY (R45). -/
theorem run_nop_latches (A : Accepts (opNop h) s gk g m h) :
    ∃ t g', exec .nop s = .next t ∧ t.gang? gk = some g' ∧ ∀ l ∈ lanesOf m, (g'.th l).lat = (Latch.empty :: (g.th l).lat).take 8 := by
  obtain ⟨t, g', ht, hg', hth⟩ := run_own_threads (i := .nop) (op := opNop) (d := fun _ => {}) A (perLane_eq A rfl fun _ _ => rfl) fun _ _ _ hp => (List.not_mem_nil hp).elim
  refine ⟨t, g', ht, hg', fun l hl => ?_⟩
  rw [hth l hl, Form.threadAfter_lat]
  exact congrArg (fun x => (Latch.empty :: x).take 8) (reader_lat_of_no_regs A.whole hl ⟨rfl, rfl⟩)

/-- YIELD leaves every latch INVALID (R45). -/
theorem run_yield_latches (A : Accepts (opYield h) s gk g m h) :
    ∃ t g', exec .yield s = .next t ∧ t.gang? gk = some g' ∧ ∀ l ∈ lanesOf m, (g'.th l).lat = List.replicate 8 .invalid := by
  obtain ⟨t, g', ht, hg', hth⟩ := run_own_threads (i := .yield) (op := opYield) (d := fun _ => {}) A (perLane_eq A rfl fun _ _ => rfl) fun _ _ _ hp => (List.not_mem_nil hp).elim
  refine ⟨t, g', ht, hg', fun l hl => ?_⟩
  rw [hth l hl, Form.threadAfter_lat]
  rfl

/-- The result of RDSR in a lane. -/
def clockDone (s : State) (e : Env) (l : Nat) : Done :=
  let n := (e.val l 0).toNat
  { ws := [s.readSr e l n], set := fun t => if n = 0x0F then { t with clockhi := word (s.clock / 2 ^ 32) } else t }

/-- RDSR of CLOCK enters INVALID and makes its register L-pending (R45, R46). -/
theorem run_rdsr_clock_latches {d : Nat} (A : Accepts (opRdsr false d .immw h) s gk g m h) (hn : h.imm = some 0x0F) (hd : d < 128) :
    ∃ t g', exec (.rdsr false d .immw) s = .next t ∧ t.gang? gk = some g' ∧ ∀ l ∈ lanesOf m,
      (g'.th l).lat = (Latch.invalid :: (g.th l).lat).take 8 ∧ (g'.th l).lpv.getLsbD d = true := by
  have hl : (opRdsr false d .immw h).form.lCls = true := by simp [opRdsr, srId, hn]
  have hbody : (opRdsr false d .immw h).body ((opRdsr false d .immw h).begun s gk g m) ((opRdsr false d .immw h).given s gk g m h) =
      ((opRdsr false d .immw h).begun s gk g m, (lanesOf m).map fun l => (l, .done (clockDone ((opRdsr false d .immw h).begun s gk g m) ((opRdsr false d .immw h).given s gk g m h) l))) := by
    refine Prod.ext rfl ?_
    change ((opRdsr false d .immw h).given s gk g m h).lanes.map _ = _
    rw [A.lanes]
    rfl
  obtain ⟨t, g', ht, hg', hth⟩ := run_own_threads (i := .rdsr false d .immw) (op := opRdsr false d .immw) A hbody fun l _ p hp => by
    simp only [Form.writes, opRdsr, clockDone, List.length_singleton, List.range_one, List.map_cons, List.map_nil, List.append_nil, Bool.false_eq_true, ↓reduceIte,
      List.mem_singleton] at hp
    subst hp
    exact hd
  refine ⟨t, g', ht, hg', fun l hlm => ⟨?_, ?_⟩⟩
  · rw [hth l hlm, Form.threadAfter_lat, Form.entryOf, hl]
    show shiftLat (Thread.lat (if _ then _ else _)) .invalid = _
    rw [apply_ite Thread.lat, ite_self, reader_lat_of_no_regs A.whole hlm ⟨rfl, rfl⟩]
    rfl
  · rw [hth l hlm, Form.threadAfter_lpv, hl]
    exact Thread.setPending_lpv _ (List.mem_cons_self ..) hd

end Sys2Proof.Machine
end

section
/-! SUPPORT. Instructions at the last word of a segment (R55): they take effect, and their lanes freeze where they stand. -/

namespace Sys2Proof.Machine

open Sys2Proof.Claims

variable {o : Op} {s : State} {gk : Nat} {g : Gang} {m : Nat} {h : Hints}

/-- The fault of sequential execution past offset 0x7FFC (R55). -/
def pastEnd (pc : Word) : Flt := ⟨cCodeSeg, 2, dword (pc + 4).toNat⟩

theorem passesEnd_of_edge {t : Thread} {d : Done} (hd : d.npc = none) (he : t.pc.toNat % 0x8000 = 0x7FFC) : passesEnd t d = true := by
  simp [passesEnd, hd, he]

/-- From g to g' some lanes have completed at the last word of their segment. -/
structure EndedAtEdge (f : Form) (d : Nat → Done) (ls : List Nat) (g g' : Gang) : Prop where
  len : g'.threads.length = g.threads.length
  k : g'.k = g.k
  place : g'.ctx = g.ctx ∧ g'.core = g.core ∧ g'.level = g.level ∧ g'.index = g.index
  th : ∀ l, g'.th l = if l ∈ ls then f.threadAtEnd (g.th l) (d l) else g.th l
  readV : ∀ l n, n < 128 → g'.readV l n = if l ∈ ls then (lastTo n (f.writes (d l))).getD (g.readV l n) else g.readV l n

theorem Gang.writeAll_place (l : Nat) (ws : List (Nat × Word)) : ∀ g : Gang,
    (g.writeAll l ws).ctx = g.ctx ∧ (g.writeAll l ws).core = g.core ∧ (g.writeAll l ws).level = g.level ∧ (g.writeAll l ws).index = g.index := by
  induction ws with
  | nil => exact fun _ => ⟨rfl, rfl, rfl, rfl⟩
  | cons p ws ih => exact fun g => ih (g.writeV l p.1 p.2)

theorem Form.settleLanes_atEdge (f : Form) (hd : Held) (d : Nat → Done) (pc : Word) (he : pc.toNat % 0x8000 = 0x7FFC) {ls : List Nat} (hn : ls.Nodup)
    (hs : ∀ l ∈ ls, (d l).npc = none) (hw : ∀ l ∈ ls, ∀ p ∈ f.writes (d l), p.1 < 128) : ∀ {g : Gang}, (∀ l ∈ ls, l < g.threads.length) →
    (∀ l ∈ ls, (g.th l).pc = pc) → ∃ g', f.settleLanes hd g (ls.map fun l => (l, .done (d l))) = (g', ls.map fun l => (l, pastEnd pc)) ∧ EndedAtEdge f d ls g g' := by
  induction ls with
  | nil => exact fun _ _ => ⟨_, rfl, rfl, rfl, ⟨rfl, rfl, rfl, rfl⟩, fun _ => rfl, fun _ _ _ => rfl⟩
  | cons x t ih =>
    intro g hlt hpc
    obtain ⟨hx, hnt⟩ := List.nodup_cons.1 hn
    have hxl := hlt x List.mem_cons_self
    have hxw := hw x List.mem_cons_self
    have hxp := hpc x List.mem_cons_self
    have hlane : f.settleLane hd g x (.done (d x)) = ((g.writeAll x (f.writes (d x))).setTh x (f.threadAtEnd (g.th x) (d x)), some (pastEnd pc)) := by
      show f.complete g x (d x) = _
      unfold Form.complete
      simp only [Gang.th_writeAll]
      rw [if_pos (passesEnd_of_edge (hs x List.mem_cons_self) (by rw [hxp]; exact he)), hxp]
      rfl
    generalize hg1 : (g.writeAll x (f.writes (d x))).setTh x (f.threadAtEnd (g.th x) (d x)) = g1 at hlane
    have len1 : g1.threads.length = g.threads.length := by simp [← hg1]
    have th1 : ∀ l, g1.th l = if x = l then f.threadAtEnd (g.th x) (d x) else g.th l := fun l => by
      rw [← hg1, Gang.th_setTh _ _ _ (by simpa using hxl), Gang.th_writeAll]
    have other1 : ∀ l ∈ t, g1.th l = g.th l := fun l hl => by
      rw [th1, if_neg (ne_of_mem_of_not_mem hl hx).symm]
    obtain ⟨g', e', w⟩ := ih hnt (fun l hl => hs l (List.mem_cons_of_mem _ hl)) (fun l hl => hw l (List.mem_cons_of_mem _ hl)) (g := g1)
      (fun l hl => len1 ▸ hlt l (List.mem_cons_of_mem _ hl)) fun l hl => (congrArg Thread.pc (other1 l hl)).trans (hpc l (List.mem_cons_of_mem _ hl))
    refine ⟨g', ?_, w.len.trans len1, w.k.trans (by simp [← hg1]), ?_, fun l => ?_, fun l n hn => ?_⟩
    · rw [List.map_cons, Form.settleLanes_cons, hlane, e']
      rfl
    · obtain ⟨p1, p2, p3, p4⟩ := w.place
      obtain ⟨q1, q2, q3, q4⟩ := g.writeAll_place x (f.writes (d x))
      rw [← hg1] at p1 p2 p3 p4
      exact ⟨p1.trans q1, p2.trans q2, p3.trans q3, p4.trans q4⟩
    · rw [w.th l, th1 l]
      by_cases hlx : x = l
      · subst hlx
        simp [hx]
      · simp [hlx, Ne.symm hlx]
    · have hv1 : g1.readV l n = if x = l then (lastTo n (f.writes (d x))).getD (g.readV l n) else g.readV l n := by
        rw [← hg1, Gang.readV_congr (Gang.setTh_v _ x _) l n, Gang.readV_writeAll _ _ _ hxw _ _ hn]
      rw [w.readV l n hn, hv1]
      by_cases hlx : x = l
      · subst hlx
        simp [hx]
      · simp [hlx, Ne.symm hlx]

theorem maskOf_lanesOf (hm : m < 4294967296) : maskOf (lanesOf m) = m := by
  refine Nat.eq_of_testBit_eq fun l => ?_
  rw [testBit_maskOf]
  by_cases h32 : l < 32
  · simp [mem_lanesOf, h32]
  · rw [Nat.testBit_lt_two_pow (hm.trans_le (Nat.pow_le_pow_right (n := 2) (by decide) (not_lt.1 h32)))]
    simp [mem_lanesOf, h32]

/-- What an instruction that takes effect at the last word of its segment leaves: its words written, its lanes FROZEN where they stand, and one record with CODE_SEG 0x02 and the sequential address. -/
structure PassesEnd (s t : State) (gk : Nat) (g : Gang) (m : Nat) (pc : Word) (nw : Bool) (d : Nat) (ws : Nat → List Word) : Prop where
  self : ∃ g', t.gang? gk = some g' ∧ ∀ l ∈ lanesOf m, (g'.th l).run = .frozen ∧ (g'.th l).pc = pc ∧ ∀ n, n < 128 →
    g'.readV l n = if nw = false ∧ d ≤ n ∧ n < d + (ws l).length then (ws l).getD (n - d) 0 else g.readV l n
  record : s.hasCtx g.ctx = true → waitingRecs (s.ctx g.ctx).queue < Config.faultQueue → (s.ctx g.ctx).heldRecs = [] → lowestFree (s.ctx g.ctx).sets.keys 255 ≠ none →
    ∃ r ∈ (t.ctx g.ctx).queue, r.cls = cCodeSeg ∧ r.sub = 2 ∧ r.pc = pc ∧ r.va = dword (pc + 4).toNat ∧ r.lanes = m

/-- The end of an instruction of words for vD that every lane completes at the last word of its segment. -/
theorem VecOp.finish_atEdge {nw : Bool} {d : Nat} {f : Env → Nat → List Word} (V : VecOp o nw d f) (hd : Held) (hit : Bool) {e : Env} {pc : Word}
    (hlen : g.threads.length = 32) (hne : lanesOf m ≠ []) (hm : m < 4294967296) (hpc : ∀ l ∈ lanesOf m, (g.th l).pc = pc) (he : pc.toNat % 0x8000 = 0x7FFC)
    (hw : ∀ l, ∀ p ∈ o.form.writes { ws := f e l }, p.1 < 128) :
    PassesEnd s (o.finish (o.begun s gk g m) gk hd ((lanesOf m).map fun l => (l, .done { ws := f e l })) hit).clearCur gk g m pc nw d (f e) := by
  have hbegun : (o.begun s gk g m).gang? gk = some (o.reader g m) := by simp
  have hlt : ∀ l ∈ lanesOf m, l < 32 := fun l hl => (mem_lanesOf.1 hl).1
  obtain ⟨gE, hsettle, w⟩ := o.form.settleLanes_atEdge hd (fun l => { ws := f e l }) pc he (lanesOf_nodup m) (fun _ _ => rfl) (fun l _ => hw l) (g := o.reader g m)
    (fun l hl => by simpa [hlen] using hlt l hl) fun l hl => (o.form.prepare_keeps g (lanesOf m) (by rw [hlen]; exact hlt l hl)).1.trans (hpc l hl)
  have lenE : gE.threads.length = 32 := w.len.trans (by simpa using hlen)
  have pcE : ∀ l ∈ lanesOf m, (gE.th l).pc = pc := fun l hl => by
    rw [w.th l, if_pos hl]
    exact (o.form.prepare_keeps g (lanesOf m) (by rw [hlen]; exact hlt l hl)).1.trans (hpc l hl)
  have hend : o.endGang hd gE ((lanesOf m).map fun l => (l, .done { ws := f e l })) = gE := by simp [Op.endGang, V.sync, V.rbCls, V.joint]
  rw [o.finish_eq hd _ hit hbegun (by rw [V.mem, Bool.false_and]), o.form.withK_none _ (fun l => .done { ws := f e l }) _ (fun _ _ _ _ => by simp [Form.kWrites, V.dst]),
    hsettle, hend]
  -- all lanes then take one fault, from the gang with the results written
  have base : (s.setGang gk gE).gang? gk = some gE := by simp
  have T := o.settleGang_faults (s := s.setGang gk gE) (S := o.begun s gk g m) (g1 := gE) (hit := hit) (outs := (lanesOf m).map fun l => (l, .done { ws := f e l }))
    (fl := fun _ => pastEnd pc) hne base lenE (by simp [State.setGang, Tbl.put_put]) lenE rfl rfl (fun _ _ => ⟨rfl, rfl, rfl, rfl, rfl⟩) ⟨rfl, rfl, rfl, rfl⟩ rfl
    fun _ _ => ⟨rfl, rfl⟩
  refine ⟨?_, fun hx hq hh hfree => ?_⟩
  · obtain ⟨g', hg', hv, -, hlanes, -⟩ := T.self
    refine ⟨g', hg', fun l hl => ⟨(hlanes l hl).1, (hlanes l hl).2.1.trans (pcE l hl), fun n hn => ?_⟩⟩
    rw [Gang.readV_congr hv, w.readV l n hn, if_pos hl, Form.lastTo_writes _ _ _ rfl, V.dst, V.nw, Gang.readV_congr (Form.prepare_v _ g _)]
    dsimp only
    split <;> rfl
  · obtain ⟨i, hi⟩ := Option.ne_none_iff_exists'.1 hfree
    have hctx : gE.ctx = g.ctx := w.place.1
    obtain ⟨r, hr⟩ := T.record (by rw [hctx]; exact hx) (by rw [hctx]; exact hq) (by rw [hctx]; exact hh) (by simp [pastEnd, cCodeSeg]) i (by rw [hctx]; exact hi)
    obtain ⟨x, t, hxt⟩ := List.exists_cons_of_ne_nil hne
    refine ⟨r, ?_, hr.cls, hr.sub, hr.pc.trans (pcE _ ?_), hr.va, hr.mask.trans (maskOf_lanesOf hm)⟩
    · have := hr.queue
      rw [hctx] at this
      rw [this]
      exact List.mem_append_right _ List.mem_cons_self
    · rw [hxt]
      exact List.mem_cons_self

theorem VecOp.run_atEdge {i : Instr} {op : Hints → Op} {nw : Bool} {d : Nat} {f : Env → Nat → List Word} {pc : Word} (V : VecOp (op h) nw d f)
    (R : ReadyAtEnd i (op h) s gk g m h pc) (hd : d < 128) :
    ∃ t, run i op s = .next t ∧ PassesEnd s t gk g m pc nw d (f ((op h).given s gk g m h)) := by
  have hsub : ∀ l ∈ lanesOf m, operandSub (op h) g m h l = none := fun l hl => by
    have hnone := R.operands
    rw [operandFaults_lanes V.uniform, List.filterMap_eq_nil_iff] at hnone
    simpa using hnone l hl
  have hlanes : ((op h).given s gk g m h).lanes = lanesOf m :=
    V.given_lanes.trans (List.filter_eq_self.2 fun l hl => by rw [hsub l hl]; rfl)
  have hill : (op h).form.illegal = none := by
    obtain ⟨l, hl⟩ := List.exists_mem_of_ne_nil _ R.some
    exact illegal_of_operandSub (hsub l hl)
  have hbody : (if ((op h).given s gk g m h).lanes.isEmpty then ((op h).begun s gk g m, []) else (op h).body ((op h).begun s gk g m) ((op h).given s gk g m h)) =
      ((op h).begun s gk g m, (lanesOf m).map fun l => (l, LaneOut.done { ws := f ((op h).given s gk g m h) l })) := by
    rw [List.isEmpty_eq_false_iff.2 (hlanes ▸ R.some), V.body, perLane, hlanes]
    rfl
  obtain ⟨hd', hit, e⟩ := run_checked (i := i) R.cur R.gang R.bound R.check (by simp [Op.canIssue, V.mem, V.ready]) hbody (by
    rw [R.operands]
    exact mergeOuts_nil _ _ (lanesOf_nodup m))
  exact ⟨_, e, V.finish_atEdge hd' hit R.whole R.some R.range R.at_ R.edge fun l => V.writes_lt hd hill _ l⟩

end Sys2Proof.Machine
end

section

open Sys2Proof Sys2Proof.Machine Sys2Proof.Claims

/-- Settles O11: the latches from the form of the instruction, and the end of a segment from the fault that all lanes take after their results are written. -/
theorem latchesAndSegmentEnd : Obligations.LatchesAndSegmentEnd := by
  unfold Obligations.LatchesAndSegmentEnd
  refine ⟨fun i o s gk g m h d nw w ws R hr => ?_, fun i o s gk g m h R => ⟨?_, ?_, ?_, ?_⟩, fun i o s gk g m h d nw pc ws R hr => ?_⟩
  · obtain ⟨l0, hl0⟩ := List.exists_mem_of_ne_nil _ R.acc.some
    rcases hr with hr | hr
    · obtain ⟨op, nw', d', f, rfl, hex, hd, V, hf⟩ := isInt_of_intResult R.op (hr l0 hl0)
      have same : ∀ l ∈ lanesOf m, f ((op h).given s gk g m h) l = w l :: ws l := fun l hl => by
        have := (hf s gk g m l).symm.trans (hr l hl)
        simp only [Option.some.injEq, Prod.mk.injEq] at this
        exact this.2.2
      rw [hex]
      exact V.latches R.acc (hd R.wf) same
    · obtain ⟨op, nw', d', f, rfl, hex, hd, V, hf⟩ := isCross_of_crossResult R.op (hr l0 hl0)
      have same : ∀ l ∈ lanesOf m, f ((op h).given s gk g m h) l = w l :: ws l := fun l hl => by
        have := (hf s gk g m l R.acc.lanes).symm.trans (hr l hl)
        simp only [Option.some.injEq, Prod.mk.injEq] at this
        exact this.2.2
      rw [hex]
      exact V.latches R.acc (hd R.wf) same
  · rintro rfl
    obtain ⟨-, ho, A⟩ := R
    cases ho
    exact run_nop_latches A
  · rintro rfl
    obtain ⟨-, ho, A⟩ := R
    cases ho
    exact run_yield_latches A
  · exact fun f b u hi hc => run_load_latches R hi hc
  · rintro d rfl hn hd
    obtain ⟨-, ho, A⟩ := R
    cases ho
    exact run_rdsr_clock_latches A hn hd
  · obtain ⟨l0, hl0⟩ := List.exists_mem_of_ne_nil _ R.some
    obtain ⟨op, nw', d', f, rfl, hex, hd, V, hf⟩ := isInt_of_intResult R.op (hr l0 hl0)
    have same : ∀ l ∈ lanesOf m, d' = d ∧ nw' = nw ∧ f ((op h).given s gk g m h) l = ws l := fun l hl => by
      simpa using (hf s gk g m l).symm.trans (hr l hl)
    obtain ⟨rfl, rfl, -⟩ := same l0 hl0
    rw [hex]
    obtain ⟨t, ht, ⟨g', hg', hlanes⟩, hrec⟩ := V.run_atEdge (i := i) R (hd R.wf)
    refine ⟨t, g', ht, hg', fun l hl => ?_, hrec⟩
    rw [← (same l hl).2.2]
    exact hlanes l hl

end

section
/-! SUPPORT. The bit operations of the integer instructions, bit by bit (R102, R103): counting, reversal, byte permute, bit fields. -/

namespace Sys2Proof.Machine

open Sys2Proof.Claims

/-! ## Bits of numbers -/

theorem testBit_bitsAt (x lo w i : Nat) : (bitsAt x lo w).testBit i = (decide (i < w) && x.testBit (lo + i)) := by
  rw [bitsAt, Nat.testBit_mod_two_pow, Nat.testBit_div_two_pow, Nat.add_comm]

/-- A number with a field replaced, written from its parts: above the field, the field, below it. -/
theorem withBits_eq (x lo w y : Nat) : withBits x lo w y = 2 ^ lo * (2 ^ w * (x / 2 ^ lo / 2 ^ w) + y % 2 ^ w) + x % 2 ^ lo := by
  have outer := Nat.div_add_mod x (2 ^ lo)
  have inner := Nat.div_add_mod (x / 2 ^ lo) (2 ^ w)
  have split_x : x = 2 ^ lo * (2 ^ w * (x / 2 ^ lo / 2 ^ w)) + bitsAt x lo w * 2 ^ lo + x % 2 ^ lo := by
    rw [bitsAt, Nat.mul_comm (_ % _), ← Nat.mul_add, inner, outer]
  rw [withBits, Nat.mul_add, Nat.mul_comm (2 ^ lo) (y % _)]
  omega

theorem testBit_withBits (x lo w y i : Nat) :
    (withBits x lo w y).testBit i = if lo ≤ i ∧ i < lo + w then y.testBit (i - lo) else x.testBit i := by
  rw [withBits_eq, Nat.testBit_two_pow_mul_add _ (Nat.mod_lt _ (Nat.two_pow_pos lo))]
  by_cases below : i < lo
  · rw [if_pos below, if_neg (by omega), Nat.testBit_mod_two_pow, decide_eq_true below, Bool.true_and]
  rw [if_neg below, Nat.testBit_two_pow_mul_add _ (Nat.mod_lt _ (Nat.two_pow_pos w))]
  by_cases inside : i - lo < w
  · rw [if_pos inside, if_pos (by omega), Nat.testBit_mod_two_pow, decide_eq_true inside, Bool.true_and]
  · rw [if_neg inside, if_neg (by omega), Nat.testBit_div_two_pow, Nat.testBit_div_two_pow]
    congr 1
    omega

/-- The bits of a word put together from four bytes. -/
theorem testBit_fourBytes {f : Nat → Nat} (hf : ∀ j, f j < 256) {i : Nat} (hi : i < 32) :
    (f 0 + 256 * f 1 + 65536 * f 2 + 16777216 * f 3).testBit i = (f (i / 8)).testBit (i % 8) := by
  have nested : f 0 + 256 * f 1 + 65536 * f 2 + 16777216 * f 3 = 2 ^ 8 * (2 ^ 8 * (2 ^ 8 * f 3 + f 2) + f 1) + f 0 := by omega
  rw [nested, Nat.testBit_two_pow_mul_add _ (hf 0), Nat.testBit_two_pow_mul_add _ (hf 1), Nat.testBit_two_pow_mul_add _ (hf 2)]
  have h4 : i / 8 = 0 ∨ i / 8 = 1 ∨ i / 8 = 2 ∨ i / 8 = 3 := by omega
  rcases h4 with e | e | e | e <;> rw [e]
  · rw [if_pos (by omega), show i % 8 = i by omega]
  · rw [if_neg (by omega), if_pos (by omega), show i % 8 = i - 8 by omega]
  · rw [if_neg (by omega), if_neg (by omega), if_pos (by omega), show i % 8 = i - 8 - 8 by omega]
  · rw [if_neg (by omega), if_neg (by omega), if_neg (by omega), show i % 8 = i - 8 - 8 - 8 by omega]

theorem getLsbD_word {i : Nat} (hi : i < 32) (n : Nat) : (word n).getLsbD i = n.testBit i := by
  rw [BitVec.getLsbD_ofNat, decide_eq_true hi, Bool.true_and]

theorem word_toNat_of_lt {n : Nat} (hn : n < 4294967296) : (word n).toNat = n := Nat.mod_eq_of_lt hn

/-! ## Counting and reversal (R102) -/

/-- The first number with a property, or the end of the range, as the length of the stretch before it. -/
theorem find?_range_getD (p : Nat → Bool) (n : Nat) :
    ((List.range n).find? p).getD n = ((List.range n).takeWhile fun i => !p i).length := by
  have bound := List.findIdx_le_length (p := p) (xs := List.range n)
  rw [List.length_range] at bound
  rw [List.find?_eq_getElem?_findIdx, List.takeWhile_eq_take_findIdx_not, List.length_take, List.length_range]
  simp only [Bool.not_not, Nat.min_eq_left bound]
  by_cases hlt : (List.range n).findIdx p < n
  · rw [List.getElem?_range hlt, Option.getD_some]
  · rw [List.getElem?_eq_none (by rw [List.length_range]; omega), Option.getD_none]
    omega

theorem clzW_toNat (x : Word) : (clzW x).toNat = ((List.range 32).takeWhile fun i => !x.getLsbD (31 - i)).length := by
  have short := (List.takeWhile_sublist (fun i => !x.getLsbD (31 - i)) (l := List.range 32)).length_le
  rw [List.length_range] at short
  rw [clzW, find?_range_getD]
  exact word_toNat_of_lt (by omega)

theorem popcW_toNat (x : Word) : (popcW x).toNat = ((List.range 32).filter fun i => x.getLsbD i).length := by
  have short := List.length_filter_le (fun i => x.getLsbD i) (List.range 32)
  rw [List.length_range] at short
  exact word_toNat_of_lt (by omega)

theorem brevW_getLsbD (x : Word) {i : Nat} (hi : i < 32) : (brevW x).getLsbD i = x.getLsbD (31 - i) := by
  rw [brevW, getLsbD_word hi, testBit_maskOf]
  simp [hi]

/-! ## Byte permute (R102) -/

theorem byteOf_lt (a c : Word) (n : Nat) : byteOf a c n < 256 := Nat.mod_lt _ (by decide)

theorem bytepByte_lt (a b c : Word) (j : Nat) : bytepByte a b c j < 256 := by
  unfold bytepByte
  dsimp only
  split
  · exact byteOf_lt a c _
  · decide

theorem testBit_byteOf (a c : Word) {n k : Nat} (hn : n < 8) (hk : k < 8) :
    (byteOf a c n).testBit k = if n < 4 then a.getLsbD (8 * n + k) else c.getLsbD (8 * (n - 4) + k) := by
  rw [byteOf, testBit_bitsAt, decide_eq_true hk, Bool.true_and]
  split
  · next low => rw [Nat.mod_eq_of_lt low]; rfl
  · next high => rw [show n % 4 = n - 4 by omega]; rfl

theorem bytepW_getLsbD (a b c : Word) {i : Nat} (hi : i < 32) : (bytepW a b c).getLsbD i = permutedBit a b c i := by
  have selector : bitsAt b.toNat (4 * (i / 8)) 4 = b.toNat / 16 ^ (i / 8) % 16 := by
    rw [bitsAt, Nat.pow_mul]
    rfl
  rw [bytepW, getLsbD_word hi, testBit_fourBytes (f := bytepByte a b c) (bytepByte_lt a b c) hi, bytepByte, permutedBit, selector]
  by_cases h8 : b.toNat / 16 ^ (i / 8) % 16 < 8
  · rw [if_pos h8, testBit_byteOf a c h8 (Nat.mod_lt _ (by decide)), if_pos h8]
  · rw [if_neg h8, if_neg (by omega), if_neg h8, Nat.zero_testBit]

/-! ## Bit fields (R103) -/

theorem fieldPos_eq (b : Word) : fieldPos b = fieldAt b := by
  rw [fieldPos, bitsAt, Nat.pow_zero, Nat.div_one]
  rfl

theorem fieldLen_eq (b : Word) : fieldLen b = fieldWidth b := by
  rw [fieldLen, fieldPos_eq]
  rfl

theorem bfeuW_getLsbD (a b : Word) {i : Nat} (hi : i < 32) : (bfeuW a b).getLsbD i = (decide (i < fieldWidth b) && a.getLsbD (fieldAt b + i)) := by
  rw [bfeuW, getLsbD_word hi, testBit_bitsAt, fieldPos_eq, fieldLen_eq]
  rfl

theorem bfeW_getLsbD (a b : Word) {i : Nat} (hi : i < 32) :
    (bfeW a b).getLsbD i = (decide (fieldWidth b ≠ 0) && a.getLsbD (fieldAt b + min i (fieldWidth b - 1))) := by
  have field : ∀ j, (BitVec.ofNat (fieldWidth b) (bitsAt a.toNat (fieldAt b) (fieldWidth b))).getLsbD j =
      (decide (j < fieldWidth b) && a.getLsbD (fieldAt b + j)) := fun j => by
    rw [BitVec.getLsbD_ofNat, testBit_bitsAt, ← Bool.and_assoc, Bool.and_self]
    rfl
  rw [bfeW, fieldPos_eq, fieldLen_eq, BitVec.getLsbD_signExtend, BitVec.msb_eq_getLsbD_last, field, field, decide_eq_true hi, Bool.true_and]
  by_cases inside : i < fieldWidth b
  · rw [if_pos inside, Nat.min_eq_left (by omega), decide_eq_true inside, decide_eq_true (by omega)]
  · rw [if_neg inside, Nat.min_eq_right (by omega)]
    congr 2
    exact propext (by omega)

theorem bfiW_getLsbD (a b c : Word) {i : Nat} (hi : i < 32) : (bfiW a b c).getLsbD i =
    if fieldAt b ≤ i ∧ i < fieldAt b + fieldWidth b then a.getLsbD (i - fieldAt b) else c.getLsbD i := by
  rw [bfiW, getLsbD_word hi, testBit_withBits, fieldPos_eq, fieldLen_eq]
  rfl

end Sys2Proof.Machine
end
section
/-! SUPPORT. Register instructions that complete all their lanes (R45, R47): words for vD, words for kD once for the gang, and a word with the flags that it raises. -/

namespace Sys2Proof.Machine

open Sys2Proof.Claims

variable {o : Op} {s : State} {gk : Nat} {g : Gang} {m : Nat} {h : Hints} {i : Instr} {nw : Bool} {d : Nat}

/-- Words for a vector destination, lane by lane. -/
theorem VecOp.went {op : Hints → Op} {f : Env → Nat → List Word} {ws : Nat → List Word} (V : VecOp (op h) nw d f) (A : Accepts (op h) s gk g m h) (hd : d < 128)
    (hf : ∀ l ∈ lanesOf m, f ((op h).given s gk g m h) l = ws l) :
    ∃ t, run i op s = .next t ∧ Went s t gk g m (fun l => (LaneEnd.on (g.th l)).writes nw d (ws l)) noK := by
  obtain ⟨t, ht, w⟩ := run_went (i := i) A (d := fun l => { ws := f ((op h).given s gk g m h) l }) (perLane_eq A V.body fun _ _ => rfl) (fun _ => SetsOnly.none_)
    fun l _ => V.writes_lt hd (A.illegal V.uniform) _ l
  refine ⟨t, ht, w.congr (fun l hl => ?_) fun n => ?_⟩
  · obtain ⟨_, p2, p3, p4⟩ := A.reader_th hl
    refine ⟨fun n _ => ?_, rfl, p2.symm, p3.symm, p4.symm, V.rbCls.symm⟩
    simp only [Form.endOf, LaneEnd.writes]
    rw [Form.lastTo_writes _ _ _ rfl, V.dst, V.nw, ← hf l hl]
  · rw [Form.lastTo_kWrites, V.dst]
    rfl

/-- An instruction of registers alone that completes its lanes at once, with words for kD that are those of its first lane. -/
structure UniOp (o : Op) (nw : Bool) (d : Nat) (f : Env → Nat → List Word) : Prop where
  body : ∀ s e, o.body s e = (s, e.lanes.map fun l => (l, .done { ws := f e (e.lanes.headD 0) }))
  dst : o.form.dst = .k d
  nw : o.form.nw = nw
  rbCls : o.form.rbCls = false

theorem uni_uniOp {srcs : List Opnd} {f : Env → Nat → Word} : UniOp (uni nw d srcs f) nw d fun e l => [f e l] := ⟨fun _ _ => rfl, rfl, rfl, rfl⟩

theorem gather_uniOp {a : Opnd} {f : Env → Word} : UniOp (gather nw d a f) nw d fun e _ => [f e] := ⟨fun _ _ => rfl, rfl, rfl, rfl⟩

/-- Words for a uniform destination, written once for the gang (R119). -/
theorem run_kWords {op : Hints → Op} {ws : List Word} (A : Accepts (op h) s gk g m h)
    (hb : (op h).body (s.setGang gk ((op h).reader g m)) ((op h).given s gk g m h) = (s.setGang gk ((op h).reader g m), (lanesOf m).map fun l => (l, .done { ws := ws })))
    (hdst : (op h).form.dst = .k d) (hnw : (op h).form.nw = nw) (hrb : (op h).form.rbCls = false) :
    ∃ t, run i op s = .next t ∧ Went s t gk g m (fun l => LaneEnd.on (g.th l)) (kWords nw d ws) := by
  obtain ⟨t, ht, w⟩ := run_uni (i := i) (set := fun _ => id) A hb hdst hnw hrb fun _ => SetsOnly.none_
  refine ⟨t, ht, w.congr (fun l hl => ?_) fun _ => rfl⟩
  obtain ⟨_, p2, p3, p4⟩ := A.reader_th hl
  exact ⟨fun _ _ => rfl, rfl, p2.symm, p3.symm, p4.symm, rfl⟩

theorem UniOp.went {op : Hints → Op} {f : Env → Nat → List Word} (U : UniOp (op h) nw d f) (A : Accepts (op h) s gk g m h) :
    ∃ t, run i op s = .next t ∧ Went s t gk g m (fun l => LaneEnd.on (g.th l)) (kWords nw d (f ((op h).given s gk g m h) ((lanesOf m).headD 0))) :=
  run_kWords A (by rw [U.body, A.lanes]) U.dst U.nw U.rbCls

/-- A word for vD in every lane, with the flags that it raises there (R26). -/
theorem run_flagged {op : Hints → Op} {r : Nat → FRes} (A : Accepts (op h) s gk g m h) (hd : d < 128)
    (hb : (op h).body (s.setGang gk ((op h).reader g m)) ((op h).given s gk g m h) =
      (s.setGang gk ((op h).reader g m), (lanesOf m).map fun l => (l, .done { ws := [word (r l).bits], set := fun t => t.raise_ (r l).flags })))
    (hdst : (op h).form.dst = .v d) (hnw : (op h).form.nw = nw) (hrb : (op h).form.rbCls = false) :
    ∃ t, run i op s = .next t ∧ Went s t gk g m
      (fun l => { (LaneEnd.on (g.th l)).writes nw d [word (r l).bits] with fps := (g.th l).fps ||| word ((r l).flags % 64) }) noK := by
  obtain ⟨t, ht, w⟩ := run_went (i := i) A hb (fun _ => raise_setsOnly _) fun l _ p hp => by
    simp only [Form.writes, hdst, List.append_nil] at hp
    split at hp
    · cases hp
    · obtain ⟨k, hk, rfl⟩ := List.mem_map.1 hp
      have := List.mem_range.1 hk
      simp only [List.length_singleton] at this
      dsimp only
      omega
  refine ⟨t, ht, w.congr (fun l hl => ?_) fun n => ?_⟩
  · obtain ⟨_, p2, p3, p4⟩ := A.reader_th hl
    refine ⟨fun n _ => ?_, rfl, congrArg (· ||| word ((r l).flags % 64)) p2.symm, p3.symm, p4.symm, hrb.symm⟩
    simp only [Form.endOf, LaneEnd.writes]
    rw [Form.lastTo_writes _ _ _ rfl, hdst, hnw]
  · rw [Form.lastTo_kWrites, hdst]
    rfl

/-! ## The integer instructions (R98 to R106) -/

theorem delivered_eq {α : Type} {x y : α} {d' : Nat} {nw' : Bool} (e : some (d', nw', x) = some (d, nw, y)) : d' = d ∧ nw' = nw ∧ x = y := by
  simpa using e

/-- An integer instruction leaves its results in vD and nothing else. -/
theorem Ready.int_went {ws : Nat → List Word} (R : Ready i o s gk g m h) (hr : ∀ l ∈ lanesOf m, intResult h (readsOf o s g m h l) i = some (d, nw, ws l)) :
    ∃ t, exec i s = .next t ∧ Went s t gk g m (fun l => (LaneEnd.on (g.th l)).writes nw d (ws l)) noK := by
  obtain ⟨l0, hl0⟩ := List.exists_mem_of_ne_nil _ R.acc.some
  obtain ⟨op, nw', d', f, rfl, hex, hd, V, hf⟩ := isInt_of_intResult R.op (hr l0 hl0)
  have same : ∀ l ∈ lanesOf m, d' = d ∧ nw' = nw ∧ f ((op h).given s gk g m h) l = ws l := fun l hl =>
    delivered_eq ((hf s gk g m l).symm.trans (hr l hl))
  obtain ⟨rfl, rfl, -⟩ := same l0 hl0
  rw [hex]
  exact V.went R.acc (hd R.wf) fun l hl => (same l hl).2.2

/-- The word of an instruction of format R, with the major and the minor of its row (R40). -/
theorem encode_of_fields {f : Fields} (he : encodeNat i = some f.word) (hf : f.Fit) : ∃ w, encode i = [w] ∧ w.toNat / 67108864 = f.maj ∧ w.toNat % 4 = f.mn := by
  have num : (BitVec.ofNat 32 f.word).toNat = f.word := word_toNat_of_lt (Fields.word_lt hf)
  refine ⟨BitVec.ofNat 32 f.word, by rw [encode, he], ?_⟩
  obtain ⟨h1, h2, h3, h4, h5, h6⟩ := hf
  rw [num, Fields.word]
  omega

/-- An extension in the words of R106: its word is of major 0x0E, and its result a function of its source of kind u. -/
structure IsExtension (i : Instr) (nw : Bool) (d : Nat) (a : Src) (f : Word → Word) (mn : Nat) : Prop where
  row : encodeNat i = some (Fields.word ⟨0x0E, bit nw, d, a.toCode, 0, mn⟩)
  minor : mn < 4
  wf : i.wf = true → d < 128 ∧ a.wf = true
  result : ∀ h r, intResult h r i = some (d, nw, [f (r.x .u a)])

theorem setWidth_low_eq_and {n : Nat} (hn : n < 32) (x : Word) : (x.setWidth n).setWidth 32 = x &&& word (2 ^ n - 1) := by
  rw [BitVec.setWidth_eq_extractLsb' (x := x) hn.le, extractLow_eq_and hn]

theorem isExtension_of_cases {a : Src} {f : Word → Word} {mn : Nat}
    (hi : (i = .sext8 nw d a ∧ mn = 0 ∧ f = fun x => (x.setWidth 8).signExtend 32) ∨ (i = .sext16 nw d a ∧ mn = 1 ∧ f = fun x => (x.setWidth 16).signExtend 32) ∨
      (i = .zext8 nw d a ∧ mn = 2 ∧ f = fun x => (x.setWidth 8).setWidth 32) ∨ (i = .zext16 nw d a ∧ mn = 3 ∧ f = fun x => (x.setWidth 16).setWidth 32)) :
    IsExtension i nw d a f mn := by
  rcases hi with ⟨rfl, rfl, rfl⟩ | ⟨rfl, rfl, rfl⟩ | ⟨rfl, rfl, rfl⟩ | ⟨rfl, rfl, rfl⟩
  · exact ⟨rfl, by decide, Laws.Encoding.wf2, fun _ _ => rfl⟩
  · exact ⟨rfl, by decide, Laws.Encoding.wf2, fun _ _ => rfl⟩
  · exact ⟨rfl, by decide, Laws.Encoding.wf2, fun _ _ => word_result (setWidth_low_eq_and (n := 8) (by decide) _).symm⟩
  · exact ⟨rfl, by decide, Laws.Encoding.wf2, fun _ _ => word_result (setWidth_low_eq_and (n := 16) (by decide) _).symm⟩

theorem IsExtension.encodes {a : Src} {f : Word → Word} {mn : Nat} (E : IsExtension i nw d a f mn) (hw : i.wf = true) :
    ∃ w, encode i = [w] ∧ w.toNat / 67108864 = 0x0E ∧ w.toNat % 4 = mn :=
  encode_of_fields E.row ⟨by simp, bit_lt nw, (E.wf hw).1, Src.toCode_lt (E.wf hw).2, by simp, E.minor⟩

end Sys2Proof.Machine
end

section

open Sys2Proof Sys2Proof.Machine Sys2Proof.Claims

/-- Settles O7: every integer instruction computes its words lane by lane, and the bit operations that they name are followed bit by bit. -/
theorem integerResults : Obligations.IntegerResults := by
  unfold Obligations.IntegerResults
  exact ⟨fun _ _ _ _ _ _ _ _ _ _ R hr => R.int_went hr, clzW_toNat, popcW_toNat, fun x _ hi => brevW_getLsbD x hi, fun a b c _ hi => bytepW_getLsbD a b c hi,
    fun a b _ hi => bfeuW_getLsbD a b hi, fun a b _ hi => bfeW_getLsbD a b hi, fun a b c _ hi => bfiW_getLsbD a b c hi⟩

/-- Settles O8: the extensions are rows of major 0x0E, and integer instructions with the results of R106. -/
theorem extensions : Obligations.Extensions := by
  unfold Obligations.Extensions
  intro i nw d a f mn hi
  have E := isExtension_of_cases hi
  exact ⟨E.encodes, fun _ _ _ _ _ _ R => R.int_went fun _ _ => E.result _ _⟩

end

section
/-! SUPPORT. Floating-point and quantizing instructions where no lane raises an enabled exception (R26, R107 to R118). -/

namespace Sys2Proof.Machine

open Sys2Proof.Claims

variable {o : Op} {s : State} {gk : Nat} {g : Gang} {m : Nat} {h : Hints} {i : Instr} {nw : Bool} {d : Nat}

/-- A floating-point instruction without an enabled exception leaves its results in vD and its flags in FPSTATUS. -/
theorem Ready.fpu_went {r : Nat → FRes} (R : Ready i o s gk g m h) (hr : ∀ l ∈ lanesOf m, fpResult h (readsOf o s g m h l) i = some (d, nw, r l))
    (quiet : ∀ l ∈ lanesOf m, (r l).flags &&& bitsAt (g.th l).fps.toNat 8 5 = 0) :
    ∃ t, exec i s = .next t ∧ Went s t gk g m
      (fun l => { (LaneEnd.on (g.th l)).writes nw d [word (r l).bits] with fps := (g.th l).fps ||| word ((r l).flags % 64) }) noK := by
  obtain ⟨op, rfl, hex, hd, hdst, hnw, hrb, hb⟩ := R.fpu hr
  rw [hex]
  refine run_flagged R.acc hd (hb.trans (Prod.ext rfl (List.map_congr_left fun l hl => ?_))) hdst hnw hrb
  rw [if_neg (by simpa using quiet l hl)]

/-! ## The quantizing instructions (R117, R118) -/

/-- A lane without an enabled exception delivers its word and raises its flags (R26). -/
theorem fpOut_quiet {t : Thread} {n : Nat} (w : Word) (quiet : n &&& bitsAt t.fps.toNat 8 5 = 0) :
    fpOut t w n = .done { ws := [w], set := fun t => t.raise_ n } := by
  unfold fpOut Thread.traps
  rw [quiet]
  rfl

theorem raise_zero (t : Thread) : t.raise_ 0 = t := by
  unfold Thread.raise_
  rw [show word (0 % 64) = 0#32 from rfl, BitVec.or_zero]

/-- A list with its places, where no element stands twice: each element with the place at which it is found. -/
theorem map_zipIdx_of_nodup {α β : Type} [BEq α] [LawfulBEq α] {xs : List α} (hn : xs.Nodup) (f : α × Nat → β) :
    xs.zipIdx.map f = xs.map fun x => f (x, xs.idxOf x) := by
  refine List.ext_getElem (by simp) fun k h1 h2 => ?_
  simp [hn.idxOf_getElem]

/-- What lane l receives of a quantized group: zero point, scale and its element, and the flags of R117. -/
def quantLane (a : Nat) (e : Env) (l : Nat) : FRes :=
  let q := quantLanes a e
  ⟨q.zero * 16777216 + q.scale * 256 + q.qs.getD (e.lanes.idxOf l) 0, quantFlags q (e.lanes.idxOf l) (e.val l 0).toNat⟩

theorem quantOp_body {a : Src} {bits : Nat} {e : Env} (hn : e.lanes.Nodup) : (quantOp nw d a bits).body s e =
    (s, e.lanes.map fun l => (l, fpOut (e.g.th l) (word (quantLane bits e l).bits) (quantLane bits e l).flags)) :=
  Prod.ext rfl (map_zipIdx_of_nodup hn _)

/-- The lane's part of a group, in the words of the manual. -/
theorem groupWord_eq {a : Src} {bits : Nat} (A : Accepts (quantOp nw d a bits) s gk g m h) (l : Nat) :
    quantResult.groupWord (allReads (quantOp nw d a bits) s g m h) l bits a = quantLane bits ((quantOp nw d a bits).given s gk g m h) l := by
  have read : ∀ l, ((quantOp nw d a bits).given s gk g m h).val l 0 = (quantOp nw d a bits).opnd s g m h .f l a := given_val0 rfl
  have exact_flag : ∀ b : Bool, (if b = true then 0 else flagNX) = flagIf (!b) flagNX := by decide
  unfold quantResult.groupWord quantLane quantLanes quantFlags
  simp only [read, A.lanes, exact_flag]
  rfl

/-- A quantizing instruction, accepted, delivers the group's words lane by lane. -/
theorem quantOp_quiet {a : Src} {bits : Nat} {r : Nat → FRes} (A : Accepts (quantOp nw d a bits) s gk g m h)
    (hr : ∀ l ∈ lanesOf m, quantResult.groupWord (allReads (quantOp nw d a bits) s g m h) l bits a = r l)
    (quiet : ∀ l ∈ lanesOf m, (r l).flags &&& bitsAt (g.th l).fps.toNat 8 5 = 0) :
    (quantOp nw d a bits).body (s.setGang gk ((quantOp nw d a bits).reader g m)) ((quantOp nw d a bits).given s gk g m h) =
      (s.setGang gk ((quantOp nw d a bits).reader g m),
        (lanesOf m).map fun l => (l, .done { ws := [word (r l).bits], set := fun t => t.raise_ (r l).flags })) := by
  rw [quantOp_body (A.lanes ▸ lanesOf_nodup m), A.lanes]
  refine Prod.ext rfl (List.map_congr_left fun l hl => ?_)
  have fps : (((quantOp nw d a bits).given s gk g m h).g.th l).fps = (g.th l).fps := (A.reader_th hl).2.1
  rw [← groupWord_eq A, hr l hl, fpOut_quiet _ (by rw [fps]; exact quiet l hl)]

/-- A dequantizing instruction, accepted, delivers the decoded elements where the metadata is well formed. -/
theorem dequantOp_quiet {a b : Src} {q4 : Bool} {r : Nat → FRes} (A : Accepts (dequantOp nw d a b q4) s gk g m h)
    (hr : ∀ l ∈ lanesOf m, metaBad q4 ((dequantOp nw d a b q4).opnd s g m h .u l b) = false ∧
      r l = ⟨dequant ((dequantOp nw d a b q4).opnd s g m h .u l b) (((dequantOp nw d a b q4).opnd s g m h .u l a).toNat % (if q4 then 16 else 256)), 0⟩) :
    (dequantOp nw d a b q4).body (s.setGang gk ((dequantOp nw d a b q4).reader g m)) ((dequantOp nw d a b q4).given s gk g m h) =
      (s.setGang gk ((dequantOp nw d a b q4).reader g m),
        (lanesOf m).map fun l => (l, .done { ws := [word (r l).bits], set := fun t => t.raise_ (r l).flags })) := by
  refine perLane_eq A rfl fun l hl => ?_
  obtain ⟨good, e⟩ := hr l hl
  rw [given_val0 (o := dequantOp nw d a b q4) rfl, given_val1 (o := dequantOp nw d a b q4) rfl, good, e]
  simp only [Bool.false_eq_true, ↓reduceIte, raise_zero]
  rfl

/-- A dequantized element: where the metadata is malformed there is none. -/
theorem element_some {c : Bool} {x : Nat} {d' : Nat} {nw' : Bool} {y : FRes} (e : (if c then none else some (d', nw', (⟨x, 0⟩ : FRes))) = some (d, nw, y)) :
    d' = d ∧ nw' = nw ∧ c = false ∧ y = ⟨x, 0⟩ := by
  cases c with
  | true => cases e
  | false => simpa [eq_comm] using e

/-- A quantizing instruction without an enabled exception leaves its words in vD and its flags in FPSTATUS. -/
theorem Ready.quant_went {r : Nat → FRes} (R : Ready i o s gk g m h) (hr : ∀ l ∈ lanesOf m, quantResult (allReads o s g m h) l i = some (d, nw, r l))
    (quiet : ∀ l ∈ lanesOf m, (r l).flags &&& bitsAt (g.th l).fps.toNat 8 5 = 0) :
    ∃ t, exec i s = .next t ∧ Went s t gk g m
      (fun l => { (LaneEnd.on (g.th l)).writes nw d [word (r l).bits] with fps := (g.th l).fps ||| word ((r l).flags % 64) }) noK := by
  obtain ⟨hw, ho, A⟩ := R
  obtain ⟨l0, hl0⟩ := List.exists_mem_of_ne_nil _ A.some
  have hr0 := hr l0 hl0
  cases i with
  | qf8 nw' d' a =>
    cases ho
    obtain ⟨rfl, rfl, -⟩ := delivered_eq hr0
    exact run_flagged (op := opQf8 nw' d' a) A (Laws.Encoding.wf2 hw).1 (quantOp_quiet A (fun l hl => (delivered_eq (hr l hl)).2.2) quiet) rfl rfl rfl
  | qf4 nw' d' a =>
    cases ho
    obtain ⟨rfl, rfl, -⟩ := delivered_eq hr0
    exact run_flagged (op := opQf4 nw' d' a) A (Laws.Encoding.wf2 hw).1 (quantOp_quiet A (fun l hl => (delivered_eq (hr l hl)).2.2) quiet) rfl rfl rfl
  | dq8 nw' d' a b =>
    cases ho
    obtain ⟨rfl, rfl, -⟩ := element_some hr0
    exact run_flagged (op := opDq8 nw' d' a b) A (Laws.Encoding.wf3 hw).1 (dequantOp_quiet A fun l hl => (element_some (hr l hl)).2.2) rfl rfl rfl
  | dq4 nw' d' a b =>
    cases ho
    obtain ⟨rfl, rfl, -⟩ := element_some hr0
    exact run_flagged (op := opDq4 nw' d' a b) A (Laws.Encoding.wf3 hw).1 (dequantOp_quiet A fun l hl => (element_some (hr l hl)).2.2) rfl rfl rfl
  | _ => cases hr0

end Sys2Proof.Machine
end

section

open Sys2Proof Sys2Proof.Machine Sys2Proof.Claims

/-- Settles O9: a floating-point or quantizing instruction of which no lane traps delivers its words and flags lane by lane. -/
theorem floatResults : Obligations.FloatResults := by
  unfold Obligations.FloatResults
  exact ⟨fun _ _ _ _ _ _ _ _ _ _ R hr quiet => R.fpu_went hr quiet, fun _ _ _ _ _ _ _ _ _ _ R hr quiet => R.quant_went hr quiet⟩

end

section
/-! SUPPORT. Cross-lane instructions, uniform registers and reductions (R119 to R124), and the tree of R91. -/

namespace Sys2Proof.Machine

open Sys2Proof.Claims

variable {o : Op} {s : State} {gk : Nat} {g : Gang} {m : Nat} {h : Hints} {i : Instr} {nw : Bool} {d : Nat}

/-- A cross-lane instruction leaves its words in vD and nothing else (R122, R123). -/
theorem Ready.cross_went {ws : Nat → List Word} (R : Ready i o s gk g m h) (hr : ∀ l ∈ lanesOf m, crossResult h (allReads o s g m h) l i = some (d, nw, ws l)) :
    ∃ t, exec i s = .next t ∧ Went s t gk g m (fun l => (LaneEnd.on (g.th l)).writes nw d (ws l)) noK := by
  obtain ⟨l0, hl0⟩ := List.exists_mem_of_ne_nil _ R.acc.some
  obtain ⟨op, nw', d', f, rfl, hex, hd, V, hf⟩ := isCross_of_crossResult R.op (hr l0 hl0)
  have same : ∀ l ∈ lanesOf m, d' = d ∧ nw' = nw ∧ f ((op h).given s gk g m h) l = ws l := fun l hl =>
    delivered_eq ((hf s gk g m l R.acc.lanes).symm.trans (hr l hl))
  obtain ⟨rfl, rfl, -⟩ := same l0 hl0
  rw [hex]
  exact V.went R.acc (hd R.wf) fun l hl => (same l hl).2.2

/-! ## Uniform registers (R119), BALLOT, the integer reductions (R123, R124) -/

/-- The operands of UADD64: a pair of k registers and a uniform source. -/
theorem given_upair {a b : Src} {k : Kind} (hs : o.form.srcs = [.upair a, .uni b k]) (l : Nat) :
    (o.given s gk g m h).pair l 0 = o.opnd2 s g m h l a ∧ (o.given s gk g m h).val l 2 = o.opnd s g m h k l b := by
  have e := Op.given_vals (s := s) (gk := gk) (g := g) (m := m) (h := h) (o := o) l
  rw [hs, List.flatMap_cons, List.flatMap_singleton, show View.vals _ l (.upair a) = View.pairVals _ l a from rfl, View.pairVals_eq] at e
  rw [Env.pair, Env.val, Env.val, Env.val, e]
  exact ⟨(Op.opnd2_eq l a).symm, rfl⟩

theorem leastSigned_eq (e : Env) : leastSigned (e.lanes.map fun n => e.val n 0) = foldLanes e minS := by
  unfold foldLanes
  cases e.lanes with
  | nil => rfl
  | cons x t => exact List.foldl_map

theorem greatestSigned_eq (e : Env) : greatestSigned (e.lanes.map fun n => e.val n 0) = foldLanes e maxS := by
  unfold foldLanes
  cases e.lanes with
  | nil => rfl
  | cons x t => exact List.foldl_map

/-- The instruction writes words for kD once for the gang, and they are those of the manual. -/
def IsUni (i : Instr) (o : Op) (h : Hints) : Prop :=
  ∃ (op : Hints → Op) (nw : Bool) (d : Nat) (f : Env → Nat → List Word), op h = o ∧ (∀ s, exec i s = run i op s) ∧ UniOp o nw d f ∧
    ∀ s gk g m, (o.given s gk g m h).lanes = lanesOf m →
      uniResult (allReads o s g m h) (readsOf o s g m h ((lanesOf m).headD 0)) i = some (d, nw, f (o.given s gk g m h) ((lanesOf m).headD 0))

theorem isUni_of_uniResult {i : Instr} (ho : opOf i h = some o) {u : Reads1} {r : Nat × Bool × List Word} (hr : uniResult (allReads o s g m h) u i = some r) :
    IsUni i o h := by
  cases i with
  | uadd | usub | umul | uand | uor | uxor | ushr | ushl | useq | uslt | umin | umax | umov | uaddi =>
    cases ho
    exact ⟨_, _, _, _, rfl, fun _ => rfl, uni_uniOp, fun _ _ _ _ _ => rfl⟩
  | uadd64 nw d a b =>
    cases ho
    refine ⟨_, nw, d, fun e l => Claims.pairWords (e.pair l 0 + sext64 (e.val l 2)), rfl, fun _ => rfl, ⟨fun _ _ => rfl, rfl, rfl, rfl⟩, fun s gk g m _ => pair_result ?_⟩
    obtain ⟨e1, e2⟩ := given_upair (o := opUadd64 nw d a b h) (s := s) (gk := gk) (g := g) (m := m) (h := h) rfl ((lanesOf m).headD 0)
    rw [e1, e2]
    rfl
  | ballot nw d a =>
    cases ho
    refine ⟨_, _, _, _, rfl, fun _ => rfl, gather_uniOp, fun s gk g m hl => word_result ?_⟩
    rw [hl]
    rfl
  | radd nw d a =>
    cases ho
    refine ⟨_, _, _, _, rfl, fun _ => rfl, gather_uniOp, fun s gk g m hl => word_result ?_⟩
    rw [hl]
    exact List.foldl_map
  | rmin nw d a =>
    cases ho
    refine ⟨_, _, _, _, rfl, fun _ => rfl, gather_uniOp, fun s gk g m hl => word_result ?_⟩
    rw [← leastSigned_eq, hl]
    rfl
  | rmax nw d a =>
    cases ho
    refine ⟨_, _, _, _, rfl, fun _ => rfl, gather_uniOp, fun s gk g m hl => word_result ?_⟩
    rw [← greatestSigned_eq, hl]
    rfl
  | _ => cases hr

/-- An instruction with a uniform destination leaves its words in kD and nothing else. -/
theorem Ready.uni_went {ws : List Word} (R : Ready i o s gk g m h)
    (hr : uniResult (allReads o s g m h) (readsOf o s g m h ((lanesOf m).headD 0)) i = some (d, nw, ws)) :
    ∃ t, exec i s = .next t ∧ Went s t gk g m (fun l => LaneEnd.on (g.th l)) (kWords nw d ws) := by
  obtain ⟨op, nw', d', f, rfl, hex, U, hf⟩ := isUni_of_uniResult R.op hr
  obtain ⟨rfl, rfl, rfl⟩ := delivered_eq ((hf s gk g m R.acc.lanes).symm.trans hr)
  rw [hex]
  exact U.went R.acc

/-! ## RDLANE (R120) -/

/-- What the named lane reads, where that is a value. -/
theorem readLane_of_laneResult {a b : Src} {l d' : Nat} {nw' : Bool} {ws : List Word} (hr : laneResult o s g m h l (.rdlane nw' d' a b) = some (d, nw, ws)) :
    d' = d ∧ nw' = nw ∧ readLane (s.viewOf (o.reader g m) h.imm) a ((o.opnd s g m h .u l b).toNat % 32) = .done { ws := ws } := by
  cases a with
  | d k =>
    have latch : (s.viewOf (o.reader g m) h.imm).g.latch = (o.reader g m).latch := rfl
    rw [readLane, latch]
    rw [laneResult] at hr
    generalize (o.reader g m).latch ((o.opnd s g m h .u l b).toNat % 32) k = x at hr ⊢
    cases x with
    | val x =>
      obtain ⟨rfl, rfl, rfl⟩ := delivered_eq hr
      exact ⟨rfl, rfl, rfl⟩
    | empty | invalid => cases hr
  | _ =>
    obtain ⟨rfl, rfl, rfl⟩ := delivered_eq hr
    exact ⟨rfl, rfl, rfl⟩

theorem rdlane_body {a b : Src} (A : Accepts (opRdlane nw d a b h) s gk g m h) :
    (opRdlane nw d a b h).body (s.setGang gk ((opRdlane nw d a b h).reader g m)) ((opRdlane nw d a b h).given s gk g m h) =
      (s.setGang gk ((opRdlane nw d a b h).reader g m), (lanesOf m).map fun l => (l, readLane (s.viewOf ((opRdlane nw d a b h).reader g m) h.imm) a
        (((opRdlane nw d a b h).opnd s g m h .u ((lanesOf m).headD 0) b).toNat % 32))) := by
  rw [← A.lanes]
  rfl

/-- RDLANE writes kD with what the named lane reads. -/
theorem Ready.rdlane_went {ws : List Word} (R : Ready i o s gk g m h) (hr : laneResult o s g m h ((lanesOf m).headD 0) i = some (d, nw, ws)) :
    ∃ t, exec i s = .next t ∧ Went s t gk g m (fun l => LaneEnd.on (g.th l)) (kWords nw d ws) := by
  obtain ⟨-, ho, A⟩ := R
  cases i with
  | rdlane nw' d' a b =>
    cases ho
    obtain ⟨rfl, rfl, value⟩ := readLane_of_laneResult hr
    exact run_kWords (op := opRdlane nw' d' a b) A (by rw [rdlane_body A, value]) rfl rfl rfl
  | _ => cases hr

/-! ## RFADD (R91, R124) -/

/-- Two nodes of the tree added, their flags collected. -/
def addNodes (mode : Rnd) (p q : FRes) : FRes := ⟨(fp32.add mode p.bits q.bits).bits, p.flags ||| q.flags ||| (fp32.add mode p.bits q.bits).flags⟩

/-- The flags of several nodes together. -/
def orFlags (ts : List FRes) : Nat := ts.foldr (fun t n => t.flags ||| n) 0

/-- One level of the tree adds neighbours: the nodes above are the sums, and the flags of a level are those below with those raised. -/
theorem treeLevel_flatMap (mode : Rnd) (p q : Nat → FRes) (ls : List Nat) :
    (treeLevel mode ((ls.flatMap fun l => [p l, q l]).map FRes.bits)).1 = (ls.map fun l => addNodes mode (p l) (q l)).map FRes.bits ∧
    orFlags (ls.flatMap fun l => [p l, q l]) ||| (treeLevel mode ((ls.flatMap fun l => [p l, q l]).map FRes.bits)).2 =
      orFlags (ls.map fun l => addNodes mode (p l) (q l)) := by
  induction ls with
  | nil => exact ⟨rfl, Nat.or_self 0⟩
  | cons l t ih =>
    obtain ⟨bits, flags⟩ := ih
    refine ⟨congrArg (_ :: ·) bits, ?_⟩
    calc (p l).flags ||| ((q l).flags ||| orFlags (t.flatMap fun l => [p l, q l])) |||
          ((fp32.add mode (p l).bits (q l).bits).flags ||| (treeLevel mode ((t.flatMap fun l => [p l, q l]).map FRes.bits)).2)
        = ((p l).flags ||| (q l).flags ||| (fp32.add mode (p l).bits (q l).bits).flags) |||
          (orFlags (t.flatMap fun l => [p l, q l]) ||| (treeLevel mode ((t.flatMap fun l => [p l, q l]).map FRes.bits)).2) := by ac_rfl
      _ = _ := by rw [flags]; rfl

theorem map_range_double {α : Type} (f : Nat → α) (n : Nat) : (List.range (n * 2)).map f = (List.range n).flatMap fun l => [f (2 * l), f (2 * l + 1)] := by
  induction n with
  | zero => rfl
  | succ n ih =>
    rw [Nat.succ_mul, List.range_succ, List.range_succ, List.range_succ, List.flatMap_append, ← ih]
    simp [Nat.mul_comm]

/-- The tree from level k on is the node of the manual's tree n levels above. -/
theorem treeSum_level (mode : Rnd) (x : Nat → Nat) (n : Nat) : ∀ k,
    treeSum mode n (((List.range (2 ^ n)).map (laneTree.level x (addNodes mode) k)).map FRes.bits)
      (orFlags ((List.range (2 ^ n)).map (laneTree.level x (addNodes mode) k))) = laneTree.level x (addNodes mode) (k + n) 0 := by
  induction n with
  | zero =>
    intro k
    simp [treeSum, orFlags]
  | succ n ih =>
    intro k
    obtain ⟨bits, flags⟩ := treeLevel_flatMap mode (fun l => laneTree.level x (addNodes mode) k (2 * l)) (fun l => laneTree.level x (addNodes mode) k (2 * l + 1))
      (List.range (2 ^ n))
    rw [Nat.pow_succ, map_range_double, treeSum]
    rw [bits, flags, show k + (n + 1) = k + 1 + n by omega, ← ih (k + 1)]
    rfl

theorem orFlags_leaves (x : Nat → Nat) (ls : List Nat) : orFlags (ls.map fun l => ⟨x l, 0⟩) = 0 := by
  induction ls with
  | nil => rfl
  | cons l t ih => rw [List.map_cons, orFlags, List.foldr_cons, ← orFlags, ih]; exact Nat.or_self 0

/-- A leaf of the tree: what a lane that executes reads, and +0.0 for any other. -/
def laneLeaf (r : ReadsAll) (a : Src) (l : Nat) : Nat := if r.lanes.contains l then ((r.lane l).x .f a).toNat else 0

theorem laneTree_eq (r : ReadsAll) (a : Src) : laneTree h r a = laneTree.level (laneLeaf r a) (addNodes h.rnd) 5 0 := rfl

/-- The sum of RFADD is the balanced tree of the manual. -/
theorem laneSum_eq {a : Src} (A : Accepts (opRfadd nw d a h) s gk g m h) :
    laneSum h.rnd ((opRfadd nw d a h).given s gk g m h) = laneTree h (allReads (opRfadd nw d a h) s g m h) a := by
  have leaves : laneTree.level (laneLeaf (allReads (opRfadd nw d a h) s g m h) a) (addNodes h.rnd) 0 =
      fun l => ⟨laneLeaf (allReads (opRfadd nw d a h) s g m h) a l, 0⟩ := rfl
  have tree := treeSum_level h.rnd (laneLeaf (allReads (opRfadd nw d a h) s g m h) a) 5 0
  rw [leaves, orFlags_leaves, List.map_map, ← laneTree_eq] at tree
  rw [laneSum, A.lanes]
  exact tree

/-- A flag raised is enabled in an active lane (R26). -/
theorem Accepts.any_traps (A : Accepts o s gk g m h) (raised : Nat) :
    ((o.given s gk g m h).lanes.any fun l => ((o.given s gk g m h).g.th l).traps raised) = true ↔ ∃ l ∈ lanesOf m, raised &&& bitsAt (g.th l).fps.toNat 8 5 ≠ 0 := by
  rw [A.lanes, List.any_eq_true]
  refine exists_congr fun l => and_congr_right fun hl => ?_
  have fps : ((o.given s gk g m h).g.th l).fps = (g.th l).fps := (A.reader_th hl).2.1
  rw [Thread.traps, fps, bne_iff_ne]

theorem rfadd_body {a : Src} {r : FRes} {out : LaneOut} (A : Accepts (opRfadd nw d a h) s gk g m h) (hr : laneTree h (allReads (opRfadd nw d a h) s g m h) a = r)
    (hout : (if ((opRfadd nw d a h).given s gk g m h).lanes.any fun l => (((opRfadd nw d a h).given s gk g m h).g.th l).traps r.flags then .fault (fpFault r.flags)
      else .done { ws := [word r.bits], set := fun t => t.raise_ r.flags }) = out) :
    (opRfadd nw d a h).body (s.setGang gk ((opRfadd nw d a h).reader g m)) ((opRfadd nw d a h).given s gk g m h) =
      (s.setGang gk ((opRfadd nw d a h).reader g m), (lanesOf m).map fun l => (l, out)) := by
  refine perLane_eq A rfl fun l _ => ?_
  rw [← hout, ← hr, ← laneSum_eq A]

/-- RFADD writes the tree sum to kD and raises its flags in every lane. -/
theorem rfadd_went {a : Src} (A : Accepts (opRfadd nw d a h) s gk g m h) {r : FRes} (hr : laneTree h (allReads (opRfadd nw d a h) s g m h) a = r)
    (quiet : ∀ l ∈ lanesOf m, r.flags &&& bitsAt (g.th l).fps.toNat 8 5 = 0) :
    ∃ t, exec (.rfadd nw d a) s = .next t ∧ Went s t gk g m (fun l => { LaneEnd.on (g.th l) with fps := (g.th l).fps ||| word (r.flags % 64) })
      (kWords nw d [word r.bits]) := by
  have none_traps : ¬ ∃ l ∈ lanesOf m, r.flags &&& bitsAt (g.th l).fps.toNat 8 5 ≠ 0 := fun ⟨l, hl, hne⟩ => hne (quiet l hl)
  obtain ⟨t, ht, w⟩ := run_uni (i := .rfadd nw d a) (op := opRfadd nw d a) A (rfadd_body A hr (if_neg (mt (A.any_traps r.flags).1 none_traps))) rfl rfl rfl
    fun _ => raise_setsOnly r.flags
  refine ⟨t, ht, w.congr (fun l hl => ?_) fun _ => rfl⟩
  obtain ⟨_, p2, p3, p4⟩ := A.reader_th hl
  exact ⟨fun _ _ => rfl, rfl, congrArg (· ||| word (r.flags % 64)) p2.symm, p3.symm, p4.symm, rfl⟩

/-- RFADD freezes every lane where a flag raised is enabled in one of them. -/
theorem rfadd_faults {a : Src} (A : Accepts (opRfadd nw d a h) s gk g m h) {r : FRes} (hr : laneTree h (allReads (opRfadd nw d a h) s g m h) a = r)
    (traps : ∃ l ∈ lanesOf m, r.flags &&& bitsAt (g.th l).fps.toNat 8 5 ≠ 0) :
    ∃ t, exec (.rfadd nw d a) s = .next t ∧ TakesFault s t gk g m ⟨cFp, r.flags % 32, 0⟩ :=
  run_fault (op := opRfadd nw d a) A (rfadd_body A hr (if_pos ((A.any_traps r.flags).2 traps)))

end Sys2Proof.Machine
end

section

open Sys2Proof Sys2Proof.Machine Sys2Proof.Claims

/-- Settles O10: the words of the cross-lane, the uniform and the reducing instructions, and RFADD's tree, of which no lane or every lane faults. -/
theorem laneResults : Obligations.LaneResults := by
  unfold Obligations.LaneResults
  refine ⟨fun _ _ _ _ _ _ _ _ _ _ R hr => R.cross_went hr, fun _ _ _ _ _ _ _ _ _ _ R hr => R.uni_went hr, fun _ _ _ _ _ _ _ _ _ R => ⟨fun _ hr => R.rdlane_went hr, ?_, ?_⟩⟩
  · rintro a rfl quiet
    obtain ⟨-, ho, A⟩ := R
    cases ho
    exact rfadd_went A rfl quiet
  · rintro a rfl traps
    obtain ⟨-, ho, A⟩ := R
    cases ho
    exact rfadd_faults A rfl traps

end
